-- ==== Sys2Proof/Word.lean ====
section
/-! DEFINITION. The word types of the BF8 and their plainest arithmetic. -/

namespace Sys2Proof

/-- A general register, a system register word, an address (R23). -/
abbrev W64 := BitVec 64

/-- A vector register (R23). -/
abbrev V512 := BitVec 512

/-- A mask register (R23). -/
abbrev K32 := BitVec 32

/-- An instruction word (R220). -/
abbrev Half := BitVec 16

/-- One byte of any memory (R4). -/
abbrev Byte := BitVec 8

/-- A program counter: a halfword offset into the instruction store (R218). -/
abbrev Pc := BitVec 15

/-- The one-bit truth value an instruction writes into a general register. -/
def boolWord (p : Bool) : W64 := if p then 1 else 0

end Sys2Proof
end

