-- ==== Sys2Proof/Params.lean ====
section
/-! DEFINITION. The parameter types of the operations of Syntax.lean: the fields of an instruction group, an access on
its way to a home, and the records the events carry. -/

namespace Sys2Proof

/-- The fields of a decoded group (R220 to R226). A field the form does not have is zero. `imm` is the extended,
unscaled immediate of R224; `xp` says that an XP word stands in the group, `xr` that an XR word does, `nxi` counts the
XI words; `xk` is the mask register and its inversion. -/
structure Fld where
  d : BitVec 5 := 0
  a : BitVec 5 := 0
  b : BitVec 5 := 0
  f : Bool := false
  mode : BitVec 2 := 0
  imm : W64 := 0
  xp : Bool := false
  xr : Bool := false
  nxi : Nat := 0
  xk : Option (Bool × BitVec 3) := none
  ta : Bool := false
  tb : Bool := false
  td : Bool := false
deriving DecidableEq, Repr

/-- The nine atomics of R284. -/
inductive AtomOp where
  | add | smin | smax | umin | umax | and | or | xor | swp
deriving DecidableEq, Repr

/-- The forms that make an access at a home (R278): scalar and vector loads and stores, VLDF, gather and scatter, the
atomics, CAS, the acquiring and releasing forms; and the other forms a replay record may hold (R189). -/
inductive AccOp where
  | ld (size : Nat) (signed : Bool)
  | st (size : Nat)
  | vld | vst | vldf (view16 : Bool) | gath | scat
  | atom (o : AtomOp)
  | cas | acq | rel
  | swadd | dcdec | tqry
deriving DecidableEq, Repr

/-- An access on its way to its home: what its form captured at issue (R34, R189, R278, R279). `tag` is its place in the
order of issue; `dest` the code of its destination register (g n: n, v n: 32 + n, k n: 64 + n); `d0` the store data or
operand; `d1` CAS's expected value; `vec` the data of VST and VSCAT; `offs` the lane offsets of VGATH and VSCAT; `lanes`
the enabled lanes; `fall` GUARDMODE.FALLBACK; `nb` a non-blocking ACQ; `opc` page and op6 of the base word; `region` the
region the unit is a member of, if any. -/
structure Access where
  op : AccOp
  slot : Nat
  gen : BitVec 32
  tag : Nat
  pc : Pc
  part : Nat
  level : W64
  mode : BitVec 2
  ea : W64
  dest : Nat
  d0 : W64
  d1 : W64
  vec : V512
  offs : V512
  lanes : BitVec 32
  masked : Bool
  fall : Bool
  nb : Bool
  opc : Nat
  region : Option W64
  heard : Nat := 0
deriving DecidableEq, Repr

/-- What a home answers to one piece of an access (R61, R71, R185). -/
inductive Reply where
  | value (v : V512)
  | refused (cause : Nat) (addr : W64)
  | fault (page : Nat)
deriving DecidableEq, Repr

/-- A fault record on its way to the fault service (R72): partition, page, and who waits: a slot (`engine` 0), a courier's
copy (1), a term array (2), a dependence counter (3), which hold the operation themselves (R75), a write of a killed unit (4,
R175), or a completion's update of a sync word (5), by its number `id`; the cluster `src` whose NI has sent it, and whether a router has
let it pass unmerged since an entry of a merge table last held it (R73). -/
structure FaultRec where
  part : Nat
  page : Nat
  slot : Nat
  gen : BitVec 32
  engine : Nat
  id : Nat
  src : Nat := 0
  loose : Bool := false
deriving DecidableEq, Repr

/-- A wake of the fault tree (R74): the page and its verdict, READY or DENY; `via` is the cluster an unmerged record
came from (R73). -/
structure Wake where
  part : Nat
  page : Nat
  ready : Bool
  via : Option Nat
deriving DecidableEq, Repr

/-- A task record (R95), its source (R148) and the time it was enqueued; `home` is the partition whose Sorting Office keeps its
launch (R328); `launched` stays with a stolen record that was written for a LAUNCH packet (R403), `qtail` the number of the QTAIL write that copied the
packet (R406). -/
structure TaskRec where
  pc : Pc
  noSteal : Bool
  level : W64
  home : Nat
  pri : Nat
  cls : Nat
  corr : BitVec 32
  pool : W64
  args : List W64
  source : Nat
  phase : Bool
  key : W64
  header : W64
  enq : W64
  launched : Bool := false
  qtail : Nat := 0
deriving DecidableEq, Repr

/-- A message on a route from core `src` to core `dst` (R80, R197): a task record, or an active entry that starts a unit
(`gen` 0) or wakes one. `after` are the stores of the sender that must be performed before it is placed, `lines` the fetch-buffer lines they wrote;
`place` is where it is sent; `slot`, `sgen` and `tag` name the group that waits for it, and `idx` its place in a list. -/
structure Msg where
  src : Nat
  dst : Nat
  cls : Nat
  gen : BitVec 32
  part : Nat
  isTask : Bool
  body : TaskRec
  seq : Nat
  after : List Nat
  lines : List Nat
  tries : Nat
  place : W64
  slot : Nat
  sgen : BitVec 32
  tag : Nat
  idx : Nat
deriving DecidableEq, Repr

/-- A request of a tabled form (R358 to R363): 0 TCALL, 1 TPIN, 2 TUNPIN, 3 TINV, 4 TQRY; who asks, the descriptor's address,
the argument words captured at issue, the issuer's level, TQRY's word index, and the descriptor's words once read. -/
structure TabledReq where
  kind : Nat
  slot : Nat
  gen : BitVec 32
  tag : Nat
  part : Nat
  desc : W64
  args : List W64
  level : W64
  home : Nat
  idx : Nat
  words : List W64
deriving DecidableEq, Repr

/-- What a tabled call delivers to a slot (R356, R357): 0 an answer to a TCALL or a CONSUMER, 1 the caller enters the callee as
producer, 2 an untabled call, 3 a TRET or MEMBER returns, 4 the leader runs again, 5 a CONSUMER re-executes its TCALL, 6 a trap
at the group with `cause` and `info`, whose group entries `pops` are popped; the answer words, g3, the entry pushed, and the
descriptor's words for a return PC and answer copy. -/
structure TabledMsg where
  kind : Nat
  slot : Nat
  gen : BitVec 32
  tag : Nat
  ans : List W64
  g3 : W64
  entry : W64
  args : List W64
  words : List W64
  cause : Nat
  info : W64
  pops : List Nat
deriving DecidableEq, Repr

/-- An update on its way to a level record (R137): the level, whether it adds, by how much, the errors it records, and
the answered form that waits for it (`ack`), or the message whose increment it is (`tag`); `addr` the offending operand; `clear` says that it is
the news, sent once the level is DONE, on which its Pigeonhole entries are freed (R111). -/
structure LevelUpd where
  part : Nat
  level : W64
  add : Bool
  n : Nat
  err : Nat
  slot : Nat
  gen : BitVec 32
  tag : Nat
  ack : Bool
  addr : W64
  clear : Bool := false
deriving DecidableEq, Repr

end Sys2Proof
end

