-- ==== Sys2Proof/Syntax.lean ====
section
/-! DEFINITION. The operations of the BF8: one constructor per row of the opcode table. The encoded instructions carry
the fields of their group, and act in the slot that State.cur names. ILLEGAL_GROUP and an event carry what they need; an
event without arguments acts on the part whose number State.cur gives (the definition of its meaning says which part),
and takes what an outside party sends with it from State.data. -/

namespace Sys2Proof

/-- One indivisible step of the part: an instruction (R218 to R236) or an event of the machine. -/
inductive Instr where
  /-- R240. Adds two general registers modulo 2^64, or over 32 bits with .w. -/
  | add (x : Fld)
  /-- R240. Subtracts b from a, wrapping. -/
  | sub (x : Fld)
  /-- R240. Bitwise AND of two registers. -/
  | and (x : Fld)
  /-- R240. Bitwise OR of two registers. -/
  | or (x : Fld)
  /-- R240. Bitwise XOR of two registers. -/
  | xor (x : Fld)
  /-- R240. Shifts a left by b[5:0]. -/
  | shl (x : Fld)
  /-- R240. Shifts a right logically by b[5:0]. -/
  | shr (x : Fld)
  /-- R240. Writes the low 64 bits of a times b. -/
  | mul (x : Fld)
  /-- R240. Writes 1 if a is signed-less than b, else 0. -/
  | slt (x : Fld)
  /-- R240. Writes the signed lesser of a and b. -/
  | min (x : Fld)
  /-- R240. Writes the signed greater of a and b. -/
  | max (x : Fld)
  /-- R241. Adds a sign-extended immediate to a. -/
  | addi (x : Fld)
  /-- R241. ANDs a with a zero-extended immediate. -/
  | andi (x : Fld)
  /-- R241. ORs a with a zero-extended immediate. -/
  | ori (x : Fld)
  /-- R241. XORs a with a zero-extended immediate. -/
  | xori (x : Fld)
  /-- R241. Shifts a left by an immediate of 0 to 63. -/
  | shli (x : Fld)
  /-- R241. Shifts a right logically by an immediate. -/
  | shri (x : Fld)
  /-- R241. Shifts a right arithmetically by an immediate. -/
  | srai (x : Fld)
  /-- R241. Writes 1 if a is signed-less than the immediate. -/
  | slti (x : Fld)
  /-- R242. Writes a sign-extended immediate to d. -/
  | movi (x : Fld)
  /-- R242. Writes the immediate shifted left by 32 to d. -/
  | movhi (x : Fld)
  /-- R243. Adds b, or b times 8, to a without checks. -/
  | lea (x : Fld)
  /-- R252. Branches by a sign-extended halfword offset. -/
  | br (x : Fld)
  /-- R252. Writes the return PC to g1 and branches. -/
  | call (x : Fld)
  /-- R253. Jumps to the PC in a, writing the link to d. -/
  | jr (x : Fld)
  /-- R254. Branches when d equals a. -/
  | beq (x : Fld)
  /-- R254. Branches when d differs from a. -/
  | bne (x : Fld)
  /-- R254. Branches when d is signed-less than a. -/
  | blt (x : Fld)
  /-- R254. Branches when d is signed-greater or equal to a. -/
  | bge (x : Fld)
  /-- R254. Branches when d is unsigned-less than a. -/
  | bltu (x : Fld)
  /-- R254. Branches when d is unsigned-greater or equal to a. -/
  | bgeu (x : Fld)
  /-- R254. Branches when d is zero. -/
  | bz (x : Fld)
  /-- R254. Branches when d is non-zero. -/
  | bnz (x : Fld)
  /-- R255. Decrements d and branches back while the result is non-zero. -/
  | loop (x : Fld)
  /-- R281. Loads a byte zero-extended. -/
  | ldBu (x : Fld)
  /-- R281. Loads a halfword zero-extended. -/
  | ldHu (x : Fld)
  /-- R281. Loads a 32-bit word zero-extended. -/
  | ldWu (x : Fld)
  /-- R281. Loads 64 bits. -/
  | ldD (x : Fld)
  /-- R281. Loads a byte sign-extended. -/
  | ldBs (x : Fld)
  /-- R281. Loads a halfword sign-extended. -/
  | ldHs (x : Fld)
  /-- R281. Loads a 32-bit word sign-extended. -/
  | ldWs (x : Fld)
  /-- R281. Stores the low byte of d. -/
  | stB (x : Fld)
  /-- R281. Stores the low halfword of d. -/
  | stH (x : Fld)
  /-- R281. Stores the low 32 bits of d. -/
  | stW (x : Fld)
  /-- R281. Stores 64 bits of d. -/
  | stD (x : Fld)
  /-- R283. Loads 64 bytes into a vector register. -/
  | vld (x : Fld)
  /-- R283. Stores a vector register to 64 bytes. -/
  | vst (x : Fld)
  /-- R244. Writes the high 64 bits of the unsigned product. -/
  | mulhu (x : Fld)
  /-- R244. Writes the high 64 bits of the signed product. -/
  | mulhs (x : Fld)
  /-- R246. Divides a by b as a long-latency producer, trapping DIV0 on zero. -/
  | div (x : Fld)
  /-- R246. Writes the remainder of a by b as a long-latency producer. -/
  | rem (x : Fld)
  /-- R244. Counts leading zero bits. -/
  | clz (x : Fld)
  /-- R244. Counts trailing zero bits. -/
  | ctz (x : Fld)
  /-- R244. Counts set bits. -/
  | popc (x : Fld)
  /-- R244. Rotates a left by b. -/
  | rot (x : Fld)
  /-- R245. Extracts a bit field zero-extended. -/
  | extu (x : Fld)
  /-- R245. Extracts a bit field sign-extended. -/
  | exts (x : Fld)
  /-- R245. Inserts the low bits of a into a field of d. -/
  | ins (x : Fld)
  /-- R248. Adds two FP32 values, rounding once. -/
  | fadd (x : Fld)
  /-- R248. Subtracts two FP32 values. -/
  | fsub (x : Fld)
  /-- R248. Multiplies two FP32 values. -/
  | fmul (x : Fld)
  /-- R248. Computes a times b plus d exactly and rounds once. -/
  | fma (x : Fld)
  /-- R248. Writes the lesser FP32 value. -/
  | fmin (x : Fld)
  /-- R248. Writes the greater FP32 value. -/
  | fmax (x : Fld)
  /-- R248. Writes 1 when a is less than b in FP32. -/
  | flt (x : Fld)
  /-- R248. Writes 1 when a equals b in FP32. -/
  | feq (x : Fld)
  /-- R249. Converts an integer to FP32. -/
  | fcvtf (x : Fld)
  /-- R249. Converts FP32 to a saturated integer. -/
  | fcvti (x : Fld)
  /-- R250. Divides two FP32 values as a long-latency producer. -/
  | fdiv (x : Fld)
  /-- R250. Takes the FP32 square root as a long-latency producer. -/
  | fsqrt (x : Fld)
  /-- R260. Adds integer lanes. -/
  | vadd (x : Fld)
  /-- R260. Subtracts integer lanes. -/
  | vsub (x : Fld)
  /-- R260. Multiplies integer lanes, keeping the low bits. -/
  | vmul (x : Fld)
  /-- R260. Takes the signed lesser per lane. -/
  | vmin (x : Fld)
  /-- R260. Takes the signed greater per lane. -/
  | vmax (x : Fld)
  /-- R260. Bitwise AND per lane. -/
  | vand (x : Fld)
  /-- R260. Bitwise OR per lane. -/
  | vor (x : Fld)
  /-- R260. Bitwise XOR per lane. -/
  | vxor (x : Fld)
  /-- R260. Shifts lanes left. -/
  | vshl (x : Fld)
  /-- R260. Shifts lanes right logically. -/
  | vshr (x : Fld)
  /-- R261. Adds FP lanes. -/
  | vfadd (x : Fld)
  /-- R261. Subtracts FP lanes. -/
  | vfsub (x : Fld)
  /-- R261. Multiplies FP lanes. -/
  | vfmul (x : Fld)
  /-- R261. Fused multiply-add per FP lane. -/
  | vfma (x : Fld)
  /-- R261. Lesser per FP lane. -/
  | vfmin (x : Fld)
  /-- R261. Greater per FP lane. -/
  | vfmax (x : Fld)
  /-- R262. Sets mask bits where FP a is less than b. -/
  | vfclt (x : Fld)
  /-- R262. Sets mask bits where FP a is at most b. -/
  | vfcle (x : Fld)
  /-- R262. Sets mask bits where FP lanes are equal. -/
  | vfceq (x : Fld)
  /-- R262. Sets mask bits where signed integer a is less than b. -/
  | viclt (x : Fld)
  /-- R262. Sets mask bits where integer lanes are equal. -/
  | viceq (x : Fld)
  /-- R263. Selects each lane from a or b by the XK mask. -/
  | vsel (x : Fld)
  /-- R264. Broadcasts the low bits of a general register to every lane. -/
  | vbcast (x : Fld)
  /-- R264. Extracts one lane into a general register. -/
  | vext (x : Fld)
  /-- R264. Inserts a general register into one lane. -/
  | vins (x : Fld)
  /-- R265. Permutes lanes by an index vector. -/
  | vperm (x : Fld)
  /-- R266. Reduces FP lanes by a pairwise rounding tree. -/
  | vrsum (x : Fld)
  /-- R268. Computes 2^x per lane as a long-latency producer. -/
  | vfexp2 (x : Fld)
  /-- R268. Computes log2 x per lane. -/
  | vflog2 (x : Fld)
  /-- R268. Computes 1/x per lane. -/
  | vfrcp (x : Fld)
  /-- R268. Computes 1/sqrt x per lane. -/
  | vfrsq (x : Fld)
  /-- R270. Converts lane elements by a conversion code. -/
  | vcvt (x : Fld)
  /-- R269. Scales FP lanes by 2^n. -/
  | vscale (x : Fld)
  /-- R267. Returns the greatest absolute lane value. -/
  | vamax (x : Fld)
  /-- R271. Gathers 16 words from base plus lane offsets. -/
  | vgath (x : Fld)
  /-- R271. Scatters 16 words to base plus lane offsets. -/
  | vscat (x : Fld)
  /-- R274. Loads and decodes 16 elements into FP32 lanes. -/
  | vldf (x : Fld)
  /-- R276. ANDs two mask registers. -/
  | kand (x : Fld)
  /-- R276. ORs two mask registers. -/
  | kor (x : Fld)
  /-- R276. XORs two mask registers. -/
  | kxor (x : Fld)
  /-- R276. Inverts a mask register. -/
  | knot (x : Fld)
  /-- R276. Copies a mask register to a general register. -/
  | ktog (x : Fld)
  /-- R276. Copies the low 32 bits of a general register to a mask. -/
  | gtok (x : Fld)
  /-- R284. Atomically adds and returns the old value. -/
  | aadd (x : Fld)
  /-- R284. Atomic signed minimum. -/
  | asmin (x : Fld)
  /-- R284. Atomic signed maximum. -/
  | asmax (x : Fld)
  /-- R284. Atomic unsigned minimum. -/
  | aumin (x : Fld)
  /-- R284. Atomic unsigned maximum. -/
  | aumax (x : Fld)
  /-- R284. Atomic AND. -/
  | aand (x : Fld)
  /-- R284. Atomic OR. -/
  | aor (x : Fld)
  /-- R284. Atomic XOR. -/
  | axor (x : Fld)
  /-- R284. Atomic swap. -/
  | aswp (x : Fld)
  /-- R285. Compares with d and swaps in b when equal, returning the old value. -/
  | cas (x : Fld)
  /-- R198. Waits for the thread's accesses and orders two paths. -/
  | fence (x : Fld)
  /-- R289. Acquires a sync object, waiting for a non-zero first word. -/
  | acq (x : Fld)
  /-- R290. Releases a sync object after the bound writes are acknowledged. -/
  | rel (x : Fld)
  /-- R291. Adds or clears a range binding of a sync object on the core. -/
  | bind (x : Fld)
  /-- R293. Starts a courier copy of one contiguous range. -/
  | cpy (x : Fld)
  /-- R294. Starts a strided courier copy from a descriptor. -/
  | cpys (x : Fld)
  /-- R294. Starts a copy with a named completion place. -/
  | cpy3 (x : Fld)
  /-- R294. Starts a multicast copy to consecutive cores. -/
  | cpym (x : Fld)
  /-- R298. Sets or clears guard bits of scratchpad granules. -/
  | guard (x : Fld)
  /-- R299. Looks a tag up in the tag table. -/
  | tglook (x : Fld)
  /-- R299. Sets a tag-table entry. -/
  | tgset (x : Fld)
  /-- R299. Invalidates a tag-table entry. -/
  | tgclr (x : Fld)
  /-- R299. Writes the tag-table configuration and invalidates every entry. -/
  | tgcfg (x : Fld)
  /-- R304. Requests the term-array lease. -/
  | mxlease (x : Fld)
  /-- R305. Queues release of the lease. -/
  | mxfree (x : Fld)
  /-- R306. Checks and queues a configuration block. -/
  | mxcfg (x : Fld)
  /-- R309. Checks and queues an unfolding descriptor. -/
  | mxunf (x : Fld)
  /-- R310. Replaces the B source and prefetches B rows. -/
  | mxldb (x : Fld)
  /-- R316. Queues clearing of every lane. -/
  | mxzero (x : Fld)
  /-- R311. Queues a run over k-steps. -/
  | mxrun (x : Fld)
  /-- R317. Queues a rounded readout of selected lanes. -/
  | mxrd (x : Fld)
  /-- R318. Queues a readout of lanes as two-word partials. -/
  | mxrdx (x : Fld)
  /-- R321. Samples term counters, column flags or array status. -/
  | mxstat (x : Fld)
  /-- R315. Requests a stop of the run at its next stop point. -/
  | mxstop (x : Fld)
  /-- R315. Clears a held stop and lets a stopped run continue. -/
  | mxresume (x : Fld)
  /-- R320. Waits for the holder's earlier commands and returns status. -/
  | mxwait (x : Fld)
  /-- R327. Sends an active message to a place. -/
  | send (x : Fld)
  /-- R329. Sends an active message to every member of a multicast group. -/
  | sendm (x : Fld)
  /-- R330. Binds a closed port to a remote port. -/
  | popen (x : Fld)
  /-- R331. Closes a port. -/
  | pclose (x : Fld)
  /-- R331. Puts a closed port into LISTEN. -/
  | plisten (x : Fld)
  /-- R333. Returns a port's status. -/
  | pstat (x : Fld)
  /-- R334. Declares a Confluence queue and returns its handle. -/
  | cqdecl (x : Fld)
  /-- R336. Pushes a keyed arrival to its home slice. -/
  | cqpush (x : Fld)
  /-- R337. Pops an eligible record from a hold-mode queue. -/
  | cqpop (x : Fld)
  /-- R338. Reads a queue's counters or indices in the local slice. -/
  | cqstat (x : Fld)
  /-- R339. Adds two two-word partials. -/
  | rdxadd (x : Fld)
  /-- R341. Enters a timed release into the wheel. -/
  | twrel (x : Fld)
  /-- R340. Returns the wheel's current tick time. -/
  | time (x : Fld)
  /-- R342. Sets and arms a dependence counter. -/
  | dcset (x : Fld)
  /-- R343. Sends a releasing decrement to a dependence counter. -/
  | dcdec (x : Fld)
  /-- R344. Writes a sync word in one step. -/
  | swinit (x : Fld)
  /-- R345. Waits until a sync-word generation holds. -/
  | swwait (x : Fld)
  /-- R346. Sends a releasing byte count to a sync word. -/
  | swadd (x : Fld)
  /-- R348. Arrives at a barrier object and waits for its generation. -/
  | bar (x : Fld)
  /-- R350. Toggles the partition's phase tag. -/
  | phflip (x : Fld)
  /-- R351. Waits until a tag is quiet and a level is done. -/
  | quiet (x : Fld)
  /-- R358. Calls a tabled function through the Pigeonhole. -/
  | tcall (x : Fld)
  /-- R360. Publishes a tabled answer and returns. -/
  | tret (x : Fld)
  /-- R361. Sets the provisional answer of the current entry. -/
  | tseed (x : Fld)
  /-- R362. Pins a complete Pigeonhole entry. -/
  | tpin (x : Fld)
  /-- R362. Unpins a complete Pigeonhole entry. -/
  | tunpin (x : Fld)
  /-- R362. Invalidates a Pigeonhole entry. -/
  | tinv (x : Fld)
  /-- R363. Reads one word of a Pigeonhole entry. -/
  | tqry (x : Fld)
  /-- R366. Creates an atomic region record. -/
  | arnew (x : Fld)
  /-- R367. Asks to join a region. -/
  | aren (x : Fld)
  /-- R368. Prepares the member's lines, votes and takes the outcome. -/
  | arcom (x : Fld)
  /-- R369. Asks the coordinator to abort the issuer's region. -/
  | arabt (x : Fld)
  /-- R370. Reads a word of a region record. -/
  | arinfo (x : Fld)
  /-- R373. Increases a level's OUTSTANDING. -/
  | lvinc (x : Fld)
  /-- R373. Decreases a level's OUTSTANDING as a release. -/
  | lvdec (x : Fld)
  /-- R374. Waits until a level is done and returns its record word 0. -/
  | lvwait (x : Fld)
  /-- R375. Cancels a level. -/
  | lvcancel (x : Fld)
  /-- R376. Traps SWTRAP with the immediate in TRAPINFO. -/
  | trap (x : Fld)
  /-- R377. Returns from a trap handler. -/
  | rft (x : Fld)
  /-- R378. Reads a system register. -/
  | sysr (x : Fld)
  /-- R378. Writes a system register. -/
  | sysw (x : Fld)
  /-- R379. Ends the unit after its accesses complete. -/
  | exit (x : Fld)
  /-- R380. Pre-empts the issuing context at once. -/
  | yield (x : Fld)
  /-- R381. Sets the launch's heartbeat window. -/
  | persist (x : Fld)
  /-- R381. Clears the launch's heartbeat counter. -/
  | beat (x : Fld)
  /-- R382. Halts the cluster or traps BREAK. -/
  | brk (x : Fld)
  /-- R237. A group that is not an instruction traps ILLEGAL or FETCH. -/
  | illegalGroup (fetch : Bool) (word : Half) (pos : Nat) (addr : W64)
  /-- R186. A CANCEL, AR_ABORT or persistent WATCHDOG arrives for a unit and is held pending. -/
  | asyncCauseDelivery (slot : Nat) (gen : BitVec 32) (cause : Nat)
  /-- R27. A long-latency value arrives, is written and sets the register FULL, or is dropped on a GEN mismatch. -/
  | fill (slot : Nat) (gen : BitVec 32) (tag : Nat) (v : V512)
  /-- R279. A remote store or posted form is acknowledged and frees its outstanding entry. -/
  | accessAcknowledge (slot : Nat) (gen : BitVec 32) (tag : Nat)
  /-- R196. A held posted release is sent once the writes it waits for are acknowledged. -/
  | releaseSend (slot : Nat) (gen : BitVec 32) (tag : Nat)
  /-- R185. A remote refusal stops issue for the slot. -/
  | refusalArrival (slot : Nat) (gen : BitVec 32) (tag : Nat) (cause : Nat) (addr : W64)
  /-- R72. A fault reply stops issue and starts awaiting the slot's accesses. -/
  | faultReply (slot : Nat) (gen : BitVec 32) (tag : Nat) (page : Nat)
  /-- R73. A router merges or forwards a fault record. -/
  | faultRecordAtRouter (router : Nat) (port : Nat) (r : FaultRec)
  /-- R73. A router fans a wake out to its child ports and frees the entry. -/
  | faultWakeAtRouter (router : Nat) (w : Wake)
  /-- R74. A cluster NI passes a wake to its waiting slots and engines. -/
  | faultWake (cluster : Nat) (w : Wake)
  /-- R179. A bounded wait expires and traps WAIT_TIMEOUT. -/
  | waitTimeout (slot : Nat) (gen : BitVec 32) (attempt : Nat)
  /-- R144. A slot's wait counter reaches WDOGWIN and traps WATCHDOG. -/
  | watchdog (slot : Nat) (gen : BitVec 32) (attempt : Nat)
  /-- R328. After the launch increment is acknowledged the active entry is injected. -/
  | messageInjection (m : Msg)
  /-- R81. An NI places an arriving entry in its ring, refuses it or drops it. -/
  | messageArrival (m : Msg)
  /-- R81. A refused message is retried after its backoff. -/
  | messageRetry (m : Msg)
  /-- R58. An access arrives at a core, is checked and performed at its home. -/
  | scratchpadAccess (a : Access) (i : Nat)
  /-- R121. An access arrives at a memory slice, is translated, checked and performed or entered in the write set. -/
  | sliceAccess (a : Access) (i : Nat)
  /-- R133. A byte count updates a sync word at its home and wakes waiters. -/
  | syncWordUpdate (a : Access) (copy : Nat)
  /-- R135. A decrement reaches a dependence counter. -/
  | dcDecrement (part : Nat) (name : Nat) (n : Nat) (slot : Nat) (gen : BitVec 32) (tag : Nat)
  /-- R342. A DCSET writes the counter at its cluster. -/
  | dcSetArrival (part : Nat) (name : Nat) (count : BitVec 32) (recd : W64) (level : W64) (home : Nat) (slot : Nat) (gen : BitVec 32) (tag : Nat)
  /-- R94. A task record enters a cluster ready queue or is refused. -/
  | recordEnqueue (cluster : Nat) (r : TaskRec)
  /-- R94. A source retries an enqueue refused by a full ready queue. -/
  | enqueueRetry (cluster : Nat) (r : TaskRec)
  /-- R137. An update to OUTSTANDING arrives at the Sorting Office. -/
  | levelUpdate (u : LevelUpd)
  /-- R111. A TCALL request is handled against its home set. -/
  | tabledRequest (r : TabledReq)
  /-- R114. A producer chain walk returns and forms a group or suspends the caller. -/
  | chainWalkResult (r : TabledReq) (cycle : Bool) (members : List (Nat × Nat)) (stamps : List W64)
  /-- R116. A TRET or TSEED answer is applied at the home entry. -/
  | tabledAnswer (kind : Nat) (part : Nat) (entry : W64) (ans : List W64) (slot : Nat) (gen : BitVec 32) (tag : Nat)
  /-- R356. An answer or wake is delivered to a receiving slot. -/
  | tabledDelivery (d : TabledMsg)
  /-- R111. The kill of a producer resets its entry and wakes consumers. -/
  | producerKill (cluster : Nat) (idx : Nat) (slot : Nat) (gen : BitVec 32)
  /-- R124. The kill of a member reaches the coordinator. -/
  | regionMemberKilled (part : Nat) (region : W64) (slot : Nat) (gen : BitVec 32)
  /-- R348. A BAR arrival updates the barrier object and may complete a generation. -/
  | barrierArrival (part : Nat) (addr : W64) (slot : Nat) (gen : BitVec 32) (tag : Nat) (nb : Bool)
  /-- R349. A departing unit's registration updates a barrier object. -/
  | barrierDeparture (part : Nat) (addr : W64) (slot : Nat) (gen : BitVec 32) (bgen : BitVec 32)
  /-- R84. A stream word arrives at a receiving port. -/
  | streamWordArrival (core : Nat) (port : Nat) (src : Nat) (srcPort : Nat) (v : W64)
  /-- R186. A pending asynchronous cause is taken at a group boundary. -/
  | asyncCauseTaken
  /-- R185. Once the slot's accesses settle, the earliest refused access decides the trap. -/
  | refusalTrap
  /-- R72. The context, replay records and fault records are saved and sent and the slot is freed. -/
  | faultSave
  /-- R66. A translation shoot-down reaches the slices and is acknowledged. -/
  | shootdown
  /-- R184. An idle slot restores a saved context and starts its replay. -/
  | contextRestore
  /-- R82. An idle slot takes its ring entry and starts a unit. -/
  | unitStart
  /-- R183. A pre-emption request is honoured and the context is saved. -/
  | preemption
  /-- R183. After 2^16 groups with no point the context is fully saved. -/
  | preemptionForced
  /-- R182. A scheduler record waiting 2^12 cycles requests pre-emption of a lower-priority slot. -/
  | preemptRequest
  /-- R145. The heartbeat counter of a persistent launch advances every 1,024 cycles. -/
  | heartbeatTick
  /-- R145. The heartbeat reaches its window, raising WATCHDOG or cancelling the launch. -/
  | heartbeatExpiry
  /-- R70. An uncorrectable error raises a partition-level fault. -/
  | eccUncorrectable
  /-- R295. A courier accepts a copy piece and checks the source side. -/
  | copyAccept
  /-- R296. Copy bytes arrive at their destination home and are checked and written. -/
  | copyDelivery
  /-- R292. After every byte is performed the completion target is applied. -/
  | copyCompletion
  /-- R135. The record read for a fired counter returns and is enqueued. -/
  | dcFire
  /-- R94. The scheduler passes a selected record to a core's ring. -/
  | schedulerDispatch
  /-- R94. A record waiting 2^16 cycles is raised one level. -/
  | priorityAging
  /-- R96. An empty scheduler probes neighbours for a record every 512 cycles. -/
  | stealProbe
  /-- R176. Each cluster reports its counts to the Sorting Office every 1,024 cycles. -/
  | clusterReport
  /-- R176. The Sorting Office places one unit of a launch. -/
  | unitPlacement
  /-- R177. A gang is placed with its ports preset when all members can start. -/
  | gangPlacement
  /-- R141. The Sorting Office sums phase counters every 4,096 cycles. -/
  | phaseSweep
  /-- R350. A phase flip is performed at the Sorting Office. -/
  | phflipArrival
  /-- R97. The timer wheel advances a 256 ns tick. -/
  | timerTick
  /-- R97. A due release writes its record to the target ready queue. -/
  | timerRelease
  /-- R424. A STAGGER message sets the device's release offset. -/
  | stagger
  /-- R407. A PTP message disciplines PTPTIME. -/
  | ptpMessage
  /-- R334. A queue declaration reaches a slice and releases held requests. -/
  | cqDeclarationArrival
  /-- R87. A push creates or combines a record at its home slice. -/
  | cqPushArrival
  /-- R93. A push that met a full queue is retried by the NI. -/
  | cqPushRetry
  /-- R337. A pop request is served or parked at the slice. -/
  | cqPopRequest
  /-- R89. An eligible record is sealed and dispatched or delivered. -/
  | confluenceSelect
  /-- R124. A join request is admitted or refused at the coordinator. -/
  | regionMemberJoin
  /-- R122. PREPARE marks a member's W entries in a slice prepared. -/
  | prepare
  /-- R124. A vote reaches the coordinator; the M-th vote is the commit point. -/
  | regionVote
  /-- R123. A slice installs the region's tentative bytes. -/
  | regionInstall
  /-- R124. The last installation acknowledgement commits the region and completes ARCOMs. -/
  | regionInstallAck
  /-- R121. An abort request reaches the coordinator and aborts or is denied. -/
  | regionAbortRequest
  /-- R124. A slice discards the region's entries and releases stalled accesses. -/
  | regionDiscard
  /-- R124. The last discard acknowledgement moves the region to ABORTED. -/
  | regionDiscardAck
  /-- R124. A region's deadline expires and it aborts. -/
  | regionDeadline
  /-- R83. A stream route acquires a channel at the next hop. -/
  | routeHop
  /-- R84. A closing marker arrives and frees the route. -/
  | closingMarkerArrival
  /-- R180. The queued lease request is granted and the array is cleared. -/
  | leaseGrant
  /-- R180. The lease budget runs out, renewing or entering grace. -/
  | leaseBudgetEnd
  /-- R180. Grace ends and the lease is revoked. -/
  | graceEnd
  /-- R301. The sequencer performs the next queued configuration, zero or free command. -/
  | sequencerCommand
  /-- R313. The sequencer fetches, checks and runs one macro step of a run. -/
  | macroStep
  /-- R319. The sequencer performs a readout's writes. -/
  | readout
  /-- R319. After every readout write is performed the completion target is applied. -/
  | readoutCompletion
  /-- R100. A QTAIL write copies new packets into the Headwater or is refused. -/
  | qtailWrite
  /-- R99. Writing 0 to QSTATUS stops the queue. -/
  | qstatusStop
  /-- R99. Writing 1 to QSTATUS resumes the queue from HEAD. -/
  | qstatusResume
  /-- R99. Writing 1 to bit 8 clears CPLERR. -/
  | cplerrClear
  /-- R458. Assigning a queue's owner resets its registers. -/
  | qownWrite
  /-- R98. A write to a register with no behaviour of its own. -/
  | registerWrite
  /-- R406. A host write to second-tier memory is translated and performed. -/
  | hostRmaWrite
  /-- R405. A host read of second-tier memory is translated and returned. -/
  | hostRmaRead
  /-- R102. The next packet is checked and started or rejected. -/
  | packetStart
  /-- R138. A LAUNCH packet makes its levels and places its units. -/
  | launch
  /-- R103. A WAIT packet holds the queue on signal thresholds. -/
  | wait
  /-- R103. A SIGNAL packet adds to or sets a signal. -/
  | signal
  /-- R101. A COPY packet starts a copy. -/
  | copy
  /-- R101. A TIMESTAMP packet writes PTPTIME. -/
  | timestamp
  /-- R101. A NOP packet does nothing. -/
  | nop
  /-- R104. A packet completes, writes its completion record and signals. -/
  | packetCompletion
  /-- R147. Budget counters clear at each 10 µs boundary. -/
  | budgetPeriod
  /-- R421. The governor estimates power each microsecond and gates or fills. -/
  | powerGovernorUpdate
  /-- R408. A flit received in error is retried at link level. -/
  | flitRetry
  /-- R409. A port failing 16 retries is down and traffic moves. -/
  | linkPortDown
  /-- R419. A failed router resets partitions and rewrites the tables. -/
  | routerFailure
  /-- R415. A partition is stopped, killed, cleared and rewritten. -/
  | partitionReset
  /-- R426. A cluster halts. -/
  | halt
  /-- R427. A cluster resumes. -/
  | haltRelease
  /-- R428. One slot issues one group and halts again. -/
  | debugStep
  /-- R429. A trigger group firing halts clusters with XIN. -/
  | triggerFire
  /-- R428. The debug module reads or writes state of a halted cluster. -/
  | debugAccess
  /-- R431. A snapshot trigger is broadcast. -/
  | snapshotTrigger
  /-- R431. Every bank latches at the next PTP tick. -/
  | snapshotLatch
  /-- R431. Reading a bank's last word frees it. -/
  | snapshotRead
  /-- R436. The boot ROM verifies firmware and configuration and starts partition management. -/
  | deviceReset
  /-- R437. A new marker is written in the other sector. -/
  | markerFlip
  /-- R436. A signed image is written to a firmware slot in recovery. -/
  | imageWrite
  /-- R436. An explicit command raises the fused SVN floor. -/
  | svnFloorRaise
  /-- R441. A nonce request returns a signed report or is refused. -/
  | attestationRequest
  /-- R440. The signing engine signs a digest for an attestation core. -/
  | signingRequest
  /-- R103. The host writes one of the partition's 1,024 signals through the window; a WAIT holding on it may then
  complete or, if the signal is negative, abort the queue. -/
  | hostSignalWrite
  /-- R128. Partition management creates a partition, writing its cluster map, segment entry 15, class bindings, queue
  ownership and fault-service core. -/
  | partitionCreate
  /-- R404. An Ultra Ethernet send from the host arrives and is turned into an active message that starts a unit on
  the target core. -/
  | hostSend
  /-- R407. The timer wheel's clock loses its PTP master and runs free from its last frequency correction. -/
  | ptpMasterLoss
deriving DecidableEq, Repr

end Sys2Proof
end

