-- ==== Sys2Proof/Machine/OpMap.lean ====
section
/-! DEFINITION. The opcode map of pages 0 to 6 (R229 to R236): for every row its page, op6, format, operand roles, the
rule of its f bit and the layout of its immediate. The decoder and the encoder are both written over it. -/

namespace Sys2Proof.Machine
open Sys2Proof

/-- The base formats of R220. -/
inductive Fmt where
  | a3 | a2i | a1i | j | m
deriving DecidableEq, Repr

/-- The operand roles of R221, with their file. `gOutL`: out* in file G. `gLoad`, `vLoad`: out* but in mode .L, where
the destination is out (R230). `gSysr`: out* for CYCLE, RETIRED and PTPTIME, else out (R236). `modF`, `modI`: the b
field of FCVTF and FCVTI (R229). `z`: role 0. `n`: the format has no such field. -/
inductive Role where
  | gIn | gOut | gOutL | gInOut | gInOutL | gPairIn | gPairOut | gPairInOut | gLoad | gSysr
  | vIn | vOut | vOutL | vInOut | vLoad | kIn | kOut | modF | modI | z | n
deriving DecidableEq, Repr

/-- How the immediate is extended, and the layout R229 asks of it. -/
inductive ImmRule where
  | none | sext | zext | shamt | bits | lane | cvt | fence | sysr | sysw
deriving DecidableEq, Repr

/-- One row of the opcode map. `fUsed` says that the f bit has a meaning; where it is false f must be 0. -/
structure OpRow where
  page : Nat
  op : Nat
  fmt : Fmt
  d : Role
  a : Role
  b : Role
  fUsed : Bool
  imm : ImmRule
  ctor : Fld → Instr

/-- Page 0 of the opcode map (R230). -/
def opPage0 : List OpRow :=
  [⟨0, 0x01, .a3, .gOut, .gIn, .gIn, true, .none, .add⟩,
   ⟨0, 0x02, .a3, .gOut, .gIn, .gIn, true, .none, .sub⟩,
   ⟨0, 0x03, .a3, .gOut, .gIn, .gIn, true, .none, .and⟩,
   ⟨0, 0x04, .a3, .gOut, .gIn, .gIn, true, .none, .or⟩,
   ⟨0, 0x05, .a3, .gOut, .gIn, .gIn, true, .none, .xor⟩,
   ⟨0, 0x06, .a3, .gOut, .gIn, .gIn, true, .none, .shl⟩,
   ⟨0, 0x07, .a3, .gOut, .gIn, .gIn, true, .none, .shr⟩,
   ⟨0, 0x08, .a3, .gOut, .gIn, .gIn, true, .none, .mul⟩,
   ⟨0, 0x09, .a3, .gOut, .gIn, .gIn, true, .none, .slt⟩,
   ⟨0, 0x0A, .a3, .gOut, .gIn, .gIn, true, .none, .min⟩,
   ⟨0, 0x0B, .a3, .gOut, .gIn, .gIn, true, .none, .max⟩,
   ⟨0, 0x0C, .a2i, .gOut, .gIn, .n, false, .sext, .addi⟩,
   ⟨0, 0x0D, .a2i, .gOut, .gIn, .n, false, .zext, .andi⟩,
   ⟨0, 0x0E, .a2i, .gOut, .gIn, .n, false, .zext, .ori⟩,
   ⟨0, 0x0F, .a2i, .gOut, .gIn, .n, false, .zext, .xori⟩,
   ⟨0, 0x10, .a2i, .gOut, .gIn, .n, false, .shamt, .shli⟩,
   ⟨0, 0x11, .a2i, .gOut, .gIn, .n, false, .shamt, .shri⟩,
   ⟨0, 0x12, .a2i, .gOut, .gIn, .n, false, .shamt, .srai⟩,
   ⟨0, 0x13, .a2i, .gOut, .gIn, .n, false, .sext, .slti⟩,
   ⟨0, 0x14, .a1i, .gOut, .n, .n, false, .sext, .movi⟩,
   ⟨0, 0x15, .a1i, .gOut, .n, .n, false, .zext, .movhi⟩,
   ⟨0, 0x16, .a3, .gOut, .gIn, .gIn, true, .none, .lea⟩,
   ⟨0, 0x18, .j, .n, .n, .n, false, .sext, .br⟩,
   ⟨0, 0x19, .j, .n, .n, .n, false, .sext, .call⟩,
   ⟨0, 0x1A, .a3, .gOut, .gIn, .z, false, .none, .jr⟩] ++
  [⟨0, 0x1C, .a2i, .gIn, .gIn, .n, false, .sext, .beq⟩,
   ⟨0, 0x1D, .a2i, .gIn, .gIn, .n, false, .sext, .bne⟩,
   ⟨0, 0x1E, .a2i, .gIn, .gIn, .n, false, .sext, .blt⟩,
   ⟨0, 0x1F, .a2i, .gIn, .gIn, .n, false, .sext, .bge⟩,
   ⟨0, 0x20, .a2i, .gIn, .gIn, .n, false, .sext, .bltu⟩,
   ⟨0, 0x21, .a2i, .gIn, .gIn, .n, false, .sext, .bgeu⟩,
   ⟨0, 0x22, .a1i, .gIn, .n, .n, false, .sext, .bz⟩,
   ⟨0, 0x23, .a1i, .gIn, .n, .n, false, .sext, .bnz⟩,
   ⟨0, 0x24, .a1i, .gInOut, .n, .n, false, .zext, .loop⟩,
   ⟨0, 0x25, .m, .gLoad, .gIn, .n, false, .sext, .ldBu⟩,
   ⟨0, 0x26, .m, .gLoad, .gIn, .n, false, .sext, .ldHu⟩,
   ⟨0, 0x27, .m, .gLoad, .gIn, .n, false, .sext, .ldWu⟩,
   ⟨0, 0x28, .m, .gLoad, .gIn, .n, false, .sext, .ldD⟩,
   ⟨0, 0x29, .m, .gLoad, .gIn, .n, false, .sext, .ldBs⟩,
   ⟨0, 0x2A, .m, .gLoad, .gIn, .n, false, .sext, .ldHs⟩,
   ⟨0, 0x2B, .m, .gLoad, .gIn, .n, false, .sext, .ldWs⟩,
   ⟨0, 0x2C, .m, .gIn, .gIn, .n, false, .sext, .stB⟩,
   ⟨0, 0x2D, .m, .gIn, .gIn, .n, false, .sext, .stH⟩,
   ⟨0, 0x2E, .m, .gIn, .gIn, .n, false, .sext, .stW⟩,
   ⟨0, 0x2F, .m, .gIn, .gIn, .n, false, .sext, .stD⟩,
   ⟨0, 0x30, .m, .vLoad, .gIn, .n, false, .sext, .vld⟩,
   ⟨0, 0x31, .m, .vIn, .gIn, .n, false, .sext, .vst⟩]

/-- Page 1 of the opcode map (R231). -/
def opPage1 : List OpRow :=
  [⟨1, 0x00, .a3, .gOut, .gIn, .gIn, false, .none, .mulhu⟩,
   ⟨1, 0x01, .a3, .gOut, .gIn, .gIn, false, .none, .mulhs⟩,
   ⟨1, 0x02, .a3, .gOutL, .gIn, .gIn, true, .none, .div⟩,
   ⟨1, 0x03, .a3, .gOutL, .gIn, .gIn, true, .none, .rem⟩,
   ⟨1, 0x04, .a3, .gOut, .gIn, .z, true, .none, .clz⟩,
   ⟨1, 0x05, .a3, .gOut, .gIn, .z, true, .none, .ctz⟩,
   ⟨1, 0x06, .a3, .gOut, .gIn, .z, true, .none, .popc⟩,
   ⟨1, 0x07, .a3, .gOut, .gIn, .gIn, true, .none, .rot⟩,
   ⟨1, 0x08, .a2i, .gOut, .gIn, .n, false, .bits, .extu⟩,
   ⟨1, 0x09, .a2i, .gOut, .gIn, .n, false, .bits, .exts⟩,
   ⟨1, 0x0A, .a2i, .gInOut, .gIn, .n, false, .bits, .ins⟩,
   ⟨1, 0x10, .a3, .gOut, .gIn, .gIn, false, .none, .fadd⟩,
   ⟨1, 0x11, .a3, .gOut, .gIn, .gIn, false, .none, .fsub⟩,
   ⟨1, 0x12, .a3, .gOut, .gIn, .gIn, false, .none, .fmul⟩,
   ⟨1, 0x14, .a3, .gOut, .gIn, .gIn, false, .none, .fmin⟩,
   ⟨1, 0x15, .a3, .gOut, .gIn, .gIn, false, .none, .fmax⟩,
   ⟨1, 0x13, .a3, .gInOut, .gIn, .gIn, false, .none, .fma⟩,
   ⟨1, 0x16, .a3, .gOut, .gIn, .gIn, false, .none, .flt⟩,
   ⟨1, 0x17, .a3, .gOut, .gIn, .gIn, false, .none, .feq⟩,
   ⟨1, 0x18, .a3, .gOut, .gIn, .modF, true, .none, .fcvtf⟩,
   ⟨1, 0x19, .a3, .gOut, .gIn, .modI, true, .none, .fcvti⟩,
   ⟨1, 0x1A, .a3, .gOutL, .gIn, .gIn, false, .none, .fdiv⟩,
   ⟨1, 0x1B, .a3, .gOutL, .gIn, .z, false, .none, .fsqrt⟩]

/-- Page 2 of the opcode map (R232). -/
def opPage2 : List OpRow :=
  [⟨2, 0x00, .a3, .vOut, .vIn, .vIn, true, .none, .vadd⟩,
   ⟨2, 0x01, .a3, .vOut, .vIn, .vIn, true, .none, .vsub⟩,
   ⟨2, 0x02, .a3, .vOut, .vIn, .vIn, true, .none, .vmul⟩,
   ⟨2, 0x03, .a3, .vOut, .vIn, .vIn, true, .none, .vmin⟩,
   ⟨2, 0x04, .a3, .vOut, .vIn, .vIn, true, .none, .vmax⟩,
   ⟨2, 0x05, .a3, .vOut, .vIn, .vIn, true, .none, .vand⟩,
   ⟨2, 0x06, .a3, .vOut, .vIn, .vIn, true, .none, .vor⟩,
   ⟨2, 0x07, .a3, .vOut, .vIn, .vIn, true, .none, .vxor⟩,
   ⟨2, 0x08, .a3, .vOut, .vIn, .vIn, true, .none, .vshl⟩,
   ⟨2, 0x09, .a3, .vOut, .vIn, .vIn, true, .none, .vshr⟩,
   ⟨2, 0x0A, .a3, .vOut, .vIn, .vIn, true, .none, .vfadd⟩,
   ⟨2, 0x0B, .a3, .vOut, .vIn, .vIn, true, .none, .vfsub⟩,
   ⟨2, 0x0C, .a3, .vOut, .vIn, .vIn, true, .none, .vfmul⟩,
   ⟨2, 0x0D, .a3, .vInOut, .vIn, .vIn, true, .none, .vfma⟩,
   ⟨2, 0x0E, .a3, .vOut, .vIn, .vIn, true, .none, .vfmin⟩,
   ⟨2, 0x0F, .a3, .vOut, .vIn, .vIn, true, .none, .vfmax⟩,
   ⟨2, 0x10, .a3, .kOut, .vIn, .vIn, true, .none, .vfclt⟩,
   ⟨2, 0x11, .a3, .kOut, .vIn, .vIn, true, .none, .vfcle⟩,
   ⟨2, 0x12, .a3, .kOut, .vIn, .vIn, true, .none, .vfceq⟩,
   ⟨2, 0x13, .a3, .kOut, .vIn, .vIn, true, .none, .viclt⟩,
   ⟨2, 0x14, .a3, .kOut, .vIn, .vIn, true, .none, .viceq⟩,
   ⟨2, 0x15, .a3, .vOut, .vIn, .vIn, true, .none, .vsel⟩,
   ⟨2, 0x16, .a3, .vOut, .gIn, .z, true, .none, .vbcast⟩,
   ⟨2, 0x17, .a2i, .gOut, .vIn, .n, false, .lane, .vext⟩,
   ⟨2, 0x18, .a2i, .vInOut, .gIn, .n, false, .lane, .vins⟩] ++
  [⟨2, 0x19, .a3, .vOut, .vIn, .vIn, true, .none, .vperm⟩,
   ⟨2, 0x1A, .a3, .gOut, .vIn, .z, true, .none, .vrsum⟩,
   ⟨2, 0x1B, .a3, .vOutL, .vIn, .z, true, .none, .vfexp2⟩,
   ⟨2, 0x1C, .a3, .vOutL, .vIn, .z, true, .none, .vflog2⟩,
   ⟨2, 0x1D, .a3, .vOutL, .vIn, .z, true, .none, .vfrcp⟩,
   ⟨2, 0x1E, .a3, .vOutL, .vIn, .z, true, .none, .vfrsq⟩,
   ⟨2, 0x20, .a2i, .vOut, .vIn, .n, false, .cvt, .vcvt⟩,
   ⟨2, 0x21, .a3, .vOut, .vIn, .gIn, true, .none, .vscale⟩,
   ⟨2, 0x22, .a3, .gOut, .vIn, .z, true, .none, .vamax⟩,
   ⟨2, 0x23, .a3, .vOutL, .gIn, .vIn, false, .none, .vgath⟩,
   ⟨2, 0x24, .a3, .vIn, .gIn, .vIn, false, .none, .vscat⟩,
   ⟨2, 0x25, .m, .vOutL, .gIn, .n, false, .sext, .vldf⟩,
   ⟨2, 0x28, .a3, .kOut, .kIn, .kIn, false, .none, .kand⟩,
   ⟨2, 0x29, .a3, .kOut, .kIn, .kIn, false, .none, .kor⟩,
   ⟨2, 0x2A, .a3, .kOut, .kIn, .kIn, false, .none, .kxor⟩,
   ⟨2, 0x2B, .a3, .kOut, .kIn, .z, false, .none, .knot⟩,
   ⟨2, 0x2C, .a3, .gOut, .kIn, .z, false, .none, .ktog⟩,
   ⟨2, 0x2D, .a3, .kOut, .gIn, .z, false, .none, .gtok⟩]

/-- Page 3 of the opcode map (R233). -/
def opPage3 : List OpRow :=
  [⟨3, 0x00, .a3, .gOutL, .gIn, .gIn, true, .none, .aadd⟩,
   ⟨3, 0x01, .a3, .gOutL, .gIn, .gIn, true, .none, .asmin⟩,
   ⟨3, 0x02, .a3, .gOutL, .gIn, .gIn, true, .none, .asmax⟩,
   ⟨3, 0x03, .a3, .gOutL, .gIn, .gIn, true, .none, .aumin⟩,
   ⟨3, 0x04, .a3, .gOutL, .gIn, .gIn, true, .none, .aumax⟩,
   ⟨3, 0x05, .a3, .gOutL, .gIn, .gIn, true, .none, .aand⟩,
   ⟨3, 0x06, .a3, .gOutL, .gIn, .gIn, true, .none, .aor⟩,
   ⟨3, 0x07, .a3, .gOutL, .gIn, .gIn, true, .none, .axor⟩,
   ⟨3, 0x08, .a3, .gOutL, .gIn, .gIn, true, .none, .aswp⟩,
   ⟨3, 0x09, .a3, .gInOutL, .gIn, .gIn, true, .none, .cas⟩,
   ⟨3, 0x10, .j, .n, .n, .n, false, .fence, .fence⟩,
   ⟨3, 0x11, .a3, .gOutL, .gIn, .z, true, .none, .acq⟩,
   ⟨3, 0x12, .a3, .gIn, .gIn, .z, true, .none, .rel⟩,
   ⟨3, 0x13, .a3, .gIn, .gIn, .gIn, true, .none, .bind⟩,
   ⟨3, 0x18, .a3, .gIn, .gIn, .gIn, false, .none, .cpy⟩,
   ⟨3, 0x19, .a3, .z, .gIn, .z, false, .none, .cpys⟩,
   ⟨3, 0x1A, .a3, .z, .gIn, .z, false, .none, .cpy3⟩,
   ⟨3, 0x1B, .a3, .z, .gIn, .z, false, .none, .cpym⟩,
   ⟨3, 0x20, .a3, .z, .gIn, .gIn, true, .none, .guard⟩,
   ⟨3, 0x28, .a3, .gPairOut, .gIn, .z, false, .none, .tglook⟩,
   ⟨3, 0x29, .a3, .gIn, .gIn, .z, false, .none, .tgset⟩,
   ⟨3, 0x2A, .a3, .z, .gIn, .z, false, .none, .tgclr⟩,
   ⟨3, 0x2B, .a3, .z, .gIn, .z, false, .none, .tgcfg⟩]

/-- Page 4 of the opcode map (R234). -/
def opPage4 : List OpRow :=
  [⟨4, 0x00, .a3, .gOutL, .z, .z, false, .none, .mxlease⟩,
   ⟨4, 0x01, .a3, .z, .z, .z, false, .none, .mxfree⟩,
   ⟨4, 0x05, .a3, .z, .z, .z, false, .none, .mxzero⟩,
   ⟨4, 0x0A, .a3, .z, .z, .z, false, .none, .mxstop⟩,
   ⟨4, 0x0B, .a3, .z, .z, .z, false, .none, .mxresume⟩,
   ⟨4, 0x02, .a3, .z, .gIn, .z, false, .none, .mxcfg⟩,
   ⟨4, 0x03, .a3, .z, .gIn, .z, false, .none, .mxunf⟩,
   ⟨4, 0x04, .a3, .z, .gIn, .gIn, false, .none, .mxldb⟩,
   ⟨4, 0x06, .a3, .z, .gIn, .gIn, false, .none, .mxrun⟩,
   ⟨4, 0x07, .a3, .z, .gIn, .gIn, false, .none, .mxrd⟩,
   ⟨4, 0x08, .a3, .z, .gIn, .gIn, false, .none, .mxrdx⟩,
   ⟨4, 0x09, .a3, .gOut, .gIn, .z, false, .none, .mxstat⟩,
   ⟨4, 0x0C, .a3, .gOutL, .z, .z, false, .none, .mxwait⟩]

/-- Page 5 of the opcode map (R235). -/
def opPage5 : List OpRow :=
  [⟨5, 0x00, .a3, .gPairIn, .gIn, .gIn, false, .none, .send⟩,
   ⟨5, 0x01, .a3, .gPairIn, .gIn, .gIn, false, .none, .sendm⟩,
   ⟨5, 0x02, .a3, .z, .gIn, .gIn, false, .none, .popen⟩,
   ⟨5, 0x03, .a3, .z, .gIn, .z, false, .none, .pclose⟩,
   ⟨5, 0x04, .a3, .z, .gIn, .z, false, .none, .plisten⟩,
   ⟨5, 0x05, .a3, .gOut, .gIn, .z, false, .none, .pstat⟩,
   ⟨5, 0x08, .a3, .gOut, .gIn, .z, false, .none, .cqdecl⟩,
   ⟨5, 0x09, .a3, .gOut, .gIn, .gIn, true, .none, .cqpush⟩,
   ⟨5, 0x0A, .a3, .gOutL, .gIn, .z, false, .none, .cqpop⟩,
   ⟨5, 0x0B, .a3, .gOut, .gIn, .gIn, false, .none, .cqstat⟩,
   ⟨5, 0x0C, .a3, .gPairInOut, .gPairIn, .z, false, .none, .rdxadd⟩,
   ⟨5, 0x10, .a3, .gOut, .gIn, .gIn, false, .none, .twrel⟩,
   ⟨5, 0x11, .a3, .gOut, .z, .z, false, .none, .time⟩,
   ⟨5, 0x14, .a3, .gIn, .gIn, .gIn, false, .none, .dcset⟩,
   ⟨5, 0x15, .a3, .z, .gIn, .gIn, false, .none, .dcdec⟩,
   ⟨5, 0x18, .a3, .gIn, .gIn, .gIn, false, .none, .swinit⟩,
   ⟨5, 0x19, .a3, .gOutL, .gIn, .gIn, false, .none, .swwait⟩,
   ⟨5, 0x1A, .a3, .z, .gIn, .gIn, true, .none, .swadd⟩,
   ⟨5, 0x1C, .a3, .gOut, .gIn, .z, false, .none, .bar⟩,
   ⟨5, 0x1D, .a3, .z, .z, .z, false, .none, .phflip⟩,
   ⟨5, 0x1E, .a3, .gOut, .gIn, .z, false, .none, .quiet⟩]

/-- Page 6 of the opcode map (R236). -/
def opPage6 : List OpRow :=
  [⟨6, 0x00, .a3, .z, .gIn, .z, false, .none, .tcall⟩,
   ⟨6, 0x01, .a3, .z, .z, .z, false, .none, .tret⟩,
   ⟨6, 0x02, .a3, .z, .z, .z, false, .none, .tseed⟩,
   ⟨6, 0x0B, .a3, .z, .z, .z, false, .none, .arabt⟩,
   ⟨6, 0x19, .a3, .z, .z, .z, false, .none, .rft⟩,
   ⟨6, 0x1C, .a3, .z, .z, .z, false, .none, .exit⟩,
   ⟨6, 0x1D, .a3, .z, .z, .z, false, .none, .yield⟩,
   ⟨6, 0x1F, .a3, .z, .z, .z, false, .none, .beat⟩,
   ⟨6, 0x20, .a3, .z, .z, .z, false, .none, .brk⟩,
   ⟨6, 0x03, .a3, .gOut, .gIn, .z, false, .none, .tpin⟩,
   ⟨6, 0x04, .a3, .gOut, .gIn, .z, false, .none, .tunpin⟩,
   ⟨6, 0x05, .a3, .gOut, .gIn, .z, false, .none, .tinv⟩,
   ⟨6, 0x06, .a3, .gOutL, .gIn, .gIn, false, .none, .tqry⟩,
   ⟨6, 0x08, .a3, .gOut, .gIn, .gIn, false, .none, .arnew⟩,
   ⟨6, 0x09, .a3, .gOut, .gIn, .z, false, .none, .aren⟩,
   ⟨6, 0x0A, .a3, .gOutL, .z, .z, false, .none, .arcom⟩,
   ⟨6, 0x0C, .a3, .gOut, .gIn, .gIn, false, .none, .arinfo⟩,
   ⟨6, 0x10, .a3, .z, .gIn, .gIn, false, .none, .lvinc⟩,
   ⟨6, 0x11, .a3, .z, .gIn, .gIn, false, .none, .lvdec⟩,
   ⟨6, 0x12, .a3, .gOut, .gIn, .z, false, .none, .lvwait⟩,
   ⟨6, 0x13, .a3, .z, .gIn, .z, false, .none, .lvcancel⟩,
   ⟨6, 0x18, .j, .n, .n, .n, false, .zext, .trap⟩,
   ⟨6, 0x1A, .a2i, .gSysr, .z, .n, false, .sysr, .sysr⟩,
   ⟨6, 0x1B, .a2i, .z, .gIn, .n, false, .sysw, .sysw⟩,
   ⟨6, 0x1E, .a3, .z, .gIn, .z, false, .none, .persist⟩]

/-- The rows of one page; a page above 6 has none (R223). -/
def opPage : Nat → List OpRow
  | 0 => opPage0
  | 1 => opPage1
  | 2 => opPage2
  | 3 => opPage3
  | 4 => opPage4
  | 5 => opPage5
  | 6 => opPage6
  | _ => []

/-- The row of a page and an op6 value, if the map has one (R237). -/
def opLookup (page op : Nat) : Option OpRow := (opPage page).find? (fun r => r.op == op)

/-- The page, op6 and fields of an encoded instruction; none for ILLEGAL_GROUP and the events, which no word encodes. -/
def opKey : Instr → Option (Nat × Nat × Fld)
  | .add x => some (0, 0x01, x)
  | .sub x => some (0, 0x02, x)
  | .and x => some (0, 0x03, x)
  | .or x => some (0, 0x04, x)
  | .xor x => some (0, 0x05, x)
  | .shl x => some (0, 0x06, x)
  | .shr x => some (0, 0x07, x)
  | .mul x => some (0, 0x08, x)
  | .slt x => some (0, 0x09, x)
  | .min x => some (0, 0x0A, x)
  | .max x => some (0, 0x0B, x)
  | .addi x => some (0, 0x0C, x)
  | .andi x => some (0, 0x0D, x)
  | .ori x => some (0, 0x0E, x)
  | .xori x => some (0, 0x0F, x)
  | .shli x => some (0, 0x10, x)
  | .shri x => some (0, 0x11, x)
  | .srai x => some (0, 0x12, x)
  | .slti x => some (0, 0x13, x)
  | .movi x => some (0, 0x14, x)
  | .movhi x => some (0, 0x15, x)
  | .lea x => some (0, 0x16, x)
  | .br x => some (0, 0x18, x)
  | .call x => some (0, 0x19, x)
  | .jr x => some (0, 0x1A, x)
  | .beq x => some (0, 0x1C, x)
  | .bne x => some (0, 0x1D, x)
  | .blt x => some (0, 0x1E, x)
  | .bge x => some (0, 0x1F, x)
  | .bltu x => some (0, 0x20, x)
  | .bgeu x => some (0, 0x21, x)
  | .bz x => some (0, 0x22, x)
  | .bnz x => some (0, 0x23, x)
  | .loop x => some (0, 0x24, x)
  | .ldBu x => some (0, 0x25, x)
  | .ldHu x => some (0, 0x26, x)
  | .ldWu x => some (0, 0x27, x)
  | .ldD x => some (0, 0x28, x)
  | .ldBs x => some (0, 0x29, x)
  | .ldHs x => some (0, 0x2A, x)
  | .ldWs x => some (0, 0x2B, x)
  | .stB x => some (0, 0x2C, x)
  | .stH x => some (0, 0x2D, x)
  | .stW x => some (0, 0x2E, x)
  | .stD x => some (0, 0x2F, x)
  | .vld x => some (0, 0x30, x)
  | .vst x => some (0, 0x31, x)
  | .mulhu x => some (1, 0x00, x)
  | .mulhs x => some (1, 0x01, x)
  | .div x => some (1, 0x02, x)
  | .rem x => some (1, 0x03, x)
  | .clz x => some (1, 0x04, x)
  | .ctz x => some (1, 0x05, x)
  | .popc x => some (1, 0x06, x)
  | .rot x => some (1, 0x07, x)
  | .extu x => some (1, 0x08, x)
  | .exts x => some (1, 0x09, x)
  | .ins x => some (1, 0x0A, x)
  | .fadd x => some (1, 0x10, x)
  | .fsub x => some (1, 0x11, x)
  | .fmul x => some (1, 0x12, x)
  | .fmin x => some (1, 0x14, x)
  | .fmax x => some (1, 0x15, x)
  | .fma x => some (1, 0x13, x)
  | .flt x => some (1, 0x16, x)
  | .feq x => some (1, 0x17, x)
  | .fcvtf x => some (1, 0x18, x)
  | .fcvti x => some (1, 0x19, x)
  | .fdiv x => some (1, 0x1A, x)
  | .fsqrt x => some (1, 0x1B, x)
  | .vadd x => some (2, 0x00, x)
  | .vsub x => some (2, 0x01, x)
  | .vmul x => some (2, 0x02, x)
  | .vmin x => some (2, 0x03, x)
  | .vmax x => some (2, 0x04, x)
  | .vand x => some (2, 0x05, x)
  | .vor x => some (2, 0x06, x)
  | .vxor x => some (2, 0x07, x)
  | .vshl x => some (2, 0x08, x)
  | .vshr x => some (2, 0x09, x)
  | .vfadd x => some (2, 0x0A, x)
  | .vfsub x => some (2, 0x0B, x)
  | .vfmul x => some (2, 0x0C, x)
  | .vfma x => some (2, 0x0D, x)
  | .vfmin x => some (2, 0x0E, x)
  | .vfmax x => some (2, 0x0F, x)
  | .vfclt x => some (2, 0x10, x)
  | .vfcle x => some (2, 0x11, x)
  | .vfceq x => some (2, 0x12, x)
  | .viclt x => some (2, 0x13, x)
  | .viceq x => some (2, 0x14, x)
  | .vsel x => some (2, 0x15, x)
  | .vbcast x => some (2, 0x16, x)
  | .vext x => some (2, 0x17, x)
  | .vins x => some (2, 0x18, x)
  | .vperm x => some (2, 0x19, x)
  | .vrsum x => some (2, 0x1A, x)
  | .vfexp2 x => some (2, 0x1B, x)
  | .vflog2 x => some (2, 0x1C, x)
  | .vfrcp x => some (2, 0x1D, x)
  | .vfrsq x => some (2, 0x1E, x)
  | .vcvt x => some (2, 0x20, x)
  | .vscale x => some (2, 0x21, x)
  | .vamax x => some (2, 0x22, x)
  | .vgath x => some (2, 0x23, x)
  | .vscat x => some (2, 0x24, x)
  | .vldf x => some (2, 0x25, x)
  | .kand x => some (2, 0x28, x)
  | .kor x => some (2, 0x29, x)
  | .kxor x => some (2, 0x2A, x)
  | .knot x => some (2, 0x2B, x)
  | .ktog x => some (2, 0x2C, x)
  | .gtok x => some (2, 0x2D, x)
  | .aadd x => some (3, 0x00, x)
  | .asmin x => some (3, 0x01, x)
  | .asmax x => some (3, 0x02, x)
  | .aumin x => some (3, 0x03, x)
  | .aumax x => some (3, 0x04, x)
  | .aand x => some (3, 0x05, x)
  | .aor x => some (3, 0x06, x)
  | .axor x => some (3, 0x07, x)
  | .aswp x => some (3, 0x08, x)
  | .cas x => some (3, 0x09, x)
  | .fence x => some (3, 0x10, x)
  | .acq x => some (3, 0x11, x)
  | .rel x => some (3, 0x12, x)
  | .bind x => some (3, 0x13, x)
  | .cpy x => some (3, 0x18, x)
  | .cpys x => some (3, 0x19, x)
  | .cpy3 x => some (3, 0x1A, x)
  | .cpym x => some (3, 0x1B, x)
  | .guard x => some (3, 0x20, x)
  | .tglook x => some (3, 0x28, x)
  | .tgset x => some (3, 0x29, x)
  | .tgclr x => some (3, 0x2A, x)
  | .tgcfg x => some (3, 0x2B, x)
  | .mxlease x => some (4, 0x00, x)
  | .mxfree x => some (4, 0x01, x)
  | .mxzero x => some (4, 0x05, x)
  | .mxstop x => some (4, 0x0A, x)
  | .mxresume x => some (4, 0x0B, x)
  | .mxcfg x => some (4, 0x02, x)
  | .mxunf x => some (4, 0x03, x)
  | .mxldb x => some (4, 0x04, x)
  | .mxrun x => some (4, 0x06, x)
  | .mxrd x => some (4, 0x07, x)
  | .mxrdx x => some (4, 0x08, x)
  | .mxstat x => some (4, 0x09, x)
  | .mxwait x => some (4, 0x0C, x)
  | .send x => some (5, 0x00, x)
  | .sendm x => some (5, 0x01, x)
  | .popen x => some (5, 0x02, x)
  | .pclose x => some (5, 0x03, x)
  | .plisten x => some (5, 0x04, x)
  | .pstat x => some (5, 0x05, x)
  | .cqdecl x => some (5, 0x08, x)
  | .cqpush x => some (5, 0x09, x)
  | .cqpop x => some (5, 0x0A, x)
  | .cqstat x => some (5, 0x0B, x)
  | .rdxadd x => some (5, 0x0C, x)
  | .twrel x => some (5, 0x10, x)
  | .time x => some (5, 0x11, x)
  | .dcset x => some (5, 0x14, x)
  | .dcdec x => some (5, 0x15, x)
  | .swinit x => some (5, 0x18, x)
  | .swwait x => some (5, 0x19, x)
  | .swadd x => some (5, 0x1A, x)
  | .bar x => some (5, 0x1C, x)
  | .phflip x => some (5, 0x1D, x)
  | .quiet x => some (5, 0x1E, x)
  | .tcall x => some (6, 0x00, x)
  | .tret x => some (6, 0x01, x)
  | .tseed x => some (6, 0x02, x)
  | .arabt x => some (6, 0x0B, x)
  | .rft x => some (6, 0x19, x)
  | .exit x => some (6, 0x1C, x)
  | .yield x => some (6, 0x1D, x)
  | .beat x => some (6, 0x1F, x)
  | .brk x => some (6, 0x20, x)
  | .tpin x => some (6, 0x03, x)
  | .tunpin x => some (6, 0x04, x)
  | .tinv x => some (6, 0x05, x)
  | .tqry x => some (6, 0x06, x)
  | .arnew x => some (6, 0x08, x)
  | .aren x => some (6, 0x09, x)
  | .arcom x => some (6, 0x0A, x)
  | .arinfo x => some (6, 0x0C, x)
  | .lvinc x => some (6, 0x10, x)
  | .lvdec x => some (6, 0x11, x)
  | .lvwait x => some (6, 0x12, x)
  | .lvcancel x => some (6, 0x13, x)
  | .trap x => some (6, 0x18, x)
  | .sysr x => some (6, 0x1A, x)
  | .sysw x => some (6, 0x1B, x)
  | .persist x => some (6, 0x1E, x)
  | .illegalGroup _ _ _ _ => none
  | .asyncCauseDelivery _ _ _ => none
  | .asyncCauseTaken => none
  | .fill _ _ _ _ => none
  | .accessAcknowledge _ _ _ => none
  | .releaseSend _ _ _ => none
  | .refusalArrival _ _ _ _ _ => none
  | .refusalTrap => none
  | .faultReply _ _ _ _ => none
  | .faultSave => none
  | .faultRecordAtRouter _ _ _ => none
  | .faultWakeAtRouter _ _ => none
  | .faultWake _ _ => none
  | .shootdown => none
  | .contextRestore => none
  | .unitStart => none
  | .preemption => none
  | .preemptionForced => none
  | .preemptRequest => none
  | .waitTimeout _ _ _ => none
  | .watchdog _ _ _ => none
  | .heartbeatTick => none
  | .heartbeatExpiry => none
  | .messageInjection _ => none
  | .messageArrival _ => none
  | .messageRetry _ => none
  | .scratchpadAccess _ _ => none
  | .sliceAccess _ _ => none
  | .eccUncorrectable => none
  | .copyAccept => none
  | .copyDelivery => none
  | .copyCompletion => none
  | .syncWordUpdate _ _ => none
  | .dcDecrement _ _ _ _ _ _ => none
  | .dcSetArrival _ _ _ _ _ _ _ _ _ => none
  | .dcFire => none
  | .recordEnqueue _ _ => none
  | .enqueueRetry _ _ => none
  | .schedulerDispatch => none
  | .priorityAging => none
  | .stealProbe => none
  | .levelUpdate _ => none
  | .clusterReport => none
  | .unitPlacement => none
  | .gangPlacement => none
  | .phaseSweep => none
  | .phflipArrival => none
  | .timerTick => none
  | .timerRelease => none
  | .stagger => none
  | .ptpMessage => none
  | .tabledRequest _ => none
  | .chainWalkResult _ _ _ _ => none
  | .tabledAnswer _ _ _ _ _ _ _ => none
  | .tabledDelivery _ => none
  | .producerKill _ _ _ _ => none
  | .cqDeclarationArrival => none
  | .cqPushArrival => none
  | .cqPushRetry => none
  | .cqPopRequest => none
  | .confluenceSelect => none
  | .regionMemberJoin => none
  | .prepare => none
  | .regionVote => none
  | .regionInstall => none
  | .regionInstallAck => none
  | .regionAbortRequest => none
  | .regionDiscard => none
  | .regionDiscardAck => none
  | .regionDeadline => none
  | .regionMemberKilled _ _ _ _ => none
  | .barrierArrival _ _ _ _ _ _ => none
  | .barrierDeparture _ _ _ _ _ => none
  | .routeHop => none
  | .streamWordArrival _ _ _ _ _ => none
  | .closingMarkerArrival => none
  | .leaseGrant => none
  | .leaseBudgetEnd => none
  | .graceEnd => none
  | .sequencerCommand => none
  | .macroStep => none
  | .readout => none
  | .readoutCompletion => none
  | .qtailWrite => none
  | .qstatusStop => none
  | .qstatusResume => none
  | .cplerrClear => none
  | .qownWrite => none
  | .registerWrite => none
  | .hostRmaWrite => none
  | .hostRmaRead => none
  | .packetStart => none
  | .launch => none
  | .wait => none
  | .signal => none
  | .copy => none
  | .timestamp => none
  | .nop => none
  | .packetCompletion => none
  | .budgetPeriod => none
  | .powerGovernorUpdate => none
  | .flitRetry => none
  | .linkPortDown => none
  | .routerFailure => none
  | .partitionReset => none
  | .halt => none
  | .haltRelease => none
  | .debugStep => none
  | .triggerFire => none
  | .debugAccess => none
  | .snapshotTrigger => none
  | .snapshotLatch => none
  | .snapshotRead => none
  | .deviceReset => none
  | .markerFlip => none
  | .imageWrite => none
  | .svnFloorRaise => none
  | .attestationRequest => none
  | .signingRequest => none
  | .hostSignalWrite => none
  | .partitionCreate => none
  | .hostSend => none
  | .ptpMasterLoss => none

end Sys2Proof.Machine
end

