-- ==== Sys2Proof/Machine/Fields.lean ====
section
/-! DEFINITION. The field rules of a group (R221 to R229) as checks on the decoded fields: used by the decoder, by
WellFormed and by the encoder. -/

namespace Sys2Proof.Machine
open Sys2Proof

/-- The base immediate's width w0 (R224); A3 has none. -/
def Fmt.immWidth : Fmt → Nat
  | .a3 => 0 | .a2i => 4 | .a1i => 7 | .j => 10 | .m => 2

def Fmt.hasD : Fmt → Bool
  | .j => false | _ => true

def Fmt.hasA : Fmt → Bool
  | .j => false | .a1i => false | _ => true

def Fmt.hasB : Fmt → Bool
  | .a3 => true | _ => false

/-- The width of the assembled immediate with `n` XI words (R224). -/
def immWidth (fmt : Fmt) (n : Nat) : Nat := 10 * n + fmt.immWidth

/-- The system register numbers of R37. -/
def sysregKnown (num : Nat) : Bool :=
  [0x000, 0x001, 0x002, 0x003, 0x004, 0x010, 0x011, 0x012, 0x013, 0x014, 0x015, 0x018, 0x019, 0x01A, 0x020, 0x021,
   0x028, 0x029, 0x030, 0x031, 0x032, 0x033, 0x034, 0x035, 0x036, 0x037, 0x040, 0x041, 0x042, 0x050, 0x060].contains num

/-- The sub-indices a system register has (R36): four for PROTn, two for CPYMASK, one for every other. -/
def sysregSubs (num : Nat) : Nat :=
  if 0x030 ≤ num ∧ num ≤ 0x037 then 4 else if num = 0x028 then 2 else 1

/-- The registers whose SYSR is a long-latency producer (R26): CYCLE, RETIRED, PTPTIME. -/
def sysregLong (num : Nat) : Bool := num == 0x040 || num == 0x041 || num == 0x042

/-- The immediate layouts of R229. -/
def immLayout (r : ImmRule) (imm : W64) : Bool :=
  match r with
  | .none => imm == 0
  | .sext => true
  | .zext => true
  | .shamt => imm.toNat < 64
  | .bits => imm.toNat < 4096 && imm.toNat % 64 + (imm.toNat / 64 + 1) ≤ 64
  | .lane => imm.toNat < 64 && (imm.getLsbD 5 || !imm.getLsbD 4)
  | .cvt => imm.toNat ≤ 13
  | .fence => imm.toNat < 1024 && imm.toNat % 16 == 0 && imm.toNat / 16 % 8 ≤ 4 && imm.toNat / 128 ≤ 4
  | .sysr => imm.toNat < 16384 && sysregKnown (imm.toNat % 4096) && imm.toNat / 4096 < sysregSubs (imm.toNat % 4096)
  | .sysw => imm.toNat < 16384 && sysregKnown (imm.toNat % 4096) && imm.toNat / 4096 < sysregSubs (imm.toNat % 4096)

/-- Whether the immediate of a rule is sign-extended (R224, the map's imm column). -/
def ImmRule.signed : ImmRule → Bool
  | .sext => true
  | _ => false

/-- The extension of a raw immediate of `w` bits (R224). -/
def immExtend (sgn : Bool) (w raw : Nat) : W64 :=
  if sgn && decide (2 ^ (w - 1) ≤ raw) && decide (0 < w) then BitVec.ofNat 64 (raw + 2 ^ 64 - 2 ^ w) else BitVec.ofNat 64 raw

/-- The raw bits of an extended immediate at width `w`. -/
def immRaw (w : Nat) (imm : W64) : Nat := imm.toNat % 2 ^ w

/-- The register rules of R221 and R228 for one field: `mode0` says the mode field is 00, `long` that SYSR names a
long-latency register. -/
def roleOk (r : Role) (n : BitVec 5) (mode0 long : Bool) : Bool :=
  match r with
  | .gIn | .gOut | .gInOut => true
  | .gOutL | .gInOutL => n.toNat < 24
  | .gLoad => mode0 || n.toNat < 24
  | .gSysr => !long || n.toNat < 24
  | .gPairIn | .gPairOut | .gPairInOut => n.toNat ≤ 22
  | .vIn | .vOut | .vOutL | .vInOut | .vLoad => n.toNat < 16
  | .kIn | .kOut => n.toNat < 8
  | .modF => n.toNat < 4 && !n.getLsbD 0
  | .modI => n.toNat < 4
  | .z | .n => n == 0

/-- Whether a trap bit may be set on a field of this role (R225). -/
def roleTrap : Role → Bool
  | .gIn | .gInOut | .gInOutL | .gPairIn | .gPairInOut | .vIn | .vInOut | .kIn => true
  | _ => false

/-- The forms on which XK traps ILLEGAL (R226): KAND, KOR, KXOR, KNOT, KTOG, GTOK. -/
def xkBarred (page op : Nat) : Bool := page == 2 && 0x28 ≤ op && op ≤ 0x2D

/-- The form that needs XK (R226): VSEL. -/
def xkNeeded (page op : Nat) : Bool := page == 2 && op == 0x15

/-- The prefix words a group holds (R223). -/
def Fld.prefixes (x : Fld) : Nat :=
  x.nxi + (if x.xp then 1 else 0) + (if x.xr then 1 else 0) + (if x.xk.isSome then 1 else 0)

/-- The length of a group in halfwords (R218). -/
def Fld.len (x : Fld) : Nat := Fld.prefixes x + 1

/-- A field needs no XR word: every register number is below 8 and no trap bit is set. -/
def Fld.lowOnly (x : Fld) : Bool :=
  decide (x.d.toNat < 8) && decide (x.a.toNat < 8) && decide (x.b.toNat < 8) && !x.ta && !x.tb && !x.td

/-- Every check the decoder makes on a base word (R221, R224 to R229) once its row is found. -/
def fieldsOk (r : OpRow) (x : Fld) : Bool :=
  let long := sysregLong (x.imm.toNat % 4096)
  roleOk r.d x.d (x.mode == 0) long && roleOk r.a x.a (x.mode == 0) long &&
  roleOk r.b x.b (x.mode == 0) long &&
  (r.fUsed || !x.f) && (!x.td || roleTrap r.d) && (!x.ta || roleTrap r.a) && (!x.tb || roleTrap r.b) &&
  immLayout r.imm x.imm && (x.nxi == 0 || (r.fmt != .a3 && r.imm != .fence)) &&
  (!x.xr || r.fmt != .j) && (x.xk.isNone || !xkBarred r.page r.op) && (x.xk.isSome || !xkNeeded r.page r.op) &&
  (r.fmt == .m || x.mode == 0)

/-- What the encoder also needs of the fields: at most four prefixes, an XP word on every page but 0, an XR word where a
field needs one, an immediate that fits its width, and not the word 0x0000 (R223, R224, R237). -/
def encodable (r : OpRow) (x : Fld) : Bool :=
  decide (Fld.prefixes x ≤ 4) && (r.page == 0 || x.xp) && (x.xr || Fld.lowOnly x) &&
  (x.imm == immExtend r.imm.signed (immWidth r.fmt x.nxi) (immRaw (immWidth r.fmt x.nxi) x.imm)) &&
  !(r.op == 0 && x.d.toNat % 8 == 0 && x.a.toNat % 8 == 0 && x.b.toNat % 8 == 0 && !x.f)

end Sys2Proof.Machine
end

