-- ==== Sys2Proof/Decode.lean ====
section
/-! DEFINITION. The decoder, total on any words and rejecting by name, and the encoder, both over the opcode map. -/

namespace Sys2Proof
open Sys2Proof.Machine

/-- Why words are no instruction: a broken rule at a word and its position (ILLEGAL, R227), or words that end before the
base word (FETCH, R218). -/
inductive DecodeError where
  | illegal (word : Half) (pos : Nat)
  | fetch
deriving DecidableEq, Repr

/-- The prefixes of a group read so far (R222, R223): how many, the page of XP, the word of XR, the mask of XK, the XI
payloads (count and value), and whether another prefix kind has followed an XI. -/
structure Prefixes where
  n : Nat := 0
  xp : Option Nat := none
  xr : Option Half := none
  xk : Option (Bool × BitVec 3) := none
  nxi : Nat := 0
  xival : Nat := 0
  xiDone : Bool := false
deriving DecidableEq, Repr

/-- Bits [15:12] of a prefix word are 1111 (R218). -/
def isPrefixWord (w : Half) : Bool := w.toNat / 4096 == 15

/-- One prefix word added to those before it; none where R223 or a reserved bit forbids it (R227). -/
def addPrefix (p : Prefixes) (w : Half) : Option Prefixes :=
  let v := w.toNat % 1024
  let done := p.xiDone || decide (0 < p.nxi)
  if 4 ≤ p.n then none else
  match w.toNat / 1024 % 4 with
  | 0 => if p.xiDone then none else some { p with n := p.n + 1, nxi := p.nxi + 1, xival := p.xival * 1024 + v }
  | 1 => if v % 2 = 1 || p.xr.isSome then none else some { p with n := p.n + 1, xr := some w, xiDone := done }
  | 2 => if 7 ≤ v || p.xp.isSome then none else some { p with n := p.n + 1, xp := some v, xiDone := done }
  | _ => if v % 64 ≠ 0 || p.xk.isSome then none else
      some { p with n := p.n + 1, xk := some (w.getLsbD 6, BitVec.ofNat 3 (v / 128)), xiDone := done }

/-- Reads prefix words up to the base word: the prefixes and the base word. -/
def scanGroup : Prefixes → List Half → Except DecodeError (Prefixes × Half)
  | _, [] => .error .fetch
  | p, w :: ws =>
    if isPrefixWord w then
      match addPrefix p w with
      | some p' => scanGroup p' ws
      | none => .error (.illegal w p.n)
    else .ok (p, w)

/-- Bit `i` of a word. -/
def hbit (w : Half) (i : Nat) : Bool := w.getLsbD i

/-- The fields of a group from its prefixes, its row and its base word (R220 to R224). -/
def groupFields (r : OpRow) (p : Prefixes) (w : Half) : Fld :=
  let x := p.xr.getD 0
  let lo (i : Nat) : Nat := w.toNat / 2 ^ i % 8
  let hi (i : Nat) : Nat := x.toNat / 2 ^ i % 4
  let reg (has : Bool) (h l : Nat) : BitVec 5 := BitVec.ofNat 5 (hi h * 8 + if has then lo l else 0)
  let raw := p.xival * 2 ^ r.fmt.immWidth + w.toNat % 2 ^ r.fmt.immWidth
  { d := reg r.fmt.hasD 8 7
    a := reg r.fmt.hasA 6 4
    b := reg r.fmt.hasB 4 1
    f := r.fmt.hasB && hbit w 0
    mode := if r.fmt = .m then BitVec.ofNat 2 (w.toNat / 4 % 4) else 0
    imm := immExtend r.imm.signed (immWidth r.fmt p.nxi) raw
    xp := p.xp.isSome
    xr := p.xr.isSome
    nxi := p.nxi
    xk := p.xk
    ta := hbit x 3
    tb := hbit x 2
    td := hbit x 1 }

/-- The instruction of a base word after its prefixes (R227, R237). -/
def decodeBase (p : Prefixes) (w : Half) : Except DecodeError Instr :=
  if w = 0 then .error (.illegal w p.n) else
  match opLookup (p.xp.getD 0) (w.toNat / 1024) with
  | none => .error (.illegal w p.n)
  | some r => if fieldsOk r (groupFields r p w) then .ok (r.ctor (groupFields r p w)) else .error (.illegal w p.n)

/-- The instruction of a group given as words from its first on; words after the base word are not read (R218). -/
def decodeWords (ws : List Half) : Except DecodeError Instr :=
  match scanGroup {} ws with
  | .error e => .error e
  | .ok (p, w) => decodeBase p w

/-- The low half of a wide value, the first word of a group stored at it. -/
def halfAt (w i : Nat) : Half := BitVec.ofNat 16 (w / 65536 ^ i)

/-- The words of an instruction numbered as the opcode table numbers them, in the order of the group: the table puts a
page prefix in bits 31 to 16 and the base word in bits 15 to 0, so the high half is first where it is a prefix word. -/
def tableWords (nbits w : Nat) : List Half :=
  if nbits ≤ 16 then [halfAt w 0]
  else if isPrefixWord (halfAt w 1) then [halfAt w 1, halfAt w 0]
  else [halfAt w 0, halfAt w 1]

/-- The instruction the decoder reads from a word of the opcode table. -/
def decodeTableWord (nbits w : Nat) : Option Instr :=
  match decodeWords (tableWords nbits w) with
  | .ok i => some i
  | .error _ => none

/-- The XI words of an immediate, the most significant first (R224): `n` payloads of ten bits. -/
def xiWords : Nat → Nat → List Half
  | 0, _ => []
  | n + 1, v => BitVec.ofNat 16 (0xF000 + v / 1024 ^ n % 1024) :: xiWords n v

/-- The XR word of a group's fields (R222). -/
def xrWord (x : Fld) : Half :=
  BitVec.ofNat 16 (0xF400 + x.d.toNat / 8 * 256 + x.a.toNat / 8 * 64 + x.b.toNat / 8 * 16 +
    (if x.ta then 8 else 0) + (if x.tb then 4 else 0) + (if x.td then 2 else 0))

/-- The XK word of a group's mask (R222). -/
def xkWord (k : Bool × BitVec 3) : Half := BitVec.ofNat 16 (0xFC00 + k.2.toNat * 128 + if k.1 then 64 else 0)

/-- The base word of a row's fields (R220). -/
def baseWord (r : OpRow) (x : Fld) : Half :=
  let i := immRaw (immWidth r.fmt x.nxi) x.imm % 2 ^ r.fmt.immWidth
  let d := x.d.toNat % 8
  let a := x.a.toNat % 8
  BitVec.ofNat 16 (r.op * 1024 +
    match r.fmt with
    | .a3 => d * 128 + a * 16 + x.b.toNat % 8 * 2 + if x.f then 1 else 0
    | .a2i => d * 128 + a * 16 + i
    | .a1i => d * 128 + i
    | .j => i
    | .m => d * 128 + a * 16 + x.mode.toNat * 4 + i)

/-- The words of a row's fields, in the order XP, XK, XR, XI, base (R223). -/
def encodeRow (r : OpRow) (x : Fld) : List Half :=
  (if x.xp then [BitVec.ofNat 16 (0xF800 + r.page)] else []) ++
  (match x.xk with
    | some k => [xkWord k]
    | none => []) ++
  (if x.xr then [xrWord x] else []) ++
  xiWords x.nxi (immRaw (immWidth r.fmt x.nxi) x.imm / 2 ^ r.fmt.immWidth) ++
  [baseWord r x]

/-- The words of an instruction; none for ILLEGAL_GROUP and the events, which no word encodes. -/
def encode (i : Instr) : List Half :=
  match opKey i with
  | none => []
  | some (page, op, x) =>
    match opLookup page op with
    | none => []
    | some r => encodeRow r x

end Sys2Proof
end

