-- ==== Sys2Proof/Config.lean ====
section
/-! DEFINITION. What the manual leaves open or to the implementation: constants without a body, so that no proof can know
their value. Each is applied to a ticket of the state or to the operands it depends on. -/

namespace Sys2Proof.Config

/-- Which of several operations that may come next does (R192, R205): an index, taken modulo their number. -/
opaque choice : Nat → Nat

/-- Whether a copy kept away from its home is returned where the home has changed (R66, R195). -/
opaque keepsOld : Nat → Bool

/-- A word the manual gives no value for. -/
opaque freeWord : Nat → BitVec 64

/-- The verdict of the fault-service firmware on a page (R74): READY or DENY. -/
opaque verdict : Nat → Bool

/-- The frame the fault-service firmware gives a page before it answers READY; none where it writes no leaf entry (R442). -/
opaque serviceFrame : Nat → Option Nat

/-- For how many array cycles an operand fetch of a term array is late (R313), by ticket. -/
opaque late : Nat → Nat

/-- For how many array cycles of a late fetch a run row of B has not come into the windows (R142, R312), by ticket and row. -/
opaque rowLate : Nat → Nat → Nat

/-- Whether path C still sees a byte as it was before an engine's write that no FENCE has carried to it (R20, R322), by ticket and location. -/
opaque seesOld : Nat → Nat → Bool

/-- The bytes a packet counts as at its injection (R147): the length of packets on the Braid is not given. -/
opaque packetBytes : Nat → Nat → Nat

/-- How strongly the PTP clock is slowed while it spends an error (R407): it runs at 1 / (slew + 1) of its rate. -/
opaque slew : Nat

/-- The link ports that lead from a router toward a device, primary and alternate, by the ticket at which the tables were written (R129,
R409): the body of the configuration table (R438) has no field for them. -/
opaque deviceLink : Nat → Nat → Nat → Nat
opaque deviceAlt : Nat → Nat → Nat → Nat

/-- SHAKE256 of a byte string, to a number of bytes (R434 names the function; its definition is outside the manual). -/
opaque shake256 : List (BitVec 8) → Nat → List (BitVec 8)

/-- ML-DSA-65 verification: key, digest, signature (R434, R440). -/
opaque verify : List (BitVec 8) → List (BitVec 8) → List (BitVec 8) → Bool

/-- ML-DSA-65 signing, with the key pair that key generation derives from a seed: seed, digest (R440). -/
opaque sign : List (BitVec 8) → List (BitVec 8) → List (BitVec 8)

/-- The 256-bit secret of a device's PUF (R440), as 32 bytes. -/
opaque puf : Nat → List (BitVec 8)

/-- Whether the reconstruction of the PUF key fails at a boot (R436). -/
opaque pufFails : Nat → Bool

end Sys2Proof.Config
end

