-- ==== Sys2Proof/Machine/Sparse.lean ====
section
/-! DEFINITION. Sparse maps: a list of (key, value) pairs, keys strictly rising; a key with no entry reads as a
default. Registers, memories and every array of like things of the machine are held so. -/

namespace Sys2Proof.Machine

/-- A sparse map with Nat keys. -/
abbrev Sp (α : Type) := List (Nat × α)

/-- The entry at a key, if any (the first one). -/
def Sp.find {α : Type} : Sp α → Nat → Option α
  | [], _ => none
  | p :: m, k => if p.1 = k then some p.2 else Sp.find m k

/-- What a key reads as: its entry, or the default `d`. -/
def Sp.get {α : Type} (d : α) (m : Sp α) (k : Nat) : α := (Sp.find m k).getD d

/-- The map without its entries at `k`. -/
def Sp.erase {α : Type} : Sp α → Nat → Sp α
  | [], _ => []
  | p :: m, k => if p.1 = k then Sp.erase m k else p :: Sp.erase m k

/-- The map with `(k, v)` placed before the first larger key; for a map without an entry at `k`. -/
def Sp.place {α : Type} : Sp α → Nat → α → Sp α
  | [], k, v => [(k, v)]
  | p :: m, k, v => if p.1 < k then p :: Sp.place m k v else (k, v) :: p :: m

/-- The map with `v` at `k`. -/
def Sp.put {α : Type} (m : Sp α) (k : Nat) (v : α) : Sp α := Sp.place (Sp.erase m k) k v

/-- The map that reads `v` at `k`, with no entry where `v` is the default. -/
def Sp.set {α : Type} [DecidableEq α] (d : α) (m : Sp α) (k : Nat) (v : α) : Sp α :=
  if v = d then Sp.erase m k else Sp.put m k v

/-- Canonical form: keys strictly rising and no entry that holds the default. -/
def Sp.wf {α : Type} [DecidableEq α] (d : α) : Sp α → Bool
  | [] => true
  | p :: m => decide (p.2 ≠ d) && (match m with | [] => true | q :: _ => decide (p.1 < q.1)) && Sp.wf d m

/-- Keys strictly rising. -/
def Sp.sorted {α : Type} : Sp α → Bool
  | [] => true
  | p :: m => (match m with | [] => true | q :: _ => decide (p.1 < q.1)) && Sp.sorted m

end Sys2Proof.Machine
end

