-- ==== Sys2Proof/Machine/Parts.lean ====
section
/-! DEFINITION. The parts of the machine's state, block by block, as plain data: thread slots, cores, clusters, memory
slices, routers, partitions, command queues, devices. A field's default is its value at device reset. -/

namespace Sys2Proof.Machine
open Sys2Proof

/-- An operation in flight: the part that acts (State.cur while it is performed), the words an outside party sends with
it, and the operation; `inj` where a budget still holds it back at an injecting block (R147): the NI, the partition, the phase tag
it is counted under, if it is; `spent` the partition whose slice budget holds it back (R147, R413); `xl` the page entries by which it was
translated before it stalled (R66). -/
structure Op where
  who : Nat := 0
  data : List W64 := []
  ins : Instr
  inj : Option (Nat × Nat × Option Bool) := none
  spent : Option Nat := none
  xl : Sp W64 := []
deriving DecidableEq, Repr

/-- What a waiting group waits for (R172, R179). -/
inductive Cond where
  /-- a register is EMPTY (R26), by its code -/
  | reg (code : Nat)
  /-- no word has arrived on a port, or its link is full (R28, R83) -/
  | portIn (i : Nat)
  | portOut (i : Nat)
  /-- the limits of R173 on outstanding accesses -/
  | entry (vector : Bool)
  /-- an access of the slot to a 64-byte line is outstanding (R192, R279) -/
  | line (key : Nat)
  /-- every outstanding access and pending fill of the slot completes (R198, R175, R367) -/
  | settled
  /-- the writes a release form covers are acknowledged (R196) -/
  | released
  /-- the request has left the core; its answer ends the wait (R186, R289, R325, R354) -/
  | answer (tag : Nat)
  /-- the command queue of the cluster's term array has room (R301) -/
  | commands
deriving DecidableEq, Repr

/-- Why a context is suspended (R171). -/
inductive Suspend where
  | consumer | member | arcom
  /-- a fault save that found no free frame (R187) -/
  | fault
deriving DecidableEq, Repr

/-- The states of a resident context (R171). `halted` of R171 is none of them: a slot is halted while its cluster is (R425, R426), so
that the release gives back the state before. -/
inductive SlotState where
  | idle
  | ready
  | waiting (c : Cond)
  | suspended (w : Suspend)
deriving DecidableEq, Repr

/-- A sync object in a core's binding table (R127): its line, whether it is WIDE, its ranges (first line of the global form, lines), the
level of the binding unit, and the partition that keeps it. -/
structure Bind where
  obj : Nat
  wide : Bool
  ranges : List (Nat × Nat)
  level : W64
  part : Nat
deriving DecidableEq, Repr

/-- An outstanding access or a pending fill of a slot (R26, R173, R185): `access` holds one of the entries of R173;
`acc` is what was captured at issue; `reply` is what has come back where the entry stays for a trap or a save; `len` is
the length of a group that keeps its slot waiting for the answer, else 0; `soft` marks a wait that may be withdrawn after
its request has left the core (R183, R186); `pc` is its group's; `addr` is the effective address of a form that captures no access (R42);
`bind` is B(O) of a REL as it was at its issue (R196, R291). -/
structure Outst where
  tag : Nat
  pc : Pc
  access : Bool
  vector : Bool
  dests : List Nat
  lines : List Nat
  write : Bool
  acc : Option Access
  held : Bool
  reply : Option Reply
  len : Nat
  soft : Bool
  addr : W64 := 0
  bind : Option Bind := none
deriving DecidableEq, Repr

/-- The first attempt of a waiting group (R179): its cycle and number; the limit of the wait it is in now, and the
TRAPINFO of its expiry; the cycle from which the watchdog counts it (R144). -/
structure Attempt where
  since : Nat
  id : Nat
  limit : Option Nat
  info : W64
  watched : Option Nat
deriving DecidableEq, Repr

/-- A write of a killed unit still to be performed (R175): its unit and its entry. -/
structure Orphan where
  slot : Nat
  gen : BitVec 32
  entry : Outst
deriving DecidableEq, Repr

/-- A registration of a unit at a barrier object (R347): its address and generation. -/
structure BarReg where
  addr : W64
  gen : BitVec 32
deriving DecidableEq, Repr

/-- A saved context of a slot (R171, R184, R187): where its frame lies, why and when it was saved, the verdict of its
wake, and what the frame does not hold: phase tag, source and stamps of the unit, its vote, its TRAPVEC for the heartbeat
(R145), the instruction-store lines it has written (R197), the places of its replay
records in program order (R191), the state it returns to with the attempt of its waiting group (R179), and the address of
its first faulted access (R74), the trap its waiting form still takes, and the bindings of the RELs among its records, by place (R291). -/
structure Saved where
  pool : W64
  frame : Nat
  ext : Option Nat
  gen : BitVec 32
  level : W64
  home : Nat
  part : Nat
  fault : Bool
  pages : List Nat
  time : Nat
  wake : Option (Nat × Bool)
  cancel : Bool
  arAbort : Bool
  wdog : Bool
  region : Option W64
  voted : Bool
  phase : Bool
  source : Nat
  enq : W64
  deq : W64
  trapvec : W64
  ist : List Nat
  tags : List Nat
  back : SlotState
  attempt : Option Attempt
  first : W64
  binds : List (Nat × Bind) := []
  tabFail : Bool := false
  owed : Option (Nat × W64) := none
deriving DecidableEq, Repr

/-- A thread slot and its resident context (R23 to R48, R110, R171, R347, R365). `fe` holds the EMPTY registers by code;
`attempt` is the first attempt of the waiting group (R179); `preempt` counts the groups retired since a pending
pre-emption request (R183); `ist` are the instruction-store lines the unit has stored to (R197); `tabFail` that a kill of a
member of its completion group is still to trap (R116); `pages` the pages whose wake a slot suspended without a frame awaits; `words` are those of the group that waits (R282); `first` is the address of its first faulted access (R74); `atBrk` says that it halted at a BRK, which the release passes (R382, R426), `step`
that a debug step lets it issue one group (R428); `owed` is the trap (cause, TRAPINFO) that its group's own outcome is, where
it came while the slot was stopped (R185). -/
structure Slot where
  g : Sp W64 := []
  v : Sp V512 := []
  k : Sp K32 := []
  fe : Sp Bool := []
  pc : Pc := 0
  st : SlotState := .idle
  gen : BitVec 32 := 0
  genNext : BitVec 32 := 1
  level : W64 := 0
  home : Nat := 0
  corr : BitVec 32 := 0
  stktop : W64 := 0x80000
  trappc : W64 := 0
  trapcause : W64 := 0
  trapaddr : W64 := 0
  trapinfo : W64 := 0
  trapvec : W64 := 0
  trapscr : W64 := 0
  oobflag : W64 := 0
  oobaddr : W64 := 0
  guardmode : W64 := 0
  waitpol : W64 := 0
  retired : W64 := 0
  cancel : Bool := false
  arAbort : Bool := false
  wdog : Bool := false
  tabFail : Bool := false
  guardPend : Bool := false
  outst : List Outst := []
  stopped : Bool := false
  attempt : Option Attempt := none
  preempt : Option Nat := none
  stack : List W64 := []
  region : Option W64 := none
  voted : Bool := false
  bars : Sp BarReg := []
  pool : W64 := 0
  source : Nat := 0
  pri : Nat := 0
  cls : Nat := 0
  phase : Bool := false
  enq : W64 := 0
  deq : W64 := 0
  saved : List Saved := []
  pages : List Nat := []
  first : W64 := 0
  ist : List Nat := []
  words : Option (List Half) := none
  atBrk : Bool := false
  step : Bool := false
  owed : Option (Nat × W64) := none
deriving DecidableEq, Repr

/-- Who wrote a protection region's sub-index 2 with V = 1 (R58): the slot, its GEN, and its level. -/
structure ProtOwner where
  slot : Nat
  gen : BitVec 32
  level : W64
deriving DecidableEq, Repr

/-- An entry of a tag table (R125); an entry in the map is valid. `use` orders the ways of a set by recency. -/
structure TagEntry where
  tag : Nat
  data : W64
  use : Nat
deriving DecidableEq, Repr

/-- The states of a stream port (R84). -/
inductive PortState where
  | closed | bound | opened | listen | recv
deriving DecidableEq, Repr

/-- A stream port (R83, R84, R332): its owner; for a writer the target place, core and port, how far its route is
(`acq`: 0 none, 1 being acquired, 2 acquired) with the channels it holds, and the words in flight; for a receiver the
sender's core and port plus 1; the words that have arrived, where none stands for the closing marker; the words taken
and written; `refused` the reason a write traps (0 none, 1 ADDR at the place, 3 refused by the receiver); `route` is the
number of the route at either end, `writer` the slot whose group acquires it. -/
structure Port where
  st : PortState := .closed
  owner : Nat := 0
  gen : BitVec 32 := 0
  place : W64 := 0
  tgtCore : Nat := 0
  tgtPort : Nat := 0
  acq : Nat := 0
  hops : List Nat := []
  flying : Nat := 0
  srcCore : Nat := 0
  srcPort : Nat := 0
  buf : List (Option W64) := []
  taken : BitVec 16 := 0
  wrote : BitVec 16 := 0
  refused : Nat := 0
  phase : Bool := false
  route : Nat := 0
  writer : Nat := 0
deriving DecidableEq, Repr

/-- The event counters of a core and its NI (R146); ECCFIX by SRAM block of the core (0 its scratchpad, 1 its instruction store, 2 any other). -/
structure CoreCount where
  gendrop : BitVec 32 := 0
  classdrop : BitVec 32 := 0
  retry : BitVec 32 := 0
  portretry : BitVec 32 := 0
  framefull : BitVec 32 := 0
  eccfix : Sp (BitVec 32) := []
deriving DecidableEq, Repr

/-- The reset value of a class binding word (R79): class 0 enabled with SIZE 3, the others disabled. -/
def classReset (c : Nat) : W64 := if c = 0 then 0x8300000 else 0

/-- What the NI keeps of an entry in an inbox ring that its words do not hold (R31, R148, R174): level, correlation number
and frame pool of an ACTIVE entry, the key and header of a Confluence record, the source and the enqueue time. -/
structure EntryInfo where
  level : W64 := 0
  home : Nat := 0
  corr : BitVec 32 := 0
  pool : W64 := 0
  key : W64 := 0
  header : W64 := 0
  source : Nat := 0
  enq : W64 := 0
deriving DecidableEq, Repr

/-- A core (R16, R44, R45, R61, R79, R125, R127, R141, R195). `fetchBuf` holds the lines the fetch buffer keeps, as they
were when they were fetched; `entries` is what the NI keeps of a ring entry beside its words, by class * 8192 + word
index; `placed` says that the Sorting Office has placed a record here that no unit has taken yet (R176); `arrived` is one more than the
cycle in which its NI last took a message, with that message's place in the order of R81; `cycleAdd` is what a debug write has added to
CYCLE (R428). -/
structure Core where
  guards : Sp Bool := []
  fetchBuf : Sp V512 := []
  cpymask0 : W64 := 0
  cpymask1 : W64 := 0
  cpyxmask : W64 := 0
  prot : Sp W64 := []
  protOwn : Sp ProtOwner := []
  tagCfg : W64 := 2
  tags : Sp TagEntry := []
  binds : List Bind := []
  classes : Sp W64 := []
  heads : Sp Nat := []
  tails : Sp Nat := []
  ports : Sp Port := []
  entries : Sp EntryInfo := []
  placed : Bool := false
  arrived : Nat × Nat := (0, 0)
  cycleAdd : W64 := 0
  count : CoreCount := {}
deriving DecidableEq, Repr

/-- Bytes of a copy that wait for a page (R75, R296): the page, whether they were accepted, and the range. -/
structure HeldBytes where
  page : Nat
  accepted : Bool
  lo : Nat
  hi : Nat
deriving DecidableEq, Repr

/-- A courier copy (R292 to R297): who issued it; `rows` rows of `len` bytes by their strides (a CPYM's rows are its cores); the
completion target, and the core of a KIND 0 word. Byte ranges still to be accepted, to be read, on their way with what was read, and
held, and stalled at a slice (with what was read, of those on their way); the completions still to be applied; the couriers that have
looked at the masks of their source cores (R44). -/
structure CopyJob where
  slot : Nat
  gen : BitVec 32
  pc : Pc
  part : Nat
  level : W64
  phase : Bool
  src : W64
  dst : W64
  sstride : Nat
  dstride : Nat
  rows : Nat
  len : Nat
  target : BitVec 32
  place : Nat
  multi : Bool
  todo : List (Nat × Nat)
  accepted : List (Nat × Nat)
  flying : List (Nat × Nat × V512)
  held : List HeldBytes
  left : Nat
  stuck : List (Nat × Nat × Option V512) := []
  looked : List Nat := []
  heard : Nat := 0
deriving DecidableEq, Repr

/-- A task record waiting in a ready queue (R94): its order, the cycle it was enqueued, its level of priority now,
whether ageing has raised it, and the slot a pre-emption was asked of for it. -/
structure ReadyRec where
  seq : Nat
  since : Nat
  pri : Nat
  raised : Bool
  ask : Option Nat
  body : TaskRec
deriving DecidableEq, Repr

/-- A dependence counter (R134), and the level for which its record is read (R58). -/
structure DepCount where
  level : W64 := 0
  home : Nat := 0
  count : BitVec 32 := 0
  armed : Bool := false
  under : Bool := false
  record : W64 := 0
deriving DecidableEq, Repr

/-- A slot on a Pigeonhole waiting list (R109): MEMBER or CONSUMER, with the descriptor's words as its call has read them, and the
number of its request, which its wake answers (R140). -/
structure Waiter where
  slot : Nat
  gen : BitVec 32
  member : Bool
  words : List W64
  tag : Nat := 0
deriving DecidableEq, Repr

/-- A Pigeonhole entry (R108); `st` is STATE (0 EMPTY, 1 PRODUCING, 2 COMPLETE, 3 GROUPED), `place` of the parent and of
the leader is (cluster, index), `words` are the descriptor's as the call that made the entry has read them, `use` orders the ways
of a set by recency. -/
structure Pigeon where
  words : List W64 := []
  part : Nat := 0
  desc : W64 := 0
  args : List W64 := [0, 0, 0, 0]
  ans : List W64 := [0, 0, 0, 0]
  waiters : List Waiter := []
  version : BitVec 16 := 0
  iter : Nat := 0
  stale : Bool := false
  done : Bool := false
  handed : Bool := false
  pin : Bool := false
  retry : Nat := 0
  ansc : Nat := 0
  argc : Nat := 0
  st : Nat := 0
  prodSlot : Nat := 0
  prodGen : BitVec 32 := 0
  parent : Option (Nat × Nat) := none
  leader : Option (Nat × Nat) := none
  members : Nat := 0
  level : W64 := 0
  home : Nat := 0
  stamp : BitVec 32 := 0
  use : Nat := 0
deriving DecidableEq, Repr

/-- A Confluence record (R87, R88); `ord` is its place in the order of creation, a CONT record's behind its head's; `born` the
cycle it was created. -/
structure ConfRec where
  part : Nat
  qid : Nat
  ord : Nat
  born : Nat
  key : W64
  w1 : W64
  level : W64
  home : Nat
  count : Nat
  isSealed : Bool
  cont : Bool
  inexact : Bool
  ovf : Bool
  op : Nat
  w : List W64
  filled : Nat
  corr : BitVec 32
  pool : W64
  phase : Bool
deriving DecidableEq, Repr

/-- A pop parked at a Confluence slice (R337), with the generation of the queue it was accepted for. -/
structure ParkedPop where
  part : Nat
  qid : Nat
  slot : Nat
  gen : BitVec 32
  tag : Nat
  since : Nat
  qgen : BitVec 16 := 0
deriving DecidableEq, Repr

/-- What a Confluence slice keeps of one queue (R93, R146): head and tail indices, the counters CQSTAT reads, and `joinedAt`, one above the cycle
in which a push last combined. -/
structure ConfQueue where
  gen : BitVec 16 := 0
  head : BitVec 16 := 0
  tail : BitVec 16 := 0
  created : BitVec 32 := 0
  combined : BitVec 32 := 0
  joinedAt : Nat := 0
  full : BitVec 32 := 0
deriving DecidableEq, Repr

/-- A member of a region (R119, R122, R124): its slot and GEN, whether it has voted, whether it has received its outcome, and
the slices where it holds entries. -/
structure RegMember where
  slot : Nat
  gen : BitVec 32
  voted : Bool
  told : Bool
  slices : List Nat
deriving DecidableEq, Repr

/-- A region record (R119); `st` is STATE (0 FREE, 1 OPEN, 2 COMMITTING, 3 ABORTING, 4 COMMITTED, 5 ABORTED), `acks` the
slices whose acknowledgement is awaited, `phase` the tag of what its coordinator and the slices send of themselves (R140). -/
structure Region where
  gen : BitVec 32 := 0
  part : Nat := 0
  m : Nat := 0
  votes : Nat := 0
  cause : Nat := 0
  st : Nat := 0
  deadline : BitVec 32 := 0
  born : Nat := 0
  level : W64 := 0
  home : Nat := 0
  members : List RegMember := []
  slices : List Nat := []
  acks : List Nat := []
  phase : Bool := false
deriving DecidableEq, Repr

/-- An entry of a write-set directory (R120): partition and line; the region's handle with its coordinator's partition `home`;
`loc` is where the line lies in memory. -/
structure WsEntry where
  part : Nat
  line : Nat
  home : Nat
  region : W64
  loc : Nat
  r : Bool
  w : Bool
  prep : Bool
  mask : BitVec 64
  data : V512
deriving DecidableEq, Repr

/-- Who awaits an answer: a unit and the place of its group in the order of issue. -/
structure Asker where
  slot : Nat
  gen : BitVec 32
  tag : Nat
deriving DecidableEq, Repr

/-- A fired counter whose record is still to be read (R75, R135): a number of its own, the counter, the record's address, the level
it is read for, and the phase tag. -/
structure Firing where
  id : Nat
  idx : Nat
  addr : W64
  level : W64
  home : Nat
  phase : Bool
deriving DecidableEq, Repr

/-- A completion's update of a sync word that waits for a page (R75): a number of its own, the update, and whose it is. -/
structure HeldSync where
  id : Nat
  upd : Access
  copy : Nat
deriving DecidableEq, Repr

/-- The term array's configuration image (R303): the words of the MXCFG block and of the MXUNF descriptor, none where the image
holds none, and the B source. -/
structure MxImage where
  cfg : Option (List W64) := none
  unf : Option (List W64) := none
  bbase : W64 := 0
  bstride : W64 := 0
deriving DecidableEq, Repr

/-- The commands of a term array (R301). -/
inductive MxOp where
  | cfg | unf | ldb | zero | run | rd | rdx | free
deriving DecidableEq, Repr

/-- A command (R303): its number, the image it carries, its two operands, the phase tag of its traffic (R140), its place in the order of
issue (R198). -/
structure MxCmd where
  no : Nat
  op : MxOp
  img : MxImage
  a : W64
  b : W64
  phase : Bool := false
  tag : Nat := 0
  heard : Nat := 0
deriving DecidableEq, Repr

/-- A lane (R163): acc as a signed number, and its sticky flags. -/
structure Lane where
  acc : Int := 0
  inexact : Bool := false
  overflow : Bool := false
deriving DecidableEq, Repr

/-- A readout write on its way (R319): the command, the number of its item, what its lanes held with their F_n, the format that places
the elements, the holder it is made for, with its level, and the page entries by which it was translated before it stalled (R66). -/
structure MxWrite where
  cmd : MxCmd
  item : Nat
  vals : List (Lane × Nat)
  fmt : Nat
  holder : Nat × BitVec 32 := (0, 0)
  level : W64 := 0
  xl : Sp W64 := []
deriving DecidableEq, Repr

/-- The error latch (R314): cause, address, TRAPINFO. -/
structure MxLatch where
  cause : Nat
  addr : W64
  info : W64
deriving DecidableEq, Repr

/-- A column of a term array during a run (R312): the k-steps it has finished, and the terms still to be applied in each of those
that are fetched. -/
structure Column where
  done : Nat
  terms : List Nat
deriving DecidableEq, Repr

/-- A term array (R142, R143, R180, R300 to R323). The lease: `holder` with its level, `ended` where the holder's unit has ended,
`freeing` after its MXFREE, `grants` and `reqs` counted, `runs` issued since the grant, `budRuns` and `budAt` (in array cycles) of the
budget whose number is `bud`, `grace` with the array cycle it began, `lastRun` the array cycle of the last run's completion. Commands:
`queue`, the one being performed, `issued` and `done` counted; of a run the next macro step, of a run or readout the page it waits
for with the address, of a readout the format that places its elements, the next item to be sent, the bytes written, the tag of its
completion, whether it has failed. `flying` are readout writes on their way, `heldW` those that wait for a
page, `lost` units whose MXWAIT has met a revocation.
`tlines` are operand lines kept, by location / 64, each with the place in the order of issue of the command that fetched it; `fences` the
places of the FENCEs that have named T (R195, R198); `gap` counts the array cycles that did not run;
`cols` are the columns of the run, `waited` that it has stood at its stop point. -/
structure TermArray where
  holder : Option (Nat × BitVec 32) := none
  level : W64 := 0
  ended : Bool := false
  freeing : Bool := false
  grants : BitVec 32 := 0
  reqs : BitVec 16 := 0
  runs : Nat := 0
  budRuns : Nat := 0
  budAt : Nat := 0
  bud : Nat := 0
  grace : Option Nat := none
  lastRun : Nat := 0
  img : MxImage := {}
  latch : Option MxLatch := none
  stopHeld : Bool := false
  stopped : Bool := false
  inexact : Bool := false
  overflow : Bool := false
  queue : List MxCmd := []
  cmd : Option MxCmd := none
  issued : Nat := 0
  done : Nat := 0
  mstep : Nat := 0
  page : Option (Nat × W64 × Nat) := none
  rfmt : Nat := 0
  next : Nat := 0
  bytes : Nat := 0
  rtag : Option Nat := none
  failed : Bool := false
  flying : List MxWrite := []
  heldW : List (MxWrite × Nat × W64 × Nat) := []
  lost : List (Nat × BitVec 32) := []
  lanes : Sp Lane := []
  frac : Sp Nat := []
  ctr : Sp (BitVec 48) := []
  base : Sp (BitVec 48) := []
  tlines : Sp (Nat × V512) := []
  fences : List Nat := []
  gap : Nat := 0
  leaseQ : List Asker := []
  waitQ : List (Asker × Nat) := []
  cols : List Column := []
  waited : Bool := false
deriving DecidableEq, Repr

/-- Who reads on a path: a thread (slot and GEN), the place of its access or engine operation in the order of issue, and the place of what it
had last received when that issued. -/
structure Viewer where
  slot : Nat := 0
  gen : BitVec 32 := 0
  tag : Nat := 0
  heard : Nat := 0
deriving DecidableEq, Repr

/-- What carries a write to a path (R20, R198, R406), at a place in the order of issue: a FENCE of a thread (slot and GEN), or the placement of
a record written for a LAUNCH at a core. -/
structure Carry where
  path : Nat
  place : Nat
  slot : Nat
  gen : BitVec 32
  core : Option Nat := none
deriving DecidableEq, Repr

/-- A cluster (R15, R56, R94, R106, R134, R425). `part` is the partition it belongs to, `rel` its number in it;
`selected` is 1 more than the cycle in which its Confluence slice last selected a record; `terms` the TERMS counted up to the governor's last estimate and `owed` those of them that had
no array cycle before it (R421); `dbgNext` are the GROUP, XIN and XOUT written
while it is halted, `haltAt` the cycle of its halt, `haltHeld` what the halt holds for its slots, by slot in the order of arrival, `frozenAt` the cycle from which its array is frozen (R426); `eccfix` ECCFIX of its
SRAM blocks (R146): 4 its scheduler, 5 and 6 its Pigeonhole and Confluence slices, 7 its term array, 8 its router. -/
structure Cluster where
  part : Option Nat := none
  rel : Nat := 0
  seg : Sp W64 := []
  ready : List ReadyRec := []
  dc : Sp DepCount := []
  firing : List Firing := []
  syncHeld : List HeldSync := []
  pigeon : Sp Pigeon := []
  conf : Sp ConfRec := []
  confq : Sp ConfQueue := []
  lastSel : Sp Nat := []
  selected : Nat := 0
  pops : List ParkedPop := []
  held : List Op := []
  regions : Sp Region := []
  arr : TermArray := {}
  faultWait : List FaultRec := []
  stealfail : BitVec 32 := 0
  enqrefuse : BitVec 32 := 0
  filler : BitVec 32 := 0
  terms : BitVec 48 := 0
  owed : Nat := 0
  dbgctl : W64 := 0
  dbgNext : Option W64 := none
  haltAt : Nat := 0
  haltHeld : List (Nat × Op) := []
  frozenAt : Option Nat := none
  eccfix : Sp (BitVec 32) := []
deriving DecidableEq, Repr

/-- A memory slice (R17, R66, R120, R122): write-set directory, the regions prepared here (by home partition and handle), what
stalls at a line, its translation cache, which holds leaf entries by partition and page; `dead` where no access reaches it any more
(R419). -/
structure Slice where
  ws : List WsEntry := []
  prepared : List (Nat × W64) := []
  stalled : List Op := []
  tcache : Sp W64 := []
  eccfix : BitVec 32 := 0
  dead : Bool := false
deriving DecidableEq, Repr

/-- An entry of a router's fault merge table (R73): partition, page and the mask of child ports, with what has come on them: a record
of a router's own entry, or one that had passed unmerged, by its cluster. -/
structure MergeEntry where
  part : Nat
  page : Nat
  ports : List Nat
  paths : List (Nat × Option Nat) := []
deriving DecidableEq, Repr

/-- A Braid router (R73, R83, R129, R419): merge table, routing tables (the router of a device's primary
and of its alternate link port), STREAM channels in use by port, and whether it
has failed. -/
structure Router where
  merge : List MergeEntry := []
  clusterTable : Sp Nat := []
  deviceTable : Sp Nat := []
  deviceAlt : Sp Nat := []
  streams : Sp Nat := []
  failed : Bool := false
deriving DecidableEq, Repr

/-- A declared Confluence queue of a partition (R85, R334). -/
structure Decl where
  live : Bool := false
  gen : BitVec 16 := 0
  w0 : W64 := 0
  w1 : W64 := 0
  w2 : W64 := 0
  w3 : W64 := 0
  level : W64 := 0
  home : Nat := 0
  pool : W64 := 0
  corr : BitVec 32 := 0
deriving DecidableEq, Repr

/-- The phase counters of an NI (R141), and of the Sorting Office's the retries (R146): a core's are among its counters. -/
structure Ni where
  retry : BitVec 32 := 0
  sent0 : BitVec 32 := 0
  recv0 : BitVec 32 := 0
  sent1 : BitVec 32 := 0
  recv1 : BitVec 32 := 0
deriving DecidableEq, Repr

/-- A QUIET that waits at the Sorting Office (R351): who, the level it names, and the tag. -/
structure QuietReq where
  who : Asker
  level : W64
  tag : Bool
deriving DecidableEq, Repr

/-- Units of a LAUNCH still to be placed (R176, R177): the record of unit 0, its next unit, their number, the amount word 4
grows by, the size of a gang and the ports preset for it (member, port, target member, target port); `rest` says that the remaining
units go to the ready queues. -/
structure Placing where
  body : TaskRec
  next : Nat
  units : Nat
  step : W64
  gang : Nat
  pipes : List (Nat × Nat × Nat × Nat)
  rest : Bool := false
deriving DecidableEq, Repr

/-- A pending release of the timer wheel (R97); `fell` is the start of the tick at which it has fallen due. -/
structure Release where
  time : W64
  body : TaskRec
  cluster : Nat
  part : Nat
  fell : Option Nat := none
deriving DecidableEq, Repr

/-- A level record (R136, R145) and the packet it belongs to: (queue, index); `beatAt` is the cycle of its heartbeat's next tick. -/
structure Level where
  outstanding : Nat := 0
  errors : Nat := 0
  done : Bool := false
  cancelled : Bool := false
  under : Bool := false
  parent : W64 := 0
  persistwin : W64 := 0
  beat : Nat := 0
  beatAt : Nat := 0
  packet : Option (Nat × Nat) := none
  phase : Bool := false
  waiters : List Asker := []
deriving DecidableEq, Repr

/-- One sweep of the phase counters (R141): the sums of both tags. -/
structure Sweep where
  sent0 : BitVec 32
  recv0 : BitVec 32
  sent1 : BitVec 32
  recv1 : BitVec 32
deriving DecidableEq, Repr

/-- A partition (R64, R85, R103, R128, R140, R147, R176, R411, R413, R414, R417, R439). `newInj`, `newSlice` and `newCour` are limits
written since the last period boundary (R413); `idle`, `room` and `frames` what its clusters have reported (R176); `endpoint` and `keys` its
fabric endpoint's address and its key set (R404, R411); `power` the governor's estimate of its power (R422). -/
structure Part where
  live : Bool := false
  clusters : List Nat := []
  root : W64 := 0
  scalebase : W64 := 0
  wdogwin : W64 := 0x100000
  tag : Bool := false
  faultCore : Option Nat := none
  decls : Sp Decl := []
  signals : Sp W64 := []
  groups : Sp (List W64) := []
  quotaLevels : Nat := 16384
  quotaTimers : Nat := 65536
  budInj : BitVec 40 := 0
  budSlice : BitVec 40 := 0
  budCour : BitVec 40 := 0
  useInj : BitVec 40 := 0
  useSlice : BitVec 40 := 0
  useCour : BitVec 40 := 0
  newInj : Option (BitVec 40) := none
  newSlice : Option (BitVec 40) := none
  newCour : Option (BitVec 40) := none
  pfloor : BitVec 16 := 0
  power : Nat := 0
  endpoint : List Byte := []
  keys : List Byte := []
  resets : BitVec 32 := 0
  resetCause : Nat := 0
  resetting : Bool := false
  sweep : Option Sweep := none
  quiet0 : Bool := false
  quiet1 : Bool := false
  rr : Nat := 0
  quiets : List QuietReq := []
  placing : List Placing := []
  idle : Sp Nat := []
  room : Sp Nat := []
  frames : Sp Nat := []
  traceOn : Bool := false
  traceBase : W64 := 0
  traceSize : Nat := 0
  traceNext : Nat := 0
deriving DecidableEq, Repr

/-- A packet the Headwater has copied (R100, R101): its index and words, whether it has started; of a LAUNCH the template, the class
image and the pipe words as its start has read them; of a COPY the byte ranges still to be read, and bytes on their way (place, length,
what was read); the number of the QTAIL write that copied it (R406). -/
structure Packet where
  idx : BitVec 32
  w : List W64
  started : Bool := false
  tmpl : List W64 := []
  image : List W64 := []
  pipes : List W64 := []
  todo : List (Nat × Nat) := []
  flying : List (Nat × Nat × V512) := []
  qtail : Nat := 0
deriving DecidableEq, Repr

/-- A command queue (R98, R100, R458): its owner, registers and copied packets; `stopping` after a write of 0 while RUNNING. -/
structure Queue where
  own : Option Nat := none
  base : W64 := 0
  size : Nat := 6
  cpl : W64 := 0
  tail : BitVec 32 := 0
  head : BitVec 32 := 0
  st : Nat := 0
  cplerr : Bool := false
  rej : BitVec 32 := 0
  packets : List Packet := []
  stopping : Bool := false
deriving DecidableEq, Repr

/-- What the snapshot banks of a device have latched (R430): its parts as they were, of each courier with a copy its number, tags in use and
bytes pending, the ticket for what the model does not hold, and the banks that have been read. -/
structure Snapshot where
  now : Nat
  seed : Nat
  slots : Sp Slot
  cores : Sp Core
  clusters : Sp Cluster
  slices : Sp Slice
  routers : Sp Router
  nis : Sp Ni
  couriers : List (Nat × Nat × Nat)
  freed : List Nat
deriving DecidableEq, Repr

/-- The typical role map with W = 4 (R439): in each firmware-column cluster core 127 fault service, 126 partition management, 125 telemetry, and
124 attestation, or debug service in the upper four. -/
def typicalRoles : Sp Nat :=
  (List.range 8).flatMap fun j => [(124, if j < 4 then 4 else 5), (125, 3), (126, 2), (127, 1)].map fun (q : Nat × Nat) =>
    ((15 + 16 * j) * 128 + q.1, q.2)

/-- What a device has booted (R436, R438, R441): whether it is in recovery, the slot, its SVN, marker SEQ and digest, the configuration table's
digest, SEQ and DEVICE, the roles of the firmware cores by their number in the device. DESIGN CHOICE (assumption 3): at State.reset, which no table
has given, the roles are the typical map, the digests zero, and DEVICE is the device's number. -/
structure Boot where
  recovery : Bool := false
  slot : Nat := 0
  svn : BitVec 32 := 0
  seq : W64 := 0
  digest : List Byte := List.replicate 64 0
  cfgDigest : List Byte := List.replicate 64 0
  cfgSeq : W64 := 0
  ident : Option Nat := none
  harv : List Nat := []
  roles : Sp Nat := typicalRoles
deriving DecidableEq, Repr

/-- A PTP master as its announce messages describe it (R407): its data set as one number, the better the lower, and the cycle until which
its announcement lasts. -/
structure PtpMaster where
  rank : Nat
  until_ : Nat
deriving DecidableEq, Repr

/-- A device. `ptpSet` is PTPTIME at cycle `ptpAt`, `slow` the error still to be spent then, `freq` the frequency correction in
parts per 2^32 as a signed number, `master` whether it has a PTP master (R47, R407); `masters` those announced to it, `delayReq` PTPTIME of a delay request that is under way, `delay` the measured path delay in
nanoseconds, `sync21` how far PTPTIME was ahead of the time the last sync message names; `wheel` and `stagger` are the timer wheel's
(R97, R424), `ticking` says that its next tick is on the timers; `w` is W of R14; `since` the cycle of its reset. The Headwater:
`queues` and its BUSY counter (R98, R146). The link ports that are down, and the retries of a port's flit (R408, R409). Power
registers (R423), with the governor's estimates of the last 1 ms, the newest first (R420). Snapshots (R430, R431): what is latched, whether a trigger waits for its tick, triggers ignored. The boot flash,
the fuses (key hash and SVN floor), the identity seed in the key register, where none is the one its boot derives, what has been booted, whether a debug write has been
performed since, one above the cycle in which a trigger group last fired (R429), the nonces answered (R433 to R441). ECCFIX of its base die (R146): 9 its Headwater, 10 its Sorting Office. -/
structure Device where
  ptpSet : W64 := 0
  ptpAt : Nat := 0
  slow : Nat := 0
  freq : W64 := 0
  master : Bool := false
  masters : List PtpMaster := []
  delayReq : Option W64 := none
  delay : Nat := 0
  sync21 : W64 := 0
  wheel : List Release := []
  stagger : W64 := 0
  newStagger : Option W64 := none
  epoch : BitVec 32 := 0
  ticking : Bool := false
  w : Nat := 4
  since : Nat := 0
  queues : Sp Queue := []
  busy : BitVec 32 := 0
  down : List Nat := []
  retries : Sp Nat := []
  pwrcap : Nat := 4400
  pwrslope : Nat := 500
  pwrnow : Nat := 0
  pwrfill : Nat := 0
  pwrhist : List Nat := []
  snap : Option Snapshot := none
  snapWait : Bool := false
  snapLost : Nat := 0
  flash : List Host.Cell := []
  keyHash : List Byte := []
  floor : BitVec 32 := 0
  seed : Option (List Byte) := none
  boot : Boot := {}
  debugWrote : Bool := false
  fired : Sp Nat := []
  nonces : List (List Byte) := []
  eccfix : Sp (BitVec 32) := []
deriving DecidableEq, Repr

/-- What the machine sends to an outside party: who answers (the part that acted), a status (0 performed, 1 error response, 2 BUSY, 3 the
attestation refusal of its own after a debug write), and the words. -/
structure Answer where
  who : Nat
  status : Nat
  data : List W64
deriving DecidableEq, Repr

end Sys2Proof.Machine
end

