-- ==== Sys2Proof/Machine/State.lean ====
section
/-! DEFINITION. The machine's state as plain data, the reasons a step can stop, and the state right after reset. -/

namespace Sys2Proof.Machine
open Sys2Proof

/-- Faults: reasons the machine stops. -/
inductive Fault where
  /-- Raised by `step` where an operation on the agenda names a place outside the domain (a slot, cluster, slice, router,
  partition or queue that no device has). Safe: the part has no such operation. -/
  | noSuchPlace
deriving DecidableEq, Repr

/-- Refusals: reasons an operation has no meaning here. -/
inductive Refusal where
  /-- Raised by an arm of `exec` whose instruction has no meaning yet, by its mnemonic. Safe: nothing is claimed of it. -/
  | notModelled (mnemonic : String)
deriving DecidableEq, Repr

/-- A write or fill in several pieces on its way back to a slot (R271, R283): the pieces still out, the bytes so far, the
refusal of the lowest piece that met one, what has faulted (piece, page, address), and the lanes that faulted. -/
structure Assembly where
  left : Nat
  data : V512
  refused : Option (Nat × Nat × W64)
  faults : List (Nat × Nat × W64)
  failed : BitVec 32
deriving DecidableEq, Repr

/-- A request parked at its home until a write ends its wait (R289, R345): ACQ's until its word is not zero, SWWAIT's
until the sync word's generation is reached. -/
structure Parked where
  slot : Nat
  gen : BitVec 32
  tag : Nat
  loc : Nat
  acquire : Bool
  want : BitVec 32
deriving DecidableEq, Repr

/-- A BAR that waits for its generation (R348): the object's location, the generation, and who. -/
structure BarWait where
  loc : Nat
  gen : BitVec 32
  who : Asker
deriving DecidableEq, Repr

/-- A byte whose last write on one path (0 a core's C, 1 a courier's Y, 2 an array's T, 3 a host's Q) other paths may not see yet (R20, R199,
R297, R322): the writer's path, the paths on which it may still be seen as it was, that byte, the number of the write, which is seen as a
whole or not at all (R192, R318), and what carries it to other paths (R198, R406). -/
structure Unseen where
  path : Nat
  hides : List Nat
  old : Byte
  id : Nat := 0
  carries : List Carry := []
deriving DecidableEq, Repr

/-- The state of the whole domain (R10 to R17, R204). The keys of the maps: a cluster C is device * 128 + cluster, a core
C * 128 + core, a slot core * 8 + slot, a slice or router device * 128 + number, a partition device * 32 + id, a level
partition * 2^64 + handle, an NI its core, 2^24 + its slice, or 2^25 + its partition for the
Sorting Office; a copy its tag. `out` is what has been sent to outside parties. `mem` holds every byte of every memory by location (Base.lean), one not listed reads as 0;
`unseen` the bytes that some path may still see as they were before their last write (R20, R199, R297, R322).
The last fields are the model's own: `now` cycles since reset, `cur` the slot that issues or the part that acts, `data` the words an outside
party sends with the operation performed, `kept` the page entries by which it has been translated (R66), `heard` the place in the order of
issue of what a slot last received, `issuable` the slots still to
issue in this cycle, `due` operations that happen now in order, `agenda` operations in flight and inputs, `timers` what
happens at a cycle, `ticket` the counter to which the free values are applied. -/
structure State where
  mem : List Host.Cell := []
  unseen : Sp Unseen := []
  slots : Sp Slot := []
  cores : Sp Core := []
  clusters : Sp Cluster := []
  slices : Sp Slice := []
  routers : Sp Router := []
  parts : Sp Part := []
  devs : Sp Device := []
  levels : Sp Level := []
  assembly : Sp Assembly := []
  partners : Sp W64 := []
  nis : Sp Ni := []
  copies : Sp CopyJob := []
  parked : List Parked := []
  barWait : List BarWait := []
  orphans : List Orphan := []
  out : List Answer := []
  now : Nat := 0
  cur : Nat := 0
  data : List W64 := []
  kept : Sp W64 := []
  heard : Sp Nat := []
  issuable : List Nat := []
  due : List Op := []
  agenda : List Op := []
  timers : Sp (List Op) := []
  ticket : Nat := 1
deriving DecidableEq, Repr

/-- The machine right after device reset (R30, R37, R49, R78, R106, R131): every map empty, so that every part reads as
its reset value; no operation in flight. -/
def State.reset : State := {}

end Sys2Proof.Machine
end

