-- ==== Sys2Proof/Machine/Base.lean ====
section
/-! DEFINITION. The plain operations over the state: the parts by number, registers, memory bytes, the agenda, stream
ports. -/

namespace Sys2Proof.Machine
open Sys2Proof

/-! ## Numbers of parts (R11, R12) -/

def slotCore (slot : Nat) : Nat := slot / 8
def coreCluster (core : Nat) : Nat := core / 128
def clusterDev (c : Nat) : Nat := c / 128
def slotCluster (slot : Nat) : Nat := slot / 1024
def slotDev (slot : Nat) : Nat := slot / 131072

/-- How many devices a domain has (R10). -/
def devices : Nat := 1024

/-! ## Parts by number -/

def State.slot (s : State) (i : Nat) : Slot := Sp.get {} s.slots i
def State.core (s : State) (i : Nat) : Core := Sp.get {} s.cores i
def State.cluster (s : State) (i : Nat) : Cluster := Sp.get {} s.clusters i
def State.slice (s : State) (i : Nat) : Slice := Sp.get {} s.slices i
def State.router (s : State) (i : Nat) : Router := Sp.get {} s.routers i
def State.part (s : State) (i : Nat) : Part := Sp.get {} s.parts i

def State.dev (s : State) (i : Nat) : Device := Sp.get {} s.devs i

def State.setSlot (s : State) (i : Nat) (x : Slot) : State := { s with slots := Sp.put s.slots i x }
def State.setCore (s : State) (i : Nat) (x : Core) : State := { s with cores := Sp.put s.cores i x }
def State.setCluster (s : State) (i : Nat) (x : Cluster) : State := { s with clusters := Sp.put s.clusters i x }
def State.setSlice (s : State) (i : Nat) (x : Slice) : State := { s with slices := Sp.put s.slices i x }
def State.setRouter (s : State) (i : Nat) (x : Router) : State := { s with routers := Sp.put s.routers i x }
def State.setPart (s : State) (i : Nat) (x : Part) : State := { s with parts := Sp.put s.parts i x }

def State.setDev (s : State) (i : Nat) (x : Device) : State := { s with devs := Sp.put s.devs i x }

/-- Changes a slot, a core, a cluster, a device by a function. -/
def State.updSlot (s : State) (i : Nat) (f : Slot → Slot) : State := s.setSlot i (f (s.slot i))
def State.updCore (s : State) (i : Nat) (f : Core → Core) : State := s.setCore i (f (s.core i))
def State.updCluster (s : State) (i : Nat) (f : Cluster → Cluster) : State := s.setCluster i (f (s.cluster i))
def State.updSlice (s : State) (i : Nat) (f : Slice → Slice) : State := s.setSlice i (f (s.slice i))
def State.updPart (s : State) (i : Nat) (f : Part → Part) : State := s.setPart i (f (s.part i))
def State.updDev (s : State) (i : Nat) (f : Device → Device) : State := s.setDev i (f (s.dev i))

/-- PTPTIME of a device in nanoseconds (R47, R407): 0.625 ns a cycle, corrected, from the last setting on; while an error is
being spent the clock runs slower, so that it never goes back. -/
def State.ptpTime (s : State) (d : Nat) : W64 :=
  let v := s.dev d
  let cyc := s.now - v.ptpAt
  let el := (cyc * 5 * (2 ^ 32 + v.freq.toInt) / (8 * 2 ^ 32)).toNat
  if v.slow = 0 then v.ptpSet + BitVec.ofNat 64 el
  else v.ptpSet + BitVec.ofNat 64 (el - Nat.min v.slow (el * Config.slew / (Config.slew + 1)))

/-- A level record's key: a partition and a handle (R136). -/
def levelKey (part : Nat) (h : W64) : Nat := part * 2 ^ 64 + h.toNat

def State.level? (s : State) (part : Nat) (h : W64) : Option Level := Sp.find s.levels (levelKey part h)
def State.setLevel (s : State) (part : Nat) (h : W64) (x : Level) : State :=
  { s with levels := Sp.put s.levels (levelKey part h) x }

/-- The number of no partition: what an access from a cluster that belongs to none carries. -/
def noPart : Nat := 2 ^ 32

/-- The partition a cluster belongs to (R128). -/
def State.partOf (s : State) (cluster : Nat) : Nat := (s.cluster cluster).part.getD noPart

/-! ## The agenda -/

/-- Adds an operation in flight; `who` is the part that acts. -/
def State.post (s : State) (i : Instr) (who : Nat := 0) : State :=
  { s with agenda := s.agenda ++ [{ who := who, ins := i }] }

/-- Adds operations in flight, in order. -/
def State.postAll (s : State) (l : List Op) : State := { s with agenda := s.agenda ++ l }

/-- Adds one operation in flight, or one that happens next. -/
def State.postOp (s : State) (o : Op) : State := { s with agenda := s.agenda ++ [o] }
def State.dueOp (s : State) (o : Op) : State := { s with due := s.due ++ [o] }

/-- Adds an operation that happens next, before any other. -/
def State.postDue (s : State) (i : Instr) (who : Nat := 0) : State :=
  { s with due := s.due ++ [{ who := who, ins := i }] }

/-- Adds an operation that happens at a cycle. -/
def State.postAt (s : State) (t : Nat) (i : Instr) (who : Nat := 0) : State :=
  { s with timers := Sp.put s.timers t (Sp.get [] s.timers t ++ [{ who := who, ins := i }]) }

/-- A cluster is halted (R425). -/
def State.clusterHalted (s : State) (c : Nat) : Bool := (s.cluster c).dbgctl.getLsbD 0

/-- The operations a halt of a cluster holds (R426). -/
def Cluster.heldOps (k : Cluster) : List Op := k.haltHeld.map Prod.snd

/-- An operation that would bring something to a slot of a halted cluster is held until the release (R426). -/
def State.holdHalted (s : State) (slot : Nat) (o : Op) : State :=
  s.updCluster (slotCluster slot) fun k => { k with haltHeld := k.haltHeld ++ [(slot, o)] }

/-- A slot is halted (R171, R425, R426): its cluster is, and no debug step lets it issue (R428). -/
def State.halted (s : State) (slot : Nat) : Bool := (s.cluster (slotCluster slot)).dbgctl.getLsbD 0 && !(s.slot slot).step

/-- Advances the ticket: the next free value or number is taken from the new one. -/
def State.tick (s : State) : State := { s with ticket := s.ticket + 1 }

/-- The place of a group in the order of issue, for a request that travels the network with a phase tag (bit 0), or (bit 1
clear) one that carries none. -/
def State.netTag (s : State) (phase : Bool) : Nat := 4 * s.ticket + 2 + if phase then 1 else 0
def State.plainTag (s : State) : Nat := 4 * s.ticket

/-- The NI of a memory slice, and that of a partition's Sorting Office. -/
def sliceNi (slice : Nat) : Nat := 2 ^ 24 + slice
def officeNi (part : Nat) : Nat := 2 ^ 25 + part

def State.ni (s : State) (i : Nat) : Ni := Sp.get {} s.nis i

/-- Bytes are injected for a partition (R147): how many a packet counts as is a free value. -/
def State.injBytes (s : State) (part : Nat) : State :=
  s.updPart part fun q => { q with useInj := q.useInj + BitVec.ofNat 40 (Config.packetBytes s.ticket q.useInj.toNat) }

/-- Tagged traffic is injected (R141, R147): SENT counts it, its partition's bytes are counted, and a quiet tag is busy again. -/
def State.inject (s : State) (ni part : Nat) (t : Bool) : State :=
  let n := s.ni ni
  let s := { s with nis := Sp.put s.nis ni (if t then { n with sent1 := n.sent1 + 1 } else { n with sent0 := n.sent0 + 1 }) }
  (s.injBytes part).updPart part fun q => { q with quiet1 := q.quiet1 && !t, quiet0 := q.quiet0 && t }

/-- A budget has reached its limit (R147, R413): traffic of its kind is held. -/
def budgetSpent (limit used : BitVec 40) : Bool := limit != 0 && decide (limit.toNat ≤ used.toNat)

/-- A partition's injection budget, its slice budget, its courier budget is spent in this period (R147, R413). -/
def State.injSpent (s : State) (part : Nat) : Bool := budgetSpent (s.part part).budInj (s.part part).useInj
def State.sliceSpent (s : State) (part : Nat) : Bool := budgetSpent (s.part part).budSlice (s.part part).useSlice
def State.courSpent (s : State) (part : Nat) : Bool := budgetSpent (s.part part).budCour (s.part part).useCour

/-- Bytes that go through a memory slice, and bytes that a courier moves, for a partition (R147). -/
def State.sliceBytes (s : State) (part n : Nat) : State := s.updPart part fun q => { q with useSlice := q.useSlice + BitVec.ofNat 40 n }
def State.courBytes (s : State) (part n : Nat) : State := s.updPart part fun q => { q with useCour := q.useCour + BitVec.ofNat 40 n }

/-- Sends traffic from an NI (R141, R147): it is injected, counted under its tag if it is counted, or held there until the next period
where the budget is spent. -/
def State.sendAs (s : State) (ni part : Nat) (t : Option Bool) (o : Op) : State :=
  if s.injSpent part then s.postOp { o with inj := some (ni, part, t) }
  else (match t with
    | some b => s.inject ni part b
    | none => s.injBytes part).postOp o

/-- Sends what SENT and RECV count. -/
def State.send (s : State) (ni part : Nat) (t : Bool) (o : Op) : State := s.sendAs ni part (some t) o

/-- The same for traffic that carries a phase tag if the number of its request does. -/
def State.sendTag (s : State) (ni part tag : Nat) (o : Op) : State :=
  if tag / 2 % 2 = 1 then s.send ni part (tag % 2 == 1) o else s.postOp o

/-- Traffic held for a partition's budget is released in order, as far as the new period's budget lasts (R147). -/
def releaseHeld (s : State) (part : Nat) : State :=
  s.agenda.foldl (fun s o => match o.inj with
    | some (ni, p, t) => if p = part then s.sendAs ni p t { o with inj := none } else s.postOp o
    | none => s.postOp o) { s with agenda := [] }

/-- Tagged traffic is delivered (R141). -/
def State.deliver (s : State) (ni : Nat) (t : Bool) : State :=
  let n := s.ni ni
  { s with nis := Sp.put s.nis ni (if t then { n with recv1 := n.recv1 + 1 } else { n with recv0 := n.recv0 + 1 }) }

/-- The delivery of what a tag names, where it carries a phase tag. -/
def State.deliverTag (s : State) (ni tag : Nat) : State :=
  if tag / 2 % 2 = 1 then s.deliver ni (tag % 2 == 1) else s

/-- Tagged traffic that is delivered as it is sent (R141): SENT counts it at one NI, RECV at another. -/
def State.exchange (s : State) (src dst part : Nat) (t : Bool) : State := (s.inject src part t).deliver dst t

/-- What is injected under the tag that a number names, if it names one. -/
def State.injectTag (s : State) (ni part tag : Nat) : State :=
  if tag / 2 % 2 = 1 then s.inject ni part (tag % 2 == 1) else s

/-- Answers a request from an NI under its tag (R140): with a value, with a refusal. -/
def State.answerWith (s : State) (ni part slot : Nat) (gen : BitVec 32) (tag : Nat) (v : V512) : State :=
  s.sendTag ni part tag { ins := .fill slot gen tag v }
def State.refuseWith (s : State) (ni part slot : Nat) (gen : BitVec 32) (tag cause : Nat) (addr : W64) : State :=
  s.sendTag ni part tag { ins := .refusalArrival slot gen tag cause addr }

/-! ## Registers (R23 to R26) -/

/-- The code of a general, vector or mask register among the F/E bits. -/
def gCode (n : Nat) : Nat := n
def vCode (n : Nat) : Nat := 32 + n
def kCode (n : Nat) : Nat := 64 + n

/-- A general register; g0 reads as zero (R24). -/
def Slot.getG (t : Slot) (n : Nat) : W64 := if n = 0 then 0 else Sp.get 0 t.g n

/-- A vector register. -/
def Slot.getV (t : Slot) (n : Nat) : V512 := Sp.get 0 t.v n

/-- A mask register; k0 reads as all ones (R24). -/
def Slot.getK (t : Slot) (n : Nat) : K32 := if n = 0 then 0xFFFFFFFF else Sp.get 0 t.k n

/-- Whether a register is EMPTY; g0 and k0 never are (R24). -/
def Slot.empty (t : Slot) (code : Nat) : Bool := code != 0 && code != 64 && Sp.get false t.fe code

/-- Sets the F/E bit of a register (R26). -/
def Slot.setEmpty (t : Slot) (code : Nat) (e : Bool) : Slot := { t with fe := Sp.set false t.fe code e }

/-- Writes a general register and makes it FULL; a write to g0 is discarded (R24, R26). -/
def Slot.setG (t : Slot) (n : Nat) (v : W64) : Slot :=
  if n = 0 then t else { t with g := Sp.set 0 t.g n v, fe := Sp.set false t.fe (gCode n) false }

/-- Writes a vector register and makes it FULL (R26). -/
def Slot.setV (t : Slot) (n : Nat) (v : V512) : Slot :=
  { t with v := Sp.set 0 t.v n v, fe := Sp.set false t.fe (vCode n) false }

/-- Writes a mask register and makes it FULL; a write to k0 is discarded (R24, R26). -/
def Slot.setK (t : Slot) (n : Nat) (v : K32) : Slot :=
  if n = 0 then t else { t with k := Sp.set 0 t.k n v, fe := Sp.set false t.fe (kCode n) false }

/-- Writes the register of a code with the low bits of a wide value. -/
def Slot.setCode (t : Slot) (code : Nat) (v : V512) : Slot :=
  if code < 32 then t.setG code (v.setWidth 64)
  else if code < 64 then t.setV (code - 32) v
  else t.setK (code - 64) (v.setWidth 32)

/-! ## Memory (R4, R49, R50) -/

/-- The location number of a scratchpad byte, an instruction-store byte, and a second-tier byte. -/
def scratchLoc (core off : Nat) : Nat := core * 2 ^ 19 + off % 2 ^ 19
def istoreLoc (core off : Nat) : Nat := 2 ^ 44 + core * 2 ^ 15 + off % 2 ^ 15
def secondLoc (slice frame off : Nat) : Nat := 2 ^ 45 + (slice * 49152 + frame) * 65536 + off % 65536

/-- What a byte that nothing has written reads as: zero (R49). -/
def unwritten : Byte := 0

/-- The byte at a location. -/
def State.byte (s : State) (loc : Nat) : Byte := Sp.get unwritten s.mem loc

/-- `n` bytes from a location, the least significant first (R4). -/
def State.read (s : State) (loc : Nat) : Nat → Nat
  | 0 => 0
  | n + 1 => (s.byte loc).toNat + 256 * State.read s (loc + 1) n

/-- Memory with `n` bytes of a value stored from a location on, the least significant first (R4). -/
def memWrite (m : List Host.Cell) (loc v : Nat) : Nat → List Host.Cell
  | 0 => m
  | n + 1 => memWrite (Sp.set unwritten m loc (BitVec.ofNat 8 v)) (loc + 1) (v / 256) n

/-- An awaited generation holds (R345). -/
def genHolds (word1 want : Nat) : Bool := decide ((word1 % 2 ^ 32 + 2 ^ 32 - want) % 2 ^ 32 < 2 ^ 31)

/-- The fill that answers a parked request: an ACQ's once its word is not zero (R289), a SWWAIT's once its generation holds
(R345). -/
def wakeAcq (s : State) (p : Parked) : Option Op :=
  if p.acquire then
    let w := s.read p.loc 8
    if w != 0 then some { ins := .fill p.slot p.gen p.tag (BitVec.ofNat 512 w) } else none
  else
    let w := s.read (p.loc + 8) 8
    if genHolds w p.want.toNat then some { ins := .fill p.slot p.gen p.tag (BitVec.ofNat 512 w) } else none

/-- Answers the parked requests that a write has satisfied (R289, R345): they leave the list, in the order they were parked. -/
def State.wakeParked (s : State) : State :=
  { s with parked := s.parked.filter (fun p => (wakeAcq s p).isNone),
           agenda := s.agenda ++ s.parked.filterMap (wakeAcq s) }

/-- The line of a core's instruction store that a location lies in, if it lies in one. -/
def istoreLine (loc : Nat) : Option (Nat × Nat) :=
  if 2 ^ 44 ≤ loc ∧ loc < 2 ^ 45 then some ((loc - 2 ^ 44) / 2 ^ 15, (loc - 2 ^ 44) % 2 ^ 15 / 64) else none

/-- Before a byte at a location changes, path I keeps what it sees of the line (R195, R282): until the fetch buffer's next discard the
core goes on to fetch the line as it was. -/
def State.keepLine (s : State) (loc : Nat) : State :=
  match istoreLine loc with
  | none => s
  | some (k, l) =>
    if (Sp.find (s.core k).fetchBuf l).isSome then s
    else s.setCore k { s.core k with fetchBuf := Sp.put (s.core k).fetchBuf l (BitVec.ofNat 512 (s.read (istoreLoc k (64 * l)) 64)) }

/-- The same for `n` bytes from a location on, which lie in two lines at most. -/
def State.keepLines (s : State) (loc n : Nat) : State := if n = 0 then s else (s.keepLine loc).keepLine (loc + n - 1)

/-- A location lies in a range. -/
def inRange (loc n q : Nat) : Bool := decide (loc ≤ q) && decide (q < loc + n)

/-- The numbers of the writes a range of bytes has last had, of those that some path may not see yet. -/
def State.unseenIds (s : State) (loc n : Nat) : List Nat := (s.unseen.filter fun u => inRange loc n u.1).map fun u => u.2.id

/-- Stores `n` bytes (at most 64) of a value from a location on: the one way memory changes. A write whose bytes it meets is seen from then
on where the new one is not. -/
def State.write (s : State) (loc v n : Nat) : State :=
  let s := s.keepLines loc n
  let ids := s.unseenIds loc n
  State.wakeParked { s with mem := memWrite s.mem loc v n, unseen := s.unseen.filter fun u => !ids.contains u.2.id }

/-! ## What a path sees (R20, R192, R199, R297, R322) -/

/-- The paths on which a write on a path may still be unseen: a core's on Y and T, a courier's on C and T, an array's on C and Y; a host's on C
and Y, an array sees at once what a loader has written (R447). -/
def hiddenOn (path : Nat) : List Nat := if path = 0 then [1, 2] else if path = 1 then [0, 2] else [0, 1]

/-- A write on a path: other paths may see the bytes as they were, until one of their reads has seen it, or a FENCE carries it to them. -/
def State.pathWrite (s : State) (path loc v n : Nat) : State :=
  let s := s.tick
  let t := s.write loc v n
  { t with unseen := (List.range n).foldl (fun m i =>
      Sp.put m (loc + i) { path := path, hides := hiddenOn path, old := s.byte (loc + i), id := s.ticket }) t.unseen }

/-- A slot has received something from outside (R198): what it issues from now on may depend on what other threads have done. -/
def State.hears (s : State) (slot : Nat) : State := { s with heard := Sp.put s.heard slot (4 * s.ticket) }
def State.heardBy (s : State) (slot : Nat) : Nat := Sp.get 0 s.heard slot

/-- A FENCE orders the later accesses of its own thread, and those of a thread that has received something since (R198); the placement of a
LAUNCH's record those of its core (R20, R406). DEDUCED (assumption 123). -/
def Carry.serves (c : Carry) (v : Viewer) : Bool :=
  match c.core with
  | some k => slotCore v.slot == k && decide (c.place < v.tag)
  | none => (c.slot == v.slot && c.gen == v.gen && decide (c.place < v.tag)) || decide (c.place < v.heard)

/-- A write may be unseen no more by what reads on a path. -/
def Unseen.carried (u : Unseen) (path : Nat) (v : Viewer) : Bool :=
  !u.hides.contains path || u.carries.any fun c => c.path == path && c.serves v

/-- A FENCE that names two paths (R198): what is seen on the one is carried to the other. -/
def Unseen.pass (u : Unseen) (p q : Nat) (v : Viewer) : Unseen :=
  let on (a b : Nat) : List Carry :=
    if u.carried a v && u.hides.contains b then [{ path := b, place := v.tag, slot := v.slot, gen := v.gen }] else []
  { u with carries := u.carries ++ on p q ++ on q p }

/-- The unit that issues, as a reader or as one that executes a FENCE; every place it has named so far is lower. -/
def State.viewer (s : State) : Viewer :=
  { slot := s.cur, gen := (s.slot s.cur).gen, tag := 4 * s.ticket + 1, heard := s.heardBy s.cur }

/-- A FENCE of the unit that issues. -/
def State.fencePaths (s : State) (p q : Nat) : State :=
  let s := s.tick
  { s with unseen := s.unseen.map fun u => (u.1, u.2.pass p q { s.viewer with tag := 4 * s.ticket }) }

/-- The placement of a record written for a LAUNCH at a core (R20, R406): its path C sees from now on the host writes performed before the QTAIL
write that copied the packet. -/
def State.launchCarries (s : State) (core qtail : Nat) : State :=
  let s := s.tick
  { s with unseen := s.unseen.map fun u => (u.1,
      if u.2.path = 3 ∧ u.2.id < qtail then
        { u.2 with carries := u.2.carries ++ [{ path := 0, place := 4 * s.ticket, slot := 0, gen := 0, core := some core }] }
      else u.2) }

/-- A read on a path shows a byte as it was before a write: a free value says so, one for all the bytes of the write. -/
def Unseen.shown (u : Unseen) (ticket path : Nat) (v : Viewer) : Bool := !u.carried path v && Config.seesOld ticket u.id

/-- A byte as a path shows it to a reader. -/
def State.byteOn (s : State) (path : Nat) (v : Viewer) (loc : Nat) : Byte :=
  match Sp.find s.unseen loc with
  | some u => if u.shown s.ticket path v then u.old else s.byte loc
  | none => s.byte loc

/-- `n` bytes from a location as a path shows them. -/
def State.readOn (s : State) (path : Nat) (v : Viewer) (loc : Nat) : Nat → Nat
  | 0 => 0
  | n + 1 => (s.byteOn path v loc).toNat + 256 * State.readOn s path v (loc + 1) n

/-- A path sees a write from now on. -/
def Unseen.sees (u : Unseen) (path : Nat) (ids : List Nat) : Unseen :=
  if ids.contains u.id then { u with hides := u.hides.filter (· != path) } else u

/-- A path has seen some writes: none of its later reads goes behind them (R206). -/
def State.sawIds (s : State) (path : Nat) (ids : List Nat) : State :=
  { s with unseen := (s.unseen.map fun u => (u.1, u.2.sees path ids)).filter fun u => u.2.hides != [] }

/-- A path has seen what memory holds at some bytes. -/
def State.saw (s : State) (path loc n : Nat) : State :=
  if s.unseenIds loc n = [] then s else s.sawIds path (s.unseenIds loc n)

/-- Reads bytes on a path (R20, R192, R206). -/
def State.look (s : State) (path : Nat) (v : Viewer) (loc n : Nat) : State × Nat :=
  let us := s.unseen.filter fun u => inRange loc n u.1
  if us = [] then (s, s.read loc n) else
  ((s.sawIds path ((us.filter fun u => !u.2.shown s.ticket path v).map fun u => u.2.id)).tick, s.readOn path v loc n)

/-- Memory is in its canonical form: locations strictly rising, no byte listed that reads as an unlisted one does. -/
def Memory.wf (m : List Host.Cell) : Bool := Sp.wf unwritten m

/-! ## Stream ports (R83, R84) -/

def Core.port (c : Core) (i : Nat) : Port := Sp.get {} c.ports i
def Core.setPort (c : Core) (i : Nat) (p : Port) : Core := { c with ports := Sp.put c.ports i p }

def State.port (s : State) (core i : Nat) : Port := (s.core core).port i
def State.setPort (s : State) (core i : Nat) (p : Port) : State := s.setCore core ((s.core core).setPort i p)

/-- Frees the STREAM channels a route holds: each is (router * 8 + port code) (R83). -/
def freeChannels (s : State) : List Nat → State
  | [] => s
  | h :: t =>
    let r := s.router (h / 8)
    freeChannels (s.setRouter (h / 8) { r with streams := Sp.set 0 r.streams (h % 8) (Sp.get 0 r.streams (h % 8) - 1) }) t

/-- Drops a route that is being acquired or is acquired and not yet open (R83). -/
def dropRoute (s : State) (core i : Nat) : State :=
  let p := s.port core i
  let s := freeChannels s p.hops
  let q := s.port p.tgtCore p.tgtPort
  let s := if p.acq = 2 ∧ q.st = .listen ∧ q.srcPort ≠ 0 ∧ q.route = p.route
    then s.setPort p.tgtCore p.tgtPort { q with srcCore := 0, srcPort := 0, route := 0 } else s
  s.setPort core i { p with acq := 0, hops := [] }

/-- The closing marker of a port's route (R84): its data are the target, the phase tag and the channels held. -/
def markerOp (p : Port) : Op :=
  { who := p.route, ins := .closingMarkerArrival,
    data := BitVec.ofNat 64 p.tgtCore :: BitVec.ofNat 64 p.tgtPort :: boolWord p.phase :: p.hops.map (BitVec.ofNat 64) }

/-- PCLOSE of a port in each of its states (R84, R331). DESIGN CHOICE (assumption 115): PCLOSE on LISTEN or RECV refuses the writer of the
route that is bound to the port; a route that waits at the last hop, or is on its way, goes on waiting (R330). -/
def closePort (s : State) (core i : Nat) : State :=
  let p := s.port core i
  match p.st with
  | .closed => s
  | .bound => (dropRoute s core i).setPort core i {}
  | .opened => (s.setPort core i {}).postOp (markerOp p)
  | .listen | .recv =>
    let s := if p.srcPort = 0 then s else
      let q := s.port p.srcCore (p.srcPort - 1)
      if (q.st = .opened ∨ q.st = .bound) ∧ q.route = p.route
      then s.setPort p.srcCore (p.srcPort - 1) { q with refused := 3 } else s
    s.setPort core i {}

/-- Closes the ports a unit has opened (R84, R175). -/
def closePorts (s : State) (slot : Nat) (gen : BitVec 32) : Nat → State
  | 0 => s
  | n + 1 =>
    let s := closePorts s slot gen n
    let p := s.port (slotCore slot) n
    if p.st ≠ .closed ∧ p.owner = slot ∧ p.gen = gen then closePort s (slotCore slot) n else s

end Sys2Proof.Machine
end

