-- ==== Sys2Proof/Machine/Mem.lean ====
section
/-! DEFINITION. Addresses and the checks at a home: cluster-space and global addresses (R53 to R57), the segment table
(R56), protection regions (R58, R59), guard granules (R61), page tables and translation (R62 to R66). -/

namespace Sys2Proof.Machine
open Sys2Proof

/-! ## Trap causes (R40) -/

def causeIllegal : Nat := 0x01
def causeFeEmpty : Nat := 0x02
def causeAlign : Nat := 0x03
def causeProt : Nat := 0x04
def causePage : Nat := 0x05
def causePerm : Nat := 0x06
def causeFormat : Nat := 0x07
def causeGuard : Nat := 0x08
def causeWaitTimeout : Nat := 0x09
def causeDiv0 : Nat := 0x0A
def causeArAbort : Nat := 0x0B
def causeTabledFail : Nat := 0x0C
def causeWatchdog : Nat := 0x0D
def causeCancel : Nat := 0x0E
def causeSwTrap : Nat := 0x0F
def causeCopyPerm : Nat := 0x10
def causePort : Nat := 0x11
def causeLease : Nat := 0x12
def causeFixpoint : Nat := 0x13
def causeBreak : Nat := 0x14
def causeFetch : Nat := 0x15
def causeAddr : Nat := 0x16

/-- Bits h to l of a word. -/
def bits (x : W64) (h l : Nat) : Nat := x.toNat / 2 ^ l % 2 ^ (h + 1 - l)

/-- The low bytes of a vector. -/
def V512.ofBytes (n : Nat) : V512 := BitVec.ofNat 512 n

/-! ## Clusters and cores of a partition (R13, R14) -/

/-- Whether a partition sees a core of a cluster (R14): not the last W of a cluster of the firmware column. -/
def State.coreVisible (s : State) (cluster core : Nat) : Bool :=
  decide (core < 128) && (cluster % 16 != 15 || decide (core < 128 - (s.dev (clusterDev cluster)).w))

/-- The physical cluster of a partition-relative number (R13, R128). -/
def State.physCluster (s : State) (part rel : Nat) : Option Nat := (s.part part).clusters[rel]?

/-- The partition-relative number of a cluster. -/
def State.relCluster (s : State) (c : Nat) : Nat := (s.cluster c).rel

/-- The partner table of a device: its entry for an accessor's partition, the first that matches (R410). -/
def State.partner (s : State) (dev part : Nat) : Option W64 :=
  (List.range 1024).findSome? fun i =>
    match Sp.find s.partners (dev * 1024 + i) with
    | none => none
    | some w => if w.getLsbD 63 ∧ bits w 62 53 = part / 32 ∧ bits w 52 48 = part % 32 then some w else none

/-- A link port of a router is up; port p attaches to router 2p (R408). -/
def State.portUp (s : State) (dev router : Nat) : Bool := !(s.dev dev).down.contains (router % 128 / 2)

/-- A router is harvested or has failed (R418, R419). -/
def State.routerOut (s : State) (r : Nat) : Bool := (s.router r).failed || (s.dev (r / 128)).boot.harv.contains (r % 128)

/-- The router of a link port (R408): port p attaches to router 2p. -/
def linkRouter (p : Nat) : Nat := p % 64 * 2

/-- The router of a device a table names for a link: that of the first port, from a free one on, whose router is not out (R129). -/
def State.linkChoice (s : State) (d p : Nat) : Nat :=
  (((List.range 64).map fun i => linkRouter (p + i)).find? fun r => !s.routerOut (d * 128 + r)).getD (linkRouter p)

/-- The routers whose link ports lead from a router toward another device (R129, R409): the primary and the alternate one, as boot or a
router failure has written them. -/
def State.deviceLinks (s : State) (r dst : Nat) : Nat × Nat :=
  let t := s.router r
  ((Sp.find t.deviceTable dst).getD (s.linkChoice (r / 128) (Config.deviceLink 0 r dst)),
    (Sp.find t.deviceAlt dst).getD (s.linkChoice (r / 128) (Config.deviceAlt 0 r dst)))

/-- The router of a device by which traffic of a router leaves toward another device (R409): none with both ports down. -/
def State.deviceExit (s : State) (r dst : Nat) : Option Nat :=
  let l := s.deviceLinks r dst
  if s.portUp (r / 128) l.1 then some l.1 else if s.portUp (r / 128) l.2 then some l.2 else none

/-- Traffic of a router reaches a device: its own, or one that a port is up toward (R409). -/
def State.linkFrom (s : State) (r dst : Nat) : Bool := r / 128 == dst || (s.deviceExit r dst).isSome

/-- A partition's traffic still reaches another device from one of its clusters (R409). -/
def State.linkUp (s : State) (part dst : Nat) : Bool := (s.part part).clusters.any fun c => s.linkFrom c dst

/-- The partition to which a device maps an accessor's (R410): none where its partner table has no entry. -/
def State.mapPart (s : State) (part dev : Nat) : Nat :=
  if part / 32 = dev then part else
    match s.partner dev part with
    | none => noPart
    | some w => dev * 32 + bits w 47 43

/-- The partition as which a device treats an accessor's traffic (R410): none where it maps to none, no link is up (R409), or that partition is
being reset (R416). -/
def State.partAt (s : State) (part dev : Nat) : Nat :=
  let p := s.mapPart part dev
  if part / 32 = dev ∨ p = noPart ∨ (s.linkUp part dev && !(s.part p).resetting) then p else noPart

/-! ## Addresses (R53 to R57) -/

/-- What an address names: a scratchpad byte, an instruction-store byte (by core and offset), or a second-tier virtual
address of a device. -/
inductive Target where
  | scratch (core off : Nat)
  | istore (core off : Nat)
  | second (dev : Nat) (va : Nat)
deriving DecidableEq, Repr

/-- The fields of a global address (R55) that need no table; none where a reserved bit is set. -/
def globalOk (a : W64) : Bool :=
  bits a 63 57 == 0 && (a.getLsbD 56 || (bits a 38 27 == 0 && (!a.getLsbD 26 || (bits a 18 0 < 0x8000))))

/-- The slice that holds the page of a virtual address (R62). -/
def pageSlice (dev va : Nat) : Nat := dev * 128 + (va / 65536 % 128).xor (va / 2 ^ 23 % 128)

/-- What a global virtual address names for an accessor of a partition (R55); none where the check fails. -/
def State.globalTarget (s : State) (part : Nat) (a : W64) : Option Target :=
  let dev := bits a 55 46
  if !globalOk a then none
  else if a.getLsbD 56 then
    if (s.partAt part dev = noPart ∧ part / 32 ≠ dev) ∨ (s.slice (pageSlice dev (bits a 45 0))).dead then none
    else some (.second dev (bits a 45 0))
  else
    match s.physCluster (s.partAt part dev) (bits a 45 39) with
    | none => none
    | some c =>
      let k := bits a 25 19
      if !s.coreVisible c k then none
      else if a.getLsbD 26 then some (.istore (c * 128 + k) (bits a 18 0))
      else some (.scratch (c * 128 + k) (bits a 18 0))

/-- The same for traffic that leaves from a router: none where both its ports toward the device are down (R409). -/
def State.globalFrom (s : State) (r part : Nat) (a : W64) : Option Target :=
  if s.linkFrom r (bits a 55 46) then s.globalTarget part a else none

/-- The global address of a scratchpad byte (R55). -/
def State.globalOf (s : State) (core off : Nat) : W64 :=
  BitVec.ofNat 64 (clusterDev (coreCluster core) * 2 ^ 46 + s.relCluster (coreCluster core) * 2 ^ 39 +
    core % 128 * 2 ^ 19 + off)

/-- What an effective address names in a mode for an issuing core (R53 to R55); none where ADDR is trapped. -/
def State.target (s : State) (core part : Nat) (mode : BitVec 2) (ea : W64) : Option Target :=
  let c := coreCluster core
  match mode.toNat with
  | 0 => if ea.toNat < 0x80000 then some (.scratch core ea.toNat) else none
  | 1 => if bits ea 63 26 = 0 ∧ s.coreVisible c (bits ea 25 19) then some (.scratch (c * 128 + bits ea 25 19) (bits ea 18 0)) else none
  | 2 => if bits ea 63 26 = 0 ∧ s.coreVisible c (bits ea 9 3)
      then some (.scratch (c * 128 + bits ea 9 3) (bits ea 25 10 * 8 + bits ea 2 0)) else none
  | _ => s.globalFrom c part ea

/-- The line of 64 bytes a target lies in, as a number that no two lines share: it orders a slot's accesses (R192). -/
def Target.line : Target → Nat
  | .scratch core off => scratchLoc core off / 64
  | .istore core off => istoreLoc core off / 64
  | .second dev va => 2 ^ 60 + (dev * 2 ^ 46 + va) / 64

/-! ## The segment table (R56) -/

/-- The outcome of a check at a home. -/
inductive Check where
  | ok
  | refuse (cause : Nat)
  | fault
deriving DecidableEq, Repr

/-- A segment entry matches an accessor's partition and a core (R56). -/
def segMatches (e : W64) (part core : Nat) : Bool :=
  e.getLsbD 33 && decide (bits e 56 52 = part % 32) && decide (bits e 51 45 ≤ core) && decide (core ≤ bits e 44 38)

/-- The segment check of a cluster (R56, R57): the lowest entry that matches decides; a read needs R, a write W, a write to
an instruction store X, what reads and writes both; P = 0 is a page fault (R71). -/
def State.segment (s : State) (c part core : Nat) (istore rd wr : Bool) : Check :=
  let seg := (s.cluster c).seg
  if s.partOf c ≠ part then .refuse causeProt else
  match (List.range 16).find? (fun n => segMatches (Sp.get 0 seg n) part core) with
  | none => .refuse causeProt
  | some n =>
    let e := Sp.get 0 seg n
    if !e.getLsbD 37 then .fault
    else if (rd && !e.getLsbD 34) || (wr && !e.getLsbD (if istore then 36 else 35)) then .refuse causeProt else .ok

/-! ## Protection regions (R58, R59) -/

/-- Who makes an access (R58): slot and GEN, partition, level, and whether it comes from a slot of the core itself. -/
structure Accessor where
  slot : Nat
  gen : BitVec 32
  part : Nat
  level : W64
  own : Bool
deriving DecidableEq, Repr

/-- A unit is live: resident in its slot or saved by it (R58: a region's owner). -/
def State.live (s : State) (slot : Nat) (gen : BitVec 32) : Bool :=
  let t := s.slot slot
  (t.st != .idle && t.gen == gen) || t.saved.any (fun c => c.gen == gen)

/-- Region `n` of a core is valid and holds every granule from `lo` to `hi` (R45, R58). -/
def regionMatches (c : Core) (n lo hi : Nat) : Bool :=
  (Sp.get 0 c.prot (n * 4 + 2)).getLsbD 0 && decide (bits (Sp.get 0 c.prot (n * 4)) 18 6 ≤ lo) &&
    decide (hi < bits (Sp.get 0 c.prot (n * 4 + 1)) 19 6)

/-- The lowest-numbered region that matches (R58). -/
def matchRegion (c : Core) (lo hi : Nat) : Option Nat := (List.range 8).find? (fun n => regionMatches c n lo hi)

/-- Whether a core's regions allow an access to `len` bytes at an offset (R58, R59). -/
def State.protAllows (s : State) (core off len : Nat) (x : Accessor) (wr : Bool) : Bool :=
  let c := s.core core
  match matchRegion c (off / 64) ((off + len - 1) / 64) with
  | some n =>
    let p := Sp.get 0 c.prot (n * 4 + 2)
    let o := Sp.find c.protOwn n
    let own := match o with
      | some r => r.slot == x.slot && r.gen == x.gen && s.live r.slot r.gen
      | none => false
    let launch := match o with
      | some r => bits r.level 63 48 == bits x.level 63 48 && bits r.level 15 0 == bits x.level 15 0
      | none => false
    let part := x.part == s.partOf (coreCluster core)
    let w := if wr then 1 else 0
    (own && p.getLsbD (1 + w)) || (launch && p.getLsbD (3 + w)) || (part && p.getLsbD (5 + w))
  | none => x.own ||
      ((s.slot (core * 8)).st != .idle && (s.slot (core * 8)).level == x.level && x.part == s.partOf (coreCluster core))

/-- A granule's guard bit is set (R61). -/
def State.guarded (s : State) (core off : Nat) : Bool := Sp.get false (s.core core).guards (off / 64)

/-- What a guard hit of an access of a unit reports (R43, R61): pending until its next BAR, or OOBFLAG and OOBADDR under FALLBACK. -/
def Slot.guardHit (t : Slot) (fall : Bool) (ea : W64) : Slot :=
  if fall then { t with oobflag := 1, oobaddr := if t.oobflag = 0 then ea else t.oobaddr } else { t with guardPend := true }

/-- A write of the hardware's own to a scratchpad (R61): dropped where a guard bit is set. -/
def State.hwWrite (s : State) (core off v n : Nat) : State := if s.guarded core off then s else s.write (scratchLoc core off) v n

/-! ## Second-tier memory (R62 to R66) -/

/-- The outcome of a walk: the leaf entry and where it lies, or not valid. -/
abbrev Walk := Option (W64 × Nat)

/-- The next table of an intermediate entry (R64): its location, or none where the walk ends. -/
def tableLoc (dev part : Nat) (e : W64) : Option Nat :=
  if bits e 63 53 = 0 ∧ bits e 52 48 = part % 32 ∧ bits e 3 1 = 0 ∧ e.getLsbD 0 ∧ bits e 47 16 < 49152
  then some (secondLoc (dev * 128 + bits e 10 4) (bits e 47 16) (bits e 15 11 * 2048)) else none

/-- The entry of a table, as a word. -/
def State.entry (s : State) (loc idx : Nat) : W64 := BitVec.ofNat 64 (s.read (loc + idx * 8) 8)

/-- Where the leaf entry of a virtual address lies in a partition's page table (R64). The root pointer has the form of an intermediate
entry. -/
def State.leafPlace (s : State) (dev part va : Nat) : Option Nat :=
  match tableLoc dev part (s.part part).root with
  | none => none
  | some l3 =>
    match tableLoc dev part (s.entry l3 (va / 2 ^ 39 % 128)) with
    | none => none
    | some l2 =>
      match tableLoc dev part (s.entry l2 (va / 2 ^ 31 % 256)) with
      | none => none
      | some l1 =>
        (tableLoc dev part (s.entry l1 (va / 2 ^ 23 % 256))).map fun l0 => l0 + va / 65536 % 128 * 8

/-- Walks the page table of a partition for a virtual address (R64): the leaf entry and its location. -/
def State.walk (s : State) (dev part va : Nat) : Walk :=
  match s.leafPlace dev part va with
  | none => none
  | some loc =>
    let e := s.entry loc 0
    if bits e 63 53 = 0 ∧ bits e 15 13 = 0 ∧ e.getLsbD 0 ∧ bits e 47 16 < 49152 then some (e, loc) else none

/-- The walker's update of a leaf entry (R65): A, and D on a write. -/
def State.markEntry (s : State) (w : W64 × Nat) (wr : Bool) : State :=
  let e := w.1 ||| (1 <<< 11) ||| (if wr then 1 <<< 12 else 0)
  if e = w.1 then s else s.write w.2 e.toNat 8

/-- A page's key in a translation cache. -/
def pageKey (part va : Nat) : Nat := part * 2 ^ 30 + va / 65536

/-- Looks a virtual address up at its slice (R65, R66): the leaf entry used, or none for not valid. An entry the slice
still holds may be used where memory holds another; which is a free value. -/
def State.lookUp (s : State) (dev part va : Nat) (wr : Bool) : State × Option W64 :=
  let sl := pageSlice dev va
  let key := pageKey part va
  let fresh := s.walk dev part va
  let old := Sp.find (s.slice sl).tcache key
  let stale := match old with
    | none => none
    | some e => match fresh with
      | some (f, _) => if (f &&& ~~~(0x1800 : W64)) = (e &&& ~~~(0x1800 : W64)) then none else some e
      | none => some e
  match stale with
  | some e =>
    let s := s.tick
    if Config.keepsOld s.ticket then (s, some e)
    else match fresh with
      | none => (s, none)
      | some w => let s := s.markEntry w wr
                  (s.setSlice sl { s.slice sl with tcache := Sp.put (s.slice sl).tcache key w.1 }, some w.1)
  | none => match fresh with
    | none => (s, none)
    | some w => let s := s.markEntry w wr
                (s.setSlice sl { s.slice sl with tcache := Sp.put (s.slice sl).tcache key w.1 }, some w.1)

/-- The key of a translation that the operation being performed has made. -/
def keptKey (part va : Nat) (wr : Bool) : Nat := 2 * pageKey part va + if wr then 1 else 0

/-- Translates a virtual address for the operation being performed: what has been translated before it stalled completes under the entry it
was translated by (R66). -/
def State.translate (s : State) (dev part va : Nat) (wr : Bool) : State × Option W64 :=
  match Sp.find s.kept (keptKey part va wr) with
  | some e => (s, some e)
  | none =>
    match s.lookUp dev part va wr with
    | (s, none) => (s, none)
    | (s, some e) => ({ s with kept := Sp.put s.kept (keptKey part va wr) e }, some e)

/-- An operation's traffic through a memory slice is held as it begins where its partition's slice budget is spent (R147, R413): it is
performed in a later period. -/
def State.sliceHeld (s : State) (part : Nat) : Bool := s.kept.isEmpty && s.sliceSpent part
def State.holdAt (s : State) (o : Op) (part : Nat) : State := s.postOp { o with spent := some part }

/-- The permission check of a leaf entry (R63). -/
def pteCheck (e : W64) (part : Nat) (rd wr : Bool) : Check :=
  if bits e 52 48 ≠ part % 32 ∨ (rd ∧ !e.getLsbD 1) ∨ (wr ∧ !e.getLsbD 2) then .refuse causePerm else .ok

/-- The location of a virtual address under its leaf entry (R62). -/
def pteLoc (e : W64) (dev va : Nat) : Nat := secondLoc (pageSlice dev va) (bits e 47 16) (va % 65536)

/-- The fault-service firmware gives a page of second-tier memory that has no valid leaf entry a frame, which it zeroes (R442): W, R and V. -/
def State.mapPage (s : State) (part page frame : Nat) : State :=
  let dev := part / 32
  let va := page % 2 ^ 30 * 65536
  match s.leafPlace dev part va with
  | none => s
  | some loc =>
    if page / 2 ^ 30 ≠ 2 ^ 10 + dev ∨ (s.walk dev part va).isSome ∨ 49152 ≤ frame then s else
    let base := secondLoc (pageSlice dev va) frame 0
    let here (l : Nat) : Bool := decide (base ≤ l) && decide (l < base + 65536)
    { s with mem := s.mem.filter fun b => !here b.1, unseen := s.unseen.filter fun u => !here u.1 }.write loc
      (part % 32 * 2 ^ 48 + frame * 2 ^ 16 + 7) 8

/-- A page number for the fault tree (R72): the global address of the page divided by its size. -/
def faultPage (dev va : Nat) : Nat := 2 ^ 40 + dev * 2 ^ 30 + va / 65536

/-- The page number of a scratchpad or instruction-store byte of a core. -/
def State.corePage (s : State) (core off : Nat) : Nat := (s.globalOf core off).toNat / 65536

/-! ## Instruction fetch (R195, R218) -/

/-- The word of an instruction store at a halfword offset, as memory holds it. -/
def State.istoreWord (s : State) (core pc : Nat) : Half := BitVec.ofNat 16 (s.read (istoreLoc core (2 * pc)) 2)

/-- The word the core fetches: path I sees a line that has been stored to since the last discard as it was then (R195, R282). -/
def State.fetchWord (s : State) (core pc : Nat) : Half :=
  match Sp.find (s.core core).fetchBuf (pc / 32) with
  | some l => BitVec.ofNat 16 (l.toNat / 2 ^ (16 * (pc % 32)) % 65536)
  | none => s.istoreWord core pc

/-- The words of the group at a PC (R218): prefixes and base word, from at most `n` words; none where the store ends
first. -/
def State.groupFrom (s : State) (core pc : Nat) : Nat → Option (List Half)
  | 0 => none
  | n + 1 =>
    let w := s.fetchWord core pc
    if w.toNat / 4096 = 15 then
      match State.groupFrom s core (pc + 1) n with
      | none => none
      | some l => some (w :: l)
    else some [w]

/-- The group at a PC; the store ends at 0x4000 (R218). -/
def State.group (s : State) (core pc : Nat) : Option (List Half) := s.groupFrom core pc (0x4000 - pc)

/-- The PC after the group at a PC (R218, R377). -/
def State.pcAfter (s : State) (core pc : Nat) : Nat :=
  match s.group core pc with
  | some l => pc + l.length
  | none => Nat.max pc 0x4000

end Sys2Proof.Machine
end

