-- ==== Sys2Proof/Machine/Routes.lean ====
section
/-! DEFINITION. Places and routes (R13, R18, R38, R83, R129, R330, R409): the core a place identifier names, the routing tables of the
Braid and of Ababex Link, and the acquiring of a stream's route. -/

namespace Sys2Proof.Machine
open Sys2Proof

/-! ## Places (R13, R38) -/

/-- The core and class a place identifier names for a partition (R13, R14, R327); none where it is refused with ADDR. -/
def State.placeOf (s : State) (part : Nat) (p : W64) : Option (Nat × Nat) :=
  match s.physCluster (s.partAt part (bits p 63 54)) (bits p 53 47) with
  | none => none
  | some c => if s.coreVisible c (bits p 46 40) then some (c * 128 + bits p 46 40, bits p 39 36) else none

/-- The place identifier of a core, class 0 (R38). -/
def State.placeId (s : State) (core : Nat) : W64 :=
  BitVec.ofNat 64 (clusterDev (coreCluster core) * 2 ^ 54 + s.relCluster (coreCluster core) * 2 ^ 47 + core % 128 * 2 ^ 40)

/-- SLOTID of a slot (R38). -/
def State.slotId (s : State) (slot : Nat) : W64 :=
  s.placeId (slotCore slot) + BitVec.ofNat 64 (slot % 8 * 2 ^ 37 + s.partOf (slotCluster slot) % 32 * 2 ^ 32)

/-! ## The Braid (R18, R129) -/

/-- The router a step away: its neighbour through a port, on the torus of R18. -/
def routerStep (r port : Nat) : Nat :=
  let d := r / 128 * 128
  let x := r % 16
  let y := r % 128 / 16
  match port with
  | 1 => d + (x + 1) % 16 + 16 * y
  | 2 => d + (x + 15) % 16 + 16 * y
  | 3 => d + x + 16 * ((y + 1) % 8)
  | 4 => d + x + 16 * ((y + 7) % 8)
  | _ => r

/-- The port a router without a written table uses toward another (R18): a minimal route, in x first. DESIGN CHOICE (assumption 91): where
both directions are equally long (8 in x, 4 in y), +x and +y. -/
def defaultPort (r dst : Nat) : Nat :=
  let dx := (dst % 16 + 16 - r % 16) % 16
  let dy := (dst % 128 / 16 + 8 - r % 128 / 16) % 8
  if dx ≠ 0 then (if dx ≤ 8 then 1 else 2) else if dy ≠ 0 then (if dy ≤ 4 then 3 else 4) else 0

/-- The port from a router toward another of its device (R129). -/
def State.portTo (s : State) (r dst : Nat) : Nat :=
  (Sp.find (s.router r).clusterTable (dst % 128)).getD (defaultPort r dst)

/-- The port by which a neighbour is reached back. -/
def backPort (p : Nat) : Nat :=
  match p with
  | 1 => 2 | 2 => 1 | 3 => 4 | 4 => 3 | _ => 0

/-- The routers on the way to another one. -/
def pathTo (s : State) (r dst : Nat) : Nat → List Nat
  | 0 => []
  | n + 1 => if r = dst then [r] else r :: pathTo s (routerStep r (s.portTo r dst)) dst n

/-! ## The route of a stream (R83, R330) -/

/-- One STREAM channel of a router's output port is free: 8 on every link (R83). -/
def State.channelFree (s : State) (r port : Nat) : Bool := decide (Sp.get 0 (s.router r).streams port < 8)

/-- The next link of a route toward a core of the domain (R83, R129): the router and the port it leaves by; none at the
target's own router, or where no link port toward its device is up (R409). Port 5 is the Ababex Link. -/
def nextLink (s : State) (r dst : Nat) : Option (Nat × Nat) :=
  if r / 128 = dst / 128 then (if r = dst then none else some (r, s.portTo r dst))
  else
    match s.deviceExit r (dst / 128) with
    | none => none
    | some x => let exit := r / 128 * 128 + x
                if r = exit then some (r, 5) else some (r, s.portTo r exit)

/-- Where a link leads. -/
def linkEnd (r port dst : Nat) : Nat := if port = 5 then dst / 128 * 128 + r % 128 else routerStep r port

/-- One hop of the head of a BOUND port's route (R83, R330): it takes a channel of the next link, or counts a retry where none is free;
at the target it binds a port in LISTEN. The place is checked first. Whether the head moved. -/
def hopOnce (s : State) (core i : Nat) : State × Bool :=
  let p := s.port core i
  if p.st ≠ .bound ∨ p.acq ≠ 1 then (s, false) else
  match if s.linkFrom (coreCluster core) (bits p.place 63 54) then s.placeOf (s.partOf (coreCluster core)) p.place else none with
  | none => ((dropRoute s core i).setPort core i { p with acq := 0, hops := [], refused := 1 }, false)
  | some (tgt, _) =>
    let here := match p.hops.getLast? with
      | none => coreCluster core
      | some h => linkEnd (h / 8) (h % 8) (coreCluster tgt)
    match nextLink s here (coreCluster tgt) with
    | some (r, port) =>
      if s.channelFree r port then
        let t := s.router r
        let s := s.setRouter r { t with streams := Sp.set 0 t.streams port (Sp.get 0 t.streams port + 1) }
        (s.setPort core i { p with hops := p.hops ++ [r * 8 + port], tgtCore := tgt }, true)
      else
        (s.updCore core fun c => { c with count := { c.count with portretry := c.count.portretry + 1 } }, false)
    | none =>
      let q := s.port tgt p.tgtPort
      if here = coreCluster tgt ∧ q.st = .listen ∧ q.srcPort = 0 then
        let s := s.setPort tgt p.tgtPort { q with srcCore := core, srcPort := i + 1, route := p.route }
        (s.setPort core i { s.port core i with acq := 2, tgtCore := tgt }, true)
      else (s, false)

/-- The one attempt of a write that does not block (R83, R332): the head takes hop after hop until the route is acquired or it cannot move. -/
def hopAll (s : State) (core i : Nat) : Nat → State
  | 0 => s
  | n + 1 => let r := hopOnce s core i
             if r.2 then hopAll r.1 core i n else r.1

end Sys2Proof.Machine
end

