-- ==== Sys2Proof/Machine/Directory.lean ====
section
/-! DEFINITION. The write-set directories of the slices and the region records of the coordinators as every access meets them (R118 to
R124): aborting a region, installing and discarding at a slice, and an access of no member to a line. A coordinator's place is
`cluster * 1024 + index`. -/

namespace Sys2Proof.Machine
open Sys2Proof

/-! ## Coordinators -/

/-- A cause becomes pending (R116, R186): 0 CANCEL, 1 AR_ABORT, 2 WATCHDOG, 3 the kill of a member of its completion group, for a unit,
resident or saved. -/
def asyncDeliver (s : State) (slot : Nat) (gen : BitVec 32) (cause : Nat) : State :=
  let t := s.slot slot
  if t.st ≠ .idle ∧ t.gen = gen then
    s.setSlot slot (match cause with
      | 0 => { t with cancel := true }
      | 1 => { t with arAbort := true }
      | 2 => { t with wdog := true }
      | _ => { t with tabFail := true })
  else
    s.setSlot slot { t with saved := t.saved.map fun c => if c.gen ≠ gen then c else
      match cause with
      | 0 => { c with cancel := true }
      | 1 => { c with arAbort := true }
      | 2 => { c with wdog := true }
      | _ => { c with tabFail := true } }

/-- The region record a handle names (R118): its coordinator cluster, of the issuer's partition on the handle's device (R410), and the
record. -/
def regionOf (s : State) (part : Nat) (h : W64) : Option (Nat × Nat × Region) :=
  if 1024 ≤ bits h 46 32 then none else
  match s.physCluster (s.partAt part (bits h 63 54)) (bits h 53 47) with
  | none => none
  | some c =>
    let r : Region := Sp.get {} (s.cluster c).regions (bits h 46 32)
    if r.gen.toNat = bits h 31 0 then some (c, bits h 46 32, r) else none

/-- A region handle (R366). -/
def regionHandle (s : State) (cluster idx : Nat) (gen : BitVec 32) : W64 :=
  BitVec.ofNat 64 (clusterDev cluster * 2 ^ 54 + s.relCluster cluster * 2 ^ 47 + idx * 2 ^ 32 + gen.toNat)

/-- The region record at a coordinator's place, if it is still of a generation. -/
def State.regionAt (s : State) (place : Nat) (gen : W64) : Option Region :=
  let r : Region := Sp.get {} (s.cluster (place / 1024)).regions (place % 1024)
  if r.gen.toNat = bits gen 31 0 then some r else none

/-- Writes a region record; one whose members have all received their outcome is FREE again, its generation advanced
(R124). DESIGN CHOICE (assumption 136): every other field of a FREE record reads as at reset. -/
def State.setRegion (s : State) (place : Nat) (r : Region) : State :=
  let r := if (r.st = 4 ∨ r.st = 5) ∧ r.members.all (fun m => m.told) then { ({} : Region) with gen := r.gen + 1 } else r
  s.updCluster (place / 1024) fun x => { x with regions := Sp.put x.regions (place % 1024) r }

/-- The NI of the coordinator at a place. -/
def coordNi (place : Nat) : Nat := place / 1024 * 128

/-- The number under which the traffic counts that a region's coordinator and slices send of themselves (R140). DESIGN CHOICE (assumption
134): it carries the tag of the ARNEW's unit. -/
def Region.tagWord (r : Region) : W64 := if r.phase then 3 else 2

/-- What a coordinator sends to a slice: its data are the region's partition and handle, the coordinator's place, and the tag. -/
def sliceOp (s : State) (place : Nat) (r : Region) (i : Instr) (sl : Nat) : Op :=
  { who := sl, ins := i,
    data := [BitVec.ofNat 64 r.part, regionHandle s (place / 1024) (place % 1024) r.gen, BitVec.ofNat 64 place, r.tagWord] }

/-- A coordinator sends to every participating slice. -/
def toSlices (s : State) (place : Nat) (r : Region) (i : Instr) : State :=
  r.slices.foldl (fun t sl => t.send (coordNi place) r.part r.phase (sliceOp s place r i sl)) s

/-- Aborts an OPEN region (R124): CAUSE, DISCARD to every participating slice, AR_ABORT to every joined member, at once to the one that
asks for it (R369). -/
def abortRegion (s : State) (place : Nat) (r : Region) (cause : Nat) (asks : Option (Nat × BitVec 32) := none) : State :=
  let s := toSlices s place r .regionDiscard
  let s := r.members.foldl (fun s m => if asks = some (m.slot, m.gen) then asyncDeliver s m.slot m.gen 1
    else s.post (.asyncCauseDelivery m.slot m.gen 1)) s
  s.setRegion place { r with st := if r.slices = [] then 5 else 3, cause := cause, acks := r.slices }

/-- An abort request for a region of OPEN state; denied in any other (R124). -/
def askAbort (s : State) (place : Nat) (gen : W64) (cause : Nat) (asks : Option (Nat × BitVec 32) := none) : State :=
  match s.regionAt place gen with
  | none => s
  | some r => if r.st = 1 then abortRegion s place r cause asks else s

/-! ## Slices (R120 to R123) -/

/-- The entry belongs to a region. -/
def WsEntry.of (e : WsEntry) (home : Nat) (h : W64) : Bool := e.home == home && e.region == h

/-- What stalled at a slice is performed next, in the order it arrived (R121): before anything else reaches its line. -/
def releaseStalled (s : State) (sl : Nat) : State :=
  let x := s.slice sl
  let s := s.setSlice sl { x with stalled := [] }
  { s with due := s.due ++ x.stalled }

/-- Bytes that a mask selects, written at a location one by one: `n` bytes from byte `i` on. -/
def installBytes (s : State) (e : WsEntry) (i : Nat) : Nat → State
  | 0 => s
  | n + 1 =>
    let s := if e.mask.getLsbD i then s.write (e.loc + i) (e.data.toNat / 2 ^ (8 * i) % 256) 1 else s
    installBytes s e (i + 1) n

/-- A slice forgets a region. -/
def dropRegion (s : State) (sl home : Nat) (h : W64) : State :=
  s.updSlice sl fun x => { x with ws := x.ws.filter (fun e => !WsEntry.of e home h),
                                  prepared := x.prepared.filter (fun p => !(p.1 == home && p.2 == h)) }

/-- A slice's acknowledgement to the coordinator, under the tag of what it answers. -/
def coordAck (i : Instr) (place h sl tag : W64) : Op := { who := place.toNat, ins := i, data := [h, sl, tag] }

/-- A slice's part of a region's outcome (R123, R124), with what the coordinator has sent: every MASK byte of its W entries is written
(`install`) or none, its entries are free, what stalled is performed, and the coordinator is answered. -/
def slicePart (s : State) (sl : Nat) (install : Bool) (data : List W64) : State :=
  match data with
  | [home, h, place, tag] =>
    let s := s.deliverTag (sliceNi sl) tag.toNat
    let es := if install then (s.slice sl).ws.filter fun e => WsEntry.of e home.toNat h && e.w else []
    let s := es.foldl (fun s e => installBytes s e 0 64) s
    releaseStalled ((dropRegion s sl home.toNat h).sendTag (sliceNi sl) home.toNat tag.toNat
      (coordAck (if install then .regionInstallAck else .regionDiscardAck) place h (BitVec.ofNat 64 sl) tag)) sl
  | _ => s

/-! ## A line of second-tier memory (R121) -/

/-- Stores a list of writes on path C at a location. -/
def writeAll (s : State) (loc : Nat) : List (Nat × Nat × Nat) → State
  | [] => s
  | w :: l => writeAll (s.pathWrite 0 (loc + w.1) w.2.2 w.2.1) loc l

/-- The entries of a line. -/
def State.lineEntries (s : State) (sl part line : Nat) : List WsEntry :=
  (s.slice sl).ws.filter fun e => e.part == part && e.line == line

/-- The entries that stall a non-member: every one for a write, the prepared W entries for a read. -/
def stallers (es : List WsEntry) (wr : Bool) : List WsEntry := if wr then es else es.filter fun e => e.w && e.prep

/-- A request to a coordinator for an abort, with its place in the order of issue; `tag` is below 4 where nobody awaits an answer. -/
def abortRequest (s : State) (place : Nat) (cause gen : W64) (tag : W64 := 0) (slot : W64 := 0) (sgen : W64 := 0) : Op :=
  { who := place, data := [cause, gen, slot, sgen, tag, BitVec.ofNat 64 s.ticket], ins := .regionAbortRequest }

/-- A non-member's access stalls at a slice; for a write the slice asks for the aborts (R121). -/
def stallAt (s : State) (sl : Nat) (es : List WsEntry) (wr : Bool) (o : Op) : State :=
  let s := s.updSlice sl fun x => { x with stalled := x.stalled ++ [{ o with xl := s.kept }] }
  if !wr then s else es.foldl (fun s e => match regionOf s e.home e.region with
    | some (c, i, r) => s.send (sliceNi sl) r.part r.phase (abortRequest s (c * 1024 + i) 1 e.region r.tagWord)
    | none => s) s

/-- What became of a line's access. -/
inductive LineGot where
  | done (s : State) (old : Nat)
  | stalled (s : State)

/-- An access performed as by a non-member: a store or atomic (`wr`), a CAS that fails among them, stalls at every entry. The bytes
count toward the partition's slice budget (R147). -/
def nonMemberLine (s : State) (sl part va loc len : Nat) (wr : Bool) (writes : Nat → List (Nat × Nat × Nat)) (o : Op) : LineGot :=
  let old := s.read loc len
  let es := stallers (s.lineEntries sl part (va / 64)) wr
  if es = [] then .done (writeAll s loc (writes old)) old else .stalled (stallAt s sl es wr o)

/-- A write of the hardware's own into a line (a context frame, a trace record) that stalls at an entry (R121): the region is asked to
abort, and the slice's part of its outcome, which is on its way, is performed before the write. -/
def settleEntry (s : State) (sl : Nat) (e : WsEntry) : State :=
  let s := match regionOf s e.home e.region with
    | some (c, i, _) => askAbort s (c * 1024 + i) e.region 1
    | none => s
  let mine (o : Op) : Bool := o.who == sl && (o.ins == .regionInstall || o.ins == .regionDiscard) &&
    o.data.take 2 == [BitVec.ofNat 64 e.home, e.region]
  match s.agenda.find? mine with
  | none => s
  | some o =>
    let s := { s with agenda := s.agenda.filter fun q => !mine q }
    slicePart (match o.inj with
      | some (ni, p, some t) => s.inject ni p t
      | _ => s) sl (o.ins == .regionInstall) o.data

/-- Settles every entry of the line of a virtual address at its slice. -/
def settleLine (s : State) (sl part va : Nat) : State := (s.lineEntries sl part (va / 64)).foldl (fun s e => settleEntry s sl e) s

end Sys2Proof.Machine
end

