-- ==== Sys2Proof/Machine/Ops.lean ====
section
/-! DEFINITION. The shared operations: reaching memory for the hardware's own accesses, context frames (R187 to R189), the
end of a unit (R175), taking an exception (R185) and returning from one (R377). -/

namespace Sys2Proof.Machine
open Sys2Proof

/-! ## Accesses of the hardware itself -/

/-- The unit of a slot as an accessor (R58); `own` where the access is at its own core. -/
def State.unitAccessor (s : State) (slot core : Nat) : Accessor :=
  { slot := slot, gen := (s.slot slot).gen, part := s.partOf (slotCluster slot), level := (s.slot slot).level,
    own := slotCore slot == core }

/-- Where `len` bytes (within one line) at a global address lie, for an accessor that does not enter the fault tree (R187) and reads, writes or
does both: none where the page is not valid or a page, segment or region refuses; no location, yet no refusal, at a guarded granule (R61). A
write settles the line's directory entries; a read that would stall at one finds nothing (R121). -/
def State.reach (s : State) (x : Accessor) (a : W64) (len : Nat) (rd wr : Bool) : State × Option (Option Nat) :=
  match s.globalTarget x.part a with
  | none => (s, none)
  | some (.istore _ _) => (s, none)
  | some (.scratch k off) =>
    let part := s.partAt x.part (clusterDev (coreCluster k))
    let acc := { x with part := part, own := slotCore x.slot == k }
    if s.segment (coreCluster k) part (k % 128) false rd wr = .ok ∧ (rd → s.protAllows k off len acc false) ∧
        (wr → s.protAllows k off len acc true) then (s, some (if s.guarded k off then none else some (scratchLoc k off))) else (s, none)
  | some (.second dev va) =>
    match s.translate dev (s.partAt x.part dev) va wr with
    | (s, none) => (s, none)
    | (s, some e) =>
      if pteCheck e (s.partAt x.part dev) rd wr = .ok then
        if wr then (settleLine s (pageSlice dev va) (s.partAt x.part dev) va, some (some (pteLoc e dev va)))
        else (s, if stallers (s.lineEntries (pageSlice dev va) (s.partAt x.part dev) (va / 64)) false = []
          then some (some (pteLoc e dev va)) else none)
      else (s, none)

/-- The same for `n` lines of 64 bytes one after the other, read or written. -/
def State.reachLines (s : State) (x : Accessor) (a : W64) (wr : Bool) : Nat → State × Option (List (Option Nat))
  | 0 => (s, some [])
  | n + 1 =>
    match s.reach x a 64 (!wr) wr with
    | (s, none) => (s, none)
    | (s, some l) =>
      match State.reachLines s x (a + 64) wr n with
      | (s, none) => (s, none)
      | (s, some ls) => (s, some (l :: ls))

/-- Stores an image line by line; what falls on a guarded granule is dropped (R61). -/
def writeLines (s : State) (v : Nat) : List (Option Nat) → State
  | [] => s
  | l :: ls => writeLines (match l with
      | some l => s.write l (v % 2 ^ 512) 64
      | none => s) (v / 2 ^ 512) ls

/-- Reads an image line by line; a guarded granule reads as zero (R61). -/
def readLines (s : State) : List (Option Nat) → Nat
  | [] => 0
  | l :: ls => (match l with
      | some l => s.read l 64
      | none => 0) + 2 ^ 512 * readLines s ls

/-! ## Frame pools (R187) -/

/-- The lowest free frame at or above `i`, of `n` more. -/
def lowestFree (free : Nat) (i : Nat) : Nat → Option Nat
  | 0 => none
  | n + 1 => if free.testBit i then some i else lowestFree free (i + 1) n

/-- Takes the lowest free frames of a pool, one or two (R187): none where it has too few or cannot be reached. -/
def takeFrames (s : State) (x : Accessor) (pool : W64) (two : Bool) : State × Option (Nat × Option Nat) :=
  if pool = 0 ∨ pool.toNat % 64 ≠ 0 then (s, none) else
  match s.reach x pool 64 true true with
  | (s, none) | (s, some none) => (s, none)
  | (s, some (some l)) =>
    let free := s.read l 8
    let n := s.read (l + 8) 8 % 64 + 1
    match lowestFree free 0 n with
    | none => (s, none)
    | some i =>
      if !two then (s.write l (free - 2 ^ i) 8, some (i, none)) else
      match lowestFree free (i + 1) (n - (i + 1)) with
      | none => (s, none)
      | some j => (s.write l (free - 2 ^ i - 2 ^ j) 8, some (i, some j))

/-- Sets the FREE bit of a frame again (R187). -/
def freeFrame (s : State) (x : Accessor) (pool : W64) (i : Nat) : State :=
  match s.reach x pool 64 true true with
  | (s, none) | (s, some none) => s
  | (s, some (some l)) => let free := s.read l 8
                   if free.testBit i then s else s.write l (free + 2 ^ i) 8

/-- The address of a frame (R187). -/
def frameAddr (pool : W64) (i : Nat) : W64 := pool + BitVec.ofNat 64 (64 + 2048 * i)

/-- Frees the frames of a saved context. -/
def freeSaved (s : State) (slot : Nat) (c : Saved) : State :=
  let x : Accessor := { slot := slot, gen := c.gen, part := c.part, level := c.level, own := true }
  let s := freeFrame s x c.pool c.frame
  match c.ext with
  | none => s
  | some j => freeFrame s x c.pool j

/-! ## The end of a unit (R175) -/

/-- Writes one trace record to the partition's trace ring (R148). -/
def traceRecord (s : State) (slot : Nat) : State :=
  let t := s.slot slot
  let p := s.partOf (slotCluster slot)
  let q := s.part p
  if !q.traceOn ∨ q.traceSize = 0 then s else
  let now := s.ptpTime (slotDev slot)
  let sat (a b : W64) : Nat := Nat.min (a.toNat - b.toNat) (2 ^ 32 - 1)
  let img := (t.source * 2 ^ 49 + slot % 8 * 2 ^ 46 + slotCore slot % 128 * 2 ^ 39 + s.relCluster (slotCluster slot) * 2 ^ 32 +
      t.corr.toNat) + 2 ^ 64 * t.level.toNat + 2 ^ 128 * t.enq.toNat + 2 ^ 192 * (sat now t.deq * 2 ^ 32 + sat t.deq t.enq)
  let x : Accessor := { slot := slot, gen := t.gen, part := p, level := 0, own := false }
  match s.reach x (q.traceBase + BitVec.ofNat 64 (q.traceNext % q.traceSize * 32)) 32 false true with
  | (s, none) => s
  | (s, some l) => (match l with
      | some l => s.write l img 32
      | none => s).updPart p (fun q => { q with traceNext := q.traceNext + 1 })

/-- The kills of the Pigeonhole entries a unit may produce (R111, R116, R175): one for each entry of its stack, top first. -/
def producerKills (s : State) (slot : Nat) (gen : BitVec 32) (part : Nat) (stack : List W64) : List Op :=
  stack.reverse.filterMap fun e =>
    if e.getLsbD 56 then none else
      match s.physCluster part (bits e 55 49) with
      | none => none
      | some c => some { ins := .producerKill c (bits e 48 35) slot gen }

/-- The departures of a unit from the barriers it is registered with (R175, R349), at its level (R58). -/
def departures (part slot : Nat) (gen : BitVec 32) (level : W64) (bars : Sp BarReg) : List Op :=
  bars.map fun b => ({ data := [level], ins := .barrierDeparture part b.2.addr slot gen b.2.gen } : Op)

/-- Frees a term-array lease that a unit holds (R175): the run in progress stops at its next stop point, and the next
request is granted. -/
def freeLease (s : State) (slot : Nat) (gen : BitVec 32) : State :=
  let c := slotCluster slot
  if (s.cluster c).arr.holder = some (slot, gen) then
    (s.updCluster c (fun x => { x with arr := { x.arr with ended := true } })).post .leaseGrant c
  else s

/-- An idle slot after a unit: its registers hold what they held until the next unit start sets them (R31); what the unit had
of its own is gone, other units' saved contexts stay (R175, R184). -/
def idleSlot (t : Slot) : Slot :=
  { t with st := .idle, cancel := false, arAbort := false, wdog := false, tabFail := false, guardPend := false, outst := [], stopped := false,
           attempt := none, preempt := none, stack := [], region := none, voted := false, bars := [], pages := [], ist := [],
           atBrk := false, step := false, owed := none, saved := t.saved.filter (fun c => c.gen != t.gen) }

/-- The end of the unit in a slot (R175): its ports, lease, tables, barriers, level and frames, in that order. A kill adds 1 to its
launch's ERRORS where `err` says so: not for CANCEL or a partition reset; a GUARD report still pending (R61) adds 1 under either way of ending; once at most (R139). -/
def unitEnd (s : State) (slot : Nat) (killed err : Bool) : State :=
  let t := s.slot slot
  let part := s.partOf (slotCluster slot)
  let s := traceRecord s slot
  let s := closePorts s slot t.gen 8
  let s := freeLease s slot t.gen
  let s := if killed then s.postAll (producerKills s slot t.gen part t.stack) else s
  let s := match t.region with
    | some h => s.post (.regionMemberKilled part h slot t.gen)
    | none => s
  let s := s.postAll (departures part slot t.gen t.level t.bars)
  let s := s.post (.levelUpdate { part := t.home, level := t.level, add := false, n := 1,
                                  err := if (killed && err) || t.guardPend then 1 else 0, slot := slot, gen := t.gen, tag := 0, ack := false, addr := 0 })
  let s := (t.saved.filter (fun c => c.gen == t.gen)).foldl (fun s c => freeSaved s slot c) s
  let s := { s with parked := s.parked.filter (fun p => !(p.slot == slot && p.gen == t.gen)),
                    orphans := s.orphans ++ (t.outst.filter (fun o : Outst => o.write || o.held)).map
                      (fun o : Outst => ({ slot := slot, gen := t.gen, entry := o } : Orphan)) }
  s.setSlot slot (idleSlot t)

/-! ## Taking an exception and returning from one -/

/-- What a trap records (R185): its cause, and TRAPADDR and TRAPINFO as R42 gives. -/
structure Trap where
  cause : Nat
  addr : W64 := 0
  info : W64 := 0
deriving DecidableEq, Repr

/-- The registers a trap writes (R39, R185). -/
def Slot.trapRegs (t : Slot) (pc : Pc) (x : Trap) : Slot :=
  { t with trappc := pc.setWidth 64, trapcause := BitVec.ofNat 64 (256 + x.cause), trapaddr := x.addr,
           trapinfo := x.info }

/-- Taking an exception (R41, R185): the trap registers take the group's PC, the cause and what R42 gives; the slot goes
on at TRAPVEC, or the unit is killed where TRAPVEC is 0 or ACTIVE was 1. -/
def trapEntry (s : State) (slot : Nat) (pc : Pc) (x : Trap) : State :=
  let t := s.slot slot
  let s1 := s.setSlot slot (t.trapRegs pc x)
  if t.trapvec = 0 ∨ t.trapcause.getLsbD 8 then unitEnd s1 slot true (x.cause != causeCancel)
  else s1.setSlot slot { t.trapRegs pc x with pc := t.trapvec.setWidth 15, st := .ready, attempt := none }

/-- Returning from an exception (R377): ACTIVE is cleared; the slot goes on at TRAPPC, or after the group there where the
cause is SWTRAP or BREAK. -/
def returnFromTrap (s : State) (slot : Nat) : State :=
  let t := s.slot slot
  let pc := t.trappc.toNat % 2 ^ 15
  let c := t.trapcause.toNat % 256
  let pc' := if c = causeSwTrap ∨ c = causeBreak then s.pcAfter (slotCore slot) pc else pc
  s.setSlot slot { t with trapcause := t.trapcause &&& ~~~(256 : W64), pc := BitVec.ofNat 15 pc' }

end Sys2Proof.Machine
end

