-- ==== Sys2Proof/Machine/Operands.lean ====
section
/-! DEFINITION. Every operand form: the mask, the F/E checks and trap bits (R26, R226), the ports (R28, R332), the values a
group reads, and how a group ends: it retires, waits, traps or keeps its slot waiting for an answer. -/

namespace Sys2Proof.Machine
open Sys2Proof

/-- The file of an operand, or no register. -/
inductive File where
  | no | g | v | k
deriving DecidableEq, Repr

/-- The registers a form names (R221): the file of each field, whether d is read and written, whether d and a are pairs,
whether XK enables lanes, and further destinations. -/
structure Uses where
  d : File := .no
  dSrc : Bool := false
  dDst : Bool := false
  dPair : Bool := false
  a : File := .no
  aPair : Bool := false
  b : File := .no
  lanes : Bool := false
  extra : List Nat := []
deriving DecidableEq, Repr

/-- The values of a group's operands: g registers (with the second word of a pair), v registers, masks, and the enabled
lanes with whether XK gave them. -/
structure Vals where
  d : W64 := 0
  d1 : W64 := 0
  a : W64 := 0
  a1 : W64 := 0
  b : W64 := 0
  vd : V512 := 0
  va : V512 := 0
  vb : V512 := 0
  ka : K32 := 0
  kb : K32 := 0
  lanes : BitVec 32 := 0xFFFFFFFF
  masked : Bool := false
deriving DecidableEq, Repr

/-- How a group's own part ends: performed, control transferred, request sent and the slot waiting for its answer, no
context left to go on with, a trap (which may change what it reports), or a wait (bounded by a limit or not, counted by the watchdog or not, with the
TRAPINFO of an expiry). -/
inductive Eff where
  | next (s : State)
  | goto (s : State) (pc : Nat)
  | hold (s : State)
  | gone (s : State)
  | trap (t : Trap)
  | trapWith (t : Trap) (f : State → State)
  | wait (c : Cond) (limit : Option Nat) (watch : Bool) (info : W64)

/-- What the operand checks find. -/
inductive Verdict where
  | run (v : Vals) (s : State)
  | skip
  | fail (s : State)
  | trap (t : Trap) (s : State)
  | wait (c : Cond) (limit : Option Nat) (watch : Bool) (info : W64) (s : State)

/-! ## Outstanding accesses (R173) -/

/-- Entries a slot holds, and its vector entries. -/
def Slot.entries (t : Slot) : Nat := (t.outst.filter (fun o : Outst => o.access)).length
def Slot.vectors (t : Slot) : Nat := (t.outst.filter (fun o : Outst => o.vector)).length

/-- Entries in use in a core. -/
def State.coreEntries (s : State) (core : Nat) : Nat :=
  (List.range 8).foldl (fun n i => n + (s.slot (core * 8 + i)).entries) 0

/-- A slot may hold one more entry: 16 of a slot, 32 of a core, 8 of vector accesses (R173). -/
def State.entryFree (s : State) (slot : Nat) (vector : Bool) : Bool :=
  decide ((s.slot slot).entries < 16) && decide (s.coreEntries (slotCore slot) < 32) &&
    (!vector || decide ((s.slot slot).vectors < 8))

/-! ## Ports (R28, R83, R84, R332) -/

/-- The state code of a port (R332). -/
def PortState.code : PortState → Nat
  | .closed => 0 | .bound => 1 | .opened => 2 | .listen => 3 | .recv => 4

/-- TRAPINFO of a PORT trap (R332). -/
def portInfo (i : Nat) (st : PortState) (reason : Nat) : W64 := BitVec.ofNat 64 (i + st.code * 16 + reason * 256)

/-- TRAPINFO of a bounded port wait that expires (R332). -/
def portWaitInfo (i : Nat) (p : Port) : W64 := BitVec.ofNat 64 (i + p.taken.toNat * 65536 + p.wrote.toNat * 2 ^ 32)

/-- A port may be read: LISTEN or RECV (R84). -/
def Port.readable (p : Port) : Bool := p.st == .listen || p.st == .recv

/-- A port may be written: BOUND or OPEN (R84). -/
def Port.writable (p : Port) : Bool := p.st == .bound || p.st == .opened

/-- A written word would find room: the route is acquired, and fewer than 16 words are in flight or buffered (R83). -/
def State.portRoom (s : State) (p : Port) : Bool :=
  (p.st == .opened || p.acq == 2) && decide (p.flying + (s.port p.tgtCore p.tgtPort).buf.length < 16)

/-- What a waiting group waits for holds (R172). -/
def State.holds (s : State) (slot : Nat) : Cond → Bool
  | .reg code => !(s.slot slot).empty code
  | .portIn i => let p := s.port (slotCore slot) i
                 !p.readable || !p.buf.isEmpty
  | .portOut i => let p := s.port (slotCore slot) i
                  !p.writable || p.refused != 0 || s.portRoom p
  | .entry v => s.entryFree slot v
  | .line key => !(s.slot slot).outst.any (fun o : Outst => o.lines.contains key) &&
                 !s.orphans.any (fun o : Orphan => o.slot == slot && o.entry.lines.contains key)
  | .settled => (s.slot slot).outst.isEmpty
  | .released => !(s.slot slot).outst.any (fun o : Outst => o.write)
  | .answer _ => false
  | .commands => decide ((s.cluster (slotCluster slot)).arr.queue.length < 16)

/-- The word at the head of a port's `n`-th place, for a group that takes several words of it. -/
def Port.wordAt (p : Port) (n : Nat) : Option (Option W64) := p.buf[n]?

/-- How often `i` stands in a list. -/
def countOf (i : Nat) (l : List Nat) : Nat := (l.filter (· == i)).length

/-- Takes words from the head of a port: as many as a group reads (R28). -/
def takeWords (s : State) (core i n : Nat) : State :=
  if n = 0 then s else
  let p := s.port core i
  s.setPort core i { p with buf := p.buf.drop n, taken := p.taken + BitVec.ofNat 16 n }

/-- Consumes the closing marker a read has met: the port returns to LISTEN (R84). DESIGN CHOICE (assumption 116): a word that stands before
the marker, which a group reading the port twice has met with it, is discarded with it. -/
def takeMarker (s : State) (core i : Nat) : State :=
  let p := s.port core i
  s.setPort core i { p with st := .listen, buf := (p.buf.dropWhile (·.isSome)).drop 1, srcCore := 0, srcPort := 0, route := 0 }

/-- Sends one word on a port (R84): the first word opens the route, which counts as one message of its tag (R140). -/
def sendWord (s : State) (core i : Nat) (v : W64) : State :=
  let p := s.port core i
  let o : Op := { who := p.route, ins := .streamWordArrival p.tgtCore p.tgtPort core i v }
  let t := s.setPort core i { p with st := .opened, flying := p.flying + 1, wrote := p.wrote + 1 }
  t.sendAs core (s.partOf (coreCluster core)) (if p.st = .bound then some p.phase else none) o

/-- The most hops of a route: those of every router of two devices. -/
def routeHops : Nat := 258

/-- Starts to acquire the route of a BOUND port (R83): hop by hop, or in one attempt for a write that does not block. -/
def startRoute (s : State) (core i : Nat) (once : Bool) : State :=
  let p := s.port core i
  if p.st = .bound ∧ p.acq = 0 then
    let s := s.tick.setPort core i { p with acq := 1, route := s.ticket + 1, writer := s.cur }
    if once then hopAll s core i routeHops else s.post .routeHop (core * 8 + i)
  else s

/-- A route that a slot's group was acquiring is dropped: an expiry or a failure releases every channel it has taken (R83). -/
def dropRoutes (s : State) (slot : Nat) : State :=
  (List.range 8).foldl (fun s i =>
    let p := s.port (slotCore slot) i
    if p.st = .bound ∧ p.acq ≠ 0 ∧ p.writer = slot then dropRoute s (slotCore slot) i else s) s

/-- WAITPOL's mode and limit (R43). -/
def Slot.waitMode (t : Slot) : Nat := bits t.waitpol 1 0
def Slot.waitLimit (t : Slot) : Nat := bits t.waitpol 63 32

/-- The limit of a wait under WAITPOL: none under MODE 0 (R179). -/
def Slot.limit (t : Slot) : Option Nat := if t.waitMode = 1 then some t.waitLimit else none

/-! ## The F/E checks (R26) -/

/-- A register to check: its file, number, whether its trap bit is set, and its operand (0 a, 1 b, 2 d). -/
structure FeItem where
  file : File
  n : Nat
  trap : Bool
  op : Nat
deriving DecidableEq, Repr

def File.code : File → Nat
  | .v => 1 | .k => 2 | _ => 0

/-- The register code of an item. -/
def FeItem.reg (i : FeItem) : Nat := i.file.code * 32 + i.n

/-- An item is a port register (R23). -/
def FeItem.isPort (i : FeItem) : Bool := i.file == .g && decide (24 ≤ i.n)

/-- TRAPINFO of FE_EMPTY (R42). -/
def FeItem.info (i : FeItem) : W64 := BitVec.ofNat 64 (i.n + i.file.code * 32 + i.op * 128)

/-- The items of one field; the trap bit of a pair is its first word's (R327, R339). -/
def feItems (f : File) (n : Nat) (pair trap : Bool) (op : Nat) : List FeItem :=
  if f = .no then [] else
  { file := f, n := n, trap := trap, op := op } ::
    (if pair then [{ file := f, n := n + 1, trap := false, op := op }] else [])

/-- The items of a form, in the order d, a, b (R26). -/
def Uses.items (u : Uses) (x : Fld) : List FeItem :=
  (if u.dSrc || u.dDst then feItems u.d x.d.toNat u.dPair (x.td && u.dSrc) 2 else []) ++
  u.extra.map (fun n => { file := .g, n := n, trap := false, op := 2 }) ++
  feItems u.a x.a.toNat u.aPair x.ta 0 ++ feItems u.b x.b.toNat false x.tb 1

/-- The first item that is not FULL decides: a trap under its trap bit, else a wait; a port with no word traps under its trap bit (R26,
R28). DEDUCED (assumption 10): a port whose word or link is merely not ready is waited for after every register; a port that holds a closing
marker alone is not empty here, and traps PORT (R84). -/
def feCheck (s : State) (slot : Nat) : List FeItem → Option (Except Trap Cond)
  | [] => none
  | i :: l =>
    if i.isPort then
      if i.trap ∧ (s.port (slotCore slot) (i.n - 24)).buf.isEmpty
      then some (.error { cause := causeFeEmpty, info := i.info }) else feCheck s slot l
    else if (s.slot slot).empty i.reg then
      if i.trap then some (.error { cause := causeFeEmpty, info := i.info }) else some (.ok (.reg i.reg))
    else feCheck s slot l

/-! ## Reading the operands -/

/-- The ports a form reads, in the order a, b, d, and the port it writes (R28, R238). -/
def Uses.reads (u : Uses) (x : Fld) : List Nat :=
  (if u.a = .g ∧ 24 ≤ x.a.toNat then [x.a.toNat - 24] else []) ++
  (if u.b = .g ∧ 24 ≤ x.b.toNat then [x.b.toNat - 24] else []) ++
  (if u.dSrc ∧ u.d = .g ∧ 24 ≤ x.d.toNat then [x.d.toNat - 24] else [])

def Uses.writes (u : Uses) (x : Fld) : Option Nat :=
  if u.dDst ∧ u.d = .g ∧ 24 ≤ x.d.toNat then some (x.d.toNat - 24) else none

/-- The g destinations of a form that are no ports: they take the failure status (R332). -/
def Uses.failDests (u : Uses) (x : Fld) : List Nat :=
  ((if u.d = .g ∧ u.dDst then x.d.toNat :: (if u.dPair then [x.d.toNat + 1] else []) else []) ++ u.extra).filter (· < 24)

/-- The value of a g field: a register, or the `k`-th word that waits on a port. -/
def State.gVal (s : State) (slot n k : Nat) : W64 :=
  if n < 24 then (s.slot slot).getG n else ((s.port (slotCore slot) (n - 24)).wordAt k |>.getD none).getD 0

/-- The lanes a group's XK enables, all of them without XK (R25, R226). -/
def maskOf (t : Slot) (x : Fld) : BitVec 32 :=
  match x.xk with
  | none => 0xFFFFFFFF
  | some (inv, k) => if inv then ~~~(t.getK k.toNat) else t.getK k.toNat

/-- The values a group reads. -/
def readVals (u : Uses) (x : Fld) (s : State) (slot : Nat) : Vals :=
  let t := s.slot slot
  let pa := if u.a = .g ∧ 24 ≤ x.a.toNat then [x.a.toNat - 24] else []
  let pb := if u.b = .g ∧ 24 ≤ x.b.toNat then [x.b.toNat - 24] else []
  let d := x.d.toNat
  let a := x.a.toNat
  let b := x.b.toNat
  { a := if u.a = .g then s.gVal slot a 0 else 0
    a1 := if u.aPair then t.getG (a + 1) else 0
    b := if u.b = .g then s.gVal slot b (countOf (b - 24) pa) else 0
    d := if u.d = .g ∧ u.dSrc then s.gVal slot d (countOf (d - 24) (pa ++ pb)) else 0
    d1 := if u.dPair ∧ u.dSrc then t.getG (d + 1) else 0
    va := if u.a = .v then t.getV a else 0
    vb := if u.b = .v then t.getV b else 0
    vd := if u.d = .v then t.getV d else 0
    ka := if u.a = .k then t.getK a else 0
    kb := if u.b = .k then t.getK b else 0
    lanes := maskOf t x
    masked := x.xk.isSome }

/-- A port's fault in the way of a group (R84, R332): a state that does not allow the operation, a closing marker among
the words it would take, or a route refused. -/
def portFault (s : State) (core : Nat) (reads : List Nat) (wr : Option Nat) : Option (Trap × State) :=
  match reads.find? (fun i => !(s.port core i).readable) with
  | some i => some ({ cause := causePort, info := portInfo i (s.port core i).st 1 }, s)
  | none =>
    match reads.find? (fun i => ((s.port core i).buf.take (countOf i reads)).contains none) with
    | some i => some ({ cause := causePort, info := portInfo i (s.port core i).st 2 }, takeMarker s core i)
    | none =>
      match wr with
      | none => none
      | some i =>
        let p := s.port core i
        if !p.writable then some ({ cause := causePort, info := portInfo i p.st 1 }, s)
        else if p.refused = 1 then some ({ cause := causeAddr, addr := p.place }, dropRoute s core i)
        else if p.refused = 3 then some ({ cause := causePort, info := portInfo i p.st 3 }, dropRoute s core i)
        else none

/-- The port whose words a group must wait for, and the port whose link it must, if any: every port it names must be ready (R332). -/
def readWait (s : State) (core : Nat) (reads : List Nat) : Option Nat :=
  reads.find? fun i => decide ((s.port core i).buf.length < countOf i reads)
def writeWait (s : State) (core : Nat) (wr : Option Nat) : Option Nat := wr.filter fun i => !s.portRoom (s.port core i)

/-- A group that cannot go on at a port waits there under WAITPOL, or fails where it does not block: a route it was acquiring is dropped
(R83, R332). -/
def portStop (u : Uses) (x : Fld) (s : State) (c : Cond) (i : Nat) : Verdict :=
  let slot := s.cur
  let t := s.slot slot
  if t.waitMode = 2 then .fail ((dropRoutes s slot).updSlot slot fun t => (u.failDests x).foldl (fun t n => t.setG n (-1)) t)
  else .wait c t.limit true (portWaitInfo i (s.port (slotCore slot) i)) s

/-- The checks of R185 that every form shares (mask, F/E, ports) and the values it reads. -/
def operands (u : Uses) (x : Fld) (s : State) : Verdict :=
  let slot := s.cur
  let core := slotCore slot
  let t := s.slot slot
  let kEmpty := match x.xk with
    | none => none
    | some (_, k) => if t.empty (64 + k.toNat) then some (64 + k.toNat) else none
  match kEmpty with
  | some c => .wait (.reg c) none false 0 s
  | none =>
    if !u.lanes && !(maskOf t x).getLsbD 0 then .skip else
    match feCheck s slot (u.items x) with
    | some (.error e) => .trap e s
    | some (.ok c) => .wait c none false 0 s
    | none =>
      let reads := u.reads x
      let wr := u.writes x
      match portFault s core reads wr with
      | some (e, s') => .trap e s'
      | none =>
        match readWait s core reads with
        | some i => portStop u x s (.portIn i) i
        | none =>
        let s : State := match wr with
          | some i => startRoute s core i (t.waitMode == 2)
          | none => s
        match portFault s core [] wr with
        | some (e, s') => .trap e s'
        | none =>
        match writeWait s core wr with
        | some i => portStop u x s (.portOut i) i
        | none => .run (readVals u x s slot) ((List.range 8).foldl (fun s i => takeWords s core i (countOf i reads)) s)

/-! ## How a group ends -/

/-- A group retires (R47): the PC passes it, RETIRED counts it, and so does a pending pre-emption request (R183). -/
def Slot.retire (t : Slot) (pc : Nat) : Slot :=
  { t with pc := BitVec.ofNat 15 pc, retired := t.retired + 1, st := .ready, attempt := none,
           preempt := t.preempt.map (· + 1) }

/-- The group of the current slot retires and the slot goes on at `pc`. -/
def retireTo (s : State) (pc : Nat) : State := s.updSlot s.cur (fun t => t.retire pc)

/-- The PC after a group. -/
def nextPc (x : Fld) (t : Slot) : Nat := t.pc.toNat + Fld.len x

/-- The group waits (R172, R179): at its first attempt the limit and the watchdog begin. A limit that has already passed
traps WAIT_TIMEOUT, and a route the group was acquiring is dropped (R83). -/
def waitFor (s : State) (c : Cond) (limit : Option Nat) (watch : Bool) (info : W64) : State :=
  let slot := s.cur
  let t := s.slot slot
  let at0 : Attempt := t.attempt.getD { since := s.now, id := s.ticket, limit := none, info := 0, watched := none }
  let w := if watch && limit.isNone then some (at0.watched.getD s.now) else none
  let a : Attempt := { at0 with limit := limit, info := info, watched := w }
  let s := s.tick.updSlot slot (fun t => { t with st := .waiting c, attempt := some a })
  match limit with
  | some l =>
    if at0.since + l ≤ s.now then trapEntry (dropRoutes s slot) slot t.pc { cause := causeWaitTimeout, info := info }
    else s.postAt (at0.since + l + 1) (.waitTimeout slot t.gen a.id)
  | none =>
    match w with
    | none => s
    | some since => s.postAt (since + (s.part (s.partOf (slotCluster slot))).wdogwin.toNat) (.watchdog slot t.gen a.id)

/-- The end of a group whose own part has run. -/
def finish (x : Fld) (s : State) : Eff → State
  | .next s' => retireTo s' (nextPc x (s.slot s.cur))
  | .goto s' pc => retireTo s' pc
  | .hold s' => s'
  | .gone s' => s'
  | .trap t => trapEntry s s.cur (s.slot s.cur).pc t
  | .trapWith t f => trapEntry (f s) s.cur (s.slot s.cur).pc t
  | .wait c l w i => waitFor s c l w i

/-- One group (R185): its operand checks, then its own part `body` on the values it reads. -/
def issue (u : Uses) (x : Fld) (s : State) (body : Vals → State → Eff) : State :=
  match operands u x s with
  | .skip => retireTo s (nextPc x (s.slot s.cur))
  | .fail s' => retireTo s' (nextPc x (s.slot s.cur))
  | .trap t s' => trapEntry s' s.cur (s.slot s.cur).pc t
  | .wait c l w i s' => waitFor s' c l w i
  | .run v s' => finish x s (body v s')

/-- Writes a g destination: a register, or one word on a port (R28). -/
def State.putG (s : State) (n : Nat) (v : W64) : State :=
  if n < 24 then s.updSlot s.cur (fun t => t.setG n v) else sendWord s (slotCore s.cur) (n - 24) v

/-- Writes the second word of a pair and the first (R221). -/
def State.putPair (s : State) (n : Nat) (v w : W64) : State := (s.putG n v).putG (n + 1) w

/-- Writes a v destination. -/
def State.putV (s : State) (n : Nat) (v : V512) : State := s.updSlot s.cur (fun t => t.setV n v)

/-- Writes a k destination. -/
def State.putK (s : State) (n : Nat) (v : K32) : State := s.updSlot s.cur (fun t => t.setK n v)

/-- Marks destinations EMPTY at the issue of a long-latency producer (R26); g0 never is (R24). -/
def Slot.markEmpty (t : Slot) : List Nat → Slot
  | [] => t
  | c :: l => Slot.markEmpty (if c = 0 then t else t.setEmpty c true) l

/-- A pending fill of the current slot that is no access (R26): the destinations become EMPTY, and the value is on its
way. -/
def startFill (s : State) (dests : List Nat) (v : V512) : State :=
  let t := s.slot s.cur
  let o : Outst := { tag := s.plainTag, pc := t.pc, access := false, vector := false, dests := dests, lines := [], write := false,
                     acc := none, held := false, reply := none, len := 0, soft := false }
  (s.tick.setSlot s.cur { t.markEmpty dests with outst := t.outst ++ [o] }).post (.fill s.cur t.gen o.tag v)

end Sys2Proof.Machine
end

