-- ==== Sys2Proof/Machine/Int.lean ====
section
/-! DEFINITION. Instructions on general registers (R238 to R246, R251 to R255): integer arithmetic and logic, immediates,
multiply high, counts, rotate, bit fields, division, and the transfers of control. -/

namespace Sys2Proof.Machine
open Sys2Proof

/-- The outcome of a step of the machine. -/
abbrev Out := Host.Outcome State Fault Refusal

/-- d out, a in, b in, all in file G. -/
def uDAB : Uses := { d := .g, dDst := true, a := .g, b := .g }
/-- d out, a in. -/
def uDA : Uses := { d := .g, dDst := true, a := .g }
/-- d in/out, a in. -/
def uDioA : Uses := { d := .g, dSrc := true, dDst := true, a := .g }
/-- d in/out, a in, b in. -/
def uDioAB : Uses := { d := .g, dSrc := true, dDst := true, a := .g, b := .g }
/-- d out. -/
def uD : Uses := { d := .g, dDst := true }
/-- d in, a in. -/
def uSA : Uses := { d := .g, dSrc := true, a := .g }
/-- d in. -/
def uS : Uses := { d := .g, dSrc := true }
/-- d in, a in, b in. -/
def uSAB : Uses := { d := .g, dSrc := true, a := .g, b := .g }
/-- a in. -/
def uA : Uses := { a := .g }
/-- a in, b in. -/
def uAB : Uses := { a := .g, b := .g }
/-- No register. -/
def uNone : Uses := {}

/-- The low 32 bits of a result, sign-extended (R239). -/
def sext32 (r : BitVec 32) : W64 := r.signExtend 64

/-- A three-register form with its .w variant (R239): `f64` on the registers, or `f32` on their low halves. -/
def aluOp (f64 : W64 → W64 → W64) (f32 : BitVec 32 → BitVec 32 → BitVec 32) (w : Bool) (a b : W64) : W64 :=
  if w then sext32 (f32 (a.setWidth 32) (b.setWidth 32)) else f64 a b

def addOp := aluOp (fun a b => a + b) (fun a b => a + b)
def subOp := aluOp (fun a b => a - b) (fun a b => a - b)
def andOp := aluOp (fun a b => a &&& b) (fun a b => a &&& b)
def orOp := aluOp (fun a b => a ||| b) (fun a b => a ||| b)
def xorOp := aluOp (fun a b => a ^^^ b) (fun a b => a ^^^ b)
def shlOp := aluOp (fun a b => a <<< (b.toNat % 64)) (fun a b => a <<< (b.toNat % 32))
def shrOp := aluOp (fun a b => a >>> (b.toNat % 64)) (fun a b => a >>> (b.toNat % 32))
def mulOp := aluOp (fun a b => a * b) (fun a b => a * b)
def sltOp := aluOp (fun a b => if a.slt b then 1 else 0) (fun a b => if a.slt b then 1 else 0)
def minOp := aluOp (fun a b => if b.slt a then b else a) (fun a b => if b.slt a then b else a)
def maxOp := aluOp (fun a b => if a.slt b then b else a) (fun a b => if a.slt b then b else a)
def rotOp := aluOp (fun a b => a.rotateLeft (b.toNat % 64)) (fun a b => a.rotateLeft (b.toNat % 32))

/-- Zero bits above the highest set bit of a value of `n` bits (R244). -/
def leadingZeros (x n : Nat) : Nat := if x = 0 then n else n - 1 - x.log2

/-- Zero bits below the lowest set bit, `n` where there is none (R244). -/
def trailingZeros (x : Nat) : Nat → Nat
  | 0 => 0
  | n + 1 => if x % 2 = 1 then 0 else 1 + trailingZeros (x / 2) n

/-- Set bits among the lowest `n` (R244). -/
def popCount (x : Nat) : Nat → Nat
  | 0 => 0
  | n + 1 => x % 2 + popCount (x / 2) n

/-- A count over 64 bits, or over the low 32 under .w (R244). -/
def countOp (f : Nat → Nat → Nat) (w : Bool) (a : W64) : W64 :=
  if w then BitVec.ofNat 64 (f (a.toNat % 2 ^ 32) 32) else BitVec.ofNat 64 (f a.toNat 64)

/-- MULHU and MULHS (R244): the high half of the 128-bit product. -/
def mulHiU (a b : W64) : W64 := BitVec.ofNat 64 (a.toNat * b.toNat / 2 ^ 64)
def mulHiS (a b : W64) : W64 := BitVec.ofInt 64 (a.toInt * b.toInt / 2 ^ 64)

/-- A field of `wid` bits at `pos` (R245). -/
def fieldU (a : W64) (pos wid : Nat) : W64 := BitVec.ofNat 64 (a.toNat / 2 ^ pos % 2 ^ wid)
def fieldS (a : W64) (pos wid : Nat) : W64 :=
  let v := a.toNat / 2 ^ pos % 2 ^ wid
  if 2 ^ (wid - 1) ≤ v then BitVec.ofInt 64 ((v : Int) - 2 ^ wid) else BitVec.ofNat 64 v

/-- INS (R245): the low `wid` bits of `a` at `pos` of `d`. -/
def fieldIns (d a : W64) (pos wid : Nat) : W64 :=
  BitVec.ofNat 64 (d.toNat % 2 ^ pos + a.toNat % 2 ^ wid * 2 ^ pos + d.toNat / 2 ^ (pos + wid) * 2 ^ (pos + wid))

/-- Position and width of a bit-field immediate (R229). -/
def immPos (imm : W64) : Nat := bits imm 5 0
def immWid (imm : W64) : Nat := bits imm 11 6 + 1

/-- DIV and REM (R246) for a divisor that is not zero. -/
def divOp (u : Bool) (a b : W64) : W64 :=
  if u then BitVec.ofNat 64 (a.toNat / b.toNat) else BitVec.ofInt 64 (Int.tdiv a.toInt b.toInt)
def remOp (u : Bool) (a b : W64) : W64 :=
  if u then BitVec.ofNat 64 (a.toNat % b.toNat) else BitVec.ofInt 64 (Int.tmod a.toInt b.toInt)

/-- A form that writes d from a and b in the rotation. -/
def aluForm (u : Uses) (x : Fld) (s : State) (f : Vals → W64) : State :=
  issue u x s fun v s => .next (s.putG x.d.toNat (f v))

/-- A long-latency form: d becomes EMPTY and its value is on its way (R26, R246). -/
def longForm (u : Uses) (x : Fld) (s : State) (f : Vals → W64) : State :=
  issue u x s fun v s => .next (startFill s [x.d.toNat] ((f v).setWidth 512))

/-- DIV and REM: a zero divisor traps DIV0 (R246). -/
def divForm (x : Fld) (s : State) (f : W64 → W64 → W64) : State :=
  issue uDAB x s fun v s =>
    if v.b = 0 then .trap { cause := causeDiv0 } else .next (startFill s [x.d.toNat] ((f v.a v.b).setWidth 512))

def execAdd (x : Fld) (s : State) : Out := .next (aluForm uDAB x s fun v => addOp x.f v.a v.b)
def execSub (x : Fld) (s : State) : Out := .next (aluForm uDAB x s fun v => subOp x.f v.a v.b)
def execAnd (x : Fld) (s : State) : Out := .next (aluForm uDAB x s fun v => andOp x.f v.a v.b)
def execOr (x : Fld) (s : State) : Out := .next (aluForm uDAB x s fun v => orOp x.f v.a v.b)
def execXor (x : Fld) (s : State) : Out := .next (aluForm uDAB x s fun v => xorOp x.f v.a v.b)
def execShl (x : Fld) (s : State) : Out := .next (aluForm uDAB x s fun v => shlOp x.f v.a v.b)
def execShr (x : Fld) (s : State) : Out := .next (aluForm uDAB x s fun v => shrOp x.f v.a v.b)
def execMul (x : Fld) (s : State) : Out := .next (aluForm uDAB x s fun v => mulOp x.f v.a v.b)
def execSlt (x : Fld) (s : State) : Out := .next (aluForm uDAB x s fun v => sltOp x.f v.a v.b)
def execMin (x : Fld) (s : State) : Out := .next (aluForm uDAB x s fun v => minOp x.f v.a v.b)
def execMax (x : Fld) (s : State) : Out := .next (aluForm uDAB x s fun v => maxOp x.f v.a v.b)

def execAddi (x : Fld) (s : State) : Out := .next (aluForm uDA x s fun v => v.a + x.imm)
def execAndi (x : Fld) (s : State) : Out := .next (aluForm uDA x s fun v => v.a &&& x.imm)
def execOri (x : Fld) (s : State) : Out := .next (aluForm uDA x s fun v => v.a ||| x.imm)
def execXori (x : Fld) (s : State) : Out := .next (aluForm uDA x s fun v => v.a ^^^ x.imm)
def execShli (x : Fld) (s : State) : Out := .next (aluForm uDA x s fun v => v.a <<< x.imm.toNat)
def execShri (x : Fld) (s : State) : Out := .next (aluForm uDA x s fun v => v.a >>> x.imm.toNat)
def execSrai (x : Fld) (s : State) : Out := .next (aluForm uDA x s fun v => v.a.sshiftRight x.imm.toNat)
def execSlti (x : Fld) (s : State) : Out := .next (aluForm uDA x s fun v => boolWord (v.a.slt x.imm))
def execMovi (x : Fld) (s : State) : Out := .next (aluForm uD x s fun _ => x.imm)
def execMovhi (x : Fld) (s : State) : Out := .next (aluForm uD x s fun _ => x.imm <<< 32)
def execLea (x : Fld) (s : State) : Out := .next (aluForm uDAB x s fun v => v.a + if x.f then v.b <<< 3 else v.b)

def execMulhu (x : Fld) (s : State) : Out := .next (aluForm uDAB x s fun v => mulHiU v.a v.b)
def execMulhs (x : Fld) (s : State) : Out := .next (aluForm uDAB x s fun v => mulHiS v.a v.b)
def execClz (x : Fld) (s : State) : Out := .next (aluForm uDA x s fun v => countOp leadingZeros x.f v.a)
def execCtz (x : Fld) (s : State) : Out := .next (aluForm uDA x s fun v => countOp trailingZeros x.f v.a)
def execPopc (x : Fld) (s : State) : Out := .next (aluForm uDA x s fun v => countOp popCount x.f v.a)
def execRot (x : Fld) (s : State) : Out := .next (aluForm uDAB x s fun v => rotOp x.f v.a v.b)
def execExtu (x : Fld) (s : State) : Out := .next (aluForm uDA x s fun v => fieldU v.a (immPos x.imm) (immWid x.imm))
def execExts (x : Fld) (s : State) : Out := .next (aluForm uDA x s fun v => fieldS v.a (immPos x.imm) (immWid x.imm))
def execIns (x : Fld) (s : State) : Out :=
  .next (aluForm uDioA x s fun v => fieldIns v.d v.a (immPos x.imm) (immWid x.imm))
def execDiv (x : Fld) (s : State) : Out := .next (divForm x s (divOp x.f))
def execRem (x : Fld) (s : State) : Out := .next (divForm x s (remOp x.f))

/-! ## Transfers of control -/

/-- A taken transfer to a halfword target given as an integer (R219, R251): outside the store it traps FETCH with the
target's byte address, else the effect `s'` stands and the slot goes on there. -/
def transfer (s' : State) (target : Int) : Eff :=
  if 0 ≤ target ∧ target < 0x4000 then .goto s' target.toNat
  else .trap { cause := causeFetch, addr := BitVec.ofInt 64 (2 * target) }

/-- The PC of the current slot's group. -/
def State.here (s : State) : Nat := (s.slot s.cur).pc.toNat

/-- A conditional branch of R254: taken, the target is the group's PC plus the immediate. -/
def branchForm (u : Uses) (x : Fld) (s : State) (c : Vals → Bool) : State :=
  issue u x s fun v s => if c v then transfer s (s.here + x.imm.toInt) else .next s

def execBr (x : Fld) (s : State) : Out := .next (branchForm uNone x s fun _ => true)

/-- CALL (R252): it waits until g1 is FULL, then writes the return PC into it. -/
def execCall (x : Fld) (s : State) : Out :=
  .next (issue { extra := [1] } x s fun _ s =>
    transfer (s.putG 1 (BitVec.ofNat 64 ((s.here + Fld.len x) % 2 ^ 15))) (s.here + x.imm.toInt))

/-- JR (R253): the target is read before the link is written. -/
def execJr (x : Fld) (s : State) : Out :=
  .next (issue uDA x s fun v s =>
    if 0x4000 ≤ v.a.toNat then .trap { cause := causeFetch, addr := v.a <<< 1 }
    else .goto (s.putG x.d.toNat (BitVec.ofNat 64 ((s.here + Fld.len x) % 2 ^ 15))) v.a.toNat)

def execBeq (x : Fld) (s : State) : Out := .next (branchForm uSA x s fun v => v.d == v.a)
def execBne (x : Fld) (s : State) : Out := .next (branchForm uSA x s fun v => v.d != v.a)
def execBlt (x : Fld) (s : State) : Out := .next (branchForm uSA x s fun v => v.d.slt v.a)
def execBge (x : Fld) (s : State) : Out := .next (branchForm uSA x s fun v => !v.d.slt v.a)
def execBltu (x : Fld) (s : State) : Out := .next (branchForm uSA x s fun v => v.d.ult v.a)
def execBgeu (x : Fld) (s : State) : Out := .next (branchForm uSA x s fun v => !v.d.ult v.a)
def execBz (x : Fld) (s : State) : Out := .next (branchForm uS x s fun v => v.d == 0)
def execBnz (x : Fld) (s : State) : Out := .next (branchForm uS x s fun v => v.d != 0)

/-- LOOP (R255): the count goes down by one; while it is not zero the branch is taken, backward. -/
def execLoop (x : Fld) (s : State) : Out :=
  .next (issue { d := .g, dSrc := true, dDst := true } x s fun v s =>
    let s' := s.putG x.d.toNat (v.d - 1)
    if v.d - 1 ≠ 0 then transfer s' (s.here - x.imm.toNat) else .next s')

end Sys2Proof.Machine
end

