-- ==== Sys2Proof/Machine/Float.lean ====
section
/-! DEFINITION. Number formats and rounding (R150 to R157) and the scalar FP32 forms (R247 to R250): every operation is
computed exactly on integers and rounded once. -/

namespace Sys2Proof.Machine
open Sys2Proof

/-- What a floating code stands for: NaN, an infinity, or (−1)^neg × m × 2^e. -/
inductive FVal where
  | nan
  | inf (neg : Bool)
  | fin (neg : Bool) (m : Nat) (e : Int)
deriving DecidableEq, Repr

/-- A floating format (R150): exponent width, mantissa width, bias, and whether the top exponent codes hold infinities and
NaNs (`ieee`) or, as in E4M3, only the one NaN. -/
structure FFmt where
  ew : Nat
  mw : Nat
  bias : Nat
  ieee : Bool
deriving DecidableEq, Repr

def fp32 : FFmt := ⟨8, 23, 127, true⟩
def bf16 : FFmt := ⟨8, 7, 127, true⟩
def e4m3 : FFmt := ⟨4, 3, 7, false⟩
def e5m2 : FFmt := ⟨5, 2, 15, true⟩

/-- Bits of a format's code. -/
def FFmt.width (f : FFmt) : Nat := 1 + f.ew + f.mw

/-- What a code stands for (R150). -/
def FFmt.decode (f : FFmt) (c : Nat) : FVal :=
  let m := c % 2 ^ f.mw
  let e := c / 2 ^ f.mw % 2 ^ f.ew
  let neg := c.testBit (f.ew + f.mw)
  if f.ieee ∧ e = 2 ^ f.ew - 1 then (if m = 0 then .inf neg else .nan)
  else if !f.ieee ∧ e = 2 ^ f.ew - 1 ∧ m = 2 ^ f.mw - 1 then .nan
  else if e = 0 then .fin neg m (1 - f.bias - f.mw)
  else .fin neg (2 ^ f.mw + m) (e - f.bias - f.mw)

/-- The canonical NaN of a format (R151, R155). -/
def FFmt.nanCode (f : FFmt) : Nat :=
  if f.ieee then (2 ^ f.ew - 1) * 2 ^ f.mw + 2 ^ (f.mw - 1) else 2 ^ (f.ew + f.mw) - 1

/-- The code of an infinity; E4M3 has none and gives its largest finite value (R155). -/
def FFmt.infCode (f : FFmt) : Nat := if f.ieee then (2 ^ f.ew - 1) * 2 ^ f.mw else 2 ^ (f.ew + f.mw) - 2

/-- The sign bit of a format. -/
def FFmt.sign (f : FFmt) (neg : Bool) : Nat := if neg then 2 ^ (f.ew + f.mw) else 0

/-- The bit length of a number. -/
def bitLen (n : Nat) : Nat := if n = 0 then 0 else n.log2 + 1

/-- m × 2^(−k) rounded to the nearest integer, ties to even. -/
def shiftRne (m k : Nat) : Nat :=
  let q := m / 2 ^ k
  let r := m % 2 ^ k
  if 2 * r > 2 ^ k ∨ (2 * r = 2 ^ k ∧ q % 2 = 1) then q + 1 else q

/-- The code of (−1)^neg × m × 2^e rounded to nearest even (R151, R155); beyond the range it is the format's infinity. -/
def FFmt.round (f : FFmt) (neg : Bool) (m : Nat) (e : Int) : Nat :=
  let u : Int := max (e + bitLen m - (f.mw + 1)) (1 - f.bias - f.mw)
  let q := if u ≤ e then m * 2 ^ (e - u).toNat else shiftRne m (u - e).toNat
  let (q, u) := if q = 2 ^ (f.mw + 1) then (2 ^ f.mw, u + 1) else (q, u)
  let c := if q < 2 ^ f.mw then q else (u + f.bias + f.mw).toNat * 2 ^ f.mw + (q - 2 ^ f.mw)
  f.sign neg + if f.infCode ≤ c then f.infCode else c

/-- The code of a value. -/
def FFmt.encode (f : FFmt) : FVal → Nat
  | .nan => f.nanCode
  | .inf neg => f.sign neg + f.infCode
  | .fin neg m e => f.round neg m e

/-- A signed integer as a value. -/
def FVal.ofInt (n e : Int) (negZero : Bool) : FVal :=
  if n = 0 then .fin negZero 0 0 else .fin (decide (n < 0)) n.natAbs e

/-- The signed mantissa of a finite value at a lower exponent. -/
def scaled (neg : Bool) (m : Nat) (e lo : Int) : Int :=
  let v : Int := m * 2 ^ (e - lo).toNat
  if neg then -v else v

/-- The exact sum (R151): an exact zero is +0 unless both are −0. -/
def FVal.add : FVal → FVal → FVal
  | .nan, _ => .nan
  | _, .nan => .nan
  | .inf a, .inf b => if a = b then .inf a else .nan
  | .inf a, _ => .inf a
  | _, .inf b => .inf b
  | .fin sa ma ea, .fin sb mb eb =>
    let lo := min ea eb
    FVal.ofInt (scaled sa ma ea lo + scaled sb mb eb lo) lo (sa && sb && ma == 0 && mb == 0)

def FVal.neg : FVal → FVal
  | .nan => .nan
  | .inf a => .inf (!a)
  | .fin s m e => .fin (!s) m e

/-- The exact product. -/
def FVal.mul : FVal → FVal → FVal
  | .nan, _ => .nan
  | _, .nan => .nan
  | .inf a, .inf b => .inf (a != b)
  | .inf a, .fin b m _ => if m = 0 then .nan else .inf (a != b)
  | .fin a m _, .inf b => if m = 0 then .nan else .inf (a != b)
  | .fin a m e, .fin b n f => .fin (a != b) (m * n) (e + f)

/-- The largest root r with r² ≤ n, bit by bit. -/
def isqrtFrom (n r : Nat) : Nat → Nat
  | 0 => r
  | k + 1 => isqrtFrom n (if (r + 2 ^ k) * (r + 2 ^ k) ≤ n then r + 2 ^ k else r) k

def isqrt (n : Nat) : Nat := isqrtFrom n 0 (bitLen n / 2 + 1)

/-- A quotient to 64 bits more than its operands, its last bit set where a remainder is left: enough to round once. -/
def FVal.div : FVal → FVal → FVal
  | .nan, _ => .nan
  | _, .nan => .nan
  | .inf _, .inf _ => .nan
  | .inf a, .fin b _ _ => .inf (a != b)
  | .fin a _ _, .inf b => .fin (a != b) 0 0
  | .fin a m e, .fin b n f =>
    if n = 0 then (if m = 0 then .nan else .inf (a != b)) else
    let q := m * 2 ^ 96 / n
    .fin (a != b) (2 * q + if m * 2 ^ 96 % n = 0 then 0 else 1) (e - f - 97)

/-- A square root in the same way (R250). -/
def FVal.sqrt : FVal → FVal
  | .nan => .nan
  | .inf a => if a then .nan else .inf false
  | .fin a m e =>
    if m = 0 then .fin a 0 0 else if a then .nan else
    let k : Nat := if e % 2 = 0 then 96 else 97
    let n := m * 2 ^ k
    let r := isqrt n
    .fin false (2 * r + if r * r = n then 0 else 1) ((e - k) / 2 - 1)

/-- a < b for values that are not NaN; −0 equals +0 (R151). -/
def FVal.lt : FVal → FVal → Bool
  | .nan, _ => false
  | _, .nan => false
  | .inf a, .inf b => a && !b
  | .inf a, .fin _ _ _ => a
  | .fin _ _ _, .inf b => !b
  | .fin sa ma ea, .fin sb mb eb =>
    let lo := min ea eb
    decide (scaled sa ma ea lo < scaled sb mb eb lo)

def FVal.eq : FVal → FVal → Bool
  | .nan, _ => false
  | _, .nan => false
  | .inf a, .inf b => a == b
  | .inf _, _ => false
  | _, .inf _ => false
  | .fin sa ma ea, .fin sb mb eb =>
    let lo := min ea eb
    decide (scaled sa ma ea lo = scaled sb mb eb lo)

/-- A value is negative, −0 included. -/
def FVal.isNeg : FVal → Bool
  | .nan => false
  | .inf a => a
  | .fin a _ _ => a

/-- The lesser and the greater (R151): NaN if either is NaN; −0 orders below +0. -/
def FVal.lesser (a b : FVal) : FVal :=
  if a = .nan ∨ b = .nan then .nan
  else if a.lt b then a else if b.lt a then b else if a.isNeg then a else b
def FVal.greater (a b : FVal) : FVal :=
  if a = .nan ∨ b = .nan then .nan
  else if a.lt b then b else if b.lt a then a else if a.isNeg then b else a

/-- An operation on two codes of one format, rounded once. -/
def FFmt.op2 (f : FFmt) (g : FVal → FVal → FVal) (a b : Nat) : Nat := f.encode (g (f.decode a) (f.decode b))

/-- An operation on one code. -/
def FFmt.op1 (f : FFmt) (g : FVal → FVal) (a : Nat) : Nat := f.encode (g (f.decode a))

/-- a × b + c, rounded once (R157). -/
def FFmt.fma (f : FFmt) (a b c : Nat) : Nat :=
  f.encode (FVal.add (FVal.mul (f.decode a) (f.decode b)) (f.decode c))

/-! ## Integers and the other element formats (R152 to R156) -/

/-- A value rounded to an integer, to nearest even or toward zero; the infinities and NaN go to the bounds and 0 (R155). -/
def FVal.toInt (toZero : Bool) (lo hi : Int) : FVal → Int
  | .nan => 0
  | .inf a => if a then lo else hi
  | .fin a m e =>
    let n : Nat := if 0 ≤ e then m * 2 ^ e.toNat else if toZero then m / 2 ^ (-e).toNat else shiftRne m (-e).toNat
    max lo (min hi (if a then -(n : Int) else n))

/-- The signed integer of a code of `w` bits. -/
def signedOf (w c : Nat) : Int := if c.testBit (w - 1) then (c : Int) - 2 ^ w else c

/-- The code of `w` bits of an integer. -/
def codeOf (w : Nat) (n : Int) : Nat := (n % 2 ^ w).toNat

/-- The constant T of LNS6, times 32,768 (R153). -/
def lnsT (q : Nat) : Nat :=
  match q with
  | 0 => 32768
  | 1 => 38968
  | 2 => 46341
  | _ => 55109

/-- The machine value of an LNS6 code (R153). -/
def lnsDecode (c : Nat) : FVal :=
  let l := c % 32
  let s := c.testBit 5
  if s ∧ l = 0 then .fin false 0 0 else .fin s (lnsT (l % 4)) ((l / 4 : Nat) - 19 : Int)

/-- The distance of an LNS6 magnitude from m × 2^e, both at exponent `lo`. -/
def lnsDist (m : Nat) (e lo : Int) (l : Nat) : Nat :=
  (scaled false m e lo - scaled false (lnsT (l % 4)) ((l / 4 : Nat) - 19 : Int) lo).natAbs

/-- The best LNS6 magnitude so far, none for the zero code, with its distance; a tie between adjacent codes goes to the even
one, a tie with the zero code to zero (R156). -/
def lnsBest (m : Nat) (e lo : Int) : List Nat → Option Nat → Nat → Option Nat
  | [], b, _ => b
  | l :: t, b, d =>
    let x := lnsDist m e lo l
    if x < d ∨ (x = d ∧ b.isSome ∧ l % 2 = 0) then lnsBest m e lo t (some l) x else lnsBest m e lo t b d

/-- Conversion to LNS6 (R156). -/
def lnsEncode : FVal → Nat
  | .nan => 32
  | .inf a => (if a then 32 else 0) + 31
  | .fin a m e =>
    let lo := min e (-19)
    let cand := if a then (List.range 32).drop 1 else List.range 32
    match lnsBest m e lo cand none (scaled false m e lo).natAbs with
    | none => 32
    | some l => (if a then 32 else 0) + l

/-- The width in bits of an element of a format code (R150). -/
def fmtWidth (f : Nat) : Nat :=
  match f with
  | 2 => 4 | 5 => 6 | 6 => 16 | 7 => 32 | _ => 8

/-- The format under a block scale: codes 8, 9, 10 hold E4M3, E5M2, INT8 (R150). -/
def fmtBase (f : Nat) : Nat :=
  match f with
  | 8 => 3 | 9 => 4 | 10 => 1 | n => n

/-- The exact value of an element code (R150, R153, R155). -/
def elemDecode (f c : Nat) : FVal :=
  match fmtBase f with
  | 1 => FVal.ofInt (signedOf 8 c) 0 false
  | 2 => FVal.ofInt (signedOf 4 c) 0 false
  | 3 => e4m3.decode c
  | 4 => e5m2.decode c
  | 5 => lnsDecode c
  | 6 => bf16.decode c
  | _ => fp32.decode c

/-- The element code of a value, rounded once (R155, R156). NaN is 0x7F in E4M3 and 0x7E in E5M2. -/
def elemEncode (f : Nat) (v : FVal) : Nat :=
  match fmtBase f with
  | 1 => codeOf 8 (v.toInt false (-128) 127)
  | 2 => codeOf 4 (v.toInt false (-8) 7)
  | 3 => e4m3.encode v
  | 4 => e5m2.encode v
  | 5 => lnsEncode v
  | 6 => bf16.encode v
  | _ => fp32.encode v

/-- A BS20 scale (R154): none for a slot that is invalid, else its value, 0 for EXP = 0. -/
def bs20 (slot : Nat) : Option FVal :=
  let e := slot / 4096 % 256
  if slot / 2 ^ 20 ≠ 0 ∨ e = 255 then none
  else if e = 0 then some (.fin false 0 0)
  else some (.fin false (4096 + slot % 4096) ((e : Int) - 139))

/-! ## The functions of R268 -/

/-- 1/√x, rounded once by what follows (R268). -/
def FVal.rsqrt : FVal → FVal
  | .nan => .nan
  | .inf a => if a then .nan else .fin false 0 0
  | .fin a m e =>
    if m = 0 then .inf a else if a then .nan else
    let m' := if e % 2 = 0 then m else 2 * m
    let e' := if e % 2 = 0 then e else e - 1
    let r := isqrt (2 ^ 240 / m')
    .fin false (2 * r + if r * r * m' = 2 ^ 240 then 0 else 1) (-(e' / 2) - 121)

/-- Bits of precision of the functions below: far more than tell any value from a rounding boundary. -/
def fnBits : Nat := 480

/-- The product of 2^(2^−i) over the set bits of a fraction, the highest first; `c` is the current constant with `fnBits`
bits. -/
def exp2Bits (f : Nat) (c acc : Nat) : Nat → Nat
  | 0 => acc
  | n + 1 =>
    let c := isqrt (c * 2 ^ fnBits)
    exp2Bits f c (if f.testBit n then acc * c / 2 ^ fnBits else acc) n

/-- 2^x (R268): exact for an integer x, else a value closer to the exact one than any rounding boundary is. -/
def FVal.exp2 : FVal → FVal
  | .nan => .nan
  | .inf a => if a then .fin false 0 0 else .inf false
  | .fin a m e =>
    if 2 ^ 12 ≤ m * 2 ^ e.toNat / 2 ^ (-e).toNat then .fin false 1 (if a then -4096 else 4096) else
    let v : Int := scaled a m e (-160)
    let n := v / 2 ^ 160
    let f := (v % 2 ^ 160).toNat
    if f = 0 then .fin false 1 n else .fin false (2 * exp2Bits f (2 ^ (fnBits + 1)) (2 ^ fnBits) 160 + 1) (n - fnBits - 1)

/-- The bits of log2 y for y in [1, 2) with `fnBits` bits, the highest first, by repeated squaring. -/
def log2Bits (y acc : Nat) : Nat → Nat
  | 0 => acc
  | n + 1 =>
    let y := y * y / 2 ^ fnBits
    if 2 ^ (fnBits + 1) ≤ y then log2Bits (y / 2) (2 * acc + 1) n else log2Bits y (2 * acc) n

/-- log2 x (R268): exact for a power of two. -/
def FVal.log2 : FVal → FVal
  | .nan => .nan
  | .inf a => if a then .nan else .inf false
  | .fin a m e =>
    if m = 0 then .inf true else if a then .nan else
    let n : Int := e + m.log2
    let y := m * 2 ^ fnBits / 2 ^ m.log2
    if y = 2 ^ fnBits then FVal.ofInt n 0 false
    else FVal.ofInt (2 * (n * 2 ^ 200 + log2Bits y 0 200) + 1) (-201) false

/-! ## The scalar FP32 forms -/

/-- The FP32 source in a register (R247). -/
def fpOf (a : W64) : Nat := a.toNat % 2 ^ 32

/-- A scalar form on two sources. -/
def fpForm2 (x : Fld) (s : State) (g : FVal → FVal → FVal) : State :=
  aluForm uDAB x s fun v => BitVec.ofNat 64 (fp32.op2 g (fpOf v.a) (fpOf v.b))

def execFadd (x : Fld) (s : State) : Out := .next (fpForm2 x s FVal.add)
def execFsub (x : Fld) (s : State) : Out := .next (fpForm2 x s fun a b => a.add b.neg)
def execFmul (x : Fld) (s : State) : Out := .next (fpForm2 x s FVal.mul)
def execFma (x : Fld) (s : State) : Out :=
  .next (aluForm uDioAB x s fun v => BitVec.ofNat 64 (fp32.fma (fpOf v.a) (fpOf v.b) (fpOf v.d)))
def execFmin (x : Fld) (s : State) : Out := .next (fpForm2 x s FVal.lesser)
def execFmax (x : Fld) (s : State) : Out := .next (fpForm2 x s FVal.greater)
def execFlt (x : Fld) (s : State) : Out :=
  .next (aluForm uDAB x s fun v => boolWord ((fp32.decode (fpOf v.a)).lt (fp32.decode (fpOf v.b))))
def execFeq (x : Fld) (s : State) : Out :=
  .next (aluForm uDAB x s fun v => boolWord ((fp32.decode (fpOf v.a)).eq (fp32.decode (fpOf v.b))))

/-- FCVTF (R249): an integer, signed or not, of 64 or 32 bits, to FP32. -/
def fcvtf (w u : Bool) (a : W64) : W64 :=
  let n : Int := if w then (if u then (a.toNat % 2 ^ 32 : Nat) else signedOf 32 (a.toNat % 2 ^ 32))
    else if u then a.toNat else a.toInt
  BitVec.ofNat 64 (fp32.encode (FVal.ofInt n 0 false))

/-- FCVTI (R249): FP32 to an integer, saturating. -/
def fcvti (z w u : Bool) (a : W64) : W64 :=
  let lo : Int := if u then 0 else if w then -(2 ^ 31) else -(2 ^ 63)
  let hi : Int := if u then (if w then 2 ^ 32 - 1 else 2 ^ 64 - 1) else if w then 2 ^ 31 - 1 else 2 ^ 63 - 1
  BitVec.ofInt 64 ((fp32.decode (fpOf a)).toInt z lo hi)

def execFcvtf (x : Fld) (s : State) : Out := .next (aluForm uDA x s fun v => fcvtf (x.b.getLsbD 1) x.f v.a)
def execFcvti (x : Fld) (s : State) : Out :=
  .next (aluForm uDA x s fun v => fcvti (x.b.getLsbD 0) (x.b.getLsbD 1) x.f v.a)
def execFdiv (x : Fld) (s : State) : Out :=
  .next (longForm uDAB x s fun v => BitVec.ofNat 64 (fp32.op2 FVal.div (fpOf v.a) (fpOf v.b)))
def execFsqrt (x : Fld) (s : State) : Out :=
  .next (longForm uDA x s fun v => BitVec.ofNat 64 (fp32.op1 FVal.sqrt (fpOf v.a)))

end Sys2Proof.Machine
end

