-- ==== Sys2Proof/Machine/Flags.lean ====
section
/-! DEFINITION. Flags. The BF8 has no condition flags; its flags are sticky: the inexact and overflow flags of the term array's lanes
(R163), of two-word partials (R168), and OOBFLAG (R43, R61: guardReport in Access.lean). -/

namespace Sys2Proof.Machine
open Sys2Proof

/-- The bounds of a lane's accumulator (R163). -/
def accMax : Int := 2 ^ 95 - 1
def accMin : Int := -(2 ^ 95)

/-- x × 2^n rounded toward −∞, and whether bits were lost. -/
def scaleFloor (x n : Int) : Int × Bool :=
  if 0 ≤ n then (x * 2 ^ n.toNat, false)
  else (x / 2 ^ (-n).toNat, decide (x % 2 ^ (-n).toNat ≠ 0))

/-- What one contribution does to a lane (R163): the lane, whether it was truncated, whether the overflow flag rose. -/
def laneAdd (l : Lane) (elsb v p : Int) : Lane × Bool × Bool :=
  let c := scaleFloor v (p - elsb)
  let l := { l with inexact := l.inexact || c.2 }
  if l.overflow then (l, c.2, false)
  else
    let t := l.acc + c.1
    if accMax < t then ({ l with acc := accMax, overflow := true }, c.2, true)
    else if t < accMin then ({ l with acc := accMin, overflow := true }, c.2, true)
    else ({ l with acc := t }, c.2, false)

/-- A lane whose overflow flag is set without a contribution (R160), and whether it rose. -/
def laneSpoil (l : Lane) : Lane × Bool := ({ l with overflow := true }, !l.overflow)

/-- The signed bounds of 64 bits. -/
def fits64 (x : Int) : Bool := decide (-(2 ^ 63) ≤ x) && decide (x ≤ 2 ^ 63 - 1)

/-- The least shift that brings a number into 64 bits, from `sh` on (R168). -/
def leastShift (x : Int) (sh : Nat) : Nat → Nat
  | 0 => sh
  | n + 1 => if fits64 (x / 2 ^ sh) then sh else leastShift x (sh + 1) n

/-- The two-word partial of a lane (R168): the 16 bytes as a number. -/
def partialWords (l : Lane) (frac : Nat) (elsb : Int) : Nat :=
  let x : Int := if frac = 0 then l.acc else l.acc * (4096 + frac)
  let e0 : Int := if frac = 0 then elsb else elsb - 12
  let sh := leastShift x 0 128
  let s0 : Int := x / 2 ^ sh
  let e : Int := e0 + sh
  let inex := l.inexact || decide (x % 2 ^ sh ≠ 0)
  let r : Int × Int × Bool × Bool :=
    if 32767 < e then (if x < 0 then -(2 ^ 63) else if x = 0 then 0 else 2 ^ 63 - 1, 32767, inex, true)
    else if e < -32768 then
      (s0 / 2 ^ (-32768 - e).toNat, -32768, inex || decide (s0 % 2 ^ (-32768 - e).toNat ≠ 0), l.overflow)
    else (s0, e, inex, l.overflow)
  codeOf 64 r.1 + 2 ^ 64 * (codeOf 16 r.2.1 + (if r.2.2.1 then 2 ^ 16 else 0) + if r.2.2.2 then 2 ^ 17 else 0)

end Sys2Proof.Machine
end

