-- ==== Sys2Proof/Machine/Vector.lean ====
section
/-! DEFINITION. Instructions on vector and mask registers (R257 to R270, R276), but for the gathers, scatters and the
decoding load, which are accesses (LoadStore.lean). -/

namespace Sys2Proof.Machine
open Sys2Proof

/-- Lane `i` of `w` bits of a vector register (R25). -/
def lane (w i : Nat) (v : V512) : Nat := v.toNat / 2 ^ (w * i) % 2 ^ w

/-- The number made of `n` lanes of `w` bits, lane 0 lowest. -/
def lanesNat (w : Nat) (f : Nat → Nat) : Nat → Nat
  | 0 => 0
  | n + 1 => lanesNat w f n + f n % 2 ^ w * 2 ^ (w * n)

/-- A vector register of `n` lanes of `w` bits. -/
def mkV (w n : Nat) (f : Nat → Nat) : V512 := BitVec.ofNat 512 (lanesNat w f n)

/-- Lane width and count of a view (R257). -/
def viewW (h : Bool) : Nat := if h then 16 else 32
def viewN (h : Bool) : Nat := if h then 32 else 16

/-- The floating format of a view's lanes. -/
def viewF (h : Bool) : FFmt := if h then bf16 else fp32

/-- The lanes of a result where the mask enables them, the old lanes elsewhere (R259). -/
def maskV (h : Bool) (m : BitVec 32) (old : V512) (f : Nat → Nat) : V512 :=
  mkV (viewW h) (viewN h) fun i => if m.getLsbD i then f i else lane (viewW h) i old

/-- d out, a and b in, in file V. -/
def uVVV : Uses := { d := .v, dDst := true, a := .v, b := .v, lanes := true }
def uVioVV : Uses := { d := .v, dSrc := true, dDst := true, a := .v, b := .v, lanes := true }
def uVV : Uses := { d := .v, dDst := true, a := .v, lanes := true }
def uKVV : Uses := { d := .k, dDst := true, a := .v, b := .v, lanes := true }
def uGV : Uses := { d := .g, dDst := true, a := .v, lanes := true }
def uGVx : Uses := { d := .g, dDst := true, a := .v }
def uVG : Uses := { d := .v, dDst := true, a := .g, lanes := true }
def uVioG : Uses := { d := .v, dSrc := true, dDst := true, a := .g, lanes := true }
def uVVG : Uses := { d := .v, dDst := true, a := .v, b := .g, lanes := true }
def uKKK : Uses := { d := .k, dDst := true, a := .k, b := .k }
def uKK : Uses := { d := .k, dDst := true, a := .k }
def uGK : Uses := { d := .g, dDst := true, a := .k }
def uKG : Uses := { d := .k, dDst := true, a := .g }

/-- A lane form on two vectors: `f` takes the lane width and the two lanes. -/
def laneForm (u : Uses) (x : Fld) (s : State) (f : Vals → Nat → Nat) : State :=
  issue u x s fun v s => .next (s.putV x.d.toNat (maskV x.f v.lanes v.vd (f v)))

/-- Integer lanes (R260). -/
def intLane (x : Fld) (s : State) (f : Nat → Nat → Nat → Nat) : State :=
  laneForm uVVV x s fun v i => f (viewW x.f) (lane (viewW x.f) i v.va) (lane (viewW x.f) i v.vb)

def execVadd (x : Fld) (s : State) : Out := .next (intLane x s fun _ a b => a + b)
def execVsub (x : Fld) (s : State) : Out := .next (intLane x s fun w a b => a + (2 ^ w - b))
def execVmul (x : Fld) (s : State) : Out := .next (intLane x s fun _ a b => a * b)
def execVmin (x : Fld) (s : State) : Out := .next (intLane x s fun w a b => if signedOf w b < signedOf w a then b else a)
def execVmax (x : Fld) (s : State) : Out := .next (intLane x s fun w a b => if signedOf w a < signedOf w b then b else a)
def execVand (x : Fld) (s : State) : Out := .next (intLane x s fun _ a b => a &&& b)
def execVor (x : Fld) (s : State) : Out := .next (intLane x s fun _ a b => a ||| b)
def execVxor (x : Fld) (s : State) : Out := .next (intLane x s fun _ a b => a ^^^ b)
def execVshl (x : Fld) (s : State) : Out := .next (intLane x s fun w a b => a * 2 ^ (b % w))
def execVshr (x : Fld) (s : State) : Out := .next (intLane x s fun w a b => a / 2 ^ (b % w))

/-- Floating lanes (R261). -/
def fpLane (x : Fld) (s : State) (g : FVal → FVal → FVal) : State :=
  laneForm uVVV x s fun v i => (viewF x.f).op2 g (lane (viewW x.f) i v.va) (lane (viewW x.f) i v.vb)

def execVfadd (x : Fld) (s : State) : Out := .next (fpLane x s FVal.add)
def execVfsub (x : Fld) (s : State) : Out := .next (fpLane x s fun a b => a.add b.neg)
def execVfmul (x : Fld) (s : State) : Out := .next (fpLane x s FVal.mul)
def execVfma (x : Fld) (s : State) : Out :=
  .next (laneForm uVioVV x s fun v i =>
    (viewF x.f).fma (lane (viewW x.f) i v.va) (lane (viewW x.f) i v.vb) (lane (viewW x.f) i v.vd))
def execVfmin (x : Fld) (s : State) : Out := .next (fpLane x s FVal.lesser)
def execVfmax (x : Fld) (s : State) : Out := .next (fpLane x s FVal.greater)

/-- Compares (R262): a mask bit for each enabled lane; view 0 clears bits 31 to 16. -/
def cmpForm (x : Fld) (s : State) (r : Nat → Nat → Bool) : State :=
  issue uKVV x s fun v s =>
    let old := (s.slot s.cur).getK x.d.toNat
    let bit (i : Nat) : Nat :=
      if v.lanes.getLsbD i then (if r (lane (viewW x.f) i v.va) (lane (viewW x.f) i v.vb) then 1 else 0)
      else if old.getLsbD i then 1 else 0
    .next (s.putK x.d.toNat (BitVec.ofNat 32 (lanesNat 1 bit (viewN x.f))))

def execVfclt (x : Fld) (s : State) : Out :=
  .next (cmpForm x s fun a b => ((viewF x.f).decode a).lt ((viewF x.f).decode b))
def execVfcle (x : Fld) (s : State) : Out :=
  .next (cmpForm x s fun a b =>
    let p := (viewF x.f).decode a
    let q := (viewF x.f).decode b
    p.lt q || p.eq q)
def execVfceq (x : Fld) (s : State) : Out :=
  .next (cmpForm x s fun a b => ((viewF x.f).decode a).eq ((viewF x.f).decode b))
def execViclt (x : Fld) (s : State) : Out :=
  .next (cmpForm x s fun a b => decide (signedOf (viewW x.f) a < signedOf (viewW x.f) b))
def execViceq (x : Fld) (s : State) : Out := .next (cmpForm x s fun a b => a == b)

/-- VSEL (R263): every lane is written, from a where the mask has a 1, else from b. -/
def execVsel (x : Fld) (s : State) : Out :=
  .next (issue uVVV x s fun v s =>
    .next (s.putV x.d.toNat (mkV (viewW x.f) (viewN x.f) fun i =>
      lane (viewW x.f) i (if v.lanes.getLsbD i then v.va else v.vb))))

def execVbcast (x : Fld) (s : State) : Out := .next (laneForm uVG x s fun v _ => v.a.toNat)

/-- View and lane of a VEXT or VINS immediate (R229, R264). -/
def immView (imm : W64) : Bool := imm.getLsbD 5
def immLane (imm : W64) : Nat := bits imm 4 0

def execVext (x : Fld) (s : State) : Out :=
  .next (aluForm uGVx x s fun v => BitVec.ofNat 64 (lane (viewW (immView x.imm)) (immLane x.imm) v.va))

/-- VINS (R264): one lane; under XK only where its mask bit is 1 (R259). -/
def execVins (x : Fld) (s : State) : Out :=
  .next (issue uVioG x s fun v s =>
    let h := immView x.imm
    .next (s.putV x.d.toNat (mkV (viewW h) (viewN h) fun i =>
      if i = immLane x.imm ∧ v.lanes.getLsbD i then v.a.toNat else lane (viewW h) i v.vd)))

def execVperm (x : Fld) (s : State) : Out :=
  .next (laneForm uVVV x s fun v i =>
    let j := lane (viewW x.f) i v.vb
    if j < viewN x.f then lane (viewW x.f) j v.va else 0)

/-- Adjacent pairs added, rounding each sum (R157). -/
def pairSums (f : FFmt) : List Nat → List Nat
  | a :: b :: t => f.op2 FVal.add a b :: pairSums f t
  | l => l

/-- The pairwise tree of R157 in `n` levels. -/
def treeSum (f : FFmt) (l : List Nat) : Nat → List Nat
  | 0 => l
  | n + 1 => treeSum f (pairSums f l) n

/-- VRSUM (R266): a masked-off lane enters as −0. -/
def vrsum (h : Bool) (m : BitVec 32) (v : V512) : Nat :=
  let f := viewF h
  let l := (List.range (viewN h)).map fun i => if m.getLsbD i then lane (viewW h) i v else f.sign true
  (treeSum f l (if h then 5 else 4)).headD 0

def execVrsum (x : Fld) (s : State) : Out :=
  .next (aluForm uGV x s fun v => BitVec.ofNat 64 (vrsum x.f v.lanes v.va))

/-- VAMAX (R267): the greatest magnitude of the enabled lanes; NaN if one is NaN. -/
def vamax (h : Bool) (m : BitVec 32) (v : V512) : Nat :=
  let f := viewF h
  let l := ((List.range (viewN h)).filter (fun i => m.getLsbD i)).map fun i => lane (viewW h) i v % 2 ^ (viewW h - 1)
  if l.any (fun c => f.infCode < c) then f.nanCode else l.foldl Nat.max 0

def execVamax (x : Fld) (s : State) : Out :=
  .next (aluForm uGV x s fun v => BitVec.ofNat 64 (vamax x.f v.lanes v.va))

/-- The function forms (R268): long-latency producers; a masked-off lane keeps its old value. -/
def fnForm (x : Fld) (s : State) (g : FVal → FVal) : State :=
  issue uVV x s fun v s =>
    .next (startFill s [vCode x.d.toNat]
      (maskV x.f v.lanes v.vd fun i => (viewF x.f).op1 g (lane (viewW x.f) i v.va)))

def execVfexp2 (x : Fld) (s : State) : Out := .next (fnForm x s FVal.exp2)
def execVflog2 (x : Fld) (s : State) : Out := .next (fnForm x s FVal.log2)
def execVfrcp (x : Fld) (s : State) : Out := .next (fnForm x s fun a => (FVal.fin false 1 0).div a)
def execVfrsq (x : Fld) (s : State) : Out := .next (fnForm x s FVal.rsqrt)

/-- A value times a power of two. -/
def FVal.scale (n : Int) : FVal → FVal
  | .fin a m e => .fin a m (e + n)
  | v => v

def execVscale (x : Fld) (s : State) : Out :=
  .next (laneForm uVVG x s fun v i =>
    (viewF x.f).op1 (FVal.scale (max (-512) (min 511 v.b.toInt))) (lane (viewW x.f) i v.va))

/-- Where the elements of a conversion lie (R270): source width and result width in bits. -/
def cvtWidths (code : Nat) : Nat × Nat :=
  match code with
  | 0 => (32, 16) | 1 => (16, 32) | 2 | 3 | 6 => (32, 8) | 4 | 5 | 7 => (8, 32)
  | 8 => (32, 4) | 9 => (4, 32) | 10 => (32, 6) | 11 => (6, 32) | _ => (32, 32)

/-- One element of a conversion (R155, R229). -/
def cvtElem (code c : Nat) : Nat :=
  match code with
  | 0 => bf16.encode (fp32.decode c)
  | 1 => fp32.encode (bf16.decode c)
  | 2 => elemEncode 3 (fp32.decode c)
  | 3 => elemEncode 4 (fp32.decode c)
  | 4 => fp32.encode (elemDecode 3 c)
  | 5 => fp32.encode (elemDecode 4 c)
  | 6 => elemEncode 1 (fp32.decode c)
  | 7 => fp32.encode (elemDecode 1 c)
  | 8 => elemEncode 2 (fp32.decode c)
  | 9 => fp32.encode (elemDecode 2 c)
  | 10 => elemEncode 5 (fp32.decode c)
  | 11 => fp32.encode (elemDecode 5 c)
  | 12 => codeOf 32 ((fp32.decode c).toInt false (-(2 ^ 31)) (2 ^ 31 - 1))
  | _ => fp32.encode (FVal.ofInt (signedOf 32 c) 0 false)

/-- VCVT (R270): sixteen elements; a masked-off one keeps its old bits, what lies above the results is zero. -/
def execVcvt (x : Fld) (s : State) : Out :=
  .next (issue uVV x s fun v s =>
    let code := x.imm.toNat
    let w := cvtWidths code
    .next (s.putV x.d.toNat (mkV w.2 16 fun i =>
      if v.lanes.getLsbD i then cvtElem code (lane w.1 i v.va) else lane w.2 i v.vd)))

/-! ## Mask forms (R276) -/

def kForm (u : Uses) (x : Fld) (s : State) (f : Vals → K32) : State :=
  issue u x s fun v s => .next (s.putK x.d.toNat (f v))

def execKand (x : Fld) (s : State) : Out := .next (kForm uKKK x s fun v => v.ka &&& v.kb)
def execKor (x : Fld) (s : State) : Out := .next (kForm uKKK x s fun v => v.ka ||| v.kb)
def execKxor (x : Fld) (s : State) : Out := .next (kForm uKKK x s fun v => v.ka ^^^ v.kb)
def execKnot (x : Fld) (s : State) : Out := .next (kForm uKK x s fun v => ~~~v.ka)
def execKtog (x : Fld) (s : State) : Out := .next (aluForm uGK x s fun v => v.ka.setWidth 64)
def execGtok (x : Fld) (s : State) : Out := .next (kForm uKG x s fun v => v.a.setWidth 32)

end Sys2Proof.Machine
end

