-- ==== Sys2Proof/Machine/Access.lean ====
section
/-! DEFINITION. Accesses: the pieces of an access (R53, R271, R283), what its home does with one (R58, R61, R193, R274), and
how the answers come back to the slot (R27, R185, R279). -/

namespace Sys2Proof.Machine
open Sys2Proof

/-- One piece of an access: its address, its length in bytes and its place in the data. -/
structure Piece where
  ea : W64
  len : Nat
  pos : Nat
deriving DecidableEq, Repr

/-- A lane's signed 32-bit offset (R271). -/
def laneOff (v : V512) (i : Nat) : W64 := BitVec.ofInt 64 (signedOf 32 (lane 32 i v))

/-- The pieces of an access, lowest lane first: one for a scalar form, the enabled words of a vector access in mode .I, one
of 64 bytes in the other modes, the enabled lanes of a gather or scatter. -/
def accPieces (a : Access) : List Piece :=
  match a.op with
  | .ld n _ => [{ ea := a.ea, len := n, pos := 0 }]
  | .st n => [{ ea := a.ea, len := n, pos := 0 }]
  | .vld | .vst =>
    if a.lanes.toNat % 65536 = 0 then [] else
    if a.mode = 2 then
      ((List.range 8).filter fun j => a.lanes.getLsbD (2 * j) || a.lanes.getLsbD (2 * j + 1)).map fun j =>
        ({ ea := a.ea + BitVec.ofNat 64 (8 * j), len := 8, pos := 8 * j } : Piece)
    else [{ ea := a.ea, len := 64, pos := 0 }]
  | .gath | .scat =>
    ((List.range 16).filter fun i => a.lanes.getLsbD i).map fun i =>
      ({ ea := a.ea + laneOff a.offs i, len := 4, pos := 4 * i } : Piece)
  | .vldf _ => if a.lanes.toNat % 65536 = 0 then [] else [{ ea := a.ea, len := 1, pos := 0 }]
  | .atom _ | .cas | .acq | .rel => [{ ea := a.ea, len := 8, pos := 0 }]
  | .swadd => [{ ea := a.ea, len := 16, pos := 0 }]
  | .dcdec | .tqry => []

/-- Whether the home must allow a read and a write (R58, R63). -/
def opReads : AccOp → Bool
  | .st _ | .vst | .scat | .rel | .swadd | .dcdec => false
  | _ => true
def opWrites : AccOp → Bool
  | .st _ | .vst | .scat | .rel | .atom _ | .cas | .swadd => true
  | _ => false

/-- Whether the answer is a value (R279). -/
def opFills : AccOp → Bool
  | .st _ | .vst | .scat | .rel | .swadd | .dcdec => false
  | _ => true

/-- The vector accesses of R173. -/
def opVector : AccOp → Bool
  | .vld | .vst | .vldf _ | .gath | .scat => true
  | _ => false

/-- The new value of an atomic (R284). -/
def atomApply (o : AtomOp) (old b : W64) : W64 :=
  match o with
  | .add => old + b
  | .smin => if b.slt old then b else old
  | .smax => if old.slt b then b else old
  | .umin => if b.ult old then b else old
  | .umax => if old.ult b then b else old
  | .and => old &&& b
  | .or => old ||| b
  | .xor => old ^^^ b
  | .swp => b

/-- Bytes `pos` to `pos + len - 1` of a vector, as a number. -/
def vecBytes (v : V512) (pos len : Nat) : Nat := v.toNat / 2 ^ (8 * pos) % 2 ^ (8 * len)

/-- The bytes a piece writes at its home (R193, R280, R284, R285), given the bytes there: place in the piece, length, value. -/
def pieceWrites (a : Access) (p : Piece) (old : Nat) : List (Nat × Nat × Nat) :=
  match a.op with
  | .st n => [(0, n, a.d0.toNat % 2 ^ (8 * n))]
  | .rel => [(0, 8, a.d0.toNat)]
  | .vst => ((List.range (p.len / 4)).filter fun j => a.lanes.getLsbD (p.pos / 4 + j)).map fun j =>
      (4 * j, 4, vecBytes a.vec (p.pos + 4 * j) 4)
  | .scat => [(0, 4, vecBytes a.vec p.pos 4)]
  | .atom o => [(0, 8, (atomApply o (BitVec.ofNat 64 old) a.d0).toNat)]
  | .cas => if old = a.d1.toNat then [(0, 8, a.d0.toNat)] else []
  | _ => []

/-- The bytes a load of a slot gets on path C where memory holds `old` (R20, R206, R322); an atomic and an ACQ act on memory itself, and so
does a region's member on its write set. -/
def pathC (s : State) (a : Access) (loc len old : Nat) : State × Nat :=
  if opWrites a.op || a.op == .acq || a.region.isSome then (s.saw 0 loc len, old)
  else s.look 0 { slot := a.slot, gen := a.gen, tag := a.tag, heard := a.heard } loc len

/-- What the home does at a location (R193): the bytes it answers, as a number. -/
def homeApply (s : State) (a : Access) (p : Piece) (loc : Nat) : State × Nat :=
  let old := s.read loc p.len
  let r := if opFills a.op then pathC s a loc p.len old else (s, 0)
  (writeAll r.1 loc (pieceWrites a p old), r.2)

/-! ## The decoding load (R67, R68, R274, R275) -/

/-- Bytes a VLDF reads in a format, and its alignment; none for raw and reserved codes. -/
def vldfShape (fmt : Nat) : Option (Nat × Nat) :=
  match fmt with
  | 1 | 3 | 4 | 8 | 9 | 10 => some (16, 16)
  | 2 => some (8, 8)
  | 5 => some (12, 4)
  | 6 => some (32, 32)
  | 7 => some (64, 64)
  | _ => none

/-- A format code carries block scales (R150). -/
def fmtScaled (fmt : Nat) : Bool := decide (8 ≤ fmt) && decide (fmt ≤ 10)

/-- The elements of a block (R45, R63). -/
def blkLen (blk : Nat) : Nat := if blk = 0 then 0 else 8 * 2 ^ blk

/-- A block code that every decoding access refuses (R63): a reserved one, or none under a block-scaled format. -/
def blkBad (fmt blk : Nat) : Bool := decide (4 < blk) || fmtScaled fmt && blk == 0

/-- Whether format and block codes allow a decoding access (R63, R160). -/
def fmtOk (fmt blk : Nat) : Bool := (vldfShape fmt).isSome && !blkBad fmt blk

/-- Whether an address keeps the alignment rule of its format (R274). -/
def vldfAligned (fmt off : Nat) : Bool :=
  match vldfShape fmt with
  | none => false
  | some (n, al) => off % al == 0 && decide (off % 64 + n ≤ 64)

/-- The sixteen FP32 lanes of the bytes read (R274): each element times the scale, rounded once. -/
def vldfDecode (fmt bytes : Nat) (scale : Option FVal) : V512 :=
  let w := fmtWidth fmt
  mkV 32 16 fun i =>
    let c := bytes / 2 ^ (w * i) % 2 ^ w
    if fmt = 7 then c else
    match scale with
    | none => fp32.encode (elemDecode fmt c)
    | some (.fin _ 0 _) => 0
    | some sc => fp32.encode ((elemDecode fmt c).mul sc)

/-- The address of the scale slot of a second-tier address (R68); within scratchpad space slot addresses wrap in the scratchpad. -/
def scaleAddr (base : W64) (va blk : Nat) : W64 :=
  let n := va / blkLen blk * 4
  if base.getLsbD 56 then base + BitVec.ofNat 64 n
  else BitVec.ofNat 64 (base.toNat / 2 ^ 19 * 2 ^ 19 + (base.toNat + n) % 2 ^ 19)

/-- The scratchpad offset of the scale slot of an offset in a region whose word and SCALEBASE are given (R60, R68). -/
def slotOffset68 (w sb : W64) (off : Nat) : Nat := (bits sb 18 2 * 4 + off / blkLen (bits w 13 11) * 4) % 2 ^ 19

/-- The line of the scale slot that a decoding load reads beside its data (R68, R275), as regions and tables stand. -/
def scaleLine (s : State) (a : Access) : Option Nat :=
  match a.op, s.target (slotCore a.slot) a.part a.mode a.ea with
  | .vldf _, some (.scratch core off) =>
    match matchRegion (s.core core) (off / 64) (off / 64) with
    | some n =>
      let w := Sp.get 0 (s.core core).prot (n * 4 + 2)
      if fmtScaled (bits w 10 7) then
        some (Target.scratch core (slotOffset68 w (Sp.get 0 (s.core core).prot (n * 4 + 3)) off)).line else none
    | none => none
  | .vldf _, some (.second dev va) =>
    match s.walk dev (s.partAt a.part dev) va with
    | some (e, _) =>
      if fmtScaled (bits e 7 4) then (s.globalTarget a.part (scaleAddr (s.part a.part).scalebase va (bits e 10 8))).map Target.line else none
    | none => none
  | _, _ => none

/-! ## The issuer's guard report (R43, R61) -/

/-- A guard hit of an access, reported to its unit: pending until its next BAR, or OOBFLAG and OOBADDR under FALLBACK. -/
def guardReport (s : State) (a : Access) (ea : W64) : State :=
  let t := s.slot a.slot
  if t.st = .idle ∨ t.gen ≠ a.gen then s else
  s.setSlot a.slot (t.guardHit a.fall ea)

/-- The accessor of an access (R58). -/
def accAccessor (a : Access) (core : Nat) : Accessor :=
  { slot := a.slot, gen := a.gen, part := a.part, level := a.level, own := slotCore a.slot == core }

/-- An answer's bytes at their place. -/
def pieceValue (p : Piece) (n : Nat) : Reply := .value (BitVec.ofNat 512 (n % 2 ^ (8 * p.len) * 2 ^ (8 * p.pos)))

/-- VLDF at a scratchpad (R60, R68, R274): format, block and scale come from the region that decides. -/
def scratchVldf (s : State) (a : Access) (core off : Nat) : State × Reply :=
  let c := s.core core
  let acc := { accAccessor a core with part := s.partAt a.part (clusterDev (coreCluster core)) }
  match matchRegion c (off / 64) (off / 64) with
  | none => (s, .refused causeFormat a.ea)
  | some n =>
    let w := Sp.get 0 c.prot (n * 4 + 2)
    let fmt := bits w 10 7
    if !fmtOk fmt (bits w 13 11) then (s, .refused causeFormat a.ea)
    else if !vldfAligned fmt off then (s, .refused causeAlign a.ea)
    else if s.guarded core off then (guardReport s a a.ea, .value 0)
    else
      let n := ((vldfShape fmt).getD (0, 0)).1
      let r := pathC s a (scratchLoc core off) n (s.read (scratchLoc core off) n)
      let s := r.1
      let bytes := r.2
      if !fmtScaled fmt then (s, .value (vldfDecode fmt bytes none)) else
      let so := slotOffset68 w (Sp.get 0 c.prot (n * 4 + 3)) off
      if !s.protAllows core so 4 acc false then (s, .refused causeProt (BitVec.ofNat 64 so))
      else if s.guarded core so then (guardReport s a (BitVec.ofNat 64 so), .value 0)
      else
        let q := pathC s a (scratchLoc core so) 4 (s.read (scratchLoc core so) 4)
        match bs20 q.2 with
        | none => (q.1, .refused causeFormat a.ea)
        | some sc => (q.1, .value (vldfDecode fmt bytes (some sc)))

/-- A piece at a scratchpad once the segment table has let it pass (R58, R59, R61). -/
def scratchPiece (s : State) (a : Access) (p : Piece) (core off : Nat) : State × Reply :=
  let acc := { accAccessor a core with part := s.partAt a.part (clusterDev (coreCluster core)) }
  let len := if opVector a.op && p.len = 1 then 1 else p.len
  if (opReads a.op && !s.protAllows core off len acc false) || (opWrites a.op && !s.protAllows core off len acc true) then
    (s, .refused causeProt p.ea)
  else
    match a.op with
    | .vldf _ => scratchVldf s a core off
    | _ =>
      if s.guarded core off then (guardReport s a p.ea, .value 0)
      else
        let r := homeApply s a p (scratchLoc core off)
        (r.1, pieceValue p r.2)

/-- A piece at an instruction store: loads and stores only (R57). -/
def istorePiece (s : State) (a : Access) (p : Piece) (core off : Nat) : State × Reply :=
  let r := homeApply s a p (istoreLoc core off)
  (r.1, pieceValue p r.2)

/-! ## Answers on their way back -/

/-- The NI of a piece's home (R141). -/
def homeNi (s : State) (a : Access) (p : Piece) : Nat :=
  match s.target (slotCore a.slot) a.part a.mode p.ea with
  | some (.scratch core _) => core
  | some (.istore core _) => core
  | some (.second dev va) => sliceNi (pageSlice dev va)
  | none => slotCore a.slot

/-- The answer of a whole access, posted from an NI to its slot (R27, R72, R141, R185, R279). -/
def postReply (s : State) (ni : Nat) (a : Access) (r : Reply) : State :=
  s.sendTag ni a.part a.tag { ins := match r with
    | .value v => if opFills a.op then .fill a.slot a.gen a.tag v else .accessAcknowledge a.slot a.gen a.tag
    | .refused c addr => .refusalArrival a.slot a.gen a.tag c addr
    | .fault page => .faultReply a.slot a.gen a.tag page }

/-- The fault of the lowest piece that met one. -/
def lowestFault (m : Assembly) : Option (Nat × Nat × W64) :=
  m.faults.foldl (fun (b : Option (Nat × Nat × W64)) q => match b with
    | some x => if q.1 < x.1 then some q else b
    | none => some q) none

/-- One piece's answer: the access is answered when its last piece is (R272, R273, R283); of several refusals the lowest
piece's counts. -/
def answerPiece (s : State) (a : Access) (i : Nat) (r : Reply) : State :=
  let n := (accPieces a).length
  let ni := homeNi s a ((accPieces a).getD i { ea := a.ea, len := 1, pos := 0 })
  if n ≤ 1 then postReply s ni a r else
  let m : Assembly := Sp.get { left := n, data := 0, refused := none, faults := [], failed := 0 } s.assembly a.tag
  let m : Assembly := { m with left := m.left - 1 }
  let p := (accPieces a).getD i { ea := 0, len := 0, pos := 0 }
  let ln := p.pos / 4
  let m : Assembly := match r with
    | .value v => { m with data := m.data ||| v }
    | .refused c addr =>
      { m with refused := match m.refused with
          | some (j, x) => if j < i then some (j, x) else some (i, c, addr)
          | none => some (i, c, addr) }
    | .fault page =>
      { m with faults := m.faults ++ [(i, page, p.ea)], failed := m.failed ||| (((1 <<< ln) ||| (if a.op = .vld ∨ a.op = .vst then 2 <<< ln else 0)) &&& a.lanes) }
  let s := { s with assembly := Sp.put s.assembly a.tag m }
  if m.left ≠ 0 then s else
  match m.refused with
  | some (_, c, addr) => postReply { s with assembly := Sp.erase s.assembly a.tag } ni a (.refused c addr)
  | none =>
    match lowestFault m with
    | some q => postReply s ni a (.fault q.2.1)
    | none => postReply { s with assembly := Sp.erase s.assembly a.tag } ni a (.value m.data)

/-- The home operation of a piece: at a core or at a slice (R50). -/
def homeOp (s : State) (a : Access) (i : Nat) (p : Piece) : Op :=
  match s.target (slotCore a.slot) a.part a.mode p.ea with
  | some (.second _ _) => { ins := .sliceAccess a i }
  | _ => { ins := .scratchpadAccess a i }

/-- The home operations of an access, one a piece. -/
def sendPieces (s : State) (a : Access) : State :=
  let ops := ((accPieces a).zipIdx).map fun q => homeOp s a q.2 q.1
  ops.foldl (fun s o => s.send (slotCore a.slot) a.part (a.tag % 2 == 1) o) s

/-- A value as the destination takes it (R281): loads extend it. -/
def extendLoad (op : AccOp) (v : V512) : V512 :=
  match op with
  | .ld n sgn =>
    let raw := v.toNat % 2 ^ (8 * n)
    if sgn then (BitVec.ofInt 64 (signedOf (8 * n) raw)).setWidth 512 else BitVec.ofNat 512 raw
  | _ => v

/-- The line a piece of an access lies in. -/
def pieceLine (s : State) (a : Access) (p : Piece) : Nat := ((s.target (slotCore a.slot) a.part a.mode p.ea).map Target.line).getD 0

/-- A lower lane of the same gather or scatter to the line of piece `i` has met a fault, on this page: the lanes are performed in order, at the
replay (R272). -/
def lowerFault (s : State) (a : Access) (i : Nat) (p : Piece) : Option Nat :=
  if a.op ≠ .gath ∧ a.op ≠ .scat then none else
  match Sp.find s.assembly a.tag with
  | none => none
  | some m => (m.faults.find? fun q => decide (q.1 < i) && ((accPieces a)[q.1]?).any fun r => pieceLine s a r == pieceLine s a p).map fun q => q.2.1

/-- An access that the core has held back behind an earlier one of its slot to a line (R192), where that one has met a fault, or is a
release that is not sent because issue has stopped (R72), or behind a lower lane of its own that has: it is recorded with it, under this
page. -/
def heldFault (s : State) (a : Access) (i : Nat) (p : Piece) : Option Nat :=
  let t := s.slot a.slot
  let line := pieceLine s a p
  let first (o : Outst) : Bool := decide (o.tag < a.tag) && o.lines.contains line
  let page (o : Outst) : Option Nat := match o.reply with
    | some (.fault q) => some q
    | _ => none
  match lowerFault s a i p with
  | some q => some q
  | none =>
  if t.st = .idle ∨ t.gen ≠ a.gen then none else
  match (t.outst.filter first).findSome? page with
  | some q => some q
  | none => if t.stopped && t.outst.any (fun o : Outst => first o && o.held) then t.outst.findSome? page else none

/-- The lines an access touches (R192): those of its pieces, and of a decoding load's scale slot. -/
def accessLines (s : State) (a : Access) : List Nat :=
  ((accPieces a).filterMap fun p => (s.target (slotCore a.slot) a.part a.mode p.ea).map Target.line) ++ (scaleLine s a).toList

/-- An earlier access of the same slot to a line is outstanding (R192, R203, R279): one of its unit, or a write that an earlier unit has left
when it was killed. -/
def lineHeld (s : State) (slot : Nat) (gen : BitVec 32) (tag key : Nat) : Bool :=
  let t := s.slot slot
  let blocks (o : Outst) : Bool :=
    decide (o.tag < tag) && o.lines.contains key && o.reply.isNone && !(o.held && t.stopped)
  (t.st != .idle && t.gen == gen && t.outst.any blocks) ||
    s.orphans.any fun o : Orphan => o.slot == slot && decide (o.entry.tag < tag) && o.entry.lines.contains key

end Sys2Proof.Machine
end

