-- ==== Sys2Proof/Machine/LoadStore.lean ====
section
/-! DEFINITION. Instructions on memory: loads, stores, vector accesses, gathers, scatters, the decoding load, atomics, CAS
(R271 to R275, R278 to R287), and the arrival of an access at a core. -/

namespace Sys2Proof.Machine
open Sys2Proof

/-- The level of the unit that issues, its partition, and what else an access takes with it at issue. The mask is part of a vector access
only: another form executes or does not (R226, R280). -/
def newAccess (s : State) (x : Fld) (op : AccOp) (mode : BitVec 2) (ea : W64) (dest opc : Nat) (v : Vals) : Access :=
  let t := s.slot s.cur
  { op := op, slot := s.cur, gen := t.gen, tag := s.netTag t.phase, pc := t.pc, part := s.partOf (slotCluster s.cur),
    level := t.level, mode := mode, ea := ea, dest := dest, d0 := v.b, d1 := v.d, vec := v.vd, offs := v.vb,
    lanes := v.lanes, masked := x.xk.isSome && opVector op, fall := t.guardmode.getLsbD 0, nb := t.waitMode == 2, opc := opc,
    region := t.region, heard := s.heardBy s.cur }

/-- The address check of one piece (R53 to R57): ADDR where it names nothing; an instruction store only where `ist`. -/
def pieceOk (s : State) (a : Access) (ist : Bool) (p : Piece) : Bool :=
  match s.target (slotCore a.slot) a.part a.mode p.ea with
  | none => false
  | some (.istore _ _) => ist
  | some _ => true

/-- The first piece whose address is refused (R271, R278). -/
def badPiece (s : State) (a : Access) (ist : Bool) : Option Piece := (accPieces a).find? fun p => !pieceOk s a ist p

/-- The instruction-store lines an access stores to, as core * 512 + line (R197). -/
def istoreLines (s : State) (a : Access) : List Nat :=
  if !opWrites a.op then [] else
  (accPieces a).filterMap fun p =>
    match s.target (slotCore a.slot) a.part a.mode p.ea with
    | some (.istore core off) => some (core * 512 + off / 64)
    | _ => none

/-- An access leaves the core: it takes an entry, its destination becomes EMPTY, and its pieces go to their homes (R279). -/
def sendAccess (s : State) (a : Access) (dests : List Nat) (held : Bool) (len : Nat) : State :=
  let t := s.slot s.cur
  let o : Outst := { tag := a.tag, pc := a.pc, access := true, vector := opVector a.op, dests := dests, lines := accessLines s a,
                     write := opWrites a.op, acc := some a, held := held, reply := none, len := len,
                     soft := a.op == .acq }
  let s := s.tick.setSlot s.cur { t.markEmpty dests with outst := t.outst ++ [o], ist := istoreLines s a ++ t.ist }
  if held then s.post (.releaseSend a.slot a.gen a.tag) else sendPieces s a

/-- A destination written by a local access within the rotation (R279): through the mask for a vector (R280). -/
def writeDest (s : State) (a : Access) (v : V512) : State :=
  if a.dest < 32 then s.putG a.dest ((extendLoad a.op v).setWidth 64)
  else s.putV (a.dest - 32) (maskV false a.lanes ((s.slot s.cur).getV (a.dest - 32)) fun i => lane 32 i v)

/-- An access in mode .L (R279): it waits for the slot's accesses to its line, then is performed at once; a refusal traps
precisely. -/
def localAccess (s : State) (a : Access) : Eff :=
  match accPieces a with
  | [] => .next s
  | p :: _ =>
    match s.target (slotCore a.slot) a.part a.mode p.ea with
    | some (.scratch core off) =>
      match (accessLines s a).find? fun key => !s.holds s.cur (.line key) with
      | some key => .wait (.line key) none false 0
      | none =>
      match scratchPiece s.tick a p core off with
      | (s', .value v) => .next (if opFills a.op then writeDest s' a v else s')
      | (_, .refused c addr) => .trap { cause := c, addr := addr }
      | (_, .fault _) => .next s
    | _ => .trap { cause := causeAddr, addr := a.ea }

/-- An access in another mode (R173, R279): it waits for a free entry. -/
def remoteAccess (s : State) (a : Access) (dests : List Nat) : Eff :=
  if (accPieces a).isEmpty then .next s
  else if !s.entryFree s.cur (opVector a.op) then .wait (.entry (opVector a.op)) none false 0
  else .next (sendAccess s a dests false 0)

/-- The checks of R278 and the access itself: ALIGN to `al`, then ADDR, for every word of a vector, whatever its mask (R280). -/
def accessForm (s : State) (a : Access) (al : Nat) (ist : Bool) (dests : List Nat) : Eff :=
  if a.ea.toNat % al ≠ 0 then .trap { cause := causeAlign, addr := a.ea } else
  match badPiece s { a with lanes := 0xFFFFFFFF } ist with
  | some _ => .trap { cause := causeAddr, addr := a.ea }
  | none => if a.mode = 0 then localAccess s a else remoteAccess s a dests

/-- The effective address of an M-format form (R278). -/
def effAddr (v : Vals) (x : Fld) (size : Nat) : W64 := v.a + x.imm * BitVec.ofNat 64 size

/-- A scalar load (R281). -/
def loadForm (x : Fld) (s : State) (size : Nat) (sgn : Bool) (opc : Nat) : State :=
  issue uDA x s fun v s =>
    let a := newAccess s x (.ld size sgn) x.mode (effAddr v x size) x.d.toNat opc v
    accessForm s a size (x.mode == 3) [x.d.toNat]

/-- A scalar store (R281). -/
def storeForm (x : Fld) (s : State) (size opc : Nat) : State :=
  issue uSA x s fun v s =>
    let a := newAccess s x (.st size) x.mode (effAddr v x size) 0 opc { v with b := v.d }
    accessForm s a size (x.mode == 3) []

def execLdBu (x : Fld) (s : State) : Out := .next (loadForm x s 1 false 0x25)
def execLdHu (x : Fld) (s : State) : Out := .next (loadForm x s 2 false 0x26)
def execLdWu (x : Fld) (s : State) : Out := .next (loadForm x s 4 false 0x27)
def execLdD (x : Fld) (s : State) : Out := .next (loadForm x s 8 false 0x28)
def execLdBs (x : Fld) (s : State) : Out := .next (loadForm x s 1 true 0x29)
def execLdHs (x : Fld) (s : State) : Out := .next (loadForm x s 2 true 0x2A)
def execLdWs (x : Fld) (s : State) : Out := .next (loadForm x s 4 true 0x2B)
def execStB (x : Fld) (s : State) : Out := .next (storeForm x s 1 0x2C)
def execStH (x : Fld) (s : State) : Out := .next (storeForm x s 2 0x2D)
def execStW (x : Fld) (s : State) : Out := .next (storeForm x s 4 0x2E)
def execStD (x : Fld) (s : State) : Out := .next (storeForm x s 8 0x2F)

/-- VLD (R280, R283). -/
def execVld (x : Fld) (s : State) : Out :=
  .next (issue { d := .v, dDst := true, a := .g, lanes := true } x s fun v s =>
    accessForm s (newAccess s x .vld x.mode (effAddr v x 64) (vCode x.d.toNat) 0x30 v) 64 false [vCode x.d.toNat])

/-- VST (R280, R283). -/
def execVst (x : Fld) (s : State) : Out :=
  .next (issue { d := .v, dSrc := true, a := .g, lanes := true } x s fun v s =>
    accessForm s (newAccess s x .vst x.mode (effAddr v x 64) 0 0x31 v) 64 false [])

/-- The check of a gather's or scatter's lanes (R271): ALIGN first, then ADDR, each at its lowest lane. -/
def laneForms (s : State) (a : Access) (dests : List Nat) : Eff :=
  match (accPieces a).find? (fun p => p.ea.toNat % 4 != 0) with
  | some p => .trap { cause := causeAlign, addr := p.ea }
  | none =>
    match badPiece s a false with
    | some p => .trap { cause := causeAddr, addr := p.ea }
    | none => remoteAccess s a dests

def execVgath (x : Fld) (s : State) : Out :=
  .next (issue { d := .v, dDst := true, a := .g, b := .v, lanes := true } x s fun v s =>
    laneForms s (newAccess s x .gath 3 v.a (vCode x.d.toNat) 0xA3 v) [vCode x.d.toNat])

def execVscat (x : Fld) (s : State) : Out :=
  .next (issue { d := .v, dSrc := true, a := .g, b := .v, lanes := true } x s fun v s =>
    laneForms s (newAccess s x .scat 3 v.a 0 0xA4 v) [])

/-- VLDF (R274, R275): the alignment rule depends on the format its home finds; mode .I traps ADDR. -/
def execVldf (x : Fld) (s : State) : Out :=
  .next (issue { d := .v, dDst := true, a := .g, lanes := true } x s fun v s =>
    let a := newAccess s x (.vldf false) x.mode (effAddr v x 16) (vCode x.d.toNat) 0xA5 v
    if x.mode = 2 then .trap { cause := causeAddr, addr := a.ea }
    else accessForm s a 1 false [vCode x.d.toNat])

/-- The mode of a page-3 form's address (R278): f = 0 cluster-space .B, f = 1 global. -/
def addrMode (f : Bool) : BitVec 2 := if f then 3 else 1

/-- An atomic (R284, R286). -/
def atomForm (x : Fld) (s : State) (o : AtomOp) (opc : Nat) : State :=
  issue uDAB x s fun v s =>
    accessForm s (newAccess s x (.atom o) (addrMode x.f) v.a x.d.toNat opc v) 8 false [x.d.toNat]

def execAadd (x : Fld) (s : State) : Out := .next (atomForm x s .add 0xC0)
def execAsmin (x : Fld) (s : State) : Out := .next (atomForm x s .smin 0xC1)
def execAsmax (x : Fld) (s : State) : Out := .next (atomForm x s .smax 0xC2)
def execAumin (x : Fld) (s : State) : Out := .next (atomForm x s .umin 0xC3)
def execAumax (x : Fld) (s : State) : Out := .next (atomForm x s .umax 0xC4)
def execAand (x : Fld) (s : State) : Out := .next (atomForm x s .and 0xC5)
def execAor (x : Fld) (s : State) : Out := .next (atomForm x s .or 0xC6)
def execAxor (x : Fld) (s : State) : Out := .next (atomForm x s .xor 0xC7)
def execAswp (x : Fld) (s : State) : Out := .next (atomForm x s .swp 0xC8)

/-- CAS (R285): d is read as the expected value at issue, and takes the old value at the fill. -/
def execCas (x : Fld) (s : State) : Out :=
  .next (issue uDioAB x s fun v s =>
    accessForm s (newAccess s x .cas (addrMode x.f) v.a x.d.toNat 0xC9 v) 8 false [x.d.toNat])

/-! ## At a core (SCRATCHPAD_ACCESS) -/

/-- ACQ at its home (R289): a zero word parks the request, unless the acquire does not block. -/
def acqAt (s : State) (a : Access) (i loc : Nat) : State :=
  let w := s.read loc 8
  if w = 0 ∧ !a.nb then
    { s with parked := s.parked ++ [{ slot := a.slot, gen := a.gen, tag := a.tag, loc := loc, acquire := true, want := 0 }] }
  else answerPiece s a i (.value (BitVec.ofNat 512 w))

/-- An access arrives at a core (R55, R56, R58, R61): its cluster's segment table, the core's regions and guard bits, then
it is performed and answered. -/
def arriveScratch (s : State) (a : Access) (i : Nat) : State :=
  let p := (accPieces a).getD i { ea := a.ea, len := 1, pos := 0 }
  let s := s.tick.deliverTag (homeNi s a p) a.tag
  match heldFault s a i p with
  | some page => answerPiece s a i (.fault page)
  | none =>
  match s.target (slotCore a.slot) a.part a.mode p.ea with
  | some (.scratch core off) =>
    match s.segment (coreCluster core) (s.partAt a.part (clusterDev (coreCluster core))) (core % 128) false (opReads a.op) (opWrites a.op) with
    | .refuse c => answerPiece s a i (.refused c p.ea)
    | .fault => answerPiece s a i (.fault (s.corePage core off))
    | .ok =>
      let x := { accAccessor a core with part := s.partAt a.part (clusterDev (coreCluster core)) }
      if a.op = .acq ∧ s.protAllows core off 8 x false ∧ !s.guarded core off
      then acqAt s a i (scratchLoc core off)
      else let r := scratchPiece s a p core off
           answerPiece r.1 a i r.2
  | some (.istore core off) =>
    match s.segment (coreCluster core) (s.partAt a.part (clusterDev (coreCluster core))) (core % 128) true (opReads a.op) (opWrites a.op) with
    | .refuse c => answerPiece s a i (.refused c p.ea)
    | .fault => answerPiece s a i (.fault (s.corePage core off))
    | .ok => let r := istorePiece s a p core off
             answerPiece r.1 a i r.2
  | _ => answerPiece s a i (.refused causeAddr p.ea)

/-- SCRATCHPAD_ACCESS: piece `i` of an access arrives at the core that is its home. -/
def execScratchpadAccess (a : Access) (i : Nat) (s : State) : Out := .next (arriveScratch s a i)

/-! ## Answers arrive at the slot -/

/-- A fill's registers written (R26, R279, R280): loads extended, vectors through their mask, several g registers from
successive words. -/
def fillRegs (t : Slot) (o : Outst) (v : V512) : Slot :=
  match o.dests with
  | [] => t
  | [d] =>
    let w := match o.acc with
      | some a => extendLoad a.op v
      | none => v
    if d < 32 then t.setG d (w.setWidth 64)
    else if d < 64 then t.setV (d - 32) (match o.acc with
      | some a => maskV false a.lanes (t.getV (d - 32)) fun i => lane 32 i v
      | none => w)
    else t.setK (d - 64) (w.setWidth 32)
  | l => (l.zipIdx).foldl (fun t q => t.setG q.1 (BitVec.ofNat 64 (v.toNat / 2 ^ (64 * q.2)))) t

/-- An entry leaves the slot; a group that kept its slot waiting for this answer retires (R172). -/
def dropEntry (t : Slot) (o : Outst) : Slot :=
  let t' := { t with outst := t.outst.filter (fun q : Outst => q.tag != o.tag) }
  if o.len ≠ 0 ∧ (t.st = .waiting (.answer o.tag) ∨ t.st = .suspended .arcom) then t'.retire (t.pc.toNat + o.len) else t'

/-- The port that the d of an answered form names, if it names one (R28, R325, R354). -/
def Outst.portOf (o : Outst) : Option Nat :=
  match o.dests with
  | [d] => if 24 ≤ d ∧ d < 32 then some (d - 24) else none
  | _ => none

/-- The answer's word goes out on its port: now, or, where its link is full, as soon as there is room. The port was open for writing when
the form issued; a port closed since takes no word (assumption 113). -/
def State.fillPort (s : State) (core i : Nat) (v : V512) : Option State :=
  let p := s.port core i
  if !p.writable then some s else if s.portRoom p then some (sendWord s core i (v.setWidth 64)) else none

/-- A value arrives for a slot (R27): written and FULL, or dropped and counted where the unit is gone. -/
def fillSlot (s : State) (slot : Nat) (gen : BitVec 32) (tag : Nat) (v : V512) : State :=
  let t := s.slot slot
  let s0 := s
  let s := s.deliverTag (slotCore slot) tag
  match if t.st ≠ .idle ∧ t.gen = gen then t.outst.find? (fun o : Outst => o.tag == tag) else none with
  | some o =>
    match o.portOf with
    | none => (s.setSlot slot (dropEntry (fillRegs t o v) o)).hears slot
    | some i =>
      match s.fillPort (slotCore slot) i v with
      | none => s0.post (.fill slot gen tag v)
      | some s => s.setSlot slot (dropEntry t o)
  | none => { s.updCore (slotCore slot) (fun c => { c with count := { c.count with gendrop := c.count.gendrop + 1 } }) with
      orphans := s.orphans.filter (fun o : Orphan => !(o.slot == slot && o.gen == gen && o.entry.tag == tag)) }

def execFill (slot : Nat) (gen : BitVec 32) (tag : Nat) (v : V512) (s : State) : Out := .next (fillSlot s slot gen tag v)

/-- What a slot waits for wakes it: a halted one at the release (R426). -/
def wakeFill (s : State) (slot : Nat) (gen : BitVec 32) (tag : Nat) (v : V512) : State :=
  if s.clusterHalted (slotCluster slot) then s.holdHalted slot { ins := .fill slot gen tag v } else fillSlot s slot gen tag v

/-- An acknowledgement frees its entry (R279), or a killed unit's (R175). -/
def ackSlot (s : State) (slot : Nat) (gen : BitVec 32) (tag : Nat) : State :=
  let t := s.slot slot
  let s := s.deliverTag (slotCore slot) tag
  let s := { s with orphans := s.orphans.filter (fun o : Orphan => !(o.slot == slot && o.gen == gen && o.entry.tag == tag)) }
  if t.st ≠ .idle ∧ t.gen = gen then
    match t.outst.find? (fun o : Outst => o.tag == tag) with
    | some o => s.setSlot slot (dropEntry t o)
    | none => s
  else s

def execAccessAcknowledge (slot : Nat) (gen : BitVec 32) (tag : Nat) (s : State) : Out := .next (ackSlot s slot gen tag)

end Sys2Proof.Machine
end

