-- ==== Sys2Proof/Machine/Sync.lean ====
section
/-! DEFINITION. The ordering forms, guard granules and the tag table (R196, R198, R288 to R291, R298, R299). -/

namespace Sys2Proof.Machine
open Sys2Proof

/-- The slot waits for the answer of a request that has left the core (R179, R325): under a limit, or counted by the
watchdog, or neither. -/
def awaitAnswer (s : State) (tag : Nat) (limit : Option Nat) (watch : Bool) (info : W64) : State :=
  let slot := s.cur
  let t := s.slot slot
  let at0 : Attempt := t.attempt.getD { since := s.now, id := s.ticket, limit := none, info := 0, watched := none }
  let w := if watch && limit.isNone then some (at0.watched.getD s.now) else none
  let a : Attempt := { at0 with limit := limit, info := info, watched := w }
  let s := s.tick.updSlot slot (fun t => { t with st := .waiting (.answer tag), attempt := some a })
  match limit with
  | some l => s.postAt (Nat.max (at0.since + l + 1) (s.now + 1)) (.waitTimeout slot t.gen a.id)
  | none =>
    match w with
    | none => s
    | some since => s.postAt (Nat.max (since + (s.part (s.partOf (slotCluster slot))).wdogwin.toNat) (s.now + 1))
        (.watchdog slot t.gen a.id)

/-! ## FENCE (R198, R288) -/

/-- The two paths a FENCE names. -/
def fenceFst (imm : W64) : Nat := bits imm 9 7
def fenceSnd (imm : W64) : Nat := bits imm 6 4

/-- A FENCE naming T at an array, at a place in the order of issue (R195, R198): its operand copies are stale for every operation issued after
it; those issued before it go on using them. -/
def TermArray.fence (a : TermArray) (place : Nat) : TermArray := { a with fences := a.fences ++ [place] }

/-- What a FENCE does once what is before it has completed (R195, R198): the core's fetch-buffer lines go for path I, the array's operand
copies for path T; what has been written on the one path is seen on the other. -/
def fenceDiscard (s : State) (imm : W64) : State :=
  let p := fenceFst imm
  let q := fenceSnd imm
  let s := if p = 4 ∨ q = 4 then s.updCore (slotCore s.cur) (fun c => { c with fetchBuf := [] }) else s
  let s := s.fencePaths p q
  if p = 2 ∨ q = 2 then s.updCluster (slotCluster s.cur) (fun c => { c with arr := c.arr.fence (4 * s.ticket) }) else s

def execFence (x : Fld) (s : State) : Out :=
  .next (issue uNone x s fun _ s =>
    if !s.holds s.cur .settled then .wait .settled none false 0 else .next (fenceDiscard s x.imm))

/-! ## ACQ, REL, BIND -/

/-- ACQ (R289): the slot waits until d fills. -/
def execAcq (x : Fld) (s : State) : Out :=
  .next (issue uDA x s fun v s =>
    let a := newAccess s x .acq (addrMode x.f) v.a x.d.toNat 0xD1 v
    if a.ea.toNat % 64 ≠ 0 then .trap { cause := causeAlign, addr := a.ea }
    else if (badPiece s a false).isSome then .trap { cause := causeAddr, addr := a.ea }
    else if !s.entryFree s.cur false then .wait (.entry false) none false 0
    else
      let t := s.slot s.cur
      .hold (awaitAnswer (sendAccess s a [x.d.toNat] false (Fld.len x)) a.tag t.limit true
        (BitVec.ofNat 64 (bits a.ea 21 6))))

/-- The binding of a line on a core (R127): its entry, or its own line. -/
def bindingOf (c : Core) (line : Nat) : Bind :=
  (c.binds.find? (fun b : Bind => b.obj == line)).getD { obj := line, wide := false, ranges := [], level := 0, part := 0 }

/-- REL (R196, R290, R291): the write is held at the core until its conditions hold. -/
def execRel (x : Fld) (s : State) : Out :=
  .next (issue uSA x s fun v s =>
    let a := newAccess s x .rel (addrMode x.f) v.a 0 0xD2 { v with b := v.d }
    if a.ea.toNat % 64 ≠ 0 then .trap { cause := causeAlign, addr := a.ea }
    else if (badPiece s a false).isSome then .trap { cause := causeAddr, addr := a.ea }
    else if !s.entryFree s.cur false then .wait (.entry false) none false 0
    else
      let b := bindingOf (s.core (slotCore s.cur)) (((accessLines s a).head?).getD 0)
      .next ((sendAccess s a [] true 0).updSlot s.cur fun t =>
        { t with outst := t.outst.map fun o : Outst => if o.tag = a.tag then { o with bind := some b } else o }))

/-- The global address (R55) of a line, over 64, as a range of a binding counts lines (R291): behind the scratchpads of a cluster come its
instruction stores, each with the room of a scratchpad. -/
def globalLine (line : Nat) : Nat :=
  if 2 ^ 60 ≤ line then line
  else if 2 ^ 38 ≤ line then
    let l := line - 2 ^ 38
    l / 2 ^ 16 * 2 ^ 33 + 2 ^ 20 + l / 512 % 128 * 2 ^ 13 + l % 512
  else line / 2 ^ 20 * 2 ^ 33 + line % 2 ^ 20

/-- A line lies in B(O) (R127, R196). -/
def inBinding (b : Bind) (line : Nat) : Bool :=
  b.wide || line == b.obj ||
    b.ranges.any (fun r => decide (r.1 ≤ globalLine line) && decide (globalLine line < r.1 + r.2))

/-- An earlier entry of the slot holds back a release of O (R196, R296, R325): a write to B(O), one whose lines the slot does not know (a copy),
and every posted form. -/
def holdsRelease (b : Bind) (tag : Nat) (o : Outst) : Bool :=
  let posted := (o.acc.map fun a : Access => a.op == .swadd || a.op == .dcdec).getD false
  decide (o.tag < tag) && (o.write || o.held || (o.access && o.lines.isEmpty)) &&
    (o.lines.isEmpty || posted || o.lines.any (inBinding b))

/-- BIND in the table (R291): length 0 removes the object, a 17th range or a full table makes it WIDE. DESIGN CHOICE (assumption 114): where
units of two launches bind one object, the later BIND gives all its ranges its own level. DESIGN CHOICE (assumption 138): the WIDE mark of an
object that found no room is an entry without ranges beside the 64, and a later BIND may give that entry a range. -/
def bindTable (c : Core) (obj base len : Nat) (level : W64) (part : Nat) : Core :=
  if len = 0 then { c with binds := c.binds.filter (fun b : Bind => b.obj != obj) } else
  match c.binds.find? (fun b : Bind => b.obj == obj) with
  | some b =>
    let b' := if 16 ≤ b.ranges.length then { b with wide := true, level := level, part := part }
      else { b with ranges := b.ranges ++ [(base, len)], level := level, part := part }
    { c with binds := c.binds.map (fun q : Bind => if q.obj = obj then b' else q) }
  | none =>
    let room := decide ((c.binds.filter (fun b : Bind => !b.ranges.isEmpty)).length < 64)
    { c with binds := c.binds ++ [{ obj := obj, wide := !room, ranges := if room then [(base, len)] else [],
                                    level := level, part := part }] }

/-- BIND (R291). -/
def execBind (x : Fld) (s : State) : Out :=
  .next (issue uSAB x s fun v s =>
    let part := s.partOf (slotCluster s.cur)
    let k := slotCore s.cur
    if v.d.toNat % 64 ≠ 0 then .trap { cause := causeAlign, addr := v.d }
    else if v.a.toNat % 64 ≠ 0 then .trap { cause := causeAlign, addr := v.a }
    else
      match s.target k part (addrMode x.f) v.d, s.target k part (addrMode x.f) v.a with
      | some o, some b =>
        if 2 ^ 24 < v.b.toNat then .trap { cause := causeAddr, addr := v.a }
        else .next (s.updCore k (fun c => bindTable c o.line (globalLine b.line) v.b.toNat (s.slot s.cur).level (s.slot s.cur).home))
      | none, _ => .trap { cause := causeAddr, addr := v.d }
      | _, none => .trap { cause := causeAddr, addr := v.a })

/-! ## GUARD (R298) -/

/-- Sets or clears `n` guard bits from a granule on. -/
def setGuards (g : Sp Bool) (i : Nat) (v : Bool) : Nat → Sp Bool
  | 0 => g
  | n + 1 => setGuards (Sp.set false g i v) (i + 1) v n

def execGuard (x : Fld) (s : State) : Out :=
  .next (issue uAB x s fun v s =>
    let k := slotCore s.cur
    let acc := s.unitAccessor s.cur k
    if v.a.toNat % 64 ≠ 0 then .trap { cause := causeAlign, addr := v.a }
    else if 0x80000 < v.a.toNat + 64 * v.b.toNat then .trap { cause := causeAddr, addr := v.a }
    else
      let g := v.a.toNat / 64
      match (List.range v.b.toNat).find? (fun i => !s.protAllows k ((g + i) * 64) 64 acc true) with
      | some i => .trap { cause := causeProt, addr := BitVec.ofNat 64 ((g + i) * 64) }
      | none => .next (s.updCore k (fun c => { c with guards := setGuards c.guards g x.f v.b.toNat })))

/-! ## The tag table (R125, R299) -/

/-- SPLIT and ways of a table's configuration. -/
def tagSplit (cfg : W64) : Bool := cfg.getLsbD 2
def tagWays (cfg : W64) : Nat := 2 ^ bits cfg 1 0

/-- Sets of the table a slot sees. -/
def tagSets (cfg : W64) : Nat := (if tagSplit cfg then 128 else 1024) / tagWays cfg

/-- The first entry number of a tag's set for a slot: entries of a set are consecutive. -/
def tagBase (cfg : W64) (slot tag : Nat) : Nat :=
  let n := tagSets cfg
  (if tagSplit cfg then slot % 8 * 128 else 0) + (tag % n).xor (tag / n % n) * tagWays cfg

/-- The way that holds a tag. -/
def tagFind (c : Core) (slot tag : Nat) : Option Nat :=
  ((List.range (tagWays c.tagCfg)).map (· + tagBase c.tagCfg slot tag)).find? fun i =>
    match Sp.find c.tags i with
    | some e => e.tag == tag
    | none => false

/-- The way a new tag takes: a free one, else the least recently used. -/
def tagVictim (c : Core) (slot tag : Nat) : Nat :=
  let ways := (List.range (tagWays c.tagCfg)).map (· + tagBase c.tagCfg slot tag)
  match ways.find? (fun i => (Sp.find c.tags i).isNone) with
  | some i => i
  | none =>
    (ways.foldl (fun b i => if ((Sp.find c.tags i).map TagEntry.use).getD 0 < b.2
      then (i, ((Sp.find c.tags i).map TagEntry.use).getD 0) else b)
      (tagBase c.tagCfg slot tag, ((Sp.find c.tags (tagBase c.tagCfg slot tag)).map TagEntry.use).getD 0)).1

/-- A tag operand (R299): bits 62 to 0. -/
def tagOf (a : W64) : Nat := a.toNat % 2 ^ 63

def execTglook (x : Fld) (s : State) : Out :=
  .next (issue { d := .g, dDst := true, dPair := true, a := .g } x s fun v s =>
    let k := slotCore s.cur
    let c := s.core k
    match tagFind c s.cur (tagOf v.a) with
    | none => .next (s.putPair x.d.toNat 0 0)
    | some i =>
      match Sp.find c.tags i with
      | none => .next (s.putPair x.d.toNat 0 0)
      | some e =>
        .next ((s.tick.setCore k { c with tags := Sp.put c.tags i { e with use := s.ticket + 1 } }).putPair x.d.toNat 1 e.data))

def execTgset (x : Fld) (s : State) : Out :=
  .next (issue uSA x s fun v s =>
    let k := slotCore s.cur
    let c := s.core k
    let i := (tagFind c s.cur (tagOf v.a)).getD (tagVictim c s.cur (tagOf v.a))
    .next (s.tick.setCore k { c with tags := Sp.put c.tags i { tag := tagOf v.a, data := v.d, use := s.ticket + 1 } }))

def execTgclr (x : Fld) (s : State) : Out :=
  .next (issue uA x s fun v s =>
    let k := slotCore s.cur
    let c := s.core k
    match tagFind c s.cur (tagOf v.a) with
    | none => .next s
    | some i => .next (s.setCore k { c with tags := Sp.erase c.tags i }))

def execTgcfg (x : Fld) (s : State) : Out :=
  .next (issue uA x s fun v s =>
    .next (s.updCore (slotCore s.cur) (fun c => { c with tagCfg := v.a &&& 7, tags := [] })))

end Sys2Proof.Machine
end

