-- ==== Sys2Proof/Machine/Rings.lean ====
section
/-! DEFINITION. Inbox rings (R79 to R82, R457): their geometry, their entries, the placing of an entry and the taking of one;
level handles (R170, R372). -/

namespace Sys2Proof.Machine
open Sys2Proof

/-! ## Level handles -/

/-- A field of a level handle: 0 launch, 1 graph, 2 phase, 3 job. -/
def lvField (h : W64) (i : Nat) : Nat := bits h (16 * i + 15) (16 * i)

/-- A handle names a level: its non-zero fields come first (R372). -/
def levelNames (h : W64) : Bool :=
  lvField h 3 != 0 && (lvField h 2 != 0 || (lvField h 1 == 0 && lvField h 0 == 0)) && (lvField h 1 != 0 || lvField h 0 == 0)

/-- The bits below a handle's own field. -/
def levelSpan (h : W64) : Nat :=
  if lvField h 0 ≠ 0 then 0 else if lvField h 1 ≠ 0 then 16 else if lvField h 2 ≠ 0 then 32 else 48

/-- A level or a unit's level lies at or below a named level (R170). -/
def levelCovers (h l : W64) : Bool := l.toNat / 2 ^ levelSpan h == h.toNat / 2 ^ levelSpan h

/-- A handle with the fields below a scope cleared (R107): 0 launch, 1 graph, 2 phase, 3 job. -/
def scopeLevel (scope : Nat) (l : W64) : W64 := BitVec.ofNat 64 (l.toNat / 2 ^ (16 * scope) * 2 ^ (16 * scope))

/-- The level that encloses a named one; 0 for a job (R136). -/
def levelParent (h : W64) : W64 :=
  if levelSpan h = 48 then 0 else scopeLevel (levelSpan h / 16 + 1) h

/-! ## Rings -/

/-- The binding word of a class (R79). -/
def Core.cls (c : Core) (i : Nat) : W64 := Sp.get (classReset i) c.classes i
def Core.setCls (c : Core) (i : Nat) (w : W64) : Core := { c with classes := Sp.set (classReset i) c.classes i w }

def clsOn (w : W64) : Bool := w.getLsbD 27
def clsSlot (w : W64) : Nat := bits w 26 24
/-- The words of a ring. -/
def clsSize (w : W64) : Nat := 64 * 2 ^ bits w 22 20
def clsBase (w : W64) : Nat := bits w 18 9 * 512

def Core.head (c : Core) (i : Nat) : Nat := Sp.get 0 c.heads i
def Core.tail (c : Core) (i : Nat) : Nat := Sp.get 0 c.tails i

/-- Free words of a ring (R81). -/
def Core.ringFree (c : Core) (i : Nat) : Nat :=
  let n := clsSize (c.cls i)
  (c.head i + n - c.tail i + n - 1) % n

/-- Where an entry of `l` words goes (R81): the words of padding before it and its first word; none where it is refused. -/
def Core.ringFit (c : Core) (i l : Nat) : Option (Nat × Nat) :=
  let n := clsSize (c.cls i)
  let t := c.tail i
  let free := c.ringFree i
  if t + l ≤ n ∧ l ≤ free then some (0, t)
  else if n - t + l ≤ free then some (n - t, 0) else none

/-- A ring has room for an entry. -/
def Core.ringRoom (c : Core) (i l : Nat) : Bool := (c.ringFit i l).isSome

/-- The offset of a word of a ring. -/
def ringOff (w : W64) (i : Nat) : Nat := clsBase w + 8 * i

/-- A word of a ring: zero in a guarded granule (R61). -/
def State.ringWord (s : State) (core cls i : Nat) : W64 :=
  let w := (s.core core).cls cls
  let off := clsBase w + 8 * (i % clsSize w)
  if s.guarded core off then 0 else BitVec.ofNat 64 (s.read (scratchLoc core off) 8)

/-- A header word (R80). -/
def ringHeader (gen : BitVec 32) (phase : Bool) (len kind : Nat) : W64 :=
  BitVec.ofNat 64 (gen.toNat * 2 ^ 32 + (if phase then 65536 else 0) + len * 256 + kind)

/-- The entries of a ring from the head on: word index, header. PAD entries are skipped (R82). -/
def ringEntries (s : State) (core cls : Nat) (i : Nat) : Nat → List (Nat × W64)
  | 0 => []
  | n + 1 =>
    let c := s.core core
    let size := clsSize (c.cls cls)
    if i % size = c.tail cls then [] else
      let h := s.ringWord core cls i
      let l := Nat.max 1 (bits h 15 8)
      let rest := ringEntries s core cls ((i + l) % size) n
      if bits h 7 0 = 0 then rest else (i % size, h) :: rest

/-- The first entry of a ring that is no padding. -/
def State.ringHead (s : State) (core cls : Nat) : Option (Nat × W64) :=
  (ringEntries s core cls ((s.core core).head cls) (clsSize ((s.core core).cls cls))).head?

/-- A ring holds padding and no entry behind it. -/
def State.padOnly (s : State) (core cls : Nat) : Bool :=
  (s.core core).head cls != (s.core core).tail cls && (s.ringHead core cls).isNone

/-- The accessor an inbox write or an answer copy is checked as (R58): the receiving core itself, for a level. -/
def State.niAccessor (s : State) (core : Nat) (level : W64) : Accessor :=
  { slot := 2 ^ 31, gen := 0, part := s.partOf (coreCluster core), level := level, own := true }

/-- Every word of a list of offsets may be written by the NI (R457). -/
def State.niAllows (s : State) (core : Nat) (level : W64) (offs : List Nat) : Bool :=
  offs.all fun o => s.protAllows core o 8 (s.niAccessor core level) true

/-- Writes words one after the other into a scratchpad; what falls on a guarded granule is dropped (R61). -/
def writeWords (s : State) (core off : Nat) : List W64 → State
  | [] => s
  | w :: l => writeWords (s.hwWrite core off w.toNat 8) core (off + 8) l

/-- How an entry fared at a ring. -/
inductive Placed where
  | ok (s : State)
  | full
  | refused

/-- Places an entry (R81, R457): padding where the ring's end is too near, then its words. -/
def placeEntry (s : State) (core cls : Nat) (level : W64) (words : List W64) (info : EntryInfo) : Placed :=
  let c := s.core core
  let w := c.cls cls
  match c.ringFit cls words.length with
  | none => .full
  | some (pad, at0) =>
    let base := clsBase w
    let offs := (List.range words.length).map (fun j => base + 8 * (at0 + j)) ++
      (if pad = 0 then [] else [base + 8 * c.tail cls])
    if !s.niAllows core level offs then .refused else
    let s := if pad = 0 then s else s.hwWrite core (ringOff w (c.tail cls)) (ringHeader 0 false pad 0).toNat 8
    let s := writeWords s core (ringOff w at0) words
    let s := s.updCore core fun c =>
      { c with tails := Sp.set 0 c.tails cls ((at0 + words.length) % clsSize w),
               entries := Sp.put c.entries (cls * 8192 + at0) info }
    .ok s

/-- The words of a task record (R95), as a ring entry carries it. -/
def recordWords (r : TaskRec) : List W64 :=
  [BitVec.ofNat 64 (r.pc.toNat + if r.noSteal then 2 ^ 48 else 0), r.level,
   BitVec.ofNat 64 (r.corr.toNat + r.cls * 2 ^ 32 + r.pri * 2 ^ 36), r.pool,
   r.args.getD 0 0, r.args.getD 1 0, r.args.getD 2 0, r.args.getD 3 0]

/-- A task record from its eight words, reserved bits ignored (R95). -/
def recordOf (w : Nat → W64) (home source : Nat) (phase : Bool) (enq : W64) : TaskRec :=
  { pc := (w 0).setWidth 15, noSteal := (w 0).getLsbD 48, level := w 1, home := home, pri := bits (w 2) 37 36, cls := bits (w 2) 35 32,
    corr := (w 2).setWidth 32, pool := w 3, args := [w 4, w 5, w 6, w 7], source := source, phase := phase,
    key := 0, header := 0, enq := enq }

/-- The kind code and the words of a message's entry (R80, R327). -/
def entryWords (isTask : Bool) (gen : BitVec 32) (r : TaskRec) : List W64 :=
  if isTask then ringHeader 0 r.phase 9 1 :: recordWords r
  else [ringHeader gen r.phase 4 2, r.pc.setWidth 64, r.args.getD 0 0, r.args.getD 1 0]

/-- The record was written for a LAUNCH packet: its placement discards what path I holds (R403, R406). -/
def recordLaunched (r : TaskRec) : Bool := r.source == 0 || r.launched

/-! ## The start of a unit (R31, R82, R174) -/

/-- A slot with a new unit: every register but those R31 names is zero and FULL; STKTOP stays; GEN comes from the slot's
counter. -/
def startSlot (t : Slot) (r : TaskRec) (regs : List (Nat × W64)) (now : W64) (cancelled : Bool) : Slot :=
  let base : Slot :=
    { gen := t.genNext, genNext := t.genNext + 1, stktop := t.stktop, saved := t.saved,
      pc := r.pc, st := .ready, level := r.level, home := r.home, corr := r.corr, pool := r.pool, source := r.source, pri := r.pri,
      cls := r.cls, phase := r.phase, enq := r.enq, deq := now, cancel := cancelled }
  regs.foldl (fun t q => t.setG q.1 q.2) base

/-- Starts a unit from the entry at word `i` of a ring (R31, R82); key and header are 0 but for a record that Confluence dispatched. -/
def startFromEntry (s : State) (core cls i : Nat) (h : W64) : State :=
  let c := s.core core
  let w := c.cls cls
  let slot := core * 8 + clsSlot w
  let t := s.slot slot
  let word (k : Nat) : W64 := s.ringWord core cls (i + k)
  let info := Sp.get {} c.entries (cls * 8192 + i)
  let phase := h.getLsbD 16
  let task := bits h 7 0 == 1
  let r : TaskRec := if task then { recordOf (fun k => word (k + 1)) info.home info.source phase info.enq with key := info.key, header := info.header }
    else { pc := (word 1).setWidth 15, noSteal := false, level := info.level, home := info.home, pri := 0, cls := cls, corr := info.corr,
           pool := info.pool, args := [word 2, word 3], source := 5, phase := phase, key := 0, header := 0, enq := info.enq }
  let args := (r.args.zipIdx).map fun q => (q.2 + 4, q.1)
  let regs := (2, t.stktop) :: args ++ [(8, r.key), (9, r.header)]
  let s := s.setSlot slot (startSlot t { r with cls := cls } regs (s.ptpTime (slotDev slot))
    (((s.level? r.home r.level).map Level.cancelled).getD false))
  s.setCore core { c with heads := Sp.set 0 c.heads cls ((i + bits h 15 8) % clsSize w),
                          entries := Sp.erase c.entries (cls * 8192 + i), placed := c.placed && cls != 0 }

end Sys2Proof.Machine
end

