-- ==== Sys2Proof/Machine/Levels.lean ====
section
/-! DEFINITION. Level records (R136 to R139, R145, R170, R335, R372 to R375, R381): updates, completion, cancelling, the
heartbeat, and the instructions LVINC, LVDEC, LVWAIT, LVCANCEL, PERSIST and BEAT. -/

namespace Sys2Proof.Machine
open Sys2Proof

/-- Word 0 of a level record (R136). -/
def Level.word0 (l : Level) : W64 :=
  BitVec.ofNat 64 (l.outstanding % 2 ^ 32 + Nat.min l.errors 0xFFFF * 2 ^ 32 + (if l.done then 2 ^ 48 else 0) +
    (if l.cancelled then 2 ^ 49 else 0) + if l.under then 2 ^ 50 else 0)

/-- The record a handle names, if it is live (R372). -/
def State.liveLevel (s : State) (part : Nat) (h : W64) : Option Level :=
  if levelNames h then s.level? part h else none

/-! ## Quiet phases (R141, R351) -/

/-- A tag of a partition is quiet. -/
def Part.quiet (q : Part) (t : Bool) : Bool := if t then q.quiet1 else q.quiet0

/-- The condition of a QUIET: its tag is quiet and the level it names is DONE. -/
def quietHolds (s : State) (part : Nat) (q : QuietReq) : Bool :=
  (s.part part).quiet q.tag && (s.liveLevel part q.level).isNone

/-- Answers the QUIETs of a partition whose condition holds. -/
def answerQuiets (s : State) (part : Nat) : State :=
  let q := s.part part
  let s' := s.setPart part { q with quiets := q.quiets.filter (fun r => !quietHolds s part r) }
  s'.postAll ((q.quiets.filter (quietHolds s part)).map fun r =>
    ({ ins := .fill r.who.slot r.who.gen r.who.tag (if r.tag then 1 else 0) } : Op))

/-! ## Completion (R137) -/

/-- The clusters of a partition. -/
def State.clustersOf (s : State) (part : Nat) : List Nat := (s.part part).clusters

/-- Changes the clusters of a list by a function. -/
def updClusters (s : State) (f : Cluster → Cluster) : List Nat → State
  | [] => s
  | c :: l => updClusters (s.updCluster c f) f l

/-- A Pigeonhole entry is scoped to a level, or to one below it. -/
def pigeonUnder (part : Nat) (h : W64) (e : Pigeon) : Bool := e.home == part && levelCovers h e.level

/-- The clusters that hold anything, of any partition: those where a launch may have left something behind (R328). -/
def State.everyCluster (s : State) : List Nat := s.clusters.map Prod.fst

/-- Clears the Pigeonhole entries scoped to a level (R111). -/
def clearPigeons (s : State) (part : Nat) (h : W64) : State :=
  updClusters s (fun c => { c with pigeon := c.pigeon.filter (fun e => !(e.2.home == part && e.2.level == h)) })
    s.everyCluster

/-- Frees the bindings tagged with a launch (R127). -/
def freeBinds (s : State) (part : Nat) (h : W64) : State :=
  { s with cores := s.cores.map fun c =>
      (c.1, { c.2 with binds := c.2.binds.filter (fun b : Bind => !(b.part == part && lvField b.level 3 == lvField h 3 &&
        lvField b.level 0 == lvField h 0)) }) }

/-- Discards the records of one Confluence queue of a partition (R87). -/
def discardQueue (s : State) (part qid : Nat) : State :=
  updClusters s (fun c => { c with conf := c.conf.filter (fun r => !(r.2.part == part && r.2.qid == qid)) })
    (s.clustersOf part)

/-- Ends the Confluence queues that a launch of the partition `home` has declared in a partition (R335). -/
def endQueuesIn (s : State) (part home : Nat) (h : W64) : State :=
  let q := s.part part
  let dead := q.decls.filter (fun d => d.2.live && d.2.home == home && d.2.level == h)
  if dead.isEmpty then s else
  let s := s.setPart part { q with decls := q.decls.map fun d =>
    if d.2.live && d.2.home == home && d.2.level == h then (d.1, { d.2 with live := false }) else d }
  dead.foldl (fun s d => discardQueue s part d.1) s

/-- Ends the Confluence queues a launch has declared, in whatever partition (R335). -/
def endQueues (s : State) (home : Nat) (h : W64) : State :=
  (s.parts.map Prod.fst).foldl (fun s part => endQueuesIn s part home h) s

/-- The news to the Pigeonhole slices that a level is DONE. -/
def clearUpd (part : Nat) (h : W64) : LevelUpd :=
  { part := part, level := h, add := false, n := 0, err := 0, slot := 0, gen := 0, tag := 0, ack := false, addr := 0, clear := true }

/-- What follows when a level is DONE, its parent apart (R137): tables, bindings, queues, packet, waiters; its record is
freed. DEDUCED (assumption 142): the Pigeonhole slices hear of it after the launch has completed, and free its entries then (R111, R444). -/
def closeLevel (s : State) (part : Nat) (h : W64) (l : Level) : State :=
  let s := { s with levels := Sp.erase s.levels (levelKey part h) }.post (.levelUpdate (clearUpd part h))
  let s := if levelSpan h = 0 then endQueues (freeBinds s part h) part h else s
  let s := match l.packet with
    | some (q, i) => s.dueOp { who := q * 2 ^ 32 + i, data := [if 0 < l.errors then 2 else 1], ins := .packetCompletion }
    | none => s
  let s := l.waiters.foldl (fun s w =>
    s.answerWith (officeNi part) part w.slot w.gen w.tag ({ l with done := true }.word0.setWidth 512)) s
  answerQuiets s part

/-- A decrement of a live record (R137): below zero leaves 0 and sets UNDER; at 0 the level is DONE and its parent is
decremented in the same step, with its ERRORS added to the parent's (R139). `fuel` is the depth of levels. -/
def decLevel (s : State) (part : Nat) (h : W64) (n err : Nat) : Nat → State
  | 0 => s
  | fuel + 1 =>
    match s.liveLevel part h with
    | none => s
    | some l =>
      let l := { l with errors := Nat.min (l.errors + err) 0xFFFF }
      if n = 0 then s.setLevel part h l else
      let l := { l with outstanding := l.outstanding - n, under := l.under || decide (l.outstanding < n) }
      if l.outstanding ≠ 0 then s.setLevel part h l else
      let s := closeLevel s part h l
      if l.parent = 0 then s else decLevel s part l.parent 1 l.errors fuel

/-- An update arrives at the Sorting Office (R137, R373). An increment past 2^32 - 1 is refused for LVINC and retried for
every other source. -/
def levelUpdate (s : State) (u : LevelUpd) : State :=
  if u.clear then clearPigeons s u.part u.level else
  let ni := officeNi u.part
  let s := s.deliverTag ni u.tag
  let ans (s : State) : State := if u.ack then s.answerWith ni u.part u.slot u.gen u.tag 0 else s
  let refuse (s : State) : State := if u.ack then s.refuseWith ni u.part u.slot u.gen u.tag causeAddr u.addr else s
  match s.liveLevel u.part u.level with
  | none => refuse s
  | some l =>
    if u.add then
      if 2 ^ 32 ≤ l.outstanding + u.n then (if u.ack then refuse s else s.post (.levelUpdate u))
      else ans (s.setLevel u.part u.level { l with outstanding := l.outstanding + u.n })
    else ans (decLevel s u.part u.level u.n u.err 5)

/-- LEVEL_UPDATE: an update to OUTSTANDING arrives at the Sorting Office. -/
def execLevelUpdate (u : LevelUpd) (s : State) : Out := .next (levelUpdate s u)

/-- `n` units that ended, or records removed that counted as ended units, reported to their launch. -/
def endedOps (part : Nat) (level : W64) (n err : Nat) : Op :=
  let u : LevelUpd := { part := part, level := level, add := false, n := n, err := err, slot := 0, gen := 0, tag := 0,
                        ack := false, addr := 0 }
  { ins := .levelUpdate u }

def endedOp (part : Nat) (level : W64) (err : Nat) : Op := endedOps part level 1 err

/-! ## Cancelling (R139, R170, R186, R375) -/

/-- Marks a level and every level below it CANCELLED. -/
def markCancelled (s : State) (part : Nat) (h : W64) : State :=
  { s with levels := s.levels.map fun l =>
      if l.1 / 2 ^ 64 = part ∧ levelCovers h (BitVec.ofNat 64 l.1) then (l.1, { l.2 with cancelled := true }) else l }

/-- The units, resident or saved, at or below a level of a partition, wherever they run (R328). -/
def unitsUnder (s : State) (part : Nat) (h : W64) : List (Nat × BitVec 32) :=
  s.slots.flatMap fun t =>
    (if t.2.st ≠ .idle ∧ t.2.home = part ∧ levelCovers h t.2.level then [(t.1, t.2.gen)] else []) ++
      (t.2.saved.filter (fun c => c.home == part && levelCovers h c.level)).map fun c => (t.1, c.gen)

/-- The level of a ring entry. -/
def entryLevel (s : State) (core cls : Nat) (e : Nat × W64) : W64 :=
  if bits e.2 7 0 = 1 then s.ringWord core cls (e.1 + 2) else (Sp.get {} (s.core core).entries (cls * 8192 + e.1)).level

/-- Removes the entries of cancelled units from a ring (R186): each becomes padding and counts as a unit that ended. -/
def cancelRing (s : State) (part : Nat) (h : W64) (core cls : Nat) : State :=
  let c := s.core core
  let w := c.cls cls
  let all := ringEntries s core cls (c.head cls) (clsSize w)
  let mine (e : Nat × W64) : Bool := (Sp.get ({} : EntryInfo) c.entries (cls * 8192 + e.1)).home == part
  let gone := all.filter fun e => mine e && levelCovers h (entryLevel s core cls e) && bits e.2 63 32 == 0
  let s := gone.foldl (fun s e =>
    (s.hwWrite core (ringOff w e.1) (ringHeader 0 false (bits e.2 15 8) 0).toNat 8).postOp
      (endedOp part (entryLevel s core cls e) 0)) s
  if gone.length = all.length ∧ gone ≠ [] then s.updCore core fun c =>
    { c with heads := Sp.set 0 c.heads cls (c.tail cls), placed := c.placed && cls != 0 } else s

/-- Cancels the entries of a launch in every ring. -/
def cancelRings (s : State) (part : Nat) (h : W64) : State :=
  (s.cores.map Prod.fst).foldl (fun s k => (List.range 16).foldl (fun s c => cancelRing s part h k c) s) s

/-- Removes the records of cancelled units from the ready queues; each counts as a unit that ended (R186). -/
def cancelReady (s : State) (part : Nat) (h : W64) : State :=
  s.everyCluster.foldl (fun s c =>
    let under (r : ReadyRec) : Bool := r.body.home == part && levelCovers h r.body.level
    let gone := (s.cluster c).ready.filter under
    (s.updCluster c fun x => { x with ready := x.ready.filter fun r => !under r }).postAll
      (gone.map fun r => endedOp part r.body.level 0)) s

/-- A removed release counts as a unit that ended (R186): its launch, which would have counted it at its release (R137, R341), counts it
now, and its end is on its way. -/
def countGone (s : State) (r : Release) : State :=
  match s.liveLevel r.body.home r.body.level with
  | none => s
  | some l => (s.setLevel r.body.home r.body.level { l with outstanding := l.outstanding + 1 }).postOp (endedOp r.body.home r.body.level 0)

/-- Removes the pending releases of cancelled units (R186). -/
def cancelWheel (s : State) (part : Nat) (h : W64) : State :=
  let gone (r : Release) : Bool := r.body.home == part && levelCovers h r.body.level
  let rs := s.devs.flatMap fun d => d.2.wheel.filter gone
  rs.foldl countGone { s with devs := s.devs.map fun d => (d.1, { d.2 with wheel := d.2.wheel.filter fun r => !gone r }) }

/-- The units of a cancelled launch still to be placed count as ended (R186). -/
def cancelPlacing (s : State) (part : Nat) (h : W64) : State :=
  let q := s.part part
  let gone := q.placing.filter fun p => levelCovers h p.body.level
  (s.setPart part { q with placing := q.placing.filter fun p => !levelCovers h p.body.level }).postAll
    (gone.map fun p => endedOps part p.body.level (p.units - p.next) 0)

/-- Pigeonhole entries of a cancelled level: EMPTY and free, their waiters receive CANCEL (R111). -/
def cancelPigeons (s : State) (part : Nat) (h : W64) : State :=
  s.everyCluster.foldl (fun s c =>
    let gone := (s.cluster c).pigeon.filter fun e => pigeonUnder part h e.2
    (s.updCluster c fun x => { x with pigeon := x.pigeon.filter fun e => !pigeonUnder part h e.2 }).postAll
      (gone.flatMap fun e => e.2.waiters.map fun w => ({ ins := .asyncCauseDelivery w.slot w.gen 0 } : Op))) s

/-- Confluence records whose level is cancelled are discarded (R87). -/
def cancelConf (s : State) (part : Nat) (h : W64) : State :=
  updClusters s (fun c => { c with conf := c.conf.filter fun r => !(r.2.home == part && levelCovers h r.2.level) })
    s.everyCluster

/-- A member's unit, resident or saved, is at or below a level. -/
def memberUnder (s : State) (part : Nat) (h : W64) (m : RegMember) : Bool :=
  let t := s.slot m.slot
  (t.st != .idle && t.gen == m.gen && t.home == part && levelCovers h t.level) ||
    t.saved.any fun c => c.gen == m.gen && c.home == part && levelCovers h c.level

/-- Aborts the open regions made at or below a cancelled level, or joined by a unit there (R124). -/
def cancelRegions (s : State) (part : Nat) (h : W64) : State :=
  s.postAll (s.everyCluster.flatMap fun c => ((s.cluster c).regions.filter fun r =>
    r.2.st == 1 && ((r.2.home == part && levelCovers h r.2.level) || r.2.members.any (memberUnder s part h))).map fun r =>
      abortRequest s (c * 1024 + r.1) 4 (r.2.gen.setWidth 64))

/-- Cancels a named level (R139, R170, R186); the unit that asks for it, if it is one of the level's, has CANCEL pending at once (R375). -/
def cancelLevel (s : State) (part : Nat) (h : W64) (asks : Option (Nat × BitVec 32) := none) : State :=
  if (s.liveLevel part h).isNone then s else
  let s := markCancelled s part h
  let s := (unitsUnder s part h).foldl (fun s u => if asks = some u then asyncDeliver s u.1 u.2 0
    else s.post (.asyncCauseDelivery u.1 u.2 0)) s
  cancelRegions (cancelConf (cancelPigeons (cancelPlacing (cancelWheel (cancelReady (cancelRings s part h) part h) part h)
    part h) part h) part h) part h

/-! ## Instructions -/

/-- The slot waits for an answer from outside the core (R325, R354): it takes an entry that is no access, the destinations are
written by the answer. -/
def askEntry (s : State) (x : Fld) (dests : List Nat) (soft : Bool) (tag : Nat := s.plainTag) : State :=
  let t := s.slot s.cur
  let o : Outst := { tag := tag, pc := t.pc, access := false, vector := false, dests := dests, lines := [], write := false,
                     acc := none, held := false, reply := none, len := Fld.len x, soft := soft }
  s.setSlot s.cur { t with outst := t.outst ++ [o] }

/-- An answered form of page 5 or 6 (R325): the request leaves the core and is delivered at an NI, tagged as its answer is (R140, R141); the slot
waits and counts toward no policy. -/
def askNet (s : State) (x : Fld) (dests : List Nat) (ni : Nat) (req : Nat → State → State) : Eff :=
  let ph := (s.slot s.cur).phase
  let tag := s.netTag ph
  let s := awaitAnswer (askEntry s x dests false tag) tag none false 0
  .hold (req tag (s.exchange (slotCore s.cur) ni (s.partOf (slotCluster s.cur)) ph))

/-- The same for a form whose request is on its way as an operation of its own. -/
def askSend (s : State) (x : Fld) (dests : List Nat) (req : Nat → Op) : Eff :=
  let ph := (s.slot s.cur).phase
  let tag := s.netTag ph
  let s := awaitAnswer (askEntry s x dests false tag) tag none false 0
  .hold (s.send (slotCore s.cur) (s.partOf (slotCluster s.cur)) ph (req tag))

/-- An amount or handle word that must have no bit above 31. -/
def upperClear (w : W64) : Bool := bits w 63 32 == 0

/-- The update that an LVINC or LVDEC of the current slot sends. -/
def answeredUpdate (s : State) (level : W64) (n : Nat) (add : Bool) (tag : Nat) : Op :=
  let u : LevelUpd := { part := s.partOf (slotCluster s.cur), level := level, add := add, n := n, err := 0, slot := s.cur,
                        gen := (s.slot s.cur).gen, tag := tag, ack := true, addr := level }
  { ins := .levelUpdate u }

/-- LVINC (R373). -/
def execLvinc (x : Fld) (s : State) : Out :=
  .next (issue uAB x s fun v s =>
    if !levelNames v.a then .trap { cause := causeAddr, addr := v.a }
    else if !upperClear v.b then .trap { cause := causeAddr, addr := v.b }
    else askSend s x [] (answeredUpdate s v.a v.b.toNat true))

/-- LVDEC (R373): a release; its request is held at the core by its release condition. -/
def execLvdec (x : Fld) (s : State) : Out :=
  .next (issue uAB x s fun v s =>
    if !levelNames v.a then .trap { cause := causeAddr, addr := v.a }
    else if !upperClear v.b then .trap { cause := causeAddr, addr := v.b }
    else if !s.holds s.cur .released then .wait .released none false 0
    else askSend s x [] (answeredUpdate s v.a v.b.toNat false))

/-- LVWAIT (R374): at a level that is not DONE it waits at the Sorting Office under WAITPOL. -/
def execLvwait (x : Fld) (s : State) : Out :=
  .next (issue uDA x s fun v s =>
    let part := s.partOf (slotCluster s.cur)
    if !levelNames v.a then .trap { cause := causeAddr, addr := v.a } else
    match s.liveLevel part v.a with
    | none => .next (s.putG x.d.toNat 0x1000000000000)
    | some l =>
      let t := s.slot s.cur
      if t.waitMode = 2 then .next (s.putG x.d.toNat (-1)) else
      let tag := s.netTag t.phase
      let s := s.setLevel part v.a { l with waiters := l.waiters ++ [{ slot := s.cur, gen := t.gen, tag := tag }] }
      .hold ((awaitAnswer (askEntry s x [x.d.toNat] true tag) tag t.limit true 0).exchange (slotCore s.cur) (officeNi part) part t.phase))

/-- LVCANCEL (R375). -/
def execLvcancel (x : Fld) (s : State) : Out :=
  .next (issue uA x s fun v s =>
    let part := s.partOf (slotCluster s.cur)
    let gen := (s.slot s.cur).gen
    askNet s x [] (officeNi part) fun tag s =>
      (cancelLevel s part v.a (some (s.cur, gen))).answerWith (officeNi part) part s.cur gen tag 0)

/-- The launch a unit belongs to: its level key. -/
def State.launchKey (s : State) (slot : Nat) : Nat := levelKey (s.slot slot).home (s.slot slot).level

/-- PERSIST (R381): the heartbeat of a launch that becomes persistent begins (R145). -/
def execPersist (x : Fld) (s : State) : Out :=
  .next (issue uA x s fun v s =>
    if !upperClear v.a then .trap { cause := causeAddr, addr := v.a }
    else
      let part := (s.slot s.cur).home
      let h := (s.slot s.cur).level
      askNet s x [] (officeNi part) fun tag s =>
      let s := match s.liveLevel part h with
        | none => s
        | some l =>
          let on := v.a ≠ 0 ∧ l.persistwin = 0
          let s' := s.setLevel part h { l with persistwin := if v.a = 0 then 0 else v.a + 0x100000000, beat := 0,
                                               beatAt := if on then s.now + 1024 else l.beatAt }
          if on then s'.postAt (s.now + 1024) .heartbeatTick (levelKey part h) else s'
      s.answerWith (officeNi part) part s.cur (s.slot s.cur).gen tag 0)

/-- A posted form (R325, R354): it holds one outstanding entry until it is acknowledged; `held` keeps it at the core until its
release condition holds, `acc` is what it captured. -/
def postedEntry (s : State) (held : Bool) (acc : Option Access) (tag : Nat := s.plainTag) : State :=
  let t := s.slot s.cur
  let o : Outst := { tag := tag, pc := t.pc, access := true, vector := false, dests := [], lines := [], write := false,
                     acc := acc, held := held, reply := none, len := 0, soft := false }
  s.tick.setSlot s.cur { t with outst := t.outst ++ [o] }

/-- A posted form whose request and acknowledgement are tagged traffic (R140, R141). -/
def postNet (s : State) (req : Nat → Instr) : State :=
  let ph := (s.slot s.cur).phase
  let tag := s.netTag ph
  (postedEntry s false none tag).send (slotCore s.cur) (s.partOf (slotCluster s.cur)) ph { ins := req tag }

/-- BEAT (R145, R381): it clears the heartbeat counter at the Sorting Office and is acknowledged. -/
def execBeat (x : Fld) (s : State) : Out :=
  .next (issue uNone x s fun _ s =>
    if !s.entryFree s.cur false then .wait (.entry false) none false 0 else
    let ph := (s.slot s.cur).phase
    let tag := s.netTag ph
    let part := (s.slot s.cur).home
    let h := (s.slot s.cur).level
    let s := (postedEntry s false none tag).exchange (slotCore s.cur) (officeNi part) part ph
    let s := match s.liveLevel part h with
      | some l => if l.persistwin ≠ 0 then s.setLevel part h { l with beat := 0 } else s
      | none => s
    .next (s.sendTag (officeNi part) part tag { ins := .accessAcknowledge s.cur (s.slot s.cur).gen tag }))

/-! ## The heartbeat (R145) -/

/-- HEARTBEAT_TICK of the launch whose level key State.cur is: the counter advances, but while a unit of the launch is
halted (R426), and its next tick is 1,024 cycles later; at the window it expires once the cycle is over, but for a BEAT in it. A tick
armed before the launch was last made persistent does nothing. -/
def heartbeatTick (s : State) : State :=
  let key := s.cur
  match Sp.find s.levels key with
  | none => s
  | some l =>
    if l.persistwin = 0 ∨ l.beatAt ≠ s.now then s else
    let h : W64 := BitVec.ofNat 64 key
    let held := s.slots.any fun t =>
      t.2.st != .idle && t.2.home == key / 2 ^ 64 && levelCovers h t.2.level && s.halted t.1
    let n := if held then l.beat else l.beat + 1
    let s := { s with levels := Sp.put s.levels key { l with beat := n, beatAt := s.now + 1024 } }
    let s := s.postAt (s.now + 1024) .heartbeatTick key
    if bits l.persistwin 31 0 ≤ n then s.postAt (s.now + 1) .heartbeatExpiry key else s

def execHeartbeatTick (s : State) : Out := .next (heartbeatTick s)

/-- HEARTBEAT_EXPIRY, where no BEAT has cleared the counter: the units of the launch with a handler receive WATCHDOG; with none the launch is cancelled. -/
def heartbeatExpiry (s : State) : State :=
  let key := s.cur
  let part := key / 2 ^ 64
  let h : W64 := BitVec.ofNat 64 key
  match Sp.find s.levels key with
  | none => s
  | some l =>
    if l.persistwin = 0 ∨ l.beat < bits l.persistwin 31 0 then s else
    let s := { s with levels := Sp.put s.levels key { l with beat := 0 } }
    let vec (u : Nat × BitVec 32) : W64 :=
      let t := s.slot u.1
      if t.st ≠ .idle ∧ t.gen = u.2 then t.trapvec
      else ((t.saved.find? (fun c => c.gen == u.2)).map Saved.trapvec).getD 0
    let us := (unitsUnder s part h).filter fun u => vec u != 0
    if us.isEmpty then cancelLevel s part h
    else s.postAll (us.map fun u => ({ ins := .asyncCauseDelivery u.1 u.2 2 } : Op))

def execHeartbeatExpiry (s : State) : Out := .next (heartbeatExpiry s)

end Sys2Proof.Machine
end

