-- ==== Sys2Proof/Machine/Context.lean ====
section
/-! DEFINITION. Context frames (R187 to R189): the image of a context, replay records, saving and loading them. -/

namespace Sys2Proof.Machine
open Sys2Proof

/-! ## Replay records (R189) -/

/-- The access kind of a record's OP code: page [7:6] and op6 [5:0] of the base word; of pages above 3 the low two bits. -/
def replayOp (opc : Nat) : Option AccOp :=
  match opc with
  | 0x25 => some (.ld 1 false) | 0x26 => some (.ld 2 false) | 0x27 => some (.ld 4 false) | 0x28 => some (.ld 8 false)
  | 0x29 => some (.ld 1 true) | 0x2A => some (.ld 2 true) | 0x2B => some (.ld 4 true)
  | 0x2C => some (.st 1) | 0x2D => some (.st 2) | 0x2E => some (.st 4) | 0x2F => some (.st 8)
  | 0x30 => some .vld | 0x31 => some .vst
  | 0xA3 => some .gath | 0xA4 => some .scat | 0xA5 => some (.vldf false)
  | 0xC0 => some (.atom .add) | 0xC1 => some (.atom .smin) | 0xC2 => some (.atom .smax) | 0xC3 => some (.atom .umin)
  | 0xC4 => some (.atom .umax) | 0xC5 => some (.atom .and) | 0xC6 => some (.atom .or) | 0xC7 => some (.atom .xor)
  | 0xC8 => some (.atom .swp) | 0xC9 => some .cas | 0xD2 => some .rel
  | 0x5A => some .swadd | 0x55 => some .dcdec | 0x86 => some .tqry
  | _ => none

/-- The data slots a record uses (R189). -/
def recordSlots (a : Access) : List V512 :=
  match a.op with
  | .vst => [a.vec]
  | .gath => [a.offs]
  | .scat => [a.offs, a.vec]
  | .tqry => [a.offs]
  | _ => []

/-- The four words of a record whose first data slot is `ds` (R189). -/
def recordImage (a : Access) (ds : Nat) : List Nat :=
  let dv := (recordSlots a) != []
  [a.opc % 256 + a.mode.toNat * 2 ^ 8 + a.dest % 32 * 2 ^ 10 + a.dest / 32 * 2 ^ 15 +
      (if dv then 2 ^ 23 + ds % 16 * 2 ^ 24 else 0) + (if a.masked then 2 ^ 28 else 0) + a.pc.toNat * 2 ^ 29,
   a.ea.toNat, a.d0.toNat, if a.masked then a.lanes.toNat else a.d1.toNat]

/-- The records of a list of accesses, and the data slots they use, in order. -/
def recordImages : List Access → Nat → List Nat
  | [], _ => []
  | a :: l, ds => recordImage a ds ++ recordImages l (ds + (recordSlots a).length)

/-- The access a record holds, for the unit of a slot (R34, R189). -/
def recordAccess (s : State) (slot : Nat) (t : Slot) (tag : Nat) (w : Nat → Nat) (data : Nat → V512) : Option Access :=
  let h := w 0
  match replayOp (h % 256) with
  | none => none
  | some op =>
    let ds := h / 2 ^ 24 % 16
    let masked := h / 2 ^ 28 % 2 == 1
    some { op := op, slot := slot, gen := t.gen, tag := tag, pc := BitVec.ofNat 15 (h / 2 ^ 29),
           part := s.partOf (slotCluster slot), level := t.level, mode := BitVec.ofNat 2 (h / 2 ^ 8),
           ea := BitVec.ofNat 64 (w 1), dest := h / 2 ^ 10 % 128, d0 := BitVec.ofNat 64 (w 2), d1 := BitVec.ofNat 64 (w 3),
           vec := data (if op = .scat then ds + 1 else ds), offs := data ds,
           lanes := if masked then BitVec.ofNat 32 (w 3) else 0xFFFFFFFF, masked := masked,
           fall := t.guardmode.getLsbD 0, nb := t.waitMode == 2, opc := h % 256, region := t.region }

/-! ## The image of a context (R188) -/

/-- The live mask of a full save. -/
def liveAll : Nat := 2 ^ 47 - 1

/-- Words from a list of values, the first lowest. -/
def joinWords (l : List Nat) : Nat := l.foldr (fun w n => w % 2 ^ 64 + 2 ^ 64 * n) 0

/-- Bits from a list of truth values, the first lowest. -/
def joinBits (l : List Bool) : Nat := l.foldr (fun b n => (if b then 1 else 0) + 2 * n) 0

/-- The pending causes of a context as a word (R188). -/
def Slot.pending (t : Slot) : Nat := joinBits [t.cancel, t.arAbort, t.wdog, t.guardPend]

/-- A context's frame image (R188): its kind, resume PC, live mask, extension frame and records. -/
def frameImage (t : Slot) (slot kind : Nat) (pc : Pc) (live : Nat) (ext : Option Nat) (recs : List Access) : Nat :=
  let reg (i : Nat) (x : Nat) : Nat := if live.testBit i then x else 0
  let full (i code : Nat) : Bool := !(live.testBit i && t.empty code)
  let depth := if live.testBit 46 then t.stack.length else 0
  let g (i : Nat) : Nat := if i = 0 then 0 else reg (i - 1) (t.getG i).toNat
  let k (i : Nat) : Nat := if i = 0 then 0 else reg (38 + i) (t.getK i).toNat
  let bar (r : Nat) : BarReg := Sp.get { addr := 0, gen := 0 } t.bars r
  let head : List Nat :=
    [pc.toNat + kind * 2 ^ 15 + recs.length * 2 ^ 17 + (match ext with | some j => 2 ^ 22 + j * 2 ^ 23 | none => 0),
     live,
     joinBits (false :: ((List.range 23).map fun i => full i (i + 1)) ++ ((List.range 16).map fun i => full (23 + i) (32 + i)) ++
       ((List.range 7).map fun i => full (39 + i) (65 + i))),
     depth + slotCore slot % 128 * 2 ^ 16 + slot % 8 * 2 ^ 24 + t.pri * 2 ^ 32 + t.cls * 2 ^ 36 +
       joinBits ((List.range 8).map fun r => (Sp.find t.bars r).isSome) * 2 ^ 40,
     t.gen.toNat, t.level.toNat, t.corr.toNat, t.stktop.toNat, t.trappc.toNat, t.trapcause.toNat, t.trapaddr.toNat,
     t.trapinfo.toNat, t.trapvec.toNat, t.trapscr.toNat, t.waitpol.toNat, t.guardmode.toNat % 2 + t.oobflag.toNat % 2 * 2,
     t.oobaddr.toNat, t.retired.toNat, t.pending, (t.region.getD 0).toNat]
  let bars : List Nat := ((List.range 4).map fun j => (bar (2 * j)).gen.toNat + (bar (2 * j + 1)).gen.toNat * 2 ^ 32) ++
    ((List.range 8).map fun r => (bar r).addr.toNat)
  let ks : List Nat := (List.range 4).map fun j => k (2 * j) + k (2 * j + 1) * 2 ^ 32
  let vs : List Nat := (List.range 16).flatMap fun i =>
    let v := reg (23 + i) (t.getV i).toNat
    (List.range 8).map fun j => v / 2 ^ (64 * j) % 2 ^ 64
  joinWords (head ++ bars ++ ((List.range 24).map g) ++ ks ++ [0, 0, 0, 0] ++ vs ++ recordImages recs 0)

/-- An extension frame's image (R188): the tabled-call stack and the data slots. -/
def extImage (t : Slot) (live : Nat) (recs : List Access) : Nat :=
  let stack := if live.testBit 46 then t.stack.map BitVec.toNat else []
  joinWords (stack ++ List.replicate (64 - stack.length) 0 ++ ((recs.flatMap recordSlots).take 16).flatMap fun v =>
    (List.range 8).map fun j => v.toNat / 2 ^ (64 * j) % 2 ^ 64)

/-- The unit of a slot as the accessor of its frame pool (R187). -/
def State.poolAccessor (s : State) (slot : Nat) (gen : BitVec 32) (level : W64) : Accessor :=
  { slot := slot, gen := gen, part := s.partOf (slotCluster slot), level := level, own := true }

/-- Saves the context of a slot (R187, R188): none where no frame can be had or written, with the state as it was. On success
the slot is idle and owns the saved context. -/
def saveContext (s : State) (slot kind : Nat) (pc : Pc) (live : Nat) (recs : List (Access × Nat)) (back : SlotState)
    (pages : List Nat) : Option State :=
  let t := s.slot slot
  let x := s.poolAccessor slot t.gen t.level
  let accs := recs.map Prod.fst
  let two := (live.testBit 46 && t.stack != []) || accs.any (fun a => recordSlots a != [])
  match takeFrames s x t.pool two with
  | (_, none) => none
  | (s1, some (i, ext)) =>
    match s1.reachLines x (frameAddr t.pool i) true 32, ext with
    | (_, none), _ => none
    | (s2, some ls), none =>
      some (finishSave (writeLines s2 (frameImage t slot kind pc live ext accs) ls) t i ext)
    | (s2, some ls), some j =>
      match s2.reachLines x (frameAddr t.pool j) true 32 with
      | (_, none) => none
      | (s3, some ls') =>
        some (finishSave (writeLines (writeLines s3 (frameImage t slot kind pc live ext accs) ls) (extImage t live accs) ls') t i ext)
where
  finishSave (s : State) (t : Slot) (i : Nat) (ext : Option Nat) : State :=
    let c : Saved :=
      { pool := t.pool, frame := i, ext := ext, gen := t.gen, level := t.level, home := t.home, part := s.partOf (slotCluster slot),
        fault := kind == 2, pages := pages, time := s.now, wake := none, cancel := false, arAbort := false, wdog := false,
        region := t.region, voted := t.voted, phase := t.phase, source := t.source, enq := t.enq, deq := t.deq,
        trapvec := t.trapvec, ist := t.ist, tags := recs.map Prod.snd, back := back, attempt := t.attempt,
        first := ((accs.head?).map Access.ea).getD 0,
        tabFail := t.tabFail, owed := t.owed, binds := t.outst.filterMap fun o : Outst => o.bind.map fun b => (o.tag, b) }
    s.setSlot slot { idleSlot t with saved := t.saved ++ [c] }
  accs : List Access := recs.map Prod.fst

/-! ## Loading a context -/

/-- Word `i` of an image. -/
def imgWord (img i : Nat) : Nat := img / 2 ^ (64 * i) % 2 ^ 64

/-- The slot an image describes (R33, R188): live registers as saved, every other register zero and FULL. -/
def loadImage (t : Slot) (c : Saved) (img ext : Nat) : Slot :=
  let w (i : Nat) : W64 := BitVec.ofNat 64 (imgWord img i)
  let fe := imgWord img 2
  let regs := (List.range 23).foldl (fun m i => Sp.set 0 m (i + 1) (w (33 + i))) ([] : Sp W64)
  let vs := (List.range 16).foldl (fun m i => Sp.set 0 m i (BitVec.ofNat 512 (img / 2 ^ (64 * (64 + 8 * i))))) ([] : Sp V512)
  let ks := (List.range 7).foldl (fun m i =>
    Sp.set 0 m (i + 1) (BitVec.ofNat 32 (img / 2 ^ (64 * 56 + 32 * (i + 1))))) ([] : Sp K32)
  let empties := (List.range 46).foldl (fun m i =>
    let code := if i < 23 then i + 1 else if i < 39 then 32 + (i - 23) else 65 + (i - 39)
    Sp.set false m code (!fe.testBit (i + 1))) ([] : Sp Bool)
  let w3 := imgWord img 3
  let pend := imgWord img 18
  let bars := (List.range 8).foldl (fun m r =>
    if (w3 / 2 ^ 40).testBit r then
      Sp.put m r { addr := w (24 + r), gen := BitVec.ofNat 32 (img / 2 ^ (64 * 20 + 32 * r)) } else m) ([] : Sp BarReg)
  { g := regs, v := vs, k := ks, fe := empties, pc := BitVec.ofNat 15 (imgWord img 0), st := c.back,
    gen := BitVec.ofNat 32 (imgWord img 4), genNext := t.genNext, level := w 5, home := c.home, corr := BitVec.ofNat 32 (imgWord img 6),
    stktop := w 7, trappc := w 8, trapcause := w 9, trapaddr := w 10, trapinfo := w 11, trapvec := w 12, trapscr := w 13,
    waitpol := w 14, guardmode := w 15 &&& 1, oobflag := (w 15 >>> 1) &&& 1, oobaddr := w 16, retired := w 17,
    cancel := pend.testBit 0 || c.cancel, arAbort := pend.testBit 1 || c.arAbort, wdog := pend.testBit 2 || c.wdog, tabFail := c.tabFail,
    guardPend := pend.testBit 3, region := if w 19 ≠ 0 then some (w 19) else c.region.filter (· == 0), voted := c.voted, bars := bars, pool := c.pool, source := c.source,
    pri := w3 / 2 ^ 32 % 4, cls := w3 / 2 ^ 36 % 16, phase := c.phase, enq := c.enq, deq := c.deq,
    stack := (List.range (w3 % 128)).map fun j => BitVec.ofNat 64 (imgWord ext j),
    saved := t.saved.filter (fun q => q.gen != c.gen), ist := c.ist, owed := c.owed }

/-- The accesses the records of an image hold, in order. -/
def imageRecords (s : State) (slot : Nat) (t : Slot) (c : Saved) (img ext : Nat) : List Access :=
  (List.range (imgWord img 0 / 2 ^ 17 % 32)).filterMap fun j =>
    recordAccess s slot t (c.tags.getD j 0) (fun i => imgWord img (192 + 4 * j + i))
      (fun m => BitVec.ofNat 512 (ext / 2 ^ (64 * (64 + 8 * m))))

/-- The image of a saved context and of its extension; none where a frame cannot be reached. -/
def readFrames (s : State) (slot : Nat) (c : Saved) : Option (State × Nat × Nat) :=
  let x := s.poolAccessor slot c.gen c.level
  match s.reachLines x (frameAddr c.pool c.frame) false 32 with
  | (_, none) => none
  | (s, some ls) =>
    match c.ext with
    | none => some (s, readLines s ls, 0)
    | some j =>
      match s.reachLines x (frameAddr c.pool j) false 32 with
      | (_, none) => none
      | (s, some ls') => some (s, readLines s ls, readLines s ls')

end Sys2Proof.Machine
end

