-- ==== Sys2Proof/Machine/Units.lean ====
section
/-! DEFINITION. What happens to a unit beside its own groups (R71 to R74, R171 to R175, R182 to R186): refusals, page faults
and wakes, saves and restores, pre-emption, asynchronous causes, the start of a unit. -/

namespace Sys2Proof.Machine
open Sys2Proof

/-! ## Withdrawing a wait (R72, R172, R183, R186) -/

/-- An operation in flight that belongs to the request of a unit's tag. -/
def opOfTag (slot : Nat) (gen : BitVec 32) (tag : Nat) (o : Op) : Bool :=
  match o.ins with
  | .scratchpadAccess a _ => a.slot == slot && a.gen == gen && a.tag == tag
  | .sliceAccess a _ | .syncWordUpdate a _ => a.slot == slot && a.gen == gen && a.tag == tag
  | .tabledRequest r => r.slot == slot && r.gen == gen && r.tag == tag
  | .fill sl g tg _ => sl == slot && g == gen && tg == tag
  | .barrierArrival _ _ sl g tg _ => sl == slot && g == gen && tg == tag
  | .cqPushArrival | .cqPushRetry | .cqPopRequest =>
    o.data.take 3 == [BitVec.ofNat 64 slot, gen.setWidth 64, BitVec.ofNat 64 tag]
  | _ => false

/-- A request in flight that no NI has received yet: SENT has counted it, if it is tagged (R141). -/
def Op.undelivered (o : Op) : Bool :=
  o.inj.isNone && (match o.ins with
    | .scratchpadAccess _ _ | .sliceAccess _ _ => o.data.isEmpty
    | .cqPushArrival | .cqPushRetry | .cqPopRequest => o.data.getLast? != some 1
    | _ => true)

/-- Takes a request, or its answer, out of what is in flight; what no NI has received is delivered as it goes (assumption 50). -/
def dropFlying (s : State) (slot : Nat) (gen : BitVec 32) (tag : Nat) : State :=
  let ops := s.agenda ++ (s.cluster (slotCluster slot)).heldOps
  let s := (ops.filter fun o => opOfTag slot gen tag o && o.undelivered).foldl (fun s _ => s.deliverTag (slotCore slot) tag) s
  let rest (l : List Op) : List Op := l.filter fun o => !opOfTag slot gen tag o
  let s := s.updCluster (slotCluster slot) fun k => { k with haltHeld := k.haltHeld.filter fun q => !opOfTag slot gen tag q.2 }
  { s with agenda := rest s.agenda, slices := s.slices.map fun (x : Nat × Slice) => (x.1, { x.2 with stalled := rest x.2.stalled }) }

/-- Takes a request out of every place where it may wait at its home. -/
def dropRequest (s : State) (slot : Nat) (gen : BitVec 32) (tag : Nat) : State :=
  let mine (a : Asker) : Bool := a.slot == slot && a.gen == gen && a.tag == tag
  let part := s.partOf (slotCluster slot)
  let s := dropFlying s slot gen tag
  let s := { s with
                    parked := s.parked.filter (fun p => !(p.slot == slot && p.gen == gen && p.tag == tag)),
                    barWait := s.barWait.filter (fun b => !mine b.who),
                    levels := s.levels.map fun (l : Nat × Level) => (l.1, { l.2 with waiters := l.2.waiters.filter (fun a => !mine a) }) }
  let s := s.updPart part fun q => { q with quiets := q.quiets.filter (fun r => !mine r.who) }
  s.updCluster (slotCluster slot) fun c =>
    { c with pops := c.pops.filter (fun p => !(p.slot == slot && p.gen == gen && p.tag == tag)),
             held := c.held.filter (fun o => !opOfTag slot gen tag o),
             arr := { c.arr with leaseQ := c.arr.leaseQ.filter (fun a => !mine a),
                                 waitQ := c.arr.waitQ.filter (fun a => !mine a.1) } }

/-- Takes a slot out of the waiting list of the entry its stack names last (R109, R113). -/
def leaveWaiting (s : State) (slot : Nat) : State :=
  let t := s.slot slot
  let leave (p : Pigeon) : Pigeon := { p with waiters := p.waiters.filter (fun w => !(w.slot == slot && w.gen == t.gen)) }
  match t.stack.getLast? with
  | none => s
  | some e =>
    match s.physCluster (s.partOf (slotCluster slot)) (bits e 55 49) with
    | none => s
    | some c => s.updCluster c fun x =>
        match Sp.find x.pigeon (bits e 48 35) with
        | none => x
        | some p => { x with pigeon := Sp.put x.pigeon (bits e 48 35) (leave p) }

/-- An answer for a unit's wait is on its way: the condition comes before an expiry. -/
def answerFlying (s : State) (slot : Nat) (gen : BitVec 32) (tag : Nat) : Bool :=
  (s.agenda ++ s.due ++ (s.cluster (slotCluster slot)).heldOps).any fun o => match o.ins with
    | .fill sl g tg _ => sl == slot && g == gen && tg == tag
    | .refusalArrival sl g tg _ _ => sl == slot && g == gen && tg == tag
    | .faultReply sl g tg _ => sl == slot && g == gen && tg == tag
    | .tabledDelivery d => d.slot == slot && d.gen == gen
    | _ => false

/-- Withdraws the wait of a slot with no effect: its group has not issued, and its destinations are FULL with what they
held. A CONSUMER's entry is popped again. The group's first attempt stands (R179). -/
def withdraw (s : State) (slot : Nat) : State :=
  let t := s.slot slot
  match t.st with
  | .waiting (.answer tag) =>
    let ds := ((t.outst.find? (fun o : Outst => o.tag == tag)).map Outst.dests).getD []
    let s := dropRequest s slot t.gen tag
    s.updSlot slot fun t =>
      { ds.foldl (fun t c => t.setEmpty c false) t with
          outst := t.outst.filter (fun o : Outst => o.tag != tag), st := .ready }
  | .waiting _ => s.updSlot slot fun t => { t with st := .ready }
  | .suspended .consumer =>
    (leaveWaiting s slot).updSlot slot fun t => { t with st := .ready, stack := t.stack.dropLast }
  | .suspended .member => (leaveWaiting s slot).updSlot slot fun t => { t with st := .ready }
  | .suspended .arcom =>
    let ds := ((t.outst.find? (fun o : Outst => o.len != 0)).map Outst.dests).getD []
    s.updSlot slot fun t =>
      { ds.foldl (fun t c => t.setEmpty c false) t with
          outst := t.outst.filter (fun o : Outst => o.len == 0), st := .ready }
  | _ => s

/-- A wait that may be withdrawn: any but that of a form whose request has left the core and will be answered. -/
def Slot.softWait (t : Slot) : Bool :=
  match t.st with
  | .waiting (.answer tag) => ((t.outst.find? (fun o : Outst => o.tag == tag)).map Outst.soft).getD true
  | .suspended .fault => false
  | _ => true

/-- The tag of the form that keeps a slot waiting; 0 for one whose entry is at its home alone. -/
def Slot.waitTag (t : Slot) : Nat := ((t.outst.find? fun o : Outst => o.len != 0).map Outst.tag).getD 0

/-- The same of a slot, where what its form did at its home stands once the answer is on its way (R186, R325, R337): a wake of a CONSUMER, a
MEMBER or an ARCOM comes first. -/
def State.softWait (s : State) (slot : Nat) : Bool :=
  let t := s.slot slot
  t.softWait && (match t.st with
    | .waiting (.answer tag) => !answerFlying s slot t.gen tag
    | .suspended _ => !answerFlying s slot t.gen t.waitTag
    | _ => true)

/-- A wait of R183's third case: on a port, a queue, a lease or a wait instruction. -/
def State.openWait (s : State) (slot : Nat) : Bool :=
  match (s.slot slot).st with
  | .waiting (.answer _) => s.softWait slot
  | .waiting (.portIn _) | .waiting (.portOut _) => true
  | _ => false

/-- A slot stands at a group that has not issued: ready, or in a wait of the core's own. -/
def Slot.atGroup (t : Slot) : Bool :=
  match t.st with
  | .ready => true
  | .waiting (.answer _) => false
  | .waiting _ => true
  | _ => false

/-! ## Refusals and fault replies (R72, R185) -/

/-- Issue stops for a slot: a wait for an answer that may not come is withdrawn (R72). -/
def stopSlot (s : State) (slot : Nat) : State :=
  let t := s.slot slot
  if t.stopped then s else
  let s := match t.st with
    | .waiting (.answer tag) =>
      if ((t.outst.find? (fun o : Outst => o.tag == tag)).map fun (o : Outst) => o.soft && o.reply.isNone).getD false && s.softWait slot
      then withdraw s slot else s
    | _ => s
  s.updSlot slot fun t => { t with stopped := true }

/-- The answer an entry of a resident unit has met. -/
def markReply (s : State) (slot tag : Nat) (r : Reply) : State :=
  s.updSlot slot fun t => { t with outst := t.outst.map fun o : Outst => if o.tag = tag then { o with reply := some r } else o }

/-- The unit a message names is resident in its slot and has the entry. -/
def State.hasEntry (s : State) (slot : Nat) (gen : BitVec 32) (tag : Nat) : Bool :=
  let t := s.slot slot
  t.st != .idle && t.gen == gen && t.outst.any (fun o : Outst => o.tag == tag)

/-- A refusal arrives (R185): for a resident unit issue stops; for a killed unit's write, the write is dropped (R175). -/
def refusalArrival (s : State) (slot : Nat) (gen : BitVec 32) (tag cause : Nat) (addr : W64) : State :=
  let s := s.deliverTag (slotCore slot) tag
  if s.hasEntry slot gen tag then stopSlot (markReply s slot tag (.refused cause addr)) slot
  else
    let known := s.orphans.any (fun o : Orphan => o.slot == slot && o.gen == gen && o.entry.tag == tag)
    let s := { s with orphans := s.orphans.filter (fun o : Orphan => !(o.slot == slot && o.gen == gen && o.entry.tag == tag)),
                      assembly := Sp.erase s.assembly tag }
    if known then s else
      s.updCore (slotCore slot) fun c => { c with count := { c.count with gendrop := c.count.gendrop + 1 } }

def execRefusalArrival (slot : Nat) (gen : BitVec 32) (tag cause : Nat) (addr : W64) (s : State) : Out :=
  .next (refusalArrival s slot gen tag cause addr)

/-- Sends a fault record from a cluster's NI toward the fault service (R72, R73): the NI lists who waits. -/
def sendFault (s : State) (cluster : Nat) (r : FaultRec) : State :=
  let r := { r with src := cluster }
  (s.updCluster cluster fun c => { c with faultWait := c.faultWait ++ [r] }).post (.faultRecordAtRouter cluster 0 r)

/-- The address of an access as R42 and R74 give it: of several pieces, the lowest one's. -/
def headAddr (a : Access) : W64 := (((accPieces a).head?).map Piece.ea).getD a.ea

/-- The address at which an entry has faulted (R42): that of the lowest piece that did, or of a form that captures no access. -/
def faultAddr (s : State) (o : Outst) : W64 :=
  match (Sp.find s.assembly o.tag).bind lowestFault, o.acc with
  | some q, _ => q.2.2
  | none, some a => headAddr a
  | none, none => o.addr

/-- A fault reply arrives (R72): issue stops; with no fault service configured it is a precise PAGE trap (R71); a killed
unit's write sends its own record, or is dropped at its second fault (R175). -/
def faultReply (s : State) (slot : Nat) (gen : BitVec 32) (tag page : Nat) : State :=
  let s := s.deliverTag (slotCore slot) tag
  let part := s.partOf (slotCluster slot)
  if s.hasEntry slot gen tag then
    let addr := ((s.slot slot).outst.find? (fun o : Outst => o.tag == tag)).map (faultAddr s)
    let r : Reply := if (s.part part).faultCore.isNone then .refused causePage (addr.getD 0) else .fault page
    stopSlot (markReply s slot tag r) slot
  else
    match s.orphans.find? (fun o : Orphan => o.slot == slot && o.gen == gen && o.entry.tag == tag) with
    | none => s.updCore (slotCore slot) fun c => { c with count := { c.count with gendrop := c.count.gendrop + 1 } }
    | some o =>
      if o.entry.reply.isSome ∨ (s.part part).faultCore.isNone then
        { s with orphans := s.orphans.filter (fun q : Orphan => !(q.slot == slot && q.gen == gen && q.entry.tag == tag)) }
      else
        let o' : Orphan := { o with entry := { o.entry with reply := some (.fault page) } }
        sendFault { s with orphans := s.orphans.map fun q : Orphan =>
            if q.slot = slot ∧ q.gen = gen ∧ q.entry.tag = tag then o' else q } (slotCluster slot)
          { part := part, page := page, slot := slot, gen := gen, engine := 4, id := tag }

def execFaultReply (slot : Nat) (gen : BitVec 32) (tag page : Nat) (s : State) : Out :=
  .next (faultReply s slot gen tag page)

/-- Every awaited access of a stopped slot has come to rest (R72, R185): an answer, or a release still held. -/
def Slot.settled (t : Slot) : Bool := t.outst.all fun o : Outst => o.reply.isSome || o.held

/-- The earliest access of a slot that was refused or met a fault (R185). -/
def Slot.deciding (t : Slot) : Option Outst :=
  t.outst.foldl (fun (b : Option Outst) (o : Outst) => if o.reply.isNone then b else
    match b with
    | none => some o
    | some q => if o.tag < q.tag then some o else b) none

/-- A suspended wait of a slot ends where an earlier access of the unit traps (R74, R185): it is withdrawn, and so is a wake on its way, whose
form issues again. -/
def endSuspension (s : State) (slot : Nat) : State :=
  let t := s.slot slot
  let mine (o : Op) : Bool := match o.ins with
    | .tabledDelivery d => d.slot == slot && d.gen == t.gen
    | _ => false
  match t.st with
  | .suspended .fault => s
  | .suspended _ =>
    let ops := s.agenda ++ (s.cluster (slotCluster slot)).heldOps
    let s := (ops.filter fun o => mine o && o.inj.isNone).foldl (fun s o => match o.ins with
      | .tabledDelivery d => s.deliverTag (slotCore slot) d.tag
      | _ => s) s
    let s := s.updCluster (slotCluster slot) fun k => { k with haltHeld := k.haltHeld.filter fun q => !mine q.2 }
    withdraw { s with agenda := s.agenda.filter fun o => !mine o } slot
  | _ => s

/-- Discards every entry of a slot, their destinations FULL with what they held (R185), and what is in flight for them. -/
def discardEntries (s : State) (slot : Nat) : State :=
  let t := s.slot slot
  let tags := t.outst.map Outst.tag
  let t' := (t.outst.flatMap Outst.dests).foldl (fun t c => t.setEmpty c false) t
  let s := { s with assembly := s.assembly.filter (fun m => !tags.contains m.1),
                    agenda := s.agenda.filter (fun o => match o.ins with
                      | .releaseSend sl g tg => !(sl == slot && g == t.gen && tags.contains tg)
                      | _ => true) }
  s.setSlot slot { t' with outst := [] }

/-- REFUSAL_TRAP of the slot State.cur (R185): the deciding access's refusal traps at its group; every later access that was refused or
faulted, every form not awaited, and a trap that a later group still owes, is discarded. -/
def refusalTrap (s : State) : State :=
  let slot := s.cur
  match (s.slot slot).deciding with
  | none => s
  | some o =>
    match o.reply with
    | some (.refused cause addr) =>
      let s := discardEntries (endSuspension s slot) slot
      let s := s.updSlot slot fun t => { t with stopped := false, st := .ready, attempt := none, owed := none }
      trapEntry s slot o.pc { cause := cause, addr := addr }
    | _ => s

def execRefusalTrap (s : State) : Out := .next (refusalTrap s)

/-! ## The fault save (R72, R187) -/

/-- The record of an entry (R72, R189, R273): of an access in several pieces, the lanes that faulted. -/
def entryRecord (s : State) (o : Outst) : Option (Access × Nat) :=
  match o.acc with
  | none => none
  | some a =>
    if o.len ≠ 0 then none else
    match Sp.find s.assembly o.tag with
    | some m => if (accPieces a).length ≤ 1 then some (a, o.tag) else some ({ a with lanes := m.failed, masked := true }, o.tag)
    | none => some (a, o.tag)

/-- The lanes that came back of a faulted access in several pieces, written into its destination, which stays EMPTY (R273). -/
def partialLanes (s : State) (t : Slot) (o : Outst) : Slot :=
  match o.acc, Sp.find s.assembly o.tag with
  | some a, some m =>
    if (a.op = .vld ∨ a.op = .gath) ∧ 1 < (accPieces a).length then
      let d := a.dest - 32
      { t with v := Sp.set 0 t.v d (maskV false (a.lanes &&& ~~~m.failed) (t.getV d) fun i => lane 32 i m.data) }
    else t
  | _, _ => t

/-- The pages a slot's accesses have faulted on (R72): every page of every piece, each once. -/
def faultPages (s : State) (t : Slot) : List Nat :=
  (t.outst.flatMap fun o : Outst => match o.reply with
    | some (.fault p) => p :: ((Sp.find s.assembly o.tag).map fun m => m.faults.map fun q => q.2.1).getD []
    | _ => []).eraseDups

/-- The address of the earliest access a stopped slot has recorded or held (R74); where none is, of what has faulted. -/
def firstAddr (s : State) (t : Slot) (recs : List (Access × Nat)) : W64 :=
  match recs.head? with
  | some r => headAddr r.1
  | none => (t.deciding.map (faultAddr s)).getD 0

/-- FAULT_SAVE of the slot State.cur (R72): what arrived is in the registers; records, context and fault records go out, and the
slot is free. Without a frame the slot stays suspended, its accesses held, until the wake (R187). -/
def faultSave (s : State) : State :=
  let slot := s.cur
  let t0 := s.slot slot
  let pages := faultPages s t0
  let rest := t0.outst.filter fun o : Outst => o.reply.isSome || o.held
  let s := s.setSlot slot (rest.foldl (partialLanes s) t0)
  let keep := rest.filter fun o : Outst => (entryRecord s o).isNone
  let s := s.updSlot slot fun t => (keep.flatMap Outst.dests).foldl (fun t c => t.setEmpty c false) t
  let t := s.slot slot
  let recs := rest.filterMap (entryRecord s)
  let back : SlotState := match t.st with
    | .suspended w => .suspended w
    | _ => .ready
  let part := s.partOf (slotCluster slot)
  let first := firstAddr s t0 recs
  let s' := match saveContext s slot 2 t.pc liveAll recs back pages with
    | some s' =>
      let s' := { s' with assembly := s'.assembly.filter (fun m => !(rest.map Outst.tag).contains m.1),
                          agenda := s'.agenda.filter (fun o => match o.ins with
                            | .releaseSend sl g tg => !(sl == slot && g == t.gen && (rest.map Outst.tag).contains tg)
                            | _ => true) }
      s'.updSlot slot fun q => { q with saved := q.saved.map fun c =>
        if c.gen = t.gen then { c with first := first } else c }
    | none => s.updSlot slot fun t =>
        { t with st := (match t.st with | .suspended w => .suspended w | _ => .suspended .fault), first := first,
                 outst := t.outst.filter (fun o : Outst => o.len == 0), pages := pages }
  pages.foldl (fun s p => sendFault s (slotCluster slot)
    { part := part, page := p, slot := slot, gen := t.gen, engine := 0, id := 0 }) s'

def execFaultSave (s : State) : Out := .next (faultSave s)

/-! ## The fault tree (R73, R74) -/

/-- The router of a partition's fault service. -/
def State.serviceRouter (s : State) (part : Nat) : Nat := coreCluster ((s.part part).faultCore.getD 0)

/-- The fault service answers a record that has come to its router (R74): with a verdict of its own, and at READY a frame it may give the page
(R442). DEDUCED (assumption 145): both are free values. -/
def serviceAnswers (s : State) (r : Nat) (f : FaultRec) (loose : Bool) : State :=
  let s := s.tick
  let ready := Config.verdict s.ticket
  let s := match if ready then Config.serviceFrame s.ticket else none with
    | some frame => s.mapPage f.part f.page frame
    | none => s
  s.post (.faultWakeAtRouter r { part := f.part, page := f.page, ready := ready, via := if loose then some f.src else none })

/-- A fault record arrives at a router on a port (R73): merged, entered and forwarded, or forwarded unmerged. At the fault
service's own router the service answers it. -/
def faultRecordAt (s : State) (r port : Nat) (f : FaultRec) : State :=
  let t := s.router r
  let dst := s.serviceRouter f.part
  let child : Nat × Option Nat := (port, if f.loose then some f.src else none)
  let fwd (s : State) (loose : Bool) : State :=
    if r = dst then serviceAnswers s r f loose
    else
      let p := s.portTo r dst
      s.post (.faultRecordAtRouter (routerStep r p) (backPort p) { f with loose := loose })
  match t.merge.find? (fun e => e.part == f.part && e.page == f.page) with
  | some _ =>
    s.setRouter r { t with merge := t.merge.map fun e =>
      if e.part = f.part ∧ e.page = f.page then
        { e with ports := if e.ports.contains port then e.ports else e.ports ++ [port],
                 paths := if e.paths.contains child then e.paths else e.paths ++ [child] } else e }
  | none =>
    if t.merge.length < 64 then
      let e : MergeEntry := { part := f.part, page := f.page, ports := [port], paths := [child] }
      fwd (s.setRouter r { t with merge := t.merge ++ [e] }) false
    else fwd s true

def execFaultRecordAtRouter (router port : Nat) (r : FaultRec) (s : State) : Out := .next (faultRecordAt s router port r)

/-- The router before another one on a way. -/
def routerBefore (r : Nat) : List Nat → Option Nat
  | a :: b :: l => if b = r then some a else routerBefore r (b :: l)
  | _ => none

/-- A wake goes from a router along the path of the unmerged record it answers (R73): to its cluster, or a router nearer to it. -/
def wakeAlong (s : State) (r : Nat) (w : Wake) : State :=
  match w.via with
  | none => s
  | some c =>
    if c = r then s.post (.faultWake r w) else
    match routerBefore r (pathTo s c (s.serviceRouter w.part) 32) with
    | some q => s.post (.faultWakeAtRouter q w)
    | none => s

/-- A wake arrives at a router (R73): a copy to each port of its entry, on which it answers the record that has come there, or, where it has
none, along the path of the unmerged record it answers; an entry made since that record has passed does not keep it from its own. -/
def faultWakeAt (s : State) (r : Nat) (w : Wake) : State :=
  let t := s.router r
  match t.merge.find? (fun e => e.part == w.part && e.page == w.page) with
  | some e =>
    let s := s.setRouter r { t with merge := t.merge.filter fun e => !(e.part == w.part && e.page == w.page) }
    let s := e.paths.foldl (fun s p => if p.1 = 0 then s.post (.faultWake r { w with via := p.2 })
      else s.post (.faultWakeAtRouter (routerStep r p.1) { w with via := p.2 })) s
    if w.via.isSome ∧ e.paths.all (fun p => p.2 != w.via) then wakeAlong s r w else s
  | none => wakeAlong s r w

def execFaultWakeAtRouter (router : Nat) (w : Wake) (s : State) : Out := .next (faultWakeAt s router w)

/-- The request a recorded TQRY makes again (R359). -/
def queryOf (s : State) (a : Access) : TabledReq :=
  { kind := 4, slot := a.slot, gen := a.gen, tag := a.tag, part := a.part, desc := a.ea,
    args := (List.range 4).map fun i => BitVec.ofNat 64 (a.offs.toNat / 2 ^ (64 * i)), level := a.level,
    home := (s.slot a.slot).home, idx := a.d0.toNat, words := [] }

/-- Sends an access of a slot that was held after a fault once more (R74): only the lanes that faulted. -/
def resend (s : State) (slot : Nat) (o : Outst) : State :=
  match o.acc with
  | none => s
  | some a =>
    match o.reply with
    | some _ =>
      let a' := match Sp.find s.assembly o.tag with
        | some m => if (accPieces a).length ≤ 1 then a else { a with lanes := m.failed, masked := true }
        | none => a
      let s := { s with assembly := Sp.erase s.assembly o.tag }
      let s := s.updSlot slot fun t => { t with outst := t.outst.map fun q : Outst =>
        if q.tag = o.tag then { q with reply := none, acc := some a' } else q }
      match a'.op with
      | .swadd => s.sendTag (slotCore slot) a'.part a'.tag { ins := .syncWordUpdate a' 0 }
      | .tqry => s.sendTag (slotCore slot) a'.part a'.tag { ins := .tabledRequest (queryOf s a') }
      | _ => sendPieces s a'
    | none => s

/-- The entries a slot has recorded without a frame, in the order of issue. -/
def Slot.recorded (t : Slot) : List Outst := t.outst.filter fun o : Outst => o.reply.isSome || o.held

/-- A wake reaches a slot (R74): of a saved context it is kept for the restore; a slot suspended without a frame goes on, or
traps ADDR at its first recorded access, or at the group whose descriptor faulted. -/
def wakeSlot (s : State) (slot : Nat) (gen : BitVec 32) (page : Nat) (ready : Bool) : State :=
  let t := s.slot slot
  if t.saved.any (fun c => c.gen == gen) then
    s.setSlot slot { t with saved := t.saved.map fun c =>
      if c.gen = gen ∧ c.wake.isNone ∧ c.pages.contains page then { c with wake := some (s.now, ready) } else c }
  else if t.st ≠ .idle ∧ t.gen = gen ∧ t.pages.contains page then
    if ready then
      let s := t.outst.foldl (fun s o => resend s slot o) s
      s.updSlot slot fun t => { t with pages := [], stopped := false,
                                       st := if t.st = .suspended .fault then .ready else t.st }
    else
      let pc := ((t.recorded.head?).map Outst.pc).getD t.pc
      let s := discardEntries (endSuspension s slot) slot
      let s := s.updSlot slot fun t => { t with pages := [], stopped := false, st := .ready, attempt := none, owed := none }
      trapEntry s slot pc { cause := causeAddr, addr := t.first }
  else s.updCore (slotCore slot) fun c => { c with count := { c.count with gendrop := c.count.gendrop + 1 } }

/-- A wake reaches the write of a killed unit (R175): READY performs it once, DENY drops it. -/
def wakeOrphan (s : State) (slot : Nat) (gen : BitVec 32) (tag : Nat) (ready : Bool) : State :=
  match s.orphans.find? (fun o : Orphan => o.slot == slot && o.gen == gen && o.entry.tag == tag) with
  | none => s
  | some o =>
    if !ready then { s with orphans := s.orphans.filter (fun q : Orphan => !(q.slot == slot && q.gen == gen && q.entry.tag == tag)) }
    else
      match o.entry.acc with
      | none => s
      | some a =>
        match a.op with
        | .swadd => s.sendTag (slotCore slot) a.part a.tag { ins := .syncWordUpdate a 0 }
        | _ =>
          let a' := match Sp.find s.assembly tag with
            | some m => if (accPieces a).length ≤ 1 then a else { a with lanes := m.failed, masked := true }
            | none => a
          sendPieces { s with assembly := Sp.erase s.assembly tag } a'

/-! ## Restore (R184) -/

/-- The oldest of the saved contexts that satisfy a predicate, by a time; the earlier save first. -/
def oldestSaved (l : List Saved) (p : Saved → Bool) (time : Saved → Nat) : Option Saved :=
  l.foldl (fun (b : Option Saved) c => if !p c then b else
    match b with
    | none => some c
    | some q => if time c < time q then some c else b) none

/-- A core has room for the replay of a context (R173): one woken with DENY replays nothing. -/
def replayRoom (s : State) (slot : Nat) (c : Saved) : Bool :=
  (match c.wake with
    | some (_, true) => false
    | _ => true) || decide (s.coreEntries (slotCore slot) + c.tags.length ≤ 32)

/-- The ring entry an idle slot may take (R82): of the lowest class bound to it. A wake for a saved context stays in its ring (R184). -/
def State.slotEntry (s : State) (slot : Nat) : Option (Nat × Nat × W64) :=
  let core := slotCore slot
  (List.range 16).findSome? fun cls =>
    let w := (s.core core).cls cls
    if !clsOn w ∨ clsSlot w ≠ slot % 8 then none else
    match s.ringHead core cls with
    | none => none
    | some (i, h) =>
      if bits h 7 0 = 2 ∧ bits h 63 32 ≠ 0 then none
      else some (cls, i, h)

/-- The saved context an idle slot restores before it takes a ring entry, or where none waits (R184, R190): of those whose frames can be
reached, the oldest woken one, else the oldest pre-empted one that has waited 2^16 cycles, else, with no ring entry, the oldest
pre-empted one. -/
def restoreChoice (s : State) (slot : Nat) : Option Saved :=
  let l := (s.slot slot).saved.filter fun c => (readFrames s slot c).isSome
  match oldestSaved l (fun c => c.wake.isSome) (fun c => (c.wake.getD (0, true)).1) with
  | some c => some c
  | none =>
    match oldestSaved l (fun c => !c.fault && decide (c.time + 2 ^ 16 ≤ s.now)) Saved.time with
    | some c => some c
    | none => if (s.slotEntry slot).isSome then none else oldestSaved l (fun c => !c.fault) Saved.time

/-- The slot restores a context now: its turn has come (R184), and the core has room for its replay. -/
def restoresNow (s : State) (slot : Nat) : Bool := ((restoreChoice s slot).map (replayRoom s slot)).getD false

/-- The entry of a replayed access (R74, R189); a REL's with its binding. -/
def replayEntry (s : State) (a : Access) (b : Option Bind) : Outst :=
  { tag := a.tag, pc := a.pc, access := true, vector := opVector a.op,
    dests := if opFills a.op then [a.dest] else [], lines := accessLines s a, write := opWrites a.op,
    acc := some a, held := a.op == .rel || a.op == .swadd || a.op == .dcdec, reply := none, len := 0, soft := false, bind := b }

/-- Re-issues a recorded access (R74): releases are held again until their condition holds. -/
def replayAccess (s : State) (slot : Nat) (binds : List (Nat × Bind)) (a : Access) : State :=
  let o := replayEntry s a ((binds.find? fun q => q.1 == a.tag).map Prod.snd)
  let s := s.updSlot slot fun t => { t with outst := t.outst ++ [o] }
  match a.op with
  | .tqry => s.sendTag (slotCore slot) a.part a.tag { ins := .tabledRequest (queryOf s a) }
  | .rel | .swadd | .dcdec => s.post (.releaseSend slot a.gen a.tag)
  | _ => sendPieces s a

/-- Puts the end of a wait that goes on, its limit's or the watchdog's, on the timers (R144, R179). -/
def armWait (s : State) (slot : Nat) (a : Attempt) : State :=
  let t := s.slot slot
  match a.limit, a.watched with
  | some l, _ => s.postAt (Nat.max (s.now + 1) (a.since + l + 1)) (.waitTimeout slot t.gen a.id)
  | none, some w =>
    s.postAt (Nat.max (s.now + 1) (w + (s.part (s.partOf (slotCluster slot))).wdogwin.toNat)) (.watchdog slot t.gen a.id)
  | none, none => s

/-- CONTEXT_RESTORE of the idle slot State.cur (R33, R74, R184): the registers come from the frame, the frames are free
again; READY replays the records in order, DENY traps ADDR at the first recorded access. -/
def contextRestore (s : State) : State :=
  let slot := s.cur
  match restoreChoice s slot with
  | none => s
  | some c =>
    match readFrames s slot c with
    | none => s
    | some (s, img, ext) =>
      let t0 := s.slot slot
      let t := loadImage t0 c img ext
      let s := freeSaved s slot c
      let late := s.now - c.time
      let t := { t with attempt := c.attempt.map fun a =>
        { a with since := a.since + late, id := s.ticket, watched := a.watched.map (· + late) } }
      let s := s.tick.setSlot slot t
      let s := match t.attempt with
        | some a => armWait s slot a
        | none => s
      let recs := imageRecords s slot t c img ext
      match c.wake with
      | some (_, false) =>
        let s := (endSuspension s slot).updSlot slot fun t =>
          { (recs.filter (fun a => opFills a.op)).foldl (fun t a => t.setEmpty a.dest false) t with st := .ready, attempt := none, owed := none }
        let pc := ((recs.head?).map Access.pc).getD t.pc
        let addr := ((recs.head?).map headAddr).getD c.first
        trapEntry s slot pc { cause := causeAddr, addr := addr }
      | _ => recs.foldl (fun s a => replayAccess s slot c.binds a) s

def execContextRestore (s : State) : Out := .next (contextRestore s)

/-- A wake of a running unit at the head of a ring of the slot (R82): it waits for the restore of a saved context it names (R184). -/
def State.wakeEntry (s : State) (slot : Nat) : Option (Nat × Nat × W64) :=
  let core := slotCore slot
  (List.range 16).findSome? fun cls =>
    let w := (s.core core).cls cls
    if !clsOn w ∨ clsSlot w ≠ slot % 8 then none else
    match s.ringHead core cls with
    | none => none
    | some (i, h) =>
      if bits h 7 0 = 2 ∧ bits h 63 32 ≠ 0 ∧ !(s.slot slot).saved.any (fun c => c.gen.toNat == bits h 63 32) then some (cls, i, h) else none

/-- A class of an idle slot whose ring holds padding only. -/
def State.padClass (s : State) (slot : Nat) : Option Nat :=
  if (s.slot slot).st ≠ .idle then none else
  (List.range 16).find? fun cls =>
    let w := (s.core (slotCore slot)).cls cls
    clsOn w && clsSlot w == slot % 8 && s.padOnly (slotCore slot) cls

/-- A slot takes something from its rings, whether it is idle or not. -/
def State.takesEntry (s : State) (slot : Nat) : Bool :=
  (s.wakeEntry slot).isSome || (s.padClass slot).isSome || ((s.slot slot).st == .idle && (s.slotEntry slot).isSome)

/-- UNIT_START of the slot State.cur (R82): a wake at the head of a ring is passed to the running unit it names, or dropped and counted
(R27); padding with nothing behind it is passed; an idle slot starts a unit from the entry at the head of its lowest class's ring. -/
def unitStart (s : State) : State :=
  let slot := s.cur
  let core := slotCore slot
  match s.wakeEntry slot with
  | some (cls, i, h) =>
    let t := s.slot slot
    let w := (s.core core).cls cls
    let here := t.st != .idle && t.gen.toNat == bits h 63 32
    s.updCore core fun c =>
      { c with heads := Sp.set 0 c.heads cls ((i + bits h 15 8) % clsSize w), entries := Sp.erase c.entries (cls * 8192 + i),
               count := { c.count with gendrop := c.count.gendrop + if here then 0 else 1 } }
  | none =>
    match s.padClass slot with
    | some cls => s.updCore core fun c => { c with heads := Sp.set 0 c.heads cls (c.tail cls) }
    | none =>
      if (s.slot slot).st ≠ .idle then s else
      match s.slotEntry slot with
      | none => s
      | some (cls, i, h) => startFromEntry s core cls i h

def execUnitStart (s : State) : Out := .next (unitStart s)

/-! ## Pre-emption (R126, R182, R183, R380) -/

/-- The live mask of the side table for a PC (R126). A header or an entry that breaks the rules may make points be missed: here
a table with a bad header has none, and the first entry with the PC counts. -/
def sideEntry (s : State) (core pc : Nat) : Option Nat :=
  let h := s.read (istoreLoc core 0x7FF8) 8
  let count := h % 65536
  let base := h / 65536 % 65536
  if h / 2 ^ 32 ≠ 0 ∨ 4095 < count ∨ base % 8 ≠ 0 ∨ 0x7FF8 < base + 8 * count then none else
  sideSearch s core base pc count
where
  sideSearch (s : State) (core loc pc : Nat) : Nat → Option Nat
    | 0 => none
    | n + 1 =>
      let e := s.read (istoreLoc core loc) 8
      if e % 2 ^ 15 = pc ∧ e / 2 ^ 62 = 0 then some (e / 2 ^ 15 % 2 ^ 47) else sideSearch s core (loc + 8) pc n

/-- A pre-emption request is dropped (R183): counted under FRAMEFULL; a scheduler's record may ask again later. -/
def dropPreempt (s : State) (slot : Nat) : State :=
  let c := slotCluster slot
  let s := s.updSlot slot fun t => { t with preempt := none }
  let s := s.updCore (slotCore slot) fun k => { k with count := { k.count with framefull := k.count.framefull + 1 } }
  let asked := (s.cluster c).ready.filter fun r => r.ask == some slot
  let s := s.updCluster c fun x => { x with ready := x.ready.map fun r => if r.ask = some slot then { r with ask := none } else r }
  asked.foldl (fun s r => { s with timers := Sp.put s.timers (s.now + 4096) (Sp.get [] s.timers (s.now + 4096) ++
    [{ who := c, data := [BitVec.ofNat 64 r.seq], ins := .preemptRequest }]) }) s

/-- Saves a context for a pre-emption: kind, resume PC and live mask; without a frame the request is dropped. -/
def preemptSave (s : State) (slot kind : Nat) (pc : Pc) (live : Nat) : State :=
  match saveContext s slot kind pc live [] .ready [] with
  | some s' => s'
  | none => dropPreempt s slot

/-- PREEMPTION of the slot State.cur (R183): at a side-table point before its group issues, or of a context that waits in the open, whose
group is withdrawn once it has a frame. -/
def preemption (s : State) : State :=
  let slot := s.cur
  let t := s.slot slot
  if s.openWait slot then
    let s' := withdraw s slot
    match saveContext s' slot 1 (s'.slot slot).pc liveAll [] .ready [] with
    | some s'' => s''
    | none => dropPreempt s slot
  else if t.atGroup then
    match sideEntry s (slotCore slot) t.pc.toNat with
    | some live => preemptSave s slot 0 t.pc live
    | none => s
  else s

def execPreemption (s : State) : Out := .next (preemption s)

/-- PREEMPTION_FORCED of the slot State.cur (R183): 2^16 groups after the request, every register is saved. -/
def preemptionForced (s : State) : State := preemptSave s s.cur 1 (s.slot s.cur).pc liveAll

def execPreemptionForced (s : State) : Out := .next (preemptionForced s)

/-- YIELD (R183, R380): the context saves itself once its accesses have completed, and goes on at the next group. Without a
frame it does nothing. -/
def execYield (x : Fld) (s : State) : Out :=
  .next (issue uNone x s fun _ s =>
    if !s.holds s.cur .settled then .wait .settled none false 0 else
    let slot := s.cur
    let t := s.slot slot
    let pc := nextPc x t
    let live := (sideEntry s (slotCore slot) t.pc.toNat).getD liveAll
    let s' := s.setSlot slot (t.retire pc)
    match saveContext s' slot 3 (BitVec.ofNat 15 pc) live [] .ready [] with
    | some s'' => .gone s''
    | none => .next (s.updCore (slotCore slot) fun k => { k with count := { k.count with framefull := k.count.framefull + 1 } }))

/-! ## Asynchronous causes (R186) -/

/-- ASYNC_CAUSE_DELIVERY (R186): a cause becomes pending. -/
def execAsyncCauseDelivery (slot : Nat) (gen : BitVec 32) (cause : Nat) (s : State) : Out :=
  .next (asyncDeliver s slot gen cause)

/-- The pending cause a slot takes next: CANCEL, then AR_ABORT, then WATCHDOG; only CANCEL while ACTIVE is 1 (R186). The TABLED_FAIL of a
killed group (R116) comes after them and waits as they do (DEDUCED, assumption 122), and withdraws no wait: a member producer takes it at
its next group boundary. -/
def Slot.asyncCause (t : Slot) : Option Nat :=
  let active := t.trapcause.getLsbD 8
  if t.cancel then some causeCancel
  else if active then none
  else if t.arAbort then some causeArAbort
  else if t.wdog then some causeWatchdog
  else if t.tabFail && decide (t.st = .ready) then some causeTabledFail else none

/-- A member has received its outcome (R124): the record is FREE again, its generation advanced, once every member has. -/
def regionTold (s : State) (part : Nat) (h : W64) (slot : Nat) (gen : BitVec 32) : State :=
  match regionOf s part h with
  | none => s
  | some (c, i, r) =>
    let r := { r with members := r.members.map fun m => if m.slot = slot ∧ m.gen = gen then { m with told := true } else m }
    let r := if (r.st = 4 ∨ r.st = 5) ∧ r.members.all (fun m => m.told) then { ({} : Region) with gen := r.gen + 1 } else r
    s.updCluster c fun x => { x with regions := Sp.put x.regions i r }

/-- The trap that a slot's group still owes is due: it is the group's own, and comes before every asynchronous cause. -/
def Slot.owes (t : Slot) : Option (Nat × W64) := if t.st = .ready then t.owed else none

/-- ASYNC_CAUSE_TAKEN of the slot State.cur at a group boundary (R186, R371): a wait is withdrawn, and the cause traps at the
waiting or next group; AR_ABORT ends the membership. -/
def asyncTaken (s : State) : State :=
  let slot := s.cur
  match (s.slot slot).owes, (s.slot slot).asyncCause with
  | some (cause, info), _ =>
    trapEntry (s.updSlot slot fun t => { t with owed := none }) slot (s.slot slot).pc { cause := cause, info := info }
  | none, none => s
  | none, some cause =>
    let s := withdraw s slot
    let t := s.slot slot
    if cause = causeArAbort then
      let part := s.partOf (slotCluster slot)
      let h := t.region.getD 0
      let info : W64 := match regionOf s part h with
        | some (_, i, r) => BitVec.ofNat 64 (r.cause + i * 65536)
        | none => BitVec.ofNat 64 (bits h 46 32 % 2 ^ 15 * 65536)
      let s := regionTold s part h slot t.gen
      let s := s.updSlot slot fun t => { t with arAbort := false, region := none, voted := false }
      trapEntry s slot t.pc { cause := cause, info := info }
    else if cause = causeTabledFail then
      trapEntry (s.updSlot slot fun t => { t with tabFail := false }) slot t.pc { cause := cause, info := 3 }
    else
      let s := s.updSlot slot fun t => if cause = causeCancel then { t with cancel := false } else { t with wdog := false }
      trapEntry s slot t.pc { cause := cause }

def execAsyncCauseTaken (s : State) : Out := .next (asyncTaken s)

/-! ## A group that is no instruction (R185, R218, R227) -/

/-- ILLEGAL_GROUP in the slot State.cur: FETCH where the group cannot be fetched, else ILLEGAL with the word and its place. -/
def execIllegalGroup (fetch : Bool) (word : Half) (pos : Nat) (addr : W64) (s : State) : Out :=
  .next (trapEntry s s.cur (s.slot s.cur).pc
    (if fetch then { cause := causeFetch, addr := addr }
     else { cause := causeIllegal, info := BitVec.ofNat 64 (word.toNat + pos % 8 * 65536) }))

/-! ## A held release is sent (R196, R343, R346) -/

/-- RELEASE_SEND: the write of a REL, or the update of a SWADD or DCDEC, leaves the core. -/
def releaseSend (s : State) (slot : Nat) (gen : BitVec 32) (tag : Nat) : State :=
  let send (s : State) (a : Access) : State :=
    match a.op with
    | .swadd => s.send (slotCore slot) a.part (tag % 2 == 1) { ins := .syncWordUpdate a 0 }
    | .dcdec => s.send (slotCore slot) a.part (tag % 2 == 1) { ins := .dcDecrement a.part a.ea.toNat a.d0.toNat slot gen tag }
    | _ => sendPieces s a
  let t := s.slot slot
  if s.hasEntry slot gen tag then
    match (t.outst.find? (fun o : Outst => o.tag == tag)).bind Outst.acc with
    | some a => send (s.setSlot slot { t with outst := t.outst.map fun o : Outst => if o.tag = tag then { o with held := false } else o }) a
    | none => s
  else
    match (s.orphans.find? (fun o : Orphan => o.slot == slot && o.gen == gen && o.entry.tag == tag)).bind fun o => o.entry.acc with
    | some a => send { s with orphans := s.orphans.map fun o : Orphan =>
        if o.slot = slot ∧ o.gen = gen ∧ o.entry.tag = tag then { o with entry := { o.entry with held := false } } else o } a
    | none => s

def execReleaseSend (slot : Nat) (gen : BitVec 32) (tag : Nat) (s : State) : Out := .next (releaseSend s slot gen tag)

end Sys2Proof.Machine
end

