-- ==== Sys2Proof/Machine/Messages.lean ====
section
/-! DEFINITION. Active messages and stream ports (R80 to R84, R197, R327 to R333, R457): SEND, SENDM, POPEN, PCLOSE, PLISTEN,
PSTAT, and the arrival of messages, words and closing markers. -/

namespace Sys2Proof.Machine
open Sys2Proof

/-! ## SEND and SENDM (R327 to R329) -/

/-- The tags of the slot's outstanding stores to a core's scratchpad or instruction store (R197). -/
def storesTo (t : Slot) (core : Nat) : List Nat :=
  (t.outst.filter fun o : Outst => o.write && o.lines.any fun l =>
    decide (core * 8192 ≤ l ∧ l < (core + 1) * 8192) || decide (2 ^ 38 + core * 512 ≤ l ∧ l < 2 ^ 38 + (core + 1) * 512)).map Outst.tag

/-- The message a SEND makes for a place. -/
def newMessage (s : State) (place : W64) (tag idx : Nat) (pc : Pc) (args : List W64) : Msg :=
  let t := s.slot s.cur
  let part := s.partOf (slotCluster s.cur)
  let dst := ((s.placeOf part place).map Prod.fst).getD 0
  { src := slotCore s.cur, dst := dst, cls := bits place 39 36, gen := 0, part := part, isTask := false,
    body := { pc := pc, noSteal := false, level := t.level, home := t.home, pri := 0, cls := bits place 39 36, corr := t.corr, pool := t.pool,
              args := args, source := 5, phase := t.phase, key := 0, header := 0, enq := 0 },
    seq := s.ticket, after := storesTo t dst, lines := (t.ist.filter fun l => l / 512 == dst).map (· % 512), tries := 0,
    place := place, slot := s.cur, sgen := t.gen, tag := tag, idx := idx }

/-- The increment of the launch a message waits for (R137, R328). -/
def messageIncrement (m : Msg) : LevelUpd :=
  { part := m.body.home, level := m.body.level, add := true, n := 1, err := 0, slot := m.slot, gen := m.sgen, tag := m.tag,
    ack := false, addr := 0 }

/-- Sends messages to places in order, under one outstanding entry (R325, R329). -/
def sendAll (s : State) (places : List W64) (pc : Pc) (args : List W64) : State :=
  let tag := s.plainTag
  let ms := (places.zipIdx).map fun q => newMessage s q.1 tag q.2 pc args
  let ms := (ms.zipIdx).map fun q => { q.1 with seq := q.1.seq * 64 + q.2 }
  let s := postedEntry s false none
  let s := if places.length ≤ 1 then s else
    { s with assembly := Sp.put s.assembly tag { left := places.length, data := 0, refused := none, faults := [], failed := 0 } }
  s.postAll (ms.flatMap fun m => [{ ins := .levelUpdate (messageIncrement m) }, { ins := .messageInjection m }])

/-- SEND (R327). -/
def execSend (x : Fld) (s : State) : Out :=
  .next (issue { d := .g, dSrc := true, dPair := true, a := .g, b := .g } x s fun v s =>
    if bits v.a 35 0 ≠ 0 then .trap { cause := causeAddr, addr := v.a }
    else if 0x4000 ≤ v.b.toNat then .trap { cause := causeAddr, addr := v.b }
    else if !s.entryFree s.cur false then .wait (.entry false) none false 0
    else .next (sendAll s [v.a] (v.b.setWidth 15) [v.d, v.d1]))

/-- SENDM (R329). -/
def execSendm (x : Fld) (s : State) : Out :=
  .next (issue { d := .g, dSrc := true, dPair := true, a := .g, b := .g } x s fun v s =>
    let places := Sp.get [] (s.part (s.partOf (slotCluster s.cur))).groups v.a.toNat
    if 256 ≤ v.a.toNat ∨ places = [] then .trap { cause := causeAddr, addr := v.a }
    else if 0x4000 ≤ v.b.toNat then .trap { cause := causeAddr, addr := v.b }
    else if !s.entryFree s.cur false then .wait (.entry false) none false 0
    else .next (sendAll s places (v.b.setWidth 15) [v.d, v.d1]))

/-- A message has been placed, dropped or refused with a cause (R328, R329): the entry frees with its last one; of several refusals the
first of the list decides. -/
def messageDone (s : State) (m : Msg) (refused : Option Nat) : State :=
  if m.tag = 0 then s else
  let ans (s : State) (r : Option (Nat × W64)) : State := match r with
    | none => s.post (.accessAcknowledge m.slot m.sgen m.tag)
    | some q => s.post (.refusalArrival m.slot m.sgen m.tag q.1 q.2)
  match Sp.find s.assembly m.tag with
  | none => ans s (refused.map fun c => (c, m.place))
  | some a =>
    let a : Assembly := { a with left := a.left - 1, refused := match refused, a.refused with
      | none, r => r
      | some c, some (j, x) => if j < m.idx then some (j, x) else some (m.idx, c, m.place)
      | some c, none => some (m.idx, c, m.place) }
    if a.left = 0 then ans { s with assembly := Sp.erase s.assembly m.tag } (a.refused.map Prod.snd)
    else { s with assembly := Sp.put s.assembly m.tag a }

/-- A message's sender reaches a device (R409). -/
def senderReaches (s : State) (m : Msg) (dev : Nat) : Bool := decide (2 ^ 24 ≤ m.src) || s.linkFrom (coreCluster m.src) dev

/-- MESSAGE_INJECTION (R328): the increment has been acknowledged; a place the partition cannot reach refuses the entry and
undoes the increment. -/
def messageInject (s : State) (m : Msg) : State :=
  match if senderReaches s m (bits m.place 63 54) then s.placeOf m.part m.place else none with
  | none => (messageDone s m (some causeAddr)).postOp (endedOp m.body.home m.body.level 0)
  | some (core, cls) => s.send m.src m.part m.body.phase { ins := .messageArrival { m with dst := core, cls := cls } }

def execMessageInjection (m : Msg) (s : State) : Out := .next (messageInject s m)

/-- The place of a message in the order of those that arrive in one cycle (R81): the port of its cluster's router it comes in by, in the
order +x, -x, +y, -y; 5 from another core of the cluster, 7 from the router's Ababex Link port. The Sorting Office's records enter at the
router to which the way from the first router of its device leads (assumption 117). -/
def arrivalRank (s : State) (m : Msg) : Nat :=
  let c := coreCluster m.dst
  let src := if 2 ^ 24 ≤ m.src then clusterDev c * 128 else coreCluster m.src
  if src = c then (if 2 ^ 24 ≤ m.src then 1 else 5) else
  let at0 : Option Nat := if clusterDev src = clusterDev c then some src else (s.deviceExit src (clusterDev c)).map fun x => clusterDev c * 128 + x
  match at0 with
  | none => 7
  | some r => if r = c then 7 else
    match routerBefore c (pathTo s r c 32) with
    | none => 1
    | some p => backPort (s.portTo p c)

/-- A message may be taken now: its NI has taken none of a later place in this cycle (R81). -/
def arrivalTurn (s : State) (m : Msg) : Bool :=
  let a := (s.core m.dst).arrived
  a.1 != s.now + 1 || decide (a.2 ≤ arrivalRank s m)

/-- The cause with which a message is refused before it reaches a ring: no entry maps its partition (R410), or both ports toward the device are
down (R409); its partition's tag is not that of the cluster's owner (R412); the owner is being reset (R416). -/
def messageRefused (s : State) (m : Msg) : Option Nat :=
  let c := coreCluster m.dst
  let owner := s.partOf c
  let p := s.mapPart m.part (clusterDev c)
  if p = noPart ∨ !senderReaches s m (clusterDev c) then some causeAddr
  else if p ≠ owner then some causeProt
  else if (s.part owner).resetting then some causeAddr else none

/-- MESSAGE_ARRIVAL (R79, R81, R197, R403, R412, R416, R457): placed in its ring, refused, refused and retried later, or dropped. -/
def messageArrive (s : State) (m : Msg) : State :=
  let c := s.core m.dst
  let drop (s : State) : State :=
    s.updCore m.dst fun c => { c with count := { c.count with classdrop := c.count.classdrop + 1 },
                                      placed := c.placed && !(m.isTask && m.cls == 0) }
  match messageRefused s m with
  | some k =>
    let s := messageDone (s.deliver m.dst m.body.phase) m (some k)
    if m.gen ≠ 0 then s else s.postOp (endedOp m.body.home m.body.level 0)
  | none =>
  let s := s.updCore m.dst fun c => { c with arrived := (s.now + 1, arrivalRank s m) }
  if !clsOn (c.cls m.cls) then
    let s := messageDone (drop (s.deliver m.dst m.body.phase)) m none
    if m.isTask ∨ m.gen ≠ 0 then s else s.postOp (endedOp m.body.home m.body.level 0)
  else
    let info : EntryInfo := { level := m.body.level, home := m.body.home, corr := m.body.corr, pool := m.body.pool, key := m.body.key,
                              header := m.body.header, source := m.body.source,
                              enq := if m.isTask then m.body.enq else s.ptpTime (clusterDev (coreCluster m.dst)) }
    match placeEntry s m.dst m.cls m.body.level (entryWords m.isTask m.gen m.body) info with
    | .full => s.postAt (s.now + Nat.min 4096 (64 * 2 ^ Nat.min m.tries 6)) (.messageRetry { m with tries := m.tries + 1 })
    | .refused =>
      let s := messageDone (drop (s.deliver m.dst m.body.phase)) m none
      if m.gen ≠ 0 then s else s.postOp (endedOp m.body.home m.body.level 1)
    | .ok s =>
      let launched := m.isTask && recordLaunched m.body
      let s := if launched then s.launchCarries m.dst m.body.qtail else s
      let s := s.updCore m.dst fun c =>
        { c with fetchBuf := if launched then [] else c.fetchBuf.filter (fun l => !m.lines.contains l.1) }
      messageDone (s.deliver m.dst m.body.phase) m none

def execMessageArrival (m : Msg) (s : State) : Out := .next (messageArrive s m)

/-- MESSAGE_RETRY (R81, R146): the sender's NI counts the retry and sends the message again; it keeps its place. -/
def execMessageRetry (m : Msg) (s : State) : Out :=
  .next ((if 2 ^ 24 ≤ m.src then { s with nis := Sp.put s.nis m.src { s.ni m.src with retry := (s.ni m.src).retry + 1 } } else s.updCore m.src fun c => { c with count := { c.count with retry := c.count.retry + 1 } }).post
    (.messageArrival m))

/-! ## Stream ports (R83, R84, R330 to R333) -/

/-- POPEN (R330): a posted form, acknowledged by the core's own NI. -/
def execPopen (x : Fld) (s : State) : Out :=
  .next (issue uAB x s fun v s =>
    let k := slotCore s.cur
    let i := v.b.toNat % 8
    if bits v.a 39 0 ≠ 0 then .trap { cause := causeAddr, addr := v.a }
    else if v.b.toNat / 128 ≠ 0 ∨ v.b.getLsbD 3 then .trap { cause := causeAddr, addr := v.b }
    else if (s.port k i).st ≠ .closed then .trap { cause := causePort, info := portInfo i (s.port k i).st 1 }
    else if !s.entryFree s.cur false then .wait (.entry false) none false 0
    else
      let t := s.slot s.cur
      let tag := s.plainTag
      let s := postedEntry s false none
      .next ((s.setPort k i { st := .bound, owner := s.cur, gen := t.gen, place := v.a, tgtPort := bits v.b 6 4, phase := t.phase }).post
        (.accessAcknowledge s.cur t.gen tag)))

/-- The check of a port number operand (R331, R333). -/
def portOperand (w : W64) : Option Nat := if w.toNat < 8 then some w.toNat else none

/-- PLISTEN (R331). -/
def execPlisten (x : Fld) (s : State) : Out :=
  .next (issue uA x s fun v s =>
    let k := slotCore s.cur
    match portOperand v.a with
    | none => .trap { cause := causeAddr, addr := v.a }
    | some i =>
      if (s.port k i).st ≠ .closed then .trap { cause := causePort, info := portInfo i (s.port k i).st 1 }
      else .next (s.setPort k i { st := .listen, owner := s.cur, gen := (s.slot s.cur).gen }))

/-- PCLOSE (R84, R331): on OPEN it waits as a write does while the link is full. -/
def execPclose (x : Fld) (s : State) : Out :=
  .next (issue uA x s fun v s =>
    let k := slotCore s.cur
    match portOperand v.a with
    | none => .trap { cause := causeAddr, addr := v.a }
    | some i =>
      let p := s.port k i
      let t := s.slot s.cur
      if p.st = .opened ∧ p.refused = 0 ∧ !s.portRoom p then
        if t.waitMode = 2 then .next s else .wait (.portOut i) t.limit true (portWaitInfo i p)
      else .next (closePort s k i))

/-- PSTAT (R333). -/
def execPstat (x : Fld) (s : State) : Out :=
  .next (issue uDA x s fun v s =>
    let k := slotCore s.cur
    match portOperand v.a with
    | none => .trap { cause := causeAddr, addr := v.a }
    | some i =>
      let p := s.port k i
      let words := (p.buf.filter Option.isSome).length
      .next (s.putG x.d.toNat (BitVec.ofNat 64 (p.st.code + (if p.buf.contains none then 8 else 0) + words * 16 +
        (s.core k).count.portretry.toNat * 2 ^ 32))))

/-- ROUTE_HOP of the port State.cur (core * 8 + port) (R83, R330): one hop of its route's head; what it cannot pass it tries again. -/
def routeHop (s : State) : State :=
  let r := hopOnce s (s.cur / 8) (s.cur % 8)
  if (r.1.port (s.cur / 8) (s.cur % 8)).acq = 1 then r.1.post .routeHop s.cur else r.1

def execRouteHop (s : State) : Out := .next (routeHop s)

/-- A port that still receives a route. -/
def Port.receives (q : Port) (route : Nat) : Bool := (q.st == .listen || q.st == .recv) && q.srcPort != 0 && q.route == route

/-- STREAM_WORD_ARRIVAL on the route State.cur (R83, R84): the word enters the port's buffer; a port that has closed discards
it. -/
def streamWord (s : State) (core port src srcPort : Nat) (v : W64) : State :=
  let w := s.port src srcPort
  let s := if w.route = s.cur then s.setPort src srcPort { w with flying := w.flying - 1 } else s
  let q := s.port core port
  if q.receives s.cur then
    s.setPort core port { q with st := .recv, buf := q.buf ++ [some v], wrote := q.wrote + 1 }
  else s

def execStreamWordArrival (core port src srcPort : Nat) (v : W64) (s : State) : Out :=
  .next (streamWord s core port src srcPort v)

/-- CLOSING_MARKER_ARRIVAL of the route State.cur (R84, R140), with the data of markerOp: the route's channels are free, the
marker stands behind the words at the receiver, and the route is delivered as one message. -/
def closingMarker (s : State) : State :=
  match s.data with
  | core :: port :: phase :: hops =>
    let s := freeChannels s (hops.map BitVec.toNat)
    let q := s.port core.toNat port.toNat
    let s := if q.receives s.cur then s.setPort core.toNat port.toNat { q with st := .recv, buf := q.buf ++ [none] } else s
    s.deliver core.toNat (phase != 0)
  | _ => s

def execClosingMarkerArrival (s : State) : Out := .next (closingMarker s)

end Sys2Proof.Machine
end

