-- ==== Sys2Proof/Machine/Sched.lean ====
section
/-! DEFINITION. The cluster scheduler, the Sorting Office's placement and the timer wheel (R94 to R97, R176 to R178, R182, R340,
R341, R401, R407, R424). -/

namespace Sys2Proof.Machine
open Sys2Proof

/-- Puts an operation with data on the timers. -/
def State.opAt (s : State) (t : Nat) (o : Op) : State :=
  { s with timers := Sp.put s.timers t (Sp.get [] s.timers t ++ [o]) }

/-! ## Ready queues (R94) -/

/-- A record that its launch counts when it is enqueued (R137): from Confluence, a dependence counter or the timer wheel. -/
def TaskRec.counted (r : TaskRec) : Bool := r.source == 1 || r.source == 2 || r.source == 3

/-- The ready queue and the record's launch have room (R94, R137). -/
def enqueueRoom (s : State) (c home : Nat) (level : W64) : Bool :=
  decide ((s.cluster c).ready.length < 4096) &&
    ((s.liveLevel home level).map fun l => decide (l.outstanding + 1 < 2 ^ 32)).getD true

/-- RECORD_ENQUEUE: the record enters the cluster's ready queue and its launch counts it (R94, R137); a full queue refuses it,
and so does a launch that can count no more: the source holds the record. -/
def recordEnqueue (s : State) (c : Nat) (r : TaskRec) : State :=
  let x := s.cluster c
  let lvl := if TaskRec.counted r then s.liveLevel r.home r.level else none
  if 4096 ≤ x.ready.length then
    (s.setCluster c { x with enqrefuse := x.enqrefuse + 1 }).post (.enqueueRetry c r)
  else if (lvl.map fun l => decide (2 ^ 32 ≤ l.outstanding + 1)).getD false then s.post (.enqueueRetry c r)
  else
    let s := match lvl with
      | some l => s.setLevel r.home r.level { l with outstanding := l.outstanding + 1 }
      | none => s
    let e : ReadyRec := { seq := s.ticket, since := s.now, pri := r.pri, raised := false, ask := none,
                          body := { r with enq := s.ptpTime (clusterDev c) } }
    let s := (s.setCluster c { x with ready := x.ready ++ [e] }).tick
    let d : List W64 := [BitVec.ofNat 64 e.seq]
    (s.opAt (s.now + 2 ^ 16) { who := c, data := d, ins := .priorityAging }).opAt (s.now + 2 ^ 12)
      { who := c, data := d, ins := .preemptRequest }

def execRecordEnqueue (cluster : Nat) (r : TaskRec) (s : State) : Out := .next (recordEnqueue s cluster r)

/-- ENQUEUE_RETRY: the source that holds a refused record sends it again (R94). -/
def execEnqueueRetry (cluster : Nat) (r : TaskRec) (s : State) : Out := .next (s.post (.recordEnqueue cluster r))

/-- A slot of a core that partitions see (R14) is idle, bound to a class, and the ring has room for a record. -/
def State.takesClass (s : State) (core cls : Nat) : Bool :=
  let c := s.core core
  let w := c.cls cls
  clsOn w && (s.slot (core * 8 + clsSlot w)).st == .idle && c.ringRoom cls 9 && s.coreVisible (coreCluster core) (core % 128)

/-- The core a record is passed to (R94, R182): the lowest-numbered one with an idle slot bound to its class and room; for a
record that has asked for a pre-emption, the core of that slot, once its ring has room. -/
def dispatchCore (s : State) (c : Nat) (r : ReadyRec) : Option Nat :=
  match r.ask with
  | some slot => if (s.core (slotCore slot)).ringRoom r.body.cls 9 then some (slotCore slot) else none
  | none => ((List.range 128).map fun k => c * 128 + k).find? fun k => s.takesClass k r.body.cls

/-- The record the scheduler selects (R94): highest priority first, then in order of enqueue, the first that can be passed on at
once. -/
def dispatchChoice (s : State) (c : Nat) : Option (ReadyRec × Nat) :=
  let x := s.cluster c
  let ok := x.ready.filterMap fun r => (dispatchCore s c r).map fun k => (r, k)
  ok.foldl (fun (b : Option (ReadyRec × Nat)) q => match b with
    | none => some q
    | some p => if p.1.pri < q.1.pri ∨ (p.1.pri = q.1.pri ∧ q.1.seq < p.1.seq) then some q else b) none

/-- SCHEDULER_DISPATCH in the cluster State.cur: the selected record goes to its core's ring, behind what else arrives there in the cycle
(R81); a record a protection region refuses counts as a unit that ended with an error (R457). -/
def schedulerDispatch (s : State) : State :=
  let c := s.cur
  match dispatchChoice s c with
  | none => s
  | some (r, core) =>
    let s := s.updCluster c fun x => { x with ready := x.ready.filter fun q => q.seq != r.seq }
    let info : EntryInfo := { source := r.body.source, home := r.body.home, enq := r.body.enq, key := r.body.key, header := r.body.header }
    match placeEntry s core r.body.cls r.body.level (entryWords true 0 r.body) info with
    | .ok s => (if recordLaunched r.body then s.launchCarries core r.body.qtail else s).updCore core fun c => { c with arrived := (s.now + 1, 8), fetchBuf := if recordLaunched r.body then [] else c.fetchBuf }
    | _ => (s.updCore core fun c => { c with count := { c.count with classdrop := c.count.classdrop + 1 } }).postOp
        (endedOp r.body.home r.body.level 1)

def execSchedulerDispatch (s : State) : Out := .next (schedulerDispatch s)

/-- The record of a ready queue that the data of a timer name. -/
def timedRecord (s : State) : Option ReadyRec :=
  (s.cluster s.cur).ready.find? fun r => r.seq == (s.data.headD 0).toNat

/-- PRIORITY_AGING in the cluster State.cur (R94): a record that has waited 2^16 cycles rises one level, once. -/
def execPriorityAging (s : State) : Out :=
  .next (match timedRecord s with
    | none => s
    | some r => s.updCluster s.cur fun x => { x with ready := x.ready.map fun q =>
        if q.seq = r.seq ∧ !q.raised then { q with raised := true, pri := Nat.min 3 (q.pri + 1) } else q })

/-- The slot a scheduler asks to be pre-empted for a record (R182): bound to its class, on the lowest-numbered core, whose
running unit's priority is below the record's. -/
def preemptTarget (s : State) (c : Nat) (r : ReadyRec) : Option Nat :=
  (((List.range 128).map fun k => c * 128 + k).find? fun k =>
    let w := (s.core k).cls r.body.cls
    let t := s.slot (k * 8 + clsSlot w)
    clsOn w && t.st != .idle && decide (t.pri < r.pri) && s.coreVisible c (k % 128)).map fun k => k * 8 + clsSlot ((s.core k).cls r.body.cls)

/-- A slot that runs a unit is asked to be pre-empted; a halted one at the release (R426). -/
def askSlot (s : State) (slot : Nat) (gen : BitVec 32) : State :=
  if s.clusterHalted (slotCluster slot) then
    s.holdHalted slot { who := slotCluster slot, data := [BitVec.ofNat 64 slot, gen.setWidth 64], ins := .preemptRequest }
  else if (s.slot slot).st = .idle ∨ (s.slot slot).gen ≠ gen then s
  else s.updSlot slot fun t => { t with preempt := some (t.preempt.getD 0) }

/-- PREEMPT_REQUEST in the cluster State.cur (R182): for a record that has waited 2^12 cycles while no core has an idle slot
bound to its class; it is looked at again every 2^12 cycles. Data are the record, or the slot and GEN that a request reaches. -/
def preemptRequest (s : State) : State :=
  let c := s.cur
  match s.data with
  | [slot, gen] => askSlot s slot.toNat (gen.setWidth 32)
  | _ =>
  match timedRecord s with
  | none => s
  | some r =>
    let again (s : State) : State := s.opAt (s.now + 2 ^ 12) { who := c, data := s.data, ins := .preemptRequest }
    let idle := (List.range 128).any fun k =>
      let w := (s.core (c * 128 + k)).cls r.body.cls
      clsOn w && (s.slot ((c * 128 + k) * 8 + clsSlot w)).st == .idle && s.coreVisible c k
    if r.ask.isSome then s else
    match if idle then none else preemptTarget s c r with
    | none => again s
    | some slot =>
      let s := askSlot s slot (s.slot slot).gen
      s.updCluster c fun x => { x with ready := x.ready.map fun q => if q.seq = r.seq then { q with ask := some slot } else q }

def execPreemptRequest (s : State) : Out := .next (preemptRequest s)

/-! ## Stealing (R96, R178) -/

/-- The oldest record of the highest priority that a neighbour may steal. -/
def stealChoice (l : List ReadyRec) : Option ReadyRec :=
  (l.filter fun r => !r.body.noSteal).foldl (fun (b : Option ReadyRec) r => match b with
    | none => some r
    | some p => if p.pri < r.pri then some r else b) none

/-- STEAL_PROBE of the cluster State.cur (R96, R178): with an empty ready queue and a core with an idle slot it asks its
neighbours of the same partition in the order +x, -x, +y, -y; a probe that finds nothing is counted. DESIGN CHOICE (assumption 118): a
stolen record's waiting starts again, in a new place of the order, and it keeps a raised priority. -/
def stealProbe (s : State) : State :=
  let c := s.cur
  match (s.cluster c).part with
  | none => s
  | some part =>
    let s := s.postAt (s.now + 512) .stealProbe c
    let idle := (List.range 1024).any fun k => (s.slot (c * 1024 + k)).st == .idle && s.coreVisible c (k / 8)
    if (s.cluster c).ready ≠ [] ∨ !idle then s else
    let near := ([1, 2, 3, 4].map fun p => routerStep c p).filter fun n => (s.cluster n).part == some part
    match near.findSome? fun n => (stealChoice (s.cluster n).ready).map fun r => (n, r) with
    | none => s.updCluster c fun x => { x with stealfail := x.stealfail + 1 }
    | some (n, r) =>
      let s := s.updCluster n fun x => { x with ready := x.ready.filter fun q => q.seq != r.seq }
      let e : ReadyRec := { r with seq := s.ticket, since := s.now, ask := none, body := { r.body with source := 4, launched := recordLaunched r.body } }
      let s := (s.updCluster c fun x => { x with ready := x.ready ++ [e] }).tick
      let d : List W64 := [BitVec.ofNat 64 e.seq]
      (s.opAt (s.now + 2 ^ 16) { who := c, data := d, ins := .priorityAging }).opAt (s.now + 2 ^ 12)
        { who := c, data := d, ins := .preemptRequest }

def execStealProbe (s : State) : Out := .next (stealProbe s)

/-! ## Placement (R176, R177) -/

/-- A core whose class-0 slot is idle, whose class-0 ring is empty with room, and where no placed record waits (R176). -/
def State.placeable (s : State) (core : Nat) : Bool :=
  s.takesClass core 0 && (s.ringHead core 0).isNone && !(s.core core).placed

/-- The cores of a cluster in order. -/
def clusterCores (c : Nat) : List Nat := (List.range 128).map fun k => c * 128 + k

/-- The free frames of a pool, for an accessor (R176, R187): a bit at or above its number of frames is none. -/
def poolFree (s : State) (x : Accessor) (pool : W64) : Nat :=
  if pool = 0 ∨ pool.toNat % 64 ≠ 0 then 0 else
  match (s.reach x pool 64 true false).2 with
  | some (some l) => ((List.range (s.read (l + 8) 8 % 64 + 1)).filter fun i => (s.read l 8).testBit i).length
  | _ => 0

/-- The free frames in the frame pools of a cluster's cores: those of their units, resident or saved, each pool once. -/
def clusterFrames (s : State) (c : Nat) : Nat :=
  let users := (s.slots.filter fun t => t.1 / 1024 == c).flatMap fun t =>
    (if t.2.st = .idle then [] else [(t.2.pool, s.poolAccessor t.1 t.2.gen t.2.level)]) ++
      t.2.saved.map fun q => (q.pool, s.poolAccessor t.1 q.gen q.level)
  let once := users.foldl (fun (l : List (W64 × Accessor)) u => if l.any fun q => q.1 == u.1 then l else l ++ [u]) []
  (once.map fun u => poolFree s u.2 u.1).sum

/-- CLUSTER_REPORT of the cluster State.cur (R176): its idle slots bound to class 0, the free room of its ready queue and the free frames
of its pools reach the Sorting Office every 1,024 cycles. -/
def clusterReport (s : State) : State :=
  let c := s.cur
  match (s.cluster c).part with
  | none => s
  | some part =>
    let n := ((clusterCores c).filter fun k =>
      let w := (s.core k).cls 0
      clsOn w && (s.slot (k * 8 + clsSlot w)).st == .idle && s.coreVisible c (k % 128)).length
    (s.updPart part fun q => { q with idle := Sp.set 0 q.idle (s.relCluster c) n,
                                      room := Sp.set 0 q.room (s.relCluster c) (4096 - (s.cluster c).ready.length),
                                      frames := Sp.set 0 q.frames (s.relCluster c) (clusterFrames s c) }).postAt (s.now + 1024) .clusterReport c

def execClusterReport (s : State) : Out := .next (clusterReport s)

/-- The partition-relative cluster with the largest count, the lowest number on a tie; none where every count is 0. -/
def bestCluster (q : Part) : Option Nat :=
  (List.range q.clusters.length).foldl (fun (b : Option Nat) i =>
    let n := Sp.get 0 q.idle i
    if n = 0 then b else
    match b with
    | none => some i
    | some j => if Sp.get 0 q.idle j < n then some i else b) none

/-- The record of the next unit of a launch (R95). -/
def Placing.record (p : Placing) : TaskRec :=
  { p.body with args := (p.body.args.headD 0 + p.step * BitVec.ofNat 64 p.next) :: p.body.args.tail }

/-- Changes the launch at a place of those that are placed: `n` more units are under way; one with no unit left is gone. -/
def placed (q : Part) (i n : Nat) : Part :=
  match q.placing[i]? with
  | none => q
  | some p => { q with placing := if p.units ≤ p.next + n then q.placing.eraseIdx i else q.placing.set i { p with next := p.next + n } }

/-- The message a task record travels in to a core. -/
def recordMessage (s : State) (part core : Nat) (r : TaskRec) : Msg :=
  { src := officeNi part, dst := core, cls := r.cls, gen := 0, part := part, isTask := true, body := r, seq := 64 * s.ticket,
    after := [], lines := [], tries := 0, place := 0, slot := 0, sgen := 0, tag := 0, idx := 0 }

/-- Cores for the members of a gang (R177): of one cluster, or of two adjacent clusters of the partition. DESIGN CHOICE (assumption 135): of
those that could take it, the first in the partition's order, then the first with its neighbour +x, -x, +y, -y. -/
def gangCores (s : State) (q : Part) (g : Nat) : Option (List Nat) :=
  let free (c : Nat) : List Nat := (clusterCores c).filter fun k => s.placeable k
  match q.clusters.find? fun c => decide (g ≤ (free c).length) with
  | some c => some ((free c).take g)
  | none =>
    q.clusters.findSome? fun c =>
      ([1, 2, 3, 4].map (routerStep c)).findSome? fun d =>
        let l := free c ++ free d
        if q.clusters.contains d ∧ d ≠ c ∧ g ≤ l.length then some (l.take g) else none

/-- The members of the next gang of a launch: the last one may be short. -/
def Placing.members (p : Placing) : Nat := Nat.min p.gang (p.units - p.next)

/-- The launch whose next unit or gang is placed (R176, R177), with its place: a gang that cannot start at once waits, and with it the later
gangs of its own launch only. -/
def placingTurn (s : State) (part : Nat) : Option (Nat × Placing) :=
  let q := s.part part
  ((List.range q.placing.length).zip q.placing).find? fun p => p.2.gang == 0 || (gangCores s q p.2.members).isSome

/-- A unit of a launch goes to the ready queue whose turn it is (R176). -/
def readyPlacement (s : State) (part i : Nat) (r : TaskRec) : State :=
  let q := s.part part
  let n := Nat.max 1 q.clusters.length
  (s.setPart part (placed { q with rr := (q.rr + 1) % n } i 1)).post (.recordEnqueue (q.clusters.getD (q.rr % n) 0) r)

/-- UNIT_PLACEMENT in the partition State.cur (R176): one unit of the launch whose turn it is. Once no cluster has a count left, the rest of
the launch goes to the ready queues. -/
def unitPlacement (s : State) : State :=
  let part := s.cur
  let q := s.part part
  match placingTurn s part with
  | none => s
  | some (i, p) =>
    if p.gang ≠ 0 then s else
    let r := { Placing.record p with enq := s.ptpTime (part / 32) }
    match if p.rest then none else bestCluster q with
    | some k =>
      match (clusterCores (q.clusters.getD k 0)).find? fun k => s.placeable k with
      | some core =>
        let q' := placed { q with idle := Sp.set 0 q.idle k (Sp.get 0 q.idle k - 1) } i 1
        let s := (s.setPart part q').updCore core fun c => { c with placed := true }
        s.tick.send (officeNi part) part r.phase { ins := .messageArrival (recordMessage s part core r) }
      | none => s.setPart part { q with idle := Sp.set 0 q.idle k 0 }
    | none => readyPlacement (s.setPart part { q with placing := q.placing.set i { p with rest := true } }) part i r

def execUnitPlacement (s : State) : Out := .next (unitPlacement s)

/-- Presets the ports of one gang (R84, R177, R401): the writer's BOUND, the reader's LISTEN. -/
def presetPipes (s : State) (cores : List Nat) (phase : Bool) : List (Nat × Nat × Nat × Nat) → State
  | [] => s
  | (wm, wp, rm, rp) :: l =>
    let w := cores.getD wm 0
    let r := cores.getD rm 0
    let own (k : Nat) : Nat × BitVec 32 :=
      let slot := k * 8 + clsSlot ((s.core k).cls 0)
      (slot, (s.slot slot).genNext)
    let s := s.setPort w wp { st := .bound, owner := (own w).1, gen := (own w).2, place := s.placeId r, tgtPort := rp, phase := phase }
    let s := s.setPort r rp { st := .listen, owner := (own r).1, gen := (own r).2 }
    presetPipes s cores phase l

/-- Writes the records of a gang into their rings in one step; none where a ring has no room. An entry that a protection region refuses is
dropped and counted, and its unit ends with an error (R457). DESIGN CHOICE (assumption 117): the records of a gang take no turn in the order
of R81 among what else arrives at a core in the cycle. -/
def gangRecords (s : State) (p : Placing) : List Nat → Nat → Option State
  | [], _ => some s
  | k :: l, i =>
    let r := { Placing.record { p with next := p.next + i } with enq := s.ptpTime (clusterDev (coreCluster k)) }
    let s := s.exchange (officeNi r.home) k r.home r.phase
    match placeEntry s k 0 r.level (entryWords true 0 r) { source := 0, home := r.home, enq := r.enq } with
    | .ok s => gangRecords ((s.launchCarries k r.qtail).updCore k fun c => { c with placed := true, fetchBuf := [] }) p l (i + 1)
    | .refused => gangRecords ((s.updCore k fun c => { c with count := { c.count with classdrop := c.count.classdrop + 1 } }).postOp
        (endedOp r.home r.level 1)) p l (i + 1)
    | .full => none

/-- The Sorting Office lowers its copy of the counts for the cores it has placed units on (R176). -/
def lowerIdle (s : State) (part : Nat) (cores : List Nat) : State :=
  cores.foldl (fun s k => s.updPart part fun q =>
    let i := s.relCluster (coreCluster k)
    { q with idle := Sp.set 0 q.idle i (Sp.get 0 q.idle i - 1) }) s

/-- GANG_PLACEMENT in the partition State.cur (R177): the next gang of the launch whose turn it is, once all its members can start. -/
def gangPlacement (s : State) : State :=
  let part := s.cur
  match placingTurn s part with
  | none => s
  | some (i, p) =>
    if p.gang = 0 then s else
    match gangCores s (s.part part) p.members with
    | none => s
    | some cores =>
      match gangRecords (presetPipes s cores p.body.phase (p.pipes.filter fun e => decide (e.1 < cores.length ∧ e.2.2.1 < cores.length))) p cores 0 with
      | none => s
      | some s => (lowerIdle s part cores).updPart part fun q => placed q i p.members

def execGangPlacement (s : State) : Out := .next (gangPlacement s)

/-! ## The timer wheel (R97, R340, R341, R424) -/

/-- The start of the tick a time lies in. -/
def tickStart (t : W64) : W64 := BitVec.ofNat 64 (t.toNat / 256 * 256)

/-- A cycle not later than the next tick, as the clock runs now (R97). -/
def nextTick (s : State) (d : Nat) : Nat := s.now + Nat.max 1 ((255 - (s.ptpTime d).toNat % 256) * 8 / 5)

/-- Sees to it that a device's next tick is on the timers. -/
def armTick (s : State) (d : Nat) : State :=
  if (s.dev d).ticking then s else
    (s.updDev d fun v => { v with ticking := true }).opAt (nextTick s d)
      { who := d, data := [BitVec.ofNat 64 ((s.ptpTime d).toNat / 256 + 1)], ins := .timerTick }

/-- A release is due at a tick (R97). -/
def Release.due (r : Release) (stagger tick : W64) : Bool := decide (r.time.toNat + stagger.toNat ≤ tick.toNat)

/-- A release whose tick under a new offset has passed is released at the next tick (R424). -/
def Release.passed (r : Release) (stagger tick : W64) : Bool := decide (r.time.toNat + stagger.toNat + 256 ≤ tick.toNat)

/-- A release falls due at a tick (R97, R424); `moved`: a new offset takes effect there. -/
def Release.falls (r : Release) (stagger tick : W64) (moved : Bool) : Bool :=
  r.fell.isNone && Release.due r stagger tick && !(moved && Release.passed r stagger tick)

/-- TIMER_TICK of the device State.cur; data is the tick it waits for. A new STAGGER offset takes effect, and the releases that fall due are
written. -/
def timerTick (s : State) : State :=
  let d := s.cur
  let v := s.dev d
  if (s.ptpTime d).toNat / 256 < (s.data.headD 0).toNat then s.opAt (s.now + 1) { who := d, data := s.data, ins := .timerTick } else
  let stagger := v.newStagger.getD v.stagger
  let tick := tickStart (s.ptpTime d)
  let falls (r : Release) : Bool := Release.falls r stagger tick (stagger != v.stagger)
  let s := s.setDev d { v with
    ticking := false, stagger := stagger, newStagger := none,
    wheel := v.wheel.map fun r => if falls r then { r with fell := some tick.toNat } else r }
  let s := if v.wheel.any falls then { s with due := s.due ++ [{ who := d, data := [tick], ins := .timerRelease }] } else s
  if v.wheel.any fun r => r.fell.isNone && !falls r then armTick s d else s

def execTimerTick (s : State) : Out := .next (timerTick s)

/-- TIMER_RELEASE of the device State.cur; data are a tick. The first release left that fell due at the tick writes its record to its cluster's
ready queue, and the next follows; where the record is refused, the wheel holds it and tries again (R94). -/
def timerRelease (s : State) : State :=
  let d := s.cur
  let v := s.dev d
  let mine (r : Release) : Bool := r.fell == s.data.head?.map BitVec.toNat
  let next : Op := { who := d, data := s.data, ins := .timerRelease }
  match v.wheel.find? mine with
  | none => s
  | some r =>
    if enqueueRoom s r.cluster r.body.home r.body.level then
      let left := v.wheel.erase r
      let s := recordEnqueue (s.setDev d { v with wheel := left }) r.cluster r.body
      if left.any mine then { s with due := s.due ++ [next] } else s
    else
      (s.updCluster r.cluster fun x => if 4096 ≤ x.ready.length then { x with enqrefuse := x.enqrefuse + 1 } else x).postOp next

def execTimerRelease (s : State) : Out := .next (timerRelease s)

/-- TIME (R340). -/
def execTime (x : Fld) (s : State) : Out :=
  .next (issue uD x s fun _ s =>
    let d := slotDev s.cur
    .next (s.putG x.d.toNat (tickStart (s.ptpTime d) - (s.dev d).stagger)))

/-- The words of 64 bits of an image. -/
def imageWord (v i : Nat) : W64 := BitVec.ofNat 64 (v / 2 ^ (64 * i))

/-- The check of an access of a form of its own to the issuing core's own scratchpad for reading (R58, R61): PROT where a region refuses it; a
guard hit is reported, and nothing is read. -/
def localCheck (s : State) (off len : Nat) : Except Trap (State × Bool) :=
  let k := slotCore s.cur
  if !s.protAllows k off len (s.unitAccessor s.cur k) false then .error { cause := causeProt, addr := BitVec.ofNat 64 off }
  else if s.guarded k off then
    let t := s.slot s.cur
    .ok (s.setSlot s.cur (t.guardHit (t.guardmode.getLsbD 0) (BitVec.ofNat 64 off)), false)
  else .ok (s, true)

/-- A read of the issuing core's own scratchpad on path C by a form of its own (R306, R334, R341); zero where a guard bit is set. -/
def localRead (s : State) (off len : Nat) : Except Trap (State × (Nat → W64)) :=
  match localCheck s off len with
  | .error t => .error t
  | .ok (s, false) => .ok (s, fun _ => 0)
  | .ok (s, true) =>
    let r := s.tick.look 0 s.tick.viewer (scratchLoc (slotCore s.cur) off) len
    .ok (r.1, imageWord r.2)

/-- A slot's own access to a line waits for an earlier one to it (R192). -/
def lineWait (s : State) (off : Nat) : Bool :=
  !s.holds s.cur (.line (Target.scratch (slotCore s.cur) off).line)

/-- TWREL (R341). -/
def execTwrel (x : Fld) (s : State) : Out :=
  .next (issue uDAB x s fun v s =>
    let off := bits v.b 18 0
    let part := s.partOf (slotCluster s.cur)
    let dev := slotDev s.cur
    if bits v.b 31 19 ≠ 0 ∨ bits v.b 63 39 ≠ 0 then .trap { cause := causeAddr, addr := v.b }
    else if off % 64 ≠ 0 then .trap { cause := causeAlign, addr := v.b }
    else
      match s.physCluster part (bits v.b 38 32) with
      | none => .trap { cause := causeAddr, addr := v.b }
      | some c =>
        if lineWait s off then .wait (.line (Target.scratch (slotCore s.cur) off).line) none false 0 else
        match localRead s off 64 with
        | .error t => .trap t
        | .ok (s, w) =>
          let t := s.slot s.cur
          let r := { recordOf w t.home 3 t.phase 0 with corr := t.corr }
          askNet s x [x.d.toNat] (officeNi part) fun tag s =>
            let v' := s.dev dev
            let full := decide (65536 ≤ v'.wheel.length) ||
              decide ((s.part part).quotaTimers ≤ (v'.wheel.filter fun q => q.part == part).length)
            let s := if full then s else
              armTick (s.setDev dev { v' with wheel := v'.wheel ++ [{ time := v.a, body := r, cluster := c, part := part }] }) dev
            s.sendTag (officeNi part) part tag { ins := .fill s.cur t.gen tag (if full then 1 else 0) })

/-- STAGGER at the device State.cur (R424): data are the two words of the message. From the device's management endpoint it goes to every
device of the domain; a third word says that it arrives there. A message whose EPOCH is not above the last one applied is ignored; the offset
applies at the next tick. -/
def execStagger (s : State) : Out :=
  .next (match s.data with
    | [w0, w1] => s.postAll ((List.range devices).map fun d => { who := d, data := [w0, w1, 1], ins := .stagger })
    | w0 :: w1 :: _ =>
      let d := s.cur
      let v := s.dev d
      if bits w1 31 0 ≤ v.epoch.toNat then s else
      let span := bits w0 63 32
      let off := if span = 0 then 0 else d * bits w0 31 0 % span / 256 * 256
      armTick (s.setDev d { v with epoch := w1.setWidth 32, newStagger := some (BitVec.ofNat 64 off) }) d
    | _ => s)

/-- The best master a device knows of: the announced one of the lowest rank whose announcement lasts (R407). -/
def bestMaster (s : State) (d : Nat) : Option Nat :=
  (((s.dev d).masters.filter fun m => decide (s.now ≤ m.until_)).map PtpMaster.rank).foldl
    (fun (b : Option Nat) r => match b with
      | none => some r
      | some q => some (Nat.min q r)) none

/-- A sync message of the best master: its time of departure and the frequency correction. A time ahead is taken, with the path delay; one
behind slows the clock until the error is spent. A delay request leaves. -/
def ptpSync (s : State) (d : Nat) (t1 f : W64) : State :=
  let now := s.ptpTime d
  let t := t1 + BitVec.ofNat 64 (s.dev d).delay
  let s := s.updDev d fun v => { v with ptpSet := if now.toNat ≤ t.toNat then t else now, ptpAt := s.now, freq := f, master := true,
                                        slow := now.toNat - t.toNat }
  let s := s.updDev d fun v => { v with sync21 := s.ptpTime d - t1, delayReq := some (s.ptpTime d) }
  { s with out := s.out ++ [{ who := d, status := 0, data := [s.ptpTime d] }] }

/-- The response to a delay request: the mean of the two ways is the path delay. -/
def ptpDelay (s : State) (d : Nat) (t4 : W64) : State :=
  s.updDev d fun v => match v.delayReq with
    | none => v
    | some t3 => { v with delayReq := none, delay := ((v.sync21.toInt + (t4 - t3).toInt) / 2).toNat }

/-- PTP_MESSAGE at the device State.cur (R407): data are its kind, its master's rank, and what it carries: 0 an announcement (for how many
cycles it lasts), 1 a sync message (time, frequency correction), 2 the response to a delay request (time of its arrival). Only the best
master's sync and response count. -/
def execPtpMessage (s : State) : Out :=
  .next (match s.data with
    | kind :: rank :: l =>
      let d := s.cur
      let best := bestMaster s d == some rank.toNat
      if kind = 0 then
        s.updDev d fun v => { v with masters := v.masters.filter (fun m => m.rank != rank.toNat) ++
          [{ rank := rank.toNat, until_ := s.now + (l.getD 0 0).toNat }] }
      else if kind = 1 ∧ best then ptpSync s d (l.getD 0 0) (l.getD 1 0)
      else if kind = 2 ∧ best then ptpDelay s d (l.getD 0 0) else s
    | _ => s)

/-- PTP_MASTER_LOSS at the device State.cur (R407): the clock runs free from its last frequency correction. -/
def execPtpMasterLoss (s : State) : Out := .next (s.updDev s.cur fun v => { v with master := false, masters := [], delayReq := none })

end Sys2Proof.Machine
end

