-- ==== Sys2Proof/Machine/Regions.lean ====
section
/-! DEFINITION. Atomic regions (R118 to R124, R202, R365 to R371): the write-set directories, the coordinators, and the
instructions ARNEW, AREN, ARCOM, ARABT, ARINFO. A coordinator's place is `cluster * 1024 + index`. -/

namespace Sys2Proof.Machine
open Sys2Proof

/-! ## Coordinators -/

/-- REGION_ABORT_REQUEST at the coordinator State.cur: data are the cause, the generation, the ARABT that waits, whose unit has AR_ABORT
pending before its answer (R369), the tag, and the place in the order of issue. -/
def regionAbortRequest (s : State) : State :=
  match s.data with
  | cause :: gen :: slot :: sgen :: tag :: _ =>
    let s := s.deliverTag (coordNi s.cur) tag.toNat
    let asks := if tag.toNat < 4 then none else some (slot.toNat, (sgen.setWidth 32 : BitVec 32))
    let s := askAbort s s.cur gen cause.toNat asks
    if tag.toNat < 4 then s
    else s.answerWith (coordNi s.cur) (s.partOf (s.cur / 1024)) slot.toNat (sgen.setWidth 32) tag.toNat 0
  | _ => s

def execRegionAbortRequest (s : State) : Out := .next (regionAbortRequest s)

/-- REGION_DEADLINE at the coordinator State.cur: data are the generation it was armed for. -/
def execRegionDeadline (s : State) : Out := .next (askAbort s s.cur (s.data.headD 0) 5)

/-- REGION_MEMBER_KILLED (R124): an OPEN region aborts; the member counts as having received its outcome. -/
def regionMemberKilled (s : State) (part : Nat) (h : W64) (slot : Nat) (gen : BitVec 32) : State :=
  match regionOf s part h with
  | none => s
  | some (c, i, r) =>
    let r := { r with members := r.members.map fun m => if m.slot = slot ∧ m.gen = gen then { m with told := true } else m }
    let place := c * 1024 + i
    if r.st = 1 then abortRegion s place r 4 else s.setRegion place r

def execRegionMemberKilled (part : Nat) (region : W64) (slot : Nat) (gen : BitVec 32) (s : State) : Out :=
  .next (regionMemberKilled s part region slot gen)

/-- REGION_MEMBER_JOIN at the coordinator State.cur (R124, R367): data are the handle, the slot, its GEN, its tag and the partition. -/
def regionMemberJoin (s : State) : State :=
  match s.data with
  | [h, slot, sgen, tag, part] =>
    let sl := slot.toNat
    let g : BitVec 32 := sgen.setWidth 32
    let ni := coordNi s.cur
    let s := s.deliverTag ni tag.toNat
    let ans (s : State) (v : V512) : State := s.answerWith ni part.toNat sl g tag.toNat v
    match regionOf s part.toNat h with
    | none => s.refuseWith ni part.toNat sl g tag.toNat causeAddr h
    | some (c, i, r) =>
      if r.st ≠ 1 then ans s 2
      else if r.m ≤ r.members.length then ans s 1
      else
        let s := s.setRegion (c * 1024 + i)
          { r with members := r.members ++ [{ slot := sl, gen := g, voted := false, told := false, slices := [] }] }
        ans (s.updSlot sl fun t => if t.gen = g then { t with region := some h, voted := false } else t) 0
  | _ => s

def execRegionMemberJoin (s : State) : Out := .next (regionMemberJoin s)

/-- The committed outcome fills a member's waiting ARCOM (R124, R202, R368): d becomes 0, the membership ends. The fill of a halted slot is
held until the release (R426). -/
def fillCommit (s : State) (place : Nat) (h : W64) : State :=
  match s.regionAt place h with
  | none => s
  | some r =>
    let waiting (m : RegMember) : Bool :=
      let t := s.slot m.slot
      t.gen == m.gen && decide (t.st = .suspended .arcom) && t.region == some h
    let done (s : State) (m : RegMember) : State :=
      match (s.slot m.slot).outst.find? (fun o : Outst => o.len != 0) with
      | some o =>
        let s := s.injectTag (coordNi place) r.part o.tag
        (wakeFill s m.slot m.gen o.tag 0).updSlot m.slot fun t =>
          { t with region := none, voted := false }
      | none => s
    let s := (r.members.filter waiting).foldl done s
    s.setRegion place { r with members := r.members.map fun m => if waiting m then { m with told := true } else m }

/-- All slices have installed: COMMITTED (R124). -/
def committed (s : State) (place : Nat) (r : Region) : State :=
  let s := s.setRegion place { r with st := 4, acks := [] }
  fillCommit s place (regionHandle s (place / 1024) (place % 1024) r.gen)

/-- REGION_VOTE at the coordinator State.cur (R123, R124): data are the generation, the slot, its GEN, the tag, and 1 for an ARCOM that
does not block. The M-th vote is the commit point. -/
def regionVote (s : State) : State :=
  match s.data with
  | [gen, slot, sgen, tag, nb] =>
    let s := s.deliverTag (coordNi s.cur) tag.toNat
    let s := if nb = 0 then s else
      s.answerWith (coordNi s.cur) (s.partOf (s.cur / 1024)) slot.toNat (sgen.setWidth 32) tag.toNat (BitVec.ofNat 512 (2 ^ 64 - 1))
    match s.regionAt s.cur gen with
    | none => s
    | some r =>
      if r.st ≠ 1 ∨ !r.members.any (fun m => m.slot == slot.toNat && m.gen == sgen.setWidth 32 && !m.voted) then s else
      let r := { r with votes := r.votes + 1, members := r.members.map fun m =>
        if m.slot = slot.toNat ∧ m.gen = sgen.setWidth 32 then { m with voted := true } else m }
      if r.votes < r.m then s.setRegion s.cur r
      else if r.slices = [] then committed s s.cur r
      else toSlices (s.setRegion s.cur { r with st := 2, acks := r.slices }) s.cur r .regionInstall
  | _ => s

def execRegionVote (s : State) : Out := .next (regionVote s)

/-- A slice's acknowledgement is noted. -/
def ackSlice (r : Region) (sl : Nat) : Region := { r with acks := r.acks.filter (· != sl) }

/-- REGION_INSTALL_ACK at the coordinator State.cur: data are the handle, the slice and the tag. -/
def regionInstallAck (s : State) : State :=
  match s.data with
  | [gen, sl, tag] =>
    let s := s.deliverTag (coordNi s.cur) tag.toNat
    match s.regionAt s.cur gen with
    | none => s
    | some r =>
      let r := ackSlice r sl.toNat
      if r.st = 2 ∧ r.acks = [] then committed s s.cur r else s.setRegion s.cur r
  | _ => s

def execRegionInstallAck (s : State) : Out := .next (regionInstallAck s)

/-- REGION_DISCARD_ACK at the coordinator State.cur: the last one moves the region to ABORTED. -/
def regionDiscardAck (s : State) : State :=
  match s.data with
  | [gen, sl, tag] =>
    let s := s.deliverTag (coordNi s.cur) tag.toNat
    match s.regionAt s.cur gen with
    | none => s
    | some r =>
      let r := ackSlice r sl.toNat
      s.setRegion s.cur (if r.st = 3 ∧ r.acks = [] then { r with st := 5 } else r)
  | _ => s

def execRegionDiscardAck (s : State) : Out := .next (regionDiscardAck s)

/-! ## Slices (R120 to R123) -/

/-- REGION_INSTALL at the slice State.cur (R123), REGION_DISCARD at it. -/
def regionInstall (s : State) : State := slicePart s s.cur true s.data
def execRegionInstall (s : State) : Out := .next (regionInstall s)
def regionDiscard (s : State) : State := slicePart s s.cur false s.data
def execRegionDiscard (s : State) : Out := .next (regionDiscard s)

/-- The vote of an ARCOM leaves its core, after the acknowledgement of its last PREPARE (R122). -/
def castVote (s : State) (home place : Nat) (h slot sgen tag nb : W64) : State :=
  s.sendTag (slotCore slot.toNat) home tag.toNat { who := place, ins := .regionVote, data := [h, slot, sgen, tag, nb] }

/-- PREPARE at the slice State.cur (R122): data are the coordinator's partition, the handle, the slot, its GEN, the number its acknowledgements
are counted under, the tag, and 1 for an ARCOM that does not block. Its acknowledgement goes back at once. -/
def prepareAt (s : State) : State :=
  match s.data with
  | [home, h, slot, sgen, key, tag, nb] =>
    let s := (s.deliverTag (sliceNi s.cur) tag.toNat).exchange (sliceNi s.cur) (slotCore slot.toNat) home.toNat (tag.toNat % 2 == 1)
    let s := s.updSlice s.cur fun x =>
      { x with ws := x.ws.map (fun e => if WsEntry.of e home.toNat h && e.w then { e with prep := true } else e),
               prepared := if x.prepared.contains (home.toNat, h) then x.prepared else x.prepared ++ [(home.toNat, h)] }
    match Sp.find s.assembly key.toNat, regionOf s home.toNat h with
    | some m, some (c, i, _) =>
      if 1 < m.left then { s with assembly := Sp.put s.assembly key.toNat { m with left := m.left - 1 } }
      else castVote { s with assembly := Sp.erase s.assembly key.toNat } home.toNat (c * 1024 + i) h slot sgen tag nb
    | _, _ => { s with assembly := Sp.erase s.assembly key.toNat }
  | _ => s

def execPrepare (s : State) : Out := .next (prepareAt s)

/-! ## A line of second-tier memory (R121) -/

/-- The `n` bytes of a line from byte `pos` on, as a region's entry shows them. -/
def viewBytes (s : State) (e : WsEntry) (pos : Nat) : Nat → Nat
  | 0 => 0
  | n + 1 => (if e.mask.getLsbD pos then e.data.toNat / 2 ^ (8 * pos) % 256 else (s.byte (e.loc + pos)).toNat) +
      256 * viewBytes s e (pos + 1) n

/-- An entry with `n` tentative bytes of a value from byte `pos` on. -/
def tentative (e : WsEntry) (pos v n : Nat) : WsEntry :=
  let m := (2 ^ n - 1) * 2 ^ pos
  let dm := (2 ^ (8 * n) - 1) * 2 ^ (8 * pos)
  { e with w := true, mask := e.mask ||| BitVec.ofNat 64 m,
           data := (e.data &&& ~~~BitVec.ofNat 512 dm) ||| BitVec.ofNat 512 (v % 2 ^ (8 * n) * 2 ^ (8 * pos)) }

/-- The OPEN region an access enters as a member: its coordinator's place and its record. What a member issues that has voted is as by a
non-member (R121). -/
def memberRegion (s : State) (a : Access) : Option (Nat × Region) :=
  match a.region.bind (regionOf s a.part) with
  | none => none
  | some (c, i, r) =>
    if r.st = 1 ∧ r.members.any (fun m => m.slot == a.slot && m.gen == a.gen && !m.voted) then some (c * 1024 + i, r) else none

/-- A slice takes part in a region, for a member. -/
def addSlice (r : Region) (a : Access) (sl : Nat) : Region :=
  { r with slices := if r.slices.contains sl then r.slices else r.slices ++ [sl],
           members := r.members.map fun m => if m.slot = a.slot ∧ m.gen = a.gen ∧ !m.slices.contains sl
             then { m with slices := m.slices ++ [sl] } else m }

/-- An access to bytes of one line at its home slice (R121): `writes` gives what it stores for the bytes that are there. -/
def lineAccess (s : State) (a : Access) (sl part va loc len : Nat) (writes : Nat → List (Nat × Nat × Nat)) (o : Op) : LineGot :=
  match memberRegion s a with
  | none => nonMemberLine s sl part va loc len (opWrites a.op) writes o
  | some (place, r) =>
    let es := s.lineEntries sl part (va / 64)
    let h := a.region.getD 0
    let mine (e : WsEntry) : Bool := WsEntry.of e r.part h
    let others := es.filter fun e => !mine e
    let fresh : WsEntry := { part := part, line := va / 64, home := r.part, region := h, loc := loc - va % 64, r := false,
                             w := false, prep := false, mask := 0, data := 0 }
    let own := es.find? mine
    let e := own.getD fresh
    let old := viewBytes s e (va % 64) len
    let wr := writes old != []
    let x := s.slice sl
    if others.any (fun q => q.w) ∨ (wr ∧ others ≠ []) then
      nonMemberLine (abortRegion s place r 1) sl part va loc len (opWrites a.op) writes o
    else if own.isNone ∧ (4096 ≤ x.ws.length ∨ (!r.slices.contains sl ∧ 64 ≤ r.slices.length)) then
      nonMemberLine (abortRegion s place r 2) sl part va loc len (opWrites a.op) writes o
    else
      let e' := (writes old).foldl (fun q w => tentative q (va % 64 + w.1) w.2.2 w.2.1)
        { e with r := e.r || !wr || opFills a.op }
      let e' := { e' with prep := e'.w && (e'.prep || x.prepared.contains (r.part, h)) }
      let s := s.setSlice sl { x with ws := x.ws.filter (fun q => !(q.part == part && q.line == va / 64 && mine q)) ++ [e'] }
      .done (s.setRegion place (addSlice r a sl)) old

/-! ## Instructions -/

/-- The lowest FREE record of a cluster. -/
def freeRegion (s : State) (c : Nat) : Option Nat :=
  (List.range 1024).find? fun i => (Sp.get ({} : Region) (s.cluster c).regions i).st == 0

/-- ARNEW (R366). -/
def execArnew (x : Fld) (s : State) : Out :=
  .next (issue uDAB x s fun v s =>
    if v.a = 0 ∨ 64 < v.a.toNat then .trap { cause := causeAddr, addr := v.a }
    else if !upperClear v.b then .trap { cause := causeAddr, addr := v.b }
    else
      let c := slotCluster s.cur
      askNet s x [x.d.toNat] (c * 128) fun tag s =>
      let t := s.slot s.cur
      let ans (s : State) (v : W64) : State := s.answerWith (c * 128) (s.partOf c) s.cur t.gen tag (v.setWidth 512)
      match freeRegion s c with
      | none => ans s (-1)
      | some i =>
        let old : Region := Sp.get {} (s.cluster c).regions i
        let r : Region := { gen := old.gen, part := s.partOf c, m := v.a.toNat, st := 1, deadline := v.b.setWidth 32, born := s.now,
                            level := t.level, home := t.home, phase := t.phase }
        let s := s.setRegion (c * 1024 + i) r
        let s := if v.b = 0 then s else
          s.opAt (s.now + v.b.toNat * 1024) { who := c * 1024 + i, data := [r.gen.setWidth 64], ins := .regionDeadline }
        ans s (regionHandle s c i r.gen))

/-- AREN (R367): it waits for every outstanding access of the slot. DESIGN CHOICE (assumption 120): for a slot that has a membership, status 3
comes before the check of the handle. -/
def execAren (x : Fld) (s : State) : Out :=
  .next (issue uDA x s fun v s =>
    let part := s.partOf (slotCluster s.cur)
    let t := s.slot s.cur
    if !s.holds s.cur .settled then .wait .settled none false 0
    else if t.region.isSome then .next (s.putG x.d.toNat 3)
    else match regionOf s part v.a with
      | none => .trap { cause := causeAddr, addr := v.a }
      | some (c, i, _) => askSend s x [x.d.toNat] fun tag =>
          { who := c * 1024 + i, ins := .regionMemberJoin,
            data := [v.a, BitVec.ofNat 64 s.cur, t.gen.setWidth 64, BitVec.ofNat 64 tag, BitVec.ofNat 64 part] })

/-- TRAPINFO of an ARCOM whose limit expires (R368). -/
def arcomInfo (s : State) (part : Nat) (h : W64) : W64 :=
  match regionOf s part h with
  | some (_, i, r) => BitVec.ofNat 64 (i + r.votes * 65536 + r.m * 2 ^ 32)
  | none => BitVec.ofNat 64 (bits h 46 32)

/-- Sends the PREPAREs of an ARCOM, or its vote where the member holds no entry (R122); `nb` for one that does not block. -/
def startVote (s : State) (part : Nat) (h : W64) (tag : Nat) (nb : Bool) : State :=
  let t := s.slot s.cur
  let s := s.updSlot s.cur fun t => { t with voted := true }
  match regionOf s part h with
  | none => s
  | some (c, i, r) =>
    let slices := ((r.members.find? fun m => m.slot == s.cur && m.gen == t.gen).map RegMember.slices).getD []
    let w (n : Nat) : W64 := BitVec.ofNat 64 n
    let q : W64 := if nb then 1 else 0
    if slices = [] then castVote s part (c * 1024 + i) h (w s.cur) (t.gen.setWidth 64) (w tag) q else
    let key := 4 * s.ticket
    let m : Assembly := { left := slices.length, data := 0, refused := none, faults := [], failed := 0 }
    let s := { s.tick with assembly := Sp.put s.assembly key m }
    let d : List W64 := [w r.part, h, w s.cur, t.gen.setWidth 64, w key, w tag, q]
    slices.foldl (fun s sl => s.sendTag (slotCore s.cur) part tag { who := sl, ins := .prepare, data := d }) s

/-- The slot waits for its region's outcome (R171, R368), d EMPTY meanwhile (R384). -/
def suspendArcom (s : State) (x : Fld) (d tag : Nat) (limit : Option Nat) : State :=
  (awaitAnswer (askEntry s x [d] true tag) tag limit true 0).updSlot s.cur fun t => { t.markEmpty [d] with st := .suspended .arcom }

/-- ARCOM (R368). -/
def execArcom (x : Fld) (s : State) : Out :=
  .next (issue uD x s fun _ s =>
    let t := s.slot s.cur
    let part := s.partOf (slotCluster s.cur)
    let d := x.d.toNat
    let tag := s.netTag t.phase
    match t.region with
    | none => .next (s.putG d 2)
    | some h =>
    if t.voted then
      match regionOf s part h with
      | some (_, i, r) =>
        if r.st = 4 then
          let s := regionTold s part h s.cur t.gen
          .next ((s.updSlot s.cur fun t => { t with region := none, voted := false }).putG d 0)
        else if t.waitMode = 2 then .next (s.putG d (-1))
        else if t.waitMode = 1 ∧ t.waitLimit = 0 then .trap { cause := causeWaitTimeout, info := BitVec.ofNat 64 (i + r.votes * 65536 + r.m * 2 ^ 32) }
        else .hold (suspendArcom s x d tag t.limit)
      | none => .hold (suspendArcom s x d tag t.limit)
    else if !s.holds s.cur .settled then .wait .settled none false 0
    else if t.waitMode = 2 then
      .hold (startVote ((awaitAnswer (askEntry s x [d] false tag) tag none false 0).updSlot s.cur fun t => t.markEmpty [d]) part h tag true)
    else .hold (startVote (suspendArcom s x d tag t.limit) part h tag false))

/-- ARABT (R369). -/
def execArabt (x : Fld) (s : State) : Out :=
  .next (issue uNone x s fun _ s =>
    let t := s.slot s.cur
    match t.region.bind fun h => (regionOf s (s.partOf (slotCluster s.cur)) h).map fun r => (h, r.1, r.2.1) with
    | none => .next s
    | some (h, c, i) =>
      askSend s x [] fun tag => abortRequest s (c * 1024 + i) 3 h (BitVec.ofNat 64 tag) (BitVec.ofNat 64 s.cur) (t.gen.setWidth 64))

/-- Words 0 to 2 of a region record (R119). -/
def regionWord (r : Region) (i : Nat) : W64 :=
  match i with
  | 0 => BitVec.ofNat 64 (r.st + r.cause * 8 + r.votes * 2 ^ 9 + r.members.length * 2 ^ 16 + r.m * 2 ^ 23 + r.gen.toNat * 2 ^ 32)
  | 1 => BitVec.ofNat 64 (r.slices.length + r.deadline.toNat * 2 ^ 32)
  | _ => r.level

/-- ARINFO (R370). -/
def execArinfo (x : Fld) (s : State) : Out :=
  .next (issue uDAB x s fun v s =>
    if 2 < v.b.toNat then .trap { cause := causeAddr, addr := v.b } else
    match regionOf s (s.partOf (slotCluster s.cur)) v.a with
    | none => .trap { cause := causeAddr, addr := v.a }
    | some (c, _, r) => askNet s x [x.d.toNat] (c * 128) fun tag s =>
        s.answerWith (c * 128) (s.partOf (slotCluster s.cur)) s.cur (s.slot s.cur).gen tag ((regionWord r v.b.toNat).setWidth 512))

end Sys2Proof.Machine
end

