-- ==== Sys2Proof/Machine/Slice.lean ====
section
/-! DEFINITION. Homes (R50, R55 to R66): the checked way to a location for any accessor; the memory slice: an access arrives
there (R62 to R68, R121), and a shoot-down of its translations (R66). -/

namespace Sys2Proof.Machine
open Sys2Proof

/-! ## The home of a global address -/

/-- What the home of an address answers to an accessor: the location of its bytes and what it names, a guard hit (R61), a
refusal, or a page fault (R71). -/
inductive Home where
  | loc (t : Target) (l : Nat)
  | guard
  | refused (cause : Nat)
  | fault (page : Nat)
deriving DecidableEq, Repr

/-- The check of a page-table or segment result. -/
def Check.home (c : Check) (page : Nat) (ok : Home) : Home :=
  match c with
  | .ok => ok
  | .refuse k => .refused k
  | .fault => .fault page

/-- The checks at the home of `len` bytes in one line at a target, for reading, writing or both (R56 to R66). -/
def State.homeAt (s : State) (x : Accessor) (t : Target) (len : Nat) (rd wr : Bool) : State × Home :=
  match t with
  | .scratch core off =>
    let part := s.partAt x.part (clusterDev (coreCluster core))
    let acc := { x with part := part, own := x.own && slotCore x.slot == core }
    (s, (s.segment (coreCluster core) part (core % 128) false rd wr).home (s.corePage core off)
      (if (rd && !s.protAllows core off len acc false) || (wr && !s.protAllows core off len acc true) then .refused causeProt
       else if s.guarded core off || s.guarded core (off + len - 1) then .guard else .loc t (scratchLoc core off)))
  | .istore core off =>
    let part := s.partAt x.part (clusterDev (coreCluster core))
    (s, (s.segment (coreCluster core) part (core % 128) true rd wr).home (s.corePage core off) (.loc t (istoreLoc core off)))
  | .second dev va =>
    let part := s.partAt x.part dev
    match s.translate dev part va wr with
    | (s, none) => (s, .fault (faultPage dev va))
    | (s, some e) => (s, (pteCheck e part rd wr).home (faultPage dev va) (.loc t (pteLoc e dev va)))

/-- The same for a global address that a copy names; ADDR where it names nothing. -/
def State.copyHome (s : State) (x : Accessor) (a : W64) (len : Nat) (rd wr : Bool) : State × Home :=
  match s.globalTarget x.part a with
  | none => (s, .refused causeAddr)
  | some t => s.homeAt x t len rd wr

/-- The same for every other access by a global address: it does not reach an instruction store (R57). -/
def State.homeOf (s : State) (x : Accessor) (a : W64) (len : Nat) (rd wr : Bool) : State × Home :=
  match s.globalTarget x.part a with
  | none | some (.istore _ _) => (s, .refused causeAddr)
  | some t => s.homeAt x t len rd wr

/-! ## The decoding load at a slice (R63, R67, R68, R274) -/

/-- What a read of a scale slot gives. -/
inductive ScaleGot where
  | slot (s : State) (w : Nat)
  | guard (s : State)
  | bad (s : State) (r : Reply)
  | stalled (s : State)

/-- Reads a scale slot for an access (R68). DESIGN CHOICE (assumption 144): where that read is refused, TRAPADDR is the slot's address (R42). -/
def readScale (s : State) (a : Access) (addr : W64) (o : Op) : ScaleGot :=
  match s.homeOf (accAccessor a (slotCore a.slot)) addr 4 true false with
  | (s, .loc (.second dev va) l) =>
    match lineAccess s a (pageSlice dev va) (s.partAt a.part dev) va l 4 (fun _ => []) o with
    | .done s w => let r := pathC s a l 4 w
                   .slot (r.1.sliceBytes a.part 4) r.2
    | .stalled s => .stalled s
  | (s, .loc _ l) => let r := pathC s a l 4 (s.read l 4)
                     .slot r.1 r.2
  | (s, .guard) => .guard (guardReport s a addr)
  | (s, .refused c) => .bad s (.refused c addr)
  | (s, .fault p) => .bad s (.fault p)

/-- VLDF at its home slice: format and block come from the leaf entry. DESIGN CHOICE (assumption 144): a refused read of its scale slot reports
the slot's address. -/
def sliceVldf (s : State) (a : Access) (i sl part dev va : Nat) (e : W64) (o : Op) : State :=
  let fmt := bits e 7 4
  let blk := bits e 10 8
  if !fmtOk fmt blk then answerPiece s a i (.refused causeFormat a.ea)
  else if !vldfAligned fmt va then answerPiece s a i (.refused causeAlign a.ea)
  else
    let n := ((vldfShape fmt).getD (0, 0)).1
    match lineAccess s a sl part va (pteLoc e dev va) n (fun _ => []) o with
    | .stalled s => s
    | .done s old =>
      let r := pathC s a (pteLoc e dev va) n old
      let s := r.1
      let answers (s : State) (r : Reply) : State := answerPiece (s.sliceBytes a.part n) a i r
      if !fmtScaled fmt then answers s (.value (vldfDecode fmt r.2 none)) else
      match readScale s a (scaleAddr (s.part a.part).scalebase va blk) o with
      | .stalled s => s
      | .guard s => answers s (.value 0)
      | .bad s q => answers s q
      | .slot s w =>
        match bs20 w with
        | none => answers s (.refused causeFormat a.ea)
        | some sc => answers s (.value (vldfDecode fmt r.2 (some sc)))

/-! ## An access at a slice -/

/-- The bytes an access brings through its slice (R147); a decoding load's are those of its format. -/
def pieceBytes (a : Access) (p : Piece) : Nat :=
  match a.op with
  | .vldf _ => 0
  | _ => p.len

/-- SLICE_ACCESS (R62 to R66, R121, R193): piece `i` of an access is translated, checked, and performed or entered in the write
set; or it stalls and arrives again, with data that say it has been delivered. -/
def sliceArrive (s : State) (a : Access) (i : Nat) : State :=
  let p := (accPieces a).getD i { ea := a.ea, len := 1, pos := 0 }
  let s := if s.data = [] then (s.tick.deliverTag (homeNi s a p) a.tag).sliceBytes a.part (pieceBytes a p) else s.tick
  match heldFault s a i p with
  | some page => answerPiece s a i (.fault page)
  | none =>
  match s.target (slotCore a.slot) a.part a.mode p.ea with
  | some (.second dev va) =>
    let part := s.partAt a.part dev
    let sl := pageSlice dev va
    match s.translate dev part va (opWrites a.op) with
    | (s, none) => answerPiece s a i (.fault (faultPage dev va))
    | (s, some e) =>
      match pteCheck e part (opReads a.op) (opWrites a.op) with
      | .refuse c => answerPiece s a i (.refused c p.ea)
      | .fault => answerPiece s a i (.fault (faultPage dev va))
      | .ok =>
        let o : Op := { ins := .sliceAccess a i, data := [1] }
        match a.op with
        | .vldf _ => sliceVldf s a i sl part dev va e o
        | _ =>
          match lineAccess s a sl part va (pteLoc e dev va) p.len (pieceWrites a p) o with
          | .stalled s => s
          | .done s old =>
            if a.op = .acq ∧ old = 0 ∧ !a.nb then
              { s with parked := s.parked ++ [{ slot := a.slot, gen := a.gen, tag := a.tag, loc := pteLoc e dev va, acquire := true,
                                                want := 0 }] }
            else
              let r := if opFills a.op then pathC s a (pteLoc e dev va) p.len old else (s, 0)
              answerPiece r.1 a i (pieceValue p r.2)
  | _ => answerPiece s a i (.refused causeAddr p.ea)

def execSliceAccess (a : Access) (i : Nat) (s : State) : Out := .next (sliceArrive s a i)

/-! ## Shoot-down (R66) -/

/-- SHOOTDOWN of the partition State.cur: its translations leave every slice; what is translated later uses the tables as they
are. -/
def shootdown (s : State) : State :=
  let part := s.cur
  { s with slices := s.slices.map fun (x : Nat × Slice) =>
      (x.1, { x.2 with tcache := x.2.tcache.filter fun e => e.1 / 2 ^ 30 != part }) }

def execShootdown (s : State) : Out := .next (shootdown s)

end Sys2Proof.Machine
end

