-- ==== Sys2Proof/Machine/Columns.lean ====
section
/-! DEFINITION. The columns of a term array in time (R142, R312, R313): what each does in an array cycle, and the counters that
follow. Lane results do not depend on any of it (R311). -/

namespace Sys2Proof.Machine
open Sys2Proof

/-- Adds to a counter of a column group (R142). -/
def addCtr (m : Sp (BitVec 48)) (group kind n : Nat) : Sp (BitVec 48) :=
  if n = 0 then m else Sp.set 0 m (group * 8 + kind) (Sp.get 0 m (group * 8 + kind) + BitVec.ofNat 48 n)

/-- The k-steps of a run that is performed. -/
def TermArray.runSteps (a : TermArray) : Nat := (a.cmd.map fun k => k.b.toNat).getD 0

/-- The least number of finished k-steps among the columns of a list that have not finished all `kn`; none where all have. -/
def leastDone (kn : Nat) (l : List Column) : Option Nat :=
  l.foldl (fun (m : Option Nat) c => if kn ≤ c.done then m else some (Nat.min c.done (m.getD c.done))) none

/-- The columns of a group. -/
def groupCols (l : List Column) (g : Nat) : List Column := (l.drop (16 * g)).take 16

/-- The k-steps that the columns of a group may not yet begin in this array cycle (R312): its own drift, and the macro steps of the
other groups. -/
def driftLimit (kn : Nat) (all : List Column) (g : Nat) : Nat :=
  match leastDone kn all, leastDone kn (groupCols all g) with
  | some m, some n => Nat.min (n + 16) (16 * (m / 16 + 2))
  | _, _ => kn

/-- Skips up to `fuel` zero elements: the column, and how many. -/
def Column.skip (c : Column) (top : Nat) : Nat → Column × Nat
  | 0 => (c, 0)
  | fuel + 1 =>
    match c.terms with
    | 0 :: l => if top ≤ c.done then (c, 0) else
      let r := Column.skip { done := c.done + 1, terms := l } top fuel
      (r.1, r.2 + 1)
    | _ => (c, 0)

/-- Applies a term of the next element, if it is fetched and may be begun. -/
def Column.apply (c : Column) (top : Nat) : Column × Bool :=
  match c.terms with
  | 0 :: _ => (c, false)
  | n :: l => if top ≤ c.done then (c, false) else
    if n = 1 then ({ done := c.done + 1, terms := l }, true) else ({ c with terms := (n - 1) :: l }, true)
  | [] => (c, false)

/-- The column's next k-step may begin but has not been fetched. -/
def Column.wants (c : Column) (kn top : Nat) : Bool := decide (c.done < kn) && decide (c.done < top) && c.terms.isEmpty

/-- One column in one array cycle: the counter kinds of R142 it advances, with amounts. `b`: the row of B that its next k-step needs is
not yet in the group's window. -/
def Column.cycle (c : Column) (kn top : Nat) (b : Bool) : Column × List (Nat × Nat) :=
  if kn ≤ c.done then (c, []) else
  let z := c.skip top 4
  let t := z.1.apply top
  (t.1, if t.2 then [(1, 1), (2, z.2)] else if z.2 ≠ 0 then [(2, z.2)]
        else if top ≤ c.done then [(3, 1)] else if b then [(5, 1)] else [(4, 1)])

/-- All columns in one array cycle; `b` says which run rows of B have not come into the windows. -/
def arrayCycle (a : TermArray) (kn : Nat) (b : Nat → Bool) : TermArray :=
  let groups := List.range ((a.cols.length + 15) / 16)
  groups.foldl (fun (x : TermArray) g =>
    let top := driftLimit kn a.cols g
    let r := (groupCols a.cols g).map fun (q : Column) => q.cycle kn top (b q.done)
    let ctr := (r.flatMap Prod.snd).foldl (fun m q => addCtr m g q.1 q.2) x.ctr
    { x with cols := x.cols ++ r.map Prod.fst,
             ctr := if (leastDone kn (groupCols a.cols g)).isSome then addCtr ctr g 0 1 else ctr }) { a with cols := [] }

/-- A column waits for a fetch. -/
def TermArray.wants (a : TermArray) (kn : Nat) : Bool :=
  (List.range ((a.cols.length + 15) / 16)).any fun g => (groupCols a.cols g).any fun c => c.wants kn (driftLimit kn a.cols g)

/-- Array cycles until a column waits for a fetch, or all have finished. -/
def runColumns (a : TermArray) (kn : Nat) : Nat → TermArray
  | 0 => a
  | fuel + 1 => if (leastDone kn a.cols).isNone ∨ a.wants kn then a else runColumns (arrayCycle a kn fun _ => false) kn fuel

/-- In array cycle `i` of a late fetch a run row of B is not yet in the windows: a free value says for how many cycles (R142, R312). -/
def rowMissing (seed i row : Nat) : Bool := decide (i < Config.rowLate seed row)

/-- Array cycles until every column has finished what is fetched: the stop point (R313); `i` have passed. -/
def drainColumns (a : TermArray) (kn seed i : Nat) : Nat → TermArray
  | 0 => a
  | fuel + 1 => if a.cols.all fun c => c.terms.isEmpty then a
    else drainColumns (arrayCycle a kn (rowMissing seed i)) kn seed (i + 1) fuel

/-- Array cycles in which the fetch of the next macro step is late; `i` have passed. -/
def idleColumns (a : TermArray) (kn seed i : Nat) : Nat → TermArray
  | 0 => a
  | n + 1 => idleColumns (arrayCycle a kn (rowMissing seed i)) kn seed (i + 1) n

/-- Enough array cycles for all that is fetched: in each one at least one zero is skipped or one term applied. -/
def TermArray.work (a : TermArray) : Nat := (a.cols.map fun c => (c.terms.map fun n => n + 1).sum).sum + 1

/-- A run comes to its stop point and stands there. -/
def stopColumns (s : State) (c : Nat) : State :=
  let n := (s.cluster c).arr.work
  (s.updCluster c fun x => { x with arr := { drainColumns x.arr x.arr.runSteps s.ticket 0 n with waited := true } }).tick

/-- A macro step's terms have been fetched, `late` array cycles after a column wanted the first of them (none before macro step 0,
R313): every column goes on. -/
def feedColumns (a : TermArray) (kn seed late : Nat) (terms : List (List Nat)) : TermArray :=
  let a := if a.mstep = 0 ∧ !a.waited then a else idleColumns a kn seed 0 late
  let a := { a with cols := (a.cols.zip terms).map fun q => { q.1 with terms := q.1.terms ++ q.2 }, waited := false }
  runColumns a kn a.work

end Sys2Proof.Machine
end

