-- ==== Sys2Proof/Machine/TermState.lean ====
section
/-! DEFINITION. The term array's state as its commands and its lease change it (R180, R181, R301, R314, R320, R323): completion of a
command, the error latch, waiting MXWAITs, the grant and the revocation of the lease. -/

namespace Sys2Proof.Machine
open Sys2Proof

/-- A cluster's term array. -/
def State.arr (s : State) (c : Nat) : TermArray := (s.cluster c).arr
def State.updArr (s : State) (c : Nat) (f : TermArray → TermArray) : State :=
  s.updCluster c fun x => { x with arr := f x.arr }

/-- The array cycle a cluster's array is in (R6, R180, R421): two cycles each, those that do not run (frozen or gated) apart. -/
def State.arrayTime (s : State) (c : Nat) : Nat := ((s.cluster c).frozenAt.getD s.now) / 2 - (s.arr c).gap

/-- The cycle at which an array will be in a given array cycle, if it runs on. -/
def State.arrayCycle (s : State) (c mark : Nat) : Nat := s.now + Nat.max 1 (2 * (mark - s.arrayTime c))

/-- Puts an operation in flight that is not yet. -/
def State.postOnce (s : State) (o : Op) : State := if s.agenda.any fun q => q.who == o.who && q.ins == o.ins && q.data == o.data then s else s.postOp o

/-- A run is being performed, or stands at a stop point. -/
def TermArray.running (a : TermArray) : Bool := (a.cmd.map fun c => c.op == .run).getD false

/-- A run is performed or queued. -/
def TermArray.runsLeft (a : TermArray) : Bool := a.running || a.queue.any fun c => c.op == .run

/-- A run that MXSTOP holds at a stop point is among the commands up to a number (R320). -/
def TermArray.stoppedBy (a : TermArray) (no : Nat) : Bool := a.stopped && a.running && (a.cmd.map fun c => decide (c.no ≤ no)).getD false

/-- The condition of an MXWAIT that covers commands up to a number (R320), errors apart. -/
def TermArray.waitOver (a : TermArray) (no : Nat) : Bool := decide (no ≤ a.done) || a.stoppedBy no

/-- What an MXWAIT returns (R320). -/
def TermArray.status (a : TermArray) (no : Nat) : W64 :=
  BitVec.ofNat 64 ((if a.inexact then 1 else 0) + (if a.overflow then 2 else 0) + if a.stoppedBy no then 4 else 0)

/-- Answers the MXWAITs whose condition holds (R320): a latched error withdraws the group, which then traps as it issues again (R302). -/
def answerWaits (s : State) (c : Nat) : State :=
  (s.arr c).waitQ.foldl (fun s w =>
    let a := s.arr c
    if a.latch.isSome then withdraw s w.1.slot
    else if a.waitOver w.2 then
      wakeFill (s.updArr c fun a => { a with waitQ := a.waitQ.filter (fun q => q.1 != w.1), inexact := false, overflow := false })
        w.1.slot w.1.gen w.1.tag ((a.status w.2).setWidth 512)
    else s) s

/-- Grace ends 4,096 array cycles after the later of its start and the completion of the last run (R180). -/
def TermArray.graceMark (a : TermArray) : Nat := Nat.max (a.grace.getD 0) a.lastRun + 4096

/-- Puts the end of grace on the timers, once no run is left. -/
def armGrace (s : State) (c : Nat) : State :=
  let a := s.arr c
  if a.grace.isNone ∨ a.runsLeft then s else
  s.opAt (s.arrayCycle c a.graceMark) { who := c, data := [a.grants.setWidth 64], ins := .graceEnd }

/-- The command being performed has completed: the next one may start. -/
def mxDone (s : State) (c : Nat) : State :=
  let a := s.arr c
  match a.cmd with
  | none => s
  | some k =>
    let s := s.updArr c fun a =>
      { a with cmd := none, done := k.no, mstep := 0, page := none, next := 0, bytes := 0, rtag := none, failed := false,
               cols := [], waited := false,
               lastRun := if k.op = .run then s.arrayTime c else a.lastRun }
    let s := if k.op = .run then armGrace s c else s
    let s := if a.queue = [] then s else s.postOnce { who := c, ins := .sequencerCommand }
    answerWaits s c

/-- Discards every command (R180, R314, R323): readout writes already sent stay on their way. -/
def TermArray.discard (a : TermArray) : TermArray :=
  { a with cmd := none, queue := [], done := a.issued, mstep := 0, page := none, next := 0, bytes := 0, rtag := none, failed := false,
           heldW := [], stopped := false, cols := [], waited := false }

/-- Latches an error, the first one (R314). -/
def TermArray.latchErr (a : TermArray) (cause : Nat) (addr : W64) (src step : Nat) : TermArray :=
  { a with latch := some (a.latch.getD { cause := cause, addr := addr, info := BitVec.ofNat 64 (src + step % 65536 * 65536) }) }

/-- A run is abandoned at its stop point (R314): every later queued command is discarded. -/
def runFail (s : State) (c cause : Nat) (addr : W64) (src : Nat) : State :=
  let s := stopColumns s c
  answerWaits (armGrace (s.updArr c fun a => { (a.latchErr cause addr src a.mstep).discard with lastRun := s.arrayTime c }) c) c

/-- A readout stops (R319): no later lane is written and no completion applied. -/
def readoutFail (s : State) (c cause : Nat) (addr : W64) (src : Nat) : State :=
  s.updArr c fun a => { a.latchErr cause addr src 0 with failed := true, heldW := [] }

/-- The completion target of a readout has been applied. -/
def readoutApplied (s : State) (c tag : Nat) : State := if (s.arr c).rtag = some tag then mxDone s c else s

/-- The completion of a readout has been refused: a refused write (R319). -/
def readoutRefused (s : State) (c tag cause : Nat) (addr : W64) : State :=
  if (s.arr c).rtag = some tag then mxDone (readoutFail s c cause addr 5) c else s

/-! ## The lease (R180, R304) -/

/-- The array cycles of a budget. -/
def budgetCycles : Nat := 2 ^ 20

/-- Starts a budget (R180): both marks are counted from now. -/
def startBudget (s : State) (c : Nat) : State :=
  let s := (s.updArr c fun a => { a with budRuns := 0, budAt := s.arrayTime c, bud := s.ticket }).tick
  s.opAt (s.arrayCycle c ((s.arr c).budAt + budgetCycles)) { who := c, data := [BitVec.ofNat 64 (s.arr c).bud], ins := .leaseBudgetEnd }

/-- Grants the lease to a unit (R180, R303, R304): the lanes are cleared, the lease base latched, image, latch, held stop and status
bits cleared. -/
def grantTo (s : State) (c slot : Nat) (gen : BitVec 32) : State :=
  startBudget (s.updArr c fun a =>
    { a.discard with holder := some (slot, gen), level := (s.slot slot).level, ended := false, freeing := false, grants := a.grants + 1,
                     runs := 0, grace := none, img := {}, latch := none, stopHeld := false, inexact := false, overflow := false,
                     lanes := [], frac := [], base := a.ctr, lost := a.lost.filter fun q => s.live q.1 q.2 }) c

/-- What an MXLEASE returns (R304). -/
def leaseWord (grants : BitVec 32) : W64 := BitVec.ofNat 64 (2 ^ 32 + grants.toNat)

/-- The lease is free again: the next request may be granted. -/
def mxRevoke (s : State) (c : Nat) : State :=
  (s.updArr c fun a => { a.discard with holder := none, ended := false, freeing := false, grace := none, stopHeld := false }).postOnce
    { who := c, ins := .leaseGrant }

/-- The unit of a slot is the holder (R301, R305). -/
def TermArray.isHolder (a : TermArray) (slot : Nat) (gen : BitVec 32) : Bool := a.holder == some (slot, gen) && !a.freeing && !a.ended

end Sys2Proof.Machine
end

