-- ==== Sys2Proof/Machine/Counters.lean ====
section
/-! DEFINITION. Counters (R132 to R135, R140, R141, R169, R339, R342 to R351): sync words, dependence counters, barriers, phases,
two-word partials. -/

namespace Sys2Proof.Machine
open Sys2Proof

/-! ## Local addresses -/

/-- The check of a local offset that must be a multiple of `al` and below 0x80000. -/
def localOffset (w : W64) (al : Nat) : Option Trap :=
  if w.toNat % al ≠ 0 then some { cause := causeAlign, addr := w }
  else if 0x80000 ≤ w.toNat then some { cause := causeAddr, addr := w } else none

/-- A write of the issuing core's own scratchpad on path C by a form of its own (R58, R61): PROT where a region refuses it; a
guard hit drops it and is reported. -/
def localWrite (s : State) (off v len : Nat) : Except Trap State :=
  let k := slotCore s.cur
  if !s.protAllows k off len (s.unitAccessor s.cur k) true then .error { cause := causeProt, addr := BitVec.ofNat 64 off }
  else if s.guarded k off then
    let t := s.slot s.cur
    .ok (s.setSlot s.cur (if t.guardmode.getLsbD 0 then
      { t with oobflag := 1, oobaddr := if t.oobflag = 0 then BitVec.ofNat 64 off else t.oobaddr } else { t with guardPend := true }))
  else .ok (s.write (scratchLoc k off) v len)

/-! ## Sync words (R132, R133, R344 to R346) -/

/-- A sync word after `n` bytes have been counted (R133). -/
def countBytes (w0 w1 : W64) (n : Nat) : W64 × W64 :=
  let c := bits w0 63 32 + n
  let target := bits w0 31 0
  let ovf := w1.getLsbD 33
  let armed := w1.getLsbD 32
  let gen := bits w1 31 0
  if armed ∧ target ≠ 0 ∧ target ≤ c then
    (BitVec.ofNat 64 target,
     BitVec.ofNat 64 ((gen + 1) % 2 ^ 32 + 2 ^ 32 + if ovf || decide (target < c) then 2 ^ 33 else 0))
  else
    (BitVec.ofNat 64 (target + Nat.min c (2 ^ 32 - 1) * 2 ^ 32),
     BitVec.ofNat 64 (gen + (if armed then 2 ^ 32 else 0) + if ovf || decide (2 ^ 32 - 1 < c) then 2 ^ 33 else 0))

/-- Updates a sync word at a location. -/
def syncAt (s : State) (loc n : Nat) : State :=
  let w := countBytes (BitVec.ofNat 64 (s.read loc 8)) (BitVec.ofNat 64 (s.read (loc + 8) 8)) n
  s.write loc (w.1.toNat + 2 ^ 64 * w.2.toNat) 16

/-- What goes back to the unit that issued a copy. -/
def copyBack (s : State) (j : CopyJob) (tag : Nat) (i : Instr) : State := s.sendTag (slotCluster j.slot * 128) j.part tag { ins := i }

/-- A completion of a copy has been applied (R296): with its last one the copy's entry is acknowledged. -/
def copyApplied (s : State) (tag : Nat) : State :=
  match Sp.find s.copies tag with
  | none => s
  | some j =>
    if 1 < j.left then { s with copies := Sp.put s.copies tag { j with left := j.left - 1 } }
    else copyBack { s with copies := Sp.erase s.copies tag } j tag (.accessAcknowledge j.slot j.gen tag)

/-- A copy ends: what of it is still on its way is never written. -/
def dropCopy (s : State) (j : CopyJob) (tag : Nat) : State :=
  let away := j.flying.length + (j.stuck.filter fun p => p.2.2.isSome).length
  (List.range away).foldl (fun s _ => s.deliverTag (slotCluster j.slot * 128) tag) { s with copies := Sp.erase s.copies tag }

/-- A copy is refused (R296). -/
def copyRefused (s : State) (tag cause : Nat) (addr : W64) : State :=
  match Sp.find s.copies tag with
  | none => s
  | some j => copyBack (dropCopy s j tag) j tag (.refusalArrival j.slot j.gen tag cause addr)

/-- A completion's update waits at its engine for a page (R75). -/
def holdSync (s : State) (a : Access) (copy page : Nat) : State :=
  let h : HeldSync := { id := s.ticket, upd := a, copy := copy }
  let c := slotCluster a.slot
  sendFault (s.tick.updCluster c fun k => { k with syncHeld := k.syncHeld ++ [h] }) c
    { part := a.part, page := page, slot := a.slot, gen := a.gen, engine := 5, id := h.id }

/-- SYNC_WORD_UPDATE (R133, R346): the byte count `a.d0` arrives at the home of the word at `a.ea`: from a SWADD (`copy` 0), a
copy (1) or a readout (2), whose engine holds the operation where the word's segment faults (R75). -/
def syncWordUpdate (s : State) (a : Access) (copy : Nat) : State :=
  let p : Piece := { ea := a.ea, len := 16, pos := 0 }
  let s := s.deliverTag (homeNi s a p) a.tag
  let reply (s : State) (r : Reply) : State :=
    if copy = 0 then postReply s (homeNi s a p) a r
    else if copy = 2 then
      match r with
      | .value _ => readoutApplied s (slotCluster a.slot) a.tag
      | .refused c addr => readoutRefused s (slotCluster a.slot) a.tag c addr
      | .fault page =>
        if (s.part a.part).faultCore.isNone then readoutRefused s (slotCluster a.slot) a.tag causePage a.ea
        else holdSync s a copy page
    else
    match r with
    | .value _ => copyApplied s a.tag
    | .refused c addr => copyRefused s a.tag c addr
    | .fault page =>
      if (s.part a.part).faultCore.isNone then copyRefused s a.tag causePage a.ea else holdSync s a copy page
  match (if copy = 0 then heldFault s a 0 p else none), s.target (slotCore a.slot) a.part a.mode a.ea with
  | some page, _ => reply s (.fault page)
  | none, some (.scratch core off) =>
    match s.homeAt (accAccessor a core) (.scratch core off) 16 false true with
    | (s, .loc _ l) => reply (syncAt s l a.d0.toNat) (.value 0)
    | (s, .guard) => if copy = 0 then reply (guardReport s a a.ea) (.value 0) else reply s (.refused causeAddr a.ea)
    | (s, .refused c) => reply s (.refused c a.ea)
    | (s, .fault page) => reply s (.fault page)
  | none, _ => reply s (.refused causeAddr a.ea)

def execSyncWordUpdate (a : Access) (copy : Nat) (s : State) : Out := .next (syncWordUpdate s a copy)

/-- SWINIT (R344): both words in one step, performed within the rotation. -/
def execSwinit (x : Fld) (s : State) : Out :=
  .next (issue { d := .g, dSrc := true, a := .g, b := .g } x s fun v s =>
    match localOffset v.a 16 with
    | some t => .trap t
    | none =>
      let off := v.a.toNat
      if lineWait s off then .wait (.line (Target.scratch (slotCore s.cur) off).line) none false 0 else
      match localWrite s off (v.d.toNat + 2 ^ 64 * (v.b.toNat % 2 ^ 34)) 16 with
      | .error t => .trap t
      | .ok s => .next s)

/-- TRAPINFO of a SWWAIT whose limit expires (R345). -/
def swInfo (off gen want : Nat) : W64 := BitVec.ofNat 64 (off / 16 + gen % 65536 * 65536 + want % 65536 * 2 ^ 32)

/-- SWWAIT (R345): the request is parked at the core; under MODE 2 the fill is immediate, with bit 63 where the generation does not
hold. -/
def execSwwait (x : Fld) (s : State) : Out :=
  .next (issue uDAB x s fun v s =>
    match localOffset v.a 16 with
    | some t => .trap t
    | none =>
      let off := v.a.toNat
      let k := slotCore s.cur
      let want := v.b.toNat % 2 ^ 32
      if lineWait s off then .wait (.line (Target.scratch k off).line) none false 0 else
      match localCheck s off 16 with
      | .error t => .trap t
      | .ok (s, there) =>
        let t := s.slot s.cur
        let w1 : W64 := if there then BitVec.ofNat 64 (s.read (scratchLoc k off + 8) 8) else 0
        if genHolds w1.toNat want then .next (s.putG x.d.toNat w1)
        else if t.waitMode = 2 then .next (s.putG x.d.toNat (w1 ||| 0x8000000000000000))
        else if t.waitMode = 1 ∧ t.waitLimit = 0 then .trap { cause := causeWaitTimeout, info := swInfo off w1.toNat want }
        else
          let tag := s.plainTag
          let q : Parked := { slot := s.cur, gen := t.gen, tag := tag, loc := scratchLoc k off, acquire := false,
                              want := BitVec.ofNat 32 want }
          let s := { askEntry s x [x.d.toNat] true with parked := s.parked ++ [q] }
          .hold (awaitAnswer (s.updSlot s.cur fun t => t.markEmpty [x.d.toNat]) tag t.limit true 0))

/-- SWADD (R346): a release, held at the core like a REL. -/
def execSwadd (x : Fld) (s : State) : Out :=
  .next (issue uAB x s fun v s =>
    let a := newAccess s x .swadd (addrMode x.f) v.a 0 0x5A v
    if a.ea.toNat % 16 ≠ 0 then .trap { cause := causeAlign, addr := a.ea }
    else if !upperClear v.b then .trap { cause := causeAddr, addr := v.b }
    else match s.target (slotCore s.cur) a.part a.mode a.ea with
      | some (.scratch _ _) =>
        if !s.entryFree s.cur false then .wait (.entry false) none false 0 else .next (sendAccess s a [] true 0)
      | _ => .trap { cause := causeAddr, addr := a.ea })

/-! ## Dependence counters (R134, R135, R342, R343) -/

/-- The counter of a cluster. -/
def Cluster.counter (c : Cluster) (i : Nat) : DepCount := Sp.get {} c.dc i

/-- The operands DCSET and DCDEC share: a name and an amount of 32 bits (R342, R343). -/
def counterOperands (s : State) (name amount : W64) : Option Trap :=
  if bits name 63 19 ≠ 0 then some { cause := causeAddr, addr := name }
  else if !upperClear amount then some { cause := causeAddr, addr := amount }
  else if (s.physCluster (s.partOf (slotCluster s.cur)) (bits name 18 12)).isNone then some { cause := causeAddr, addr := name }
  else none

/-- DCSET (R342): a posted form. -/
def execDcset (x : Fld) (s : State) : Out :=
  .next (issue { d := .g, dSrc := true, a := .g, b := .g } x s fun v s =>
    if v.d.toNat % 64 ≠ 0 then .trap { cause := causeAlign, addr := v.d } else
    match counterOperands s v.a v.b with
    | some t => .trap t
    | none =>
      if !s.entryFree s.cur false then .wait (.entry false) none false 0 else
      let t := s.slot s.cur
      .next (postNet s fun tag =>
        .dcSetArrival (s.partOf (slotCluster s.cur)) v.a.toNat (v.b.setWidth 32) v.d t.level t.home s.cur t.gen tag))

/-- DCDEC (R343): a posted form and a release. -/
def execDcdec (x : Fld) (s : State) : Out :=
  .next (issue uAB x s fun v s =>
    match counterOperands s v.a v.b with
    | some t => .trap t
    | none =>
      if !s.entryFree s.cur false then .wait (.entry false) none false 0 else
      .next (sendAccess s (newAccess s x .dcdec 0 v.a 0 0x55 v) [] true 0))

/-- A counter that has fired: its record is to be read (R135). -/
def fireCounter (s : State) (c idx : Nat) (phase : Bool) : State :=
  let q := (s.cluster c).counter idx
  let f : Firing := { id := s.ticket, idx := idx, addr := q.record, level := q.level, home := q.home, phase := phase }
  ((s.updCluster c fun k => { k with firing := k.firing ++ [f] }).tick).postOp
    { who := c, data := [BitVec.ofNat 64 f.id], ins := .dcFire }

/-- DC_SET_ARRIVAL (R342): every field in one step; a count of 0 fires at once. -/
def dcSetArrival (s : State) (part name : Nat) (count : BitVec 32) (recd level : W64) (home slot : Nat) (gen : BitVec 32) (tag : Nat) :
    State :=
  match s.physCluster part (name / 4096) with
  | none => s
  | some c =>
    let i := name % 4096
    let s := (s.deliverTag (c * 128) tag).sendTag (c * 128) part tag { ins := .accessAcknowledge slot gen tag }
    let s := s.updCluster c fun k =>
      { k with dc := Sp.put k.dc i { level := level, home := home, count := count, armed := count != 0, under := false, record := recd } }
    if count = 0 then fireCounter s c i (tag % 2 == 1) else s

def execDcSetArrival (part name : Nat) (count : BitVec 32) (recd level : W64) (home slot : Nat) (gen : BitVec 32) (tag : Nat)
    (s : State) : Out := .next (dcSetArrival s part name count recd level home slot gen tag)

/-- A decrement at its counter (R135). -/
def decrementAt (s : State) (c i n : Nat) (phase : Bool) : State :=
  let q := (s.cluster c).counter i
  let put (s : State) (q : DepCount) : State := s.updCluster c fun k => { k with dc := Sp.put k.dc i q }
  if !q.armed ∨ q.count.toNat < n then put s { q with count := 0, under := true }
  else if q.count.toNat = n then fireCounter (put s { q with count := 0, armed := false }) c i phase
  else put s { q with count := q.count - BitVec.ofNat 32 n }

/-- DC_DECREMENT (R135): of a DCDEC, which is acknowledged, or of a copy's completion. -/
def dcDecrement (s : State) (part name n slot : Nat) (gen : BitVec 32) (tag : Nat) : State :=
  match s.physCluster part (name / 4096) with
  | none => s
  | some c =>
    let s := s.deliverTag (c * 128) tag
    let s := decrementAt s c (name % 4096) n (tag % 2 == 1)
    if (Sp.find s.copies tag).isSome then copyApplied s tag
    else if (s.arr (slotCluster slot)).rtag = some tag then readoutApplied s (slotCluster slot) tag
    else s.sendTag (c * 128) part tag { ins := .accessAcknowledge slot gen tag }

def execDcDecrement (part name n slot : Nat) (gen : BitVec 32) (tag : Nat) (s : State) : Out :=
  .next (dcDecrement s part name n slot gen tag)

/-- The record of a firing is discarded, and its counter says so (R135). -/
def discardFiring (s : State) (c : Nat) (f : Firing) : State :=
  s.updCluster c fun k => { k with firing := k.firing.filter (fun q => q.id != f.id),
                                   dc := Sp.put k.dc f.idx { k.counter f.idx with under := true } }

/-- DC_FIRE in the cluster State.cur (R135): the record read on path Q returns and is enqueued; data is the firing's number. -/
def dcFire (s : State) : State :=
  let c := s.cur
  let part := s.partOf c
  match (s.cluster c).firing.find? fun f => f.id == (s.data.headD 0).toNat with
  | none => s
  | some f =>
    let acc : Accessor := { slot := 2 ^ 31, gen := 0, part := part, level := f.level, own := false }
    let take (s : State) (l : Nat) : State :=
      let r := recordOf (fun i => BitVec.ofNat 64 (s.read (l + 8 * i) 8)) f.home 2 f.phase 0
      (s.updCluster c fun k => { k with firing := k.firing.filter (fun q => q.id != f.id) }).post (.recordEnqueue c r)
    let o : Op := { who := c, data := s.data, ins := .dcFire }
    if !s.linkFrom c (bits f.addr 55 46) then discardFiring s c f else
    if f.addr.getLsbD 56 ∧ s.sliceHeld part then s.holdAt o part else
    match s.homeOf acc f.addr 64 true false with
    | (s, .loc (.second dev va) l) =>
      match nonMemberLine s (pageSlice dev va) (s.partAt part dev) va l 64 false (fun _ => []) o with
      | .done s _ => take (s.sliceBytes part 64) l
      | .stalled s => s
    | (s, .loc _ l) => take s l
    | (s, .fault page) =>
      if (s.part part).faultCore.isNone then discardFiring s c f else
      sendFault s c { part := part, page := page, slot := 0, gen := 0, engine := 3, id := f.id }
    | (s, _) => discardFiring s c f

def execDcFire (s : State) : Out := .next (dcFire s)

/-! ## Barriers (R347 to R349) -/

/-- A unit's registration for an object. -/
def registration (t : Slot) (addr : W64) : Option (Nat × BarReg) := t.bars.find? fun b => b.2.addr == addr

/-- Registers a unit's arrival: its entry, or the first free one of eight. -/
def register (t : Slot) (addr : W64) (gen : BitVec 32) : Slot :=
  let i := match registration t addr with
    | some b => b.1
    | none => ((List.range 8).find? fun i => (Sp.find t.bars i).isNone).getD 0
  { t with bars := Sp.put t.bars i { addr := addr, gen := gen } }

/-- BAR (R348): the arrival is a release. -/
def execBar (x : Fld) (s : State) : Out :=
  .next (issue uDA x s fun v s =>
    let t := s.slot s.cur
    let part := s.partOf (slotCluster s.cur)
    if t.guardPend then .gone (trapEntry (s.setSlot s.cur { t with guardPend := false }) s.cur t.pc { cause := causeGuard })
    else if v.a.toNat % 32 ≠ 0 then .trap { cause := causeAlign, addr := v.a }
    else match s.globalFrom (slotCluster s.cur) part v.a with
      | some (.scratch _ _) =>
        if (registration t v.a).isNone ∧ 8 ≤ t.bars.length then .trap { cause := causeAddr, addr := v.a }
        else if !s.holds s.cur .released then .wait .released none false 0
        else
          let tag := s.netTag t.phase
          let s' := askEntry s x [x.d.toNat] true
          let s' := s'.updSlot s.cur fun q => { q with outst := q.outst.map fun o : Outst =>
            if o.len ≠ 0 then { o with tag := tag, addr := v.a } else o }
          let s' := awaitAnswer s' tag t.limit true 0
          .hold (s'.send (slotCore s.cur) part t.phase { ins := .barrierArrival part v.a s.cur t.gen tag (t.waitMode == 2) })
      | _ => .trap { cause := causeAddr, addr := v.a })

/-- The result of a completed generation (R348). -/
def barResult (gen : Nat) (departed : Bool) : Nat := gen + if departed then 2 ^ 32 else 0

/-- What the home core of a barrier object answers an arrival. -/
def barAnswer (s : State) (core : Nat) (w : Asker) (i : Instr) : State := s.sendTag core (s.partOf (slotCluster w.slot)) w.tag { ins := i }
def barFill (s : State) (core : Nat) (w : Asker) (r : Nat) : State := barAnswer s core w (.fill w.slot w.gen w.tag (BitVec.ofNat 512 r))

/-- Completes a generation of the object at a location (R348): every waiter gets the result; the object's words change. -/
def completeBarrier (s : State) (loc parties gen : Nat) (departed : Bool) : State :=
  let done (b : BarWait) : Bool := b.loc == loc && b.gen.toNat == gen
  let t := ({ s with barWait := s.barWait.filter fun b => !done b }).write loc (parties + 2 ^ 64 * ((gen + 1) % 2 ^ 32)) 16
  (s.barWait.filter done).foldl (fun t b => barFill t (loc / 2 ^ 19) b.who (barResult gen departed)) t

/-- The four fields of a barrier object: PARTIES, ARRIVED, GEN, DEPARTED. -/
def barFields (s : State) (loc : Nat) : Nat × Nat × Nat × Bool :=
  let w0 : W64 := BitVec.ofNat 64 (s.read loc 8)
  let w1 : W64 := BitVec.ofNat 64 (s.read (loc + 8) 8)
  (bits w0 31 0, bits w0 63 32, bits w1 31 0, w1.getLsbD 32)

/-- Writes a barrier object's fields. -/
def writeBarrier (s : State) (loc parties arrived gen : Nat) (departed : Bool) : State :=
  s.write loc (parties % 2 ^ 32 + arrived % 2 ^ 32 * 2 ^ 32 + 2 ^ 64 * (gen % 2 ^ 32 + if departed then 2 ^ 32 else 0)) 16

/-- An arrival at the object's location (R348). -/
def arriveBarrier (s : State) (loc : Nat) (addr : W64) (w : Asker) (nb : Bool) : State :=
  let f := barFields s loc
  let t := s.slot w.slot
  let here := match registration t addr with
    | some b => b.2.gen.toNat == f.2.2.1
    | none => false
  let wait (s : State) : State :=
    if nb then barFill s (loc / 2 ^ 19) w (2 ^ 64 - 1)
    else { s with barWait := s.barWait ++ [{ loc := loc, gen := BitVec.ofNat 32 f.2.2.1, who := w }] }
  if here then wait s else
  let s := s.setSlot w.slot (register t addr (BitVec.ofNat 32 f.2.2.1))
  let n := f.2.1 + 1
  if f.1 ≤ n then
    barFill (completeBarrier s loc f.1 f.2.2.1 f.2.2.2) (loc / 2 ^ 19) w (barResult f.2.2.1 f.2.2.2)
  else wait (writeBarrier s loc f.1 n f.2.2.1 f.2.2.2)

/-- BARRIER_ARRIVAL (R348): at the home core the object is checked as a read and a write. -/
def barrierArrival (s : State) (part : Nat) (addr : W64) (slot : Nat) (gen : BitVec 32) (tag : Nat) (nb : Bool) : State :=
  let core := match s.globalTarget part addr with
    | some (.scratch k _) => k
    | _ => slotCore slot
  let s := s.deliverTag core tag
  let w : Asker := { slot := slot, gen := gen, tag := tag }
  if !s.hasEntry slot gen tag then s else
  match s.homeOf (s.unitAccessor slot core) addr 32 true true with
  | (s, .loc _ l) => arriveBarrier s l addr w nb
  | (s, .guard) =>
    let t := s.slot slot
    barFill (s.setSlot slot (t.guardHit (t.guardmode.getLsbD 0) addr)) core w 0
  | (s, .refused c) => barAnswer s core w (.refusalArrival slot gen tag c addr)
  | (s, .fault page) => barAnswer s core w (.faultReply slot gen tag page)

def execBarrierArrival (part : Nat) (addr : W64) (slot : Nat) (gen : BitVec 32) (tag : Nat) (nb : Bool) (s : State) : Out :=
  .next (barrierArrival s part addr slot gen tag nb)

/-- What the home answers to a departure: the object is read and written for the unit that has ended, at its level. -/
def departureHome (s : State) (part : Nat) (addr : W64) (slot : Nat) (gen : BitVec 32) (level : W64) : State × Home :=
  s.homeOf { slot := slot, gen := gen, part := part, level := level, own := true } addr 32 true true

/-- BARRIER_DEPARTURE (R349): the registration of a unit that has ended, with the generation it last arrived in. An object that segment table,
regions or a guard bit keep from it stays as it is (R56, R58, R61). -/
def barrierDeparture (s : State) (part : Nat) (addr : W64) (slot : Nat) (gen bgen : BitVec 32) (level : W64) : State :=
  match departureHome s part addr slot gen level with
  | (s, .loc (.scratch _ _) loc) =>
    let f := barFields s loc
    let parties := f.1 - 1
    let arrived := if bgen.toNat = f.2.2.1 then f.2.1 - 1 else f.2.1
    if 0 < arrived ∧ parties ≤ arrived then completeBarrier s loc parties f.2.2.1 true
    else writeBarrier s loc parties arrived f.2.2.1 true
  | (s, _) => s

/-- A departure whose object's segment is not present waits for it. -/
def departureFree (s : State) (part : Nat) (addr : W64) (slot : Nat) (gen : BitVec 32) (level : W64) : Bool :=
  match (departureHome s part addr slot gen level).2 with
  | .fault _ => false
  | _ => true

def execBarrierDeparture (part : Nat) (addr : W64) (slot : Nat) (gen bgen : BitVec 32) (s : State) : Out :=
  .next (barrierDeparture s part addr slot gen bgen (s.data.headD 0))

/-! ## Phases (R140, R141, R350, R351) -/

/-- PHFLIP (R350): a posted form. -/
def execPhflip (x : Fld) (s : State) : Out :=
  .next (issue uNone x s fun _ s =>
    if !s.entryFree s.cur false then .wait (.entry false) none false 0 else
    let ph := (s.slot s.cur).phase
    let tag := s.netTag ph
    let part := s.partOf (slotCluster s.cur)
    let d : List W64 := [BitVec.ofNat 64 s.cur, (s.slot s.cur).gen.setWidth 64, BitVec.ofNat 64 tag]
    .next ((postedEntry s false none tag).send (slotCore s.cur) part ph { who := part, data := d, ins := .phflipArrival }))

/-- PHFLIP_ARRIVAL in the partition State.cur: the current tag toggles. -/
def execPhflipArrival (s : State) : Out :=
  .next (match s.data with
    | [slot, gen, tag] =>
      ((s.deliverTag (officeNi s.cur) tag.toNat).updPart s.cur fun q => { q with tag := !q.tag }).sendTag (officeNi s.cur) s.cur tag.toNat
        { ins := .accessAcknowledge slot.toNat (gen.setWidth 32) tag.toNat }
    | _ => s)

/-- QUIET (R351). -/
def execQuiet (x : Fld) (s : State) : Out :=
  .next (issue uDA x s fun v s =>
    let t := s.slot s.cur
    let part := s.partOf (slotCluster s.cur)
    let tag := s.plainTag
    let q : QuietReq := { who := { slot := s.cur, gen := t.gen, tag := tag }, level := v.a, tag := !(s.part part).tag }
    if quietHolds s part q then .next (s.putG x.d.toNat (if q.tag then 1 else 0))
    else if t.waitMode = 2 then .next (s.putG x.d.toNat (-1))
    else
      let s := s.updPart part fun p => { p with quiets := p.quiets ++ [q] }
      .hold (awaitAnswer (askEntry s x [x.d.toNat] true) tag t.limit true 0))

/-- An NI belongs to a partition's sweep (R141): a core of its clusters, its Sorting Office. DESIGN CHOICE (assumption 141): and every slice of its
device, whose NIs all partitions share. -/
def State.sweeps (s : State) (part ni : Nat) : Bool :=
  if ni < 2 ^ 24 then s.partOf (coreCluster ni) == part
  else if ni < 2 ^ 25 then (ni - 2 ^ 24) / 128 == part / 32
  else ni - 2 ^ 25 == part

/-- The sums of a partition's phase counters. -/
def sweepSums (s : State) (part : Nat) : Sweep :=
  (s.nis.filter fun n => s.sweeps part n.1).foldl (fun w n =>
    { sent0 := w.sent0 + n.2.sent0, recv0 := w.recv0 + n.2.recv0, sent1 := w.sent1 + n.2.sent1, recv1 := w.recv1 + n.2.recv1 })
    { sent0 := 0, recv0 := 0, sent1 := 0, recv1 := 0 }

/-- PHASE_SWEEP of the partition State.cur (R141): a tag is quiet when its sums are equal, and as they were in the sweep before. -/
def phaseSweep (s : State) : State :=
  let part := s.cur
  let q := s.part part
  if !q.live then s else
  let w := sweepSums s part
  let same (f : Sweep → BitVec 32) : Bool := match q.sweep with
    | some p => f p == f w
    | none => false
  let q0 := w.sent0 == w.recv0 && same Sweep.sent0 && same Sweep.recv0
  let q1 := w.sent1 == w.recv1 && same Sweep.sent1 && same Sweep.recv1
  let s := s.setPart part { q with sweep := some w, quiet0 := q.quiet0 || q0, quiet1 := q.quiet1 || q1 }
  (answerQuiets s part).postAt (s.now + 4096) .phaseSweep part

def execPhaseSweep (s : State) : Out := .next (phaseSweep s)

/-! ## Two-word partials (R91, R168, R169, R339) -/

/-- A two-word partial: S, E, the inexact and overflow flags. -/
structure Partial2 where
  sum : Int
  exp : Int
  inexact : Bool
  ovf : Bool
deriving DecidableEq, Repr

/-- The partial of two words (R339). -/
def partialOf (w0 w1 : W64) : Partial2 :=
  { sum := w0.toInt, exp := signedOf 16 (bits w1 15 0), inexact := w1.getLsbD 16, ovf := w1.getLsbD 17 }

/-- The second word of a partial. -/
def Partial2.word1 (p : Partial2) : W64 :=
  BitVec.ofNat 64 ((BitVec.ofInt 16 p.exp).toNat + (if p.inexact then 2 ^ 16 else 0) + if p.ovf then 2 ^ 17 else 0)

/-- The saturated 64-bit value of a sign. -/
def sat64 (t : Int) : Int := if t < 0 then -2 ^ 63 else 2 ^ 63 - 1

/-- Outside the 64-bit two's-complement range. -/
def outside64 (t : Int) : Bool := decide (t < -2 ^ 63) || decide (2 ^ 63 ≤ t)

/-- Shifts an integer right, toward minus infinity; whether bits that were not zero fell out. -/
def shiftDown (v : Int) (n : Nat) : Int × Bool := (v / 2 ^ n, decide (v % 2 ^ n ≠ 0))

/-- The sum of two partials (R169). -/
def addPartials (p q : Partial2) : Partial2 :=
  let e := max p.exp q.exp
  let a := shiftDown p.sum (e - p.exp).toNat
  let b := shiftDown q.sum (e - q.exp).toNat
  let ix := (p.inexact || a.2) || (q.inexact || b.2)
  if p.ovf then { sum := p.sum, exp := e, inexact := ix, ovf := true }
  else if q.ovf then { sum := q.sum, exp := e, inexact := ix, ovf := true }
  else
    let t := a.1 + b.1
    if outside64 t then { sum := sat64 t, exp := e, inexact := ix, ovf := true }
    else { sum := t, exp := e, inexact := ix, ovf := false }

/-- RDXADD (R339). -/
def execRdxadd (x : Fld) (s : State) : Out :=
  .next (issue { d := .g, dSrc := true, dDst := true, dPair := true, a := .g, aPair := true } x s fun v s =>
    let r := addPartials (partialOf v.d v.d1) (partialOf v.a v.a1)
    .next (s.putPair x.d.toNat (BitVec.ofInt 64 r.sum) r.word1))

end Sys2Proof.Machine
end

