-- ==== Sys2Proof/Machine/Confluence.lean ====
section
/-! DEFINITION. Confluence queues (R85 to R93, R201, R334 to R338): declarations, pushes and their operators, selection and
delivery, pops. A request's data begin with the slot, its GEN and its tag. -/

namespace Sys2Proof.Machine
open Sys2Proof

/-! ## Declarations (R85, R334) -/

/-- Fields of a declaration. -/
def Decl.op (d : Decl) : Nat := bits d.w0 3 0
def Decl.pri (d : Decl) : Nat := bits d.w0 5 4
def Decl.hold (d : Decl) : Bool := d.w0.getLsbD 6
def Decl.policy (d : Decl) : Nat := bits d.w0 8 7
def Decl.catWords (d : Decl) : Nat := bits d.w0 11 9 + 1
def Decl.cls (d : Decl) : Nat := bits d.w0 15 12
def Decl.eq (d : Decl) : Int := signedOf 16 (bits d.w0 31 16)
def Decl.limit (d : Decl) : Nat := bits d.w0 63 32
def Decl.window (d : Decl) : Nat := bits d.w1 22 0
def Decl.quota (d : Decl) : Nat := bits d.w2 14 0

/-- A declaration block is refused (R334). -/
def declBad (w0 w1 w2 w3 : W64) : Bool :=
  decide (14 ≤ bits w0 3 0) || decide (4 ≤ bits w0 11 9) || bits w0 8 7 == 3 || bits w2 14 0 == 0 ||
    decide (16384 < bits w2 14 0) || decide (0x4000 ≤ bits w3 14 0) || bits w1 63 23 != 0 || bits w2 63 15 != 0 ||
    bits w3 63 15 != 0

/-- The queue id and generation of a handle; none where a reserved bit is set (R85). -/
def handleOf (h : W64) : Option (Nat × Nat) :=
  if bits h 63 32 ≠ 0 ∨ bits h 15 6 ≠ 0 then none else some (bits h 5 0, bits h 31 16)

def queueHandle (id : Nat) (gen : BitVec 16) : W64 := BitVec.ofNat 64 (id + gen.toNat * 65536)

/-- The declaration generation after one: 65,535 wraps to 1. -/
def nextGen (g : BitVec 16) : BitVec 16 := if g = 65535 then 1 else g + 1

/-- The declaration of an id. -/
def Part.decl (q : Part) (id : Nat) : Decl := Sp.get {} q.decls id

/-- The live declaration a handle names. -/
def currentDecl (s : State) (part : Nat) (h : W64) : Option (Nat × Decl) :=
  match handleOf h with
  | none => none
  | some (id, g) =>
    let d := (s.part part).decl id
    if d.live ∧ d.gen.toNat = g then some (id, d) else none

/-- CQDECL (R334). -/
def execCqdecl (x : Fld) (s : State) : Out :=
  .next (issue uDA x s fun v s =>
    match localOffset v.a 32 with
    | some t => .trap t
    | none =>
      let off := v.a.toNat
      if lineWait s off then .wait (.line (Target.scratch (slotCore s.cur) off).line) none false 0 else
      match localRead s off 32 with
      | .error t => .trap t
      | .ok (s, w) =>
        if declBad (w 0) (w 1) (w 2) (w 3) then .trap { cause := causeAddr, addr := v.a } else
        let part := s.partOf (slotCluster s.cur)
        askNet s x [x.d.toNat] (officeNi part) fun tag s =>
          let t := s.slot s.cur
          let q := s.part part
          match (List.range 64).find? fun i => !(q.decl i).live with
          | none => s.answerWith (officeNi part) part s.cur t.gen tag 0
          | some id =>
            let g := nextGen (q.decl id).gen
            let d : Decl := { live := true, gen := g, w0 := w 0, w1 := w 1, w2 := w 2, w3 := w 3, level := t.level, home := t.home, pool := t.pool,
                              corr := t.corr }
            let s := s.setPart part { q with decls := Sp.put q.decls id d }
            let s := s.postAll (q.clusters.map fun c =>
              ({ who := c * 64 + id, data := [g.setWidth 64], ins := .cqDeclarationArrival } : Op))
            s.answerWith (officeNi part) part s.cur t.gen tag ((queueHandle id g).setWidth 512))

/-- CQ_DECLARATION_ARRIVAL in the slice State.cur / 64 for the id State.cur mod 64: the id's earlier records are discarded, held requests
go on. -/
def cqDeclarationArrival (s : State) : State :=
  let c := s.cur / 64
  let id := s.cur % 64
  let k := s.cluster c
  let q : ConfQueue := Sp.get {} k.confq id
  let q := { q with gen := (s.data.headD 0).setWidth 16, head := 0, tail := 0 }
  (s.setCluster c { k with confq := Sp.put k.confq id q, conf := k.conf.filter (fun r => r.2.qid != id), held := [] }).postAll k.held

def execCqDeclarationArrival (s : State) : Out := .next (cqDeclarationArrival s)

/-! ## Operators (R90 to R92) -/

/-- A partial aligned to EQ (R91). -/
def alignPartial (eq : Int) (p : Partial2) : Partial2 :=
  if eq ≤ p.exp then
    let v := p.sum * 2 ^ (p.exp - eq).toNat
    if outside64 v then { sum := sat64 p.sum, exp := eq, inexact := p.inexact, ovf := true } else { p with sum := v, exp := eq }
  else
    let r := shiftDown p.sum (eq - p.exp).toNat
    { p with sum := r.1, exp := eq, inexact := p.inexact || r.2 }

/-- A lane combined with an aligned partial (R91). -/
def combinePartial (l a : Partial2) : Partial2 :=
  let t := l.sum + a.sum
  let base : Partial2 := if l.ovf then l else if outside64 t then { l with sum := sat64 t, ovf := true } else { l with sum := t }
  { base with inexact := l.inexact || a.inexact, ovf := base.ovf || a.ovf }

/-- The two lanes of a payload. -/
def lanesOf (w : List W64) : Partial2 × Partial2 :=
  (partialOf (w.getD 0 0) (w.getD 1 0), partialOf (w.getD 2 0) (w.getD 3 0))

/-- The words of two lanes. -/
def laneWords (a b : Partial2) : List W64 := [BitVec.ofInt 64 a.sum, a.word1, BitVec.ofInt 64 b.sum, b.word1]

/-- A signed sum leaves the 64-bit range. -/
def addOverflows (a b : W64) : Bool := outside64 (a.toInt + b.toInt)

/-- The payload of a first arrival, with the header's flags (R90). -/
def firstArrival (d : Decl) (r : ConfRec) (p : List W64) : ConfRec :=
  match d.op with
  | 11 =>
    let l := lanesOf p
    let a := alignPartial d.eq l.1
    let b := alignPartial d.eq l.2
    { r with w := laneWords a b, inexact := a.inexact || b.inexact, ovf := a.ovf || b.ovf, filled := 4 }
  | 12 => { r with w := (p.take d.catWords ++ [0, 0, 0, 0]).take 4, filled := d.catWords }
  | 13 => { r with w := [1, 0, 0, 0], filled := 4 }
  | _ => { r with w := p, filled := 4 }

/-- A word combined by an operator (R90). -/
def combineWord (op : Nat) (w p : W64) : W64 :=
  match op with
  | 1 => w + p
  | 2 => if w.slt p then p else w
  | 3 => if p.slt w then p else w
  | 4 => if w.ult p then p else w
  | 5 => if p.ult w then p else w
  | 6 => w ||| p
  | 7 => w &&& p
  | 8 => w ^^^ p
  | 10 => p
  | _ => w

/-- A record's arrival count after one more. -/
def countUp (n : Nat) : Nat := Nat.min (n + 1) (2 ^ 32 - 1)

/-- A later arrival combined into a record; CAT apart (R90, R91). -/
def combineRec (d : Decl) (r : ConfRec) (p : List W64) : ConfRec :=
  let r := { r with count := countUp r.count }
  match d.op with
  | 11 =>
    let l := lanesOf r.w
    let q := lanesOf p
    let a := combinePartial l.1 (alignPartial d.eq q.1)
    let b := combinePartial l.2 (alignPartial d.eq q.2)
    { r with w := laneWords a b, inexact := a.inexact || b.inexact, ovf := a.ovf || b.ovf }
  | 13 => { r with w := (r.w.headD 0 + 1) :: r.w.tail }
  | op => { r with w := List.zipWith (combineWord op) r.w p,
                   ovf := r.ovf || (op == 1 && (List.zipWith addOverflows r.w p).any id) }

/-- The words a CAT record takes: those that fit, and the rest. -/
def catAppend (r : ConfRec) (p : List W64) : ConfRec × List W64 :=
  let free := 4 - r.filled
  ({ r with w := (r.w.take r.filled ++ p.take free ++ [0, 0, 0, 0]).take 4, filled := Nat.min 4 (r.filled + p.length) }, p.drop free)

/-! ## Records (R87, R88, R93) -/

/-- The records of a queue in a slice, in order. -/
def Cluster.queue (k : Cluster) (id : Nat) : List ConfRec := (k.conf.filter fun r => r.2.qid == id).map Prod.snd

def Cluster.confQueue (k : Cluster) (id : Nat) : ConfQueue := Sp.get {} k.confq id

/-- Writes a record. -/
def Cluster.putRec (k : Cluster) (r : ConfRec) : Cluster := { k with conf := Sp.put k.conf r.ord r }
def Cluster.dropRec (k : Cluster) (r : ConfRec) : Cluster := { k with conf := Sp.erase k.conf r.ord }

/-- Changes a queue's counters. -/
def Cluster.updQueue (k : Cluster) (id : Nat) (f : ConfQueue → ConfQueue) : Cluster :=
  { k with confq := Sp.put k.confq id (f (k.confQueue id)) }

/-- No record slot is to be had (R93). -/
def queueFull (k : Cluster) (id : Nat) (d : Decl) : Bool :=
  decide (d.quota ≤ (k.queue id).length) || decide (16384 ≤ k.conf.length)

/-- The header of a record (R88). -/
def ConfRec.header (r : ConfRec) : W64 :=
  BitVec.ofNat 64 (r.op % 16 + (if r.ovf then 16 else 0) + (if r.inexact then 32 else 0) + (if r.cont then 64 else 0) +
    (if r.isSealed then 128 else 0) + r.count * 256 + r.born % 2 ^ 24 * 2 ^ 40)

/-- A CONT record stands behind its head: the heads' places are multiples of this. -/
def ordStep : Nat := 2 ^ 15

/-- The chain of a head record: itself and its CONT records, in order. -/
def chainOf (k : Cluster) (r : ConfRec) : List ConfRec := (k.conf.filter fun q => q.2.ord / ordStep == r.ord / ordStep).map Prod.snd

/-! ## A push at its home (R87, R93, R336) -/

/-- Answers a request from a cluster's NI (R141). -/
def answerFrom (s : State) (c part slot : Nat) (gen : BitVec 32) (tag : Nat) (v : V512) : State :=
  s.answerWith (c * 128) part slot gen tag v

/-- A refusal of a request, from a cluster's NI. -/
def refuseFrom (s : State) (c part slot : Nat) (gen : BitVec 32) (tag : Nat) (addr : W64) : State :=
  s.refuseWith (c * 128) part slot gen tag causeAddr addr

/-- A slot whose push or pop meets a full or an empty queue waits there under a policy (R93, R144, R179): its wait may be
withdrawn, and its limit and the watchdog count. -/
def policyWait (s : State) (slot : Nat) (gen : BitVec 32) (tag : Nat) (limit : Option Nat) (info : W64) : State :=
  let t := s.slot slot
  if t.st ≠ .waiting (.answer tag) ∨ t.gen ≠ gen then s else
  match t.attempt with
  | none => s
  | some a =>
    let armed := a.limit.isSome || a.watched.isSome
    let a' : Attempt := { a with limit := limit, info := info, watched := if limit.isSome then none else some (a.watched.getD s.now) }
    let s := s.setSlot slot { t with attempt := some a', outst := t.outst.map fun o : Outst =>
      if o.tag = tag then { o with soft := true } else o }
    if armed then s else
    match limit with
    | some l => s.postAt (Nat.max (a.since + l + 1) (s.now + 1)) (.waitTimeout slot gen a.id)
    | none => s.postAt (s.now + Nat.max 1 (s.part (s.partOf (slotCluster slot))).wdogwin.toNat) (.watchdog slot gen a.id)

/-- The limit of a queue's policy: none blocks without one; `none` of the outer kind does not block (R93). -/
def policyLimit (d : Decl) (t : Slot) : Option (Option Nat) :=
  match d.policy with
  | 0 => some (some d.limit)
  | 1 => none
  | _ => if t.waitMode = 2 then none else some t.limit

/-- TRAPINFO of a queue wait whose limit expires (R93). -/
def queueInfo (k : Cluster) (id : Nat) : W64 :=
  BitVec.ofNat 64 (id + (k.confQueue id).head.toNat * 65536 + (k.confQueue id).tail.toNat * 2 ^ 32)

/-- What a push does to the records of its home slice: the slice with its status, or none where the queue is full. DESIGN CHOICE
(assumption 8): the slice cycle of a record's STAMP and eligibility (R88, R89) is the domain's count State.now; the spec gives its origin
nowhere. -/
def pushRecord (k : Cluster) (now order part id : Nat) (d : Decl) (key : W64) (p : List W64) (corr : BitVec 32) (phase : Bool) :
    Option (Cluster × Nat) :=
  let fresh : ConfRec :=
    { part := part, qid := id, ord := order * ordStep, born := now, key := key,
      w1 := BitVec.ofNat 64 (bits d.w3 14 0 + d.cls * 2 ^ 16 + d.pri * 2 ^ 20), level := d.level, home := d.home, count := 1, isSealed := false,
      cont := false, inexact := false, ovf := false, op := d.op, w := [0, 0, 0, 0], filled := 0, corr := corr, pool := d.pool,
      phase := phase }
  let made (k : Cluster) : Cluster := k.updQueue id fun q => { q with tail := q.tail + 1, created := q.created + 1 }
  let joined (k : Cluster) : Cluster := k.updQueue id fun q => { q with combined := q.combined + 1, joinedAt := now + 1 }
  match if d.op = 0 then none else (k.queue id).find? fun r => r.key == key && !r.isSealed && !r.cont with
  | none => if queueFull k id d then none else some (made (k.putRec (firstArrival d fresh p)), 0)
  | some r =>
    if d.op ≠ 12 then some (joined (k.putRec (combineRec d r p)), 1) else
    let words := p.take d.catWords
    let chain := chainOf k r
    let last := (chain.getLast?).getD r
    let room := 4 - last.filled
    let up (k : Cluster) : Cluster := k.putRec { (Sp.get r k.conf r.ord) with count := countUp r.count }
    let bump (q : ConfRec) : ConfRec := if q.cont ∧ room ≠ 0 then { q with count := countUp q.count } else q
    if words.length ≤ room then some (joined (up (k.putRec (bump (catAppend last words).1))), 1)
    else if queueFull k id d then none
    else
      let a := catAppend last words
      let cont : ConfRec := (catAppend { fresh with cont := true, ord := last.ord + 1 } a.2).1
      some (joined (made (up ((k.putRec (bump a.1)).putRec cont))), 1)

/-- CQ_PUSH_ARRIVAL in the cluster State.cur (R85, R87, R93): data are slot, GEN, tag, partition, handle, key, the payload, CORR and
whether it has been delivered. -/
def cqPushArrival (s : State) : State :=
  match s.data with
  | [slot, gen, tag, part, h, key, p4, p5, p6, p7, corr, again] =>
    let c := s.cur
    let sl := slot.toNat
    let g : BitVec 32 := gen.setWidth 32
    let tg := tag.toNat
    let pt := part.toNat
    let s := if again = 0 then s.deliverTag (c * 128) tg else s
    match currentDecl s pt h with
    | none => refuseFrom s c pt sl g tg h
    | some (id, d) =>
      let k := s.cluster c
      if (k.confQueue id).gen ≠ d.gen then
        s.setCluster c { k with held := k.held ++ [{ who := c, data := s.data.dropLast ++ [1], ins := .cqPushArrival }] } else
      match pushRecord k s.now s.ticket pt id d key [p4, p5, p6, p7] (corr.setWidth 32) (tg % 2 == 1) with
      | some (k', st) => answerFrom (s.tick.setCluster c k') c pt sl g tg (BitVec.ofNat 512 st)
      | none =>
        let s := s.setCluster c (k.updQueue id fun q => { q with full := q.full + 1 })
        match policyLimit d (s.slot sl) with
        | none => answerFrom s c pt sl g tg 2
        | some l =>
          let s := policyWait s sl g tg l (queueInfo k id)
          s.postOp { who := c, data := s.data.dropLast ++ [1], ins := .cqPushRetry }
  | _ => s

def execCqPushArrival (s : State) : Out := .next (cqPushArrival s)

/-- CQ_PUSH_RETRY (R93): the pusher's NI sends the push again. -/
def execCqPushRetry (s : State) : Out := .next (s.postOp { who := s.cur, data := s.data, ins := .cqPushArrival })

/-- The home cluster of a key (R86). -/
def keyHome (s : State) (part : Nat) (key : W64) : Nat :=
  let q := s.part part
  let h := (bits key 15 0).xor ((bits key 31 16).xor ((bits key 47 32).xor (bits key 63 48)))
  q.clusters.getD (h * q.clusters.length / 65536) 0

/-- CQPUSH (R336): f = 1 makes it a release, held at the core. -/
def execCqpush (x : Fld) (s : State) : Out :=
  .next (issue { d := .g, dDst := true, a := .g, b := .g, extra := [4, 5, 6, 7] } x s fun v s =>
    let t := s.slot s.cur
    if (handleOf v.a).isNone then .trap { cause := causeAddr, addr := v.a }
    else if x.f && !s.holds s.cur .released then .wait .released none false 0
    else
      let part := s.partOf (slotCluster s.cur)
      let tag := s.netTag t.phase
      let s' := askEntry s x [x.d.toNat] false
      let s' := s'.updSlot s.cur fun q => { q with outst := q.outst.map fun o : Outst => if o.len ≠ 0 then { o with tag := tag } else o }
      let s' := awaitAnswer s' tag none false 0
      let d : List W64 := [BitVec.ofNat 64 s.cur, t.gen.setWidth 64, BitVec.ofNat 64 tag, BitVec.ofNat 64 part, v.a, v.b, t.getG 4,
                           t.getG 5, t.getG 6, t.getG 7, t.corr.setWidth 64, 0]
      .hold (s'.send (slotCore s.cur) part t.phase { who := keyHome s part v.b, data := d, ins := .cqPushArrival }))

/-! ## Selection and delivery (R89, R92, R337) -/

/-- A record may be selected: it heads its queue's OPEN records and its window has passed. -/
def headRec (k : Cluster) (id : Nat) : Option ConfRec := (k.queue id).find? fun r => !r.isSealed

/-- Seals a head record and its CONT records. -/
def sealChain (k : Cluster) (r : ConfRec) : Cluster :=
  let ch := chainOf k r
  (ch.foldl (fun k q => k.putRec { q with isSealed := true }) k).updQueue r.qid fun q =>
    { q with head := q.head + BitVec.ofNat 16 ch.length }

/-- The eligible head of a queue. -/
def eligibleHead (s : State) (k : Cluster) (part id : Nat) : Option ConfRec :=
  (headRec k id).filter fun r => decide (r.born + ((s.part part).decl id).window ≤ s.now)

/-- The record a pop takes (R337): a sealed CONT record that is still to be delivered, else the eligible head. -/
def popChoice (s : State) (k : Cluster) (part id : Nat) : Option ConfRec :=
  match (k.queue id).find? fun r => r.isSealed with
  | some r => some r
  | none => eligibleHead s k part id

/-- Delivers a record to a pop (R337). DESIGN CHOICE (assumption 139): the delivery is complete, so that the record is FREE (R87), as its answer
leaves the slice. -/
def deliverPop (s : State) (c part : Nat) (r : ConfRec) (slot : Nat) (gen : BitVec 32) (tag : Nat) : State :=
  let k := if r.isSealed then s.cluster c else sealChain (s.cluster c) r
  let r := { r with isSealed := true }
  let img := joinWords ([r.key.toNat] ++ r.w.map BitVec.toNat ++ [(ConfRec.header r).toNat])
  answerFrom (s.setCluster c (k.dropRec r)) c part slot gen tag (BitVec.ofNat 512 img)

/-- CQ_POP_REQUEST in the cluster State.cur (R337): data are slot, GEN, tag, partition, handle and whether it has been delivered. -/
def cqPopRequest (s : State) : State :=
  match s.data with
  | [slot, gen, tag, part, h, again] =>
    let c := s.cur
    let sl := slot.toNat
    let g : BitVec 32 := gen.setWidth 32
    let tg := tag.toNat
    let pt := part.toNat
    let s := if again = 0 then s.deliverTag (c * 128) tg else s
    match currentDecl s pt h with
    | none => refuseFrom s c pt sl g tg h
    | some (id, d) =>
      let k := s.cluster c
      if (k.confQueue id).gen ≠ d.gen then
        s.setCluster c { k with held := k.held ++ [{ who := c, data := s.data.dropLast ++ [1], ins := .cqPopRequest }] }
      else if !d.hold then refuseFrom s c pt sl g tg h
      else
        match if (k.pops.filter fun p => p.qid == id) = [] then popChoice s k pt id else none with
        | some r => deliverPop s c pt r sl g tg
        | none =>
          match policyLimit d (s.slot sl) with
          | none =>
            let s := s.updSlot sl fun t => if t.gen ≠ g then t else
              { [4, 5, 6, 7].foldl (fun t n => t.setEmpty n false) t with
                  outst := t.outst.map fun o : Outst => if o.tag = tg then { o with dests := [o.dests.headD 0, 9] } else o }
            answerFrom s c pt sl g tg 0
          | some l =>
            let p : ParkedPop := { part := pt, qid := id, slot := sl, gen := g, tag := tg, since := s.now, qgen := d.gen }
            policyWait (s.setCluster c { k with pops := k.pops ++ [p] }) sl g tg l (queueInfo k id)
  | _ => s

def execCqPopRequest (s : State) : Out := .next (cqPopRequest s)

/-- CQPOP (R337): d, g4 to g7 and g9 are EMPTY until they are filled together; the slot waits. -/
def execCqpop (x : Fld) (s : State) : Out :=
  .next (issue { d := .g, dDst := true, a := .g, extra := [4, 5, 6, 7, 9] } x s fun v s =>
    let t := s.slot s.cur
    if (handleOf v.a).isNone then .trap { cause := causeAddr, addr := v.a } else
    let part := s.partOf (slotCluster s.cur)
    let tag := s.netTag t.phase
    let dests := [x.d.toNat, 4, 5, 6, 7, 9]
    let s' := askEntry s x dests false
    let s' := s'.updSlot s.cur fun q => { q.markEmpty dests with outst := q.outst.map fun o : Outst =>
      if o.len ≠ 0 then { o with tag := tag } else o }
    let s' := awaitAnswer s' tag none false 0
    let d : List W64 := [BitVec.ofNat 64 s.cur, t.gen.setWidth 64, BitVec.ofNat 64 tag, BitVec.ofNat 64 part, v.a, 0]
    .hold (s'.send (slotCore s.cur) part t.phase { who := slotCluster s.cur, data := d, ins := .cqPopRequest }))

/-- The first sealed record of a queue. -/
def Cluster.sealedHead (k : Cluster) (id : Nat) : Option ConfRec := (k.queue id).find? fun r => r.isSealed

/-- The sealed MODE 0 record that goes on to the ready queue (R87): one of a chain that is being delivered goes next (R92); else one that
heads its queue and has room. -/
def sealedTask (s : State) (c part : Nat) (k : Cluster) : Option ConfRec :=
  let room (r : ConfRec) : Bool := enqueueRoom s c r.home r.level
  let heads := (List.range 64).filterMap fun id => if ((s.part part).decl id).hold then none else k.sealedHead id
  match heads.find? fun r => r.cont with
  | some r => if room r then some r else none
  | none => heads.find? room

/-- The MODE 0 queue a slice selects from (R89): the highest PRI, and in it the next id after the last one. A queue whose sealed record
waits for room holds back no other; DESIGN CHOICE (assumption 140): no further record of its own is selected meanwhile. -/
def selectQueue (s : State) (part : Nat) (k : Cluster) : Option (Nat × ConfRec) :=
  let heads : List (Nat × Nat × ConfRec) := (List.range 64).filterMap fun id =>
    let d := (s.part part).decl id
    if d.hold || (k.sealedHead id).isSome then none else (eligibleHead s k part id).map fun r => (id, d.pri, r)
  let best := heads.foldl (fun n (h : Nat × Nat × ConfRec) => Nat.max n (h.2.1 + 1)) 0
  let cand := heads.filter fun (h : Nat × Nat × ConfRec) => h.2.1 + 1 == best
  let last := Sp.find k.lastSel (best - 1)
  let next := match last with
    | none => cand.head?
    | some l => match cand.find? fun (h : Nat × Nat × ConfRec) => decide (l < h.1) with
      | some h => some h
      | none => cand.head?
  next.map fun (h : Nat × Nat × ConfRec) => (h.1, h.2.2)

/-- A pop that waits and a record it may take: the longest waiting first. -/
def popReady (s : State) (part : Nat) (k : Cluster) : Option (ParkedPop × ConfRec) :=
  k.pops.findSome? fun p => (popChoice s k part p.qid).map fun r => (p, r)

/-- A waiting pop whose declaration is gone, or has become one of MODE 0 (R337). -/
def popStale (s : State) (part : Nat) (k : Cluster) : Option ParkedPop :=
  k.pops.find? fun p => let d := (s.part part).decl p.qid
    !d.live || d.gen != p.qgen || !d.hold

/-- The task record of a dispatched Confluence record (R31, R95, R174). -/
def dispatchRecord (d : Decl) (r : ConfRec) : TaskRec :=
  { pc := (r.w1).setWidth 15, noSteal := false, level := r.level, home := r.home, pri := d.pri, cls := d.cls, corr := r.corr, pool := r.pool,
    args := r.w, source := 1, phase := r.phase, key := r.key, header := ConfRec.header { r with isSealed := true }, enq := 0 }

/-- Writes a sealed record to the ready queue: its slot is FREE (R87). -/
def dispatchSealed (s : State) (c part : Nat) (r : ConfRec) : State :=
  recordEnqueue (s.updCluster c fun k => k.dropRec r) c (dispatchRecord ((s.part part).decl r.qid) r)

/-- CONFLUENCE_SELECT in the cluster State.cur (R87, R89, R337): a waiting pop is served, or refused where its handle is stale; or a sealed
record goes on to the ready queue; or, once a cycle, one record is selected, sealed, and written there, its launch counting it, while
there is room. -/
def confluenceSelect (s : State) : State :=
  let c := s.cur
  let part := s.partOf c
  let k := s.cluster c
  match popStale s part k with
  | some p => refuseFrom (s.setCluster c { k with pops := k.pops.erase p }) c part p.slot p.gen p.tag (queueHandle p.qid p.qgen)
  | none =>
  match popReady s part k with
  | some (p, r) =>
    deliverPop (s.setCluster c { k with pops := k.pops.erase p }) c part r p.slot p.gen p.tag
  | none =>
    match sealedTask s c part k with
    | some r => dispatchSealed s c part r
    | none =>
      match if k.selected = s.now + 1 then none else selectQueue s part k with
      | none => s
      | some (id, r) =>
        let pri := ((s.part part).decl id).pri
        let k := sealChain { k with lastSel := Sp.put k.lastSel pri id, selected := s.now + 1 } r
        let s := s.setCluster c k
        if (sealedTask s c part k).map ConfRec.ord = some r.ord then dispatchSealed s c part { r with isSealed := true }
        else s.updCluster c fun k => { k with enqrefuse := k.enqrefuse + 1 }

def execConfluenceSelect (s : State) : Out := .next (confluenceSelect s)

/-- No push has combined with a record of a pop's queue in this cycle: a push that reaches the slice in the cycle of a selection does not
combine (R89). -/
def popTurn (s : State) (o : Op) : Bool :=
  match currentDecl s (o.data.getD 3 0).toNat (o.data.getD 4 0) with
  | some (id, _) => ((s.cluster o.who).confQueue id).joinedAt != s.now + 1
  | none => true

/-- CONFLUENCE_SELECT has something to do: a pop to serve or refuse, a sealed record to pass on, or, once a cycle, a record to select. A
push waits for it: the selection of its cycle seals first (R89). -/
def confluenceReady (s : State) (c : Nat) : Bool :=
  let part := s.partOf c
  let k := s.cluster c
  (popStale s part k).isSome || (popReady s part k).isSome || (sealedTask s c part k).isSome ||
    (k.selected != s.now + 1 && (selectQueue s part k).isSome)

/-- CQSTAT (R338): it reads the issuing cluster's slice. -/
def execCqstat (x : Fld) (s : State) : Out :=
  .next (issue uDAB x s fun v s =>
    let part := s.partOf (slotCluster s.cur)
    let k := s.cluster (slotCluster s.cur)
    let r : W64 := match currentDecl s part v.a with
      | none => 0
      | some (id, _) =>
        let q := k.confQueue id
        match bits v.b 1 0 with
        | 0 => q.created.setWidth 64
        | 1 => q.combined.setWidth 64
        | 2 => q.full.setWidth 64
        | _ => BitVec.ofNat 64 (q.head.toNat + q.tail.toNat * 65536 + (k.queue id).length % 2 ^ 15 * 2 ^ 32)
    let c := slotCluster s.cur
    askNet s x [x.d.toNat] (c * 128) fun tag s => answerFrom s c part s.cur (s.slot s.cur).gen tag (r.setWidth 512))

end Sys2Proof.Machine
end

