-- ==== Sys2Proof/Machine/Tabled.lean ====
section
/-! DEFINITION. Tabled calls (R107 to R117, R200, R356 to R364): TCALL, TRET, TSEED, TPIN, TUNPIN, TINV, TQRY; what their requests do
at the home, producer chains, completion groups, and what is delivered to a slot. An entry's place is (cluster, index), by physical
cluster. -/

namespace Sys2Proof.Machine
open Sys2Proof

/-! ## Descriptors and keys (R107, R356) -/

/-- Fields of a descriptor's words. -/
def dWord (w : List W64) (i : Nat) : W64 := w.getD i 0
def dCallee (w : List W64) : Nat := bits (dWord w 0) 14 0
def dArgc (w : List W64) : Nat := bits (dWord w 0) 18 16
def dAnsc (w : List W64) : Nat := bits (dWord w 0) 21 20
def dCycles (w : List W64) : Bool := (dWord w 0).getLsbD 24
def dBound (w : List W64) : Nat := bits (dWord w 0) 38 32
def dScope (w : List W64) : Nat := bits (dWord w 0) 41 40
def dEclass (w : List W64) : Nat := bits (dWord w 0) 45 44
def dAoff (w : List W64) : Nat := bits (dWord w 1) 18 0
def dAmem (w : List W64) : Bool := (dWord w 1).getLsbD 19

/-- A descriptor is refused with ADDR (R358). -/
def descBad (w : List W64) : Bool :=
  let w0 := dWord w 0
  let w1 := dWord w 1
  w0.getLsbD 15 || w0.getLsbD 19 || bits w0 23 22 != 0 || bits w0 31 25 != 0 || w0.getLsbD 39 || bits w0 43 42 != 0 ||
    bits w0 63 46 != 0 || bits w1 63 20 != 0 || dWord w 2 != 0 || dWord w 3 != 0 || decide (4 < dArgc w) || dBound w == 0 ||
    decide (64 < dBound w) || decide (2 ≤ dEclass w) || decide (0x4000 ≤ dCallee w) || 
    (dAmem w && (dAoff w % 8 != 0 || decide (0x80000 < dAoff w + 8 * (dAnsc w + 1))))

/-- The key arguments of a request: those ARGC counts, then zeros. -/
def keyArgs (w : List W64) (args : List W64) : List W64 := (args.take (dArgc w) ++ [0, 0, 0, 0]).take 4

/-- The hash of a key (R107). -/
def keyHash (desc : W64) (argc : Nat) (args : List W64) : W64 :=
  (args.take argc).foldl (fun h a => (h.rotateLeft 13) ^^^ a) desc

/-- The home cluster and set of a key (R107). -/
def keyPlace (s : State) (part : Nat) (h : W64) : Nat × Nat :=
  let q := s.part part
  let f := (bits h 15 0).xor ((bits h 31 16).xor ((bits h 47 32).xor (bits h 63 48)))
  (q.clusters.getD (f * q.clusters.length / 65536) 0, (bits h 10 0).xor (bits h 26 16))

/-! ## Entries (R108) -/

abbrev Place := Nat × Nat

/-- The entry at a place. -/
def State.pigeonAt (s : State) (p : Place) : Option Pigeon := Sp.find (s.cluster p.1).pigeon p.2
def State.setPigeon (s : State) (p : Place) (e : Pigeon) : State :=
  s.updCluster p.1 fun c => { c with pigeon := Sp.put c.pigeon p.2 e }
def State.dropPigeon (s : State) (p : Place) : State := s.updCluster p.1 fun c => { c with pigeon := Sp.erase c.pigeon p.2 }

/-- The entry that holds a key (R107): descriptor, arguments, scoped level and partition. -/
def findKey (s : State) (r : TabledReq) : Option (Nat × Pigeon) :=
  let args := keyArgs r.words r.args
  let pl := keyPlace s r.part (keyHash r.desc (dArgc r.words) r.args)
  (List.range 8).findSome? fun w => match s.pigeonAt (pl.1, pl.2 * 8 + w) with
    | some e => if e.part = r.part ∧ e.desc = r.desc ∧ e.argc = dArgc r.words ∧ e.args = args ∧
        e.level = scopeLevel (dScope r.words) r.level ∧ e.home = r.home then some (pl.2 * 8 + w, e) else none
    | none => none

/-- The way a new entry takes (R117): an empty one, else the least recently used that may be replaced. -/
def freeWay (s : State) (pl : Place) : Option Nat :=
  let ways := (List.range 8).map (· + pl.2 * 8)
  match ways.find? fun i => match s.pigeonAt (pl.1, i) with
    | some e => e.st == 0 && e.retry == 0
    | none => true with
  | some i => some i
  | none =>
    (ways.foldl (fun (b : Option (Nat × Nat)) i => match s.pigeonAt (pl.1, i) with
      | none => b
      | some e =>
        if (e.st = 2 ∧ !e.pin) ∨ (e.st = 0 ∧ 0 < e.retry) then
          match b with
          | none => some (i, e.use)
          | some q => if e.use < q.2 then some (i, e.use) else b
        else b) none).map Prod.fst

/-- A word of an entry (R108). DESIGN CHOICE (assumption 121): PRODUCER reads zero once the entry is EMPTY; a COMPLETE one keeps it (R444). -/
def pigeonWord (s : State) (e : Pigeon) (i : Nat) : W64 :=
  let unit (slot : Nat) (gen : BitVec 32) : W64 := s.placeId (slotCore slot) + BitVec.ofNat 64 (slot % 8 * 2 ^ 37 + gen.toNat)
  let b (x : Bool) (n : Nat) : Nat := if x then 2 ^ n else 0
  match i with
  | 0 => e.desc
  | 1 | 2 | 3 | 4 => e.args.getD (i - 1) 0
  | 5 | 6 | 7 | 8 => e.ans.getD (i - 5) 0
  | 9 => BitVec.ofNat 64 (e.st + e.argc * 2 ^ 5 + e.ansc * 2 ^ 8 + e.retry * 2 ^ 10 + b e.pin 12 + b e.handed 13 + b e.done 14 +
      b e.stale 15 + e.iter % 256 * 2 ^ 24 + e.version.toNat * 2 ^ 32 + e.waiters.length % 65536 * 2 ^ 48)
  | 10 => if e.st ≠ 0 then unit e.prodSlot e.prodGen else 0
  | 11 => BitVec.ofNat 64 ((match e.parent with
      | some p => 2 ^ 63 + s.relCluster p.1 * 2 ^ 56 + p.2 * 2 ^ 42
      | none => 0) + (match e.leader with
      | some p => 2 ^ 41 + s.relCluster p.1 * 2 ^ 34 + p.2 * 2 ^ 20
      | none => 0) + e.members % 256 * 2 ^ 12)
  | 12 => e.level
  | 13 => e.stamp.setWidth 64
  | 14 => ((e.waiters.head?).map fun w => unit w.slot w.gen).getD 0
  | 15 => ((e.waiters.getLast?).map fun w => unit w.slot w.gen).getD 0
  | _ => 0

/-! ## Stacks (R110) -/

/-- A stack entry. -/
def stackWord (s : State) (u : Bool) (p : Place) (link : Nat) (sp : W64) : W64 :=
  BitVec.ofNat 64 (bits sp 18 0 + link % 2 ^ 15 * 2 ^ 20 + p.2 * 2 ^ 35 + s.relCluster p.1 * 2 ^ 49 + if u then 2 ^ 56 else 0)

/-- The place a stack entry names; none for an untabled call. -/
def stackPlace (s : State) (part : Nat) (e : W64) : Option Place :=
  if e.getLsbD 56 then none else (s.physCluster part (bits e 55 49)).map fun c => (c, bits e 48 35)

/-- The tabled-call stack of a unit, resident or saved, and its state. -/
def unitStack (s : State) (slot : Nat) (gen : BitVec 32) : List W64 × SlotState :=
  let t := s.slot slot
  if t.st ≠ .idle ∧ t.gen = gen then (t.stack, t.st) else
  match t.saved.find? fun c => c.gen == gen with
  | none => ([], .idle)
  | some c => match readFrames s slot c with
    | none => ([], c.back)
    | some (_, img, ext) => ((loadImage t c img ext).stack, c.back)

/-- The places on a unit's stack, bottom first. -/
def placesOf (s : State) (part : Nat) (st : List W64) : List Place := st.filterMap (stackPlace s part)

/-- An entry's producer is on its way through it in this run (R116): it has the entry on its stack and does not wait there as a
MEMBER. -/
def producerRuns (s : State) (p : Place) (e : Pigeon) : Bool :=
  let u := unitStack s e.prodSlot e.prodGen
  (placesOf s e.part u.1).contains p &&
    !(decide (u.2 = .suspended .member) && (u.1.getLast?.bind (stackPlace s e.part)) == some p)

/-! ## The producer chain (R114) -/

/-- One walk from an entry: whether it reaches the caller, and the members it has gathered; `n` bounds the hops. -/
def walkChain (s : State) (part slot : Nat) (gen : BitVec 32) : Place → List Place → Nat → Bool × List Place
  | _, ms, 0 => (false, ms)
  | p, ms, n + 1 =>
    match s.pigeonAt p with
    | none => (false, ms)
    | some e =>
      let u := unitStack s e.prodSlot e.prodGen
      let ps := placesOf s part u.1
      let ms := (ms ++ (ps.reverse.takeWhile (· != p)) ++ [p]).eraseDups
      if e.prodSlot = slot ∧ e.prodGen = gen then (true, ms)
      else if u.2 = .suspended .consumer then
        match ps.getLast? with
        | some q => walkChain s part slot gen q ms n
        | none => (false, ms)
      else (false, ms)

/-- What a walk reads on its way, by which a change is noticed: of each entry it passes its state, producer and STAMP, and the suspension
and the stack of that producer. -/
def walkStamps (s : State) (part slot : Nat) (gen : BitVec 32) : Place → Nat → List W64
  | _, 0 => []
  | p, n + 1 =>
    match s.pigeonAt p with
    | none => [0]
    | some e =>
      let u := unitStack s e.prodSlot e.prodGen
      let cons := decide (u.2 = .suspended .consumer)
      [BitVec.ofNat 64 (e.st + 4 * (if cons then 1 else 0) + 8 * e.prodSlot), e.prodGen.setWidth 64, e.stamp.setWidth 64] ++ u.1 ++
        (if (e.prodSlot = slot ∧ e.prodGen = gen) ∨ !cons then [] else
          match (placesOf s part u.1).getLast? with
          | some q => walkStamps s part slot gen q n
          | none => [])

/-! ## Delivery to a slot (R356, R357) -/

/-- g3 of an outcome (R357). -/
def outcomeWord (k : Nat) (version : BitVec 16) : W64 := BitVec.ofNat 64 (k + version.toNat * 65536)

/-- A delivery with nothing in it but its kind and its slot. -/
def tmsg (kind slot : Nat) (gen : BitVec 32) (tag : Nat) : TabledMsg :=
  { kind := kind, slot := slot, gen := gen, tag := tag, ans := [], g3 := 0, entry := 0, args := [], words := [], cause := 0,
    info := 0, pops := [] }

/-- Sends a delivery from a home. -/
def sendTabled (s : State) (c part : Nat) (d : TabledMsg) : State :=
  s.sendTag (c * 128) part d.tag { who := d.slot, ins := .tabledDelivery d }

/-- The answer words of an entry. -/
def Pigeon.answer (e : Pigeon) : List W64 := e.ans.take (e.ansc + 1)

/-- The number of a place, for the entries a trap pops. -/
def placeNum (p : Place) : Nat := p.1 * 2 ^ 14 + p.2

/-! ## A TCALL at its home (R111, R114 to R117) -/

/-- The caller's current entry before the push, as PARENT (R111). -/
def callerParent (s : State) (t : Slot) (part : Nat) : Option Place := t.stack.getLast?.bind (stackPlace s part)

/-- Pushes a stack entry of a TCALL in its slot. -/
def pushCall (s : State) (slot : Nat) (u : Bool) (p : Place) : State :=
  s.updSlot slot fun t =>
    let len := ((t.outst.find? (fun o : Outst => o.len != 0)).map Outst.len).getD 0
    { t with stack := t.stack ++ [stackWord s u p (t.pc.toNat + len) (t.getG 2)] }

/-- The caller takes the untabled path. -/
def untabledCall (s : State) (r : TabledReq) (c : Nat) : State :=
  sendTabled (pushCall s r.slot true (c, 0)) c r.part { tmsg 2 r.slot r.gen r.tag with words := r.words }

/-- The caller becomes the producer of a new entry. DESIGN CHOICE (assumption 8): the slice cycle of STAMP is the domain's count State.now. -/
def produceCall (s : State) (r : TabledReq) (p : Place) (retry : Nat) : State :=
  let t := s.slot r.slot
  let e : Pigeon :=
    { words := r.words, part := r.part, desc := r.desc, args := keyArgs r.words r.args, ansc := dAnsc r.words, argc := dArgc r.words,
      st := 1, retry := retry, prodSlot := r.slot, prodGen := r.gen, parent := callerParent s t r.part,
      level := scopeLevel (dScope r.words) r.level, home := r.home, stamp := BitVec.ofNat 32 s.now, use := s.ticket }
  let s := (pushCall (s.setPigeon p e) r.slot false p).tick
  sendTabled s p.1 r.part { tmsg 1 r.slot r.gen r.tag with words := r.words }

/-- An answer to a TCALL. -/
def answerCall (s : State) (r : TabledReq) (p : Place) (e : Pigeon) (k : Nat) : State :=
  sendTabled s p.1 r.part { tmsg 0 r.slot r.gen r.tag with ans := e.answer, g3 := outcomeWord k e.version, words := r.words }

/-- The caller suspends as CONSUMER (R109, R111): its wait follows WAITPOL, and MODE 2 blocks (R179, R358). -/
def consumeCall (s : State) (r : TabledReq) (p : Place) (e : Pigeon) : State :=
  let s := s.setPigeon p { e with waiters := e.waiters ++ [{ slot := r.slot, gen := r.gen, member := false, words := r.words, tag := r.tag }] }
  let s := pushCall { s with cur := r.slot } r.slot false p
  let t := s.slot r.slot
  (awaitAnswer s r.tag t.limit true 0).updSlot r.slot fun t =>
    { t with st := .suspended .consumer, outst := t.outst.filter fun o : Outst => o.len == 0 }

/-- The caller waits for a walk of the producer chain. -/
def startWalk (s : State) (r : TabledReq) (p : Place) : State :=
  let w := walkChain s r.part r.slot r.gen p [] 9
  s.postOp { who := r.slot, ins := .chainWalkResult r w.1 w.2 (walkStamps s r.part r.slot r.gen p 9) }

/-- The entry's group is that of a member on a stack (R116). -/
def memberThread (s : State) (part : Nat) (st : List W64) (e : Pigeon) : Bool :=
  (placesOf s part st).any fun q => ((s.pigeonAt q).bind Pigeon.leader) == e.leader && e.leader.isSome

/-- A provisional answer (R115, R116): the entry's answer is handed out, and the way used (R117). -/
def provisional (s : State) (r : TabledReq) (p : Place) (e : Pigeon) : State :=
  answerCall (s.tick.setPigeon p { e with handed := true, use := s.ticket }) r p e 2

/-- A TCALL's request at its home. -/
def tcallAt (s : State) (r : TabledReq) : State :=
  let pl := keyPlace s r.part (keyHash r.desc (dArgc r.words) r.args)
  match findKey s r with
  | none =>
    match freeWay s pl with
    | none => untabledCall s r pl.1
    | some i => produceCall s r (pl.1, i) 0
  | some (i, e) =>
    let p : Place := (pl.1, i)
    match e.st with
    | 0 => produceCall s r p e.retry
    | 2 => answerCall (s.tick.setPigeon p { e with use := s.ticket }) r p e 0
    | 3 =>
      let t := s.slot r.slot
      if memberThread s r.part t.stack e then
        if e.done || producerRuns s p e then provisional s r p e
        else
          let e' := { e with prodSlot := r.slot, prodGen := r.gen, parent := callerParent s t r.part }
          sendTabled (pushCall (s.setPigeon p e') r.slot false p) p.1 r.part { tmsg 1 r.slot r.gen r.tag with words := r.words }
      else startWalk s r p
    | _ => startWalk s r p

/-! ## Completion groups (R115, R116) -/

/-- The members of the group an entry leads, in a partition. -/
def groupOf (s : State) (part : Nat) (l : Place) : List Place :=
  (s.clustersOf part).flatMap fun c => ((s.cluster c).pigeon.filter fun e => e.2.leader == some l).map fun e => (c, e.1)

/-- The members of a list with those of the groups they belong to. -/
def closeGroups (s : State) (part : Nat) (ms : List Place) : List Place :=
  (ms ++ ms.flatMap fun p => match (s.pigeonAt p).bind Pigeon.leader with
    | some l => groupOf s part l
    | none => []).eraseDups

/-- The oldest STAMP of a list of entries leads (R115); the first on a tie (assumption 121). -/
def oldest (s : State) (l : List Place) : Option Place :=
  (l.foldl (fun (b : Option (Place × Nat)) p => match s.pigeonAt p with
    | none => b
    | some e =>
      let age := (s.now + 2 ^ 32 - e.stamp.toNat) % 2 ^ 32
      match b with
      | none => some (p, age)
      | some q => if q.2 < age then some (p, age) else b) none).map Prod.fst

/-- Changes the entries of a list. -/
def updPigeons (s : State) (f : Place → Pigeon → Pigeon) : List Place → State
  | [] => s
  | p :: l => updPigeons (match s.pigeonAt p with
    | none => s
    | some e => s.setPigeon p (f p e)) f l

/-- Forms or merges a group of members (R115); none where it would exceed 255. -/
def formGroup (s : State) (part : Nat) (ms : List Place) : Option State :=
  let old := (ms.filterMap fun p => (s.pigeonAt p).bind Pigeon.leader).eraseDups
  let all := closeGroups s part ms
  if 255 < all.length then none else
  match oldest s all with
  | none => none
  | some l =>
    let olds := old.filterMap s.pigeonAt
    let iter := olds.foldl (fun n e => Nat.max n e.iter) 1
    let stale := olds.any fun e => e.stale
    some (updPigeons s (fun p e =>
      { e with st := 3, leader := some l, iter := if p = l then iter else 0, members := if p = l then all.length else 0,
               stale := p == l && stale }) all)

/-- CHAIN_WALK_RESULT (R114, R115): the walk returns to the entry's home; where what it read has changed, it has found no cycle. -/
def chainWalkResult (s : State) (r : TabledReq) (cycle : Bool) (members : List Place) (stamps : List W64) : State :=
  let pl := keyPlace s r.part (keyHash r.desc (dArgc r.words) r.args)
  match findKey s r with
  | none => tcallAt s r
  | some (i, e) =>
    let p : Place := (pl.1, i)
    if e.st = 2 ∨ e.st = 0 then tcallAt s r
    else if !cycle || walkStamps s r.part r.slot r.gen p 9 != stamps then consumeCall s r p e
    else if !dCycles r.words then
      sendTabled s p.1 r.part { tmsg 6 r.slot r.gen r.tag with cause := causeTabledFail, info := 4 }
    else
      match formGroup s r.part members with
      | none => untabledCall s r p.1
      | some s =>
        match s.pigeonAt p with
        | none => s
        | some e => provisional s r p e

def execChainWalkResult (r : TabledReq) (cycle : Bool) (members : List (Nat × Nat)) (stamps : List W64) (s : State) : Out :=
  .next (if s.hasEntry r.slot r.gen r.tag then chainWalkResult s r cycle members stamps else s)

/-! ## Requests (R358, R359, R362, R363) -/

/-- The descriptor read as an access of its unit, for a slice (R121). -/
def reqAccess (s : State) (r : TabledReq) : Access :=
  let t := s.slot r.slot
  { op := .ld 8 false, slot := r.slot, gen := r.gen, tag := r.tag, pc := t.pc, part := r.part, level := r.level, mode := 3,
    ea := r.desc, dest := 0, d0 := 0, d1 := 0, vec := 0, offs := 0, lanes := 0xFFFFFFFF, masked := false,
    fall := t.guardmode.getLsbD 0, nb := false, opc := 0, region := t.region }

/-- The descriptor has been read: a TABLED_REQUEST with its words follows. -/
def descRead (s : State) (r : TabledReq) (v : Nat) : State :=
  s.postOp { who := r.slot, ins := .tabledRequest { r with words := (List.range 4).map fun i => BitVec.ofNat 64 (imgWord v i) } }

/-- The descriptor's read at its home (R359). -/
def readDescriptor (s : State) (r : TabledReq) : State :=
  let a := reqAccess s r
  let o : Op := { who := r.slot, data := [1], ins := .tabledRequest r }
  if r.desc.getLsbD 56 ∧ s.sliceHeld r.part then s.holdAt o r.part else
  match s.homeOf (accAccessor a (slotCore r.slot)) r.desc 32 true false with
  | (s, .loc (.second dev va) l) =>
    match lineAccess s a (pageSlice dev va) (s.partAt r.part dev) va l 32 (fun _ => []) o with
    | .done s v => descRead (s.sliceBytes r.part 32) r v
    | .stalled s => s
  | (s, .loc _ l) => descRead s r (s.read l 32)
  | (s, .guard) => descRead (guardReport s a r.desc) r 0
  | (s, .refused c) => s.post (.refusalArrival r.slot r.gen r.tag c r.desc)
  | (s, .fault page) => s.post (.faultReply r.slot r.gen r.tag page)

/-- The status of TPIN, TUNPIN and TINV, and what they do (R111, R362). -/
def pinAt (s : State) (r : TabledReq) : State × Nat :=
  match findKey s r with
  | none => (s, 0)
  | some (i, e) =>
    let p : Place := ((keyPlace s r.part (keyHash r.desc (dArgc r.words) r.args)).1, i)
    let st := e.st + 4
    if r.kind = 3 then (if e.st = 2 ∨ e.st = 0 then (s.dropPigeon p, st + 8) else (s, st))
    else if e.st = 2 then
      let v := r.kind == 1
      (s.setPigeon p { e with pin := v }, if e.pin = v then st else st + 8)
    else (s, st)

/-- The first EMPTY one among the argument registers that a descriptor counts (R358), and, for a TCALL, those its answer is written
to (R26). -/
def emptyArg (t : Slot) (r : TabledReq) : Option Nat :=
  ((List.range (if r.kind = 0 then Nat.max (dArgc r.words) (dAnsc r.words + 1) else dArgc r.words)).map (4 + ·)).find?
    fun i => t.empty (gCode i)

/-- A waiting form whose argument register is EMPTY waits for it, and issues again (R358, R362). -/
def awaitArg (s : State) (r : TabledReq) (i : Nat) : State :=
  (withdraw (s.deliverTag (slotCore r.slot) r.tag) r.slot).updSlot r.slot fun t => { t with st := .waiting (.reg (gCode i)) }

/-- A request whose descriptor has been read, at the home: the key arguments of a waiting form are its slot's registers. -/
def keyRequest (s : State) (r : TabledReq) : State :=
  let t := s.slot r.slot
  let r := if r.kind = 4 then r else { r with args := (List.range 4).map fun i => t.getG (4 + i) }
  let c := (keyPlace s r.part (keyHash r.desc (dArgc r.words) r.args)).1
  if descBad r.words then s.post (.refusalArrival r.slot r.gen r.tag causeAddr r.desc) else
  match if r.kind = 4 then none else emptyArg t r with
  | some i => awaitArg s r i
  | none =>
  let s := s.deliverTag (c * 128) r.tag
  match r.kind with
  | 0 => tcallAt s r
  | 4 =>
    let w := match findKey s r with
      | none => 0
      | some (_, e) => pigeonWord s e r.idx
    answerFrom s c r.part r.slot r.gen r.tag (w.setWidth 512)
  | _ =>
    let q := pinAt s r
    answerFrom q.1 c r.part r.slot r.gen r.tag (BitVec.ofNat 512 q.2)

/-- TABLED_REQUEST (R111, R359, R362, R363): without the descriptor's words they are read; with them the key's home acts. The request of
a unit that has ended, or whose form is withdrawn, does nothing. -/
def execTabledRequest (r : TabledReq) (s : State) : Out :=
  .next (if !s.hasEntry r.slot r.gen r.tag then s.deliverTag (slotCore r.slot) r.tag else if r.words = [] then readDescriptor s r else keyRequest s r)

/-- The checks of a descriptor's address (R358): ALIGN, then ADDR. -/
def descAddress (s : State) (a : W64) : Option Trap :=
  if a.toNat % 32 ≠ 0 then some { cause := causeAlign, addr := a } else
  match s.globalFrom (slotCluster s.cur) (s.partOf (slotCluster s.cur)) a with
  | some (.scratch _ _) | some (.second _ _) => none
  | _ => some { cause := causeAddr, addr := a }

/-- The request of a form, as it is at issue. -/
def newRequest (s : State) (kind tag : Nat) (desc : W64) (args : List W64) (idx : Nat) : TabledReq :=
  let t := s.slot s.cur
  { kind := kind, slot := s.cur, gen := t.gen, tag := tag, part := s.partOf (slotCluster s.cur), desc := desc, args := args,
    level := t.level, home := t.home, idx := idx, words := [] }

/-- Gives the waiting entry of the current slot a tag that the network counts, and the address its form accesses (R42). -/
def retag (s : State) (tag : Nat) (addr : W64) : State :=
  s.updSlot s.cur fun q =>
    { q with outst := q.outst.map fun o : Outst => if o.len ≠ 0 then { o with tag := tag, addr := addr } else o }

/-- A form that keeps its slot waiting while its descriptor is read and its key's home acts. -/
def tabledForm (x : Fld) (s : State) (kind : Nat) (desc : W64) (dests : List Nat) : Eff :=
  let t := s.slot s.cur
  let tag := s.netTag t.phase
  let r := newRequest s kind tag desc [] 0
  let s := awaitAnswer (retag (askEntry s x dests false) tag desc) tag none false 0
  .hold (s.send (slotCore s.cur) r.part t.phase { who := s.cur, ins := .tabledRequest r })

/-- The line a descriptor lies in has an outstanding access of the slot (R192). -/
def descLine (s : State) (a : W64) : Cond :=
  .line (((s.globalTarget (s.partOf (slotCluster s.cur)) a).map Target.line).getD 0)

/-- TCALL (R358): g1 and g3, which its outcome writes, are waited on as well (R26). -/
def execTcall (x : Fld) (s : State) : Out :=
  .next (issue { uA with extra := [1, 3] } x s fun v s =>
    if 64 ≤ (s.slot s.cur).stack.length then .trap { cause := causeTabledFail, info := 1 } else
    match descAddress s v.a with
    | some t => .trap t
    | none =>
      if !s.holds s.cur (descLine s v.a) then .wait (descLine s v.a) none false 0 else tabledForm x s 0 v.a [])

/-- TPIN, TUNPIN and TINV (R362). -/
def pinForm (x : Fld) (s : State) (kind : Nat) : State :=
  issue uDA x s fun v s =>
    match descAddress s v.a with
    | some t => .trap t
    | none =>
      if !s.holds s.cur (descLine s v.a) then .wait (descLine s v.a) none false 0 else tabledForm x s kind v.a [x.d.toNat]

def execTpin (x : Fld) (s : State) : Out := .next (pinForm x s 1)
def execTunpin (x : Fld) (s : State) : Out := .next (pinForm x s 2)
def execTinv (x : Fld) (s : State) : Out := .next (pinForm x s 3)

/-- TQRY (R359, R363): a load; its key arguments are captured at issue. -/
def execTqry (x : Fld) (s : State) : Out :=
  .next (issue { d := .g, dDst := true, a := .g, b := .g, extra := [4, 5, 6, 7] } x s fun v s =>
    let t := s.slot s.cur
    if 16 ≤ v.b.toNat then .trap { cause := causeAddr, addr := v.b } else
    match descAddress s v.a with
    | some e => .trap e
    | none =>
      if !s.holds s.cur (descLine s v.a) then .wait (descLine s v.a) none false 0
      else if !s.entryFree s.cur false then .wait (.entry false) none false 0
      else
        let args := (List.range 4).map fun i => t.getG (4 + i)
        let a := { newAccess s x .tqry 3 v.a x.d.toNat 0x86 { v with b := v.b } with
          offs := BitVec.ofNat 512 (joinWords (args.map BitVec.toNat)) }
        let r := newRequest s 4 a.tag v.a args v.b.toNat
        let l := match s.globalTarget r.part v.a with
          | some g => [g.line]
          | none => []
        let o : Outst := { tag := a.tag, pc := a.pc, access := true, vector := false, dests := [x.d.toNat], lines := l, write := false,
                           acc := some a, held := false, reply := none, len := 0, soft := false }
        let s := s.tick.setSlot s.cur { t.markEmpty [x.d.toNat] with outst := t.outst ++ [o] }
        .next (s.send (slotCore s.cur) r.part t.phase { who := s.cur, ins := .tabledRequest r }))

/-! ## Answers (R111, R116, R360, R361) -/

/-- The answer words of an entry, set. -/
def withAnswer (e : Pigeon) (ans : List W64) : Pigeon := { e with ans := (ans.take (e.ansc + 1) ++ [0, 0, 0, 0]).take 4 }

/-- A COMPLETE entry (R111): pinned where its descriptor says so. DESIGN CHOICE (assumption 121): it has no leader, ITER, MEMBERS, DONE,
HANDED or STALE of the group it completed in. -/
def completed (e : Pigeon) (use : Nat) : Pigeon :=
  { e with st := 2, pin := e.pin || dEclass e.words == 1, waiters := [], leader := none, members := 0, iter := 0, stale := false,
           done := false, handed := false, use := use }

/-- A waiter is woken with an entry's answer, under the tag of its request (R140). -/
def wakeWaiter (s : State) (p : Place) (e : Pigeon) (k : Nat) (w : Waiter) : State :=
  if w.member then
    sendTabled s p.1 e.part { tmsg 3 w.slot w.gen w.tag with ans := e.answer, g3 := outcomeWord 1 e.version, words := w.words }
  else sendTabled s p.1 e.part { tmsg 0 w.slot w.gen w.tag with ans := e.answer, g3 := outcomeWord k e.version, words := w.words }

/-- Wakes every waiter of an entry, in list order, with its answer. -/
def wakeAll (s : State) (p : Place) (e : Pigeon) : State := e.waiters.foldl (fun s w => wakeWaiter s p e 0 w) s

/-- The answer of a GROUPED entry changes (R116): VERSION + 1, and STALE at the leader where the old one was handed out. -/
def changeGrouped (s : State) (p : Place) (e : Pigeon) (ans : List W64) : State :=
  let e' := withAnswer e ans
  if e'.ans = e.ans then s else
  let s := s.setPigeon p { e' with version := e.version + 1, handed := false }
  match e.leader with
  | some l => if e.handed then updPigeons s (fun _ q => { q with stale := true }) [l] else s
  | none => s

/-- The producer returns from its call. -/
def returnCall (s : State) (p : Place) (slot : Nat) (gen : BitVec 32) (tag : Nat) : State :=
  match s.pigeonAt p with
  | none => s
  | some e => sendTabled s p.1 e.part { tmsg 3 slot gen tag with g3 := outcomeWord 1 e.version }

/-- The TRET of a member that does not lead (R116). -/
def memberReturn (s : State) (p : Place) (slot : Nat) (gen : BitVec 32) (tag : Nat) : State :=
  match s.pigeonAt p with
  | none => s
  | some e =>
    let s := s.setPigeon p { e with done := true }
    let l := (e.leader.bind s.pigeonAt).getD {}
    if l.prodSlot = slot ∧ l.prodGen = gen then returnCall s p slot gen tag
    else
      let makes (w : Waiter) : Bool := !w.member && (groupOf s e.part (e.leader.getD p)).any fun q =>
        match s.pigeonAt q with
        | some m => m.prodSlot == w.slot && m.prodGen == w.gen
        | none => false
      let woken := e.waiters.filter makes
      let rest := e.waiters.filter fun w => !makes w
      let e' := { e with done := true, handed := e.handed || woken != [], use := if woken = [] then e.use else s.ticket,
                         waiters := rest ++ [{ slot := slot, gen := gen, member := true, words := e.words, tag := tag }] }
      let s := woken.foldl (fun s w => wakeWaiter s p e' 2 w) (s.tick.setPigeon p e')
      s.updSlot slot fun t => if t.gen ≠ gen then t else
        { t with st := .suspended .member, attempt := none, outst := t.outst.filter fun o : Outst => o.len == 0 }

/-- Every waiter of the entries of a group traps (R116); the group's entries leave the trapping threads' stacks where `pop`. -/
def trapWaiters (s : State) (ps : List Place) (cause : Nat) (info : W64) (pop : Bool) (who : Waiter → Bool) : State :=
  let nums := if pop then ps.map placeNum else []
  ps.foldl (fun s p => match s.pigeonAt p with
    | none => s
    | some e => (e.waiters.filter who).foldl (fun s w =>
        sendTabled s p.1 e.part { tmsg 6 w.slot w.gen w.tag with cause := cause, info := info, pops := nums }) s) s

/-- The TRET of a leader (R116). -/
def leaderReturn (s : State) (p : Place) (slot : Nat) (gen : BitVec 32) (tag : Nat) : State :=
  match s.pigeonAt p with
  | none => s
  | some l =>
    let ms := groupOf s l.part p
    if !l.stale then
      let s := ms.foldl (fun s q => match s.pigeonAt q with
        | none => s
        | some e => wakeAll s q e) s
      let s := updPigeons s (fun _ e => completed e s.ticket) ms
      returnCall s.tick p slot gen tag
    else if l.iter < dBound l.words then
      let s := updPigeons s (fun q e => { e with handed := false, done := if q = p then e.done else false,
                                                 iter := if q = p then e.iter + 1 else e.iter, stale := false }) ms
      sendTabled s p.1 l.part { tmsg 4 slot gen tag with args := l.args.take l.argc, words := l.words }
    else
      let info := BitVec.ofNat 64 (p.2 + s.relCluster p.1 * 2 ^ 14 + l.iter % 256 * 2 ^ 24)
      let s := trapWaiters s ms causeFixpoint info true (fun _ => true)
      let s := sendTabled s p.1 l.part
        { tmsg 6 slot gen tag with cause := causeFixpoint, info := info, pops := ms.map placeNum }
      ms.foldl State.dropPigeon s

/-- TABLED_ANSWER (R111, R116, R360, R361): a TSEED (kind 0) or a TRET (1) at the home of the stack entry's place. -/
def tabledAnswer (s : State) (kind part : Nat) (entry : W64) (ans : List W64) (slot : Nat) (gen : BitVec 32) (tag : Nat) : State :=
  let gone (s : State) (c : Nat) : State :=
    if kind = 0 then answerFrom s c part slot gen tag 0 else sendTabled s c part { tmsg 3 slot gen tag with g3 := 3 }
  match stackPlace s part entry with
  | none => gone (s.deliverTag (slotCluster slot * 128) tag) (slotCluster slot)
  | some p =>
    let s := s.deliverTag (p.1 * 128) tag
    match s.pigeonAt p with
    | none => gone s p.1
    | some e =>
      if (e.st ≠ 1 ∧ e.st ≠ 3) ∨ e.prodSlot ≠ slot ∨ e.prodGen ≠ gen ∨ e.part ≠ part then gone s p.1
      else if e.st = 1 then
        let e := { withAnswer e ans with version := e.version + 1 }
        if kind = 0 then answerFrom (s.setPigeon p e) p.1 part slot gen tag 0
        else returnCall ((wakeAll s p e).tick.setPigeon p (completed e s.ticket)) p slot gen tag
      else
        let s := changeGrouped s p e ans
        if kind = 0 then answerFrom s p.1 part slot gen tag 0
        else if e.leader = some p then leaderReturn s p slot gen tag else memberReturn s p slot gen tag

def execTabledAnswer (kind part : Nat) (entry : W64) (ans : List W64) (slot : Nat) (gen : BitVec 32) (tag : Nat) (s : State) : Out :=
  .next (tabledAnswer s kind part entry ans slot gen tag)

/-- The first of g4 onward that a TRET or TSEED must still wait for (R360, R361): the answer words, and for a leader's TRET the key
arguments that a re-run writes. -/
def emptyAnswer (s : State) (t : Slot) (part : Nat) (entry : W64) (ret : Bool) : Option Nat :=
  let n : Nat := match stackPlace s part entry with
    | none => 0
    | some p => match s.pigeonAt p with
      | none => 0
      | some e => if ret && e.leader == some p then Nat.max e.ansc (e.argc - 1) else e.ansc
  ((List.range (n + 1)).map (· + 4)).find? fun i => t.empty i

/-- Sends the answer words of the current slot to an entry's home; the slot waits. -/
def sendAnswer (x : Fld) (s : State) (kind : Nat) (entry : W64) : Eff :=
  let t := s.slot s.cur
  let part := s.partOf (slotCluster s.cur)
  let tag := s.netTag t.phase
  let s := awaitAnswer (retag (askEntry s x [] false) tag 0) tag none false 0
  .hold (s.send (slotCore s.cur) part t.phase
    { who := s.cur, ins := .tabledAnswer kind part entry ((List.range 4).map fun i => t.getG (4 + i)) s.cur t.gen tag })

/-- The stack pointer a stack entry restores into g2 (R360). -/
def restoreSp (t : Slot) (e : W64) : Slot := t.setG 2 ((t.getG 2 &&& ~~~(0x7FFFF : W64)) ||| (e &&& 0x7FFFF))

/-- TRET (R360): its sources, and g2 and g3, which it writes, are waited on before g1 is checked (R26, R185). -/
def execTret (x : Fld) (s : State) : Out :=
  .next (issue { extra := [1, 2, 3] } x s fun _ s =>
    let t := s.slot s.cur
    match t.stack.getLast? with
    | none => .trap { cause := causeTabledFail, info := 5 }
    | some e =>
      match if e.getLsbD 56 then none else emptyAnswer s t (s.partOf (slotCluster s.cur)) e true with
      | some r => .wait (.reg r) none false 0
      | none =>
        let g1 := t.getG 1
        if 0x4000 ≤ g1.toNat then .trap { cause := causeFetch, addr := g1 <<< 1 }
        else if e.getLsbD 56 then
          .goto (s.setSlot s.cur ((restoreSp { t with stack := t.stack.dropLast } e).setG 3 3)) g1.toNat
        else if !s.holds s.cur .released then .wait .released none false 0 else sendAnswer x s 1 e)

/-- TSEED (R361): an answered form that releases nothing. -/
def execTseed (x : Fld) (s : State) : Out :=
  .next (issue uNone x s fun _ s =>
    let t := s.slot s.cur
    match t.stack.getLast? with
    | none => .trap { cause := causeTabledFail, info := 5 }
    | some e =>
      if e.getLsbD 56 then .next s else
      match emptyAnswer s t (s.partOf (slotCluster s.cur)) e false with
      | some r => .wait (.reg r) none false 0
      | none => sendAnswer x s 0 e)

/-! ## Delivery -/

/-- Answer copies (R356): all of the words at AOFF of the receiving core, or none where a region refuses one; a word in a guarded granule is
dropped, and the unit has hit it (R61). -/
def answerCopy (s : State) (slot : Nat) (w ans : List W64) : State × Bool :=
  if !dAmem w ∨ ans = [] then (s, false) else
  let k := slotCore slot
  let offs := (List.range ans.length).map fun i => dAoff w + 8 * i
  if !s.niAllows k (s.slot slot).level offs then (s, true) else
  match offs.find? fun o => s.guarded k o with
  | none => (writeWords s k (dAoff w) ans, false)
  | some o =>
    let t := s.slot slot
    ((writeWords s k (dAoff w) ans).setSlot slot (t.guardHit (t.guardmode.getLsbD 0) (BitVec.ofNat 64 o)), false)

/-- Writes answer words to g4 onward. -/
def Slot.putAnswers (t : Slot) (ans : List W64) : Slot := (ans.zipIdx).foldl (fun t q => t.setG (4 + q.2) q.1) t

/-- The entry of a form that has been answered leaves its slot. -/
def Slot.answered (t : Slot) : Slot := { t with outst := t.outst.filter fun o : Outst => o.len == 0 }

/-- A stack without the entries of a group. -/
def popPlaces (s : State) (part : Nat) (st : List W64) (nums : List Nat) : List W64 :=
  st.filter fun e => match stackPlace s part e with
    | some p => !nums.contains (placeNum p)
    | none => true

/-- TABLED_DELIVERY (R111, R116, R356 to R360): an outcome reaches its slot. A trap that reaches a stopped slot is taken once the stop is over
(R72, R185). -/
def tabledDelivery (s : State) (d : TabledMsg) : State :=
  let slot := d.slot
  let s := s.deliverTag (slotCore slot) d.tag
  let t := s.slot slot
  if t.st = .idle ∨ t.gen ≠ d.gen then
    s.updCore (slotCore slot) fun c => { c with count := { c.count with gendrop := c.count.gendrop + 1 } }
  else
    let part := s.partOf (slotCluster slot)
    let len := ((t.outst.find? (fun o : Outst => o.len != 0)).map Outst.len).getD 0
    let top := t.stack.getLast?.getD 0
    match d.kind with
    | 0 =>
      let cons := decide (t.st = .suspended .consumer)
      let next := if cons then bits top 34 20 else t.pc.toNat + len
      let c := answerCopy s slot d.words d.ans
      let g3 := d.g3 ||| if c.2 then 4 else 0
      let t := c.1.slot slot
      c.1.setSlot slot (((({ t with stack := if cons then t.stack.dropLast else t.stack }).putAnswers d.ans).setG 3 g3).answered.retire next)
    | 1 | 2 => s.setSlot slot ((t.setG 1 (BitVec.ofNat 64 (bits top 34 20))).answered.retire (dCallee d.words))
    | 3 =>
      let c := answerCopy s slot d.words d.ans
      let g3 := d.g3 ||| if c.2 then 4 else 0
      let t := c.1.slot slot
      let t' := ((restoreSp { t with stack := t.stack.dropLast } top).putAnswers d.ans).setG 3 g3
      c.1.setSlot slot (t'.answered.retire (t.getG 1).toNat)
    | 4 =>
      let t' := ((restoreSp t top).setG 1 (BitVec.ofNat 64 (bits top 34 20))).putAnswers d.args
      s.setSlot slot (t'.answered.retire (dCallee d.words))
    | 5 => s.setSlot slot { t with stack := t.stack.dropLast, st := .ready, attempt := none }
    | _ =>
      let s := if t.st = .suspended .consumer ∨ t.st = .suspended .member then
          s.setSlot slot { t with st := .ready, attempt := none, stack := if d.pops = [] ∧ t.st = .suspended .consumer
            then t.stack.dropLast else t.stack }
        else if len ≠ 0 ∧ t.outst.any (fun o : Outst => o.tag == d.tag) then s.setSlot slot { t.answered with st := .ready, attempt := none }
        else withdraw s slot
      let s := s.updSlot slot fun t => { t with stack := popPlaces s part t.stack d.pops }
      if t.stopped then s.updSlot slot fun t => { t with owed := some (d.cause, d.info) }
      else trapEntry s slot (s.slot slot).pc { cause := d.cause, info := d.info }

def execTabledDelivery (d : TabledMsg) (s : State) : Out := .next (tabledDelivery s d)

/-! ## The kill of a producer (R111, R116) -/

/-- Consumers issue their TCALL again; in list order. -/
def rerunConsumers (s : State) (p : Place) (e : Pigeon) : State :=
  (e.waiters.filter fun w => !w.member).foldl (fun s w => sendTabled s p.1 e.part (tmsg 5 w.slot w.gen w.tag)) s

/-- An entry whose producer is gone is EMPTY and keeps its key and RETRY. DESIGN CHOICE (assumption 121): its answer words, VERSION and PARENT
are clear. -/
def emptied (e : Pigeon) (retry : Nat) : Pigeon :=
  { e with st := 0, retry := retry, waiters := [], leader := none, members := 0, iter := 0, stale := false, done := false,
           handed := false, ans := [0, 0, 0, 0], version := 0, parent := none }

/-- PRODUCER_KILL at the entry's home (R111, R116): running producers of the group's members trap at their next group boundary. DESIGN
CHOICE (assumption 121): RETRY, of two bits, stays 3 at a further kill of a group, and a PRODUCING entry with RETRY 3 is killed as with
RETRY 2. -/
def producerKill (s : State) (p : Place) (slot : Nat) (gen : BitVec 32) : State :=
  match s.pigeonAt p with
  | none => s
  | some e =>
    if e.prodSlot ≠ slot ∨ e.prodGen ≠ gen ∨ (e.st ≠ 1 ∧ e.st ≠ 3) then s
    else if e.st = 1 then
      if e.retry < 2 then (rerunConsumers s p e).setPigeon p (emptied e (e.retry + 1))
      else
        (trapWaiters s [p] causeTabledFail 2 true (fun _ => true)).dropPigeon p
    else
      let ms := groupOf s e.part (e.leader.getD p)
      let s := trapWaiters s ms causeTabledFail 3 false (fun w => w.member)
      let s := ms.foldl (fun s q => match s.pigeonAt q with
        | none => s
        | some m => rerunConsumers s q m) s
      let waits (m : Pigeon) : Bool := ms.any fun q => ((s.pigeonAt q).map fun x => x.waiters.any fun w =>
        w.slot == m.prodSlot && w.gen == m.prodGen).getD false
      let runs := ((ms.filterMap s.pigeonAt).filter fun m => !(m.prodSlot == slot && m.prodGen == gen) && !waits m).map
        fun m => (m.prodSlot, m.prodGen)
      let s := s.postAll (runs.eraseDups.map fun u => ({ ins := .asyncCauseDelivery u.1 u.2 3 } : Op))
      updPigeons s (fun _ m => emptied m (Nat.min 3 (m.retry + 1))) ms

def execProducerKill (cluster idx slot : Nat) (gen : BitVec 32) (s : State) : Out := .next (producerKill s (cluster, idx) slot gen)

end Sys2Proof.Machine
end

