-- ==== Sys2Proof/Machine/Courier.lean ====
section
/-! DEFINITION. Courier copies (R44, R57, R75, R292 to R297): CPY, CPYS, CPY3, CPYM; acceptance, delivery, completion. The bytes of a copy
are numbered row by row. -/

namespace Sys2Proof.Machine
open Sys2Proof

/-! ## The bytes of a copy -/

/-- The address of a byte by its number. -/
def CopyJob.srcAt (j : CopyJob) (i : Nat) : W64 := j.src + BitVec.ofNat 64 (i / j.len * j.sstride + i % j.len)
def CopyJob.dstAt (j : CopyJob) (i : Nat) : W64 := j.dst + BitVec.ofNat 64 (i / j.len * j.dstride + i % j.len)

/-- Bytes from a number on that stay in one row, and in one block of `n` bytes of an address. -/
def rowLeft (j : CopyJob) (i : Nat) : Nat := j.len - i % j.len
def blockLeft (a : W64) (n : Nat) : Nat := n - a.toNat % n

/-- Takes a range out of a list of ranges. -/
def cutRange (l : List (Nat × Nat)) (lo hi : Nat) : List (Nat × Nat) :=
  l.flatMap fun r => [(r.1, Nat.min r.2 lo), (Nat.max r.1 hi, r.2)].filter fun q => decide (q.1 < q.2)

/-- A byte that a free value picks in a list of ranges, with the end of its range. -/
def pickByte (l : List (Nat × Nat)) (n : Nat) : Option (Nat × Nat) :=
  match l[n % Nat.max 1 l.length]? with
  | none => none
  | some r => some (r.1 + n / Nat.max 1 l.length % Nat.max 1 (r.2 - r.1), r.2)

/-- A copy acts for its issuing unit (R58). -/
def CopyJob.accessor (j : CopyJob) : Accessor := { slot := j.slot, gen := j.gen, part := j.part, level := j.level, own := true }

/-- Nothing of a copy is left to be moved. -/
def CopyJob.moved (j : CopyJob) : Bool := j.todo == [] && j.accepted == [] && j.flying == [] && j.held == [] && j.stuck == []

/-- Bytes of a copy are to be read, or on their way. -/
def CopyJob.busy (j : CopyJob) : Bool := j.accepted != [] || j.flying != []

/-- A copy's ranges have changed: with none left its completion follows. -/
def putCopy (s : State) (tag : Nat) (j : CopyJob) : State :=
  let s := { s with copies := Sp.put s.copies tag j }
  if j.moved then s.post .copyCompletion tag else s

/-! ## Couriers and their tags (R15, R17, R295) -/

/-- The number of a cluster's courier is the cluster's, that of a slice's is the slice's above this. -/
def sliceCourier : Nat := 2 ^ 20

/-- The piece a byte of a copy belongs to (R295): its courier, beside the source, and for second-tier space the page. -/
def CopyJob.piece (s : State) (j : CopyJob) (i : Nat) : Nat × Nat :=
  match s.globalTarget j.part (j.srcAt i) with
  | some (.scratch core _) | some (.istore core _) => (coreCluster core, 0)
  | some (.second dev va) => (sliceCourier + pageSlice dev va, va / 65536)
  | none => (slotCluster j.slot, 0)

/-- The courier of a byte, its router and its NI. -/
def CopyJob.courier (s : State) (j : CopyJob) (i : Nat) : Nat := (j.piece s i).1
def courierRouter (k : Nat) : Nat := k % sliceCourier
def courierNi (k : Nat) : Nat := if k < sliceCourier then k * 128 else sliceNi (k - sliceCourier)

/-- The courier's cluster is halted: it sends no bytes (R426). -/
def courierHalted (s : State) (k : Nat) : Bool := decide (k < sliceCourier) && (s.cluster k).dbgctl.getLsbD 0

/-- The pieces of a copy that have a tag: those whose bytes are accepted, on their way, stalled at a slice, or held for a page. -/
def CopyJob.pieces (s : State) (j : CopyJob) : List (Nat × Nat) :=
  ((j.accepted.map Prod.fst ++ j.flying.map Prod.fst ++ j.stuck.map Prod.fst ++ j.held.map HeldBytes.lo).map (j.piece s)).eraseDups

/-- The tags of a courier in use. -/
def tagsUsed (s : State) (k : Nat) : Nat := (s.copies.flatMap fun c => (c.2.pieces s).filter fun p => p.1 == k).length

/-- A byte's piece has a tag or may take one of the courier's 256 (R295). -/
def tagFree (s : State) (j : CopyJob) (i : Nat) : Bool := (j.pieces s).contains (j.piece s i) || decide (tagsUsed s (j.courier s i) < 256)

/-- A copy's bytes meet a page fault (R75, R296): they wait at the courier; with no fault service the copy is refused (R71). -/
def holdCopy (s : State) (tag : Nat) (j : CopyJob) (page lo hi : Nat) (accepted : Bool) (addr : W64) : State :=
  if (s.part j.part).faultCore.isNone then copyRefused s tag causePage addr else
  let known := j.held.any fun h => h.page == page
  let s := { s with copies := Sp.put s.copies tag { j with held := j.held ++ [{ page := page, accepted := accepted, lo := lo, hi := hi }] } }
  if known then s else
    sendFault s (courierRouter (j.courier s lo)) { part := j.part, page := page, slot := j.slot, gen := j.gen, engine := 1, id := tag }

/-! ## Acceptance (R44, R57, R295) -/

/-- The issuing core, by the two masks of the source core (R44). DESIGN CHOICE (assumption 41): the source core's current launch is that of
the unit in its slot 0, and none where that slot is idle. -/
def copyGranted (s : State) (j : CopyJob) (core : Nat) : Bool :=
  let k := slotCore j.slot
  let c := s.core core
  let same := coreCluster k == coreCluster core
  let bit := if k % 128 < 64 then c.cpymask0.getLsbD (k % 64) else c.cpymask1.getLsbD (k % 64)
  let t := s.slot (core * 8)
  (same && bit) || (c.cpyxmask.getLsbD 1 && s.partAt j.part (clusterDev (coreCluster core)) == s.partOf (coreCluster core)) ||
    (c.cpyxmask.getLsbD 0 && t.st != .idle && t.level == j.level && s.partAt j.part (clusterDev (coreCluster core)) == s.partOf (coreCluster core))

/-- Every byte of a copy's destination lies in the scratchpad of the issuing core. -/
def ownDest (s : State) (j : CopyJob) : Bool :=
  (List.range j.rows).all fun r => match s.globalTarget j.part (j.dstAt (r * j.len)) with
    | some (.scratch k off) => k == slotCore j.slot && decide (off + j.len ≤ 2 ^ 19)
    | _ => false

/-- A copy is third-party (R295): from the scratchpad of another core to one that is not the issuing core's own. -/
def thirdParty (s : State) (j : CopyJob) (core : Nat) : Bool := core != slotCore j.slot && !ownDest s j

/-- A byte of a range's destination lies in an instruction store. -/
def toIstore (s : State) (j : CopyJob) (lo hi : Nat) : Bool :=
  ((hi - 1) :: (List.range ((hi - lo) / 64 + 1)).map fun q => Nat.min (lo + 64 * q) (hi - 1)).any fun i =>
    match s.globalTarget j.part (j.dstAt i) with
    | some (.istore _ _) => true
    | _ => false

/-- The first source bytes of a copy in each 512 KiB of each of its rows: in a scratchpad, those of each core. -/
def CopyJob.marks (j : CopyJob) : List Nat :=
  (List.range j.rows).flatMap fun r =>
    let off := (j.srcAt (r * j.len)).toNat % 2 ^ 19
    (List.range ((off + j.len - 1) / 2 ^ 19 + 1)).map fun q => r * j.len + (q * 2 ^ 19 - off)

/-- The first byte that a courier may not read for want of a grant (R44): the masks of every source core are looked at as it accepts the
copy. -/
def maskRefused (s : State) (j : CopyJob) (k : Nat) : Option Nat :=
  j.marks.find? fun i => match s.globalTarget j.part (j.srcAt i) with
    | some (.scratch core _) => coreCluster core == k && thirdParty s j core && !copyGranted s j core
    | _ => false

/-- The source-side check of a range in one row and one page: a refusal, a page fault, or neither; an instruction-store destination needs X
in the page entry that translates the source (R57). -/
def acceptCheck (s : State) (j : CopyJob) (lo hi : Nat) : State × Home :=
  let a := j.srcAt lo
  match s.globalTarget j.part a with
  | none => (s, .refused causeAddr)
  | some (.second dev va) =>
    let part := s.partAt j.part dev
    match s.translate dev part va false with
    | (s, none) => (s, .fault (faultPage dev va))
    | (s, some e) =>
      (s, (pteCheck e part true false).home (faultPage dev va)
        (if toIstore s j lo hi && !e.getLsbD 3 then .refused causePerm else .loc (.second dev va) (pteLoc e dev va)))
  | some (.scratch core off) => s.homeAt j.accessor (.scratch core off) (Nat.min (hi - lo) (64 - off % 64)) true false
  | some t => s.homeAt j.accessor t 1 true false

/-- The first granule of a scratchpad range that a region refuses (R58). -/
def firstRefused (s : State) (j : CopyJob) (lo hi : Nat) : Option Nat :=
  match s.globalTarget j.part (j.srcAt lo) with
  | some (.scratch core off) =>
    let part := s.partAt j.part (clusterDev (coreCluster core))
    let acc : Accessor := { slot := j.slot, gen := j.gen, part := part, level := j.level, own := slotCore j.slot == core }
    let n := hi - lo
    ((List.range ((off + n - 1) / 64 - off / 64 + 1)).find? fun g =>
      let at0 := Nat.max off ((off / 64 + g) * 64)
      let at1 := Nat.min (off + n) ((off / 64 + g + 1) * 64)
      !s.protAllows core at0 (at1 - at0) acc false).map fun g => lo + (Nat.max off ((off / 64 + g) * 64) - off)
  | _ => none

/-- COPY_ACCEPT of the copy State.cur: a part of a piece, in one row and one page of the source, is checked once the piece has a courier
tag (R295); a courier looks at the masks once (R44). -/
def copyAccept (s : State) : State :=
  let tag := s.cur
  match Sp.find s.copies tag with
  | none => s
  | some j =>
    let s := s.tick
    match pickByte j.todo (Config.choice s.ticket) with
    | none => s
    | some (i, _) =>
      let r := (j.todo.find? fun r => decide (r.1 ≤ i ∧ i < r.2)).getD (i, i + 1)
      let back := Nat.min (i - r.1) (Nat.min (i % j.len) ((j.srcAt i).toNat % 65536))
      let lo := i - back
      let hi := Nat.min r.2 (lo + Nat.min (rowLeft j lo) (blockLeft (j.srcAt lo) 65536))
      if !tagFree s j lo then s.post .copyAccept tag else
      let k := j.courier s lo
      match if j.looked.contains k then none else maskRefused s j k with
      | some b => copyRefused s tag causeCopyPerm (j.srcAt b)
      | none =>
      let j := { j with todo := cutRange j.todo lo hi, looked := (k :: j.looked).eraseDups }
      let again (s : State) : State := if j.todo = [] then s else s.post .copyAccept tag
      match acceptCheck s j lo hi with
      | (s, .refused c) => copyRefused s tag c (j.srcAt lo)
      | (s, .fault page) => again (holdCopy s tag j page lo hi false (j.srcAt lo))
      | (s, _) =>
        match firstRefused s j lo hi with
        | some b => copyRefused s tag causeProt (j.srcAt b)
        | none =>
          let s := if j.busy then s else s.post .copyDelivery tag
          again { s with copies := Sp.put s.copies tag { j with accepted := j.accepted ++ [(lo, hi)] } }

def execCopyAccept (s : State) : Out := .next (copyAccept s)

/-! ## Delivery (R296, R297) -/

/-- What the read of source bytes gives. -/
inductive CopyRead where
  | bytes (s : State) (v : Nat)
  | refused (s : State)
  | fault (s : State) (page : Nat)
  | stalled (s : State)

/-- Reads source bytes of one line on path Y. -/
def readSource (s : State) (tag : Nat) (j : CopyJob) (i n : Nat) (o : Op) : CopyRead :=
  let look (s : State) (l : Nat) : CopyRead :=
    let r := s.look 1 { slot := j.slot, gen := j.gen, tag := tag, heard := j.heard } l n
    .bytes r.1 r.2
  match s.globalTarget j.part (j.srcAt i) with
  | none => .refused s
  | some (.scratch core off) => if s.guarded core off then .refused s else look s (scratchLoc core off)
  | some (.istore core off) => look s (istoreLoc core off)
  | some (.second dev va) =>
    let part := s.partAt j.part dev
    if s.sliceHeld j.part then .stalled (s.holdAt o j.part) else
    match s.translate dev part va false with
    | (s, none) => .fault s (faultPage dev va)
    | (s, some e) =>
      match nonMemberLine s (pageSlice dev va) part va (pteLoc e dev va) n false (fun _ => []) o with
      | .done s _ => look (s.sliceBytes j.part n) (pteLoc e dev va)
      | .stalled s => .stalled s

/-- Bytes of a copy stall at a slice, or are held there: they are taken up again as they are, and under the page entry they have been
translated by (R66). -/
def stickBytes (s : State) (tag : Nat) (j : CopyJob) (i n : Nat) (v : Option V512) : State :=
  let s := { s with copies := Sp.put s.copies tag { j with stuck := j.stuck ++ [(i, n, v)] } }
  if j.busy then s.post .copyDelivery tag else s

/-- What takes up bytes that stall: read (0), or written (1). -/
def stuckOp (tag i w : Nat) : Op := { who := tag, data := [BitVec.ofNat 64 i, BitVec.ofNat 64 w], ins := .copyDelivery }

/-- Takes bytes of a copy from their source and sends them (R141, R147); `j` is the copy without them. -/
def copyRead (s : State) (tag : Nat) (j : CopyJob) (i n : Nat) : State :=
  match readSource s tag j i n (stuckOp tag i 0) with
  | .stalled s => stickBytes s tag j i n none
  | .refused s => copyRefused s tag causeAddr (j.srcAt i)
  | .fault s page => (holdCopy s tag j page i (i + n) true (j.srcAt i)).post .copyDelivery tag
  | .bytes s v =>
    let s := (s.inject (courierNi (j.courier s i)) j.part j.phase).courBytes j.part n
    { s with copies := Sp.put s.copies tag { j with flying := j.flying ++ [(i, n, BitVec.ofNat 512 v)] } }.post .copyDelivery tag

/-- The NI at which bytes of a copy arrive. -/
def CopyJob.destNi (s : State) (j : CopyJob) (i : Nat) : Nat :=
  match s.globalTarget j.part (j.dstAt i) with
  | some (.scratch core _) | some (.istore core _) => core
  | some (.second dev va) => sliceNi (pageSlice dev va)
  | none => slotCore j.slot

/-- Bytes arrive at their destination's home, are checked there and written on path Y; `j` is the copy without them. -/
def copyWrite (s : State) (tag : Nat) (j : CopyJob) (i n : Nat) (v : V512) : State :=
  let a := j.dstAt i
  let go (s : State) : State := putCopy (if j.busy then s.post .copyDelivery tag else s) tag j
  let here (s : State) : State := s.deliver (j.destNi s i) j.phase
  let o := stuckOp tag i 1
  if !s.linkFrom (courierRouter (j.courier s i)) (bits a 55 46) then copyRefused s tag causeAddr a else
  if a.getLsbD 56 ∧ s.sliceHeld j.part then stickBytes (s.holdAt o j.part) tag j i n (some v) else
  match s.copyHome j.accessor a n false true with
  | (s, .refused c) => copyRefused (here s) tag c a
  | (s, .guard) => copyRefused (here s) tag causeAddr a
  | (s, .fault page) => (holdCopy (here s) tag j page i (i + n) true a).post .copyDelivery tag
  | (s, .loc (.second dev va) l) =>
    match nonMemberLine s (pageSlice dev va) (s.partAt j.part dev) va l n true (fun _ => []) o with
    | .done s _ => go ((here s).sliceBytes j.part n |>.pathWrite 1 l v.toNat n)
    | .stalled s => stickBytes s tag j i n (some v)
  | (s, .loc (.istore _ _) l) => go ((here s).write l v.toNat n)
  | (s, .loc _ l) => go ((here s).pathWrite 1 l v.toNat n)

/-- The accepted ranges whose bytes may leave their couriers now: none from one whose cluster is halted (R426), none while a budget of the
partition is spent (R147). -/
def sendable (s : State) (j : CopyJob) : List (Nat × Nat) :=
  if s.courSpent j.part || s.injSpent j.part then []
  else j.accepted.filter fun r => !courierHalted s (j.courier s r.1) && !(s.sliceSpent j.part && decide (sliceCourier ≤ j.courier s r.1))

/-- COPY_DELIVERY of the copy State.cur: bytes that have stalled, which its data name, are taken up again; else a free value picks what comes
next: bytes that are read, or bytes that arrive (R295 to R297). -/
def copyDelivery (s : State) : State :=
  let tag := s.cur
  match Sp.find s.copies tag with
  | none => s
  | some j =>
    let s := s.tick
    match s.data with
    | [i, w] =>
      match j.stuck.find? fun p => p.1 == i.toNat && p.2.2.isSome == (w == 1) with
      | none => s
      | some p =>
        let j' := { j with stuck := j.stuck.erase p }
        let s := { s with copies := Sp.put s.copies tag j' }
        match p.2.2 with
        | some v => copyWrite s tag j' p.1 p.2.1 v
        | none => copyRead s tag j' p.1 p.2.1
    | _ =>
      let n := Config.choice s.ticket
      let acc := sendable s j
      let m := Nat.max 1 (j.flying.length + acc.length)
      match j.flying[n % m]? with
      | some f => copyWrite s tag { j with flying := j.flying.erase f } f.1 f.2.1 f.2.2
      | none =>
        match pickByte acc (n / m) with
        | some (i, hi) =>
          let n := Nat.min (hi - i) (Nat.min (rowLeft j i) (Nat.min (blockLeft (j.srcAt i) 64) (blockLeft (j.dstAt i) 64)))
          copyRead s tag { j with accepted := cutRange j.accepted i (i + n) } i n
        | none => s

def execCopyDelivery (s : State) : Out := .next (copyDelivery s)

/-! ## Completion (R292) -/

/-- The update of a copy's sync word on a core. -/
def copySync (s : State) (tag : Nat) (j : CopyJob) (core n : Nat) : Op :=
  let a : Access :=
    { op := .swadd, slot := j.slot, gen := j.gen, tag := tag, pc := j.pc, part := j.part, level := j.level, mode := 3,
      ea := s.globalOf core (bits (j.target.setWidth 64) 18 0), dest := 0, d0 := BitVec.ofNat 64 n, d1 := 0, vec := 0, offs := 0,
      lanes := 0xFFFFFFFF, masked := false, fall := false, nb := false, opc := 0x5A, region := none }
  { ins := .syncWordUpdate a 1 }

/-- The courier that leads a copy (R295). -/
def CopyJob.lead (s : State) (j : CopyJob) : Nat := j.courier s 0

/-- COPY_COMPLETION of the copy State.cur: the courier that leads applies the target; a CPYM's once for each core. -/
def copyCompletion (s : State) : State :=
  let tag := s.cur
  match Sp.find s.copies tag with
  | none => s
  | some j =>
    let n := if j.multi then j.rows else 1
    let s := { s with copies := Sp.put s.copies tag { j with left := n } }
    let sends (s : State) (l : List Op) : State := l.foldl (fun s o => s.sendTag (courierNi (j.lead s)) j.part tag o) s
    if j.target.getLsbD 30 then copyApplied { s with copies := Sp.put s.copies tag { j with left := 1 } } tag
    else if j.target.getLsbD 31 then
      sends s ((List.range n).map fun _ =>
        ({ ins := .dcDecrement j.part (bits (j.target.setWidth 64) 18 0) 1 j.slot j.gen tag } : Op))
    else if j.multi then sends s ((List.range n).map fun i => copySync s tag j (j.place + i) j.len)
    else sends s [copySync s tag j j.place (j.rows * j.len)]

def execCopyCompletion (s : State) : Out := .next (copyCompletion s)

/-! ## Instructions (R293, R294) -/

/-- A completion target is well formed for the issuer (R134, R292). -/
def targetOk (s : State) (t : BitVec 32) : Bool :=
  let w : W64 := t.setWidth 64
  bits w 29 19 == 0 &&
    (if t.getLsbD 30 then !t.getLsbD 31 && bits w 18 0 == 0
     else if t.getLsbD 31 then (s.physCluster (s.partOf (slotCluster s.cur)) (bits w 18 12)).isSome
     else bits w 18 0 % 16 == 0)

/-- The core whose scratchpad holds a KIND 0 word (R292). -/
def syncCore (s : State) (dst : W64) : Nat :=
  match s.globalTarget (s.partOf (slotCluster s.cur)) dst with
  | some (.scratch k _) => k
  | some (.istore k _) => k
  | _ => slotCore s.cur

/-- Starts a copy: it holds an entry of the slot until its completion has been applied (R296). -/
def startCopy (s : State) (src dst : W64) (sstride dstride rows len : Nat) (target : BitVec 32) (place : Nat) (multi : Bool) : Eff :=
  let part := s.partOf (slotCluster s.cur)
  if (s.globalFrom (slotCluster s.cur) part src).isNone then .trap { cause := causeAddr, addr := src }
  else if (s.globalTarget part dst).isNone then .trap { cause := causeAddr, addr := dst }
  else if !s.entryFree s.cur false then .wait (.entry false) none false 0
  else
    let t := s.slot s.cur
    let tag := s.netTag t.phase
    let total := rows * len
    let j : CopyJob :=
      { slot := s.cur, gen := t.gen, pc := t.pc, part := part, level := t.level, phase := t.phase, src := src, dst := dst,
        sstride := sstride, dstride := dstride, rows := rows, len := len, target := target, place := place, multi := multi,
        todo := if total = 0 then [] else [(0, total)], accepted := [], flying := [], held := [], left := 0, heard := s.heardBy s.cur }
    let o : Outst := { tag := tag, pc := t.pc, access := true, vector := false, dests := [], lines := [], write := false, acc := none,
                       held := false, reply := none, len := 0, soft := false }
    let s := s.tick.setSlot s.cur { t with outst := t.outst ++ [o] }
    let s := { s with copies := Sp.put s.copies tag j }
    .next (if total = 0 then s.post .copyCompletion tag else s.post .copyAccept tag)

/-- CPY (R293). -/
def execCpy (x : Fld) (s : State) : Out :=
  .next (issue { d := .g, dSrc := true, a := .g, b := .g } x s fun v s =>
    let target : BitVec 32 := BitVec.ofNat 32 (bits v.d 63 32)
    if !targetOk s target then .trap { cause := causeAddr, addr := v.d }
    else startCopy s v.a v.b 0 0 1 (bits v.d 31 0) target (syncCore s v.b) false)

/-- Reads a copy's descriptor from the issuing core's scratchpad (R294). -/
def copyDescriptor (s : State) (a : W64) (f : State → (Nat → W64) → Eff) : Eff :=
  match localOffset a 32 with
  | some t => .trap t
  | none =>
    let off := a.toNat
    if lineWait s off then .wait (.line (Target.scratch (slotCore s.cur) off).line) none false 0 else
    match localRead s off 32 with
    | .error t => .trap t
    | .ok (s, w) => f s w

/-- CPYS (R294). -/
def execCpys (x : Fld) (s : State) : Out :=
  .next (issue uA x s fun v s => copyDescriptor s v.a fun s w =>
    let target : BitVec 32 := BitVec.ofNat 32 (bits (w 3) 63 32)
    if !targetOk s target then .trap { cause := causeAddr, addr := v.a }
    else startCopy s (w 0) (w 1) (bits (w 2) 23 0) (bits (w 2) 47 24) (bits (w 2) 63 48 + 1) (bits (w 3) 31 0) target (syncCore s (w 1)) false)

/-- CPY3 (R294). -/
def execCpy3 (x : Fld) (s : State) : Out :=
  .next (issue uA x s fun v s => copyDescriptor s v.a fun s w =>
    let target : BitVec 32 := BitVec.ofNat 32 (bits (w 2) 63 32)
    let bad : Eff := .trap { cause := causeAddr, addr := v.a }
    if !targetOk s target then bad
    else if target.getLsbD 30 ∨ target.getLsbD 31 then
      if w 3 ≠ 0 then bad else startCopy s (w 0) (w 1) 0 0 1 (bits (w 2) 31 0) target 0 false
    else match if bits (w 3) 39 0 = 0 then s.placeOf (s.partOf (slotCluster s.cur)) (w 3) else none with
      | none => bad
      | some (core, _) => startCopy s (w 0) (w 1) 0 0 1 (bits (w 2) 31 0) target core false)

/-- CPYM (R294): a row for each core. -/
def execCpym (x : Fld) (s : State) : Out :=
  .next (issue uA x s fun v s => copyDescriptor s v.a fun s w =>
    let target : BitVec 32 := BitVec.ofNat 32 (bits (w 2) 63 32)
    let bad : Eff := .trap { cause := causeAddr, addr := v.a }
    let n := bits (w 3) 6 0 + 1
    if !targetOk s target ∨ bits (w 3) 63 7 ≠ 0 ∨ (w 1).getLsbD 56 then bad else
    let c0 := bits (w 1) 25 19
    let core := syncCore s (w 1)
    if (s.globalTarget (s.partOf (slotCluster s.cur)) (w 1)).isSome ∧
        !((List.range n).all fun i => s.coreVisible (coreCluster core) (c0 + i)) then .trap { cause := causeAddr, addr := w 1 }
    else startCopy s (w 0) (w 1) 0 (2 ^ 19) n (bits (w 2) 31 0) target core true)

end Sys2Proof.Machine
end

