-- ==== Sys2Proof/Machine/TermArray.lean ====
section
/-! DEFINITION. The forms of page 4 (R301 to R311, R315 to R318, R320, R321): the lease, the configuration image, the commands, waiting
and status. -/

namespace Sys2Proof.Machine
open Sys2Proof

/-! ## The configuration image (R303, R307, R309) -/

/-- A word of the MXCFG block and of the MXUNF descriptor. -/
def MxImage.w (m : MxImage) (i : Nat) : W64 := (m.cfg.getD []).getD i 0
def MxImage.u (m : MxImage) (i : Nat) : W64 := (m.unf.getD []).getD i 0

def MxImage.afmt (m : MxImage) : Nat := bits (m.w 0) 3 0
def MxImage.apage (m : MxImage) : Bool := (m.w 0).getLsbD 4
def MxImage.bfmt (m : MxImage) : Nat := bits (m.w 0) 11 8
def MxImage.bpage (m : MxImage) : Bool := (m.w 0).getLsbD 12
def MxImage.rfmt (m : MxImage) : Nat := bits (m.w 0) 19 16
def MxImage.rpage (m : MxImage) : Bool := (m.w 0).getLsbD 20
def MxImage.aunf (m : MxImage) : Bool := (m.w 0).getLsbD 24
def MxImage.elsb (m : MxImage) : Int := signedOf 16 (bits (m.w 0) 47 32)
def MxImage.blk (m : MxImage) : Nat := bits (m.w 0) 50 48
def MxImage.mact (m : MxImage) : Nat := bits (m.w 3) 9 0
def MxImage.nact (m : MxImage) : Nat := bits (m.w 3) 25 16
def MxImage.kext (m : MxImage) : Nat := bits (m.w 3) 63 32
def MxImage.morg (m : MxImage) : Nat := bits (m.w 4) 31 0
def MxImage.dstride (m : MxImage) : Nat := bits (m.w 9) 31 0
def MxImage.rtarget (m : MxImage) : Nat := bits (m.w 9) 63 32

/-- Kernel height and width, and channels of the unfolding. -/
def MxImage.kh (m : MxImage) : Nat := bits (m.u 3) 7 0
def MxImage.kw (m : MxImage) : Nat := bits (m.u 3) 15 8
def MxImage.chan (m : MxImage) : Nat := bits (m.u 1) 47 32
def MxImage.outH (m : MxImage) : Nat := bits (m.u 5) 15 0
def MxImage.outW (m : MxImage) : Nat := bits (m.u 5) 31 16

/-- The bits of each word of the block that fields have (R307). -/
def cfgMask (i : Nat) : W64 :=
  match i with
  | 0 => 0x0007FFFF011F1F1F
  | 1 | 5 | 7 | 8 | 9 | 10 => 0xFFFFFFFFFFFFFFFF
  | 2 | 4 | 6 => 0xFFFFFFFF
  | 3 => 0xFFFFFFFF03FF03FF
  | _ => 0

/-- A completion target breaks R292, its cluster apart. -/
def rtargetBad (t : Nat) : Bool :=
  let w : W64 := BitVec.ofNat 64 t
  bits w 29 19 != 0 || (w.getLsbD 30 && (w.getLsbD 31 || bits w 18 0 != 0)) || (!w.getLsbD 31 && !w.getLsbD 30 && bits w 18 0 % 16 != 0)

/-- The formats the array accepts (R160). -/
def mxAccepts (fmt : Nat) : Bool := (decide (1 ≤ fmt) && decide (fmt ≤ 6)) || fmtScaled fmt

/-- The formats of a readout (R166). -/
def mxReads (fmt : Nat) : Bool := decide (1 ≤ fmt) && decide (fmt ≤ 10)

/-- The third check of MXCFG (R306): ADDR. -/
def cfgAddrBad (m : MxImage) : Bool :=
  ((List.range 16).any fun i => m.w i &&& ~~~cfgMask i != 0) ||
    (m.apage && m.afmt != 0) || (m.bpage && m.bfmt != 0) || (m.rpage && m.rfmt != 0) ||
    m.mact == 0 || decide (512 < m.mact) || m.nact == 0 || decide (512 < m.nact) || m.kext == 0 || decide (4 < m.blk) ||
    (m.aunf && (m.w 1 != 0 || m.w 2 != 0)) || rtargetBad m.rtarget

/-- The fourth check of MXCFG (R306): FORMAT. -/
def cfgFormatBad (m : MxImage) : Bool :=
  (!m.apage && !mxAccepts m.afmt) || (!m.bpage && !mxAccepts m.bfmt) ||
    (!m.apage && !m.bpage && ((m.afmt == 5) != (m.bfmt == 5))) || (!m.rpage && !mxReads m.rfmt) ||
    (m.blk == 0 && (fmtScaled m.afmt || fmtScaled m.bfmt || fmtScaled m.rfmt))

/-- The output extent of one dimension (R309): size, padding, kernel, stride, dilation. -/
def unfExtent (n p0 p1 k st d : Nat) : Int := ((n + p0 + p1 : Nat) - (d * (k - 1) : Nat) - 1 : Int) / st + 1

/-- The checks of MXUNF (R309). -/
def unfBad (m : MxImage) : Bool :=
  let h := bits (m.u 1) 15 0
  let w := bits (m.u 1) 31 16
  let sh := bits (m.u 3) 23 16
  let sw := bits (m.u 3) 31 24
  let dh := bits (m.u 3) 39 32
  let dw := bits (m.u 3) 47 40
  let eh := unfExtent h (bits (m.u 4) 15 0) (bits (m.u 4) 47 32) m.kh sh dh
  let ew := unfExtent w (bits (m.u 4) 31 16) (bits (m.u 4) 63 48) m.kw sw dw
  bits (m.u 1) 63 48 != 0 || bits (m.u 2) 63 32 != 0 || bits (m.u 3) 63 48 != 0 || bits (m.u 5) 63 32 != 0 || m.u 6 != 0 || m.u 7 != 0 ||
    h == 0 || w == 0 || m.chan == 0 || decide (bits (m.u 2) 31 0 < m.chan) || m.kh == 0 || m.kw == 0 || sh == 0 || sw == 0 || dh == 0 ||
    dw == 0 || decide (eh < 1) || decide (ew < 1) || decide ((m.outH : Int) ≠ eh) || decide ((m.outW : Int) ≠ ew)

/-! ## Checks at issue (R302) -/

def mxLease (n : Nat) : Trap := { cause := causeLease, info := BitVec.ofNat 64 n }

/-- A form of the holder (R302): the first three checks, then its own part. -/
def mxForm (u : Uses) (x : Fld) (s : State) (graceToo : Bool) (body : Vals → State → Eff) : State :=
  issue u x s fun v s =>
    let c := slotCluster s.cur
    let a := s.arr c
    if !a.isHolder s.cur (s.slot s.cur).gen then .trap (mxLease 1) else
    match a.latch with
    | some l => .trapWith { cause := l.cause, addr := l.addr, info := l.info } fun s => s.updArr c fun a => { a with latch := none }
    | none => if graceToo ∧ a.grace.isSome then .trap (mxLease 2) else body v s

/-- Queues a command that carries an image (R301): with a full queue the group waits. -/
def mxQueue (s : State) (op : MxOp) (img : MxImage) (a b : W64) (f : TermArray → TermArray) : Eff :=
  let c := slotCluster s.cur
  if !s.holds s.cur .commands then .wait .commands none false 0 else
  let v := s.viewer
  let k : MxCmd := { no := (s.arr c).issued + 1, op := op, img := img, a := a, b := b, phase := (s.slot s.cur).phase, tag := v.tag, heard := v.heard }
  let s := s.updArr c fun q => f { q with img := img, issued := q.issued + 1, queue := q.queue ++ [k] }
  .next (if (s.arr c).cmd.isNone then s.postOnce { who := c, ins := .sequencerCommand } else s)

/-- The image at issue. -/
def State.mxImg (s : State) : MxImage := (s.arr (slotCluster s.cur)).img

/-- Reads `n` lines of 64 bytes of the issuing core's scratchpad on path C (R306). -/
def readBlock (s : State) (off : Nat) : Nat → Except Trap (State × List W64)
  | 0 => .ok (s, [])
  | n + 1 =>
    match localRead s off 64 with
    | .error t => .error t
    | .ok (s, w) =>
      match readBlock s (off + 64) n with
      | .error t => .error t
      | .ok (s, l) => .ok (s, (List.range 8).map w ++ l)

/-- A block of a configuration form: ALIGN, ADDR, then the read. -/
def mxBlock (s : State) (a : W64) (lines : Nat) (f : State → List W64 → Eff) : Eff :=
  if a.toNat % (64 * lines) ≠ 0 then .trap { cause := causeAlign, addr := a }
  else if 0x80000 < a.toNat + 64 * lines then .trap { cause := causeAddr, addr := a }
  else
    match (List.range lines).find? fun i => lineWait s (a.toNat + 64 * i) with
    | some i => .wait (.line (Target.scratch (slotCore s.cur) (a.toNat + 64 * i)).line) none false 0
    | none =>
      match readBlock s a.toNat lines with
      | .error t => .trap t
      | .ok (s, w) => f s w

/-! ## The lease (R304, R305) -/

/-- TRAPINFO of a bounded MXLEASE that expires. -/
def leaseInfo (s : State) (c : Nat) : W64 :=
  let a := s.arr c
  BitVec.ofNat 64 (s.relCluster c + a.grants.toNat % 65536 * 65536 + a.reqs.toNat * 2 ^ 32)

/-- MXLEASE (R304): a free lease that nobody has asked for is granted at once. -/
def execMxlease (x : Fld) (s : State) : Out :=
  .next (issue uD x s fun _ s =>
    let c := slotCluster s.cur
    let a := s.arr c
    let t := s.slot s.cur
    let d := x.d.toNat
    if a.isHolder s.cur t.gen then .next (s.putG d (leaseWord a.grants))
    else if t.waitMode = 2 ∧ (a.holder.isSome ∨ a.leaseQ ≠ []) then .next (s.putG d 0)
    else
      let s := s.updArr c fun a => { a with reqs := a.reqs + 1 }
      if a.holder.isNone ∧ a.leaseQ = [] then
        let s := grantTo s c s.cur t.gen
        .next (s.putG d (leaseWord (s.arr c).grants))
      else
        let tag := s.plainTag
        let s := s.updArr c fun a => { a with leaseQ := a.leaseQ ++ [{ slot := s.cur, gen := t.gen, tag := tag }] }
        let s := s.updSlot s.cur fun t => t.markEmpty [d]
        .hold (awaitAnswer (askEntry s x [d] true) tag t.limit true 0))

/-- MXFREE (R305): what the unit issues after it is issued by a non-holder. -/
def execMxfree (x : Fld) (s : State) : Out :=
  .next (mxForm uNone x s false fun _ s => mxQueue s .free s.mxImg 0 0 fun a => { a with freeing := true })

/-! ## Configuration (R306, R309, R310) -/

/-- MXCFG (R306): it replaces the block and the B source. -/
def execMxcfg (x : Fld) (s : State) : Out :=
  .next (mxForm uA x s true fun v s =>
    mxBlock s v.a 2 fun s w =>
      let m : MxImage := { s.mxImg with cfg := some w, bbase := w.getD 5 0, bstride := w.getD 6 0 }
      if cfgAddrBad m then .trap { cause := causeAddr, addr := v.a }
      else if cfgFormatBad m then .trap { cause := causeFormat, addr := v.a }
      else mxQueue s .cfg m 0 0 id)

/-- MXUNF (R309). -/
def execMxunf (x : Fld) (s : State) : Out :=
  .next (mxForm uA x s true fun v s =>
    mxBlock s v.a 1 fun s w =>
      let m : MxImage := { s.mxImg with unf := some w }
      if unfBad m then .trap { cause := causeAddr, addr := v.a } else mxQueue s .unf m 0 0 id)

/-- MXLDB (R310). -/
def execMxldb (x : Fld) (s : State) : Out :=
  .next (mxForm uAB x s true fun v s =>
    if !upperClear v.b then .trap { cause := causeAddr, addr := v.a }
    else mxQueue s .ldb { s.mxImg with bbase := v.a, bstride := v.b } 0 0 id)

/-! ## Runs (R311, R315, R316) -/

/-- MXRUN (R180, R311): it counts toward the lease's 64. -/
def execMxrun (x : Fld) (s : State) : Out :=
  .next (mxForm uAB x s true fun v s =>
    let m := s.mxImg
    let c := slotCluster s.cur
    if m.cfg.isNone then .trap (mxLease 3)
    else if m.aunf ∧ m.unf.isNone then .trap (mxLease 4)
    else if (m.aunf ∧ m.kext ≠ m.kh * m.kw * m.chan) ∨ m.kext < v.a.toNat + v.b.toNat then
      .trap { cause := causeAddr, addr := v.a + v.b }
    else
      match mxQueue s .run m v.a v.b fun a => { a with runs := a.runs + 1, budRuns := a.budRuns + 1 } with
      | .next s =>
        let a := s.arr c
        .next (if a.budRuns = 64 ∧ a.budAt + budgetCycles ≤ s.arrayTime c
          then s.dueOp { who := c, data := [BitVec.ofNat 64 a.bud], ins := .leaseBudgetEnd } else s)
      | e => e)

/-- MXZERO (R316). -/
def execMxzero (x : Fld) (s : State) : Out := .next (mxForm uNone x s true fun _ s => mxQueue s .zero s.mxImg 0 0 id)

/-- Stops the run in progress, or holds the request for the next one (R313, R315). -/
def mxStop (s : State) (c : Nat) : State :=
  answerWaits (if (s.arr c).running then (stopColumns s c).updArr c fun a => { a with stopped := true }
    else s.updArr c fun a => { a with stopHeld := true }) c

/-- Lets a stopped run continue where no wake is awaited, and clears a held request (R315). -/
def mxResume (s : State) (c : Nat) : State :=
  let a := s.arr c
  let s := s.updArr c fun a => { a with stopHeld := false, stopped := false }
  if a.stopped ∧ a.running ∧ a.page.isNone then s.postOnce { who := c, ins := .macroStep } else s

def execMxstop (x : Fld) (s : State) : Out := .next (mxForm uNone x s false fun _ s => .next (mxStop s (slotCluster s.cur)))
def execMxresume (x : Fld) (s : State) : Out := .next (mxForm uNone x s false fun _ s => .next (mxResume s (slotCluster s.cur)))

/-! ## Readout (R317, R318) -/

/-- The fields of a selection. -/
def selM (w : W64) : Nat := bits w 8 0
def selMc (w : W64) : Nat := bits w 17 9 + 1
def selN (w : W64) : Nat := bits w 26 18
def selNc (w : W64) : Nat := bits w 35 27 + 1

def selBad (w : W64) : Bool := bits w 63 36 != 0 || decide (512 < selM w + selMc w) || decide (512 < selN w + selNc w)

/-- The width in bits of what a readout writes for a lane in a format; a two-word partial has 128. -/
def readWidth (rdx : Bool) (fmt : Nat) : Nat := if rdx then 128 else fmtWidth fmt

/-- The checks of a readout that depend on the element's width (R317): ALIGN, then ADDR. -/
def readoutSize (w : Nat) (dest : W64) (off dstride mc nc : Nat) : Option Nat :=
  let al := Nat.max 1 (w / 8)
  if dest.toNat % al ≠ 0 ∨ dstride % al ≠ 0 then some causeAlign
  else if (w = 4 ∧ nc % 2 ≠ 0) ∨ (w = 6 ∧ nc % 4 ≠ 0) ∨ 2 ^ 19 < off + (mc - 1) * dstride + w * nc / 8 then some causeAddr
  else none

/-- The scratchpad place of a destination of a cluster's array. -/
def State.mxDest (s : State) (c : Nat) (a : W64) : Option (Nat × Nat) :=
  match s.globalFrom c (s.partOf c) a with
  | some (.scratch core off) => some (core, off)
  | _ => none

/-- The checks of MXRD and MXRDX at issue (R317, R318): those that need a region's format wait for the start. -/
def readoutCheck (s : State) (m : MxImage) (rdx : Bool) (dest sel : W64) : Option Trap :=
  let at0 := s.mxDest (slotCluster s.cur) dest
  let size := if m.rpage ∧ !rdx then none
    else readoutSize (readWidth rdx m.rfmt) dest (at0.getD (0, 0)).2 m.dstride (selMc sel) (selNc sel)
  if selBad sel then some { cause := causeAddr, addr := sel }
  else if m.cfg.isNone then some (mxLease 3)
  else if size = some causeAlign then some { cause := causeAlign, addr := dest }
  else if at0.isNone ∨ size.isSome then some { cause := causeAddr, addr := dest } else none

def readoutForm (x : Fld) (s : State) (op : MxOp) : State :=
  mxForm uAB x s false fun v s =>
    match readoutCheck s s.mxImg (op == .rdx) v.a v.b with
    | some t => .trap t
    | none => mxQueue s op s.mxImg v.a v.b id

def execMxrd (x : Fld) (s : State) : Out := .next (readoutForm x s .rd)
def execMxrdx (x : Fld) (s : State) : Out := .next (readoutForm x s .rdx)

/-! ## Waiting and status (R320, R321) -/

/-- TRAPINFO of a bounded MXWAIT that expires. -/
def mxwaitInfo (s : State) (c : Nat) : W64 :=
  let a := s.arr c
  BitVec.ofNat 64 (s.relCluster c + a.done % 65536 * 65536 + a.issued % 65536 * 2 ^ 32)

/-- MXWAIT (R320). -/
def execMxwait (x : Fld) (s : State) : Out :=
  .next (issue uD x s fun _ s =>
    let c := slotCluster s.cur
    let a := s.arr c
    let t := s.slot s.cur
    let d := x.d.toNat
    if a.lost.contains (s.cur, t.gen) then
      .trapWith (mxLease 5) fun s => s.updArr c fun a => { a with lost := a.lost.filter (· != (s.cur, t.gen)) }
    else if !a.isHolder s.cur t.gen then .trap (mxLease 1)
    else
      match a.latch with
      | some l => .trapWith { cause := l.cause, addr := l.addr, info := l.info } fun s => s.updArr c fun a => { a with latch := none }
      | none =>
        if a.waitOver a.issued then
          .next ((s.updArr c fun a => { a with inexact := false, overflow := false }).putG d (a.status a.issued))
        else if t.waitMode = 2 then .next (s.putG d 0x8000000000000000)
        else
          let tag := s.plainTag
          let s := s.updArr c fun a => { a with waitQ := a.waitQ ++ [({ slot := s.cur, gen := t.gen, tag := tag }, a.issued)] }
          let s := s.updSlot s.cur fun t => t.markEmpty [d]
          .hold (awaitAnswer (askEntry s x [d] true) tag t.limit true 0))

/-- The OR of the flags of a column's lanes (R321). -/
def columnFlags (a : TermArray) (m : Nat) : Nat :=
  let ls := a.lanes.filter fun q => q.1 / 512 == m
  (if ls.any fun q => q.2.inexact then 1 else 0) + if ls.any fun q => q.2.overflow then 2 else 0

/-- The array status word (R321). -/
def arrayStatus (a : TermArray) (holder : Bool) : Nat :=
  Nat.min a.runs 255 * 2 ^ 32 + Nat.min a.leaseQ.length 65535 * 2 ^ 16 + a.queue.length * 2 ^ 8 +
    joinBits [a.holder.isSome, holder, a.cmd.isSome, a.running && (a.stopped || a.page.isSome), a.grace.isSome, a.latch.isSome]

/-- What MXSTAT reads for a selector (R321). -/
def mxstatWord (a : TermArray) (holder : Bool) (sel : W64) : W64 :=
  match bits sel 1 0 with
  | 0 =>
    let i := bits sel 6 2 * 8 + bits sel 9 7
    let v : BitVec 48 := Sp.get 0 a.ctr i
    (if sel.getLsbD 10 then v - Sp.get 0 a.base i else v).setWidth 64
  | 1 => BitVec.ofNat 64 (if holder then columnFlags a (bits sel 10 2) else 0)
  | 2 => BitVec.ofNat 64 (arrayStatus a holder)
  | _ => 0

/-- MXSTAT (R321). -/
def execMxstat (x : Fld) (s : State) : Out :=
  .next (issue uDA x s fun v s =>
    let a := s.arr (slotCluster s.cur)
    .next (s.putG x.d.toNat (mxstatWord a (a.isHolder s.cur (s.slot s.cur).gen) v.a)))

end Sys2Proof.Machine
end

