-- ==== Sys2Proof/Machine/Sequencer.lean ====
section
/-! DEFINITION. The term array at work (R158 to R168, R180, R181, R301, R308 to R319, R323): the sequencer, operand fetch, terms and
contributions, readout, lease events. -/

namespace Sys2Proof.Machine
open Sys2Proof

/-! ## Operand fetch (R308, R313, R314, R322) -/

/-- A check of a fetch that fails (R314): source, address, cause, and the page of a page fault. -/
structure MxErr where
  src : Nat
  addr : W64
  cause : Nat
  page : Option Nat
deriving DecidableEq, Repr

/-- The one of two that counts: the lower source, then the lower address. -/
def MxErr.first (a b : MxErr) : MxErr :=
  if b.src < a.src ∨ (b.src = a.src ∧ b.addr.toNat < a.addr.toNat) then b else a

/-- A term array acts for its holder (R58). -/
def State.mxAccess (s : State) (c : Nat) (holder : Nat × BitVec 32) (level : W64) : Accessor :=
  { slot := holder.1, gen := holder.2, part := s.partOf c, level := level, own := true }
def State.mxAccessor (s : State) (c : Nat) : Accessor := s.mxAccess c ((s.arr c).holder.getD (0, 0)) (s.arr c).level

/-- A fetch under way, for a command with an accessor's rights: the lines it has read, each with the place of the command that fetched it, the
failure that counts, whether a line stalls at its slice (R121) or the partition's slice budget holds it (R147). -/
structure Fetch where
  s : State
  acc : Accessor
  phase : Bool
  view : Viewer
  spent : Bool
  pins : Sp (Nat × V512) := []
  err : Option MxErr := none
  stalled : Bool := false

/-- A fetch for a command begins. -/
def State.fetch (s : State) (x : Accessor) (k : MxCmd) : Fetch :=
  { s := s, acc := x, phase := k.phase, spent := s.sliceSpent x.part, view := { slot := x.slot, gen := x.gen, tag := k.tag, heard := k.heard } }

/-- A request and its response between a cluster's array and an NI (R141). -/
def State.asked (s : State) (c home : Nat) (t : Bool) : State :=
  (((s.inject (c * 128) (s.partOf c) t).deliver home t).inject home (s.partOf c) t).deliver (c * 128) t

def Fetch.fail (f : Fetch) (src : Nat) (addr : W64) (e : Nat × Option Nat) : Fetch :=
  let n : MxErr := { src := src, addr := addr, cause := e.1, page := e.2 }
  { f with err := some (match f.err with
    | none => n
    | some o => o.first n) }

/-- One of `n` choices: a free value where there are several. -/
def pickOf (ticket n : Nat) : Nat := if n ≤ 1 then 0 else Config.choice ticket % n

/-- Reads a line once (R313): memory as path T shows it, or a copy that the sequencer has kept (R195). -/
def Fetch.line (f : Fetch) (c line : Nat) : Fetch × V512 :=
  match Sp.find f.pins line with
  | some v => (f, v.2)
  | none =>
    let s := f.s.tick
    let kept (v : Nat × V512) : Bool := v.2 != BitVec.ofNat 512 (s.read (64 * line) 64) && Config.keepsOld s.ticket
    match (Sp.find (s.arr c).tlines line).filter kept with
    | some v => ({ f with s := s, pins := Sp.put f.pins line v }, v.2)
    | none =>
      let r := s.look 2 f.view (64 * line) 64
      ({ f with s := r.1, pins := Sp.put f.pins line (f.view.tag, BitVec.ofNat 512 r.2) }, BitVec.ofNat 512 r.2)

/-- Reads `n` bytes of one line for an array, checked at their home; `o` is what arrives again where the line stalls. -/
def Fetch.part (f : Fetch) (c : Nat) (o : Op) (a : W64) (n : Nat) : Fetch × Except (Nat × Option Nat) Nat :=
  let take (f : Fetch) (l : Nat) : Fetch × Except (Nat × Option Nat) Nat :=
    let r := f.line c (l / 64)
    (r.1, .ok (vecBytes r.2 (l % 64) n))
  let asks (s : State) (home : Nat) : Fetch := { f with s := s.asked c home f.phase }
  if !f.s.linkFrom c (bits a 55 46) then (f, .error (causeAddr, none)) else
  match f.s.homeOf f.acc a n true false with
  | (s, .refused k) => ({ f with s := s }, .error (k, none))
  | (s, .guard) => ({ f with s := s }, .error (causeAddr, none))
  | (s, .fault p) => ({ f with s := s }, .error (causePage, some p))
  | (s, .loc (.second dev va) l) =>
    if f.spent then ({ f with s := s.postOp { o with spent := some f.acc.part, xl := s.kept }, stalled := true }, .ok 0) else
    match nonMemberLine s (pageSlice dev va) (s.partAt f.acc.part dev) va l n false (fun _ => []) o with
    | .done s _ => take (asks (s.sliceBytes f.acc.part n) (sliceNi (pageSlice dev va))) l
    | .stalled s => ({ f with s := s, stalled := true }, .ok 0)
  | (s, .loc _ l) => take (asks s (l / 2 ^ 19)) l

/-- Reads up to 64 bytes that may lie in two lines. -/
def Fetch.bytes (f : Fetch) (c : Nat) (o : Op) (a : W64) (n : Nat) : Fetch × Except (Nat × Option Nat) Nat :=
  let n1 := Nat.min n (64 - a.toNat % 64)
  match f.part c o a n1 with
  | (f, .error e) => (f, .error e)
  | (f, .ok v) =>
    if n1 = n then (f, .ok v) else
    match f.part c o (a + BitVec.ofNat 64 n1) (n - n1) with
    | (f, .error e) => (f, .error e)
    | (f, .ok w) => (f, .ok (v + 2 ^ (8 * n1) * w))

/-- Where a decoding access finds a format (R60, R67): format and block codes, the global address of the block scales (R68), and the
address within its page's or region's space. -/
structure Geom where
  fmt : Nat
  blk : Nat
  base : W64
  v : Nat
deriving DecidableEq, Repr

/-- The geometry of the page or region that holds `n` bytes at an address. -/
def Fetch.geom (f : Fetch) (c : Nat) (a : W64) (n : Nat) : Fetch × Except (Nat × Option Nat) Geom :=
  let part := f.s.partOf c
  match f.s.globalFrom c part a with
  | none | some (.istore _ _) => (f, .error (causeAddr, none))
  | some (.scratch core off) =>
    let k := f.s.core core
    match matchRegion k (off / 64) ((off + n - 1) / 64) with
    | none => (f, .ok { fmt := 0, blk := 0, base := 0, v := off })
    | some r =>
      let w := Sp.get 0 k.prot (r * 4 + 2)
      (f, .ok { fmt := bits w 10 7, blk := bits w 13 11, base := f.s.globalOf core (bits (Sp.get 0 k.prot (r * 4 + 3)) 18 2 * 4 % 2 ^ 19),
                v := off })
  | some (.second dev va) =>
    match f.s.translate dev (f.s.partAt part dev) va false with
    | (s, none) => ({ f with s := s }, .error (causePage, some (faultPage dev va)))
    | (s, some e) => ({ f with s := s }, .ok { fmt := bits e 7 4, blk := bits e 10 8, base := (s.part part).scalebase, v := va })

/-- The address within its space that fixes a block (R68). -/
def State.blockPlace (s : State) (c : Nat) (a : W64) : Nat :=
  match s.globalTarget (s.partOf c) a with
  | some (.scratch _ off) => off
  | some (.istore _ off) => off
  | some (.second _ va) => va
  | none => 0

/-- An operand of the array: base, explicit format if it has one, the format that places the elements, block code and scale base. -/
structure Operand where
  base : W64
  fmt : Option Nat
  place : Nat
  blk : Nat
  scale : W64
deriving DecidableEq, Repr

/-- The byte offset of an element (R308), the bytes from there that hold it, and its bit in the first of these. -/
def elemOff (w i : Nat) : Nat := if w = 4 then i / 2 else if w = 6 then 3 * (i / 4) else i * (w / 8)
def elemSkip (w i : Nat) : Nat := if w = 6 then 6 * (i % 4) / 8 else 0
def elemBit (w i : Nat) : Nat := if w = 4 then 4 * (i % 2) else if w = 6 then 6 * (i % 4) % 8 else 0

/-- An element: format, code, and the scale slot with its address. -/
structure Elem where
  fmt : Nat
  code : Nat
  slot : Option (Nat × W64) := none
deriving DecidableEq, Repr

/-- Fetches one element of an operand with its scale; `src` is 1 for A, 2 for B (R314). -/
def Fetch.elem (f : Fetch) (c : Nat) (o : Op) (src : Nat) (p : Operand) (i : Nat) : Fetch × Elem :=
  let w := fmtWidth p.place
  let none' : Elem := { fmt := p.place, code := 0 }
  if f.stalled then (f, none') else
  let a0 := p.base + BitVec.ofNat 64 (elemOff w i)
  let a := a0 + BitVec.ofNat 64 (elemSkip w i)
  let n := (elemBit w i + w + 7) / 8
  let g : Fetch × Except (Nat × Option Nat) Geom := match p.fmt with
    | some fmt => (f, .ok { fmt := fmt, blk := p.blk, base := p.scale, v := f.s.blockPlace c a0 })
    | none => f.geom c a n
  match g with
  | (f, .error e) => (f.fail src a0 e, none')
  | (f, .ok g) =>
    if !mxAccepts g.fmt ∨ fmtWidth g.fmt ≠ w ∨ blkBad g.fmt g.blk then (f.fail src a0 (causeFormat, none), none') else
    match f.bytes c o a n with
    | (f, .error e) => (f.fail src a0 e, none')
    | (f, .ok v) =>
      let code := v / 2 ^ elemBit w i % 2 ^ w
      if !fmtScaled g.fmt ∨ f.stalled then (f, { fmt := g.fmt, code := code }) else
      let sa := scaleAddr g.base g.v g.blk
      match f.bytes c o sa 4 with
      | (f, .error e) => (f.fail (src + 2) sa e, none')
      | (f, .ok sc) =>
        if (bs20 sc).isNone then (f.fail (src + 2) sa (causeFormat, none), none')
        else (f, { fmt := g.fmt, code := code, slot := some (sc, sa) })

/-- The element index of A[m, k] in its operand; none for a zero that is fetched from nowhere (R308, R309). -/
def MxImage.aIndex (m : MxImage) (col k : Nat) : Option Nat :=
  let r := m.morg + col
  if !m.aunf then some (r * bits (m.w 2) 31 0 + k) else
  if m.outH * m.outW ≤ r then none else
  let ch := k % m.chan
  let kx := k / m.chan % m.kw
  let ky := k / m.chan / m.kw
  let iy : Int := (r / m.outW * bits (m.u 3) 23 16 + ky * bits (m.u 3) 39 32 : Nat) - (bits (m.u 4) 15 0 : Nat)
  let ix : Int := (r % m.outW * bits (m.u 3) 31 24 + kx * bits (m.u 3) 47 40 : Nat) - (bits (m.u 4) 31 16 : Nat)
  let w := bits (m.u 1) 31 16
  if iy < 0 ∨ (bits (m.u 1) 15 0 : Int) ≤ iy ∨ ix < 0 ∨ (w : Int) ≤ ix then none
  else some ((iy.toNat * w + ix.toNat) * bits (m.u 2) 31 0 + ch)

/-- An operand of a run; under a PAGE bit the format at its base places the elements (R308). -/
def Fetch.operand (f : Fetch) (c src : Nat) (m : MxImage) : Fetch × Operand :=
  let base := if src = 2 then m.bbase else if m.aunf then m.u 0 else m.w 1
  let page := if src = 2 then m.bpage else m.apage
  let fmt := if src = 2 then m.bfmt else m.afmt
  let scale := if src = 2 then m.w 8 else m.w 7
  if !page then (f, { base := base, fmt := some fmt, place := fmt, blk := m.blk, scale := scale }) else
  match f.geom c base 1 with
  | (f, .error e) => (f.fail src base e, { base := base, fmt := none, place := 1, blk := 0, scale := 0 })
  | (f, .ok g) =>
    let f := if mxAccepts g.fmt then f else f.fail src base (causeFormat, none)
    (f, { base := base, fmt := none, place := g.fmt, blk := 0, scale := 0 })

/-! ## Elements and terms (R158 to R162, R165) -/

/-- What an element is to the array: zero, not finite, a linear element (s, M, X), or an LNS6 code. -/
inductive MxVal where
  | zero
  | bad
  | lin (s : Bool) (m : Nat) (x : Int)
  | lns (s : Bool) (l : Nat)
deriving DecidableEq, Repr

/-- EXP and FRAC of a valid scale slot (R154). -/
def slotExp (w : Nat) : Nat := w / 4096 % 256
def slotFrac (w : Nat) : Nat := w % 4096

/-- An element read as R158 gives, its scale apart. -/
def Elem.raw (e : Elem) : MxVal :=
  match elemDecode e.fmt e.code with
  | .nan => .bad
  | .inf _ => .bad
  | .fin s m x => if m = 0 then .zero else if e.fmt = 5 then .lns s (e.code % 32) else .lin s m x

/-- An A element under its block scale (R161). -/
def Elem.aVal (e : Elem) : MxVal :=
  match e.slot with
  | none => e.raw
  | some (w, _) => if slotExp w = 0 then .zero else
    match e.raw with
    | .lin s m x => .lin s (m * (4096 + slotFrac w)) (x + slotExp w - 139)
    | v => v

/-- A B element under its block scale: the exponent part only (R162). -/
def Elem.bVal (e : Elem) : MxVal :=
  match e.slot with
  | none => e.raw
  | some (w, _) => if slotExp w = 0 then .zero else
    match e.raw with
    | .lin s m x => .lin s m (x + slotExp w - 127)
    | v => v

/-- The non-adjacent form of a number (R159): weights and digits, for at most `fuel` weights. -/
def nafFrom (m w : Nat) : Nat → List (Nat × Int)
  | 0 => []
  | fuel + 1 =>
    if m = 0 then []
    else if m % 2 = 1 then
      (w, 2 - (m % 4 : Nat)) :: nafFrom ((if m % 4 = 1 then m - 1 else m + 1) / 2) (w + 1) fuel
    else nafFrom (m / 2) (w + 1) fuel

/-- Enough weights for every element: M_eff is below 2^22 (R161). -/
def naf (m : Nat) : List (Nat × Int) := nafFrom m 0 24

/-- The terms an A element costs (R159, R160, R165). -/
def MxVal.terms : MxVal → Nat
  | .zero => 0
  | .bad => 1
  | .lin _ m _ => (naf m).length
  | .lns _ _ => 1

/-- The sign of a product. -/
def signed (neg : Bool) (n : Int) : Int := if neg then -n else n

/-- The contributions of one A element to a lane whose B element is given: integer and exponent (R163, R165). DESIGN CHOICE (assumption 143): a
column adds those of one element in the order of this list, the lowest weight first. -/
def contributions (a b : MxVal) : List (Int × Int) :=
  match a, b with
  | .lin s m x, .lin t n y => (naf m).map fun d => (signed (s != t) (d.2 * n), (d.1 : Int) + x + y)
  | .lns s l, .lns t k => [(signed (s != t) (lnsT ((l + k) % 4)), (((l + k) / 4 : Nat) : Int) - 8 - 15)]
  | _, _ => []

/-- What a macro step does to the lanes of a group: truncated contributions, overflow flags risen (R142). -/
structure MxSum where
  lanes : Sp Lane
  inexact : Nat := 0
  ovf : Nat := 0

/-- Adds contributions to a lane (R163). -/
def addAll (elsb : Int) (r : Lane × Nat × Nat) : List (Int × Int) → Lane × Nat × Nat
  | [] => r
  | q :: l =>
    let x := laneAdd r.1 elsb q.1 q.2
    addAll elsb (x.1, r.2.1 + (if x.2.1 then 1 else 0), r.2.2 + if x.2.2 then 1 else 0) l

/-- Element A[m, k] meets lane (m, n) (R160, R163). -/
def meetLane (elsb : Int) (a b : MxVal) (l : Lane) : Lane × Nat × Nat :=
  if a = .bad ∨ (b = .bad ∧ 0 < a.terms) then
    let x := laneSpoil l
    (x.1, 0, if x.2 then 1 else 0)
  else addAll elsb (l, 0, 0) (contributions a b)

/-- Element A[m, k] meets a row of B. -/
def meetRow (elsb : Int) (col : Nat) (a : MxVal) (q : MxSum) (row : List MxVal) : MxSum :=
  if a = .zero then q else
  row.zipIdx.foldl (fun (q : MxSum) b =>
    let key := col * 512 + b.2
    let r := meetLane elsb a b.1 (Sp.get {} q.lanes key)
    { q with lanes := Sp.set {} q.lanes key r.1, inexact := q.inexact + r.2.1, ovf := q.ovf + r.2.2 }) q

/-- Adds what a step did to the lanes of a group. -/
def countGroup (m : Sp (BitVec 48)) (g : Nat) (q : MxSum) : Sp (BitVec 48) := addCtr (addCtr m g 6 q.inexact) g 7 q.ovf

/-! ## One macro step (R181, R311, R313, R314) -/

/-- The elements of a macro step: A by column, B by run row. -/
structure MxData where
  a : List (List MxVal)
  b : List (List MxVal)
  frac : Sp Nat

/-- Fetches a row of A elements. -/
def fetchA (f : Fetch) (c : Nat) (o : Op) (m : MxImage) (p : Operand) (col : Nat) : List Nat → Fetch × List MxVal
  | [] => (f, [])
  | k :: l =>
    let r : Fetch × MxVal := match m.aIndex col k with
      | none => (f, .zero)
      | some i => let r := f.elem c o 1 p i
                  (r.1, r.2.aVal)
    let t := fetchA r.1 c o m p col l
    (t.1, r.2 :: t.2)

/-- Fetches a row of B elements; a lane's first scale fixes its F_n (R162). -/
def fetchB (f : Fetch) (c : Nat) (o : Op) (p : Operand) (i : Nat) (frac : Sp Nat) : List Nat → Fetch × Sp Nat × List MxVal
  | [] => (f, frac, [])
  | n :: l =>
    let r := f.elem c o 2 p (i + n)
    let q : Fetch × Sp Nat := match r.2.slot with
      | none => (r.1, frac)
      | some (w, sa) =>
        match Sp.find frac n with
        | none => (r.1, Sp.put frac n (slotFrac w))
        | some x => if x = slotFrac w then (r.1, frac) else (r.1.fail 4 sa (causeFormat, none), frac)
    let t := fetchB q.1 c o p i q.2 l
    (t.1, t.2.1, r.2.bVal :: t.2.2)

def fetchCols (f : Fetch) (c : Nat) (o : Op) (m : MxImage) (p : Operand) (ks : List Nat) : List Nat → Fetch × List (List MxVal)
  | [] => (f, [])
  | col :: l =>
    let r := fetchA f c o m p col ks
    let t := fetchCols r.1 c o m p ks l
    (t.1, r.2 :: t.2)

def fetchRows (f : Fetch) (c : Nat) (o : Op) (m : MxImage) (p : Operand) (frac : Sp Nat) : List Nat → Fetch × Sp Nat × List (List MxVal)
  | [] => (f, frac, [])
  | j :: l =>
    let r := fetchB f c o p (j * bits m.bstride 31 0) frac (List.range m.nact)
    let t := fetchRows r.1 c o m p r.2.1 l
    (t.1, t.2.1, r.2.2 :: t.2.2)

/-- Fetches and checks all that macro step `j` of a run needs; where B's base fails, A's elements are checked before it counts (R314). -/
def fetchStep (s : State) (c : Nat) (o : Op) (k : MxCmd) (k0 kn j : Nat) : Fetch × MxData :=
  let m := k.img
  let rows := (List.range (Nat.min 16 (kn - 16 * j))).map (16 * j + ·)
  let pa := Fetch.operand (s.fetch (s.mxAccessor c) k) c 1 m
  let pb := Fetch.operand pa.1 c 2 m
  let f := pb.1
  let none' : MxData := { a := [], b := [], frac := (s.arr c).frac }
  if pa.1.err.isSome then (f, none') else
  if f.err.isSome then ((fetchCols f c o m pa.2 (rows.map (k0 + ·)) (List.range m.mact)).1, none') else
  if j = 0 ∧ ((pa.2.place == 5) != (pb.2.place == 5)) then (f.fail 2 m.bbase (causeFormat, none), none') else
  let ra := fetchCols f c o m pa.2 (rows.map (k0 + ·)) (List.range m.mact)
  let rb := fetchRows ra.1 c o m pb.2 (s.arr c).frac rows
  (rb.1, { a := ra.2, b := rb.2.2, frac := rb.2.1 })

/-- The lines that a fetch has read are kept (R195); the F_n it has fixed stay, whether or not the step is performed (R162). -/
def Fetch.keep (f : Fetch) (c : Nat) (frac : Sp Nat) : State :=
  f.s.updArr c fun a => { a with tlines := f.pins.foldl (fun m p => Sp.put m p.1 p.2) a.tlines, frac := frac }

/-- What the columns of one group do in a step. -/
def stepGroup (elsb : Int) (g : Nat) (d : MxData) (lanes : Sp Lane) : MxSum :=
  (((d.a.drop (16 * g)).take 16).zipIdx).foldl (fun (q : MxSum) col =>
    ((col.1.zip d.b).foldl (fun (q : MxSum) x => meetRow elsb (16 * g + col.2) x.1 q x.2) q)) { lanes := lanes }

/-- The lanes and counters after a step. -/
def stepLanes (elsb : Int) (d : MxData) (r : Sp Lane × Sp (BitVec 48)) : List Nat → Sp Lane × Sp (BitVec 48)
  | [] => r
  | g :: l =>
    let q := stepGroup elsb g d r.1
    stepLanes elsb d (q.lanes, countGroup r.2 g q) l

/-- A fetch has failed (R75, R314): a page fault holds the run at its stop point, anything else abandons it. -/
def stepFails (s : State) (c : Nat) (e : MxErr) : State :=
  match e.page with
  | none => runFail s c e.cause e.addr e.src
  | some p =>
    let part := s.partOf c
    if (s.part part).faultCore.isNone then runFail s c causePage e.addr e.src else
    let h := (s.arr c).holder.getD (0, 0)
    sendFault ((stopColumns s c).updArr c fun a => { a with page := some (p, e.addr, e.src) }) c
      { part := part, page := p, slot := h.1, gen := h.2, engine := 2, id := c }

/-- MACRO_STEP of the array of cluster State.cur (R313): fetched and checked as a whole, then applied. -/
def macroStep (s : State) : State :=
  let c := s.cur
  let a := s.arr c
  match a.cmd with
  | none => s
  | some k =>
    if k.op ≠ .run ∨ a.stopped ∨ a.page.isSome ∨ a.ended then s else
    let m := k.img
    let o : Op := { who := c, ins := .macroStep }
    if s.injSpent (s.partOf c) then s.postOnce { o with inj := some (c * 128, s.partOf c, none) } else
    let r := fetchStep s c o k k.a.toNat k.b.toNat a.mstep
    if r.1.stalled then r.1.s else
    let s := r.1.keep c r.2.frac
    match r.1.err with
    | some e => stepFails s c e
    | none =>
      let q := stepLanes m.elsb r.2 (a.lanes, a.ctr) (List.range ((m.mact + 15) / 16))
      let seed := s.ticket
      let s := s.tick.updArr c fun a =>
        { feedColumns { a with ctr := q.2 } k.b.toNat seed (Config.late seed) (r.2.a.map fun l => l.map MxVal.terms) with
                 lanes := q.1, mstep := a.mstep + 1 }
      if k.b.toNat ≤ 16 * (a.mstep + 1) then mxDone s c else s.postOnce o

def execMacroStep (s : State) : Out := .next (macroStep s)

/-! ## The sequencer (R301) -/

/-- The format of a readout's start under RPAGE (R317): that of the region holding the destination. -/
def startReadout (s : State) (c : Nat) (k : MxCmd) : State :=
  let go (fmt : Nat) : State :=
    (s.tick.updArr c fun a => { a with rfmt := fmt, next := 0, bytes := 0, rtag := some (s.netTag k.phase) }).postOnce
      { who := c, ins := .readout }
  if k.op = .rdx then go 0
  else if !k.img.rpage then go k.img.rfmt
  else
    let fail (cause : Nat) : State := mxDone (readoutFail s c cause k.a 5) c
    match (Fetch.geom (s.fetch (s.mxAccessor c) k) c k.a 1).2 with
    | .error e => fail e.1
    | .ok g =>
      if !mxReads g.fmt ∨ blkBad g.fmt g.blk then fail causeFormat else
      match readoutSize (fmtWidth g.fmt) k.a g.v k.img.dstride (selMc k.b) (selNc k.b) with
      | some cause => fail cause
      | none => go g.fmt

/-- A command with a place in the order of issue begins: the copies fetched for one issued before a FENCE naming T are stale for one issued
after it (R195, R198). -/
def TermArray.begins (a : TermArray) (tag : Nat) : TermArray :=
  let past := a.fences.filter fun f => decide (f < tag)
  { a with fences := a.fences.filter fun f => !decide (f < tag), tlines := a.tlines.filter fun l => past.all fun f => decide (f < l.2.1) }

/-- The head of the queue is the command being performed. -/
def TermArray.starts (a : TermArray) (k : MxCmd) (l : List MxCmd) : TermArray := { a with cmd := some k, queue := l }

/-- SEQUENCER_COMMAND of cluster State.cur: the next command starts (R301). -/
def sequencerCommand (s : State) : State :=
  let c := s.cur
  let a := s.arr c
  match a.cmd, a.queue with
  | none, k :: l =>
    if a.ended then s else
    let s := s.updArr c fun a => (a.begins k.tag).starts k l
    match k.op with
    | .cfg | .unf | .ldb => mxDone s c
    | .zero => mxDone (s.updArr c fun a => { a with lanes := [], frac := [] }) c
    | .run =>
      if k.b = 0 then mxDone s c else
      let s := s.updArr c fun a => { a with cols := List.replicate k.img.mact { done := 0, terms := [] }, waited := a.stopHeld }
      if a.stopHeld then answerWaits (s.updArr c fun a => { a with stopHeld := false, stopped := true }) c
      else s.postOnce { who := c, ins := .macroStep }
    | .rd | .rdx => startReadout s c k
    | .free => mxRevoke (mxDone s c) c
  | _, _ => s

def execSequencerCommand (s : State) : Out := .next (sequencerCommand s)

/-! ## Readout (R166, R168, R317 to R319) -/

/-- The exact value of a lane (R166). -/
def laneValue (l : Lane) (frac : Nat) (elsb : Int) : FVal :=
  if frac = 0 then FVal.ofInt l.acc elsb false else FVal.ofInt (l.acc * (4096 + frac)) (elsb - 12) false

/-- An element of a readout in a format, under the value of its scale slot. -/
def readoutElem (fmt : Nat) (v : FVal) (sc : Option FVal) : Nat :=
  match sc with
  | none => elemEncode fmt v
  | some (.fin _ 0 _) => 0
  | some x => elemEncode fmt (v.div x)

/-- Lanes that are written together: those that share bytes. -/
def itemLanes (w : Nat) : Nat := if w = 4 then 2 else if w = 6 then 4 else 1

/-- Items of a row, and of a readout. -/
def rowItems (w : Nat) (k : MxCmd) : Nat := selNc k.b / itemLanes w
def readoutItems (w : Nat) (k : MxCmd) : Nat := selMc k.b * rowItems w k

/-- The address an item is written to. -/
def itemAddr (w : Nat) (k : MxCmd) (i : Nat) : W64 :=
  let r := Nat.max 1 (rowItems w k)
  k.a + BitVec.ofNat 64 (i / r * k.img.dstride + i % r * (w * itemLanes w / 8))

/-- The lanes of an item, each with its F_n. -/
def itemVals (a : TermArray) (w : Nat) (k : MxCmd) (i : Nat) : List (Lane × Nat) :=
  let r := Nat.max 1 (rowItems w k)
  (List.range (itemLanes w)).map fun j =>
    let n := selN k.b + i % r * itemLanes w + j
    (Sp.get {} a.lanes ((selM k.b + i / r) * 512 + n), Sp.get 0 a.frac n)

/-- The width of what a write on its way carries for a lane. -/
def MxWrite.width (q : MxWrite) : Nat := readWidth (q.cmd.op == .rdx) q.fmt

/-- What is read again where an item's scale slot stalls at its slice. -/
def itemAgain (c : Nat) : Op := { who := c, ins := .readout, data := [1] }

/-- What a write of elements stores, or the failure that it meets, its scale slot's included (R317); none where the slot stalls at its
slice. -/
def itemBytes (s : State) (c : Nat) (q : MxWrite) (a : W64) : State × Except MxErr (Option Nat) :=
  let m := q.cmd.img
  let w := q.width
  if q.cmd.op = .rdx then
    (s, .ok (some (match q.vals with
      | v :: _ => partialWords v.1 v.2 m.elsb
      | [] => 0)))
  else
    let f := s.fetch (s.mxAccess c q.holder q.level) q.cmd
    let g : Fetch × Except (Nat × Option Nat) Geom :=
      if m.rpage then Fetch.geom f c a (w * itemLanes w / 8)
      else (f, .ok { fmt := m.rfmt, blk := m.blk, base := m.w 10, v := s.blockPlace c a })
    match g with
    | (f, .error e) => (f.s, .error { src := 5, addr := a, cause := e.1, page := e.2 })
    | (f, .ok g) =>
      let put (sc : Option FVal) : Nat :=
        q.vals.foldr (fun v n => readoutElem g.fmt (laneValue v.1 v.2 m.elsb) sc + 2 ^ w * n) 0
      if !mxReads g.fmt ∨ fmtWidth g.fmt ≠ w ∨ blkBad g.fmt g.blk then
        (f.s, .error { src := 5, addr := a, cause := causeFormat, page := none })
      else if !fmtScaled g.fmt then (f.s, .ok (some (put none)))
      else
        let sa := scaleAddr g.base g.v g.blk
        match f.bytes c (itemAgain c) sa 4 with
        | (f, .error e) => (f.s, .error { src := 6, addr := sa, cause := e.1, page := e.2 })
        | (f, .ok sc) =>
          if f.stalled then (f.s, .ok none) else
          match bs20 sc with
          | none => (f.s, .error { src := 6, addr := sa, cause := causeFormat, page := none })
          | some x => (f.s, .ok (some (put (some x))))

/-- The readout a write belongs to is the command being performed. -/
def TermArray.reading (a : TermArray) (q : MxWrite) : Bool := a.cmd == some q.cmd

/-- A readout write has failed (R75, R319). -/
def itemFails (s : State) (c : Nat) (q : MxWrite) (e : MxErr) : State :=
  let a := s.arr c
  if !a.reading q ∨ a.failed then s else
  match e.page with
  | none => readoutFail s c e.cause e.addr e.src
  | some p =>
    let part := s.partOf c
    if (s.part part).faultCore.isNone then readoutFail s c causePage e.addr e.src else
    let known := a.heldW.any fun h => h.2.1 == p
    let s := s.updArr c fun a => { a with heldW := a.heldW ++ [(q, p, e.addr, e.src)] }
    if known then s else
    let h := a.holder.getD (0, 0)
    sendFault s c { part := part, page := p, slot := h.1, gen := h.2, engine := 2, id := c }

/-- The array's own write to bytes of memory: it discards the copies of their lines that it keeps (R319); path C may see it late (R322). -/
def arrayWrite (s : State) (c l v n : Nat) : State :=
  (s.pathWrite 2 l v n).updArr c fun a => { a with tlines := Sp.erase (Sp.erase a.tlines (l / 64)) ((l + n - 1) / 64) }

/-- The page that stands for a write held for its scale slot's line. -/
def lineHold : Nat := 2 ^ 64

/-- A readout write arrives at its home (R77, R319). -/
def deliverItem (s : State) (c : Nat) (q : MxWrite) : State :=
  let a := itemAddr q.width q.cmd q.item
  let s := s.deliver (((s.mxDest c a).map Prod.fst).getD (c * 128)) q.cmd.phase
  let n := q.width * itemLanes q.width / 8
  match itemBytes { s with kept := q.xl } c q a with
  | (s, .error e) => itemFails s c { q with xl := s.kept } e
  | (s, .ok none) => s.updArr c fun x => { x with heldW := x.heldW ++ [({ q with xl := s.kept }, lineHold, a, 6)] }
  | (s, .ok (some v)) =>
    match s.homeOf (s.mxAccess c q.holder q.level) a n false true with
    | (s, .refused k) => itemFails s c q { src := 5, addr := a, cause := k, page := none }
    | (s, .guard) => itemFails s c q { src := 5, addr := a, cause := causeAddr, page := none }
    | (s, .fault p) => itemFails s c q { src := 5, addr := a, cause := causePage, page := some p }
    | (s, .loc _ l) =>
      let s := arrayWrite s c l v n
      if (s.arr c).reading q then s.updArr c fun a => { a with bytes := a.bytes + n } else s

/-- Sends the next item of a readout (R319): the flags of its lanes are kept for MXWAIT. -/
def sendItem (s : State) (c : Nat) (k : MxCmd) : State :=
  let a := s.arr c
  let w := readWidth (k.op == .rdx) a.rfmt
  let vals := itemVals a w k a.next
  (s.inject (c * 128) (s.partOf c) k.phase).updArr c fun a =>
    { a with next := a.next + 1,
             flying := a.flying ++ [{ cmd := k, item := a.next, vals := vals, fmt := a.rfmt, holder := a.holder.getD (0, 0), level := a.level }],
             inexact := a.inexact || vals.any (fun v => v.1.inexact), overflow := a.overflow || vals.any fun v => v.1.overflow }

/-- An item of the command being performed is still to be sent, and may be. -/
def TermArray.maySend (a : TermArray) : Bool :=
  match a.cmd with
  | some k => (k.op == .rd || k.op == .rdx) && !a.failed && !a.ended && a.heldW == [] &&
      decide (a.next < readoutItems (readWidth (k.op == .rdx) a.rfmt) k)
  | none => false

/-- What follows in a readout: more of it, its completion, or its end where it has failed. -/
def readoutGoes (s : State) (c : Nat) : State :=
  let a := s.arr c
  let held := s.injSpent (s.partOf c)
  if (a.maySend && !held) || a.flying != [] then s.postOnce { who := c, ins := .readout }
  else if a.maySend then s.postOnce { who := c, ins := .readout, inj := some (c * 128, s.partOf c, none) }
  else match a.cmd with
    | none => s
    | some k =>
      if (k.op ≠ .rd ∧ k.op ≠ .rdx) ∨ a.heldW ≠ [] then s
      else if a.failed then mxDone s c else s.postOnce { who := c, ins := .readoutCompletion }

/-- What was held at an array for a page, or for a line, goes on its way again. -/
def flyAgain (s : State) (c page : Nat) : State :=
  let here := ((s.arr c).heldW.filter fun h => h.2.1 == page).map Prod.fst
  here.foldl (fun s q => s.inject (c * 128) (s.partOf c) q.cmd.phase)
    (s.updArr c fun a => { a with heldW := a.heldW.filter (fun h => h.2.1 != page), flying := a.flying ++ here })

/-- READOUT of the array of cluster State.cur: a free value picks whether the next item is sent or one that flies arrives. -/
def readoutStep (s : State) : State :=
  let c := s.cur
  let s := (if s.data = [1] then flyAgain s c lineHold else s).tick
  let a := s.arr c
  let n := a.flying.length
  let send := a.maySend && (s.cluster c).frozenAt.isNone && !s.injSpent (s.partOf c)
  let i := pickOf s.ticket (n + if send then 1 else 0)
  readoutGoes (match a.flying[i]?, a.cmd with
    | some q, _ => deliverItem (s.updArr c fun a => { a with flying := a.flying.eraseIdx i }) c q
    | none, some k => if send then sendItem s c k else s
    | none, none => s) c

def execReadout (s : State) : Out := .next (readoutStep s)

/-- READOUT_COMPLETION of the array of cluster State.cur: every write has been performed, and RTARGET is applied (R292, R319). -/
def readoutCompletion (s : State) : State :=
  let c := s.cur
  let a := s.arr c
  match a.cmd, a.rtag with
  | some k, some tag =>
    let send (i : Instr) : State := s.send (c * 128) (s.partOf c) k.phase { ins := i }
    if (k.op ≠ .rd ∧ k.op ≠ .rdx) ∨ a.failed ∨ a.ended then s else
    let t : W64 := BitVec.ofNat 64 k.img.rtarget
    let part := s.partOf c
    let h := a.holder.getD (0, 0)
    if t.getLsbD 30 then mxDone s c
    else if t.getLsbD 31 then
      if (s.physCluster part (bits t 18 12)).isNone then mxDone (readoutFail s c causeAddr k.a 5) c
      else send (.dcDecrement part (bits t 18 0) 1 h.1 h.2 tag)
    else
      match s.mxDest c k.a with
      | none => mxDone (readoutFail s c causeAddr k.a 5) c
      | some (core, _) =>
        let x : Access :=
          { op := .swadd, slot := h.1, gen := h.2, tag := tag, pc := 0, part := part, level := a.level, mode := 3,
            ea := s.globalOf core (bits t 18 0), dest := 0, d0 := BitVec.ofNat 64 a.bytes, d1 := 0, vec := 0, offs := 0,
            lanes := 0xFFFFFFFF, masked := false, fall := false, nb := false, opc := 0x5A, region := none }
        send (.syncWordUpdate x 2)
  | _, _ => s

def execReadoutCompletion (s : State) : Out := .next (readoutCompletion s)

/-! ## The lease at work (R180, R315, R323) -/

/-- LEASE_GRANT of the array of cluster State.cur: a lease whose holder has ended is free; a free lease goes to the oldest request. -/
def leaseGrant (s : State) : State :=
  let c := s.cur
  let s := if (s.arr c).ended then
    (stopColumns s c).updArr c fun a => { a.discard with holder := none, ended := false, freeing := false, grace := none, stopHeld := false } else s
  let a := s.arr c
  if a.holder.isSome then s else
  let q := a.leaseQ.dropWhile fun w => !s.hasEntry w.slot w.gen w.tag
  match q with
  | [] => s.updArr c fun a => { a with leaseQ := [] }
  | w :: l =>
    let s := grantTo (s.updArr c fun a => { a with leaseQ := l }) c w.slot w.gen
    fillSlot s w.slot w.gen w.tag ((leaseWord (s.arr c).grants).setWidth 512)

def execLeaseGrant (s : State) : Out := .next (leaseGrant s)

/-- LEASE_BUDGET_END of the array of cluster State.cur (R180): with no request queued the budget starts again; else grace begins, and
a run that MXSTOP has stopped continues (R315). -/
def leaseBudgetEnd (s : State) : State :=
  let c := s.cur
  let a := s.arr c
  if a.holder.isNone ∨ a.grace.isSome ∨ BitVec.ofNat 64 a.bud ≠ s.data.headD 0 then s
  else if s.arrayTime c < a.budAt + budgetCycles then
    s.opAt (s.arrayCycle c (a.budAt + budgetCycles)) { who := c, data := s.data, ins := .leaseBudgetEnd }
  else if a.budRuns < 64 then s
  else if a.leaseQ = [] then startBudget s c
  else armGrace (mxResume (s.updArr c fun a => { a with grace := some (s.arrayTime c) }) c) c

def execLeaseBudgetEnd (s : State) : Out := .next (leaseBudgetEnd s)

/-- GRACE_END of the array of cluster State.cur (R180): commands still queued are discarded; an MXWAIT that covers them traps as it
issues again. -/
def graceEnd (s : State) : State :=
  let c := s.cur
  let a := s.arr c
  if a.holder.isNone ∨ a.grace.isNone ∨ a.runsLeft ∨ a.grants.setWidth 64 ≠ s.data.headD 0 then s
  else if s.arrayTime c < a.graceMark then s.opAt (s.arrayCycle c a.graceMark) { who := c, data := s.data, ins := .graceEnd }
  else
    let late := a.waitQ.filter fun w => decide (a.done < w.2)
    let s := s.updArr c fun a => { a with lost := a.lost ++ late.map fun w => (w.1.slot, w.1.gen) }
    mxRevoke (late.foldl (fun s w => withdraw s w.1.slot) s) c

def execGraceEnd (s : State) : Out := .next (graceEnd s)

/-- A wake reaches an array (R75, R314): READY makes the checks again; DENY abandons the run, or stops the readout. -/
def wakeArray (s : State) (c page : Nat) (ready : Bool) : State :=
  let a := s.arr c
  let s := match a.page with
    | some (p, addr, src) =>
      if p ≠ page then s else
      if ready then
        let s := s.updArr c fun a => { a with page := none }
        if a.stopped then s else s.postOnce { who := c, ins := .macroStep }
      else runFail s c causeAddr addr src
    | none => s
  let here := a.heldW.filter fun h => h.2.1 == page
  match here with
  | [] => s
  | h :: _ =>
    if ready then
      readoutGoes (flyAgain s c page) c
    else readoutGoes (readoutFail s c causeAddr h.2.2.1 h.2.2.2) c

end Sys2Proof.Machine
end

