-- ==== Sys2Proof/Machine/System.lean ====
section
/-! DEFINITION. Traps, system registers and unit control (R36 to R48, R376 to R379, R382), and the halting of a cluster (R425 to R427),
which a BRK starts. -/

namespace Sys2Proof.Machine
open Sys2Proof

/-! ## System registers (R36 to R48) -/

/-- PERSISTWIN of the launch a slot's unit belongs to (R48). -/
def State.persistWin (s : State) (slot : Nat) : W64 :=
  ((s.liveLevel (s.slot slot).home (s.slot slot).level).map Level.persistwin).getD 0

/-- CYCLE of a device: the cycles since its reset (R47). -/
def State.cycle (s : State) (dev : Nat) : W64 := BitVec.ofNat 64 (s.now - (s.dev dev).since)

/-- The value of a system register as a slot reads it (R37 to R48). -/
def State.sysReg (s : State) (slot num sub : Nat) : W64 :=
  let t := s.slot slot
  let c := s.core (slotCore slot)
  let q := s.part (s.partOf (slotCluster slot))
  match num with
  | 0x000 => s.slotId slot
  | 0x001 => t.gen.setWidth 64
  | 0x002 => t.level
  | 0x003 => t.corr.setWidth 64
  | 0x004 => t.stktop
  | 0x010 => t.trappc
  | 0x011 => t.trapcause
  | 0x012 => t.trapaddr
  | 0x013 => t.trapinfo
  | 0x014 => t.trapvec
  | 0x015 => t.trapscr
  | 0x018 => t.oobflag
  | 0x019 => t.oobaddr
  | 0x01A => t.guardmode
  | 0x020 => t.waitpol
  | 0x021 => q.wdogwin
  | 0x028 => if sub = 0 then c.cpymask0 else c.cpymask1
  | 0x029 => c.cpyxmask
  | 0x040 => s.cycle (slotDev slot) + c.cycleAdd
  | 0x041 => t.retired
  | 0x042 => s.ptpTime (slotDev slot)
  | 0x050 => s.persistWin slot
  | 0x060 => q.scalebase
  | _ => Sp.get 0 c.prot ((num - 0x030) * 4 + sub)

/-- SYSR (R378): CYCLE, RETIRED and PTPTIME fill d later with the value sampled at issue. -/
def execSysr (x : Fld) (s : State) : Out :=
  .next (issue uD x s fun _ s =>
    let num := bits x.imm 11 0
    let v := s.sysReg s.cur num (bits x.imm 13 12)
    if sysregLong num then .next (startFill s [x.d.toNat] (v.setWidth 512)) else .next (s.putG x.d.toNat v))

/-- A register that SYSW may not write (R36, R37). -/
def sysReadOnly (num : Nat) : Bool :=
  [0x000, 0x001, 0x002, 0x003, 0x012, 0x013, 0x019, 0x021, 0x040, 0x041, 0x042, 0x050, 0x060].contains num

/-- A value with a reserved code in a coded field (R40, R43, R45, R48). -/
def sysReserved (num sub : Nat) (v : W64) : Bool :=
  (num == 0x004 && decide (0x8000 < bits v 19 4)) || (num == 0x011 && decide (0x16 < bits v 7 0)) ||
    (num == 0x020 && bits v 1 0 == 3) ||
    (decide (0x030 ≤ num ∧ num ≤ 0x037) && sub == 2 && (decide (4 < bits v 13 11) || decide (10 < bits v 10 7)))

/-- The writable bits of a sub-word of a protection region (R45). -/
def protMask (sub : Nat) : W64 :=
  match sub with
  | 0 => 0x7FFC0
  | 1 => 0xFFFC0
  | 2 => 0x3FFF
  | _ => 0x7FFFC

/-- Writes a word of a protection region; sub-index 2 with V = 1 records its owner (R45, R58). -/
def writeProt (s : State) (slot n sub : Nat) (v : W64) : State :=
  let t := s.slot slot
  s.updCore (slotCore slot) fun c =>
    { c with prot := Sp.set 0 c.prot (n * 4 + sub) (v &&& protMask sub),
             protOwn := if sub = 2 ∧ v.getLsbD 0 then Sp.put c.protOwn n { slot := slot, gen := t.gen, level := t.level } else c.protOwn }

/-- Writes a system register of a slot (R36 to R45, R48): bits that read zero are ignored. -/
def sysWrite (s : State) (slot num sub : Nat) (v : W64) : State :=
  match num with
  | 0x004 => s.updSlot slot fun t => { t with stktop := v &&& 0xFFFF0 }
  | 0x010 => s.updSlot slot fun t => { t with trappc := v &&& 0x7FFF }
  | 0x011 => s.updSlot slot fun t => { t with trapcause := v &&& 0x1FF }
  | 0x014 => s.updSlot slot fun t => { t with trapvec := v &&& 0x7FFF }
  | 0x015 => s.updSlot slot fun t => { t with trapscr := v }
  | 0x018 => if v.getLsbD 0 then s.updSlot slot fun t => { t with oobflag := 0 } else s
  | 0x01A => s.updSlot slot fun t => { t with guardmode := v &&& 1 }
  | 0x020 => s.updSlot slot fun t => { t with waitpol := v &&& 0xFFFFFFFF00000003 }
  | 0x028 => s.updCore (slotCore slot) fun c => if sub = 0 then { c with cpymask0 := v } else { c with cpymask1 := v }
  | 0x029 => s.updCore (slotCore slot) fun c => { c with cpyxmask := v &&& 3 }
  | _ => if 0x030 ≤ num ∧ num ≤ 0x037 then writeProt s slot (num - 0x030) sub v else s

/-- SYSW (R36, R378). -/
def execSysw (x : Fld) (s : State) : Out :=
  .next (issue uA x s fun v s =>
    let num := bits x.imm 11 0
    let sub := bits x.imm 13 12
    if sysReadOnly num ∨ sysReserved num sub v.a then .trap { cause := causePerm }
    else .next (sysWrite s s.cur num sub v.a))

/-! ## Traps and unit control -/

/-- TRAP (R376). -/
def execTrap (x : Fld) (s : State) : Out := .next (issue uNone x s fun _ _ => .trap { cause := causeSwTrap, info := x.imm })

/-- RFT (R377). -/
def execRft (x : Fld) (s : State) : Out :=
  .next (issue uNone x s fun _ s =>
    if !s.holds s.cur .settled then .wait .settled none false 0 else
    let s := returnFromTrap s s.cur
    .goto s (s.slot s.cur).pc.toNat)

/-- EXIT (R175, R379): a unit that holds stack entries or a region membership is killed. -/
def execExit (x : Fld) (s : State) : Out :=
  .next (issue uNone x s fun _ s =>
    if !s.holds s.cur .settled then .wait .settled none false 0 else
    let t := s.slot s.cur
    let kill := t.stack != [] || t.region.isSome
    .gone (unitEnd s s.cur kill kill))

/-! ## Halting a cluster (R425 to R427, R429, R431) -/

/-- The fields of DBGCTL (R425). -/
def dbgGroup (w : W64) : Nat := bits w 15 8
def dbgHalt (w : W64) : Bool := w.getLsbD 0
def dbgBrken (w : W64) : Bool := w.getLsbD 2
def dbgXout (w : W64) : Bool := w.getLsbD 3
def dbgXin (w : W64) : Bool := w.getLsbD 4
def dbgAfreeze (w : W64) : Bool := w.getLsbD 5
def dbgSnaphalt (w : W64) : Bool := w.getLsbD 7

/-- DBGCTL with another cause and HALT. -/
def dbgSet (w : W64) (cause : Nat) (halt : Bool) : W64 :=
  BitVec.ofNat 64 (bits w 15 2 * 4 + cause * 2 ^ 16 + if halt then 3 else 0)

/-- A cluster under a new DBGCTL: while HALT and AFREEZE are set its array is frozen, and a frozen array cycle is none (R142, R426). -/
def Cluster.withDbg (x : Cluster) (w : W64) (now : Nat) : Cluster :=
  let x := { x with dbgctl := w }
  match x.frozenAt with
  | none => { x with frozenAt := if dbgHalt w && dbgAfreeze w then some now else none }
  | some t => if dbgHalt w && dbgAfreeze w then x else
      { x with frozenAt := none, arr := { x.arr with gap := x.arr.gap + (now / 2 - t / 2) } }

/-- A cluster fires a trigger group: once for those that halt in one cycle (R429). -/
def fireGroup (s : State) (c g : Nat) : State :=
  let v := s.dev (clusterDev c)
  if Sp.get 0 v.fired g = s.now + 1 then s else
    (s.setDev (clusterDev c) { v with fired := Sp.put v.fired g (s.now + 1) }).postOp
      { who := c, data := [BitVec.ofNat 64 g], ins := .triggerFire }

/-- A cluster halts (R426): causes 1 HALT write, 2 BRK, 3 group trigger. One that is halted ignores it. It fires its group (R429) and a
snapshot (R431) where DBGCTL says so. -/
def haltCluster (s : State) (c cause : Nat) : State :=
  let x := s.cluster c
  let w := x.dbgctl
  if dbgHalt w then s else
  let s := s.setCluster c ({ x with haltAt := s.now }.withDbg (dbgSet w cause true) s.now)
  let s := if dbgXout w ∧ dbgGroup w ≠ 0 then fireGroup s c (dbgGroup w) else s
  if dbgSnaphalt w then s.post .snapshotTrigger (clusterDev c) else s

/-- BRK (R382, R426): under BRKEN the cluster halts before the group has any effect; else it traps BREAK. -/
def execBrk (x : Fld) (s : State) : Out :=
  .next (issue uNone x s fun _ s =>
    let c := slotCluster s.cur
    if dbgBrken (s.cluster c).dbgctl then .hold (haltCluster (s.updSlot s.cur fun t => { t with atBrk := true }) c 2)
    else .trap { cause := causeBreak })

end Sys2Proof.Machine
end

