-- ==== Sys2Proof/Machine/Headwater.lean ====
section
/-! DEFINITION. The Headwater (R98 to R104, R138, R174, R401, R458): command queues, packets, signals, completion records, and what host
accesses to second-tier memory do (R405, R406). -/

namespace Sys2Proof.Machine
open Sys2Proof

def State.queue (s : State) (q : Nat) : Queue := Sp.get {} (s.dev (q / 64)).queues (q % 64)
def State.setQueue (s : State) (q : Nat) (x : Queue) : State :=
  s.updDev (q / 64) fun d => { d with queues := Sp.put d.queues (q % 64) x }
def State.updQueue (s : State) (q : Nat) (f : Queue → Queue) : State := s.setQueue q (f (s.queue q))

/-- Answers an outside party. -/
def State.answer (s : State) (status : Nat) (data : List W64 := []) : State :=
  { s with out := s.out ++ [{ who := s.cur, status := status, data := data }] }

/-! ## Memory reached by the Headwater and the host (R98, R100, R101, R104, R405) -/

/-- What an access of the Headwater or the host meets. -/
inductive HwGot where
  | ok (s : State) (v : Nat)
  | refused (s : State)
  | stalled (s : State)

/-- The Headwater and the host as an accessor of a partition (R58): no slot, no unit, no level. -/
def hwAccessor (part : Nat) : Accessor := { slot := 2 ^ 31, gen := 0, part := part, level := -1, own := false }

/-- Bytes of one line, read or written for a partition: checked by segment table, regions, guard bits and page table (R55 to R63; R57: `x`
asks for X in the page entry), never entering the fault tree; `o` arrives again where the line stalls (R121) or the slice budget is spent (R147). A host's write is on path Q
(R406). -/
def hwPart (s : State) (part : Nat) (a : W64) (n : Nat) (wr : Option Nat) (o : Op) (x host : Bool := false) : HwGot :=
  let at' (s : State) (l : Nat) : HwGot :=
    match wr with
    | none => .ok s (s.read l n)
    | some v => .ok (if host then s.pathWrite 3 l v n else s.write l v n) 0
  let seg (core : Nat) (istore : Bool) : Bool :=
    s.segment (coreCluster core) (s.partAt part (clusterDev (coreCluster core))) (core % 128) istore wr.isNone wr.isSome == .ok
  match s.globalTarget part a with
  | none => .refused s
  | some (.scratch core off) =>
    if seg core false && !s.guarded core off && !s.guarded core (off + n - 1) &&
        s.protAllows core off n (hwAccessor (s.partAt part (clusterDev (coreCluster core)))) wr.isSome
      then at' s (scratchLoc core off) else .refused s
  | some (.istore core off) => if seg core true then at' s (istoreLoc core off) else .refused s
  | some (.second dev va) =>
    let p := s.partAt part dev
    if s.sliceHeld part then .stalled (s.holdAt o part) else
    match s.translate dev p va wr.isSome with
    | (s, none) => .refused s
    | (s, some e) =>
      if (pteCheck e p wr.isNone wr.isSome != .ok || (x && !e.getLsbD 3)) = true then .refused s else
      match nonMemberLine s (pageSlice dev va) p va (pteLoc e dev va) n wr.isSome (fun _ => []) o with
      | .done s _ => at' (s.sliceBytes part n) (pteLoc e dev va)
      | .stalled s => .stalled s

/-- The same for what no copy reads or writes: it does not reach an instruction store (R57). -/
def hwData (s : State) (part : Nat) (a : W64) (n : Nat) (wr : Option Nat) (o : Op) (host : Bool := false) : HwGot :=
  match s.globalTarget part a with
  | some (.istore _ _) => .refused s
  | _ => hwPart s part a n wr o false host

/-- Up to 64 bytes that may lie in two lines. -/
def hwBytes (s : State) (part : Nat) (a : W64) (n : Nat) (wr : Option Nat) (o : Op) (host : Bool := false) : HwGot :=
  let n1 := Nat.min n (64 - a.toNat % 64)
  if n1 = n then hwData s part a n wr o host else
  match hwData s part (a + BitVec.ofNat 64 n1) (n - n1) (wr.map fun v => v / 2 ^ (8 * n1)) o host with
  | .ok s1 hi =>
    match hwData (if wr.isSome then s else s1) part a n1 wr o host with
    | .ok s2 lo =>
      if wr.isNone then .ok s2 (lo + 2 ^ (8 * n1) * hi) else
      hwData s2 part (a + BitVec.ofNat 64 n1) (n - n1) (wr.map fun v => v / 2 ^ (8 * n1)) o host
    | r => r
  | r => r

/-- `n` words from an address. -/
def hwWords (s : State) (part : Nat) (a : W64) (o : Op) : Nat → State × Option (List W64) × Bool
  | 0 => (s, some [], false)
  | n + 1 =>
    match hwBytes s part a 8 none o with
    | .refused s => (s, none, false)
    | .stalled s => (s, none, true)
    | .ok s v =>
      match hwWords s part (a + 8) o n with
      | (s, some l, st) => (s, some (BitVec.ofNat 64 v :: l), st)
      | r => r

/-! ## Packets (R101) -/

def Packet.word (p : Packet) (i : Nat) : W64 := p.w.getD i 0
def Packet.type (p : Packet) : Nat := bits (p.word 0) 7 0
def Packet.barrier (p : Packet) : Bool := (p.word 0).getLsbD 8
def Packet.onDone (p : Packet) : Bool := (p.word 0).getLsbD 9
def Packet.sig (p : Packet) : Nat := bits (p.word 0) 31 16
def Packet.corr (p : Packet) : BitVec 32 := BitVec.ofNat 32 (bits (p.word 0) 63 32)
def Packet.template (p : Packet) : W64 := p.word 1
def Packet.classtab (p : Packet) : W64 := p.word 2
def Packet.units (p : Packet) : Nat := bits (p.word 3) 31 0
def Packet.gang (p : Packet) : Nat := bits (p.word 3) 39 32

/-- The bits of word `i` that are fields of a packet of a type. -/
def packetMask (type i : Nat) : W64 :=
  match type, i with
  | _, 0 => 0xFFFFFFFFFFFF03FF
  | 1, 1 | 1, 2 | 1, 4 => 0xFFFFFFFFFFFFFFFF
  | 1, 3 => 0xFFFFFFFFFF
  | 2, 1 | 2, 2 | 2, 3 => 0xFFFFFFFFFFFFFFFF
  | 2, 4 => 0xFFFFFFFFFFFFFF
  | 3, 1 => 0xFFFFFF
  | 3, 2 => 0xFFFFFFFFFFFFFFFF
  | 4, 1 | 4, 2 => 0xFFFFFFFFFFFFFFFF
  | 4, 3 => 0xFFFFFFFF
  | 5, 1 => 0xFFFFFFFFFFFFFFFF
  | _, _ => 0

/-- The signal of a pair of a WAIT, its threshold, and how many pairs it has. -/
def Packet.waitSig (p : Packet) (i : Nat) : Nat := bits (p.word 4) (16 * i + 15) (16 * i)
def Packet.waitCount (p : Packet) : Nat := bits (p.word 4) 55 48

/-- The checks of a packet's own bytes (R101). -/
def Packet.malformed (p : Packet) : Bool :=
  let t := p.type
  t == 0 || decide (6 < t) || ((List.range 8).any fun i => p.word i &&& ~~~packetMask t i != 0) ||
    decide (1024 ≤ p.sig) || (p.sig != 0 && !p.onDone) ||
    (t == 2 && (p.waitCount == 0 || decide (3 < p.waitCount) || (List.range 3).any fun i => decide (1024 ≤ p.waitSig i))) ||
    (t == 3 && decide (1024 ≤ bits (p.word 1) 15 0)) ||
    (t == 1 && (p.units == 0 || decide (131072 < p.units) || decide (8 < p.gang)))

/-- The checks of a template (R95, R101, R138). -/
def templateBad (w : List W64) : Bool :=
  let w0 := w.getD 0 0
  let w2 := w.getD 2 0
  bits w0 63 49 != 0 || bits w0 47 15 != 0 || bits w2 63 38 != 0 || bits w2 35 32 != 0 || bits (w.getD 1 0) 15 0 != 0

/-- A class image's word with a misaligned BASE (R79). -/
def classBad (w : W64) : Bool := bits w 18 9 % 2 ^ bits w 22 20 != 0

/-- The pipe words that count (R401): the first with V = 0 ends them. -/
def pipeWords (l : List W64) : List W64 := l.takeWhile fun w => w.getLsbD 15

/-- The ends of a pipe: writer's and reader's member and port. -/
def pipeEnds (w : W64) : Nat × Nat × Nat × Nat := (bits w 2 0, bits w 6 4, bits w 10 8, bits w 14 12)

/-- The checks of a pipe table (R401). -/
def pipesBad (gang : Nat) (l : List W64) : Bool :=
  let ps := (pipeWords l).map pipeEnds
  let ends := ps.flatMap fun p => [(p.1, p.2.1), (p.2.2.1, p.2.2.2)]
  (ps.any fun p => decide (gang ≤ p.1) || decide (gang ≤ p.2.2.1) || p.1 == p.2.2.1) || ends.eraseDups.length != ends.length

/-- A packet that has read what it names at its start; none where it is to be rejected; stalled where a line stalls. -/
def packetReads (s : State) (part : Nat) (p : Packet) (o : Op) : State × Option Packet × Bool :=
  if p.malformed then (s, none, false)
  else if p.type ≠ 1 then (s, some p, false)
  else if p.template.toNat % 64 ≠ 0 ∨ p.classtab.toNat % 8 ≠ 0 then (s, none, false)
  else
    match hwWords s part p.template o 8 with
    | (s, none, st) => (s, none, st)
    | (s, some t, _) =>
      if templateBad t then (s, none, false)
      else if p.classtab = 0 then (s, some { p with tmpl := t }, false)
      else
        match hwWords s part p.classtab o 16 with
        | (s, none, st) => (s, none, st)
        | (s, some im, _) =>
          if im.any classBad then (s, none, false)
          else if p.gang < 2 then (s, some { p with tmpl := t, image := im }, false)
          else
            match hwWords s part (p.classtab + 128) o 8 with
            | (s, none, st) => (s, none, st)
            | (s, some pw, _) =>
              if pipesBad p.gang pw then (s, none, false) else (s, some { p with tmpl := t, image := im, pipes := pipeWords pw }, false)

/-! ## Level records of a LAUNCH (R136, R138) -/

/-- The lowest value from `i` on whose handle names no live level, of `fuel` values. -/
def lowestLevel (s : State) (part : Nat) (base : W64) (shift : Nat) (i : Nat) : Nat → Nat
  | 0 => i
  | fuel + 1 => if (s.level? part (base + BitVec.ofNat 64 (i * 2 ^ shift))).isNone then i else lowestLevel s part base shift (i + 1) fuel

/-- The handle of a level below `base`: the value asked for, or a new one. -/
def levelOf (s : State) (part : Nat) (base : W64) (shift v : Nat) : W64 :=
  base + BitVec.ofNat 64 ((if v = 0 then lowestLevel s part base shift 1 65534 else v) * 2 ^ shift)

/-- Makes a level record that is not live, and counts it at its parent (R137, R138). -/
def makeLevel (s : State) (part : Nat) (h parent : W64) : State :=
  if (s.level? part h).isSome then s else
  let s := s.setLevel part h { parent := parent }
  match s.level? part parent with
  | some l => if parent = 0 then s else s.setLevel part parent { l with outstanding := l.outstanding + 1 }
  | none => s

/-- The handles of a LAUNCH: job, phase, graph, launch. -/
def launchHandles (s : State) (part : Nat) (w1 : W64) : W64 × W64 × W64 × W64 :=
  let j := levelOf s part 0 48 (bits w1 63 48)
  let p := levelOf s part j 32 (bits w1 47 32)
  let g := levelOf s part p 16 (bits w1 31 16)
  (j, p, g, levelOf s part g 0 0)

/-- A live level can count one more child (R137): one at 2^32 - 1 holds the increment. -/
def childRoom (s : State) (part : Nat) (h : W64) : Bool :=
  ((s.level? part h).map fun l => decide (l.outstanding + 1 < 2 ^ 32)).getD true

/-- How many records a LAUNCH needs, and whether its partition's quota and its device's 16,384 records have room for them (R131, R136) and
the parent of the outermost new one for its count (R137). -/
def launchRoom (s : State) (part : Nat) (w1 : W64) : Bool :=
  let h := launchHandles s part w1
  let gone (x : W64) : Bool := (s.level? part x).isNone
  let need := ([h.1, h.2.1, h.2.2.1, h.2.2.2].filter gone).length
  decide ((s.levels.filter fun l => l.1 / 2 ^ 64 == part).length + need ≤ (s.part part).quotaLevels) &&
    decide ((s.levels.filter fun l => l.1 / 2 ^ 64 / 32 == part / 32).length + need ≤ 16384) &&
    ([(h.1, h.2.1), (h.2.1, h.2.2.1), (h.2.2.1, h.2.2.2)].all fun q => !gone q.2 || childRoom s part q.1)

/-! ## The start of a packet (R99, R101, R102) -/

/-- The next packet of a queue to start. -/
def Queue.headPacket (q : Queue) : Option Packet := q.packets.find? fun p => !p.started

/-- The operation of a queue's packet start, and whether it stalls at a slice or is held. -/
def startOp (q : Nat) : Op := { who := q, ins := .packetStart }
def State.starting (s : State) (q : Nat) : Bool :=
  (s.agenda ++ s.slices.flatMap fun x => x.2.stalled).any fun o => o.who == q && o.ins == .packetStart

/-- A queue may look at its next packet (R99, R102, R103, R136, R458). -/
def packetReady (s : State) (qid : Nat) : Bool :=
  let q := s.queue qid
  match q.own, q.headPacket with
  | some part, some p =>
    q.st == 1 && !q.stopping && !(s.part part).resetting && !(q.packets.any fun r => r.started && r.type == 2) &&
      (!p.barrier || !(q.packets.any fun r => r.started)) && !s.starting qid &&
      (match packetReads s part p (startOp qid) with
        | (_, some r, _) => p.type != 1 || launchRoom s part (r.tmpl.getD 1 0)
        | _ => true)
  | _, _ => false

/-- A packet by its place: queue and index. -/
def State.packet (s : State) (who : Nat) : Option Packet :=
  (s.queue (who / 2 ^ 32)).packets.find? fun p => p.idx.toNat == who % 2 ^ 32
def State.setPacket (s : State) (who : Nat) (p : Packet) : State :=
  s.updQueue (who / 2 ^ 32) fun q => { q with packets := q.packets.map fun r => if r.idx = p.idx then p else r }

/-- A packet's completion follows at once, with a status (R104). -/
def completionOp (who status : Nat) : Op := { who := who, data := [BitVec.ofNat 64 status], ins := .packetCompletion }

/-- What a packet of a type does. -/
def packetIns (type : Nat) : Instr :=
  match type with
  | 1 => .launch
  | 2 => .wait
  | 3 => .signal
  | 4 => .copy
  | 5 => .timestamp
  | _ => .nop

/-- PACKET_START of the queue State.cur: the next packet is checked and started, or rejected. -/
def packetStart (s : State) : State :=
  let qid := s.cur
  if !packetReady s qid then s else
  let q := s.queue qid
  match q.own, q.headPacket with
  | some part, some p =>
    let who := qid * 2 ^ 32 + p.idx.toNat
    match packetReads s part p (startOp qid) with
    | (s, _, true) => s
    | (s, none, _) =>
      let s := s.updQueue qid fun q => { q with st := 2, rej := p.corr, head := p.idx + 1 }
      (s.setPacket who { p with started := true }).dueOp (completionOp who 4)
    | (s, some r, _) =>
      let s := s.updQueue qid fun q => { q with head := p.idx + 1 }
      (s.setPacket who { r with started := true }).postDue (packetIns p.type) who
  | _, _ => s

def execPacketStart (s : State) : Out := .next (packetStart s)

/-- A class image rebinds the classes of every core of the partition (R79, R105): the indices of a class whose word changes are reset. -/
def applyImage (c : Core) (image : List W64) : Core :=
  (image.zipIdx).foldl (fun (c : Core) w =>
    let v := w.1 &&& 0xF77FE00
    if c.cls w.2 = v then c else
    { c.setCls w.2 v with heads := Sp.erase c.heads w.2, tails := Sp.erase c.tails w.2,
                          entries := c.entries.filter (fun e => e.1 / 8192 != w.2), placed := c.placed && w.2 != 0 }) c

/-- The cores of a partition that it sees. -/
def State.partCores (s : State) (part : Nat) : List Nat :=
  (s.part part).clusters.flatMap fun c => (clusterCores c).filter fun k => s.coreVisible c (k % 128)

/-- LAUNCH of the packet State.cur (R137, R138, R174, R176): levels, class bindings, and the units still to be placed. -/
def launchPacket (s : State) : State :=
  let who := s.cur
  match (s.queue (who / 2 ^ 32)).own, s.packet who with
  | some part, some p =>
    let h := launchHandles s part (p.tmpl.getD 1 0)
    let s := makeLevel (makeLevel (makeLevel (makeLevel s part h.1 0) part h.2.1 h.1) part h.2.2.1 h.2.1) part h.2.2.2 h.2.2.1
    let s := match s.level? part h.2.2.2 with
      | some l => s.setLevel part h.2.2.2 { l with outstanding := p.units, packet := some (who / 2 ^ 32, who % 2 ^ 32), phase := (s.part part).tag }
      | none => s
    let s := if p.image = [] then s else
      (s.partCores part).foldl (fun s k => s.updCore k fun c => applyImage c p.image) s
    let r := { recordOf (fun i => p.tmpl.getD i 0) part 0 (s.part part).tag 0 with level := h.2.2.2, corr := p.corr }
    let x : Placing := { body := { r with qtail := p.qtail }, next := 0, units := p.units, step := p.word 4, gang := if p.gang < 2 then 0 else p.gang,
                         pipes := p.pipes.map pipeEnds }
    s.updPart part fun q => { q with placing := q.placing ++ [x] }
  | _, _ => s

def execLaunch (s : State) : Out := .next (launchPacket s)

/-! ## Signals (R103) -/

def Part.signal (q : Part) (i : Nat) : W64 := Sp.get 0 q.signals i

/-- The signals a WAIT awaits, with their thresholds. -/
def waitPairs (q : Part) (p : Packet) : List (W64 × W64) :=
  (List.range p.waitCount).map fun i => (q.signal (p.waitSig i), p.word (1 + i))

/-- An abort (R99, R103): the WAIT and every copied packet that has not started are finished; HEAD goes to QTAIL. -/
def abortQueue (s : State) (qid : Nat) (p : Packet) : State :=
  let q := s.queue qid
  let rest := q.packets.filter fun r => !r.started
  let s := s.setQueue qid { q with st := 3, stopping := false, rej := p.corr, head := q.tail,
                                   packets := q.packets.map fun r => { r with started := true } }
  (p :: rest).foldl (fun s r => s.dueOp (completionOp (qid * 2 ^ 32 + r.idx.toNat) 3)) s

/-- The completion of a packet is under way: about to be performed, in flight, or stalled at a slice. -/
def State.completing (s : State) (who : Nat) : Bool :=
  (s.due ++ s.agenda ++ s.slices.flatMap fun x => x.2.stalled).any fun o => o.who == who && o.ins == .packetCompletion

/-- Evaluates a WAIT that holds its queue; one whose completion is under way holds it no more. -/
def evalWait (s : State) (qid : Nat) (p : Packet) : State :=
  let q := s.queue qid
  let who := qid * 2 ^ 32 + p.idx.toNat
  if s.completing who then s else
  let ps := waitPairs (s.part (q.own.getD noPart)) p
  if ps.any fun x => x.1.msb then abortQueue s qid p
  else if ps.all fun x => x.1.sle x.2 then s.dueOp (completionOp who 1) else s

/-- A partition's signals have changed: every WAIT that holds one of its queues is evaluated. -/
def signalsChanged (s : State) (part : Nat) : State :=
  ((s.dev (part / 32)).queues.filter fun q => q.2.own == some part).foldl (fun s q =>
    match q.2.packets.find? fun p => p.started && p.type == 2 with
    | some p => evalWait s (part / 32 * 64 + q.1) p
    | none => s) s

/-- Writes a signal. -/
def setSignal (s : State) (part i : Nat) (v : W64) : State :=
  signalsChanged (s.updPart part fun q => { q with signals := Sp.set 0 q.signals i v }) part

/-- WAIT of the packet State.cur. -/
def execWait (s : State) : Out :=
  .next (match s.packet s.cur with
    | some p => evalWait s (s.cur / 2 ^ 32) p
    | none => s)

/-- SIGNAL of the packet State.cur: the value after an OP that the spec does not name is a free value. -/
def execSignal (s : State) : Out :=
  .next (match (s.queue (s.cur / 2 ^ 32)).own, s.packet s.cur with
    | some part, some p =>
      let i := bits (p.word 1) 15 0
      let s := s.tick
      let v := match bits (p.word 1) 23 16 with
        | 0 => (s.part part).signal i + p.word 2
        | 1 => p.word 2
        | _ => Config.freeWord s.ticket
      (setSignal s part i v).dueOp (completionOp s.cur 1)
    | _, _ => s)

/-! ## COPY, TIMESTAMP, NOP (R101, R102) -/

/-- Bytes of a copy go into an instruction store (R57, R402): their second-tier source must be executable. -/
def copyExec (s : State) (part : Nat) (dst : W64) : Bool :=
  match s.globalTarget part dst with
  | some (.istore _ _) => true
  | _ => false

/-- What a step of a COPY packet moves: bytes on their way that arrive (1) or bytes that are read (0), the place of the first, and their
number. A free value picks; a step that stalled or was held has picked. -/
def copyPick (s : State) (p : Packet) : Option (W64 × Nat × Nat) :=
  match s.data with
  | [w, i, k] => some (w, i.toNat, k.toNat)
  | _ =>
    let n := pickOf s.ticket (p.flying.length + p.todo.length)
    match p.flying[n]? with
    | some f => some (1, f.1, f.2.1)
    | none =>
      (p.todo[n - p.flying.length]?).map fun r =>
        let i := r.1 + pickOf (s.ticket + 1) (r.2 - r.1)
        let left (a : W64) : Nat := blockLeft (a + BitVec.ofNat 64 i) 64
        (0, i, Nat.min (r.2 - i) (Nat.min (left (p.word 1)) (left (p.word 2))))

/-- A step of a COPY packet. -/
def copyStep (s : State) (who part : Nat) (p : Packet) : State :=
  let again (s : State) (p : Packet) : State :=
    let s := s.setPacket who p
    if p.todo = [] ∧ p.flying = [] then s.dueOp (completionOp who 1) else s.postOp { who := who, ins := .copy }
  let fail (s : State) : State := (s.setPacket who { p with todo := [], flying := [] }).dueOp (completionOp who 2)
  let s := s.tick
  match copyPick s p with
  | none => again s p
  | some (w, i, k) =>
    let s := s.tick
    let o : Op := { who := who, data := [w, BitVec.ofNat 64 i, BitVec.ofNat 64 k], ins := .copy }
    let dst := p.word 2 + BitVec.ofNat 64 i
    match if w = 1 then p.flying.find? fun f => f.1 == i else none with
    | some f =>
      match hwPart s part dst f.2.1 (some f.2.2.toNat) o with
      | .ok s _ => again s { p with flying := p.flying.erase f }
      | .refused s => fail s
      | .stalled s => s
    | none =>
      match hwPart s part (p.word 1 + BitVec.ofNat 64 i) k none o (copyExec s part dst) with
      | .ok s v => again s { p with todo := cutRange p.todo i (i + k), flying := p.flying ++ [(i, k, BitVec.ofNat 512 v)] }
      | .refused s => fail s
      | .stalled s => s

/-- COPY of the packet State.cur. -/
def execCopy (s : State) : Out :=
  .next (match (s.queue (s.cur / 2 ^ 32)).own, s.packet s.cur with
    | some part, some p =>
      if p.todo = [] ∧ p.flying = [] then
        let n := bits (p.word 3) 31 0
        if n = 0 then s.dueOp (completionOp s.cur 1) else (s.setPacket s.cur { p with todo := [(0, n)] }).postOp { who := s.cur, ins := .copy }
      else copyStep s s.cur part p
    | _, _ => s)

/-- TIMESTAMP of the packet State.cur. -/
def execTimestamp (s : State) : Out :=
  .next (match (s.queue (s.cur / 2 ^ 32)).own, s.packet s.cur with
    | some part, some p =>
      match hwBytes s part (p.word 1) 8 (some (s.ptpTime (s.cur / 2 ^ 32 / 64)).toNat) { who := s.cur, ins := .timestamp } with
      | .ok s' _ => s'.dueOp (completionOp s.cur 1)
      | .refused s' => s'.dueOp (completionOp s.cur 2)
      | .stalled s' => s'
    | _, _ => s)

/-- NOP of the packet State.cur. -/
def execNop (s : State) : Out := .next (s.dueOp (completionOp s.cur 1))

/-! ## Completion (R99, R102, R104) -/

/-- A queue that was told to stop is STOPPED once nothing that has started is left (R99). -/
def stopIfDone (q : Queue) : Queue := if q.stopping && !(q.packets.any fun p => p.started) then { q with st := 0, stopping := false } else q

/-- PACKET_COMPLETION of the packet State.cur, data its status: the completion record, SIGNAL-ON-DONE, and its place in the buffer. -/
def packetCompletion (s : State) : State :=
  let who := s.cur
  let qid := who / 2 ^ 32
  let q := s.queue qid
  match q.own, s.packet who with
  | some part, some p =>
    let status := (s.data.headD 1).toNat
    let done (s : State) : State :=
      let s := s.updQueue qid fun q => stopIfDone { q with packets := q.packets.filter fun r => r.idx != p.idx }
      if p.onDone ∧ status ≤ 2 then setSignal s part p.sig ((s.part part).signal p.sig - 1) else s
    let bad (s : State) : State := done (s.updQueue qid fun q => { q with cplerr := true })
    if q.cpl = 0 then bad s else
    let a := q.cpl + BitVec.ofNat 64 (p.idx.toNat % 2 ^ q.size * 16)
    match hwBytes s part a 16 (some (p.corr.toNat + status * 2 ^ 32 + 2 ^ 64 * (s.ptpTime (qid / 64)).toNat))
      { who := who, data := s.data, ins := .packetCompletion } with
    | .ok s _ => done s
    | .refused s => bad s
    | .stalled s => s
  | _, _ => s

def execPacketCompletion (s : State) : Out := .next (packetCompletion s)

/-! ## The host's registers of a queue (R98 to R100, R405, R458) -/

/-- A partition's endpoint may reach the registers of a queue: it owns it and is not being reset (R405, R416, R458). -/
def queueAllowed (s : State) (part qid : Nat) : Bool :=
  (s.part part).live && !(s.part part).resetting && (s.queue qid).own == some part

/-- Copies packets of a ring (R100): none where one cannot be read. -/
def copyPackets (s : State) (part : Nat) (q : Queue) (o : Op) (i : BitVec 32) : Nat → State × Option (List Packet) × Bool
  | 0 => (s, some [], false)
  | n + 1 =>
    match hwWords s part (q.base + BitVec.ofNat 64 (i.toNat % 2 ^ q.size * 64)) o 8 with
    | (s, none, st) => (s, none, st)
    | (s, some w, _) =>
      match copyPackets s part q o (i + 1) n with
      | (s, some l, st) => (s, some ({ idx := i, w := w, qtail := s.ticket + 1 } :: l), st)
      | r => r

/-- The buffer has room for `n` more packets of a queue (R100): 128 for each queue, the rest shared. -/
def bufferRoom (s : State) (qid n : Nat) : Bool :=
  let extra (k : Nat) : Nat := k - 128
  let shared := ((s.dev (qid / 64)).queues.map fun q => extra q.2.packets.length).sum
  let mine := (s.queue qid).packets.length
  decide (shared - extra mine + extra (mine + n) ≤ 16384 - 64 * 128)

/-- A request's order word (R404, R406): the length; the place in the order of its connection; the ROD connection, 0 for RUD,
0xFFFF for a request that uses an unsupported part (an atomic, a tagged send, RUDI, UUD). -/
def reqLen (w : W64) : Nat := bits w 31 0
def reqSeq (w : W64) : Nat := bits w 47 32
def reqConn (w : W64) : Nat := bits w 63 48
def reqBad (w : W64) : Bool := reqConn w == 0xFFFF

/-- A write of QTAIL from an endpoint (R100, R404). -/
def writeTail (s : State) (part qid : Nat) (v : BitVec 32) : State :=
  let q := s.queue qid
  let busy : State := (s.updDev (qid / 64) fun d => { d with busy := d.busy + 1 }).answer 2
  let o : Op := { who := qid, data := s.data, ins := .qtailWrite }
  if reqBad (s.data.getD 2 0) ∨ !queueAllowed s part qid then s.answer 1
  else if 2 ^ q.size < (v - q.head).toNat then busy
  else if (v - q.head).toNat < (q.tail - q.head).toNat then s.answer 1
  else if !bufferRoom s qid (v - q.tail).toNat then busy
  else if q.base.toNat % 64 ≠ 0 ∧ v ≠ q.tail then s.answer 1
  else
    match copyPackets s part q o q.tail (v - q.tail).toNat with
    | (s, some l, _) => (s.updQueue qid fun q => { q with tail := v, packets := q.packets ++ l }).answer 0
    | (s, none, false) => s.answer 1
    | (s, none, true) => s

/-- QTAIL_WRITE at the queue State.cur: data are the endpoint's partition, the value, and the request's order word. -/
def execQtailWrite (s : State) : Out :=
  .next (writeTail s (s.data.getD 0 0).toNat s.cur ((s.data.getD 1 0).setWidth 32))

/-- A write of 0 to STATE (R99). -/
def stopQueue (q : Queue) : Queue := if q.st = 1 then stopIfDone { q with stopping := true } else { q with st := 0 }

/-- A write of 1 to STATE (R99). -/
def resumeQueue (q : Queue) : Queue := if q.st = 1 then q else { q with st := 1, stopping := false }

/-- A write to QSTATUS (R98, R99). -/
def statusWrite (q : Queue) (v : W64) : Queue :=
  let q := if v.getLsbD 8 then { q with cplerr := false } else q
  match bits v 2 0 with
  | 0 => stopQueue q
  | 1 => resumeQueue q
  | _ => q

/-- A register write that an endpoint makes to a queue. -/
def queueWrite (s : State) (f : Queue → Queue) : State :=
  if queueAllowed s (s.data.getD 0 0).toNat s.cur then (s.updQueue s.cur f).answer 0 else s.answer 1

/-- QSTATUS_STOP, QSTATUS_RESUME and CPLERR_CLEAR at the queue State.cur: data is the endpoint's partition. -/
def execQstatusStop (s : State) : Out := .next (queueWrite s stopQueue)
def execQstatusResume (s : State) : Out := .next (queueWrite s resumeQueue)
def execCplerrClear (s : State) : Out := .next (queueWrite s fun q => { q with cplerr := false })

/-- Assigns a queue, or takes its assignment away (R458): every register returns to its reset value. -/
def assignQueue (s : State) (qid : Nat) (own : Option Nat) : State := s.setQueue qid { own := own }

/-- An assignment may change only while STATE is 0 and nothing that has started is left. -/
def queueIdle (q : Queue) : Bool := q.st == 0 && !q.packets.any fun p => p.started

/-- QOWN_WRITE of the queue State.cur by partition management: data is the word of QOWN. -/
def execQownWrite (s : State) : Out :=
  .next (let v := s.data.headD 0
    if (s.dev (s.cur / 64)).boot.recovery ∨ !queueIdle (s.queue s.cur) then s.answer 1
    else (assignQueue s s.cur (if v.getLsbD 5 then some (s.cur / 64 * 32 + bits v 4 0) else none)).answer 0)

/-- HOST_SIGNAL_WRITE of the partition State.cur: data are the signal's number and the value (R103, R405). -/
def execHostSignalWrite (s : State) : Out :=
  .next (let i := (s.data.getD 0 0).toNat
    if !(s.part s.cur).live ∨ (s.part s.cur).resetting ∨ 1024 ≤ i then s.answer 1
    else (setSignal s s.cur i (s.data.getD 1 0)).answer 0)

/-! ## The host window (R405, R406) -/

/-- The registers of a queue by their offset, as the host reads them (R98). -/
def queueReg (q : Queue) (off : Nat) : Option W64 :=
  match off with
  | 0x00 => some q.base
  | 0x08 => some (BitVec.ofNat 64 q.size)
  | 0x10 => some q.cpl
  | 0x18 => some (q.tail.setWidth 64)
  | 0x20 => some (q.head.setWidth 64)
  | 0x28 => some (BitVec.ofNat 64 (q.st + if q.cplerr then 256 else 0))
  | 0x30 => some (q.rej.setWidth 64)
  | _ => none

/-- PSTATE (R417). -/
def Part.pstate (q : Part) : W64 :=
  BitVec.ofNat 64 (q.resets.toNat * 2 ^ 16 + q.resetCause % 256 * 2 ^ 8 + if q.resetting then 1 else 0)

/-- Reads a register of a partition's window; none for the error response. PSTATE answers while a reset is in progress too. -/
def windowRead (s : State) (part off : Nat) : Option W64 :=
  let q := s.part part
  if !q.live ∨ off % 8 ≠ 0 then none
  else if off = 0x1000 then some q.pstate
  else if q.resetting then none
  else if off < 0x1000 then
    if queueAllowed s part (part / 32 * 64 + off / 64) then queueReg (s.queue (part / 32 * 64 + off / 64)) (off % 64) else none
  else if 0x2000 ≤ off ∧ off < 0x4000 then some (q.signal ((off - 0x2000) / 8)) else none

/-- A write of QBASE, QSIZE or QCPL (R98): only while STATE is 0; none for the error response. -/
def plainWrite (q : Queue) (off : Nat) (v : W64) : Option Queue :=
  match off with
  | 0x00 => if q.st = 0 then some { q with base := v } else none
  | 0x08 => if q.st ≠ 0 then none else if 6 ≤ bits v 4 0 ∧ bits v 4 0 ≤ 16 then some { q with size := bits v 4 0 } else some q
  | 0x10 => if q.st = 0 then some { q with cpl := v } else none
  | 0x20 | 0x30 => some q
  | _ => none

/-- A write of a register of a partition's window by its host. -/
def windowWrite (s : State) (part off : Nat) (v : W64) : State :=
  let q := s.part part
  let qid := part / 32 * 64 + off / 64
  if !q.live ∨ q.resetting ∨ off % 8 ≠ 0 then s.answer 1
  else if off = 0x1000 then s.answer 0
  else if 0x2000 ≤ off ∧ off < 0x4000 then (setSignal s part ((off - 0x2000) / 8) v).answer 0
  else if 0x1000 ≤ off ∨ !queueAllowed s part qid then s.answer 1
  else if off % 64 = 0x18 then writeTail { s with data := [BitVec.ofNat 64 part, v, s.data.getD 1 0] } part qid (v.setWidth 32)
  else if off % 64 = 0x28 then (s.updQueue qid fun q => statusWrite q v).answer 0
  else match plainWrite (s.queue qid) (off % 64) v with
    | some q => (s.setQueue qid q).answer 0
    | none => s.answer 1

/-- The first window offset of second-tier memory. -/
def windowMemory : Nat := 0x0100000000000000

/-- The global address of a second-tier byte of a partition's device. -/
def tierAddr (part va : Nat) : W64 := BitVec.ofNat 64 (2 ^ 56 + part / 32 * 2 ^ 46 + va % 2 ^ 46)

/-- Every byte of a range may be reached for a partition (R405): one look at each page. -/
def rangeOk (s : State) (part va : Nat) (wr : Bool) : Nat → Nat → Bool
  | 0, _ => true
  | pages + 1, n =>
    let p := part
    let k := Nat.min n (65536 - va % 65536)
    (match s.walk (part / 32) p va with
      | some (e, _) => pteCheck e p (!wr) wr == .ok
      | none => false) && (n ≤ k || rangeOk s part (va + k) wr pages (n - k))

/-- Reads `n` bytes from a second-tier address, line by line. -/
def hostReadBytes (s : State) (part va : Nat) (o : Op) : Nat → Nat → State × Option (List W64) × Bool
  | 0, _ => (s, some [], false)
  | fuel + 1, n =>
    let k := Nat.min n 8
    match hwBytes s part (tierAddr part va) k none o with
    | .refused s => (s, none, false)
    | .stalled s => (s, none, true)
    | .ok s v =>
      if n ≤ k then (s, some [BitVec.ofNat 64 v], false) else
      match hostReadBytes s part (va + k) o fuel (n - k) with
      | (s, some l, st) => (s, some (BitVec.ofNat 64 v :: l), st)
      | r => r

/-- The ROD connection a write is carried on, with its place there. -/
def Op.rod (o : Op) : Option (Nat × Nat × Nat) :=
  let q : Nat × W64 := match o.ins with
    | .hostRmaWrite => (o.who, o.data.getD 1 0)
    | .qtailWrite => ((o.data.getD 0 0).toNat, o.data.getD 2 0)
    | _ => (0, 0)
  if reqConn q.2 = 0 ∨ reqBad q.2 then none else some (q.1, reqConn q.2, reqSeq q.2)

/-- No earlier write of its ROD connection is still to be performed (R406). -/
def rodTurn (s : State) (o : Op) : Bool :=
  match o.rod with
  | none => true
  | some x => !((s.due ++ s.agenda ++ s.slices.flatMap fun x => x.2.stalled).any fun q => match q.rod with
    | none => false
    | some y => y.1 == x.1 && y.2.1 == x.2.1 && y.2.2 != x.2.2 && decide ((x.2.2 + 2 ^ 16 - y.2.2) % 2 ^ 16 < 2 ^ 15))

/-- HOST_RMA_READ at the endpoint of the partition State.cur: data are the window offset and the order word; a register, or bytes of
second-tier memory in words of eight. -/
def hostRmaRead (s : State) : State :=
  let part := s.cur
  let off := (s.data.getD 0 0).toNat
  let n := reqLen (s.data.getD 1 0)
  if reqBad (s.data.getD 1 0) then s.answer 1
  else if off < windowMemory then
    if n ≠ 8 then s.answer 1 else
    match windowRead s part off with
    | some v => s.answer 0 [v]
    | none => s.answer 1
  else
    let va := off - windowMemory
    if !(s.part part).live ∨ (s.part part).resetting ∨ n = 0 ∨ 2 ^ 46 < va + n ∨ (s.kept.isEmpty ∧ !rangeOk s part va false (n / 65536 + 2) n) then s.answer 1
    else
      match hostReadBytes s part va { who := part, data := s.data, ins := .hostRmaRead } (n / 8 + 1) n with
      | (s, some l, _) => s.answer 0 l
      | (s, none, false) => s.answer 1
      | (s, none, true) => s

def execHostRmaRead (s : State) : Out := .next (hostRmaRead s)

/-- HOST_RMA_WRITE at the endpoint of the partition State.cur: data are the window offset, the order word, and the bytes in words of eight.
To memory the first eight bytes are written here; what is left follows in an operation of its own (R406). -/
def hostRmaWrite (s : State) : State :=
  let part := s.cur
  let off := (s.data.getD 0 0).toNat
  let x := s.data.getD 1 0
  let n := reqLen x
  let w := s.data.drop 2
  if reqBad x then s.answer 1
  else if off < windowMemory then (if n ≠ 8 then s.answer 1 else windowWrite s part off (w.headD 0))
  else
    let va := off - windowMemory
    if !(s.part part).live ∨ (s.part part).resetting ∨ n = 0 ∨ 2 ^ 46 < va + n ∨ (s.kept.isEmpty ∧ !rangeOk s part va true (n / 65536 + 2) n) then s.answer 1
    else
      let k := Nat.min n 8
      match hwBytes s part (tierAddr part va) k (some (w.headD 0).toNat) { who := part, data := s.data, ins := .hostRmaWrite } true with
      | .ok s _ =>
        if n ≤ k then s.answer 0
        else s.postOp { who := part, data := BitVec.ofNat 64 (off + k) :: (x - BitVec.ofNat 64 k) :: w.drop 1, ins := .hostRmaWrite }
      | .refused s => s.answer 1
      | .stalled s => s

def execHostRmaWrite (s : State) : Out := .next (hostRmaWrite s)

end Sys2Proof.Machine
end

