-- ==== Sys2Proof/Machine/Management.lean ====
section
/-! DEFINITION. Partition management, budgets, power, links and routers (R56, R70, R128, R129, R147, R404, R408 to R424, R439): what the
firmware column and the hall do to a device. -/

namespace Sys2Proof.Machine
open Sys2Proof

/-! ## Partitions come to be (R56, R79, R128, R411, R439, R458) -/

/-- The highest core of a cluster that its partition sees (R14, R56). -/
def State.lastCore (s : State) (c : Nat) : Nat := if c % 16 = 15 then 127 - (s.dev (clusterDev c)).w else 127

/-- Segment entry 15 as partition management writes it at creation and at a reset (R56). -/
def State.segment15 (s : State) (c part : Nat) : W64 :=
  BitVec.ofNat 64 (part % 32 * 2 ^ 52 + s.lastCore c * 2 ^ 38 + 0x3E00000000)

/-- Gives a cluster to a partition, under a number of its own. -/
def giveCluster (s : State) (part c rel : Nat) : State :=
  s.updCluster c fun x => { x with part := some part, rel := rel, seg := [(15, s.segment15 c part)] }

/-- Gives the clusters of a map to a partition. -/
def giveClusters (s : State) (part : Nat) (l : List Nat) : State :=
  l.zipIdx.foldl (fun s c => giveCluster s part c.1 c.2) s

/-- The cycle of the next 10 µs boundary of PTP time (R147). -/
def nextPeriod (s : State) (d : Nat) : Nat := s.now + Nat.max 1 (((10000 - (s.ptpTime d).toNat % 10000) * 8 + 4) / 5)

/-- Starts what a partition's blocks do at regular times (R96, R141, R147, R176). -/
def armPartition (s : State) (part : Nat) (l : List Nat) : State :=
  let s := (s.postAt (s.now + 4096) .phaseSweep part).postAt (nextPeriod s (part / 32)) .budgetPeriod part
  l.foldl (fun s c => (s.postAt (s.now + 1024) .clusterReport c).postAt (s.now + 512) .stealProbe c) s

/-- The role of a core (R439). -/
def State.role (s : State) (core : Nat) : Nat := Sp.get 0 (s.dev (core / 16384)).boot.roles (core % 16384)

/-- A core of the firmware column with the role of fault service (R14, R439). -/
def State.serviceCore (s : State) (d core : Nat) : Bool :=
  clusterDev (coreCluster core) == d && coreCluster core % 16 == 15 && !s.coreVisible (coreCluster core) (core % 128) &&
    s.role core == 1

/-- The fault-service core a partition is assigned (R439), as 1 more than the core. -/
def State.serviceOk (s : State) (d : Nat) (v : W64) : Bool := v != 0 && s.serviceCore d (v.toNat - 1)

/-- Class bindings that partition management writes at a creation or a reset (R79, R415): pairs of a place in the partition
((relative cluster * 128 + core) * 16 + class) and a binding word. -/
def bindClasses (s : State) (part : Nat) : List W64 → State
  | k :: w :: l =>
    match s.physCluster part (k.toNat / 2048) with
    | none => bindClasses s part l
    | some c => bindClasses (s.updCore (c * 128 + k.toNat / 16 % 128) fun x => x.setCls (k.toNat % 16) (w &&& 0xF77FE00)) part l
  | _ => s

/-- A binding of a list has a misaligned BASE (R79), or the list has half a pair. -/
def classesBad : List W64 → Bool
  | [] => false
  | [_] => true
  | _ :: w :: l => classBad w || classesBad l

/-- PARTITION_CREATE of the partition State.cur: data are the number of clusters, 1 more than the fault-service core, the quotas of
level records and timer releases, a mask of queues, page-table root, SCALEBASE, WDOGWIN, the clusters, and class bindings. -/
def partitionCreate (s : State) : State :=
  let part := s.cur
  let dev := part / 32
  match s.data with
  | n :: fault :: ql :: qt :: mask :: root :: scale :: wdog :: rest =>
    let l := (rest.take n.toNat).map BitVec.toNat
    let queues := (List.range 64).filter fun q => mask.getLsbD q
    if (s.part part).live ∨ (s.dev dev).boot.recovery ∨ n = 0 ∨ 128 < n.toNat ∨ l.length ≠ n.toNat ∨ l.eraseDups.length ≠ l.length ∨
        (l.any fun c => clusterDev c != dev || (s.cluster c).part.isSome || (s.slice c).dead) ∨
        (queues.any fun q => !queueIdle (s.queue (dev * 64 + q))) ∨ !s.serviceOk dev fault ∨ classesBad (rest.drop n.toNat) then s.answer 1
    else
      let p : Part := { live := true, clusters := l, root := root, scalebase := scale &&& ~~~(3 : W64), wdogwin := wdog &&& 0xFFFFFFFF,
                        faultCore := some (fault.toNat - 1), quotaLevels := ql.toNat, quotaTimers := qt.toNat }
      let s := bindClasses (giveClusters (s.setPart part p) part l) part (rest.drop n.toNat)
      let s := queues.foldl (fun s q => assignQueue s (dev * 64 + q) (some part)) s
      (armPartition s part l).answer 0
  | _ => s.answer 1

def execPartitionCreate (s : State) : Out := .next (partitionCreate s)

/-! ## Partition reset (R415 to R417) -/

/-- The slots of a partition that hold a context, or have a saved one. -/
def State.partSlots (s : State) (part : Nat) : List Nat :=
  (s.slots.filter fun t => s.partOf (slotCluster t.1) == part).map Prod.fst

/-- Stops a queue of a partition that is reset (R415): packets that have not started complete with ABORTED. -/
def resetQueue (s : State) (qid : Nat) : State :=
  let q := s.queue qid
  let rest := q.packets.filter fun p => !p.started
  let s := s.setQueue qid { q with st := 0, stopping := false, head := q.tail, packets := q.packets.map fun p => { p with started := true } }
  rest.foldl (fun s p => s.dueOp (completionOp (qid * 2 ^ 32 + p.idx.toNat) 3)) s

/-- The queues a partition owns. -/
def State.partQueues (s : State) (part : Nat) : List Nat :=
  ((s.dev (part / 32)).queues.filter fun q => q.2.own == some part).map fun q => part / 32 * 64 + q.1

/-- Kills a saved context (R175, R415): its unit's ports, lease, tables, region, barriers and level, then its frames. What its frame holds is
read while it can be. -/
def killSaved (s : State) (slot : Nat) (c : Saved) : State :=
  let t : Slot := match readFrames s slot c with
    | some (_, img, ext) => loadImage (s.slot slot) c img ext
    | none => {}
  let s := freeLease (closePorts s slot c.gen 8) slot c.gen
  let s := s.postAll (producerKills s slot c.gen c.part t.stack)
  let s := match c.region with
    | some h => s.post (.regionMemberKilled c.part h slot c.gen)
    | none => s
  freeSaved ((s.postAll (departures c.part slot c.gen c.level t.bars)).postOp (endedOp c.home c.level (if t.guardPend then 1 else 0))) slot c

/-- Kills what a slot holds (R175, R415): its unit, and its saved contexts; no launch counts an error for it but for a GUARD report still pending
(R139). -/
def killSlot (s : State) (slot : Nat) : State :=
  let s := if (s.slot slot).st = .idle then s else unitEnd s slot true false
  let s := (s.slot slot).saved.foldl (fun s c => killSaved s slot c) s
  s.updSlot slot fun t => { t with saved := [] }

/-- Requests pre-emption of every slot of a partition, before a reset or a reconfiguration (R182). -/
def askPreemption (s : State) (part : Nat) : State :=
  { s with slots := s.slots.map fun (t : Nat × Slot) =>
      if s.partOf (slotCluster t.1) = part ∧ t.2.st ≠ .idle then (t.1, { t.2 with preempt := some (t.2.preempt.getD 0) }) else t }

/-- Discards the queued records of a partition (R415): ready queues, inbox rings, timer releases, units still to be placed. -/
def discardRecords (s : State) (part : Nat) : State :=
  let s := { s with
    clusters := s.clusters.map fun (c : Nat × Cluster) => if c.2.part = some part then (c.1, { c.2 with ready := [] }) else c
    cores := s.cores.map fun (c : Nat × Core) => if s.partOf (coreCluster c.1) = part
      then (c.1, { c.2 with heads := c.2.tails, entries := [], placed := false }) else c }
  (s.updDev (part / 32) fun d => { d with wheel := d.wheel.filter fun r => r.part != part }).updPart part fun q => { q with placing := [] }

/-- Ends a halt of a cluster (R427): what was written meanwhile takes effect. -/
def endHalt (x : Cluster) (cause now : Nat) : Cluster :=
  { x with dbgNext := none }.withDbg (dbgSet (x.dbgNext.getD x.dbgctl) cause false) now

/-- Raises the GEN of every slot of a cluster (R416), so that what is on its way to what they have held is dropped (R27). -/
def raiseGens (s : State) (c : Nat) : State :=
  { s with slots := (List.range 1024).foldr (fun j (m : Sp Slot) =>
      let t := s.slot (c * 1024 + j)
      Sp.put m (c * 1024 + j) { t with gen := t.genNext, genNext := t.genNext + 1 }) s.slots }

/-- Steps 1 and 2 of a reset. -/
def resetBegins (s : State) (part cause : Nat) : State :=
  let s := (s.partQueues part).foldl resetQueue s
  let s := discardRecords ((s.clustersOf part).foldl raiseGens ((s.partSlots part).foldl killSlot s)) part
  let cs := s.clustersOf part
  let s := cs.foldl (fun s c => s.updCluster c fun x => if dbgHalt x.dbgctl then endHalt x 4 s.now else x) s
  let open' := cs.flatMap fun c => ((s.cluster c).regions.filter fun r => r.2.part == part && r.2.st == 1).map fun r =>
    abortRequest s (c * 1024 + r.1) 4 (r.2.gen.setWidth 64)
  (s.postAll open').updPart part fun q => { q with resetting := true, resetCause := cause }

/-- Nothing is left that a reset must wait for (R203, R415): writes of killed units, copies, readout writes on their way, regions that install or
discard. -/
def resetSettled (s : State) (part : Nat) : Bool :=
  !(s.orphans.any fun o : Orphan => s.partOf (slotCluster o.slot) == part) && !(s.copies.any fun j => j.2.part == part) &&
    (s.clustersOf part).all fun c => (s.cluster c).arr.flying.isEmpty &&
      !((s.cluster c).regions.any fun r => r.2.part == part && (r.2.st == 1 || r.2.st == 2 || r.2.st == 3))

/-- A core after partition clearing (R415): PROT, the copy masks and the event counters stay. -/
def clearCore (c : Core) : Core :=
  { c with guards := [], tagCfg := 2, tags := [], binds := [], classes := [], heads := [], tails := [], ports := [], entries := [],
           placed := false }

/-- A cluster after partition clearing: segment table and cluster map are written anew, the event counters stay (R149). -/
def clearCluster (x : Cluster) : Cluster :=
  { x with ready := [], dc := [], firing := [], syncHeld := [], pigeon := [], conf := [],
           confq := x.confq.map (fun q => (q.1, { q.2 with gen := 0, head := 0, tail := 0 })), lastSel := [], selected := 0, pops := [],
           held := [], haltHeld := [], regions := x.regions.map (fun r => (r.1, { ({} : Region) with gen := r.2.gen })), faultWait := [],
           arr := { x.arr.discard with holder := none, ended := false, freeing := false, grace := none, stopHeld := false, leaseQ := [],
                                       waitQ := [], flying := [], img := {}, latch := none, tlines := [], fences := [] } }

/-- A location in the scratchpad or instruction store of a partition's core. -/
def State.ownsByte (s : State) (part loc : Nat) : Bool :=
  if loc < 2 ^ 44 then s.partOf (loc / 2 ^ 19 / 128) == part
  else decide (loc < 2 ^ 45) && s.partOf ((loc - 2 ^ 44) / 2 ^ 15 / 128) == part

/-- What travels for a partition that is cleared and would start units of it again. -/
def opOfPart (part : Nat) (o : Op) : Bool :=
  match o.ins with
  | .messageInjection m => m.part == part
  | .messageArrival m => m.part == part
  | .messageRetry m => m.part == part
  | .levelUpdate u => u.part == part
  | .dcDecrement p _ _ _ _ _ => p == part
  | .dcSetArrival p _ _ _ _ _ _ _ _ => p == part
  | .tabledRequest r => r.part == part
  | .tabledAnswer _ p _ _ _ _ _ => p == part
  | .barrierArrival p _ _ _ _ _ => p == part
  | .barrierDeparture p _ _ _ _ => p == part
  | .regionMemberKilled p _ _ _ => p == part
  | .unitPlacement | .gangPlacement => o.who == part
  | _ => false

/-- Records on their way to the ready queue of a cluster of a partition, and kills of Pigeonhole entries there. -/
def State.recordFor (s : State) (part : Nat) (o : Op) : Bool :=
  match o.ins with
  | .recordEnqueue c _ => s.partOf c == part
  | .enqueueRetry c _ => s.partOf c == part
  | .producerKill c _ _ _ => s.partOf c == part
  | .dcFire | .cqPushArrival | .cqPushRetry | .cqPopRequest => s.partOf o.who == part
  | _ => false

/-- Steps 4 and 5 of a reset: clearing, and what partition management writes anew, from `words`: SCALEBASE, which keeps its value without
words, and class bindings. A cluster whose router and bypass have failed leaves the map (R419). -/
def resetClears (s : State) (part : Nat) (words : List W64) : State :=
  let old := s.clustersOf part
  let mine (o : Op) : Bool := opOfPart part o || s.recordFor part o
  let s := { s with
    mem := s.mem.filter (fun b => !s.ownsByte part b.1)
    unseen := s.unseen.filter (fun u => !s.ownsByte part u.1)
    cores := s.cores.map fun (c : Nat × Core) => if s.partOf (coreCluster c.1) = part then (c.1, clearCore c.2) else c
    slots := s.slots.map fun (t : Nat × Slot) => if s.partOf (slotCluster t.1) = part
      then (t.1, { ({} : Slot) with gen := t.2.gen, genNext := t.2.genNext }) else t
    clusters := s.clusters.map fun (c : Nat × Cluster) => if c.2.part = some part then (c.1, clearCluster c.2)
      else (c.1, { c.2 with faultWait := c.2.faultWait.filter fun r => r.part != part })
    slices := s.slices.map fun (x : Nat × Slice) => (x.1, { x.2 with ws := x.2.ws.filter fun e => e.part != part })
    levels := s.levels.filter fun l => l.1 / 2 ^ 64 != part
    parked := s.parked.filter fun p => s.partOf (slotCluster p.slot) != part
    barWait := s.barWait.filter fun b => s.partOf (slotCluster b.who.slot) != part
    agenda := s.agenda.filter fun o => !mine o
    timers := s.timers.map fun (t : Nat × List Op) => (t.1, t.2.filter fun o => !mine o) }
  let s := s.updDev (part / 32) fun d => { d with wheel := d.wheel.filter fun r => r.part != part }
  let s := (s.partQueues part).foldl (fun s q => s.updQueue q fun x => { x with packets := [] }) s
  let l := old.filter fun c => !(s.slice c).dead
  let s := (old.filter fun c => (s.slice c).dead).foldl (fun s c => s.updCluster c fun x => { x with part := none, rel := 0, seg := [] }) s
  let s := bindClasses (giveClusters s part l) part words.tail
  s.updPart part fun q =>
    { q with clusters := l, scalebase := (words.head?.map fun w => w &&& ~~~(3 : W64)).getD q.scalebase, decls := [], signals := [], useInj := 0, useSlice := 0, useCour := 0, sweep := none, quiet0 := false, quiet1 := false,
             rr := 0, quiets := [], placing := [], idle := [], resets := q.resets + 1, resetting := false }

/-- PARTITION_RESET of the partition State.cur: data are the cause (1 request, 2 uncorrectable error, 3 router failure), SCALEBASE and class
bindings (R79). Pre-emption of every slot is requested first (R182); the reset then begins (cause + 256), and it ends (cause + 512) once what it
waits for is done. A request made while it is in progress is part of it. -/
def partitionReset (s : State) : State :=
  let part := s.cur
  let q := s.part part
  let v := s.data.headD 1
  let again (n : W64) : Op := { who := part, data := (v + n) :: s.data.tail, ins := .partitionReset }
  if !q.live ∨ classesBad (s.data.drop 2) then s.answer 1
  else match v.toNat / 256 with
    | 0 => if q.resetting then s.answer 0 else (askPreemption s part).postOp (again 256)
    | 1 => if q.resetting then s.answer 0 else (resetBegins s part (v.toNat % 256)).postOp (again 256)
    | _ => if !q.resetting then s.answer 0 else if resetSettled s part then (resetClears s part s.data.tail).answer 0 else s.postOnce (again 0)

def execPartitionReset (s : State) : Out := .next (partitionReset s)

/-- An error corrected in an SRAM block of the cluster State.cur is counted (R70, R131, R146): blocks 0 to 2 of a core, 3 its memory slice,
4 to 8 of the cluster, 9 and 10 of its device's base die. -/
def eccCorrected (s : State) (block n : Nat) : State :=
  let up (m : Sp (BitVec 32)) : Sp (BitVec 32) := Sp.set 0 m block (Sp.get 0 m block + 1)
  if block < 3 then s.updCore (s.cur * 128 + n % 128) fun c => { c with count := { c.count with eccfix := up c.count.eccfix } }
  else if block = 3 then s.updSlice s.cur fun x => { x with eccfix := x.eccfix + 1 }
  else if block < 9 then s.updCluster s.cur fun x => { x with eccfix := up x.eccfix }
  else s.updDev (clusterDev s.cur) fun v => { v with eccfix := up v.eccfix }

/-- A slot's group at its PC has read, on path I or in its own core's memory on path C, what has an uncorrectable error: no value comes, and its
destination, by code plus 1, stays EMPTY. -/
def issueLost (s : State) (slot : Nat) (gen : BitVec 32) (dest : Nat) : State :=
  let t := s.slot slot
  if t.st = .idle ∨ t.gen ≠ gen ∨ !t.atGroup then s else
  let ds := if dest = 0 then [] else [dest - 1]
  let o : Outst := { tag := s.plainTag, pc := t.pc, access := false, vector := false, dests := ds, lines := [], write := false,
                     acc := none, held := false, reply := none, len := 1, soft := false }
  s.tick.setSlot slot { t.markEmpty ds with st := .waiting (.answer o.tag), outst := t.outst ++ [o] }

/-- A page that no wake names. -/
def noPage : Nat := 2 ^ 62

/-- The reader of a word with an uncorrectable error gets no value (R70), by its path: 0 C, a slot's access by its tag; 1 Y, a copy by its tag;
2 T, the array of a cluster; 3 Q, by a kind: 0 a host's read in a partition, 1 a packet of a queue, 2 the record of a cluster's fired counter;
4 what a slot reads as it issues. -/
def eccLost (s : State) (path who gen tag : Nat) : State :=
  match path with
  | 0 => dropFlying s who (BitVec.ofNat 32 gen) tag
  | 1 => match Sp.find s.copies who with
    | some j => dropCopy s j who
    | none => s
  | 2 =>
    let mine (o : Op) : Bool := o.who == who && (o.ins == .macroStep || o.ins == .readout)
    { s with agenda := s.agenda.filter fun o => !mine o }.updArr who fun a => { a with page := some (noPage, 0, 0) }
  | 3 => match gen with
    | 0 =>
      let mine (o : Op) : Bool := o.who == who && o.ins == .hostRmaRead
      if s.agenda.any mine then { s with agenda := s.agenda.filter (fun o => !mine o), out := s.out ++ [{ who := who, status := 1, data := [] }] }
      else s
    | 1 =>
      let mine (o : Op) : Bool := o.who == who * 2 ^ 32 + tag && o.ins == .copy
      { s with agenda := s.agenda.filter fun o => !mine o }.updQueue who fun q => { q with packets := q.packets.map fun (p : Packet) =>
        if p.idx.toNat = tag then { p with started := true, todo := [], flying := [] } else p }
    | _ => s.updCluster who fun k => { k with firing := k.firing.filter fun f => f.id != tag }
  | _ => issueLost s who (BitVec.ofNat 32 gen) tag

/-- ECC_UNCORRECTABLE (R70): data are the reader, by its path and three words, whose value is lost, and the partitions whose state the word
holds, which are reset. An error that is corrected comes as two words: its block and core in the cluster State.cur. -/
def eccUncorrectable (s : State) : State :=
  match s.data with
  | [block, n] => eccCorrected s block.toNat n.toNat
  | path :: who :: gen :: tag :: ps =>
    ps.foldl (fun s p => if (s.part p.toNat).live then s.postOp { who := p.toNat, data := [2], ins := .partitionReset } else s)
      (eccLost s path.toNat who.toNat gen.toNat tag.toNat)
  | _ => s

def execEccUncorrectable (s : State) : Out := .next (eccUncorrectable s)

/-! ## Budgets (R147, R413) -/

/-- BUDGET_PERIOD of the partition State.cur: the counters clear, limits written since take effect, and held
traffic goes on, counted in the new period. -/
def budgetPeriod (s : State) : State :=
  let part := s.cur
  if !(s.part part).live then s else
  let s := s.updPart part fun q =>
    { q with useInj := 0, useSlice := 0, useCour := 0, budInj := q.newInj.getD q.budInj, budSlice := q.newSlice.getD q.budSlice,
             budCour := q.newCour.getD q.budCour, newInj := none, newSlice := none, newCour := none }
  let s := releaseHeld s part
  s.postAt (nextPeriod s (part / 32)) .budgetPeriod part

def execBudgetPeriod (s : State) : Out := .next (budgetPeriod s)

/-! ## The host's sends (R174, R404) -/

/-- HOST_SEND at the endpoint of the partition State.cur: data are place, handler PC, two argument words and the order word, which may say
that it is a tagged send or uses RUDI or UUD (R404). The unit has no level, correlation number or frame pool. -/
def hostSend (s : State) : State :=
  let part := s.cur
  match s.data with
  | place :: pc :: a0 :: a1 :: rest =>
    if reqBad (rest.headD 0) ∨ !(s.part part).live ∨ (s.part part).resetting ∨ bits place 35 0 ≠ 0 ∨ 0x4000 ≤ pc.toNat then s.answer 1 else
    match s.placeOf part place with
    | none => s.answer 1
    | some (core, cls) =>
      let tag := (s.part part).tag
      let r : TaskRec := { pc := pc.setWidth 15, noSteal := false, level := 0, home := part, pri := 0, cls := cls, corr := 0, pool := 0, args := [a0, a1],
                           source := 5, phase := tag, key := 0, header := 0, enq := 0 }
      let m : Msg := { src := officeNi part, dst := core, cls := cls, gen := 0, part := part, isTask := false, body := r, seq := 64 * s.ticket,
                       after := [], lines := [], tries := 0, place := place, slot := 0, sgen := 0, tag := 0, idx := 0 }
      (s.tick.send (officeNi part) part tag { ins := .messageArrival m }).answer 0
  | _ => s.answer 1

def execHostSend (s : State) : Out := .next (hostSend s)

/-! ## Power (R420 to R423) -/

/-- PWRCAP as it reads back, and PWRSLOPE after a write (R423). -/
def capWrite (v : W64) : Nat := Nat.min (bits v 12 0) 4400
def slopeWrite (old : Nat) (v : W64) : Nat := if 50 ≤ bits v 9 0 ∧ bits v 9 0 ≤ 500 then bits v 9 0 else old

/-- The least and the greatest estimate the limits allow (R420): the cap, and PWRSLOPE against every sample of the last 1 ms. -/
def powerLow (v : Device) : Nat := (v.pwrnow :: v.pwrhist).foldl (fun b p => Nat.max b (p - v.pwrslope)) 0
def powerHigh (v : Device) : Nat := (v.pwrnow :: v.pwrhist).foldl (fun b p => Nat.min b (p + v.pwrslope)) v.pwrcap

/-- The power of a partition as it is estimated (R422): a free value of at most the module's; one below the floor rises, by filler steps of
its arrays, up to the floor as far as they can. -/
def partPower (t now : Nat) (q : Part) : Nat :=
  let p := pickOf t (now + 1)
  if p < q.pfloor.toNat then Nat.min (Nat.max p now) (p + pickOf (t + 1) (q.pfloor.toNat - p + 1)) else p

/-- The terms the columns of an array have applied (R142). -/
def TermArray.termsCount (a : TermArray) : BitVec 48 := (List.range 32).foldl (fun n g => n + Sp.get 0 a.ctr (g * 8 + 1)) 0

/-- A microsecond of a cluster's array: `gated` of its 800 array cycles do not run, and a filler step takes the cycle of a column that has no
real term in it (R421), of which the columns have `owed` left from before; `want` picks how many, at least one where `low` says so (R422). -/
def powerArray (k : Cluster) (gated : Nat) (want : Nat → Nat) (low : Bool) : Cluster :=
  let terms := k.arr.termsCount
  let cols := 512 * (800 - gated)
  let real := k.owed + (terms - k.terms).toNat
  let room := cols - real
  let n := want (room + 1)
  { k with filler := k.filler + BitVec.ofNat 32 (Nat.min room (if low then Nat.max 1 n else n)), terms := terms, owed := real - cols,
           arr := { k.arr with gap := k.arr.gap + gated } }

/-- POWER_GOVERNOR_UPDATE of the device State.cur, each microsecond: the estimate is a free value within its limits; filler, in the arrays
of a partition below its floor at least, and gated array cycles are free values. -/
def powerUpdate (s : State) : State :=
  let d := s.cur
  let v := s.dev d
  let t := s.ticket
  let lo := powerLow v
  let hi := powerHigh v
  let now := Nat.min hi (lo + pickOf (t + 1) (hi + 1 - lo))
  let low (q : Part) (i : Nat) : Bool := decide (partPower (t + 5 + i * 2 ^ 32) now q < q.pfloor.toNat)
  let s := { s with ticket := t + 4 }
  let s := s.setDev d { v with pwrnow := now, pwrfill := pickOf (t + 2) (now + 1), pwrhist := (v.pwrnow :: v.pwrhist).take 1000 }
  { s with
    clusters := s.clusters.map fun (c : Nat × Cluster) => if clusterDev c.1 ≠ d then c else
      (c.1, powerArray c.2 (pickOf (t + 4 + c.1 * 2 ^ 32) 801) (pickOf (t + 3 + c.1 * 2 ^ 32)) ((c.2.part.map fun p => low (s.part p) p).getD false))
    parts := s.parts.map fun (p : Nat × Part) => if p.1 / 32 ≠ d then p else (p.1, { p.2 with power := partPower (t + 5 + p.1 * 2 ^ 32) now p.2 }) }

def execPowerGovernorUpdate (s : State) : Out := .next (powerUpdate s)

/-! ## Ababex Link (R408, R409) -/

/-- A hop of a route crosses a link port of a device (R408): it leaves or arrives by it. -/
def hopsOver (p : Port) (d n : Nat) : Bool :=
  p.hops.any fun h => h % 8 == 5 && h / 8 % 128 == linkRouter n && (h / 8 / 128 == d || p.tgtCore / 16384 == d)

/-- Streams whose route is open across a port that has gone down deliver no more words, and their writers trap (R409); the head of a route
that is on its way starts again. -/
def breakRoutes (s : State) (d n : Nat) : State :=
  let broken (p : Port) : Bool := (p.st == .bound || p.st == .opened) && p.acq == 2 && hopsOver p d n
  let back (p : Port) : Bool := p.st == .bound && p.acq == 1 && hopsOver p d n
  let lost := s.cores.flatMap fun c => (c.2.ports.filter fun p => broken p.2).map fun p => p.2.route
  let held := s.cores.flatMap fun c => (c.2.ports.filter fun p => back p.2).flatMap fun p => p.2.hops
  let mend (p : Port) : Port := if broken p then { p with refused := 3 } else if back p then { p with hops := [] } else p
  freeChannels { s with cores := s.cores.map fun c => (c.1, { c.2 with ports := c.2.ports.map fun p => (p.1, mend p.2) }),
                        agenda := s.agenda.filter fun o => !(lost.contains o.who && (match o.ins with
                          | .streamWordArrival _ _ _ _ _ => true
                          | _ => false)) } held

/-- A port of a device is down: its router has failed (R419). -/
def portDown (s : State) (d p : Nat) : State :=
  if (s.dev d).down.contains p then s else
  (breakRoutes (s.updDev d fun v => { v with down := v.down ++ [p], retries := Sp.erase v.retries p }) d p).dueOp
    { who := d * 128 + linkRouter p, data := [0], ins := .routerFailure }

/-- LINK_PORT_DOWN at the device State.cur: data is the port. What its primary has accepted is delivered before the traffic moves, so that
every route keeps its order. -/
def execLinkPortDown (s : State) : Out := .next (portDown s s.cur ((s.data.headD 0).toNat % 64))

/-- FLIT_RETRY at the device State.cur (R408): data are the port, and 0 for the first retry of a flit. After 16 in a row the port is down. -/
def flitRetry (s : State) : State :=
  let p := (s.data.getD 0 0).toNat % 64
  let n := if s.data.getD 1 0 = 0 then 1 else Sp.get 0 (s.dev s.cur).retries p + 1
  let s := s.updDev s.cur fun v => { v with retries := Sp.set 0 v.retries p n }
  if 16 ≤ n then s.dueOp { who := s.cur, data := [BitVec.ofNat 64 p], ins := .linkPortDown } else s

def execFlitRetry (s : State) : Out := .next (flitRetry s)

/-! ## Routers (R129, R418, R419) -/

/-- Whether a router of the list stands a port away. -/
def nextTo (ids : List Nat) (r : Nat) : Bool := [1, 2, 3, 4].any fun p => ids.contains (routerStep r p)

/-- The routers of a device by their distance from one, the nearest first, around those that are out. -/
def distanceLayers (s : State) (all seen front : List Nat) : Nat → List (List Nat)
  | 0 => []
  | n + 1 =>
    let next := all.filter fun r => !seen.contains r && !s.routerOut r && nextTo front r
    front :: (if next = [] then [] else distanceLayers s all (seen ++ next) next n)

/-- The router from which a router that is out is reached: its +x neighbour (R418). -/
def bypass (r : Nat) : Nat := routerStep r 1

/-- The table of router `r` toward router `dst`: the first port in the order +x, -x, +y, -y that leads closer. -/
def tablePort (s : State) (layers : List (List Nat)) (r dst : Nat) : Nat :=
  if r = dst then 0
  else if s.routerOut r then 1
  else if s.routerOut dst ∧ r = bypass dst then 2
  else
    let dist (x : Nat) : Nat := layers.findIdx fun l => l.contains x
    ([1, 2, 3, 4].find? fun p => decide (dist (routerStep r p) < dist r)).getD 0

/-- Writes the device tables of a device's routers (R106, R129, R409): for each of the 1,024 devices but their own, the routers of the
primary and the alternate port, not ones that are out. -/
def writeDeviceTables (s : State) (d : Nat) : State :=
  let t := s.ticket
  let table (f : Nat → Nat) : Sp Nat := (((List.range devices).filter fun k => k != d).map fun k => (k, s.linkChoice d (f k)))
  ((List.range 128).map fun i => d * 128 + i).foldl (fun s r =>
    s.setRouter r { s.router r with deviceTable := table (Config.deviceLink t r), deviceAlt := table (Config.deviceAlt t r) }) s.tick

/-- Writes the cluster tables of a device's routers (R129): minimal routes in x first where no router is out. -/
def writeClusterTables (s : State) (d : Nat) : State :=
  let all := (List.range 128).map fun i => d * 128 + i
  if !(all.any s.routerOut) then
    { s with routers := s.routers.map fun (r : Nat × Router) => if r.1 / 128 = d then (r.1, { r.2 with clusterTable := [] }) else r }
  else
    all.foldl (fun s' dst =>
      let goal := if s.routerOut dst then bypass dst else dst
      let layers := distanceLayers s all [goal] [goal] 128
      all.foldl (fun s' r => s'.setRouter r { s'.router r with clusterTable := Sp.put (s'.router r).clusterTable (dst % 128) (tablePort s layers r dst) })
        s') s

/-- Writes both routing tables of a device's routers: at boot, and when a router fails (R129). -/
def writeTables (s : State) (d : Nat) : State := writeDeviceTables (writeClusterTables s d) d

/-- A partition holds a frame in a slice (R419): a table of its page tables from an entry down, or a page that a leaf maps (R62, R64). `sizes`
are those of the tables, `va` is the number of what the entry covers. -/
def holdsUnder (s : State) (part slice : Nat) (e : W64) (va : Nat) : List Nat → Bool
  | [] => bits e 63 53 == 0 && bits e 15 13 == 0 && e.getLsbD 0 && decide (bits e 47 16 < 49152) && bits e 52 48 == part % 32 &&
      pageSlice (part / 32) (va * 65536) == slice
  | n :: l =>
    match tableLoc (part / 32) part e with
    | none => false
    | some t => part / 32 * 128 + bits e 10 4 == slice || (List.range n).any fun i => holdsUnder s part slice (s.entry t i) (va * n + i) l

def holdsFrames (s : State) (part slice : Nat) : Bool := holdsUnder s part slice (s.part part).root 0 [128, 256, 256, 128]

/-- Where the traffic of a partition in its device goes, from its clusters (R419): their own routers, slices that hold its frames, and the
link ports toward devices that know it as a partner. -/
def State.routeEnds (s : State) (part : Nat) : List Nat :=
  let d := part / 32
  (s.part part).clusters ++ ((List.range 128).map fun i => d * 128 + i).filter (holdsFrames s part) ++
    (((List.range devices).filter fun k => k != d && (s.partner k part).isSome).flatMap fun k =>
      (s.part part).clusters.flatMap fun c => [d * 128 + (s.deviceLinks c k).1, d * 128 + (s.deviceLinks c k).2])

/-- A partition owns the cluster of a router, holds frames in its slice, or has a route through it (R419). -/
def partTouches (s : State) (part r : Nat) : Bool :=
  let q := s.part part
  q.live && part / 32 == r / 128 && (q.clusters.contains r || holdsFrames s part r ||
    q.clusters.any fun a => (s.routeEnds part).any fun b => (pathTo s a b 32).contains r || (pathTo s b a 32).contains r)

/-- ROUTER_FAILURE of the router State.cur: data is 1 where its bypass has failed as well. -/
def routerFailure (s : State) : State :=
  let r := s.cur
  let hit := (s.parts.map Prod.fst).filter fun p => partTouches s p r
  let s := s.setRouter r { s.router r with failed := true }
  let s := if s.data.headD 0 = 1 then s.updSlice r fun x => { x with dead := true } else s
  hit.foldl (fun s p => s.postOp { who := p, data := [3], ins := .partitionReset }) (writeTables s (r / 128))

def execRouterFailure (s : State) : Out := .next (routerFailure s)

/-! ## Registers (R98, R405, R410, R413, R414, R422, R423) -/

/-- A WDOGWIN written while slots of its partition wait counts for them too (R144). -/
def rearmWatch (s : State) (part win : Nat) : State :=
  s.slots.foldl (fun s t => if s.partOf (slotCluster t.1) ≠ part then s else
    match t.2.attempt.bind fun a => a.watched.map fun w => (w, a.id) with
    | some (w, id) => s.postAt (Nat.max (s.now + 1) (w + win)) (.watchdog t.1 t.2.gen id)
    | none => s) s

/-- The bytes of words, the least significant first (R4). -/
def wordBytes (l : List W64) : List Byte := l.flatMap fun w => (List.range 8).map fun i => BitVec.ofNat 8 (w.toNat / 256 ^ i)

/-- Registers that partition management or the device management endpoint writes; the codes are this model's. Code 22 is the request of
R182 before a reconfiguration. -/
def managementWrite (s : State) (dev reg idx : Nat) (l : List W64) : Option State :=
  let v := l.headD 0
  let part := dev * 32 + idx
  let onPart (f : Part → Part) : Option State := if idx < 32 ∧ (s.part part).live then some (s.updPart part f) else none
  match reg with
  | 1 => if idx / 16 < 128 ∧ idx % 16 < 15 then
      some (s.updCluster (dev * 128 + idx / 16) fun x => { x with seg := Sp.set 0 x.seg (idx % 16) (v &&& 0x01FFFFFE00000000) }) else none
  | 2 => if idx < 1024 then some { s with partners := Sp.set 0 s.partners (dev * 1024 + idx) (v &&& 0xFFFFF80000000000) } else none
  | 3 => if idx / 256 < 32 ∧ l.length ≤ 64 then
      some (s.updPart (dev * 32 + idx / 256) fun q => { q with groups := Sp.set [] q.groups (idx % 256) l }) else none
  | 4 => onPart fun q => { q with root := v }
  | 5 => onPart fun q => { q with scalebase := v &&& ~~~(3 : W64) }
  | 6 => (onPart fun q => { q with wdogwin := v &&& 0xFFFFFFFF }).map fun s => rearmWatch s part (v &&& 0xFFFFFFFF).toNat
  | 7 => onPart fun q => { q with newInj := some (v.setWidth 40) }
  | 8 => onPart fun q => { q with newSlice := some (v.setWidth 40) }
  | 9 => onPart fun q => { q with newCour := some (v.setWidth 40) }
  | 10 => onPart fun q => { q with pfloor := v.setWidth 16 }
  | 11 => onPart fun q => { q with quotaLevels := v.toNat }
  | 12 => onPart fun q => { q with quotaTimers := v.toNat }
  | 13 => some (s.updDev dev fun d => { d with pwrcap := capWrite v })
  | 14 => some (s.updDev dev fun d => { d with pwrslope := slopeWrite d.pwrslope v })
  | 15 => onPart fun q => { q with traceBase := v, traceNext := 0 }
  | 16 => onPart fun q => { q with traceSize := v.toNat, traceNext := 0 }
  | 17 => onPart fun q => { q with traceOn := v.getLsbD 0 }
  | 18 => if s.serviceOk dev v then onPart fun q => { q with faultCore := some (v.toNat - 1) } else none
  | 19 => onPart fun q => { q with endpoint := wordBytes l }
  | 20 =>
    let c := dev * 128 + idx
    if 128 ≤ idx then none else
    some (s.updCluster c fun x =>
      let plain := (v &&& 0xFFBC) ||| (x.dbgctl &&& 0xFF0003)
      if dbgHalt x.dbgctl then
        { x with dbgNext := some ((v &&& 0xFF18) ||| (plain &&& ~~~(0xFF18 : W64))) }.withDbg
          ((plain &&& ~~~(0xFF18 : W64)) ||| (x.dbgctl &&& 0xFF18)) s.now
      else x.withDbg plain s.now)
  | 21 => onPart fun q => { q with keys := wordBytes l }
  | 22 => (onPart id).map fun s => askPreemption s part
  | _ => none

/-- REGISTER_WRITE: data are 0, a window offset and the value, for the endpoint of the partition State.cur; or 1, a code, a number and
the words, at the device State.cur. In recovery the device refuses it (R436). -/
def execRegisterWrite (s : State) : Out :=
  .next (match s.data with
    | kind :: reg :: rest =>
      if kind = 0 then windowWrite s s.cur reg.toNat (rest.headD 0)
      else if (s.dev s.cur).boot.recovery then s.answer 1
      else match managementWrite s s.cur reg.toNat (rest.headD 0).toNat rest.tail with
        | some s => s.answer 0
        | none => s.answer 1
    | _ => s.answer 1)

end Sys2Proof.Machine
end

