-- ==== Sys2Proof/Machine/Waits.lean ====
section
/-! DEFINITION. The end of a wait that is not its condition, and the wake of a fault (R74, R75, R93, R113, R144, R179). -/

namespace Sys2Proof.Machine
open Sys2Proof

/-! ## What an expiry reports -/

/-- TRAPINFO of an expired LVWAIT (R374). -/
def levelInfo (h : W64) (l : Level) : W64 :=
  BitVec.ofNat 64 (h.toNat / 2 ^ levelSpan h % 65536 + l.outstanding % 65536 * 65536 + l.errors % 65536 * 2 ^ 32)

/-- TRAPINFO of an expired QUIET (R351). -/
def quietInfo (q : Part) (r : QuietReq) : W64 :=
  let w : Sweep := q.sweep.getD { sent0 := 0, recv0 := 0, sent1 := 0, recv1 := 0 }
  let sent := if r.tag then w.sent1 else w.sent0
  let recv := if r.tag then w.recv1 else w.recv0
  BitVec.ofNat 64 (r.level.toNat % 65536 + recv.toNat % 65536 * 65536 + sent.toNat % 65536 * 2 ^ 32)

/-- TRAPINFO of an expired BAR (R348): the address is that of the unit's registration for the object at a location. -/
def barInfo (s : State) (part : Nat) (t : Slot) (loc : Nat) : W64 :=
  let f := barFields s loc
  let here (b : Nat × BarReg) : Bool := match s.globalTarget part b.2.addr with
    | some (.scratch k off) => scratchLoc k off == loc
    | _ => false
  let addr := ((t.bars.find? here).map fun b => b.2.addr).getD 0
  BitVec.ofNat 64 (bits addr 20 5 + f.2.1 % 65536 * 65536 + f.1 % 65536 * 2 ^ 32)

/-- TRAPINFO of an expired TCALL that is a CONSUMER (R358). -/
def consumerInfo (s : State) (part : Nat) (e : W64) : W64 :=
  let v := ((stackPlace s part e).bind s.pigeonAt).map Pigeon.version
  BitVec.ofNat 64 (bits e 48 35 + bits e 55 49 * 65536 + (v.getD 0).toNat * 2 ^ 32)

/-- A pop or push of a slot that waits at a Confluence slice: the slice's cluster and the queue. -/
def waitingQueue (s : State) (slot : Nat) (gen : BitVec 32) (tag : Nat) : Option (Nat × Nat) :=
  match s.clusters.findSome? fun c => (c.2.pops.find? fun p => p.slot == slot && p.gen == gen && p.tag == tag).map fun p => (c.1, p.qid) with
  | some r => some r
  | none => (s.agenda.find? fun o => opOfTag slot gen tag o && (o.ins == .cqPushRetry || o.ins == .cqPushArrival)).map fun o =>
      (o.who, (o.data.getD 4 0).toNat % 65536)

/-- TRAPINFO of a wait for the answer of a tag, by where its request stands. -/
def answerInfo (s : State) (slot : Nat) (t : Slot) (tag : Nat) (old : W64) : W64 :=
  let part := s.partOf (slotCluster slot)
  let mine (a : Asker) : Bool := a.slot == slot && a.gen == t.gen && a.tag == tag
  let c := slotCluster slot
  match s.parked.find? fun p => p.slot == slot && p.gen == t.gen && p.tag == tag && !p.acquire with
  | some p => swInfo (p.loc % 2 ^ 19) (s.read (p.loc + 8) 4) p.want.toNat
  | none =>
  match s.levels.find? fun l => l.2.waiters.any mine with
  | some l => levelInfo (BitVec.ofNat 64 l.1) l.2
  | none =>
  match s.barWait.find? fun b => mine b.who with
  | some b => barInfo s part t b.loc
  | none =>
  match (s.part part).quiets.find? fun r => mine r.who with
  | some r => quietInfo (s.part part) r
  | none =>
  if (s.arr c).waitQ.any fun w => mine w.1 then mxwaitInfo s c
  else if (s.arr c).leaseQ.any mine then leaseInfo s c
  else match waitingQueue s slot t.gen tag with
    | some (k, id) => queueInfo (s.cluster k) id
    | none => old

/-- TRAPINFO of a wait that expires now (R42). -/
def expiryInfo (s : State) (slot : Nat) : W64 :=
  let t := s.slot slot
  let part := s.partOf (slotCluster slot)
  let old := (t.attempt.map Attempt.info).getD 0
  match t.st with
  | .waiting (.portIn i) | .waiting (.portOut i) => portWaitInfo i (s.port (slotCore slot) i)
  | .waiting (.answer tag) => answerInfo s slot t tag old
  | .suspended .consumer => (t.stack.getLast?.map (consumerInfo s part)).getD 0
  | .suspended .arcom => arcomInfo s part (t.region.getD 0)
  | _ => old

/-! ## Expiry (R144, R179) -/

/-- The wait of an attempt still stands in a slot that runs, and its condition does not hold. -/
def waitStands (s : State) (slot : Nat) (gen : BitVec 32) (attempt : Nat) : Bool :=
  let t := s.slot slot
  t.gen == gen && !t.stopped && !s.halted slot && ((t.attempt.map fun a => a.id == attempt).getD false) &&
    (match t.st with
      | .waiting (.answer tag) => !answerFlying s slot gen tag
      | .waiting c => !s.holds slot c
      | .suspended .consumer => !answerFlying s slot gen 0
      | .suspended .arcom => !answerFlying s slot gen (((t.outst.find? fun o : Outst => o.len != 0).map Outst.tag).getD 0)
      | _ => false)

/-- The request of a slot's wait is still on its way to where its condition is found: an expiry waits for it (R93, R179, R289), and a
BAR's arrival stands in every case (R348). -/
def arrivalFlying (s : State) (slot : Nat) (gen : BitVec 32) : Bool :=
  s.agenda.any fun o => match o.ins, (s.slot slot).st with
    | .barrierArrival _ _ sl g _ _, _ => sl == slot && g == gen
    | .cqPushRetry, _ => false
    | _, .waiting (.answer tag) => opOfTag slot gen tag o
    | _, _ => false

/-- The wait of a slot ends without its condition: it is withdrawn, a route it was acquiring is dropped (R83), and the group traps. -/
def expire (s : State) (slot cause : Nat) (info : W64) : State :=
  let s := withdraw (dropRoutes s slot) slot
  trapEntry s slot (s.slot slot).pc { cause := cause, info := info }

/-- WAIT_TIMEOUT of an attempt of a slot (R179). -/
def waitTimeout (s : State) (slot : Nat) (gen : BitVec 32) (attempt : Nat) : State :=
  let t := s.slot slot
  if !waitStands s slot gen attempt ∨ (t.attempt.bind Attempt.limit).isNone then s
  else if arrivalFlying s slot gen then s.postAt (s.now + 1) (.waitTimeout slot gen attempt)
  else expire s slot causeWaitTimeout (expiryInfo s slot)

def execWaitTimeout (slot : Nat) (gen : BitVec 32) (attempt : Nat) (s : State) : Out := .next (waitTimeout s slot gen attempt)

/-- WATCHDOG of an attempt of a slot (R144): an unbounded wait has lasted WDOGWIN cycles; a persistent launch has none (R145). With no
handler the unit's launch is cancelled. -/
def watchdog (s : State) (slot : Nat) (gen : BitVec 32) (attempt : Nat) : State :=
  let t := s.slot slot
  let part := s.partOf (slotCluster slot)
  let win := (s.part part).wdogwin.toNat
  match if waitStands s slot gen attempt then t.attempt.bind Attempt.watched else none with
  | none => s
  | some since =>
    if s.now < since + win then s.postAt (since + win) (.watchdog slot gen attempt)
    else if s.persistWin slot ≠ 0 then s.postAt (s.now + Nat.max 1 win) (.watchdog slot gen attempt)
    else if arrivalFlying s slot gen then s.postAt (s.now + 1) (.watchdog slot gen attempt)
    else
      let s := expire s slot causeWatchdog 0
      if t.trapvec = 0 then cancelLevel s t.home t.level else s

def execWatchdog (slot : Nat) (gen : BitVec 32) (attempt : Nat) (s : State) : Out := .next (watchdog s slot gen attempt)

/-! ## The wake of a fault (R73 to R75) -/

/-- The address of the byte of a copy's piece that lies in a page: its source's, or else its destination's. -/
def heldAddr (s : State) (j : CopyJob) (h : HeldBytes) : W64 :=
  let page (a : W64) : Option Nat := match s.globalTarget j.part a with
    | some (.second dev va) => some (faultPage dev va)
    | some (.scratch k off) => some (s.corePage k off)
    | some (.istore k off) => some (s.corePage k off)
    | none => none
  if page (j.srcAt h.lo) = some h.page then j.srcAt h.lo else j.dstAt h.lo

/-- A wake reaches a copy (R75, R296): READY takes up the bytes it held, DENY refuses the copy with ADDR. -/
def wakeCopy (s : State) (tag page : Nat) (ready : Bool) : State :=
  match Sp.find s.copies tag with
  | none => s
  | some j =>
    match j.held.filter fun h => h.page == page with
    | [] => s
    | h :: l =>
      if !ready then copyRefused s tag causeAddr (heldAddr s j h) else
      let yes := ((h :: l).filter fun h => h.accepted).map fun h => (h.lo, h.hi)
      let no := ((h :: l).filter fun h => !h.accepted).map fun h => (h.lo, h.hi)
      let j' := { j with held := j.held.filter (fun h => h.page != page), todo := j.todo ++ no, accepted := j.accepted ++ yes }
      let s := { s with copies := Sp.put s.copies tag j' }
      let s := if no = [] then s else s.postOnce { who := tag, ins := .copyAccept }
      if yes = [] then s else s.postOnce { who := tag, ins := .copyDelivery }

/-- A wake reaches the read of a fired counter's record (R135). -/
def wakeFiring (s : State) (c id : Nat) (ready : Bool) : State :=
  match (s.cluster c).firing.find? fun f => f.id == id with
  | none => s
  | some f => if ready then s.postOp { who := c, data := [BitVec.ofNat 64 id], ins := .dcFire } else discardFiring s c f

/-- A wake reaches a completion's update of a sync word (R75). -/
def wakeSync (s : State) (c id : Nat) (ready : Bool) : State :=
  match (s.cluster c).syncHeld.find? fun h => h.id == id with
  | none => s
  | some h =>
    let s := s.updCluster c fun k => { k with syncHeld := k.syncHeld.filter fun q => q.id != id }
    if ready then s.sendTag (slotCluster h.upd.slot * 128) h.upd.part h.upd.tag { ins := .syncWordUpdate h.upd h.copy }
    else if h.copy = 2 then readoutRefused s c h.upd.tag causeAddr h.upd.ea
    else copyRefused s h.upd.tag causeAddr h.upd.ea

/-- A wake reaches one that waits at a cluster's NI, by its engine. -/
def wakeOne (s : State) (c : Nat) (w : Wake) (r : FaultRec) : State :=
  match r.engine with
  | 0 => wakeSlot s r.slot r.gen w.page w.ready
  | 1 => wakeCopy s r.id w.page w.ready
  | 2 => wakeArray s c w.page w.ready
  | 3 => wakeFiring s c r.id w.ready
  | 4 => wakeOrphan s r.slot r.gen r.id w.ready
  | _ => wakeSync s c r.id w.ready

/-- FAULT_WAKE at a cluster (R73, R74): its NI passes the wake to everything it lists for the page; for halted slots
it is held (R426). -/
def faultWake (s : State) (c : Nat) (w : Wake) : State :=
  let held := s.clusterHalted c
  let here (r : FaultRec) : Bool := r.part == w.part && r.page == w.page
  let now (r : FaultRec) : Bool := here r && !(held && r.engine == 0)
  let l := (s.cluster c).faultWait.filter now
  let s := s.updCluster c fun k => { k with faultWait := k.faultWait.filter fun r => !now r }
  let s := match (s.cluster c).faultWait.find? here with
    | some r => s.holdHalted r.slot { ins := .faultWake c w }
    | none => s
  l.foldl (fun s r => wakeOne s c w r) s

def execFaultWake (cluster : Nat) (w : Wake) (s : State) : Out := .next (faultWake s cluster w)

end Sys2Proof.Machine
end

