-- ==== Sys2Proof/Machine/Debug.lean ====
section
/-! DEFINITION. Debug (R425 to R431): halt, release and single step of a cluster, triggers, debug accesses, snapshots. -/

namespace Sys2Proof.Machine
open Sys2Proof

/-- A device in recovery: its management endpoint accepts no debug request (R436). -/
def State.recovering (s : State) (d : Nat) : Bool := (s.dev d).boot.recovery

/-! ## Halt, release, step (R426 to R428) -/

/-- HALT of the cluster State.cur: HALT is written with 1. -/
def execHalt (s : State) : Out := .next (if s.recovering (clusterDev s.cur) then s else haltCluster s s.cur 1)

/-- A BRK at which a slot has halted is passed (R382). -/
def passBrk (s : State) (slot : Nat) : State :=
  let t := s.slot slot
  if t.atBrk then s.setSlot slot { t with atBrk := false, pc := BitVec.ofNat 15 (s.pcAfter (slotCore slot) t.pc.toNat) } else s

/-- A slot's wait goes on after a halt (R426): the cycles of the halt do not count (R144, R179). -/
def resumeWait (s : State) (slot : Nat) (lost : Nat → Nat) : State :=
  match (s.slot slot).attempt with
  | none => s
  | some a =>
    let a : Attempt := { a with since := a.since + lost a.since, id := s.ticket, watched := a.watched.map fun w => w + lost w }
    armWait (s.tick.updSlot slot fun t => { t with attempt := some a }) slot a

/-- Releases a cluster: a slot that had halted at a BRK goes on after it, and every wait goes on where it stood. -/
def releaseCluster (s : State) (c : Nat) : State :=
  let x := s.cluster c
  if !dbgHalt x.dbgctl then s else
  let slots := (s.slots.filter fun t => slotCluster t.1 == c && t.2.st != .idle).map Prod.fst
  let lost (since : Nat) : Nat := s.now - Nat.max x.haltAt since
  let s := s.setCluster c (endHalt x (bits x.dbgctl 23 16) s.now)
  slots.foldl (fun s i => (resumeWait (passBrk s i) i lost).updSlot i fun t => { t with step := false }) s

/-- HALT_RELEASE of the cluster State.cur: HALT is written with 0. -/
def execHaltRelease (s : State) : Out := .next (if s.recovering (clusterDev s.cur) then s else releaseCluster s s.cur)

/-- A slot would issue if its cluster ran. -/
def wouldIssue (s : State) (slot : Nat) : Bool :=
  let t := s.slot slot
  !t.stopped && (match t.st with
    | .ready => true
    | .waiting c => s.holds slot c
    | _ => false)

/-- DEBUG_STEP of the cluster State.cur (R428): data are core and slot, as in DBGSTEP. -/
def execDebugStep (s : State) : Out :=
  .next (match s.data with
    | [core, slot] =>
      let i := (s.cur * 128 + core.toNat % 128) * 8 + slot.toNat % 8
      if !s.recovering (clusterDev s.cur) ∧ dbgHalt (s.cluster s.cur).dbgctl ∧ wouldIssue s i then (passBrk s i).updSlot i fun t => { t with step := true } else s
    | _ => s)

/-- TRIGGER_FIRE of the group in data by the cluster State.cur (R429): every cluster of the device in the group under XIN halts. -/
def triggerFire (s : State) (g : Nat) : State :=
  let d := clusterDev s.cur
  let l := (s.clusters.filter fun c => clusterDev c.1 == d && dbgGroup c.2.dbgctl == g && dbgXin c.2.dbgctl).map Prod.fst
  l.foldl (fun s c => haltCluster s c 3) s

def execTriggerFire (s : State) : Out := .next (triggerFire s (s.data.headD 0).toNat)

/-! ## Debug accesses (R428) -/

/-- A register code the debug module knows: g0 to g23, v0 to v15, k0 to k7. -/
def debugCode (c : Nat) : Bool := decide (c < 24) || (decide (32 ≤ c) && decide (c < 48)) || (decide (64 ≤ c) && decide (c < 72))

/-- The value of a register by its code, and its words. -/
def codeValue (t : Slot) (c : Nat) : List W64 :=
  if c < 32 then [t.getG c]
  else if c < 64 then (List.range 8).map fun i => BitVec.ofNat 64 ((t.getV (c - 32)).toNat / 2 ^ (64 * i))
  else [(t.getK (c - 64)).setWidth 64]

/-- A system register of scope slot or core (R37). -/
def debugSysreg (num sub : Nat) : Bool :=
  sysregKnown num && decide (sub < sysregSubs num) && !([0x021, 0x042, 0x050, 0x060].contains num)

/-- Writes a system register from the debug module: every field, read-only ones included, but SLOTID and GEN. -/
def debugSysWrite (s : State) (slot num sub : Nat) (v : W64) : State :=
  match num with
  | 0x002 => s.updSlot slot fun t => { t with level := v }
  | 0x003 => s.updSlot slot fun t => { t with corr := v.setWidth 32 }
  | 0x012 => s.updSlot slot fun t => { t with trapaddr := v }
  | 0x013 => s.updSlot slot fun t => { t with trapinfo := v }
  | 0x018 => s.updSlot slot fun t => { t with oobflag := v &&& 1 }
  | 0x019 => s.updSlot slot fun t => { t with oobaddr := v }
  | 0x040 => s.updCore (slotCore slot) fun c => { c with cycleAdd := v - s.cycle (slotDev slot) }
  | 0x041 => s.updSlot slot fun t => { t with retired := v }
  | _ => sysWrite s slot num sub v

/-- A write of the debug module has been performed (R441). -/
def debugWrote (s : State) (dev : Nat) : State := s.updDev dev fun d => { d with debugWrote := true }

/-- What a debug read of a target gives: kinds 0 a register with its F/E bit last, 1 a system register, 2 stack and region, 3 a
scratchpad word, 4 an instruction-store word, 5 a guard bit; x and y name it within its slot or core. -/
def debugRead (s : State) (kind place x y : Nat) : Option (List W64) :=
  let t := s.slot place
  match kind with
  | 0 => if debugCode x then some (codeValue t x ++ [boolWord (t.empty x)]) else none
  | 1 => if debugSysreg x y then some [s.sysReg place x y] else none
  | 2 => some (BitVec.ofNat 64 t.stack.length :: t.region.getD 0 :: boolWord t.region.isSome :: boolWord t.voted :: t.stack)
  | 3 => if x < 2 ^ 19 ∧ x % 8 = 0 then some [BitVec.ofNat 64 (s.read (scratchLoc place x) 8)] else none
  | 4 => if x < 2 ^ 15 ∧ x % 8 = 0 then some [BitVec.ofNat 64 (s.read (istoreLoc place x) 8)] else none
  | 5 => if x < 8192 then some [boolWord (Sp.get false (s.core place).guards x)] else none
  | _ => none

/-- Writes a register and its F/E bit: the last word is 1 for EMPTY; g0 and k0 stay (R24). -/
def debugSetReg (t : Slot) (x : Nat) (v : List W64) : Slot :=
  if x = 0 ∨ x = 64 then t else
  let n := if 32 ≤ x ∧ x < 64 then 8 else 1
  (t.setCode x (BitVec.ofNat 512 ((v.take n).foldr (fun w n => w.toNat + 2 ^ 64 * n) 0))).setEmpty x (v.getD n 0 != 0)

/-- A debug write: status and state. -/
def debugWrite (s : State) (kind place x y : Nat) (v : List W64) : Nat × State :=
  let t := s.slot place
  let w := v.headD 0
  match kind with
  | 0 =>
    if !debugCode x then (1, s)
    else if t.outst.any fun o : Outst => o.dests.contains x then (2, s)
    else (0, s.setSlot place (debugSetReg t x v))
  | 1 =>
    if !debugSysreg x y ∨ x = 0x000 ∨ x = 0x001 ∨ sysReserved x y w then (1, s)
    else (0, debugSysWrite s place x y w)
  | 3 => if x < 2 ^ 19 ∧ x % 8 = 0 then (0, s.write (scratchLoc place x) w.toNat 8) else (1, s)
  | 4 => if x < 2 ^ 15 ∧ x % 8 = 0 then
      (0, (s.write (istoreLoc place x) w.toNat 8).updCore place fun c => { c with fetchBuf := Sp.erase c.fetchBuf (x / 64) }) else (1, s)
  | 5 => if x < 8192 then (0, s.updCore place fun c => { c with guards := Sp.set false c.guards x (w.getLsbD 0) }) else (1, s)
  | _ => (1, s)

/-- A core of a device has the role of debug service (R439). -/
def State.debugServed (s : State) (d : Nat) : Bool := (s.dev d).boot.roles.any fun r => r.2 == 5

/-- DEBUG_ACCESS in the cluster State.cur (R428): data are the kind, whether it writes, core and slot, x, y, and the words to be
written. A debug service core performs it (R439). -/
def debugAccess (s : State) : State :=
  match s.data with
  | kind :: wr :: core :: slot :: x :: y :: v =>
    let k := s.cur * 128 + core.toNat % 128
    let place := if kind.toNat < 3 then k * 8 + slot.toNat % 8 else k
    if s.recovering (clusterDev s.cur) || !s.debugServed (clusterDev s.cur) || !dbgHalt (s.cluster s.cur).dbgctl then s.answer 1
    else if wr = 0 then
      match debugRead s kind.toNat place x.toNat y.toNat with
      | some l => s.answer 0 l
      | none => s.answer 1
    else
      match debugWrite s kind.toNat place x.toNat y.toNat v with
      | (0, s) => (debugWrote s (clusterDev s.cur)).answer 0
      | (n, s) => s.answer n
  | _ => s.answer 1

def execDebugAccess (s : State) : Out := .next (debugAccess s)

/-! ## Snapshots (R430 to R432) -/

/-- SNAPSHOT_TRIGGER of the device State.cur (R431): ignored and counted while a bank is unread; else the banks latch at the next
256 ns tick of PTP time. -/
def snapshotTrigger (s : State) : State :=
  let d := s.cur
  let v := s.dev d
  if s.recovering d then s
  else if v.snap.isSome then s.setDev d { v with snapLost := v.snapLost + 1 }
  else if v.snapWait then s
  else
    (s.setDev d { v with snapWait := true }).opAt (s.now + 1)
      { who := d, data := [BitVec.ofNat 64 ((s.ptpTime d).toNat / 256 + 1)], ins := .snapshotLatch }

def execSnapshotTrigger (s : State) : Out := .next (snapshotTrigger s)

/-- The banks of a device: 128 clusters of 128 cores, an NI for each core, slice and partition, a courier for each cluster and slice, and
128 of each other block. -/
def bankCount : Nat := 128 * 128 + (128 * 128 + 128 + 32) + 256 + 6 * 128

/-- A range of a copy's bytes cut at its rows and the pages of its source (R295), in at most `fuel` parts. -/
def CopyJob.cut (j : CopyJob) (lo hi : Nat) : Nat → List (Nat × Nat)
  | 0 => []
  | fuel + 1 =>
    let mid := lo + Nat.min (rowLeft j lo) (blockLeft (j.srcAt lo) 65536)
    if hi ≤ mid then [(lo, hi)] else (lo, mid) :: CopyJob.cut j mid hi fuel

/-- The bytes of a copy that are still to be moved by a courier: those of its pieces. -/
def pendingBytes (s : State) (j : CopyJob) (k : Nat) : Nat :=
  let rs := j.todo ++ j.accepted ++ j.held.map (fun h => (h.lo, h.hi)) ++ j.flying.map (fun f => (f.1, f.1 + f.2.1)) ++
    j.stuck.map fun f => (f.1, f.1 + f.2.1)
  (((rs.flatMap fun r => j.cut r.1 r.2 (j.rows * (j.len / 65536 + 2))).filter fun r => j.courier s r.1 == k).map fun r => r.2 - r.1).sum

/-- The couriers of a device that have work, each with its tags in use and its bytes pending. -/
def courierLoads (s : State) (d : Nat) : List (Nat × Nat × Nat) :=
  let ks := ((List.range 128).map fun i => d * 128 + i) ++ (List.range 128).map fun i => sliceCourier + d * 128 + i
  (ks.map fun k => (k, tagsUsed s k, (s.copies.map fun c => pendingBytes s c.2 k).sum)).filter fun l => l.2 != (0, 0)

/-- SNAPSHOT_LATCH of the device State.cur: every bank latches at once, in the first cycle of the tick that data names; before it, each cycle
looks again. -/
def snapshotLatch (s : State) : State :=
  let d := s.cur
  let v := s.dev d
  if !v.snapWait then s
  else if (s.ptpTime d).toNat / 256 < (s.data.headD 0).toNat then
    s.opAt (s.now + 1) { who := d, data := s.data, ins := .snapshotLatch }
  else
    let here (n : Nat) (k : Nat) : Bool := k / n == d
    let x : Snapshot :=
      { now := s.now, seed := s.ticket, slots := s.slots.filter fun t => here 131072 t.1, cores := s.cores.filter fun t => here 16384 t.1,
        clusters := s.clusters.filter fun t => here 128 t.1, slices := s.slices.filter fun t => here 128 t.1,
        routers := s.routers.filter fun t => here 128 t.1,
        nis := s.nis.filter fun t => (if t.1 < 2 ^ 24 then t.1 / 16384 else if t.1 < 2 ^ 25 then (t.1 - 2 ^ 24) / 128 else (t.1 - 2 ^ 25) / 32) == d,
        couriers := if s.copies.isEmpty then [] else courierLoads s d, freed := [] }
    s.tick.setDev d { v with snapWait := false, snap := some x }

def execSnapshotLatch (s : State) : Out := .next (snapshotLatch s)

/-- The state code of a slot in a snapshot. -/
def slotCode (x : Snapshot) (i : Nat) (t : Slot) : Nat :=
  if dbgHalt (Sp.get {} x.clusters (slotCluster i)).dbgctl then 5 else
  match t.st with
  | .idle => 0
  | .ready => 1
  | .waiting _ => 2
  | .suspended _ => 3

/-- The three words of a slot. -/
def slotBank (x : Snapshot) (i : Nat) : List W64 :=
  let t : Slot := Sp.get {} x.slots i
  [BitVec.ofNat 64 (slotCode x i t + t.pc.toNat * 2 ^ 8 + Slot.entries t * 2 ^ 32), BitVec.ofNat 64 (t.gen.toNat + t.corr.toNat * 2 ^ 32), t.level]

/-- The words of an NI's phase counters. -/
def niBank (x : Snapshot) (i : Nat) : List W64 :=
  let n : Ni := Sp.get {} x.nis i
  [BitVec.ofNat 64 (n.sent0.toNat + n.recv0.toNat * 2 ^ 32), BitVec.ofNat 64 (n.sent1.toNat + n.recv1.toNat * 2 ^ 32)]

/-- The words of a term array. -/
def arrayBank (a : TermArray) : List W64 :=
  let h := a.holder.getD (0, 0)
  [BitVec.ofNat 64 (h.1 + (if a.holder.isSome then 2 ^ 32 else 0)), h.2.setWidth 64, BitVec.ofNat 64 a.queue.length, BitVec.ofNat 64 a.mstep] ++
    (List.range 256).map fun i => (Sp.get 0 a.ctr i).setWidth 64

/-- The words of the bank `n` of a kind (R430): 0 cores, 1 NIs, 2 term arrays, 3 couriers (of clusters, then of slices), 4 Pigeonhole and 5 Confluence slices, 6
schedulers, 7 routers, 8 memory slices. What a router or a slice buffers for a while is a free value. -/
def bankWords (x : Snapshot) (d kind n : Nat) : List W64 :=
  let w (v : Nat) : W64 := BitVec.ofNat 64 v
  let c : Cluster := Sp.get {} x.clusters (d * 128 + n)
  let free (i : Nat) : W64 := Config.freeWord (x.seed + (kind * 16 + i) * 2 ^ 32 + n * 2 ^ 48)
  match kind with
  | 0 => (List.range 8).flatMap fun i => slotBank x ((d * 16384 + n) * 8 + i)
  | 1 =>
    if n < 16384 then
      let k : Core := Sp.get {} x.cores (d * 16384 + n)
      niBank x (d * 16384 + n) ++ (List.range 16).map fun i => w (k.head i + k.tail i * 2 ^ 32)
    else if n < 16384 + 128 then niBank x (sliceNi (d * 128 + (n - 16384)))
    else niBank x (officeNi (d * 32 + (n - 16384 - 128)))
  | 2 => arrayBank c.arr
  | 3 =>
    let k := if n < 128 then d * 128 + n else sliceCourier + d * 128 + (n - 128)
    match x.couriers.find? fun l => l.1 == k with
    | some l => [w l.2.1, w l.2.2]
    | none => [0, 0]
  | 4 =>
    let of (st : Nat) : Nat := (c.pigeon.filter fun e => e.2.st == st).length
    [w (16384 - (of 1 + of 2 + of 3)), w (of 1), w (of 2), w (of 3)]
  | 5 => (List.range 64).map fun i => w ((c.conf.filter fun r => r.2.qid == i).length)
  | 6 => (List.range 4).map fun i => w ((c.ready.filter fun r => r.pri == i).length)
  | 7 => [free 0, w ((Sp.get {} x.routers (d * 128 + n) : Router).merge.length)]
  | _ => [free 0, w ((Sp.get {} x.slices (d * 128 + n) : Slice).ws.length)]

/-- A bank exists. -/
def bankExists (kind n : Nat) : Bool :=
  match kind with
  | 0 => decide (n < 16384)
  | 1 => decide (n < 16384 + 128 + 32)
  | 3 => decide (n < 256)
  | _ => decide (kind < 9) && decide (n < 128)

/-- SNAPSHOT_READ of the device State.cur (R431): data are kind, number and word; the read of a bank's last word frees it. -/
def snapshotRead (s : State) : State :=
  let d := s.cur
  let v := s.dev d
  match v.snap, s.data with
  | some x, [kind, n, i] =>
    let id := kind.toNat * 2 ^ 20 + n.toNat
    let l := bankWords x d kind.toNat n.toNat
    if s.recovering d ∨ !bankExists kind.toNat n.toNat ∨ x.freed.contains id ∨ l.length ≤ i.toNat then s.answer 1 else
    let s := if i.toNat + 1 < l.length then s else
      let x := { x with freed := x.freed ++ [id] }
      s.setDev d { v with snap := if x.freed.length = bankCount then none else some x }
    s.answer 0 [l.getD i.toNat 0]
  | _, _ => s.answer 1

def execSnapshotRead (s : State) : Out := .next (snapshotRead s)

end Sys2Proof.Machine
end

