-- ==== Sys2Proof/Machine/Boot.lean ====
section
/-! DEFINITION. Boot, update and attestation (R14, R30, R49, R129, R418, R423, R433 to R441). -/

namespace Sys2Proof.Machine
open Sys2Proof

/-! ## The flash (R433 to R435) -/

/-- `n` bytes of a device's flash from an offset on. -/
def flashBytes (v : Device) (off n : Nat) : List Byte := (List.range n).map fun i => Sp.get 0 v.flash (off + i)

/-- A number from its bytes, the least significant first (R4). -/
def leNat (l : List Byte) : Nat := l.foldr (fun b n => b.toNat + 256 * n) 0

/-- The bytes of a number. -/
def leBytes (v n : Nat) : List Byte := (List.range n).map fun i => BitVec.ofNat 8 (v / 256 ^ i)

/-- A device's flash with bytes written from an offset on. -/
def writeFlash (v : Device) (off : Nat) (l : List Byte) : Device :=
  { v with flash := l.zipIdx.foldl (fun m b => Sp.set 0 m (off + b.2) b.1) v.flash }

/-- A number in the flash. -/
def flashNat (v : Device) (off n : Nat) : Nat := leNat (flashBytes v off n)

/-- A marker (R434): the slot it names, SEQ and DIGEST. -/
structure Marker where
  slot : Nat
  seq : Nat
  digest : List Byte
deriving DecidableEq, Repr

/-- The marker of a sector, where it is valid (R434). -/
def markerAt (v : Device) (sector : Nat) : Option Marker :=
  let o := sector * 0x10000
  if flashNat v o 4 = 0x4B4D4642 ∧ flashNat v (o + 4) 4 ≤ 1 ∧ flashBytes v (o + 80) 64 = Config.shake256 (flashBytes v o 80) 64
  then some { slot := flashNat v (o + 4) 4, seq := flashNat v (o + 8) 8, digest := flashBytes v (o + 16) 64 } else none

/-- The marker in use with its sector (R436): the valid one of higher SEQ, sector 0 on a tie. -/
def markerInUse (v : Device) : Option (Nat × Marker) :=
  match markerAt v 0, markerAt v 1 with
  | some a, some b => if a.seq < b.seq then some (1, b) else some (0, a)
  | some a, none => some (0, a)
  | none, some b => some (1, b)
  | none, none => none

/-- Where a firmware slot and a configuration sector lie (R433). -/
def slotOffset (slot : Nat) : Nat := if slot = 0 then 0x100000 else 0x2100000
def configOffset (sector : Nat) : Nat := 0x20000 + sector * 0x10000

/-- The header's length and its fields (R435). -/
def headerLen : Nat := 5280
def imageSvn (v : Device) (o : Nat) : Nat := flashNat v (o + 4) 4
def imageLength (v : Device) (o : Nat) : Nat := flashNat v (o + 8) 4
def imageKey (v : Device) (o : Nat) : List Byte := flashBytes v (o + 12) 1952
def imageSig (v : Device) (o : Nat) : List Byte := flashBytes v (o + 1964) 3309

/-- The digest of an image (R435): bytes 0 to 1,963 and the body. -/
def imageDigest (v : Device) (o : Nat) : List Byte :=
  Config.shake256 (flashBytes v o 1964 ++ flashBytes v (o + headerLen) (imageLength v o)) 64

/-- An image is signed under the fused key and not below the fused floor (R436, R438). -/
def imageSigned (v : Device) (o : Nat) : Bool :=
  Config.shake256 (imageKey v o) 64 == v.keyHash && decide (v.floor.toNat ≤ imageSvn v o) &&
    Config.verify (imageKey v o) (imageDigest v o) (imageSig v o)

/-- The slot that boots, with the marker it is compared to (R436). -/
def chooseSlot (v : Device) : Option (Nat × Option Marker) :=
  let m := (markerInUse v).map Prod.snd
  let first := (m.map Marker.slot).getD 0
  let same := match m with
    | some k => imageDigest v (slotOffset first) == k.digest
    | none => true
  if imageSigned v (slotOffset first) && same then some (first, m)
  else if imageSigned v (slotOffset (1 - first)) then some (1 - first, none) else none

/-! ## The configuration table (R438, R439) -/

/-- SEQ of the table in a sector. -/
def configSeq (v : Device) (o : Nat) : Nat := flashNat v (o + headerLen + 144) 8

/-- The sector boot takes: the verifying one of higher SEQ, sector 0 on a tie. -/
def configSector (v : Device) : Option Nat :=
  let ok (i : Nat) : Bool := imageSigned v (configOffset i)
  if ok 0 && ok 1 then some (if configSeq v (configOffset 0) < configSeq v (configOffset 1) then 1 else 0)
  else if ok 0 then some 0 else if ok 1 then some 1 else none

/-- The fields of a table's body: W, the harvested routers, the device's default identifier, PWRCAP at boot, the role of firmware core 127 - i of cluster 15 + 16 j. -/
def configW (v : Device) (b : Nat) : Nat := flashNat v b 1
def configHarv (v : Device) (b : Nat) : List Nat :=
  (List.range (Nat.min 8 (flashNat v (b + 1) 1))).map fun i => flashNat v (b + 2 + i) 1
def configDevice (v : Device) (b : Nat) : Nat := flashNat v (b + 10) 2
def configCap (v : Device) (b : Nat) : Nat := flashNat v (b + 12) 2
def configRole (v : Device) (b j i : Nat) : Nat := flashNat v (b + 16 + 16 * j + i) 1

/-- The role bytes of a table in use, by W, with their cores in the device. -/
def configRoles (v : Device) (b : Nat) : List (Nat × Nat) :=
  (List.range 8).flatMap fun j => (List.range (configW v b)).map fun i => ((15 + 16 * j) * 128 + 127 - i, configRole v b j i)

/-- A table whose body is refused (R438). -/
def configRefused (v : Device) (b n : Nat) : Bool :=
  let w := configW v b
  let harv := configHarv v b
  let roles := (configRoles v b).map Prod.snd
  w == 0 || decide (16 < w) || harv.any (fun r => nextTo harv r) ||
    ((List.range 8).any fun j => (List.range 16).any fun i => decide (w ≤ i) && configRole v b j i != 0) ||
    roles.any (fun r => decide (6 ≤ r)) || [1, 2, 3, 4].any (fun r => !roles.contains r) ||
    flashNat v (b + 14) 2 != 0 || flashNat v (b + 152) (Nat.max 8 (n - 152)) != 0

/-! ## What a reset clears (R30, R49, R106, R131) -/

/-- The device a memory byte lies in. -/
def locDev (loc : Nat) : Nat :=
  if loc < 2 ^ 44 then loc / 2 ^ 33
  else if loc < 2 ^ 45 then (loc - 2 ^ 44) / 2 ^ 29
  else (loc - 2 ^ 45) / 65536 / 49152 / 128

/-- The device whose NI has a number. -/
def niDev (n : Nat) : Nat :=
  if n < 2 ^ 24 then n / 16384 else if n < 2 ^ 25 then (n - 2 ^ 24) / 128 else (n - 2 ^ 25) / 32

/-- The device an operation in flight belongs to: that of the unit, part or record it acts for. -/
def opDev (s : State) (o : Op) : Nat :=
  match o.ins with
  | .asyncCauseDelivery slot _ _ | .fill slot _ _ _ | .accessAcknowledge slot _ _ | .releaseSend slot _ _
  | .refusalArrival slot _ _ _ _ | .faultReply slot _ _ _ | .waitTimeout slot _ _ | .watchdog slot _ _ => slotDev slot
  | .scratchpadAccess a _ | .sliceAccess a _ | .syncWordUpdate a _ => slotDev a.slot
  | .faultRecordAtRouter r _ _ | .faultWakeAtRouter r _ => r / 128
  | .faultWake c _ | .recordEnqueue c _ | .enqueueRetry c _ | .producerKill c _ _ _ => clusterDev c
  | .messageInjection m | .messageArrival m | .messageRetry m => m.part / 32
  | .levelUpdate u => u.part / 32
  | .barrierDeparture p _ _ _ _ | .barrierArrival p _ _ _ _ _ | .regionMemberKilled p _ _ _ | .dcDecrement p _ _ _ _ _
  | .dcSetArrival p _ _ _ _ _ _ _ _ | .tabledAnswer _ p _ _ _ _ _ => p / 32
  | .tabledRequest r | .chainWalkResult r _ _ _ => slotDev r.slot
  | .tabledDelivery d => slotDev d.slot
  | .streamWordArrival core _ _ _ _ => core / 16384
  | .closingMarkerArrival => (o.data.headD 0).toNat / 16384
  | .routeHop => o.who / 8 / 16384
  | .signingRequest => o.who / 16384
  | .regionMemberJoin | .regionVote | .regionAbortRequest | .regionDeadline | .regionInstallAck | .regionDiscardAck => o.who / 1024 / 128
  | .copyAccept | .copyDelivery | .copyCompletion => ((Sp.find s.copies o.who).map fun j => slotDev j.slot).getD 0
  | .cqDeclarationArrival => o.who / 64 / 128
  | .heartbeatTick | .heartbeatExpiry => o.who / 2 ^ 64 / 32
  | .qtailWrite | .qstatusStop | .qstatusResume | .cplerrClear | .packetStart | .qownWrite => o.who / 64
  | .launch | .wait | .signal | .copy | .timestamp | .nop | .packetCompletion => o.who / 2 ^ 32 / 64
  | .phaseSweep | .phflipArrival | .unitPlacement | .gangPlacement | .shootdown | .budgetPeriod | .partitionCreate | .partitionReset
  | .hostRmaRead | .hostRmaWrite | .hostSend | .hostSignalWrite => o.who / 32
  | .registerWrite => if o.data.headD 0 = 0 then o.who / 32 else o.who
  | .timerTick | .timerRelease | .stagger | .ptpMessage | .ptpMasterLoss | .powerGovernorUpdate | .linkPortDown | .flitRetry
  | .snapshotTrigger | .snapshotLatch | .snapshotRead | .deviceReset | .markerFlip | .imageWrite | .svnFloorRaise
  | .attestationRequest => o.who
  | .refusalTrap | .faultSave | .contextRestore | .unitStart | .preemption | .preemptionForced | .asyncCauseTaken => slotDev o.who
  | _ => o.who / 128

/-- Device reset (R30, R49, R78, R106, R131): everything a device holds is cleared but its flash and its fuses. -/
def clearDevice (s : State) (d : Nat) : State :=
  let v := s.dev d
  let off (n k : Nat) : Bool := k / n != d
  let away (o : Op) : Bool := opDev s o != d
  let tags := (s.slots.filter fun t => !off 131072 t.1).flatMap fun t => t.2.outst.map Outst.tag
  { s with
    mem := s.mem.filter (fun b => locDev b.1 != d)
    unseen := s.unseen.filter (fun u => locDev u.1 != d)
    slots := s.slots.filter (fun t => off 131072 t.1)
    cores := s.cores.filter (fun t => off 16384 t.1)
    clusters := s.clusters.filter (fun t => off 128 t.1)
    slices := s.slices.filter (fun t => off 128 t.1)
    routers := s.routers.filter (fun t => off 128 t.1)
    parts := s.parts.filter (fun t => off 32 t.1)
    devs := Sp.put s.devs d { flash := v.flash, keyHash := v.keyHash, floor := v.floor, since := s.now, ptpAt := s.now }
    levels := s.levels.filter (fun t => off 32 (t.1 / 2 ^ 64))
    assembly := s.assembly.filter (fun t => !tags.contains t.1)
    partners := s.partners.filter (fun t => off 1024 t.1)
    nis := s.nis.filter (fun t => niDev t.1 != d)
    copies := s.copies.filter (fun t => slotDev t.2.slot != d)
    parked := s.parked.filter (fun p => slotDev p.slot != d)
    barWait := s.barWait.filter (fun b => slotDev b.who.slot != d)
    orphans := s.orphans.filter (fun o : Orphan => slotDev o.slot != d)
    issuable := s.issuable.filter (fun i => slotDev i != d)
    due := s.due.filter away
    agenda := s.agenda.filter away
    timers := s.timers.map fun (t : Nat × List Op) => (t.1, t.2.filter away) }

/-! ## The boot (R436) -/

/-- The device stays in recovery. -/
def recover (s : State) (d : Nat) : State := s.updDev d fun v => { v with boot := { recovery := true, roles := [] } }

/-- The seed of the identity key pair (R440). -/
def identitySeed (d : Nat) : List Byte := Config.shake256 ([0x42, 0x46, 0x38, 0x2D, 0x49, 0x44] ++ Config.puf d) 32

/-- The key in a device's key register (R440). -/
def State.identity (s : State) (d : Nat) : List Byte := (s.dev d).seed.getD (identitySeed d)

/-- The domain identifier by which a device reports (R13, R438). DEDUCED (assumption 146): the DEVICE of the table it has booted; addresses and
STAGGER go by the device's number in State. -/
def State.deviceId (s : State) (d : Nat) : Nat := (s.dev d).boot.ident.getD d

/-- What boot programs from a verified configuration table: W, roles, DEVICE, harvested routers, PWRCAP, the routing tables. -/
def bootConfigured (s : State) (d slot : Nat) (m : Option Marker) (o : Nat) : State :=
  let v := s.dev d
  let b := o + headerLen
  let boot : Boot :=
    { recovery := false, slot := slot, svn := BitVec.ofNat 32 (imageSvn v (slotOffset slot)),
      seq := BitVec.ofNat 64 ((m.map Marker.seq).getD 0), digest := imageDigest v (slotOffset slot), cfgDigest := imageDigest v o,
      cfgSeq := BitVec.ofNat 64 (configSeq v o), ident := some (configDevice v b), harv := configHarv v b,
      roles := (configRoles v b).foldl (fun r q => Sp.put r q.1 q.2) [] }
  writeTables (s.setDev d { v with boot := boot, w := configW v b, seed := some (identitySeed d), pwrcap := Nat.min 4400 (configCap v b) }) d

/-- DEVICE_RESET of the device State.cur: it comes out of reset, and the boot ROM runs. -/
def deviceReset (s : State) : State :=
  let d := s.cur
  let s := (clearDevice s d).tick
  let v := s.dev d
  if Config.pufFails s.ticket then recover s d else
  match chooseSlot v with
  | none => recover s d
  | some (slot, m) =>
    match configSector v with
    | none => recover s d
    | some i =>
      let o := configOffset i
      if configRefused v (o + headerLen) (imageLength v o) then recover s d else bootConfigured s d slot m o

def execDeviceReset (s : State) : Out := .next (deviceReset s)

/-! ## Updates (R436, R437) -/

/-- MARKER_FLIP of the device State.cur: data is the slot; the sector that does not hold the marker in use is written. -/
def markerFlip (s : State) : State :=
  let d := s.cur
  let v := s.dev d
  let slot := (s.data.headD 0).toNat
  let use := markerInUse v
  let sector := (use.map fun u => 1 - u.1).getD 0
  let seq := (use.map fun u => u.2.seq).getD 0 + 1
  if 1 < slot ∨ 2 ^ 64 ≤ seq then s.answer 1 else
  let body := leBytes 0x4B4D4642 4 ++ leBytes slot 4 ++ leBytes seq 8 ++ imageDigest v (slotOffset slot)
  (s.setDev d (writeFlash v (sector * 0x10000) (body ++ Config.shake256 body 64))).answer 0

def execMarkerFlip (s : State) : Out := .next (markerFlip s)

/-- IMAGE_WRITE of the device State.cur: data are the slot, an offset in it, a count of bytes, and the words that hold them. In recovery only a
whole image is taken that is signed (R436). -/
def imageWrite (s : State) : State :=
  match s.data with
  | slot :: off :: n :: l =>
    if 1 < slot.toNat ∨ 2 ^ 25 < off.toNat + n.toNat ∨ 8 * l.length < n.toNat then s.answer 1 else
    let bytes := (l.flatMap fun w => leBytes w.toNat 8).take n.toNat
    let o := slotOffset slot.toNat
    let v := writeFlash (s.dev s.cur) (o + off.toNat) bytes
    if v.boot.recovery ∧ !(off == 0 && n.toNat == headerLen + imageLength v o && imageSigned v o) then s.answer 1
    else (s.setDev s.cur v).answer 0
  | _ => s.answer 1

def execImageWrite (s : State) : Out := .next (imageWrite s)

/-- SVN_FLOOR_RAISE of the device State.cur: data is the new floor; recovery does not accept it. -/
def svnFloorRaise (s : State) : State :=
  let v := s.dev s.cur
  let f : BitVec 32 := (s.data.headD 0).setWidth 32
  if v.boot.recovery ∨ f.toNat ≤ v.floor.toNat then s.answer 1 else (s.setDev s.cur { v with floor := f }).answer 0

def execSvnFloorRaise (s : State) : Out := .next (svnFloorRaise s)

/-! ## Attestation (R440, R441) -/

/-- The report of a device for a nonce. -/
def attestReport (s : State) (d : Nat) (nonce : List Byte) : List Byte :=
  let v := s.dev d
  let b := v.boot
  nonce ++ leBytes (s.deviceId d) 2 ++ leBytes b.slot 1 ++ leBytes 0 1 ++ leBytes b.svn.toNat 4 ++ leBytes b.seq.toNat 8 ++ b.digest ++ b.cfgDigest ++
    leBytes b.cfgSeq.toNat 8 ++ leBytes v.floor.toNat 4 ++ leBytes (s.ptpTime d).toNat 8

/-- A cluster of a device is halted. -/
def anyHalted (s : State) (d : Nat) : Bool := s.clusters.any fun c => clusterDev c.1 == d && dbgHalt c.2.dbgctl

/-- ATTESTATION_REQUEST of the device State.cur (R441): data is the nonce in four words; the answer is the report and its signature, one
byte a word. -/
def attestationRequest (s : State) : State :=
  let d := s.cur
  let v := s.dev d
  let nonce := (s.data.take 4).flatMap fun w => leBytes w.toNat 8
  if nonce.length ≠ 32 ∨ v.boot.recovery then s.answer 1 else
  let s' := s.setDev d { v with nonces := nonce :: v.nonces }
  if v.debugWrote then s'.answer 3
  else if anyHalted s d ∨ v.nonces.contains nonce then s'.answer 1
  else
    let r := attestReport s d nonce
    let sig := Config.sign (s.identity d) (Config.shake256 r 64)
    s'.answer 0 ((r ++ sig).map fun b => b.setWidth 64)

def execAttestationRequest (s : State) : Out := .next (attestationRequest s)

/-- SIGNING_REQUEST of the core State.cur (R440): data is a digest in eight words; the engine refuses every core whose role is not
attestation. -/
def signingRequest (s : State) : State :=
  let v := s.dev (s.cur / 16384)
  let digest := (s.data.take 8).flatMap fun w => leBytes w.toNat 8
  if v.boot.recovery ∨ s.role s.cur ≠ 4 ∨ digest.length ≠ 64 then s.answer 1
  else s.answer 0 ((Config.sign (s.identity (s.cur / 16384)) digest).map fun b => b.setWidth 64)

def execSigningRequest (s : State) : Out := .next (signingRequest s)

end Sys2Proof.Machine
end

