-- ==== Sys2Proof/Machine/Dispatch.lean ====
section
/-! DEFINITION. What every operation does: one arm per constructor of Instr, each one call of its meaning. -/

namespace Sys2Proof.Machine
open Sys2Proof

/-- The meaning of an operation at a state. -/
def exec (i : Instr) (s : State) : Host.Outcome State Fault Refusal :=
  match i with
  | .add x => Sys2Proof.Machine.execAdd x s
  | .sub x => Sys2Proof.Machine.execSub x s
  | .and x => Sys2Proof.Machine.execAnd x s
  | .or x => Sys2Proof.Machine.execOr x s
  | .xor x => Sys2Proof.Machine.execXor x s
  | .shl x => Sys2Proof.Machine.execShl x s
  | .shr x => Sys2Proof.Machine.execShr x s
  | .mul x => Sys2Proof.Machine.execMul x s
  | .slt x => Sys2Proof.Machine.execSlt x s
  | .min x => Sys2Proof.Machine.execMin x s
  | .max x => Sys2Proof.Machine.execMax x s
  | .addi x => Sys2Proof.Machine.execAddi x s
  | .andi x => Sys2Proof.Machine.execAndi x s
  | .ori x => Sys2Proof.Machine.execOri x s
  | .xori x => Sys2Proof.Machine.execXori x s
  | .shli x => Sys2Proof.Machine.execShli x s
  | .shri x => Sys2Proof.Machine.execShri x s
  | .srai x => Sys2Proof.Machine.execSrai x s
  | .slti x => Sys2Proof.Machine.execSlti x s
  | .movi x => Sys2Proof.Machine.execMovi x s
  | .movhi x => Sys2Proof.Machine.execMovhi x s
  | .lea x => Sys2Proof.Machine.execLea x s
  | .br x => Sys2Proof.Machine.execBr x s
  | .call x => Sys2Proof.Machine.execCall x s
  | .jr x => Sys2Proof.Machine.execJr x s
  | .beq x => Sys2Proof.Machine.execBeq x s
  | .bne x => Sys2Proof.Machine.execBne x s
  | .blt x => Sys2Proof.Machine.execBlt x s
  | .bge x => Sys2Proof.Machine.execBge x s
  | .bltu x => Sys2Proof.Machine.execBltu x s
  | .bgeu x => Sys2Proof.Machine.execBgeu x s
  | .bz x => Sys2Proof.Machine.execBz x s
  | .bnz x => Sys2Proof.Machine.execBnz x s
  | .loop x => Sys2Proof.Machine.execLoop x s
  | .ldBu x => Sys2Proof.Machine.execLdBu x s
  | .ldHu x => Sys2Proof.Machine.execLdHu x s
  | .ldWu x => Sys2Proof.Machine.execLdWu x s
  | .ldD x => Sys2Proof.Machine.execLdD x s
  | .ldBs x => Sys2Proof.Machine.execLdBs x s
  | .ldHs x => Sys2Proof.Machine.execLdHs x s
  | .ldWs x => Sys2Proof.Machine.execLdWs x s
  | .stB x => Sys2Proof.Machine.execStB x s
  | .stH x => Sys2Proof.Machine.execStH x s
  | .stW x => Sys2Proof.Machine.execStW x s
  | .stD x => Sys2Proof.Machine.execStD x s
  | .vld x => Sys2Proof.Machine.execVld x s
  | .vst x => Sys2Proof.Machine.execVst x s
  | .mulhu x => Sys2Proof.Machine.execMulhu x s
  | .mulhs x => Sys2Proof.Machine.execMulhs x s
  | .div x => Sys2Proof.Machine.execDiv x s
  | .rem x => Sys2Proof.Machine.execRem x s
  | .clz x => Sys2Proof.Machine.execClz x s
  | .ctz x => Sys2Proof.Machine.execCtz x s
  | .popc x => Sys2Proof.Machine.execPopc x s
  | .rot x => Sys2Proof.Machine.execRot x s
  | .extu x => Sys2Proof.Machine.execExtu x s
  | .exts x => Sys2Proof.Machine.execExts x s
  | .ins x => Sys2Proof.Machine.execIns x s
  | .fadd x => Sys2Proof.Machine.execFadd x s
  | .fsub x => Sys2Proof.Machine.execFsub x s
  | .fmul x => Sys2Proof.Machine.execFmul x s
  | .fma x => Sys2Proof.Machine.execFma x s
  | .fmin x => Sys2Proof.Machine.execFmin x s
  | .fmax x => Sys2Proof.Machine.execFmax x s
  | .flt x => Sys2Proof.Machine.execFlt x s
  | .feq x => Sys2Proof.Machine.execFeq x s
  | .fcvtf x => Sys2Proof.Machine.execFcvtf x s
  | .fcvti x => Sys2Proof.Machine.execFcvti x s
  | .fdiv x => Sys2Proof.Machine.execFdiv x s
  | .fsqrt x => Sys2Proof.Machine.execFsqrt x s
  | .vadd x => Sys2Proof.Machine.execVadd x s
  | .vsub x => Sys2Proof.Machine.execVsub x s
  | .vmul x => Sys2Proof.Machine.execVmul x s
  | .vmin x => Sys2Proof.Machine.execVmin x s
  | .vmax x => Sys2Proof.Machine.execVmax x s
  | .vand x => Sys2Proof.Machine.execVand x s
  | .vor x => Sys2Proof.Machine.execVor x s
  | .vxor x => Sys2Proof.Machine.execVxor x s
  | .vshl x => Sys2Proof.Machine.execVshl x s
  | .vshr x => Sys2Proof.Machine.execVshr x s
  | .vfadd x => Sys2Proof.Machine.execVfadd x s
  | .vfsub x => Sys2Proof.Machine.execVfsub x s
  | .vfmul x => Sys2Proof.Machine.execVfmul x s
  | .vfma x => Sys2Proof.Machine.execVfma x s
  | .vfmin x => Sys2Proof.Machine.execVfmin x s
  | .vfmax x => Sys2Proof.Machine.execVfmax x s
  | .vfclt x => Sys2Proof.Machine.execVfclt x s
  | .vfcle x => Sys2Proof.Machine.execVfcle x s
  | .vfceq x => Sys2Proof.Machine.execVfceq x s
  | .viclt x => Sys2Proof.Machine.execViclt x s
  | .viceq x => Sys2Proof.Machine.execViceq x s
  | .vsel x => Sys2Proof.Machine.execVsel x s
  | .vbcast x => Sys2Proof.Machine.execVbcast x s
  | .vext x => Sys2Proof.Machine.execVext x s
  | .vins x => Sys2Proof.Machine.execVins x s
  | .vperm x => Sys2Proof.Machine.execVperm x s
  | .vrsum x => Sys2Proof.Machine.execVrsum x s
  | .vfexp2 x => Sys2Proof.Machine.execVfexp2 x s
  | .vflog2 x => Sys2Proof.Machine.execVflog2 x s
  | .vfrcp x => Sys2Proof.Machine.execVfrcp x s
  | .vfrsq x => Sys2Proof.Machine.execVfrsq x s
  | .vcvt x => Sys2Proof.Machine.execVcvt x s
  | .vscale x => Sys2Proof.Machine.execVscale x s
  | .vamax x => Sys2Proof.Machine.execVamax x s
  | .vgath x => Sys2Proof.Machine.execVgath x s
  | .vscat x => Sys2Proof.Machine.execVscat x s
  | .vldf x => Sys2Proof.Machine.execVldf x s
  | .kand x => Sys2Proof.Machine.execKand x s
  | .kor x => Sys2Proof.Machine.execKor x s
  | .kxor x => Sys2Proof.Machine.execKxor x s
  | .knot x => Sys2Proof.Machine.execKnot x s
  | .ktog x => Sys2Proof.Machine.execKtog x s
  | .gtok x => Sys2Proof.Machine.execGtok x s
  | .aadd x => Sys2Proof.Machine.execAadd x s
  | .asmin x => Sys2Proof.Machine.execAsmin x s
  | .asmax x => Sys2Proof.Machine.execAsmax x s
  | .aumin x => Sys2Proof.Machine.execAumin x s
  | .aumax x => Sys2Proof.Machine.execAumax x s
  | .aand x => Sys2Proof.Machine.execAand x s
  | .aor x => Sys2Proof.Machine.execAor x s
  | .axor x => Sys2Proof.Machine.execAxor x s
  | .aswp x => Sys2Proof.Machine.execAswp x s
  | .cas x => Sys2Proof.Machine.execCas x s
  | .fence x => Sys2Proof.Machine.execFence x s
  | .acq x => Sys2Proof.Machine.execAcq x s
  | .rel x => Sys2Proof.Machine.execRel x s
  | .bind x => Sys2Proof.Machine.execBind x s
  | .cpy x => Sys2Proof.Machine.execCpy x s
  | .cpys x => Sys2Proof.Machine.execCpys x s
  | .cpy3 x => Sys2Proof.Machine.execCpy3 x s
  | .cpym x => Sys2Proof.Machine.execCpym x s
  | .guard x => Sys2Proof.Machine.execGuard x s
  | .tglook x => Sys2Proof.Machine.execTglook x s
  | .tgset x => Sys2Proof.Machine.execTgset x s
  | .tgclr x => Sys2Proof.Machine.execTgclr x s
  | .tgcfg x => Sys2Proof.Machine.execTgcfg x s
  | .mxlease x => Sys2Proof.Machine.execMxlease x s
  | .mxfree x => Sys2Proof.Machine.execMxfree x s
  | .mxcfg x => Sys2Proof.Machine.execMxcfg x s
  | .mxunf x => Sys2Proof.Machine.execMxunf x s
  | .mxldb x => Sys2Proof.Machine.execMxldb x s
  | .mxzero x => Sys2Proof.Machine.execMxzero x s
  | .mxrun x => Sys2Proof.Machine.execMxrun x s
  | .mxrd x => Sys2Proof.Machine.execMxrd x s
  | .mxrdx x => Sys2Proof.Machine.execMxrdx x s
  | .mxstat x => Sys2Proof.Machine.execMxstat x s
  | .mxstop x => Sys2Proof.Machine.execMxstop x s
  | .mxresume x => Sys2Proof.Machine.execMxresume x s
  | .mxwait x => Sys2Proof.Machine.execMxwait x s
  | .send x => Sys2Proof.Machine.execSend x s
  | .sendm x => Sys2Proof.Machine.execSendm x s
  | .popen x => Sys2Proof.Machine.execPopen x s
  | .pclose x => Sys2Proof.Machine.execPclose x s
  | .plisten x => Sys2Proof.Machine.execPlisten x s
  | .pstat x => Sys2Proof.Machine.execPstat x s
  | .cqdecl x => Sys2Proof.Machine.execCqdecl x s
  | .cqpush x => Sys2Proof.Machine.execCqpush x s
  | .cqpop x => Sys2Proof.Machine.execCqpop x s
  | .cqstat x => Sys2Proof.Machine.execCqstat x s
  | .rdxadd x => Sys2Proof.Machine.execRdxadd x s
  | .twrel x => Sys2Proof.Machine.execTwrel x s
  | .time x => Sys2Proof.Machine.execTime x s
  | .dcset x => Sys2Proof.Machine.execDcset x s
  | .dcdec x => Sys2Proof.Machine.execDcdec x s
  | .swinit x => Sys2Proof.Machine.execSwinit x s
  | .swwait x => Sys2Proof.Machine.execSwwait x s
  | .swadd x => Sys2Proof.Machine.execSwadd x s
  | .bar x => Sys2Proof.Machine.execBar x s
  | .phflip x => Sys2Proof.Machine.execPhflip x s
  | .quiet x => Sys2Proof.Machine.execQuiet x s
  | .tcall x => Sys2Proof.Machine.execTcall x s
  | .tret x => Sys2Proof.Machine.execTret x s
  | .tseed x => Sys2Proof.Machine.execTseed x s
  | .tpin x => Sys2Proof.Machine.execTpin x s
  | .tunpin x => Sys2Proof.Machine.execTunpin x s
  | .tinv x => Sys2Proof.Machine.execTinv x s
  | .tqry x => Sys2Proof.Machine.execTqry x s
  | .arnew x => Sys2Proof.Machine.execArnew x s
  | .aren x => Sys2Proof.Machine.execAren x s
  | .arcom x => Sys2Proof.Machine.execArcom x s
  | .arabt x => Sys2Proof.Machine.execArabt x s
  | .arinfo x => Sys2Proof.Machine.execArinfo x s
  | .lvinc x => Sys2Proof.Machine.execLvinc x s
  | .lvdec x => Sys2Proof.Machine.execLvdec x s
  | .lvwait x => Sys2Proof.Machine.execLvwait x s
  | .lvcancel x => Sys2Proof.Machine.execLvcancel x s
  | .trap x => Sys2Proof.Machine.execTrap x s
  | .rft x => Sys2Proof.Machine.execRft x s
  | .sysr x => Sys2Proof.Machine.execSysr x s
  | .sysw x => Sys2Proof.Machine.execSysw x s
  | .exit x => Sys2Proof.Machine.execExit x s
  | .yield x => Sys2Proof.Machine.execYield x s
  | .persist x => Sys2Proof.Machine.execPersist x s
  | .beat x => Sys2Proof.Machine.execBeat x s
  | .brk x => Sys2Proof.Machine.execBrk x s
  | .illegalGroup fetch word pos addr => Sys2Proof.Machine.execIllegalGroup fetch word pos addr s
  | .asyncCauseDelivery slot gen cause => Sys2Proof.Machine.execAsyncCauseDelivery slot gen cause s
  | .fill slot gen tag v => Sys2Proof.Machine.execFill slot gen tag v s
  | .accessAcknowledge slot gen tag => Sys2Proof.Machine.execAccessAcknowledge slot gen tag s
  | .releaseSend slot gen tag => Sys2Proof.Machine.execReleaseSend slot gen tag s
  | .refusalArrival slot gen tag cause addr => Sys2Proof.Machine.execRefusalArrival slot gen tag cause addr s
  | .faultReply slot gen tag page => Sys2Proof.Machine.execFaultReply slot gen tag page s
  | .faultRecordAtRouter router port r => Sys2Proof.Machine.execFaultRecordAtRouter router port r s
  | .faultWakeAtRouter router w => Sys2Proof.Machine.execFaultWakeAtRouter router w s
  | .faultWake cluster w => Sys2Proof.Machine.execFaultWake cluster w s
  | .waitTimeout slot gen attempt => Sys2Proof.Machine.execWaitTimeout slot gen attempt s
  | .watchdog slot gen attempt => Sys2Proof.Machine.execWatchdog slot gen attempt s
  | .messageInjection m => Sys2Proof.Machine.execMessageInjection m s
  | .messageArrival m => Sys2Proof.Machine.execMessageArrival m s
  | .messageRetry m => Sys2Proof.Machine.execMessageRetry m s
  | .scratchpadAccess a j => Sys2Proof.Machine.execScratchpadAccess a j s
  | .sliceAccess a j => Sys2Proof.Machine.execSliceAccess a j s
  | .syncWordUpdate a copy => Sys2Proof.Machine.execSyncWordUpdate a copy s
  | .dcDecrement part name n slot gen tag => Sys2Proof.Machine.execDcDecrement part name n slot gen tag s
  | .dcSetArrival part name count recd level home slot gen tag => Sys2Proof.Machine.execDcSetArrival part name count recd level home slot gen tag s
  | .recordEnqueue cluster r => Sys2Proof.Machine.execRecordEnqueue cluster r s
  | .enqueueRetry cluster r => Sys2Proof.Machine.execEnqueueRetry cluster r s
  | .levelUpdate u => Sys2Proof.Machine.execLevelUpdate u s
  | .tabledRequest r => Sys2Proof.Machine.execTabledRequest r s
  | .chainWalkResult r cycle members stamps => Sys2Proof.Machine.execChainWalkResult r cycle members stamps s
  | .tabledAnswer kind part entry ans slot gen tag => Sys2Proof.Machine.execTabledAnswer kind part entry ans slot gen tag s
  | .tabledDelivery d => Sys2Proof.Machine.execTabledDelivery d s
  | .producerKill cluster idx slot gen => Sys2Proof.Machine.execProducerKill cluster idx slot gen s
  | .regionMemberKilled part region slot gen => Sys2Proof.Machine.execRegionMemberKilled part region slot gen s
  | .barrierArrival part addr slot gen tag nb => Sys2Proof.Machine.execBarrierArrival part addr slot gen tag nb s
  | .barrierDeparture part addr slot gen bgen => Sys2Proof.Machine.execBarrierDeparture part addr slot gen bgen s
  | .streamWordArrival core port src srcPort v => Sys2Proof.Machine.execStreamWordArrival core port src srcPort v s
  | .asyncCauseTaken => Sys2Proof.Machine.execAsyncCauseTaken s
  | .refusalTrap => Sys2Proof.Machine.execRefusalTrap s
  | .faultSave => Sys2Proof.Machine.execFaultSave s
  | .shootdown => Sys2Proof.Machine.execShootdown s
  | .contextRestore => Sys2Proof.Machine.execContextRestore s
  | .unitStart => Sys2Proof.Machine.execUnitStart s
  | .preemption => Sys2Proof.Machine.execPreemption s
  | .preemptionForced => Sys2Proof.Machine.execPreemptionForced s
  | .preemptRequest => Sys2Proof.Machine.execPreemptRequest s
  | .heartbeatTick => Sys2Proof.Machine.execHeartbeatTick s
  | .heartbeatExpiry => Sys2Proof.Machine.execHeartbeatExpiry s
  | .eccUncorrectable => Sys2Proof.Machine.execEccUncorrectable s
  | .copyAccept => Sys2Proof.Machine.execCopyAccept s
  | .copyDelivery => Sys2Proof.Machine.execCopyDelivery s
  | .copyCompletion => Sys2Proof.Machine.execCopyCompletion s
  | .dcFire => Sys2Proof.Machine.execDcFire s
  | .schedulerDispatch => Sys2Proof.Machine.execSchedulerDispatch s
  | .priorityAging => Sys2Proof.Machine.execPriorityAging s
  | .stealProbe => Sys2Proof.Machine.execStealProbe s
  | .clusterReport => Sys2Proof.Machine.execClusterReport s
  | .unitPlacement => Sys2Proof.Machine.execUnitPlacement s
  | .gangPlacement => Sys2Proof.Machine.execGangPlacement s
  | .phaseSweep => Sys2Proof.Machine.execPhaseSweep s
  | .phflipArrival => Sys2Proof.Machine.execPhflipArrival s
  | .timerTick => Sys2Proof.Machine.execTimerTick s
  | .timerRelease => Sys2Proof.Machine.execTimerRelease s
  | .stagger => Sys2Proof.Machine.execStagger s
  | .ptpMessage => Sys2Proof.Machine.execPtpMessage s
  | .cqDeclarationArrival => Sys2Proof.Machine.execCqDeclarationArrival s
  | .cqPushArrival => Sys2Proof.Machine.execCqPushArrival s
  | .cqPushRetry => Sys2Proof.Machine.execCqPushRetry s
  | .cqPopRequest => Sys2Proof.Machine.execCqPopRequest s
  | .confluenceSelect => Sys2Proof.Machine.execConfluenceSelect s
  | .regionMemberJoin => Sys2Proof.Machine.execRegionMemberJoin s
  | .prepare => Sys2Proof.Machine.execPrepare s
  | .regionVote => Sys2Proof.Machine.execRegionVote s
  | .regionInstall => Sys2Proof.Machine.execRegionInstall s
  | .regionInstallAck => Sys2Proof.Machine.execRegionInstallAck s
  | .regionAbortRequest => Sys2Proof.Machine.execRegionAbortRequest s
  | .regionDiscard => Sys2Proof.Machine.execRegionDiscard s
  | .regionDiscardAck => Sys2Proof.Machine.execRegionDiscardAck s
  | .regionDeadline => Sys2Proof.Machine.execRegionDeadline s
  | .routeHop => Sys2Proof.Machine.execRouteHop s
  | .closingMarkerArrival => Sys2Proof.Machine.execClosingMarkerArrival s
  | .leaseGrant => Sys2Proof.Machine.execLeaseGrant s
  | .leaseBudgetEnd => Sys2Proof.Machine.execLeaseBudgetEnd s
  | .graceEnd => Sys2Proof.Machine.execGraceEnd s
  | .sequencerCommand => Sys2Proof.Machine.execSequencerCommand s
  | .macroStep => Sys2Proof.Machine.execMacroStep s
  | .readout => Sys2Proof.Machine.execReadout s
  | .readoutCompletion => Sys2Proof.Machine.execReadoutCompletion s
  | .qtailWrite => Sys2Proof.Machine.execQtailWrite s
  | .qstatusStop => Sys2Proof.Machine.execQstatusStop s
  | .qstatusResume => Sys2Proof.Machine.execQstatusResume s
  | .cplerrClear => Sys2Proof.Machine.execCplerrClear s
  | .qownWrite => Sys2Proof.Machine.execQownWrite s
  | .registerWrite => Sys2Proof.Machine.execRegisterWrite s
  | .hostRmaWrite => Sys2Proof.Machine.execHostRmaWrite s
  | .hostRmaRead => Sys2Proof.Machine.execHostRmaRead s
  | .packetStart => Sys2Proof.Machine.execPacketStart s
  | .launch => Sys2Proof.Machine.execLaunch s
  | .wait => Sys2Proof.Machine.execWait s
  | .signal => Sys2Proof.Machine.execSignal s
  | .copy => Sys2Proof.Machine.execCopy s
  | .timestamp => Sys2Proof.Machine.execTimestamp s
  | .nop => Sys2Proof.Machine.execNop s
  | .packetCompletion => Sys2Proof.Machine.execPacketCompletion s
  | .budgetPeriod => Sys2Proof.Machine.execBudgetPeriod s
  | .powerGovernorUpdate => Sys2Proof.Machine.execPowerGovernorUpdate s
  | .flitRetry => Sys2Proof.Machine.execFlitRetry s
  | .linkPortDown => Sys2Proof.Machine.execLinkPortDown s
  | .routerFailure => Sys2Proof.Machine.execRouterFailure s
  | .partitionReset => Sys2Proof.Machine.execPartitionReset s
  | .halt => Sys2Proof.Machine.execHalt s
  | .haltRelease => Sys2Proof.Machine.execHaltRelease s
  | .debugStep => Sys2Proof.Machine.execDebugStep s
  | .triggerFire => Sys2Proof.Machine.execTriggerFire s
  | .debugAccess => Sys2Proof.Machine.execDebugAccess s
  | .snapshotTrigger => Sys2Proof.Machine.execSnapshotTrigger s
  | .snapshotLatch => Sys2Proof.Machine.execSnapshotLatch s
  | .snapshotRead => Sys2Proof.Machine.execSnapshotRead s
  | .deviceReset => Sys2Proof.Machine.execDeviceReset s
  | .markerFlip => Sys2Proof.Machine.execMarkerFlip s
  | .imageWrite => Sys2Proof.Machine.execImageWrite s
  | .svnFloorRaise => Sys2Proof.Machine.execSvnFloorRaise s
  | .attestationRequest => Sys2Proof.Machine.execAttestationRequest s
  | .signingRequest => Sys2Proof.Machine.execSigningRequest s
  | .hostSignalWrite => Sys2Proof.Machine.execHostSignalWrite s
  | .partitionCreate => Sys2Proof.Machine.execPartitionCreate s
  | .hostSend => Sys2Proof.Machine.execHostSend s
  | .ptpMasterLoss => Sys2Proof.Machine.execPtpMasterLoss s

end Sys2Proof.Machine
end

