-- ==== Sys2Proof/Machine/Agenda.lean ====
section
/-! DEFINITION. What may happen next (R29, R172, R192, R204, R205): which operations in flight may be performed, what the slots,
the schedulers and the Sorting Office do of themselves, which slots issue in this cycle, and the passing of a cycle. -/

namespace Sys2Proof.Machine
open Sys2Proof

/-! ## Operations in flight -/

/-- The piece of an access that an operation in flight performs. -/
def opPiece (o : Op) : Option (Access × Nat) :=
  match o.ins with
  | .scratchpadAccess a i | .sliceAccess a i => some (a, i)
  | _ => none

/-- A lower lane of the same gather or scatter to the same line is still to be performed (R272). -/
def lowerLane (s : State) (a : Access) (i key : Nat) : Bool :=
  let line (j : Nat) : Option Nat :=
    ((accPieces a)[j]?).bind fun p => (s.target (slotCore a.slot) a.part a.mode p.ea).map Target.line
  let lower (o : Op) : Bool := match opPiece o with
    | some (b, j) => b.slot == a.slot && b.gen == a.gen && b.tag == a.tag && decide (j < i) && line j == some key
    | none => false
  (a.op == .gath || a.op == .scat) && (s.agenda.any lower || s.slices.any fun x => x.2.stalled.any lower)

/-- A piece of an access may be performed: no earlier access of its slot to its line is outstanding, nor to that of a scale slot, and no
lower lane to its line is left (R192, R272, R279). -/
def lineFree (s : State) (a : Access) (i : Nat) : Bool :=
  let p := (accPieces a).getD i { ea := a.ea, len := 1, pos := 0 }
  (((s.target (slotCore a.slot) a.part a.mode p.ea).map Target.line).toList ++ (scaleLine s a).toList).all fun key =>
    !lineHeld s a.slot a.gen a.tag key && !lowerLane s a i key

/-- A member's access to a line waits there for the DISCARD of another region that has aborted and still has an entry (R121, R453). -/
def discardFirst (s : State) (a : Access) (i : Nat) : Bool :=
  match memberRegion s a, ((accPieces a)[i]?).bind fun p => s.target (slotCore a.slot) a.part a.mode p.ea with
  | some _, some (.second dev va) =>
    (s.lineEntries (pageSlice dev va) (s.partAt a.part dev) (va / 64)).any fun e =>
      a.region != some e.region && ((regionOf s e.home e.region).map fun q => q.2.2.st) == some 3
  | _, _ => false

/-- An access of a region's member is on its way that was issued before a place in the order of issue, and nothing keeps it from being
performed. -/
def memberFlying (s : State) (place at_ : Nat) : Bool :=
  s.agenda.any fun o => match opPiece o with
    | some (a, i) => decide (a.tag / 4 ≤ at_) && ((memberRegion s a).map Prod.fst) == some place && o.inj.isNone && o.spent.isNone &&
        !s.sliceSpent a.part && lineFree s a i
    | none => false

/-- The condition of a release that is still held (R196, R343, R346): the earlier writes it covers are acknowledged. -/
def releaseFree (s : State) (slot : Nat) (gen : BitVec 32) (tag : Nat) : Bool :=
  let t := s.slot slot
  let covers (o : Outst) : Bind := o.bind.getD { obj := 0, wide := true, ranges := [], level := 0, part := 0 }
  let earlier (q : Orphan) : Bool := q.slot == slot && q.gen == gen && decide (q.entry.tag < tag)
  if s.hasEntry slot gen tag then
    !t.stopped && (match t.outst.find? (fun o : Outst => o.tag == tag) with
      | some o => !(t.outst.any (holdsRelease (covers o) tag)) && !(s.orphans.any earlier)
      | none => true)
  else !(s.orphans.any earlier)

/-- The message of an operation that carries one. -/
def opMsg (o : Op) : Option Msg :=
  match o.ins with
  | .messageInjection m | .messageArrival m | .messageRetry m => some m
  | _ => none

/-- Every operation of the machine that has not happened yet. -/
def State.allOps (s : State) : List Op := s.due ++ s.agenda ++ s.timers.flatMap Prod.snd

/-- A message is the first of its route, and the stores of its sender to the destination's core have been performed (R80, R197). -/
def messageFree (s : State) (m : Msg) : Bool :=
  let earlier (o : Op) : Bool := match opMsg o with
    | some q => q.src == m.src && q.dst == m.dst && decide (q.seq < m.seq)
    | none => false
  let storing (tag : Nat) : Bool :=
    (List.range 8).any (fun j =>
      let t := s.slot (m.src * 8 + j)
      t.outst.any (fun o : Outst => o.tag == tag) || t.saved.any (fun c => c.tags.contains tag)) ||
      s.orphans.any (fun o : Orphan => o.entry.tag == tag)
  !(s.allOps.any earlier) && !(m.after.any storing)

/-- A message's increment of its launch has been acknowledged (R137, R328). -/
def incrementDone (s : State) (m : Msg) : Bool :=
  let mine (u : LevelUpd) : Bool := u.add && !u.ack && u.slot == m.slot && u.gen == m.sgen && u.tag == m.tag
  let adds := s.agenda.filter fun o => match o.ins with
    | .levelUpdate u => mine u
    | _ => false
  let waits := s.agenda.filter fun o => match o.ins with
    | .messageInjection q => q.slot == m.slot && q.sgen == m.sgen && q.tag == m.tag
    | _ => false
  m.tag == 0 || decide (adds.length < waits.length)

/-- The slot for which a halt holds an operation (R426): a wake, a fault reply, a pre-emption request, an asynchronous cause or a lease grant
for a slot that holds its unit. The fills of outstanding accesses are written. -/
def haltHolds (s : State) (o : Op) : Option Nat :=
  let unit (slot : Nat) (gen : BitVec 32) : Option Nat :=
    if (s.slot slot).st != .idle && (s.slot slot).gen == gen && s.clusterHalted (slotCluster slot) then some slot else none
  match o.ins with
  | .fill slot gen tag _ => if (s.slot slot).outst.any fun e : Outst => e.tag == tag && !e.access then unit slot gen else none
  | .tabledDelivery d => unit d.slot d.gen
  | .faultReply slot gen _ _ | .asyncCauseDelivery slot gen _ => unit slot gen
  | .leaseGrant => if s.clusterHalted o.who then (s.arr o.who).leaseQ.head?.map Asker.slot else none
  | _ => none

/-- A delivery of the Pigeonhole can reach its unit: resident, and waiting for it or, for a trap at a boundary, at one (R186, R356); a stopped
slot awaits the answer of its request, and a suspended one takes its wake after the stop (R72, R185). -/
def deliveryFree (s : State) (d : TabledMsg) : Bool :=
  let t := s.slot d.slot
  let here := t.st != .idle && t.gen == d.gen
  let awaits := t.st == .waiting (.answer d.tag)
  !(t.saved.any fun c => c.gen == d.gen) && (!here || s.clusterHalted (slotCluster d.slot) || ((!t.stopped || awaits) &&
    (d.kind != 6 || awaits || t.softWait)))

/-- A fill may be performed: the link of a port that its form's d names has room, or the port is closed. -/
def fillFree (s : State) (slot : Nat) (gen : BitVec 32) (tag : Nat) : Bool :=
  let t := s.slot slot
  match (if t.st ≠ .idle ∧ t.gen = gen then t.outst.find? (fun o : Outst => o.tag == tag) else none).bind Outst.portOf with
  | none => true
  | some i => let p := s.port (slotCore slot) i
              !p.writable || s.portRoom p

/-- Whether an operation in flight may be performed now; `before` are the ones that stand before it. Bytes of one stream route, and
the words a route has sent, arrive in order; what R426 halts, and what a budget holds back (R147), waits. DEDUCED (assumption 137): a request
for a region's abort arrives behind what the region's members issued before it was sent. -/
def enabled (s : State) (before : List Op) (o : Op) : Bool :=
  let firstOnRoute := !(before.any fun q => q.who == o.who && (match q.ins with
    | .streamWordArrival _ _ _ _ _ | .closingMarkerArrival => true
    | _ => false))
  o.inj.isNone && (o.spent.all fun p => !s.sliceSpent p) && match o.ins with
  | .scratchpadAccess a i => lineFree s a i
  | .sliceAccess a i => lineFree s a i && !s.sliceSpent a.part && !discardFirst s a i
  | .regionAbortRequest => !memberFlying s o.who (o.data.getD 5 0).toNat
  | .syncWordUpdate a c => c != 0 || lineFree s a 0
  | .fill slot gen tag _ => fillFree s slot gen tag
  | .releaseSend slot gen tag => releaseFree s slot gen tag
  | .hostRmaWrite | .qtailWrite => rodTurn s o
  | .cqPushArrival => !confluenceReady s o.who
  | .cqPopRequest => popTurn s o
  | .messageInjection m => incrementDone s m
  | .messageArrival m => messageFree s m && arrivalTurn s m
  | .streamWordArrival _ _ _ _ _ | .closingMarkerArrival => firstOnRoute
  | .tabledDelivery d => deliveryFree s d
  | .barrierDeparture part addr slot gen _ => departureFree s part addr slot gen (o.data.headD 0)
  | .copyAccept => match Sp.find s.copies o.who with
    | some j => j.todo.any fun r => tagFree s j r.1
    | none => true
  | .copyCompletion => match Sp.find s.copies o.who with
    | some j => !courierHalted s (j.lead s)
    | none => true
  | .copyDelivery => match Sp.find s.copies o.who with
    | some j => !o.data.isEmpty || !j.flying.isEmpty || !(sendable s j).isEmpty
    | none => true
  | .macroStep => !s.clusterHalted o.who
  | .sequencerCommand | .readoutCompletion => (s.cluster o.who).frozenAt.isNone
  | .readout => (s.cluster o.who).frozenAt.isNone || !(s.cluster o.who).arr.flying.isEmpty
  | .partitionReset => decide ((o.data.headD 1).toNat / 256 ≤ 1) || !(s.part o.who).resetting || resetSettled s o.who
  | _ => true

/-! ## What happens next -/

/-- A way the machine may go on: an operation in flight, with the agenda without it; an operation of a slot's or another part's
own; the issue of a group; what a halt has held for a slot of a cluster; or the passing of a cycle. -/
inductive Move where
  | event (o : Op) (rest : List Op)
  | ofSlot (slot : Nat) (i : Instr)
  | own (o : Op)
  | issue (slot : Nat)
  | resume (c : Nat)
  | tick
deriving DecidableEq, Repr

/-- The operations in flight that may be performed: `before` is the part of the agenda that has been looked at. -/
def agendaMoves (s : State) (before : List Op) : List Op → List Move
  | [] => []
  | o :: l =>
    let rest := agendaMoves s (before ++ [o]) l
    if enabled s before o then .event o (before ++ l) :: rest else rest

/-- Whether a pre-emption request of a context takes it at the group it is about to issue (R126, R183). -/
def preemptsHere (s : State) (slot : Nat) : Bool :=
  match (s.slot slot).preempt with
  | some n => (s.slot slot).atGroup &&
      (decide (2 ^ 16 ≤ n) || (sideEntry s (slotCore slot) (s.slot slot).pc.toNat).isSome)
  | none => false

/-- What a slot does beside its groups, if anything: the end of a stop (R72, R185), a restore or a start (R82, R184), a cause
(R186), a pre-emption (R183). -/
def slotOwn (s : State) (slot : Nat) : Option Instr :=
  let t := s.slot slot
  if s.halted slot then none
  else if (s.wakeEntry slot).isSome ∧ !(s.part (s.partOf (slotCluster slot))).resetting then some .unitStart
  else if t.st = .idle then
    if (s.part (s.partOf (slotCluster slot))).resetting then none
    else if (restoreChoice s slot).isSome then (if restoresNow s slot then some .contextRestore else none)
    else if s.takesEntry slot then some .unitStart else none
  else if t.stopped then
    if !t.settled || !t.pages.isEmpty then none else
    match t.deciding.bind Outst.reply with
    | some (.refused _ _) => some .refusalTrap
    | _ => some .faultSave
  else if t.owes.isSome || (t.asyncCause.isSome && s.softWait slot) then some .asyncCauseTaken
  else
    let others := t.outst.filter fun o : Outst => match t.st with
      | .waiting (.answer g) => o.tag != g
      | _ => true
    match t.preempt with
    | some n =>
      if s.openWait slot && others.isEmpty then some .preemption
      else if t.outst.isEmpty ∧ preemptsHere s slot then
        (if 2 ^ 16 ≤ n ∧ (sideEntry s (slotCore slot) t.pc.toNat).isNone then some .preemptionForced else some .preemption)
      else none
    | none => none

/-- The slots the machine has touched, and those of the cores it has touched. -/
def State.slotNumbers (s : State) : List Nat :=
  s.slots.map Prod.fst ++ (s.cores.flatMap fun c => (List.range 8).map fun j => c.1 * 8 + j).filter fun i => (Sp.find s.slots i).isNone

/-- A cluster that has been released acts on what the halt held, in the order of arrival, each once the one before has acted (R426). -/
def resumes (s : State) (c : Nat × Cluster) : Bool :=
  match c.2.haltHeld with
  | (slot, _) :: _ => !s.clusterHalted c.1 && (slotOwn s slot).isNone
  | [] => false

/-- What slots and Confluence slices do of themselves, before the cycle ends. -/
def forcedMoves (s : State) : List Move :=
  (s.clusters.filter (resumes s)).map (fun c => .resume c.1) ++
  (s.slotNumbers.filterMap fun i => (slotOwn s i).map fun x => .ofSlot i x) ++
    (s.clusters.filter fun c => confluenceReady s c.1).map fun c => .own { who := c.1, ins := .confluenceSelect }

/-- What schedulers, the Sorting Office and the Headwater do in their own time. -/
def ownMoves (s : State) : List Move :=
  ((s.clusters.filter fun c => !(s.part (s.partOf c.1)).resetting && (dispatchChoice s c.1).isSome).map fun c =>
    .own { who := c.1, ins := .schedulerDispatch }) ++
  (s.parts.filterMap fun p => if p.2.resetting then none else match placingTurn s p.1 with
    | none => none
    | some q => some (.own { who := p.1, ins := if q.2.gang = 0 then .unitPlacement else .gangPlacement })) ++
  s.devs.flatMap fun d => d.2.queues.filterMap fun q =>
    if packetReady s (d.1 * 64 + q.1) then some (.own { who := d.1 * 64 + q.1, ins := .packetStart }) else none

/-- A slot may issue the group at its PC: it is ready, or its wait has ended (R29, R172, R179), and nothing holds it. -/
def couldIssue (s : State) (slot : Nat) : Bool :=
  wouldIssue s slot && !s.halted slot && !preemptsHere s slot &&
    (s.clusterHalted (slotCluster slot) || !((s.cluster (slotCluster slot)).haltHeld.any fun q => q.1 == slot))

/-- The groups that issue in this cycle. -/
def issueMoves (s : State) : List Move :=
  (s.issuable.filter fun i => couldIssue s i && (slotOwn s i).isNone).map Move.issue

/-- Every way the machine may go on; a cycle passes once nothing of the cycle is left to do. -/
def moves (s : State) : List Move :=
  let f := forcedMoves s
  let i := issueMoves s
  agendaMoves s [] s.agenda ++ f ++ ownMoves s ++ i ++ (if f.isEmpty && i.isEmpty then [.tick] else [])

/-- The way taken: the only one, or by a free value (R205). -/
def pickMove (s : State) : Move × State :=
  match moves s with
  | [] => (.tick, s)
  | [m] => (m, s)
  | m :: l =>
    let s := s.tick
    ((m :: l).getD (Config.choice s.ticket % (l.length + 1)) m, s)

/-! ## Performing it -/

/-- The slot that an operation brings something to, beside a fill: a start, a restore, a cause, an answer of the Pigeonhole (R198). -/
def hearer (o : Op) : Option Nat :=
  match o.ins with
  | .unitStart | .contextRestore | .asyncCauseTaken => some o.who
  | .tabledDelivery d => some d.slot
  | _ => none

/-- An operation is over: its translations are, and a slot may have received something. -/
def heardOut (slot : Option Nat) : Out → Out
  | .next s => .next { (match slot with
      | some i => s.hears i
      | none => s) with kept := [] }
  | r => r

/-- Performs an operation: its part acts, with its data and the page entries by which it has been translated. A place that no device of the
domain has is a fault. -/
def runOp (o : Op) (s : State) : Out :=
  if devices ≤ opDev s o then .fault .noSuchPlace
  else match haltHolds s o with
    | some slot => .next (s.holdHalted slot o)
    | none => heardOut (hearer o) (exec o.ins { s with cur := o.who, data := o.data, kept := o.xl })

/-- A debug step lets a slot issue one group (R428). -/
def endStep (slot : Nat) : Out → Out
  | .next s => .next (if (s.slot slot).step then s.updSlot slot fun t => { t with step := false } else s)
  | r => r

/-- The words of the group a slot issues (R218): those it has fetched, where the group waits (R172, R282), else what path I sees. -/
def groupWords (s : State) (slot : Nat) : Option (List Half) :=
  let t := s.slot slot
  match t.st, t.words with
  | .waiting _, some ws => some ws
  | _, _ => s.group (slotCore slot) t.pc.toNat

/-- The instruction of a group (R218, R220, R227). -/
def groupInstr (pc : Nat) : Option (List Half) → Instr
  | none => .illegalGroup true 0 0 (BitVec.ofNat 64 (2 * Nat.max 0x4000 pc))
  | some ws =>
    match decodeWords ws with
    | .ok i => i
    | .error (.illegal w p) => .illegalGroup false w p 0
    | .error .fetch => .illegalGroup true 0 0 (BitVec.ofNat 64 (2 * Nat.max 0x4000 pc))

/-- A slot keeps the words of a group that waits (R282). -/
def keepWords (slot : Nat) (ws : Option (List Half)) : Out → Out
  | .next s => .next (s.updSlot slot fun t => { t with words := match t.st with
      | .waiting _ => ws
      | _ => none })
  | r => r

/-- A group that has taken a word from a port has received it. -/
def portHeard (s : State) (slot : Nat) : Out → Option Nat
  | .next t => if (t.core (slotCore slot)).ports = (s.core (slotCore slot)).ports then none else some slot
  | _ => none

/-- A slot issues its group. -/
def issueGroup (slot : Nat) (s : State) : Out :=
  let s : State := { s with cur := slot, data := [], kept := [], issuable := s.issuable.filter (fun i => i != slot) }
  let ws := groupWords s slot
  let r := exec (groupInstr (s.slot slot).pc.toNat ws) s
  endStep slot (keepWords slot ws (heardOut (portHeard s slot r) r))

/-- The devices whose governor makes an estimate at a cycle (R420): each microsecond of theirs, but for those in recovery. -/
def governorsAt (s : State) (now : Nat) : List Nat :=
  ((List.range devices).filter fun d => now % 1600 == 0 && (Sp.find s.devs d).isNone) ++
    (s.devs.filter fun v => (now - v.2.since) % 1600 == 0 && !v.2.boot.recovery).map Prod.fst

/-- A cycle passes (R29, R172): the slots of the cycle's number that can issue will; what is due at the cycle happens first. -/
def passCycle (s : State) : State :=
  let now := s.now + 1
  let mine (i : Nat) : Bool := i % 8 == (now - (s.dev (slotDev i)).since) % 8
  { s with now := now, issuable := (s.slots.map Prod.fst).filter fun i => mine i && couldIssue s i,
           due := s.due ++ (s.timers.filter fun t => decide (t.1 ≤ now)).flatMap Prod.snd ++
             (governorsAt s now).map fun d => { who := d, ins := .powerGovernorUpdate },
           timers := s.timers.filter fun t => !decide (t.1 ≤ now) }

/-- A released cluster takes up the first of what the halt held: at once, or on the agenda where something else holds it. -/
def resumeHeld (s : State) (c : Nat) : Out :=
  match (s.cluster c).haltHeld with
  | [] => .next s
  | (_, o) :: l =>
    let s := s.updCluster c fun k => { k with haltHeld := l }
    if enabled s [] o then runOp o s else .next (s.postOp o)

/-- Performs a move. -/
def performMove : Move → State → Out
  | .resume c, s => resumeHeld s c
  | .event o rest, s => runOp o { s with agenda := rest }
  | .ofSlot slot i, s => endStep slot (runOp { who := slot, ins := i } s)
  | .own o, s => runOp o s
  | .issue slot, s => issueGroup slot s
  | .tick, s => .next (passCycle s)

/-- What happens next: an operation that is due, else one of the moves. -/
def advance (s : State) : Out :=
  match s.due with
  | o :: l => runOp o { s with due := l }
  | [] => performMove (pickMove s).1 (pickMove s).2

end Sys2Proof.Machine
end

