-- ==== Sys2Proof/Machine/Step.lean ====
section
/-! DEFINITION. One step of the machine, and the placing of one instruction where the next step fetches. -/

namespace Sys2Proof.Machine
open Sys2Proof

/-- One step (R204, R205): an operation that is due, an operation in flight, an operation of a part's own, the issue of one group, or
the passing of a cycle. -/
def step (s : State) : Host.Outcome State Fault Refusal := advance s

/-- `s` with an instruction, numbered as the opcode table numbers its bits, stored where slot 0 of core 0 issues its next group, zero words
behind it, and that slot ready to issue it now with nothing else in flight: what a load of the instruction store and a LAUNCH bring
about from outside (assumption 1). -/
def State.withFetchWord (s : State) (nbits w : Nat) : State :=
  let ws := tableWords nbits w
  let s := (List.range 5).foldl (fun s i => s.write (istoreLoc 0 (2 * i)) (ws.getD i 0).toNat 2) s
  let s := s.updCore 0 fun c => { c with fetchBuf := [] }
  let s := s.updSlot 0 fun t =>
    { t with st := .ready, pc := 0, stopped := false, attempt := none, preempt := none, cancel := false, arAbort := false, wdog := false, tabFail := false,
             words := none }
  { s with issuable := [0], due := [], agenda := [] }

end Sys2Proof.Machine
end

