-- ==== Sys2Proof/Safety.lean ====
section
/-! DEFINITION. What counts as a safe run, and the terms in which the claims of this package are stated: how a form completes, what it
leaves unchanged, what an event needs. -/

namespace Sys2Proof.Machine
open Sys2Proof

/-- A step that goes on: neither a fault nor a refusal. -/
def Goes (r : Host.Outcome State Fault Refusal) : Prop := ∃ t, r = .next t

/-- `k` steps from a state all go on. -/
def SafeFor : Nat → State → Prop
  | 0, _ => True
  | k + 1, s => ∃ t, step s = .next t ∧ SafeFor k t

/-- The invariant of memory: it is in its canonical form. -/
def MemInv (s : State) : Prop := Memory.wf s.mem = true

/-- What a step adds to the group it issues (R172, R282, R428): where the group waits, its slot keeps the words it has fetched, and a debug step
of the slot is used up. -/
def afterIssue (slot : Nat) (ws : List Half) (t : State) : State :=
  let r := t.updSlot slot fun r => { r with words := match r.st with
    | .waiting _ => some ws
    | _ => none }
  if (r.slot slot).step then r.updSlot slot fun r => { r with step := false } else r

/-- What a step adds to an operation it has performed (R66, R198): the page entries by which it was translated are kept no longer, and the slot to
which it brought something has received something since. -/
def afterOp (slot : Option Nat) (t : State) : State :=
  { (match slot with
      | some i => t.hears i
      | none => t) with kept := [] }

/-- The slot has received something as its group took a word from a port of its core. -/
def tookWord (slot : Nat) (s t : State) : Option Nat :=
  if (t.core (slotCore slot)).ports = (s.core (slotCore slot)).ports then none else some slot

/-! ## How a form of the current slot completes -/

/-- The state after the group of the current slot of `s` has retired with the effect that made `t` of it (R47, R218): the slot goes on
behind the group. -/
def retired (x : Fld) (s t : State) : State := retireTo t (nextPc x (s.slot s.cur))

/-- A form completes: wherever the operand checks of R185 find `v` (and leave `s'`: the words a port register gives up are taken) and
`ok` holds of them, exec answers the next state in which `eff` has been done and the group has retired. -/
def Completes (u : Uses) (i : Fld → Instr) (ok : Fld → Vals → State → Prop) (eff : Fld → Vals → State → State) : Prop :=
  ∀ x s v s', operands u x s = .run v s' → ok x v s' → exec (i x) s = .next (retired x s (eff x v s'))

/-- A form traps: wherever its operand checks pass and `bad` holds, exec answers the trap entry at the group's own PC, out of the state
before the group, so that no operand has been taken and nothing else has been done (R185). -/
def TrapsAt (u : Uses) (i : Fld → Instr) (bad : Fld → Vals → State → Prop) (t : Fld → Vals → State → Trap) : Prop :=
  ∀ x s v s', operands u x s = .run v s' → bad x v s' →
    exec (i x) s = .next (trapEntry s s.cur (s.slot s.cur).pc (t x v s'))

/-- Two states differ at most in the slot that issues. -/
def OnlySlot (s t : State) : Prop := (∀ j, j ≠ s.cur → t.slot j = s.slot j) ∧ t = { s with slots := t.slots }

/-- General register `n` took `w` and is FULL, the group retired to `pc`, and the slot has changed in nothing else: every other register
of every file, every other F/E bit, every register of its own and every pending cause is as it was. -/
def GWritten (n : Nat) (w : W64) (pc : Nat) (t t' : Slot) : Prop :=
  (n ≠ 0 → t'.getG n = w) ∧ t'.getG 0 = 0 ∧ t'.empty (gCode n) = false ∧ (∀ m, m ≠ n → t'.getG m = t.getG m) ∧
  (∀ c, c ≠ gCode n → t'.empty c = t.empty c) ∧ t'.pc = BitVec.ofNat 15 pc ∧ t'.retired = t.retired + 1 ∧
  t' = { t with g := t'.g, fe := t'.fe, pc := t'.pc, retired := t'.retired, st := .ready, attempt := none, preempt := t'.preempt }

/-- The same for vector register `n`, of which `holds` says what it took. -/
def VWritten (n : Nat) (holds : V512 → Prop) (pc : Nat) (t t' : Slot) : Prop :=
  holds (t'.getV n) ∧ t'.empty (vCode n) = false ∧ (∀ m, m ≠ n → t'.getV m = t.getV m) ∧
  (∀ c, c ≠ vCode n → t'.empty c = t.empty c) ∧ t'.pc = BitVec.ofNat 15 pc ∧ t'.retired = t.retired + 1 ∧
  t' = { t with v := t'.v, fe := t'.fe, pc := t'.pc, retired := t'.retired, st := .ready, attempt := none, preempt := t'.preempt }

/-- The same for mask register `n`; a write to k0 is discarded. -/
def KWritten (n : Nat) (w : K32) (pc : Nat) (t t' : Slot) : Prop :=
  (n ≠ 0 → t'.getK n = w) ∧ t'.getK 0 = 0xFFFFFFFF ∧ t'.empty (kCode n) = false ∧ (∀ m, m ≠ n → t'.getK m = t.getK m) ∧
  (∀ c, c ≠ kCode n → t'.empty c = t.empty c) ∧ t'.pc = BitVec.ofNat 15 pc ∧ t'.retired = t.retired + 1 ∧
  t' = { t with k := t'.k, fe := t'.fe, pc := t'.pc, retired := t'.retired, st := .ready, attempt := none, preempt := t'.preempt }

/-- A form that only writes general register d: it completes with the value `f`, in a register with the frame of GWritten and nothing
outside the slot changed, or, where d is a port register, with that value sent as one word on the port. -/
def WritesG (u : Uses) (i : Fld → Instr) (f : Fld → Vals → W64) : Prop :=
  ∀ x s v s', operands u x s = .run v s' →
    (x.d.toNat < 24 → ∃ t, exec (i x) s = .next t ∧ OnlySlot s' t ∧
      GWritten x.d.toNat (f x v) (nextPc x (s.slot s.cur)) (s'.slot s.cur) (t.slot s.cur)) ∧
    (24 ≤ x.d.toNat → exec (i x) s = .next (retired x s (sendWord s' (slotCore s.cur) (x.d.toNat - 24) (f x v))))

/-- A form that only writes vector register d. -/
def WritesV (u : Uses) (i : Fld → Instr) (holds : Fld → Vals → V512 → Prop) : Prop :=
  ∀ x s v s', operands u x s = .run v s' → ∃ t, exec (i x) s = .next t ∧ OnlySlot s' t ∧
    VWritten x.d.toNat (holds x v) (nextPc x (s.slot s.cur)) (s'.slot s.cur) (t.slot s.cur)

/-- A form that only writes mask register d. -/
def WritesK (u : Uses) (i : Fld → Instr) (f : Fld → Vals → Slot → K32) : Prop :=
  ∀ x s v s', operands u x s = .run v s' → ∃ t, exec (i x) s = .next t ∧ OnlySlot s' t ∧
    KWritten x.d.toNat (f x v (s'.slot s.cur)) (nextPc x (s.slot s.cur)) (s'.slot s.cur) (t.slot s.cur)

/-- A long-latency form (R26): the group retires, d is EMPTY (but for g0) and the value is on its way to it, with the slot's GEN (R27);
no register but d's F/E bit has changed, and `ok` names the values for which the form does not trap. -/
def LongLatency (u : Uses) (i : Fld → Instr) (code : Fld → Nat) (ok : Vals → Prop) (f : Fld → Vals → V512) : Prop :=
  ∀ x s v s', operands u x s = .run v s' → ok v → ∃ t tag, exec (i x) s = .next t ∧
    (∀ j, j ≠ s.cur → t.slot j = s'.slot j) ∧
    t = { s' with slots := t.slots, ticket := s'.ticket + 1,
                  agenda := s'.agenda ++ [{ ins := .fill s.cur (s'.slot s.cur).gen tag (f x v) }] } ∧
    (code x ≠ 0 → code x ≠ 64 → (t.slot s.cur).empty (code x) = true) ∧
    (∀ c, c ≠ code x → (t.slot s.cur).empty c = (s'.slot s.cur).empty c) ∧
    (t.slot s.cur).g = (s'.slot s.cur).g ∧ (t.slot s.cur).v = (s'.slot s.cur).v ∧ (t.slot s.cur).k = (s'.slot s.cur).k ∧
    (t.slot s.cur).outst = (s'.slot s.cur).outst ++
      [{ tag := tag, pc := (s'.slot s.cur).pc, access := false, vector := false, dests := [code x], lines := [], write := false,
         acc := none, held := false, reply := none, len := 0, soft := false }] ∧
    (t.slot s.cur).pc = BitVec.ofNat 15 (nextPc x (s.slot s.cur)) ∧ (t.slot s.cur).retired = (s'.slot s.cur).retired + 1

/-- A control transfer to `target` (in halfwords) whose effect before it makes `eff` (R219, R251): inside the store the slot goes on
there; outside it the group traps FETCH with the target's byte address, and neither the effect nor the operands' words are taken. -/
def Transfers (i : Fld → Instr) (x : Fld) (s : State) (eff : State) (target : Int) : Prop :=
  (0 ≤ target ∧ target < 0x4000 → exec (i x) s = .next (retireTo eff target.toNat)) ∧
  (¬(0 ≤ target ∧ target < 0x4000) → exec (i x) s = .next (trapEntry s s.cur (s.slot s.cur).pc
    { cause := 0x15, addr := BitVec.ofInt 64 (2 * target) }))

/-- A conditional branch: taken, it transfers to the group's PC plus the immediate; not taken, it only retires. -/
def Branches (u : Uses) (i : Fld → Instr) (taken : Vals → Prop) : Prop :=
  ∀ x s v s', operands u x s = .run v s' →
    (taken v → Transfers i x s s' ((s.slot s.cur).pc.toNat + x.imm.toInt)) ∧
    (¬taken v → exec (i x) s = .next (retired x s s'))

/-! ## Lanes of vector results -/

/-- A masked lane result (R257, R259): in the view `h`, each enabled lane holds `f` of its number (modulo the lane's width), each other
lane what it held. -/
def LaneResult (h : Bool) (lanes : BitVec 32) (old : V512) (f : Nat → Nat) (r : V512) : Prop :=
  ∀ i, i < viewN h → lane (viewW h) i r = if lanes.getLsbD i then f i % 2 ^ viewW h else lane (viewW h) i old

/-- A lane form on two vector sources. -/
def LaneForm (i : Fld → Instr) (f : Fld → Nat → Nat → Nat) : Prop :=
  WritesV uVVV i (fun x v => LaneResult x.f v.lanes v.vd fun j => f x (lane (viewW x.f) j v.va) (lane (viewW x.f) j v.vb))

/-- A compare (R262): the mask bit of each enabled lane of the view is the relation, a lane that is not enabled keeps its bit, and under
the view of 16 lanes bits 31 to 16 are zero. -/
def CompareForm (i : Fld → Instr) (r : Fld → Nat → Nat → Bool) : Prop :=
  ∀ x s v s', operands uKVV x s = .run v s' → ∃ t w, exec (i x) s = .next t ∧ OnlySlot s' t ∧
    KWritten x.d.toNat w (nextPc x (s.slot s.cur)) (s'.slot s.cur) (t.slot s.cur) ∧
    ∀ j, j < 32 → w.getLsbD j =
      (if j < viewN x.f then
        (if v.lanes.getLsbD j then r x (lane (viewW x.f) j v.va) (lane (viewW x.f) j v.vb) else ((s.slot s.cur).getK x.d.toNat).getLsbD j)
       else false)

/-- VPERM (R265): lane j of the result is the lane of a that lane j of b numbers, or zero where there is no such lane. -/
def LaneFormIdx (i : Fld → Instr) : Prop :=
  WritesV uVVV i (fun x v => LaneResult x.f v.lanes v.vd fun j =>
    if lane (viewW x.f) j v.vb < viewN x.f then lane (viewW x.f) (lane (viewW x.f) j v.vb) v.va else 0)

/-! ## The operands of every encoded form -/

/-- A group of forms with the same operand roles. -/
def formsOf (u : Uses) (l : List (Fld → Instr)) : List (Uses × (Fld → Instr)) := l.map fun i => (u, i)

/-- The registers each encoded form reads and writes, as the opcode map gives its roles (R221, R230 to R236): part 1. -/
def forms1 : List (Uses × (Fld → Instr)) :=
  formsOf uDAB [.add, .sub, .and, .or, .xor, .shl, .shr, .mul, .slt, .min, .max, .lea, .mulhu, .mulhs, .div, .rem, .rot, .fadd, .fsub,
    .fmul] ++
  formsOf uDAB [.fmin, .fmax, .flt, .feq, .fdiv, .aadd, .asmin, .asmax, .aumin, .aumax, .aand, .aor, .axor, .aswp, .cqstat, .twrel,
    .swwait, .arnew, .arinfo] ++
  formsOf uDA [.addi, .andi, .ori, .xori, .shli, .shri, .srai, .slti, .jr, .ldBu, .ldHu, .ldWu, .ldD, .ldBs, .ldHs, .ldWs, .clz, .ctz,
    .popc, .extu] ++
  formsOf uDA [.exts, .fcvtf, .fcvti, .fsqrt, .acq, .mxstat, .pstat, .cqdecl, .bar, .quiet, .tpin, .tunpin, .tinv, .aren, .lvwait] ++
  formsOf uD [.movi, .movhi, .mxlease, .mxwait, .time, .arcom, .sysr] ++
  formsOf uNone [.br, .fence, .mxfree, .mxzero, .mxstop, .mxresume, .phflip, .tseed, .arabt, .trap, .rft, .exit, .yield, .beat, .brk] ++
  formsOf { extra := [1] } [.call] ++
  formsOf { extra := [1, 2, 3] } [.tret] ++
  formsOf uSA [.beq, .bne, .blt, .bge, .bltu, .bgeu, .stB, .stH, .stW, .stD, .rel, .tgset] ++
  formsOf uS [.bz, .bnz] ++
  formsOf { d := .g, dSrc := true, dDst := true } [.loop] ++
  formsOf { d := .v, dDst := true, a := .g, lanes := true } [.vld, .vldf] ++
  formsOf { d := .v, dSrc := true, a := .g, lanes := true } [.vst]

/-- The registers each encoded form reads and writes, as the opcode map gives its roles (R221, R230 to R236): part 2. -/
def forms2 : List (Uses × (Fld → Instr)) :=
  formsOf uDioA [.ins] ++
  formsOf uDioAB [.fma, .cas] ++
  formsOf uVVV [.vadd, .vsub, .vmul, .vmin, .vmax, .vand, .vor, .vxor, .vshl, .vshr, .vfadd, .vfsub, .vfmul, .vfmin, .vfmax, .vsel,
    .vperm] ++
  formsOf uVioVV [.vfma] ++
  formsOf uKVV [.vfclt, .vfcle, .vfceq, .viclt, .viceq] ++
  formsOf uVG [.vbcast] ++
  formsOf uGVx [.vext] ++
  formsOf uVioG [.vins] ++
  formsOf uGV [.vrsum, .vamax] ++
  formsOf uVV [.vfexp2, .vflog2, .vfrcp, .vfrsq, .vcvt] ++
  formsOf uVVG [.vscale] ++
  formsOf { d := .v, dDst := true, a := .g, b := .v, lanes := true } [.vgath]

/-- The registers each encoded form reads and writes, as the opcode map gives its roles (R221, R230 to R236): part 3. -/
def forms3 : List (Uses × (Fld → Instr)) :=
  formsOf { d := .v, dSrc := true, a := .g, b := .v, lanes := true } [.vscat] ++
  formsOf uKKK [.kand, .kor, .kxor] ++
  formsOf uKK [.knot] ++
  formsOf uGK [.ktog] ++
  formsOf uKG [.gtok] ++
  formsOf uSAB [.bind] ++
  formsOf { d := .g, dSrc := true, a := .g, b := .g } [.cpy, .dcset, .swinit] ++
  formsOf uA [.cpys, .cpy3, .cpym, .tgclr, .tgcfg, .mxcfg, .mxunf, .pclose, .plisten, .lvcancel, .sysw, .persist] ++
  formsOf { a := .g, extra := [1, 3] } [.tcall] ++
  formsOf uAB [.guard, .mxldb, .mxrun, .mxrd, .mxrdx, .popen, .dcdec, .swadd, .lvinc, .lvdec] ++
  formsOf { d := .g, dDst := true, dPair := true, a := .g } [.tglook] ++
  formsOf { d := .g, dSrc := true, dPair := true, a := .g, b := .g } [.send, .sendm] ++
  formsOf { d := .g, dDst := true, a := .g, b := .g, extra := [4, 5, 6, 7] } [.cqpush, .tqry]

/-- The registers each encoded form reads and writes, as the opcode map gives its roles (R221, R230 to R236): part 4. -/
def forms4 : List (Uses × (Fld → Instr)) :=
  formsOf { d := .g, dDst := true, a := .g, extra := [4, 5, 6, 7, 9] } [.cqpop] ++
  formsOf { d := .g, dSrc := true, dDst := true, dPair := true, a := .g, aPair := true } [.rdxadd]

/-- Every encoded form with its operands. -/
def forms : List (Uses × (Fld → Instr)) := forms1 ++ forms2 ++ forms3 ++ forms4

/-! ## Operand checks -/

/-- The mask register of a group, if XK names one, is FULL, and a form that is no vector form is enabled by its bit 0 (R226). -/
def Enabled (u : Uses) (x : Fld) (t : Slot) : Prop :=
  (∀ inv k, x.xk = some (inv, k) → t.empty (64 + k.toNat) = false) ∧ (u.lanes = false → (maskOf t x).getLsbD 0 = true)

/-- A form names no port register. -/
def NoPort (u : Uses) (x : Fld) : Prop := ∀ i ∈ u.items x, i.isPort = false

/-- The slot waits for a register: it has left the rotation with its group not issued, and nothing but that has changed (R172). -/
def WaitsFor (c : Cond) (s t : State) : Prop :=
  (∀ j, j ≠ s.cur → t.slot j = s.slot j) ∧ t = { s with slots := t.slots, ticket := s.ticket + 1 } ∧
  t.slot s.cur = { s.slot s.cur with st := .waiting c, attempt := (t.slot s.cur).attempt }

/-- An enabled group comes to its ports: every register it names is FULL, and every port under a trap bit holds something (R26, R28). -/
structure AtPorts (u : Uses) (x : Fld) (s : State) : Prop where
  full : ∀ i ∈ u.items x, i.isPort = false → (s.slot s.cur).empty i.reg = false
  words : ∀ i ∈ u.items x, i.isPort = true → i.trap = true → (s.port (slotCore s.cur) (i.n - 24)).buf ≠ []

/-- A group of a form stops at a port of its core in the state `s1` (R179, R332): under MODE 0 it waits; under MODE 1 it waits until its limit,
counted from its first attempt, and traps WAIT_TIMEOUT once that has passed, with the port's counts in TRAPINFO; under MODE 2 it retires
with −1 in every destination that is no port. An expiry and a failure drop the route the group was acquiring (R83). -/
def StopsAtPort (p : Uses × (Fld → Instr)) (x : Fld) (s s1 : State) (c : Cond) (i : Nat) : Prop :=
  let t := s1.slot s.cur
  let q := s1.port (slotCore s.cur) i
  let info := BitVec.ofNat 64 (i + q.taken.toNat * 65536 + q.wrote.toNat * 2 ^ 32)
  (t.waitMode = 0 → ∃ t', exec (p.2 x) s = .next t' ∧ t'.slot s.cur = { t with st := .waiting c, attempt := (t'.slot s.cur).attempt }) ∧
  (t.waitMode = 1 → let since := (t.attempt.map (·.since)).getD s.now
    (s.now < since + t.waitLimit → ∃ t' a, exec (p.2 x) s = .next t' ∧ t'.slot s.cur = { t with st := .waiting c, attempt := some a } ∧
      a.since = since ∧ a.limit = some t.waitLimit ∧ a.info = info) ∧
    (since + t.waitLimit ≤ s.now → ∃ s2, s2 = { s1 with slots := s2.slots, ticket := s1.ticket + 1 } ∧
      exec (p.2 x) s = .next (trapEntry (dropRoutes s2 s.cur) s.cur t.pc { cause := 0x09, info := info }))) ∧
  (t.waitMode = 2 → exec (p.2 x) s = .next (retired x s ((dropRoutes s1 s.cur).updSlot s.cur fun t =>
    (p.1.failDests x).foldl (fun t n => t.setG n (-1)) t)))

/-- An answered form has left the core (R325, R354): the slot waits for the answer of `tag`, to be written to `dests`, after which the group
retires; its registers, PC and everything of its own are as before. -/
def Asked (x : Fld) (dests : List Nat) (soft : Bool) (tag : Nat) (s t : State) : Prop :=
  (t.slot s.cur).outst = (s.slot s.cur).outst ++
    [{ tag := tag, pc := (s.slot s.cur).pc, access := false, vector := false, dests := dests, lines := [], write := false, acc := none,
       held := false, reply := none, len := Fld.len x, soft := soft }] ∧
  t.slot s.cur = { s.slot s.cur with st := .waiting (.answer tag), attempt := (t.slot s.cur).attempt, outst := (t.slot s.cur).outst } ∧
  (∀ j, j ≠ s.cur → t.slot j = s.slot j) ∧ t.mem = s.mem

/-- A posted form has left the core (R325, R354): it holds one outstanding entry until its acknowledgement, and the group has retired. -/
def PostedAs (tag : Nat) (x : Fld) (held : Bool) (acc : Option Access) (s s' t : State) : Prop :=
  (t.slot s.cur).outst = (s'.slot s.cur).outst ++
    [{ tag := tag, pc := (s'.slot s.cur).pc, access := true, vector := false, dests := [], lines := [], write := false, acc := acc,
       held := held, reply := none, len := 0, soft := false }] ∧
  t.slot s.cur = { s'.slot s.cur with outst := (t.slot s.cur).outst, pc := BitVec.ofNat 15 (nextPc x (s.slot s.cur)),
                                      retired := (s'.slot s.cur).retired + 1, st := .ready, attempt := none,
                                      preempt := (t.slot s.cur).preempt } ∧
  (∀ j, j ≠ s.cur → t.slot j = s'.slot j) ∧ t.mem = s'.mem

/-- The same for a form whose request carries no phase tag (R140). -/
def Posted (x : Fld) (held : Bool) (acc : Option Access) (s s' t : State) : Prop := PostedAs s'.plainTag x held acc s s' t

/-! ## Accesses -/

/-- What is sent for a partition is in flight, or, if the partition's injection budget is limited, it may be held at its NI until the next
period (R147, R413). -/
def Held (s : State) (part : Nat) (h : Option (Nat × Nat × Option Bool)) : Prop :=
  h = none ∨ (s.part part).budInj ≠ 0 ∧ ∃ ni ph, h = some (ni, part, ph)

/-- What a path may see of `size` bytes from `loc` on, least significant first (R20, R199, R297, R322): of each byte what memory holds, or what
it was before a write on another path that no FENCE has carried to this one. -/
def SeenOn (s : State) (path loc size n : Nat) : Prop :=
  n < 2 ^ (8 * size) ∧ ∀ j, j < size → BitVec.ofNat 8 (n / 2 ^ (8 * j)) = s.byte (loc + j) ∨
    ∃ u, Sp.find s.unseen (loc + j) = some u ∧ path ∈ u.hides ∧ u.old = BitVec.ofNat 8 (n / 2 ^ (8 * j))

/-- A read on a path has been made (R206): what that path may still see as it was has at most become less, and nothing else has changed. -/
def Looked (path : Nat) (s t : State) : Prop :=
  t = { s with unseen := t.unseen, ticket := t.ticket } ∧
  ∀ e ∈ t.unseen, ∃ e' ∈ s.unseen, e.1 = e'.1 ∧ e.2 = { e'.2 with hides := e.2.hides } ∧
    (∀ q, q ∈ e.2.hides → q ∈ e'.2.hides) ∧ (∀ q, q ≠ path → q ∈ e'.2.hides → q ∈ e.2.hides)

/-- The unit of the slot that issues, as the accessor of its own scratchpad (R58). -/
def localAccessor (s : State) : Accessor :=
  { slot := s.cur, gen := (s.slot s.cur).gen, part := s.partAt (s.partOf (slotCluster s.cur)) (clusterDev (coreCluster (slotCore s.cur))),
    level := (s.slot s.cur).level, own := true }

/-- What lets an access in mode .L to `len` bytes be performed at once (R53, R58, R61, R279): the address lies in the scratchpad, the slot has
no access to its line outstanding, nor a killed unit's before it, the core's regions allow the read or write, and the granule has no guard bit. -/
structure LocalOk (s : State) (ea : W64) (len : Nat) (rd wr : Bool) : Prop where
  inside : ea.toNat < 0x80000
  free : ∀ o ∈ (s.slot s.cur).outst, (scratchLoc (slotCore s.cur) ea.toNat / 64) ∉ o.lines
  past : ∀ o ∈ s.orphans, o.slot = s.cur → (scratchLoc (slotCore s.cur) ea.toNat / 64) ∉ o.entry.lines
  mayRead : rd = true → s.protAllows (slotCore s.cur) ea.toNat len (localAccessor s) false = true
  mayWrite : wr = true → s.protAllows (slotCore s.cur) ea.toNat len (localAccessor s) true = true
  unguarded : s.guarded (slotCore s.cur) ea.toNat = false

/-- A load in mode .L (R279, R281): d takes the bytes at the address as path C sees them, least significant first, extended, at once. -/
def LoadsLocal (i : Fld → Instr) (size : Nat) (sgn : Bool) : Prop :=
  ∀ x s v s', operands uDA x s = .run v s' → x.mode = 0 → let ea := v.a + x.imm * BitVec.ofNat 64 size
    ea.toNat % size = 0 → LocalOk s' ea size true false →
    ∃ n u, SeenOn s' 0 (scratchLoc (slotCore s.cur) ea.toNat) size n ∧ Looked 0 s' u ∧ exec (i x) s = .next (retired x s (u.putG x.d.toNat
      (if sgn = true ∧ n.testBit (8 * size - 1) = true then BitVec.ofInt 64 ((n : Int) - 2 ^ (8 * size)) else BitVec.ofNat 64 n)))

/-- A store has changed exactly `size` bytes from `loc` on, to the bytes of `n`, least significant first. -/
def Stored (s t : State) (loc n size : Nat) : Prop :=
  (∀ j, j < size → t.byte (loc + j) = BitVec.ofNat 8 (n / 2 ^ (8 * j))) ∧
  (∀ q, q < loc ∨ loc + size ≤ q → t.byte q = s.byte q)

/-- A store in mode .L (R279, R281): exactly `size` bytes at the address change, to the low bytes of d; no register, no F/E bit and no other
slot changes, and the group retires. -/
def StoresLocal (i : Fld → Instr) (size : Nat) : Prop :=
  ∀ x s v s', operands uSA x s = .run v s' → x.mode = 0 → let ea := v.a + x.imm * BitVec.ofNat 64 size
    ea.toNat % size = 0 → LocalOk s' ea size false true → ∃ t, exec (i x) s = .next t ∧
      Stored s t (scratchLoc (slotCore s.cur) ea.toNat) v.d.toNat size ∧
      t.slot s.cur = (s.slot s.cur).retire (nextPc x (s.slot s.cur)) ∧ (∀ j, j ≠ s.cur → t.slot j = s.slot j) ∧
      (s.cur < 2 ^ 27 → t.cores = s'.cores) ∧ t.clusters = s.clusters ∧ t.parts = s.parts ∧ t.levels = s.levels

/-- An access that has left the core (R173, R279): the slot holds one entry for it until it is answered, each destination is EMPTY and no
register has changed, a request is on its way to the home of each of its pieces, and the group has retired. -/
def Sent (x : Fld) (a : Access) (dests : List Nat) (s s' t : State) : Prop :=
  (t.slot s.cur).outst = (s'.slot s.cur).outst ++
    [{ tag := a.tag, pc := (s'.slot s.cur).pc, access := true, vector := opVector a.op, dests := dests, lines := accessLines s' a,
       write := opWrites a.op, acc := some a, held := false, reply := none, len := 0, soft := false }] ∧
  (∀ c ∈ dests, c ≠ 0 → c ≠ 64 → (t.slot s.cur).empty c = true) ∧
  (∀ c, c ∉ dests → (t.slot s.cur).empty c = (s'.slot s.cur).empty c) ∧
  (t.slot s.cur).g = (s'.slot s.cur).g ∧ (t.slot s.cur).v = (s'.slot s.cur).v ∧ (t.slot s.cur).k = (s'.slot s.cur).k ∧
  (∃ h : List (Option (Nat × Nat × Option Bool)), h.length = (accPieces a).length ∧ (∀ i ∈ h, Held s' a.part i) ∧
    t.agenda = s'.agenda ++ ((accPieces a).zipIdx.zip h).map (fun q => { homeOp s' a q.1.2 q.1.1 with inj := q.2 })) ∧
  (t.slot s.cur).pc = BitVec.ofNat 15 (nextPc x (s.slot s.cur)) ∧ (t.slot s.cur).retired = (s'.slot s.cur).retired + 1 ∧
  (∀ j, j ≠ s.cur → t.slot j = s'.slot j) ∧ t.mem = s'.mem

/-- A form that makes an access outside mode .L, where its address is aligned, every piece, whatever the mask, names a byte the form may reach, at
least one piece is enabled, and the slot and core have a free entry (R173, R271, R278, R279). -/
def AccessesRemote (u : Uses) (i : Fld → Instr) (ok : Fld → Prop) (al : Nat) (ist : Fld → Bool) (dests : Fld → List Nat)
    (acc : Fld → Vals → State → Access) : Prop :=
  ∀ x s v s', operands u x s = .run v s' → ok x → let a := acc x v s'
    a.ea.toNat % al = 0 → (∀ p ∈ accPieces { a with lanes := 0xFFFFFFFF }, pieceOk s' a (ist x) p = true) →
    accPieces a ≠ [] → s'.entryFree s.cur (opVector a.op) = true → ∃ t, exec (i x) s = .next t ∧ Sent x a (dests x) s s' t

/-- The access a form makes: what it captures at issue. -/
def accessOf (op : AccOp) (mode : Fld → BitVec 2) (ea : Fld → Vals → W64) (dest opc : Fld → Nat) (data : Vals → Vals) (x : Fld) (v : Vals)
    (s : State) : Access := newAccess s x op (mode x) (ea x v) (dest x) (opc x) (data v)

/-! ## Homes and answers -/

/-- An access of one piece of `len` bytes arrives at the core that is its home and every check there lets it pass (R55, R56, R58, R61): no
earlier access of its slot to the line has met a fault, the address names this scratchpad byte, the cluster's segment table and the core's
regions allow it, and no guard bit is set. -/
structure AtCore (s : State) (a : Access) (len core off : Nat) : Prop where
  free : heldFault s a 0 { ea := a.ea, len := len, pos := 0 } = none
  names : s.target (slotCore a.slot) a.part a.mode a.ea = some (.scratch core off)
  segment : s.segment (coreCluster core) (s.partAt a.part (clusterDev (coreCluster core))) (core % 128) false (opReads a.op) (opWrites a.op) = .ok
  reads : opReads a.op = true → s.protAllows core off len
    { accAccessor a core with part := s.partAt a.part (clusterDev (coreCluster core)) } false = true
  writes : opWrites a.op = true → s.protAllows core off len
    { accAccessor a core with part := s.partAt a.part (clusterDev (coreCluster core)) } true = true
  unguarded : s.guarded core off = false

/-- The same at an instruction store (R56, R57). -/
structure AtStore (s : State) (a : Access) (len core off : Nat) : Prop where
  free : heldFault s a 0 { ea := a.ea, len := len, pos := 0 } = none
  names : s.target (slotCore a.slot) a.part a.mode a.ea = some (.istore core off)
  segment : s.segment (coreCluster core) (s.partAt a.part (clusterDev (coreCluster core))) (core % 128) true (opReads a.op) (opWrites a.op) = .ok

/-- The answer of a value, or the acknowledgement, to an access's slot. -/
def valueFor (a : Access) (n : Nat) : Op := { ins := .fill a.slot a.gen a.tag (BitVec.ofNat 512 n) }
def ackFor (a : Access) : Op := { ins := .accessAcknowledge a.slot a.gen a.tag }

/-- The last thing put in flight. -/
def Answers (t : State) (o : Op) : Prop := t.agenda.getLast? = some o



/-- The last thing put in flight, or held at an NI for a partition's budget. -/
def Sends (s t : State) (part : Nat) (o : Op) : Prop := ∃ h, Held s part h ∧ Answers t { o with inj := h }

/-- The same of a list of them, in order, with nothing else put in flight. -/
def SendsAll (s t : State) (part : Nat) (os : List Op) : Prop :=
  ∃ h : List (Option (Nat × Nat × Option Bool)), h.length = os.length ∧ (∀ i ∈ h, Held s part i) ∧
    t.agenda = s.agenda ++ (os.zip h).map (fun q => { q.1 with inj := q.2 })

/-- A unit is resident in a slot, and the slot has this entry for a tag (R26, R27). -/
def Holds (s : State) (slot : Nat) (gen : BitVec 32) (tag : Nat) (o : Outst) : Prop :=
  (s.slot slot).st ≠ .idle ∧ (s.slot slot).gen = gen ∧ (s.slot slot).outst.find? (fun o : Outst => o.tag == tag) = some o

/-- The entry of a tag is gone from a slot that was `b`; nothing else but what `keep` leaves out has changed. -/
def entriesWithout (b : Slot) (tag : Nat) : List Outst := b.outst.filter fun o : Outst => o.tag != tag

/-- What the tag table holds for a tag, as a slot sees it (R125). -/
def tagLookup (c : Core) (slot tag : Nat) : Option W64 := ((tagFind c slot tag).bind (Sp.find c.tags)).map TagEntry.data

/-- A group that changes nothing of any slot but that it retires, and nothing of memory. -/
def OnlyRetires (x : Fld) (s s' t : State) : Prop :=
  t.slot s.cur = (s'.slot s.cur).retire (nextPc x (s.slot s.cur)) ∧ (∀ j, j ≠ s.cur → t.slot j = s'.slot j) ∧ t.mem = s'.mem

/-- An update of a level's OUTSTANDING on its way (R137), by a unit of a slot: `ack` where a group waits for it. -/
def levelOp (part : Nat) (level : W64) (add : Bool) (n : Nat) (slot : Nat) (gen : BitVec 32) (tag : Nat) (ack : Bool) (addr : W64) : Op :=
  { ins := .levelUpdate { part := part, level := level, add := add, n := n, err := 0, slot := slot, gen := gen, tag := tag, ack := ack,
                          addr := addr } }

/-- The fill that answers the current slot's group. -/
def answerOp (s : State) (tag : Nat) (v : V512) : Op := { ins := .fill s.cur (s.slot s.cur).gen tag v }

/-- An operation of a part, with the data it carries. -/
def opD (who : Nat) (data : List W64) (i : Instr) : Op := { who := who, data := data, ins := i }

/-- The unit of the current slot may give its cluster's term array a command (R302): it holds the lease, no error is latched, and there is
room in the queue; where `grace` says so, no grace is running. -/
structure Leases (s : State) (grace : Bool) : Prop where
  holds : (s.arr (slotCluster s.cur)).isHolder s.cur (s.slot s.cur).gen = true
  clean : (s.arr (slotCluster s.cur)).latch = none
  early : grace = true → (s.arr (slotCluster s.cur)).grace = none
  room : (s.arr (slotCluster s.cur)).queue.length < 16

/-- A command stands at the end of the queue with its number, its image, its operands and its place in the order of issue (R301, R303); the group has retired, and the
sequencer is awake. -/
def Commanded (x : Fld) (op : MxOp) (img : MxImage) (a b : W64) (s s' t : State) : Prop :=
  let c := slotCluster s.cur; let q := s'.arr c; let r := t.arr c
  r.issued = q.issued + 1 ∧ (∃ tag, 4 * s'.ticket < tag ∧ r.queue = q.queue ++
    [{ no := q.issued + 1, op := op, img := img, a := a, b := b, phase := (s.slot s.cur).phase, tag := tag, heard := s'.heardBy s.cur }]) ∧ r.img = img ∧
  r.cmd = q.cmd ∧ r.lanes = q.lanes ∧ r.done = q.done ∧ (q.cmd = none → ({ who := c, ins := .sequencerCommand } : Op) ∈ t.agenda) ∧
  OnlyRetires x s s' t

/-- The words of 64 bits from a place of the issuing core's scratchpad on, as a form of its own that reads them now sees them on path C
(R20): where path C may still see an engine's write as not yet made, a free value says which. -/
def wordsAt (s : State) (off n : Nat) : List W64 :=
  (List.range n).map (imageWord (s.tick.look 0 s.tick.viewer (scratchLoc (slotCore s.cur) off) (8 * n)).2)

/-- A command of an array has completed (R301). -/
def CommandDone (a r : TermArray) (k : MxCmd) (l : List MxCmd) : Prop := r.cmd = none ∧ r.done = k.no ∧ r.queue = l ∧ r.img = a.img

/-- A copy has begun (R293, R296): the courier holds it, with all its bytes still to be accepted; the slot holds an entry for it, and the group
has retired. -/
def Copying (x : Fld) (s s' t : State) (src dst : W64) (sstride dstride rows len : Nat) (target : BitVec 32) (place : Nat) (multi : Bool) : Prop :=
  let r := s.slot s.cur; let tag := s'.netTag r.phase
  (∃ j, Sp.find t.copies tag = some j ∧ j.slot = s.cur ∧ j.gen = r.gen ∧ j.level = r.level ∧ j.part = s'.partOf (slotCluster s.cur) ∧ j.src = src ∧
    j.dst = dst ∧ j.sstride = sstride ∧ j.dstride = dstride ∧ j.rows = rows ∧ j.len = len ∧ j.target = target ∧ j.place = place ∧
    j.multi = multi ∧ j.todo = (if rows * len = 0 then [] else [(0, rows * len)]) ∧ j.accepted = [] ∧ j.flying = [] ∧ j.held = [] ∧
    j.phase = r.phase ∧ j.stuck = [] ∧ j.looked = [] ∧ j.heard = s'.heardBy s.cur) ∧
  (∃ o : Outst, (t.slot s.cur).outst = r.outst ++ [o] ∧ o.tag = tag ∧ o.access = true ∧ o.dests = []) ∧
  Answers t { who := tag, ins := if rows * len = 0 then .copyCompletion else .copyAccept } ∧
  (t.slot s.cur).pc = BitVec.ofNat 15 (nextPc x r) ∧ (t.slot s.cur).g = r.g ∧ (∀ j, j ≠ s.cur → t.slot j = s.slot j) ∧ t.mem = s.mem

/-- Both ends of a copy are places its unit may name, its completion target is well formed, and the slot and core have a free entry. -/
structure CopyOk (s : State) (src dst : W64) (target : BitVec 32) : Prop where
  target : targetOk s target = true
  src : (s.globalFrom (slotCluster s.cur) (s.partOf (slotCluster s.cur)) src).isSome = true
  dst : (s.globalTarget (s.partOf (slotCluster s.cur)) dst).isSome = true
  entry : s.entryFree s.cur false = true

/-- A descriptor's address names the scratchpad or second-tier memory, aligned, and no access of the slot to its line is outstanding, nor of a unit
that has ended there (R192, R203, R358). -/
structure DescOk (s : State) (a : W64) : Prop where
  aligned : a.toNat % 32 = 0
  names : ∃ g, s.globalFrom (slotCluster s.cur) (s.partOf (slotCluster s.cur)) a = some g ∧ (∀ k off, g ≠ .istore k off) ∧
    (∀ o ∈ (s.slot s.cur).outst, g.line ∉ o.lines) ∧ ∀ o ∈ s.orphans, o.slot = s.cur → g.line ∉ o.entry.lines

/-- What a delivery carries to a slot that waits (R356, R357). -/
def delivers (kind slot : Nat) (gen : BitVec 32) (tag : Nat) (ans : List W64) (g3 : W64) (m : TabledMsg) : Prop :=
  m.kind = kind ∧ m.slot = slot ∧ m.gen = gen ∧ m.tag = tag ∧ m.ans = ans ∧ m.g3 = g3

/-- The packet State.cur stands in the buffer of a queue that a partition owns. -/
structure Runs (s : State) (part : Nat) (p : Packet) : Prop where
  own : (s.queue (s.cur / 2 ^ 32)).own = some part
  here : s.packet s.cur = some p

/-- An outside party has been answered, and nothing else has happened to the machine but what `t` already was. -/
def Answered (t : State) (who status : Nat) (data : List W64) : Prop := t.out.getLast? = some { who := who, status := status, data := data }

/-- No register, memory, core or level is touched. -/
def Aside (s t : State) : Prop :=
  t.slots = s.slots ∧ t.mem = s.mem ∧ t.cores = s.cores ∧ t.levels = s.levels ∧ t.clusters = s.clusters ∧ t.slices = s.slices

/-- The pairwise tree over 2 ^ n lane codes from lane `i` on (R157): each node is the sum of its halves, rounded to the format. -/
def laneTree (f : FFmt) (code : Nat → Nat) : Nat → Nat → Nat
  | 0, i => code i
  | n + 1, i => f.encode ((f.decode (laneTree f code n i)).add (f.decode (laneTree f code n (i + 2 ^ n))))

end Sys2Proof.Machine
end

