-- ==== Sys2Proof/WellFormed.lean ====
section
/-! DEFINITION. What an instruction of Syntax.lean must satisfy to be one the part has: the field rules of R221 to R229
and the prefix rules of R223 for the encoded instructions. -/

namespace Sys2Proof
open Sys2Proof.Machine

/-- An encoded instruction that some group of words encodes: its fields obey their row's rules and the prefix rules. -/
def Instr.encodedWf (i : Instr) : Bool :=
  match opKey i with
  | none => false
  | some (page, op, x) =>
    match opLookup page op with
    | none => false
    | some r => fieldsOk r x && encodable r x

end Sys2Proof
end

