-- ==== Sys2Proof/Certificates/Slice0/Obligations.lean ====
section
/-! DEFINITION. The statements for the provers: one definition per obligation of OBLIGATIONS.json. -/

open Sys2Proof Sys2Proof.Machine

/-- R239, R240. Of page 0, format A3, op6 0x01 to 0x0B: the eleven three-register forms of page 0 write d with the value the table of R240 gives, over 64 bits, or over 32 bits and
sign-extended under .w; every other register, F/E bit and part of the machine is unchanged, and the group retires. -/
def Obligations.IntegerForms : Prop :=
  let w (x : Fld) (v : Vals) (f64 : W64 → W64 → W64) (f32 : BitVec 32 → BitVec 32 → BitVec 32) : W64 :=
    if x.f then (f32 (v.a.setWidth 32) (v.b.setWidth 32)).signExtend 64 else f64 v.a v.b
  WritesG uDAB .add (fun x v => w x v (· + ·) (· + ·)) ∧
  WritesG uDAB .sub (fun x v => w x v (· - ·) (· - ·)) ∧
  WritesG uDAB .and (fun x v => w x v (· &&& ·) (· &&& ·)) ∧
  WritesG uDAB .or (fun x v => w x v (· ||| ·) (· ||| ·)) ∧
  WritesG uDAB .xor (fun x v => w x v (· ^^^ ·) (· ^^^ ·)) ∧
  WritesG uDAB .shl (fun x v => w x v (fun a b => a <<< (b.toNat % 64)) (fun a b => a <<< (b.toNat % 32))) ∧
  WritesG uDAB .shr (fun x v => w x v (fun a b => a >>> (b.toNat % 64)) (fun a b => a >>> (b.toNat % 32))) ∧
  WritesG uDAB .mul (fun x v => w x v (· * ·) (· * ·)) ∧
  WritesG uDAB .slt (fun x v => w x v (fun a b => if a.toInt < b.toInt then 1 else 0) (fun a b => if a.toInt < b.toInt then 1 else 0)) ∧
  WritesG uDAB .min (fun x v => w x v (fun a b => if b.toInt < a.toInt then b else a) (fun a b => if b.toInt < a.toInt then b else a)) ∧
  WritesG uDAB .max (fun x v => w x v (fun a b => if a.toInt < b.toInt then b else a) (fun a b => if a.toInt < b.toInt then b else a)) ∧
  (∀ p ∈ ([(0x01, .add), (0x02, .sub), (0x03, .and), (0x04, .or), (0x05, .xor), (0x06, .shl), (0x07, .shr), (0x08, .mul), (0x09, .slt), (0x0A, .min),
      (0x0B, .max)] : List (Nat × (Fld → Instr))), ∀ (d a b : Nat) (f : Bool), d < 8 → a < 8 → b < 8 →
    decodeWords [BitVec.ofNat 16 (p.1 * 1024 + d * 128 + a * 16 + b * 2 + if f then 1 else 0)] =
      .ok (p.2 { d := BitVec.ofNat 5 d, a := BitVec.ofNat 5 a, b := BitVec.ofNat 5 b, f := f }))

/-- R241, R242, R243. The immediate forms, MOVI, MOVHI and LEA write d with the value their rules give, with the same frame. -/
def Obligations.ImmediateForms : Prop :=
  WritesG uDA .addi (fun x v => v.a + x.imm) ∧
  WritesG uDA .andi (fun x v => v.a &&& x.imm) ∧
  WritesG uDA .ori (fun x v => v.a ||| x.imm) ∧
  WritesG uDA .xori (fun x v => v.a ^^^ x.imm) ∧
  WritesG uDA .shli (fun x v => v.a <<< x.imm.toNat) ∧
  WritesG uDA .shri (fun x v => v.a >>> x.imm.toNat) ∧
  WritesG uDA .srai (fun x v => v.a.sshiftRight x.imm.toNat) ∧
  WritesG uDA .slti (fun x v => if v.a.toInt < x.imm.toInt then 1 else 0) ∧
  WritesG uD .movi (fun x _ => x.imm) ∧
  WritesG uD .movhi (fun x _ => x.imm <<< 32) ∧
  WritesG uDAB .lea (fun x v => v.a + if x.f then v.b <<< 3 else v.b)

/-- R244, R245. Multiply high, the counts, the rotation and the bit-field forms: the high half of the exact product; a count of zero bits
above the highest or below the lowest set bit, or of set bits, over 64 or 32 bits; a field read from or put into d. The value of a count
is given by what it counts. -/
def Obligations.WideAndBitForms : Prop :=
  let width (x : Fld) : Nat := if x.f then 32 else 64
  let pos (x : Fld) : Nat := x.imm.toNat % 64
  let wid (x : Fld) : Nat := x.imm.toNat / 64 % 64 + 1
  let field (a : W64) (x : Fld) : Nat := a.toNat / 2 ^ pos x % 2 ^ wid x
  WritesG uDAB .mulhu (fun _ v => BitVec.ofNat 64 (v.a.toNat * v.b.toNat / 2 ^ 64)) ∧
  WritesG uDAB .mulhs (fun _ v => BitVec.ofInt 64 (v.a.toInt * v.b.toInt / 2 ^ 64)) ∧
  WritesG uDA .clz (fun x v => BitVec.ofNat 64 (((List.range (width x)).reverse.takeWhile fun i => !v.a.getLsbD i).length)) ∧
  WritesG uDA .ctz (fun x v => BitVec.ofNat 64 (((List.range (width x)).takeWhile fun i => !v.a.getLsbD i).length)) ∧
  WritesG uDA .popc (fun x v => BitVec.ofNat 64 (((List.range (width x)).filter fun i => v.a.getLsbD i).length)) ∧
  WritesG uDAB .rot (fun x v =>
    if x.f then ((v.a.setWidth 32).rotateLeft (v.b.toNat % 32)).signExtend 64 else v.a.rotateLeft (v.b.toNat % 64)) ∧
  WritesG uDA .extu (fun x v => BitVec.ofNat 64 (field v.a x)) ∧
  WritesG uDA .exts (fun x v => if 2 ^ (wid x - 1) ≤ field v.a x then BitVec.ofInt 64 ((field v.a x : Int) - 2 ^ wid x)
    else BitVec.ofNat 64 (field v.a x)) ∧
  WritesG uDioA .ins (fun x v => BitVec.ofNat 64 (v.d.toNat % 2 ^ pos x + v.a.toNat % 2 ^ wid x * 2 ^ pos x +
    v.d.toNat / 2 ^ (pos x + wid x) * 2 ^ (pos x + wid x)))

/-- R246. DIV and REM by a divisor that is not zero are long-latency forms whose value is the quotient rounded toward zero or the
remainder with the dividend's sign (unsigned under .u), −2^63 by −1 giving −2^63 and 0; by zero they trap DIV0 with TRAPADDR and TRAPINFO
zero. -/
def Obligations.Division : Prop :=
  let wide (q : W64) : V512 := q.setWidth 512
  LongLatency uDAB .div (fun x => x.d.toNat) (fun v => v.b ≠ 0)
    (fun x v => wide (if x.f then BitVec.ofNat 64 (v.a.toNat / v.b.toNat) else BitVec.ofInt 64 (v.a.toInt.tdiv v.b.toInt))) ∧
  LongLatency uDAB .rem (fun x => x.d.toNat) (fun v => v.b ≠ 0)
    (fun x v => wide (if x.f then BitVec.ofNat 64 (v.a.toNat % v.b.toNat) else BitVec.ofInt 64 (v.a.toInt.tmod v.b.toInt))) ∧
  TrapsAt uDAB .div (fun _ v _ => v.b = 0) (fun _ _ _ => { cause := 0x0A, addr := 0, info := 0 }) ∧
  TrapsAt uDAB .rem (fun _ v _ => v.b = 0) (fun _ _ _ => { cause := 0x0A, addr := 0, info := 0 })

/-- R251, R252, R254. BR always transfers by its immediate, the six compare-and-branch forms and BZ and BNZ where their comparison
holds; a branch not taken only retires and never traps on its target. -/
def Obligations.BranchForms : Prop :=
  Branches uNone .br (fun _ => True) ∧
  Branches uSA .beq (fun v => v.d = v.a) ∧
  Branches uSA .bne (fun v => v.d ≠ v.a) ∧
  Branches uSA .blt (fun v => v.d.toInt < v.a.toInt) ∧
  Branches uSA .bge (fun v => v.a.toInt ≤ v.d.toInt) ∧
  Branches uSA .bltu (fun v => v.d.toNat < v.a.toNat) ∧
  Branches uSA .bgeu (fun v => v.a.toNat ≤ v.d.toNat) ∧
  Branches uS .bz (fun v => v.d = 0) ∧
  Branches uS .bnz (fun v => v.d ≠ 0)

/-- R252, R253, R255. CALL writes the return PC into g1 and transfers; JR jumps to the value of a read before d is written, or traps
FETCH with twice that value; LOOP takes 1 from d and, while the result is not zero, transfers backward, else retires. -/
def Obligations.CallJumpLoop : Prop :=
  let link (x : Fld) (s : State) : W64 := BitVec.ofNat 64 (((s.slot s.cur).pc.toNat + Fld.len x) % 2 ^ 15)
  (∀ (x : Fld) (s : State) (v : Vals) (s' : State), operands { extra := [1] } x s = .run v s' →
    Transfers .call x s (s'.putG 1 (link x s)) ((s.slot s.cur).pc.toNat + x.imm.toInt)) ∧
  (∀ (x : Fld) (s : State) (v : Vals) (s' : State), operands uDA x s = .run v s' →
    (v.a.toNat < 0x4000 → exec (.jr x) s = .next (retireTo (s'.putG x.d.toNat (link x s)) v.a.toNat)) ∧
    (0x4000 ≤ v.a.toNat → exec (.jr x) s = .next (trapEntry s s.cur (s.slot s.cur).pc { cause := 0x15, addr := v.a <<< 1 }))) ∧
  (∀ (x : Fld) (s : State) (v : Vals) (s' : State), operands { d := .g, dSrc := true, dDst := true } x s = .run v s' →
    (v.d - 1 ≠ 0 → Transfers .loop x s (s'.putG x.d.toNat (v.d - 1)) ((s.slot s.cur).pc.toNat - x.imm.toNat)) ∧
    (v.d - 1 = 0 → exec (.loop x) s = .next (retired x s (s'.putG x.d.toNat 0))))

/-- R151, R157, R247, R248, R249. The scalar FP32 forms: the exact operation on the values of bits 31 to 0 of the sources, rounded once to
FP32 and zero-extended (FMA rounds the exact product and sum once); FLT and FEQ write 1 or 0, and 0 where an operand is NaN; FCVTF and FCVTI
convert as the table of R249 says. The frame is that of every form that writes one general register. -/
def Obligations.ScalarFloatForms : Prop :=
  let val (w : W64) : FVal := fp32.decode (w.toNat % 2 ^ 32)
  let res (y : FVal) : W64 := BitVec.ofNat 64 (fp32.encode y)
  let sgn (w : W64) (n : Nat) : Int := if w.getLsbD (n - 1) then (w.toNat % 2 ^ n : Int) - 2 ^ n else w.toNat % 2 ^ n
  WritesG uDAB .fadd (fun _ v => res ((val v.a).add (val v.b))) ∧
  WritesG uDAB .fsub (fun _ v => res ((val v.a).add (val v.b).neg)) ∧
  WritesG uDAB .fmul (fun _ v => res ((val v.a).mul (val v.b))) ∧
  WritesG uDioAB .fma (fun _ v => res (((val v.a).mul (val v.b)).add (val v.d))) ∧
  WritesG uDAB .fmin (fun _ v => res ((val v.a).lesser (val v.b))) ∧
  WritesG uDAB .fmax (fun _ v => res ((val v.a).greater (val v.b))) ∧
  WritesG uDAB .flt (fun _ v => if (val v.a).lt (val v.b) then 1 else 0) ∧
  WritesG uDAB .feq (fun _ v => if (val v.a).eq (val v.b) then 1 else 0) ∧
  WritesG uDA .fcvtf (fun x v => res (FVal.ofInt
    (if x.b.getLsbD 1 then (if x.f then ((v.a.toNat % 2 ^ 32 : Nat) : Int) else sgn v.a 32)
     else (if x.f then (v.a.toNat : Int) else v.a.toInt)) 0 false)) ∧
  WritesG uDA .fcvti (fun x v => BitVec.ofInt 64 ((val v.a).toInt (x.b.getLsbD 0)
    (if x.f then 0 else if x.b.getLsbD 1 then -(2 ^ 31) else -(2 ^ 63))
    (if x.f then (if x.b.getLsbD 1 then 2 ^ 32 - 1 else 2 ^ 64 - 1) else if x.b.getLsbD 1 then 2 ^ 31 - 1 else 2 ^ 63 - 1)))

/-- R250, R268. FDIV, FSQRT and the four vector functions are long-latency forms: d is EMPTY until the value, the correctly rounded
quotient, root, or function of each enabled lane (a lane that is not enabled keeping what it held), fills it. -/
def Obligations.LongFloatForms : Prop :=
  let val (w : W64) : FVal := fp32.decode (w.toNat % 2 ^ 32)
  let res (y : FVal) : V512 := (BitVec.ofNat 64 (fp32.encode y)).setWidth 512
  let fn (g : FVal → FVal) (x : Fld) (v : Vals) : V512 :=
    maskV x.f v.lanes v.vd fun i => (viewF x.f).encode (g ((viewF x.f).decode (lane (viewW x.f) i v.va)))
  LongLatency uDAB .fdiv (fun x => x.d.toNat) (fun _ => True) (fun _ v => res ((val v.a).div (val v.b))) ∧
  LongLatency uDA .fsqrt (fun x => x.d.toNat) (fun _ => True) (fun _ v => res (val v.a).sqrt) ∧
  LongLatency uVV .vfexp2 (fun x => 32 + x.d.toNat) (fun _ => True) (fn FVal.exp2) ∧
  LongLatency uVV .vflog2 (fun x => 32 + x.d.toNat) (fun _ => True) (fn FVal.log2) ∧
  LongLatency uVV .vfrcp (fun x => 32 + x.d.toNat) (fun _ => True) (fn fun a => (FVal.fin false 1 0).div a) ∧
  LongLatency uVV .vfrsq (fun x => 32 + x.d.toNat) (fun _ => True) (fn FVal.rsqrt)

/-- R155. A code that is not NaN is what its own value encodes to: a conversion of a value that a format holds is exact. It holds of FP32,
BF16, E4M3 and E5M2, at every code. -/
def Says.CodesAreExact : Prop :=
  ∀ f ∈ [fp32, bf16, e4m3, e5m2], ∀ c, c < 2 ^ f.width → f.decode c ≠ .nan → f.encode (f.decode c) = c

/-- R249. The examples of R249's table. -/
def Says.ConversionExamples : Prop :=
  fcvti false false false 0x40600000 = 4 ∧ fcvti true false false 0x40600000 = 3 ∧
  fcvti false false false 0xC0600000 = BitVec.ofInt 64 (-4) ∧ fcvti false true false 0x4F32D05E = 0x7FFFFFFF ∧
  fcvti false true true 0x4F32D05E = 0xB2D05E00 ∧ fcvti false false true 0xBF800000 = 0 ∧
  fcvtf true false 0x1234567800000003 = 0x40400000 ∧ fcvtf false true 0xFFFFFFFFFFFFFFFF = 0x5F800000

/-- The statements CodesAreExact, ConversionExamples together. -/
def Obligations.FloatValues : Prop :=
  Says.CodesAreExact ∧ Says.ConversionExamples

/-- R257, R259, R260. The integer lane forms: each enabled lane takes the result modulo the lane's width, every other lane keeps its value;
nothing else changes. -/
def Says.IntegerLanes : Prop :=
  let sg (x : Fld) (c : Nat) : Int := if c.testBit (viewW x.f - 1) then (c : Int) - 2 ^ viewW x.f else c
  LaneForm .vadd (fun _ a b => a + b) ∧
  LaneForm .vsub (fun x a b => a + 2 ^ viewW x.f - b) ∧
  LaneForm .vmul (fun _ a b => a * b) ∧
  LaneForm .vmin (fun x a b => if sg x b < sg x a then b else a) ∧
  LaneForm .vmax (fun x a b => if sg x a < sg x b then b else a) ∧
  LaneForm .vand (fun _ a b => a &&& b) ∧
  LaneForm .vor (fun _ a b => a ||| b) ∧
  LaneForm .vxor (fun _ a b => a ^^^ b) ∧
  LaneForm .vshl (fun x a b => a * 2 ^ (b % viewW x.f)) ∧
  LaneForm .vshr (fun x a b => a / 2 ^ (b % viewW x.f))

/-- R261, R269. The floating lane forms and VSCALE: each enabled lane takes the exact result rounded once in the lane's format (FP32 or
BF16). -/
def Says.FloatLanes : Prop :=
  let op (g : FVal → FVal → FVal) (x : Fld) (a b : Nat) : Nat := (viewF x.f).encode (g ((viewF x.f).decode a) ((viewF x.f).decode b))
  LaneForm .vfadd (op FVal.add) ∧
  LaneForm .vfsub (op fun a b => a.add b.neg) ∧
  LaneForm .vfmul (op FVal.mul) ∧
  LaneForm .vfmin (op FVal.lesser) ∧
  LaneForm .vfmax (op FVal.greater) ∧
  WritesV uVioVV .vfma (fun x v => LaneResult x.f v.lanes v.vd fun i => (viewF x.f).encode
    ((((viewF x.f).decode (lane (viewW x.f) i v.va)).mul ((viewF x.f).decode (lane (viewW x.f) i v.vb))).add
      ((viewF x.f).decode (lane (viewW x.f) i v.vd)))) ∧
  WritesV uVVG .vscale (fun x v => LaneResult x.f v.lanes v.vd fun i => (viewF x.f).encode
    (((viewF x.f).decode (lane (viewW x.f) i v.va)).scale (max (-512) (min 511 v.b.toInt))))

/-- R262. The compares write the mask bit of each enabled lane; a floating comparison with NaN is false. -/
def Says.LaneCompares : Prop :=
  let sg (x : Fld) (c : Nat) : Int := if c.testBit (viewW x.f - 1) then (c : Int) - 2 ^ viewW x.f else c
  let val (x : Fld) (c : Nat) : FVal := (viewF x.f).decode c
  CompareForm .vfclt (fun x a b => (val x a).lt (val x b)) ∧
  CompareForm .vfcle (fun x a b => (val x a).lt (val x b) || (val x a).eq (val x b)) ∧
  CompareForm .vfceq (fun x a b => (val x a).eq (val x b)) ∧
  CompareForm .viclt (fun x a b => decide (sg x a < sg x b)) ∧
  CompareForm .viceq (fun _ a b => decide (a = b))

/-- R157, R263, R264, R265, R266, R267, R270, R276. The forms that move and reduce lanes, VCVT, and the mask forms. VRSUM adds the lanes in the pairwise
tree of R157, a lane that is not enabled entering as −0; VAMAX gives the greatest magnitude of the enabled lanes, or NaN if one is NaN. VSEL writes every lane, from a
where the mask has 1, else from b; VINS writes one lane, under XK only where its mask bit is 1; VCVT writes sixteen results of its width
and zero above them. -/
def Obligations.LaneMovesAndMasks : Prop :=
  WritesV uVVV .vsel (fun x v r => ∀ i, i < viewN x.f →
    lane (viewW x.f) i r = if v.lanes.getLsbD i then lane (viewW x.f) i v.va else lane (viewW x.f) i v.vb) ∧
  WritesV uVG .vbcast (fun x v => LaneResult x.f v.lanes v.vd fun _ => v.a.toNat) ∧
  WritesG uGVx .vext (fun x v => BitVec.ofNat 64 (lane (viewW (x.imm.getLsbD 5)) (x.imm.toNat % 32) v.va)) ∧
  WritesV uVioG .vins (fun x v r => let h := x.imm.getLsbD 5
    ∀ i, i < viewN h → lane (viewW h) i r =
      if i = x.imm.toNat % 32 ∧ v.lanes.getLsbD i then v.a.toNat % 2 ^ viewW h else lane (viewW h) i v.vd) ∧
  LaneFormIdx .vperm ∧
  WritesG uGV .vrsum (fun x v => BitVec.ofNat 64 (laneTree (viewF x.f) (fun i => if v.lanes.getLsbD i then lane (viewW x.f) i v.va else 2 ^ (viewW x.f - 1))
    (if x.f then 5 else 4) 0)) ∧
  WritesG uGV .vamax (fun x v => let c (i : Nat) : Nat := lane (viewW x.f) i v.va
    BitVec.ofNat 64 (if (List.range (viewN x.f)).any (fun i => v.lanes.getLsbD i && (viewF x.f).decode (c i) == .nan) then (if x.f then 0x7FC0 else 0x7FC00000)
      else (List.range (viewN x.f)).foldl (fun m i => if v.lanes.getLsbD i then Nat.max m (c i % 2 ^ (viewW x.f - 1)) else m) 0)) ∧
  WritesV uVV .vcvt (fun x v r => let w := cvtWidths x.imm.toNat
    (∀ i, i < 16 → lane w.2 i r = if v.lanes.getLsbD i then cvtElem x.imm.toNat (lane w.1 i v.va) % 2 ^ w.2 else lane w.2 i v.vd) ∧
    r.toNat < 2 ^ (16 * w.2)) ∧
  WritesK uKKK .kand (fun _ v _ => v.ka &&& v.kb) ∧
  WritesK uKKK .kor (fun _ v _ => v.ka ||| v.kb) ∧
  WritesK uKKK .kxor (fun _ v _ => v.ka ^^^ v.kb) ∧
  WritesK uKK .knot (fun _ v _ => ~~~v.ka) ∧
  WritesG uGK .ktog (fun _ v => v.ka.setWidth 64) ∧
  WritesK uKG .gtok (fun _ v _ => v.a.setWidth 32)

/-- The statements IntegerLanes, FloatLanes, LaneCompares together. -/
def Obligations.LaneForms : Prop :=
  Says.IntegerLanes ∧ Says.FloatLanes ∧ Says.LaneCompares

/-- R26, R28, R226, R238. Where a group names no port register, is enabled, and every register it names is FULL, its operand checks pass,
take nothing and leave the state as it was, and the values it works on are its registers' contents: g0 as zero, k0 as ones, the second
word of a pair from the next register, the enabled lanes from its mask register, inverted where it says so, or all of them. -/
def Obligations.RegisterOperands : Prop :=
  ∀ (u : Uses) (x : Fld) (s : State), let t := s.slot s.cur
    NoPort u x → Enabled u x t → (∀ i ∈ u.items x, t.empty i.reg = false) →
    ∃ v, operands u x s = .run v s ∧
      (u.a = .g → v.a = t.getG x.a.toNat) ∧ (u.a = .g → u.aPair = true → v.a1 = t.getG (x.a.toNat + 1)) ∧
      (u.b = .g → v.b = t.getG x.b.toNat) ∧ (u.d = .g → u.dSrc = true → v.d = t.getG x.d.toNat) ∧
      (u.d = .g → u.dSrc = true → u.dPair = true → v.d1 = t.getG (x.d.toNat + 1)) ∧
      (u.a = .v → v.va = t.getV x.a.toNat) ∧ (u.b = .v → v.vb = t.getV x.b.toNat) ∧ (u.d = .v → v.vd = t.getV x.d.toNat) ∧
      (u.a = .k → v.ka = t.getK x.a.toNat) ∧ (u.b = .k → v.kb = t.getK x.b.toNat) ∧
      (x.xk = none → v.lanes = 0xFFFFFFFF) ∧ (∀ k, x.xk = some (false, k) → v.lanes = t.getK k.toNat) ∧
      (∀ k, x.xk = some (true, k) → v.lanes = ~~~(t.getK k.toNat))

/-- R26, R42. A register that is EMPTY, the first in the order d, a, b: for every encoded form, under the operand's trap bit the group
traps FE_EMPTY, with the register, its file and the operand in TRAPINFO and no other effect; else the slot waits until it is FULL. -/
def Says.EmptyRegister : Prop :=
  ∀ p ∈ forms, ∀ (x : Fld) (s : State) (i : FeItem), let t := s.slot s.cur
    NoPort p.1 x → Enabled p.1 x t → (p.1.items x).find? (fun i => t.empty i.reg) = some i →
    (i.trap = true → exec (p.2 x) s = .next (trapEntry s s.cur t.pc
      { cause := 0x02, addr := 0, info := BitVec.ofNat 64 (i.n + i.file.code * 32 + i.op * 128) })) ∧
    (i.trap = false → ∃ t', exec (p.2 x) s = .next t' ∧ WaitsFor (.reg i.reg) s t')

/-- R226. A group whose mask register is EMPTY waits for it, whatever its other operands; one that is no vector form and whose mask has
bit 0 clear only retires: it takes no trap, waits on no operand and writes nothing. Both hold of every encoded form. -/
def Says.MaskedOff : Prop :=
  ∀ p ∈ forms, ∀ (x : Fld) (s : State) (inv : Bool) (k : BitVec 3), let t := s.slot s.cur
    x.xk = some (inv, k) →
    (t.empty (64 + k.toNat) = true → ∃ t', exec (p.2 x) s = .next t' ∧ WaitsFor (.reg (64 + k.toNat)) s t') ∧
    (t.empty (64 + k.toNat) = false → p.1.lanes = false → (t.getK k.toNat).getLsbD 0 = inv →
      exec (p.2 x) s = .next (retired x s s))

/-- R26, R28, R83, R84, R179, R332. The ports a group names, for every encoded form that is enabled. A source port that holds nothing traps
FE_EMPTY under its trap bit, if every register before it in the order d, a, b is FULL. Where the registers are FULL: a source port that
does not receive traps PORT; a closing marker among the words the group would take is consumed, returns the port to LISTEN and traps PORT; a
port as d that does not send traps PORT, and so does one whose route is lost, and one whose route was refused traps ADDR. Where no port stands
against it: the group waits, bounded or not, or fails with −1, for a source with too few words, then for a link that is full or whose route is
not acquired, which a BOUND port begins to acquire; and a form with every word there takes exactly its words. That a port that is not ready
is looked at after every register, and that a marker alone is not EMPTY, is the model's reading (log 10). -/
def Says.PortSource : Prop :=
  ∀ p ∈ forms, ∀ (x : Fld) (s : State), let u := p.1; let t := s.slot s.cur; let core := slotCore s.cur; let port (i : Nat) := s.port core i
    let n (i : Nat) : Nat := countOf i (u.reads x)
    let traps (c : Nat) (info : Nat) (addr : W64) (s' : State) : Prop :=
      exec (p.2 x) s = .next (trapEntry s' s.cur t.pc { cause := c, addr := addr, info := BitVec.ofNat 64 info })
    Enabled u x t →
    (∀ i, (u.items x).find? (fun i => if i.isPort then i.trap && (port (i.n - 24)).buf.isEmpty else t.empty i.reg) = some i →
      i.isPort = true → traps 0x02 (i.n + i.op * 128) 0 s) ∧
    (AtPorts u x s →
      (∀ i, (u.reads x).find? (fun i => !(port i).readable) = some i → traps 0x11 (i + (port i).st.code * 16 + 256) 0 s) ∧
      ((∀ i ∈ u.reads x, (port i).readable = true) →
        (∀ i, (u.reads x).find? (fun i => ((port i).buf.take (n i)).contains none) = some i → ∃ s',
          traps 0x11 (i + (port i).st.code * 16 + 512) 0 s' ∧ (s'.port core i).st = .listen ∧
          (s'.port core i).buf = ((port i).buf.dropWhile (·.isSome)).drop 1 ∧ (∀ j, s'.slot j = s.slot j)) ∧
        ((∀ i ∈ u.reads x, none ∉ (port i).buf.take (n i)) →
          (∀ i, u.writes x = some i → (port i).writable = false → traps 0x11 (i + (port i).st.code * 16 + 256) 0 s) ∧
          (∀ i, u.writes x = some i → (port i).writable = true → (port i).refused = 1 → traps 0x16 0 (port i).place (dropRoute s core i)) ∧
          (∀ i, u.writes x = some i → (port i).writable = true → (port i).refused = 3 →
            traps 0x11 (i + (port i).st.code * 16 + 768) 0 (dropRoute s core i)) ∧
          ((∀ i, u.writes x = some i → (port i).writable = true ∧ (port i).refused = 0) →
            (∀ i, (u.reads x).find? (fun i => decide ((port i).buf.length < n i)) = some i → StopsAtPort p x s s (.portIn i) i) ∧
            ((∀ i ∈ u.reads x, n i ≤ (port i).buf.length) →
              (∀ i, u.writes x = some i → (port i).st = .opened ∨ (port i).acq ≠ 0 → s.portRoom (port i) = false →
                StopsAtPort p x s s (.portOut i) i) ∧
              (∀ i, u.writes x = some i → (port i).st = .bound → (port i).acq = 0 → let s1 := startRoute s core i (t.waitMode == 2)
                (t.waitMode ≠ 2 → StopsAtPort p x s s1 (.portOut i) i ∧ (s1.port core i).acq = 1 ∧ (s1.port core i).writer = s.cur ∧
                  ∃ o ∈ s1.agenda, o.ins = .routeHop ∧ o.who = core * 8 + i) ∧
                (t.waitMode = 2 → (s1.port core i).writable = true → (s1.port core i).refused = 0 → s1.portRoom (s1.port core i) = false →
                  StopsAtPort p x s s1 (.portOut i) i)) ∧
              (u.writes x = none → ∃ v s', operands u x s = .run v s' ∧
                (u.a = .g → 24 ≤ x.a.toNat → (port (x.a.toNat - 24)).buf[0]? = some (some v.a)) ∧
                (u.b = .g → 24 ≤ x.b.toNat → (port (x.b.toNat - 24)).buf[if u.a = .g ∧ x.a = x.b then 1 else 0]? = some (some v.b)) ∧
                (∀ i, i < 8 → (s'.port core i).buf = (port i).buf.drop (n i) ∧ (s'.port core i).taken = (port i).taken + BitVec.ofNat 16 (n i)) ∧
                (∀ j, s'.slot j = s.slot j) ∧ s'.mem = s.mem ∧ s'.agenda = s.agenda))))))

/-- R84, R140, R147. A word written on a port that is BOUND or OPEN leaves it OPEN with one more word on its way to the receiver, or held at
the core's NI for the partition's budget; the first word of a route counts as one message of its phase tag when it is injected. -/
def Says.PortWord : Prop :=
  ∀ (s : State) (core i : Nat) (w : W64), let p := s.port core i; let t := sendWord s core i w
    (t.port core i).st = .opened ∧ (t.port core i).wrote = p.wrote + 1 ∧ (t.port core i).flying = p.flying + 1 ∧
    let part := s.partOf (coreCluster core); let o : Op := { who := p.route, ins := .streamWordArrival p.tgtCore p.tgtPort core i w }
    t.mem = s.mem ∧ t.slots = s.slots ∧
    (s.injSpent part = false → t.agenda = s.agenda ++ [o]) ∧
    (s.injSpent part = true → t.nis = s.nis ∧ t.parts = s.parts ∧
      t.agenda = s.agenda ++ [{ o with inj := some (core, part, if p.st = .bound then some p.phase else none) }]) ∧
    (p.st ≠ .bound → t.nis = s.nis) ∧
    (s.injSpent part = false → p.st = .bound → p.phase = false → (t.ni core).sent0 = (s.ni core).sent0 + 1 ∧ (t.ni core).sent1 = (s.ni core).sent1) ∧
    (s.injSpent part = false → p.st = .bound → p.phase = true → (t.ni core).sent1 = (s.ni core).sent1 + 1 ∧ (t.ni core).sent0 = (s.ni core).sent0)

/-- R41, R42, R185. Trap entry with a handler and ACTIVE 0: TRAPPC takes the PC of the group, TRAPCAUSE ACTIVE and the cause, TRAPADDR and
TRAPINFO their values, the slot goes on at TRAPVEC, and nothing else of the slot and nothing outside it changes. -/
def Says.TrapToHandler : Prop :=
  ∀ (s : State) (slot : Nat) (pc : Pc) (e : Trap), let t := s.slot slot
    t.trapvec ≠ 0 → t.trapcause.getLsbD 8 = false →
    (trapEntry s slot pc e).slot slot = { t with trappc := pc.setWidth 64, trapcause := BitVec.ofNat 64 (256 + e.cause), trapaddr := e.addr,
                                                 trapinfo := e.info, pc := t.trapvec.setWidth 15, st := .ready, attempt := none } ∧
    (∀ j, j ≠ slot → (trapEntry s slot pc e).slot j = s.slot j) ∧
    trapEntry s slot pc e = { s with slots := (trapEntry s slot pc e).slots }

/-- R41, R139, R175, R185. A trap with TRAPVEC 0 or with ACTIVE 1 kills the unit: the trap registers take the trap, the slot is idle, with no
entry, region, barrier or stack left, no other slot changes, and its launch receives the decrement by 1, with an error unless the cause is
CANCEL (R139: a unit killed by CANCEL adds nothing), or where it dies with a GUARD report pending (R61). -/
def Says.TrapKills : Prop :=
  ∀ (s : State) (slot : Nat) (pc : Pc) (e : Trap), let t := s.slot slot; let u := trapEntry s slot pc e
    t.trapvec = 0 ∨ t.trapcause.getLsbD 8 = true →
    (u.slot slot).st = .idle ∧ (u.slot slot).trappc = pc.setWidth 64 ∧ (u.slot slot).trapcause = BitVec.ofNat 64 (256 + e.cause) ∧
    (u.slot slot).trapaddr = e.addr ∧ (u.slot slot).trapinfo = e.info ∧ (u.slot slot).outst = [] ∧ (u.slot slot).stack = [] ∧
    (u.slot slot).region = none ∧ (u.slot slot).bars = [] ∧ (u.slot slot).g = t.g ∧ (u.slot slot).gen = t.gen ∧
    (∀ j, j ≠ slot → u.slot j = s.slot j) ∧
    ({ ins := .levelUpdate { part := t.home, level := t.level, add := false, n := 1,
                             err := if e.cause ≠ 0x0E ∨ t.guardPend = true then 1 else 0, slot := slot, gen := t.gen, tag := 0,
                             ack := false, addr := 0 } } : Op) ∈ u.agenda

/-- R218, R227, R376, R382. TRAP traps SWTRAP with its immediate; BRK traps BREAK where its cluster's DBGCTL.BRKEN is 0; a group that is no
instruction traps ILLEGAL with the offending word and its position, one that cannot be fetched FETCH with its address: each enters the trap
at its own PC. -/
def Says.TrapForms : Prop :=
  TrapsAt uNone .trap (fun _ _ _ => True) (fun x _ _ => { cause := 0x0F, addr := 0, info := x.imm }) ∧
  TrapsAt uNone .brk (fun _ _ s => (s.cluster (slotCluster s.cur)).dbgctl.getLsbD 2 = false) (fun _ _ _ => { cause := 0x14 }) ∧
  (∀ (s : State) (w : Half) (pos : Nat) (addr : W64), pos < 8 →
    exec (.illegalGroup false w pos addr) s = .next (trapEntry s s.cur (s.slot s.cur).pc
      { cause := 0x01, addr := 0, info := BitVec.ofNat 64 (w.toNat + pos * 65536) }) ∧
    exec (.illegalGroup true w pos addr) s = .next (trapEntry s s.cur (s.slot s.cur).pc { cause := 0x15, addr := addr, info := 0 }))

/-- R382, R426. BRK where BRKEN is 1: the group has no effect, and its cluster is halted with cause 2 unless it is already. -/
def Says.BreakHalts : Prop :=
  ∀ (x : Fld) (s : State) (v : Vals) (s' : State), operands uNone x s = .run v s' → let c := slotCluster s.cur; let w := (s.cluster c).dbgctl
    w.getLsbD 2 = true → ∃ (t : State), exec (.brk x) s = .next t ∧ t.slot s.cur = { s.slot s.cur with atBrk := true } ∧
      (∀ j, j ≠ s.cur → t.slot j = s.slot j) ∧ t.mem = s.mem ∧
      (w.getLsbD 0 = false → (t.cluster c).dbgctl.getLsbD 0 = true ∧ bits (t.cluster c).dbgctl 17 16 = 2 ∧ (t.cluster c).haltAt = s.now)

/-- R377. RFT: where accesses of the slot are outstanding it waits for them; else ACTIVE becomes 0, every other bit of TRAPCAUSE and every
other trap register is as before, and the slot goes on at TRAPPC, or, where the cause is SWTRAP or BREAK, at the group behind it. -/
def Obligations.ReturnFromTrap : Prop :=
  ∀ (x : Fld) (s : State) (v : Vals) (s' : State), operands uNone x s = .run v s' → let t := s.slot s.cur
    (t.outst = [] → ∃ (u : State), exec (.rft x) s = .next u ∧ OnlySlot s' u ∧
      u.slot s.cur = { t with trapcause := t.trapcause &&& ~~~(256 : W64), retired := t.retired + 1, st := .ready, attempt := none,
                              preempt := (u.slot s.cur).preempt,
                              pc := if t.trapcause.toNat % 256 = 0x0F ∨ t.trapcause.toNat % 256 = 0x14
                                then BitVec.ofNat 15 (s'.pcAfter (slotCore s.cur) (t.trappc.toNat % 2 ^ 15)) else t.trappc.setWidth 15 }) ∧
    (t.outst ≠ [] → ∃ (u : State), exec (.rft x) s = .next u ∧ WaitsFor .settled s u)

/-- R37, R38, R47, R378. SYSR writes the register its immediate names into d, with the frame of every form that writes one general register; of
CYCLE, RETIRED and PTPTIME it is a long-latency form whose value is sampled at issue. The reading of every register is given by name, of
SLOTID field by field (R38); PTPTIME's while the device's clock is not being slewed, by its set time, its FREQ and 5 nanoseconds in 8 cycles. -/
def Obligations.SystemRead : Prop :=
  let num (x : Fld) : Nat := x.imm.toNat % 4096
  let sub (x : Fld) : Nat := x.imm.toNat / 4096 % 4
  Completes uD .sysr (fun x _ _ => sysregLong (num x) = false) (fun x _ s => s.putG x.d.toNat (s.sysReg s.cur (num x) (sub x))) ∧
  Completes uD .sysr (fun x _ _ => sysregLong (num x) = true)
    (fun x _ s => startFill s [x.d.toNat] ((s.sysReg s.cur (num x) (sub x)).setWidth 512)) ∧
  (∀ (s : State) (slot : Nat), let t := s.slot slot; let r (n : Nat) : W64 := s.sysReg slot n 0
    r 0x001 = t.gen.setWidth 64 ∧ r 0x002 = t.level ∧ r 0x003 = t.corr.setWidth 64 ∧ r 0x004 = t.stktop ∧ r 0x010 = t.trappc ∧
    r 0x011 = t.trapcause ∧ r 0x012 = t.trapaddr ∧ r 0x013 = t.trapinfo ∧ r 0x014 = t.trapvec ∧ r 0x015 = t.trapscr ∧
    r 0x018 = t.oobflag ∧ r 0x019 = t.oobaddr ∧ r 0x01A = t.guardmode ∧ r 0x020 = t.waitpol ∧ r 0x041 = t.retired) ∧
  (∀ (s : State) (slot : Nat), let c := s.core (slotCore slot); let q := s.part (s.partOf (slotCluster slot)); let d := s.dev (slotDev slot)
    let r (n : Nat) : W64 := s.sysReg slot n 0; let e := s.now - d.ptpAt
    r 0x021 = q.wdogwin ∧ r 0x060 = q.scalebase ∧ r 0x028 = c.cpymask0 ∧ s.sysReg slot 0x028 1 = c.cpymask1 ∧ r 0x029 = c.cpyxmask ∧
    r 0x040 = BitVec.ofNat 64 (s.now - d.since) + c.cycleAdd ∧
    (∀ n sub, n < 8 → sub < 4 → s.sysReg slot (0x030 + n) sub = Sp.get 0 c.prot (n * 4 + sub)) ∧
    (s.liveLevel (s.slot slot).home (s.slot slot).level = none → r 0x050 = 0) ∧
    (∀ l, s.liveLevel (s.slot slot).home (s.slot slot).level = some l → r 0x050 = l.persistwin) ∧
    (d.slow = 0 → r 0x042 = d.ptpSet + BitVec.ofNat 64 (e * 5 * (2 ^ 32 + d.freq.toInt) / (8 * 2 ^ 32)).toNat)) ∧
  (∀ (s : State) (slot : Nat), let w := s.sysReg slot 0x000 0; slotDev slot < 1024 → (s.cluster (slotCluster slot)).rel < 128 →
    bits w 63 54 = slotDev slot ∧ bits w 53 47 = (s.cluster (slotCluster slot)).rel ∧ bits w 46 40 = slotCore slot % 128 ∧
    bits w 39 37 = slot % 8 ∧ bits w 36 32 = s.partOf (slotCluster slot) % 32 ∧ bits w 31 0 = 0)

/-- R37, R39, R43, R44, R45, R48. The registers SYSW may write, by number and sub-index, with the bits a write takes; a value with a reserved field that
is not zero traps PERM, with TRAPADDR and TRAPINFO 0 (log 52). -/
def Says.SystemWriteTakesEffect : Prop :=
  ∀ r ∈ ([(0x004, 0, 0xFFFF0), (0x010, 0, 0x7FFF), (0x011, 0, 0x1FF), (0x014, 0, 0x7FFF), (0x015, 0, 0xFFFFFFFFFFFFFFFF), (0x01A, 0, 1),
      (0x020, 0, 0xFFFFFFFF00000003), (0x028, 0, 0xFFFFFFFFFFFFFFFF), (0x028, 1, 0xFFFFFFFFFFFFFFFF), (0x029, 0, 3)] ++
      ((List.range 8).flatMap fun n => [(0x030 + n, 0, 0x7FFC0), (0x030 + n, 1, 0xFFFC0), (0x030 + n, 2, 0x3FFF), (0x030 + n, 3, 0x7FFFC)])
      : List (Nat × Nat × W64)),
    ∀ (x : Fld) (s : State) (v : Vals) (s' : State), operands uA x s = .run v s' → x.imm.toNat = r.1 + 4096 * r.2.1 →
      (sysReserved r.1 r.2.1 v.a = false → ∃ (t : State), exec (.sysw x) s = .next t ∧
        t.sysReg s.cur r.1 r.2.1 = v.a &&& r.2.2 ∧ (t.slot s.cur).pc = BitVec.ofNat 15 (nextPc x (s.slot s.cur)) ∧
        (t.slot s.cur).g = (s'.slot s.cur).g ∧ (t.slot s.cur).v = (s'.slot s.cur).v ∧ (t.slot s.cur).k = (s'.slot s.cur).k ∧
        (∀ j, j ≠ s.cur → t.slot j = s'.slot j) ∧ t.mem = s'.mem ∧
        (∀ q sub, sysregLong q = false → (q, sub) ≠ (r.1, r.2.1) →
          sysregKnown q = true → sub < sysregSubs q → t.sysReg s.cur q sub = s'.sysReg s.cur q sub)) ∧
      (sysReserved r.1 r.2.1 v.a = true → exec (.sysw x) s = .next (trapEntry s s.cur (s.slot s.cur).pc { cause := 0x06 }))

/-- R36, R37. A SYSW of a register whose access is RO traps PERM and changes nothing; a SYSW of OOBFLAG clears it where bit 0 is 1. That TRAPADDR
and TRAPINFO of a PERM trap of SYSW are 0 is the model's reading (log 52). -/
def Says.SystemWriteRefused : Prop :=
  (∀ n ∈ [0x000, 0x001, 0x002, 0x003, 0x012, 0x013, 0x019, 0x021, 0x040, 0x041, 0x042, 0x050, 0x060],
    TrapsAt uA .sysw (fun x _ _ => x.imm.toNat % 4096 = n) (fun _ _ _ => { cause := 0x06, addr := 0, info := 0 })) ∧
  Completes uA .sysw (fun x v _ => x.imm.toNat = 0x018 ∧ v.a.getLsbD 0 = true)
    (fun _ _ s => s.updSlot s.cur fun t => { t with oobflag := 0 }) ∧
  Completes uA .sysw (fun x v _ => x.imm.toNat = 0x018 ∧ v.a.getLsbD 0 = false) (fun _ _ s => s)

/-- R376. TRAP traps SWTRAP, cause 0x0F, at its own PC, and its immediate, zero-extended from 10 + 10n bits with n immediate prefixes, is written to
TRAPINFO. With an XR prefix TRAP is illegal. -/
def Obligations.TrapInstruction : Prop :=
  TrapsAt uNone .trap (fun _ _ _ => True) (fun x _ _ => { cause := 0x0F, addr := 0, info := x.imm }) ∧
  (∀ (l : List Nat) (i : Nat), l.length ≤ 3 → (∀ p ∈ l, p < 1024) → i < 1024 →
    decodeWords (0xF806 :: l.map (fun p => BitVec.ofNat 16 (0xF000 + p)) ++ [BitVec.ofNat 16 (0x18 * 1024 + i)]) =
      .ok (.trap { imm := BitVec.ofNat 64 (l.foldl (fun n p => n * 1024 + p) 0 * 1024 + i), xp := true, nxi := l.length })) ∧
  (∀ (ws : List Half) (x : Fld), decodeWords ws = .ok (.trap x) → x.xr = false)

/-- The statements EmptyRegister, MaskedOff together. -/
def Obligations.EmptyAndMasked : Prop :=
  Says.EmptyRegister ∧ Says.MaskedOff

/-- The statements PortSource, PortWord together, which rest on choices of the model where they say so: log 10. -/
def Obligations.PortOperands : Prop :=
  Says.PortSource ∧ Says.PortWord

/-- The statements TrapToHandler, TrapKills together. -/
def Obligations.TrapEntry : Prop :=
  Says.TrapToHandler ∧ Says.TrapKills

/-- The statements TrapForms, BreakHalts together. -/
def Obligations.SoftwareTraps : Prop :=
  Says.TrapForms ∧ Says.BreakHalts

/-- The statements SystemWriteTakesEffect, SystemWriteRefused together, which rest on choices of the model where they say so: log 52. -/
def Obligations.SystemWrite : Prop :=
  Says.SystemWriteTakesEffect ∧ Says.SystemWriteRefused

/-- R4, R279, R281. The seven scalar loads in mode .L: where the address is aligned and the access is allowed, d takes the bytes of the
core's own scratchpad as path C sees them, zero- or sign-extended, within the rotation. -/
def Says.LocalLoads : Prop :=
  LoadsLocal .ldBu 1 false ∧ LoadsLocal .ldHu 2 false ∧ LoadsLocal .ldWu 4 false ∧ LoadsLocal .ldD 8 false ∧
  LoadsLocal .ldBs 1 true ∧ LoadsLocal .ldHs 2 true ∧ LoadsLocal .ldWs 4 true

/-- R4, R279, R281. The four scalar stores in mode .L and their frame: exactly the bytes at the computed address change. -/
def Says.LocalStores : Prop :=
  StoresLocal .stB 1 ∧ StoresLocal .stH 2 ∧ StoresLocal .stW 4 ∧ StoresLocal .stD 8

/-- R25, R279, R280. VLD and VST in mode .L, of 64 aligned bytes: of a load each enabled lane of 32 bits takes its word and every other lane
keeps its value; of a store exactly the words of the enabled lanes change. With no lane enabled the form accesses nothing and retires. -/
def Says.LocalVectors : Prop :=
  let ea (x : Fld) (v : Vals) : W64 := v.a + x.imm * 64
  (∀ (x : Fld) (s : State) (v : Vals) (s' : State), operands { d := .v, dDst := true, a := .g, lanes := true } x s = .run v s' → x.mode = 0 → (ea x v).toNat % 64 = 0 →
    v.lanes.toNat % 65536 ≠ 0 → LocalOk s' (ea x v) 64 true false → ∃ (t u : State) (n : Nat), exec (.vld x) s = .next t ∧ Looked 0 s' u ∧ OnlySlot u t ∧
      SeenOn s' 0 (scratchLoc (slotCore s.cur) (ea x v).toNat) 64 n ∧
      VWritten x.d.toNat (fun r => ∀ i, i < 16 → lane 32 i r =
          if v.lanes.getLsbD i then n / 2 ^ (32 * i) % 2 ^ 32 else lane 32 i ((s.slot s.cur).getV x.d.toNat))
        (nextPc x (s.slot s.cur)) (s'.slot s.cur) (t.slot s.cur)) ∧
  (∀ (x : Fld) (s : State) (v : Vals) (s' : State), operands { d := .v, dSrc := true, a := .g, lanes := true } x s = .run v s' → x.mode = 0 → (ea x v).toNat % 64 = 0 →
    v.lanes.toNat % 65536 ≠ 0 → LocalOk s' (ea x v) 64 false true → ∃ (t : State), exec (.vst x) s = .next t ∧
      (∀ i j, i < 16 → j < 4 → t.byte (scratchLoc (slotCore s.cur) (ea x v).toNat + 4 * i + j) =
        if v.lanes.getLsbD i then BitVec.ofNat 8 (lane 32 i v.vd / 2 ^ (8 * j))
        else s.byte (scratchLoc (slotCore s.cur) (ea x v).toNat + 4 * i + j)) ∧
      (∀ q, q < scratchLoc (slotCore s.cur) (ea x v).toNat ∨ scratchLoc (slotCore s.cur) (ea x v).toNat + 64 ≤ q → t.byte q = s.byte q) ∧
      t.slot s.cur = (s.slot s.cur).retire (nextPc x (s.slot s.cur)) ∧ (∀ j, j ≠ s.cur → t.slot j = s.slot j)) ∧
  Completes { d := .v, dDst := true, a := .g, lanes := true } .vld
    (fun x v _ => x.mode = 0 ∧ (ea x v).toNat % 64 = 0 ∧ (ea x v).toNat < 0x80000 ∧ v.lanes.toNat % 65536 = 0) (fun _ _ s => s) ∧
  Completes { d := .v, dSrc := true, a := .g, lanes := true } .vst
    (fun x v _ => x.mode = 0 ∧ (ea x v).toNat % 64 = 0 ∧ (ea x v).toNat < 0x80000 ∧ v.lanes.toNat % 65536 = 0) (fun _ _ s => s)

/-- R53, R58, R185, R278. The scalar loads and stores trap precisely: ALIGN on an address that is not a multiple of the size, before ADDR on
one outside the scratchpad in mode .L, each with the address, and PROT in mode .L where no region allows the access. -/
def Says.AccessTraps : Prop :=
  let ea (x : Fld) (v : Vals) (n : Nat) : W64 := v.a + x.imm * BitVec.ofNat 64 n
  ∀ f ∈ ([(uDA, .ldBu, 1, true), (uDA, .ldHu, 2, true), (uDA, .ldWu, 4, true), (uDA, .ldD, 8, true), (uDA, .ldBs, 1, true),
      (uDA, .ldHs, 2, true), (uDA, .ldWs, 4, true), (uSA, .stB, 1, false), (uSA, .stH, 2, false), (uSA, .stW, 4, false),
      (uSA, .stD, 8, false)] : List (Uses × (Fld → Instr) × Nat × Bool)),
    TrapsAt f.1 f.2.1 (fun x v _ => (ea x v f.2.2.1).toNat % f.2.2.1 ≠ 0) (fun x v _ => { cause := 0x03, addr := ea x v f.2.2.1 }) ∧
    TrapsAt f.1 f.2.1 (fun x v _ => x.mode = 0 ∧ (ea x v f.2.2.1).toNat % f.2.2.1 = 0 ∧ 0x80000 ≤ (ea x v f.2.2.1).toNat)
      (fun x v _ => { cause := 0x16, addr := ea x v f.2.2.1 }) ∧
    TrapsAt f.1 f.2.1 (fun x v s => x.mode = 0 ∧ (ea x v f.2.2.1).toNat % f.2.2.1 = 0 ∧ (ea x v f.2.2.1).toNat < 0x80000 ∧
        (∀ o ∈ (s.slot s.cur).outst, (scratchLoc (slotCore s.cur) (ea x v f.2.2.1).toNat / 64) ∉ o.lines) ∧
        (∀ o ∈ s.orphans, o.slot = s.cur → (scratchLoc (slotCore s.cur) (ea x v f.2.2.1).toNat / 64) ∉ o.entry.lines) ∧
        s.protAllows (slotCore s.cur) (ea x v f.2.2.1).toNat f.2.2.1 (localAccessor s) (!f.2.2.2) = false)
      (fun x v _ => { cause := 0x04, addr := ea x v f.2.2.1 })

/-- R43, R61. A load in mode .L of a guarded granule, scalar or VLD, returns zero to its destination (of a VLD to its enabled lanes), a store to
one is dropped: under GUARDMODE.FALLBACK OOBFLAG is set, and OOBADDR takes the address where OOBFLAG was 0; else the unit has a GUARD report
pending, for its next BAR. -/
def Says.GuardedAccess : Prop :=
  let ea (x : Fld) (v : Vals) (n : Nat) : W64 := v.a + x.imm * BitVec.ofNat 64 n
  let rep (s : State) (ea : W64) : State := s.tick.updSlot s.cur fun t => if t.guardmode.getLsbD 0 then
    { t with oobflag := 1, oobaddr := if t.oobflag = 0 then ea else t.oobaddr } else { t with guardPend := true }
  let hit (s : State) (ea : W64) (n : Nat) (wr : Bool) : Prop := ea.toNat < 0x80000 ∧ ea.toNat % n = 0 ∧ (s.slot s.cur).st ≠ .idle ∧
    (∀ o ∈ (s.slot s.cur).outst, (scratchLoc (slotCore s.cur) ea.toNat / 64) ∉ o.lines) ∧
    (∀ o ∈ s.orphans, o.slot = s.cur → (scratchLoc (slotCore s.cur) ea.toNat / 64) ∉ o.entry.lines) ∧
    s.protAllows (slotCore s.cur) ea.toNat n (localAccessor s) wr = true ∧ s.guarded (slotCore s.cur) ea.toNat = true
  (∀ f ∈ ([(.ldBu, 1), (.ldHu, 2), (.ldWu, 4), (.ldD, 8), (.ldBs, 1), (.ldHs, 2), (.ldWs, 4)] : List ((Fld → Instr) × Nat)),
    Completes uDA f.1 (fun x v s => x.mode = 0 ∧ hit s (ea x v f.2) f.2 false) (fun x v s => (rep s (ea x v f.2)).putG x.d.toNat 0)) ∧
  (∀ f ∈ ([(.stB, 1), (.stH, 2), (.stW, 4), (.stD, 8)] : List ((Fld → Instr) × Nat)),
    Completes uSA f.1 (fun x v s => x.mode = 0 ∧ hit s (ea x v f.2) f.2 true) (fun x v s => rep s (ea x v f.2))) ∧
  Completes { d := .v, dDst := true, a := .g, lanes := true } .vld
    (fun x v s => x.mode = 0 ∧ hit s (ea x v 64) 64 false ∧ v.lanes.toNat % 65536 ≠ 0)
    (fun x v s => (rep s (ea x v 64)).updSlot s.cur fun t =>
      t.setV x.d.toNat (mkV 32 16 fun i => if v.lanes.getLsbD i then 0 else lane 32 i (t.getV x.d.toNat))) ∧
  Completes { d := .v, dSrc := true, a := .g, lanes := true } .vst
    (fun x v s => x.mode = 0 ∧ hit s (ea x v 64) 64 true ∧ v.lanes.toNat % 65536 ≠ 0) (fun x v s => rep s (ea x v 64))

/-- R26, R173, R278, R279. The scalar loads and stores in the modes other than .L (an instruction store may be named in mode .X alone), the
nine atomics and CAS: the access leaves the core for its home with what it captured at issue, and d is EMPTY until it is answered. -/
def Says.RemoteScalars : Prop :=
  let far (x : Fld) : Prop := x.mode ≠ 0
  let any (_ : Fld) : Prop := True
  let ld (i : Fld → Instr) (size : Nat) (sgn : Bool) (opc : Nat) : Prop :=
    AccessesRemote uDA i far size (fun x => x.mode == 3) (fun x => [x.d.toNat])
      (accessOf (.ld size sgn) (fun x => x.mode) (fun x v => v.a + x.imm * BitVec.ofNat 64 size) (fun x => x.d.toNat) (fun _ => opc) id)
  let st (i : Fld → Instr) (size opc : Nat) : Prop :=
    AccessesRemote uSA i far size (fun x => x.mode == 3) (fun _ => [])
      (accessOf (.st size) (fun x => x.mode) (fun x v => v.a + x.imm * BitVec.ofNat 64 size) (fun _ => 0) (fun _ => opc) fun v => { v with b := v.d })
  let at_ (i : Fld → Instr) (o : AtomOp) (opc : Nat) : Prop :=
    AccessesRemote uDAB i any 8 (fun _ => false) (fun x => [x.d.toNat])
      (accessOf (.atom o) (fun x => if x.f then 3 else 1) (fun _ v => v.a) (fun x => x.d.toNat) (fun _ => opc) id)
  ld .ldBu 1 false 0x25 ∧ ld .ldHu 2 false 0x26 ∧ ld .ldWu 4 false 0x27 ∧ ld .ldD 8 false 0x28 ∧ ld .ldBs 1 true 0x29 ∧
  ld .ldHs 2 true 0x2A ∧ ld .ldWs 4 true 0x2B ∧ st .stB 1 0x2C ∧ st .stH 2 0x2D ∧ st .stW 4 0x2E ∧ st .stD 8 0x2F ∧
  at_ .aadd .add 0xC0 ∧ at_ .asmin .smin 0xC1 ∧ at_ .asmax .smax 0xC2 ∧ at_ .aumin .umin 0xC3 ∧ at_ .aumax .umax 0xC4 ∧
  at_ .aand .and 0xC5 ∧ at_ .aor .or 0xC6 ∧ at_ .axor .xor 0xC7 ∧ at_ .aswp .swp 0xC8 ∧
  AccessesRemote uDioAB .cas any 8 (fun _ => false) (fun x => [x.d.toNat])
    (accessOf .cas (fun x => if x.f then 3 else 1) (fun _ v => v.a) (fun x => x.d.toNat) (fun _ => 0xC9) id)

/-- R271, R274, R279, R280, R283. The vector accesses outside mode .L, the gather and scatter (whose lane addresses are aligned and good) and
VLDF: one request per piece leaves the core. -/
def Says.RemoteVectors : Prop :=
  let code (x : Fld) : Nat := 32 + x.d.toNat
  AccessesRemote { d := .v, dDst := true, a := .g, lanes := true } .vld (fun x => x.mode ≠ 0) 64 (fun _ => false) (fun x => [code x])
    (accessOf .vld (fun x => x.mode) (fun x v => v.a + x.imm * 64) code (fun _ => 0x30) id) ∧
  AccessesRemote { d := .v, dSrc := true, a := .g, lanes := true } .vst (fun x => x.mode ≠ 0) 64 (fun _ => false) (fun _ => [])
    (accessOf .vst (fun x => x.mode) (fun x v => v.a + x.imm * 64) (fun _ => 0) (fun _ => 0x31) id) ∧
  AccessesRemote { d := .v, dDst := true, a := .g, lanes := true } .vldf (fun x => x.mode = 1 ∨ x.mode = 3) 1 (fun _ => false) (fun x => [code x])
    (accessOf (.vldf false) (fun x => x.mode) (fun x v => v.a + x.imm * 16) code (fun _ => 0xA5) id) ∧
  (∀ (x : Fld) (s : State) (v : Vals) (s' : State), operands { d := .v, dDst := true, a := .g, b := .v, lanes := true } x s = .run v s' →
    let a := accessOf .gath (fun _ => 3) (fun _ v => v.a) code (fun _ => 0xA3) id x v s'
    (∀ p ∈ accPieces a, p.ea.toNat % 4 = 0 ∧ pieceOk s' a false p = true) → accPieces a ≠ [] → s'.entryFree s.cur true = true →
    ∃ (t : State), exec (.vgath x) s = .next t ∧ Sent x a [code x] s s' t) ∧
  (∀ (x : Fld) (s : State) (v : Vals) (s' : State), operands { d := .v, dSrc := true, a := .g, b := .v, lanes := true } x s = .run v s' →
    let a := accessOf .scat (fun _ => 3) (fun _ v => v.a) (fun _ => 0) (fun _ => 0xA4) id x v s'
    (∀ p ∈ accPieces a, p.ea.toNat % 4 = 0 ∧ pieceOk s' a false p = true) → accPieces a ≠ [] → s'.entryFree s.cur true = true →
    ∃ (t : State), exec (.vscat x) s = .next t ∧ Sent x a [] s s' t)

/-- The statements LocalLoads, LocalStores, LocalVectors together. -/
def Obligations.LocalAccesses : Prop :=
  Says.LocalLoads ∧ Says.LocalStores ∧ Says.LocalVectors

/-- The statements AccessTraps, GuardedAccess together. -/
def Obligations.AccessChecks : Prop :=
  Says.AccessTraps ∧ Says.GuardedAccess

/-- The statements RemoteScalars, RemoteVectors together. -/
def Obligations.RemoteAccesses : Prop :=
  Says.RemoteScalars ∧ Says.RemoteVectors

/-- R193, R281, R284, R285, R289, R290. An access performed at the core that is its home: a load is answered with the bytes there as path C sees them, a store
changes exactly its bytes and is acknowledged, an atomic stores the new value of its operation and is answered with the old one, CAS stores
only where the old value is the expected one, a release stores its word, an acquire is answered with its word where that is not zero or the
acquire does not block, and else waits at the home. -/
def Says.AtHomeCore : Prop :=
  ∀ (s : State) (a : Access) (core off : Nat), let loc := scratchLoc core off
    (∀ n sgn, a.op = .ld n sgn → AtCore s a n core off → ∃ (t : State), exec (.scratchpadAccess a 0) s = .next t ∧ t.mem = s.mem ∧
      ∃ w, SeenOn s 0 loc n w ∧ Sends s t a.part (valueFor a w)) ∧
    (∀ n, a.op = .st n → AtCore s a n core off → ∃ (t : State), exec (.scratchpadAccess a 0) s = .next t ∧ Stored s t loc (a.d0.toNat % 2 ^ (8 * n)) n ∧
      t.slots = s.slots ∧ Sends s t a.part (ackFor a)) ∧
    (∀ o, a.op = .atom o → AtCore s a 8 core off → ∃ (t : State), exec (.scratchpadAccess a 0) s = .next t ∧
      Stored s t loc (atomApply o (BitVec.ofNat 64 (s.read loc 8)) a.d0).toNat 8 ∧ t.slots = s.slots ∧
      Sends s t a.part (valueFor a (s.read loc 8))) ∧
    (a.op = .cas → AtCore s a 8 core off → ∃ (t : State), exec (.scratchpadAccess a 0) s = .next t ∧
      (s.read loc 8 = a.d1.toNat → Stored s t loc a.d0.toNat 8) ∧ (s.read loc 8 ≠ a.d1.toNat → t.mem = s.mem) ∧
      Sends s t a.part (valueFor a (s.read loc 8))) ∧
    (a.op = .rel → AtCore s a 8 core off → ∃ (t : State), exec (.scratchpadAccess a 0) s = .next t ∧ Stored s t loc a.d0.toNat 8 ∧
      Sends s t a.part (ackFor a)) ∧
    (a.op = .acq → AtCore s a 8 core off → ∃ (t : State), exec (.scratchpadAccess a 0) s = .next t ∧ t.mem = s.mem ∧
      (s.read loc 8 ≠ 0 ∨ a.nb = true → Sends s t a.part (valueFor a (s.read loc 8))) ∧
      (s.read loc 8 = 0 → a.nb = false → t.agenda = s.agenda ∧
        t.parked = s.parked ++ [{ slot := a.slot, gen := a.gen, tag := a.tag, loc := loc, acquire := true, want := 0 }])) ∧
    (∀ n, a.op = .st n → AtStore s a n core off → ∃ (t : State), exec (.scratchpadAccess a 0) s = .next t ∧
      Stored s t (istoreLoc core off) (a.d0.toNat % 2 ^ (8 * n)) n ∧ Sends s t a.part (ackFor a))

/-- R284. The nine atomics: what each leaves of an old value and an operand, in signed and unsigned terms. -/
def Obligations.AtomicValues : Prop :=
  ∀ (old b : W64), atomApply .add old b = old + b ∧
    (atomApply .smin old b).toInt = min old.toInt b.toInt ∧ (atomApply .smax old b).toInt = max old.toInt b.toInt ∧
    (atomApply .umin old b).toNat = min old.toNat b.toNat ∧ (atomApply .umax old b).toNat = max old.toNat b.toNat ∧
    atomApply .and old b = old &&& b ∧ atomApply .or old b = old ||| b ∧ atomApply .xor old b = old ^^^ b ∧ atomApply .swp old b = b

/-- R56, R58. At its home a refused access is performed in no part: where the segment table refuses it, or the core's regions do, the slot is
answered with the refusal and its address, and no byte of memory changes. -/
def Says.HomeRefuses : Prop :=
  ∀ (s : State) (a : Access) (core off : Nat) (p : Piece), accPieces a = [p] → heldFault s a 0 p = none →
    s.target (slotCore a.slot) a.part a.mode p.ea = some (.scratch core off) →
    let part := s.partAt a.part (clusterDev (coreCluster core))
    (∀ c, s.segment (coreCluster core) part (core % 128) false (opReads a.op) (opWrites a.op) = .refuse c →
      ∃ (t : State), exec (.scratchpadAccess a 0) s = .next t ∧ t.mem = s.mem ∧ Sends s t a.part { ins := .refusalArrival a.slot a.gen a.tag c p.ea }) ∧
    (s.segment (coreCluster core) part (core % 128) false (opReads a.op) (opWrites a.op) = .ok →
      (opReads a.op = true ∧ s.protAllows core off p.len { accAccessor a core with part := part } false = false) ∨
        (opWrites a.op = true ∧ s.protAllows core off p.len { accAccessor a core with part := part } true = false) →
      ∃ (t : State), exec (.scratchpadAccess a 0) s = .next t ∧ t.mem = s.mem ∧ Sends s t a.part { ins := .refusalArrival a.slot a.gen a.tag 0x04 p.ea })

/-- R62 to R66, R121, R193. A scalar access of eight bytes arrives at its home slice: where its page translates to a leaf entry (or has before the access stalled) that allows it, and no region
of a write set is in its way, it is performed at the frame's bytes and answered; where the page is not valid the slot is answered with the
fault of the page, and a page-table refusal with PERM. -/
def Obligations.AtHomeSlice : Prop :=
  ∀ (s s1 : State) (a : Access) (dev va : Nat) (e : Option W64),
    let p : Piece := { ea := a.ea, len := 8, pos := 0 }
    let s0 := if s.data = [] then (s.tick.deliverTag (homeNi s a p) a.tag).sliceBytes a.part 8 else s.tick
    (a.op = .ld 8 false ∨ a.op = .st 8) → heldFault s a 0 p = none → s.target (slotCore a.slot) a.part a.mode a.ea = some (.second dev va) →
    s0.translate dev (s0.partAt a.part dev) va (opWrites a.op) = (s1, e) →
    (∀ w, e = some w → pteCheck w (s0.partAt a.part dev) (opReads a.op) (opWrites a.op) = .ok → memberRegion s1 a = none →
      s1.lineEntries (pageSlice dev va) (s0.partAt a.part dev) (va / 64) = [] →
      ∃ (t : State), exec (.sliceAccess a 0) s = .next t ∧
        (a.op = .st 8 → Stored s1 t (pteLoc w dev va) a.d0.toNat 8 ∧ Sends s t a.part (ackFor a)) ∧
        (a.op = .ld 8 false → t.mem = s1.mem ∧ ∃ n, SeenOn s1 0 (pteLoc w dev va) 8 n ∧ Sends s t a.part (valueFor a n))) ∧
    (∀ w, e = some w → pteCheck w (s0.partAt a.part dev) (opReads a.op) (opWrites a.op) = .refuse 0x06 →
      ∃ (t : State), exec (.sliceAccess a 0) s = .next t ∧ t.mem = s1.mem ∧
        Sends s t a.part { ins := .refusalArrival a.slot a.gen a.tag 0x06 a.ea }) ∧
    (e = none → ∃ (t : State), exec (.sliceAccess a 0) s = .next t ∧ t.mem = s1.mem ∧
      Sends s t a.part { ins := .faultReply a.slot a.gen a.tag (faultPage dev va) })

/-- R26, R27, R279, R280. A fill for a unit that is resident: the destination takes the value (a load's extended, a vector's in its enabled
lanes) and is FULL, the entry is gone, and a group that kept its slot waiting for it retires. Where the destination is a port, the word goes
out on it and no register changes; without room on its link the answer waits (how a port takes an answer is the model's reading, log 113).
For a unit that is gone no slot changes, and GENDROP counts
it. -/
def Says.FillArrives : Prop :=
  ∀ (s : State) (slot : Nat) (gen : BitVec 32) (tag : Nat) (v : V512) (o : Outst), let t := s.slot slot
    let full := ∃ i, o.portOf = some i ∧ (s.port (slotCore slot) i).writable = true ∧ s.portRoom (s.port (slotCore slot) i) = false
    (Holds s slot gen tag o → full → exec (.fill slot gen tag v) s = .next { s with
      agenda := s.agenda ++ [{ ins := .fill slot gen tag v }] }) ∧
    (Holds s slot gen tag o → ¬full → ∃ (u : State), exec (.fill slot gen tag v) s = .next u ∧ u.mem = s.mem ∧ (∀ j, j ≠ slot → u.slot j = s.slot j) ∧
      (u.slot slot).outst = entriesWithout t tag ∧
      (∀ i, o.portOf = some i → (u.slot slot).g = t.g ∧ (u.slot slot).v = t.v ∧ (u.slot slot).k = t.k ∧ (u.slot slot).fe = t.fe ∧
        ((s.port (slotCore slot) i).writable = true →
          u = (sendWord (s.deliverTag (slotCore slot) tag) (slotCore slot) i (v.setWidth 64)).setSlot slot (u.slot slot))) ∧
      (∀ d, o.dests = [d] → d ≠ 0 → d < 24 → (u.slot slot).empty d = false ∧
        (o.acc = none → (u.slot slot).getG d = v.setWidth 64) ∧
        (∀ a, o.acc = some a → (u.slot slot).getG d = (extendLoad a.op v).setWidth 64) ∧ (∀ m, m ≠ d → (u.slot slot).getG m = t.getG m) ∧
        (u.slot slot).v = t.v ∧ (u.slot slot).k = t.k) ∧
      (∀ d, o.dests = [d] → 32 ≤ d → d < 64 → (u.slot slot).empty d = false ∧ (o.acc = none → (u.slot slot).getV (d - 32) = v) ∧
        (∀ a, o.acc = some a → LaneResult false a.lanes (t.getV (d - 32)) (fun i => lane 32 i v) ((u.slot slot).getV (d - 32))) ∧
        (u.slot slot).g = t.g ∧ (u.slot slot).k = t.k) ∧
      (o.dests = [] → (u.slot slot).g = t.g ∧ (u.slot slot).v = t.v ∧ (u.slot slot).k = t.k ∧ (u.slot slot).fe = t.fe) ∧
      (o.len ≠ 0 → t.st = .waiting (.answer tag) → (u.slot slot).st = .ready ∧
        (u.slot slot).pc = BitVec.ofNat 15 (t.pc.toNat + o.len) ∧ (u.slot slot).retired = t.retired + 1) ∧
      (o.len = 0 → (u.slot slot).st = t.st ∧ (u.slot slot).pc = t.pc ∧ (u.slot slot).retired = t.retired)) ∧
    (t.st = .idle ∨ t.gen ≠ gen → ∃ (u : State), exec (.fill slot gen tag v) s = .next u ∧ u.slots = s.slots ∧ u.mem = s.mem ∧
      (u.core (slotCore slot)).count.gendrop = (s.core (slotCore slot)).count.gendrop + 1)

/-- R279, R72, R185, R196. The other answers of a slot. An acknowledgement frees its entry. A refusal or a fault reply is noted in its entry
and stops the slot's issue (with no fault service configured a fault reply is a PAGE refusal at the address that faulted). A release that is
sent is no longer held, and its write goes to its home. Where a refusal decides, the slot's other entries are discarded, their destinations
FULL with what they held, and the group of the refused access traps with the refusal's cause and address. -/
def Says.OtherAnswers : Prop :=
  ∀ (s : State) (slot : Nat) (gen : BitVec 32) (tag : Nat) (o : Outst), let t := s.slot slot
    (Holds s slot gen tag o → o.len = 0 → ∃ (u : State), exec (.accessAcknowledge slot gen tag) s = .next u ∧
      u.slot slot = { t with outst := entriesWithout t o.tag } ∧ (∀ j, j ≠ slot → u.slot j = s.slot j) ∧ u.mem = s.mem) ∧
    (Holds s slot gen tag o → (∀ c, t.st ≠ .waiting c) → ∀ cause addr, ∃ (u : State), exec (.refusalArrival slot gen tag cause addr) s = .next u ∧
      (u.slot slot).stopped = true ∧ (u.slot slot).outst = t.outst.map (fun q : Outst =>
        if q.tag = tag then { q with reply := some (.refused cause addr) } else q) ∧
      (u.slot slot).g = t.g ∧ (u.slot slot).fe = t.fe ∧ (u.slot slot).pc = t.pc ∧ u.mem = s.mem) ∧
    (Holds s slot gen tag o → (∀ c, t.st ≠ .waiting c) → ∀ page, ∃ (u : State), exec (.faultReply slot gen tag page) s = .next u ∧
      (u.slot slot).stopped = true ∧ (u.slot slot).outst = (let r : Reply := if (s.part (s.partOf (slotCluster slot))).faultCore = none then .refused 0x05 (faultAddr s o) else .fault page
        t.outst.map fun q : Outst => if q.tag = tag then { q with reply := some r } else q) ∧ u.mem = s.mem) ∧
    (Holds s slot gen tag o → ∀ a, o.acc = some a → a.op = .rel → ∃ (u : State), exec (.releaseSend slot gen tag) s = .next u ∧
      (u.slot slot).outst = t.outst.map (fun q : Outst => if q.tag = tag then { q with held := false } else q) ∧
      Sends s u a.part (homeOp s a 0 { ea := a.ea, len := 8, pos := 0 }) ∧ u.mem = s.mem) ∧
    (s.cur = slot → t.deciding = some o → ∀ cause addr, o.reply = some (.refused cause addr) → t.trapvec ≠ 0 →
      t.trapcause.getLsbD 8 = false → ∃ (u : State), exec .refusalTrap s = .next u ∧ (u.slot slot).outst = [] ∧ (u.slot slot).stopped = false ∧
        (u.slot slot).pc = t.trapvec.setWidth 15 ∧ (u.slot slot).trappc = o.pc.setWidth 64 ∧
        (u.slot slot).trapcause = BitVec.ofNat 64 (256 + cause) ∧ (u.slot slot).trapaddr = addr ∧ (u.slot slot).g = t.g ∧
        (∀ q ∈ t.outst, ∀ d ∈ q.dests, (u.slot slot).empty d = false) ∧ (∀ j, j ≠ slot → u.slot j = s.slot j) ∧ u.mem = s.mem)

/-- The statements AtHomeCore, HomeRefuses together. -/
def Obligations.HomeCore : Prop :=
  Says.AtHomeCore ∧ Says.HomeRefuses

/-- The statements FillArrives, OtherAnswers together, which rest on choices of the model where they say so: log 113. -/
def Obligations.AnswersArrive : Prop :=
  Says.FillArrives ∧ Says.OtherAnswers

/-- R125, R127, R195, R196, R198, R288 to R291, R298, R299. The ordering forms, GUARD and the tag table. FENCE waits for every access of its
slot and then discards the fetch buffer for path I and, for the operations to come, the array's operand copies for path T (when an array that
still executes drops them is the model's reading, log 65), and what its thread sees on one of its two paths is seen on the other by the later
operations of that thread, and of one that has received something since (log 123), and by nobody else; an acquire leaves the core and its slot waits
for the word; a release retires with its write held, under the binding its object has then; BIND adds a range to an object of the core's table or, with length 0, removes it (units of two
launches that bind one object: log 114; a range counts lines of the global form);
GUARD sets or clears exactly its granules' bits; the tag-table forms look up, write, drop and configure. No form writes memory here. -/
def Obligations.OrderingForms : Prop :=
  (∀ (x : Fld) (s : State) (v : Vals) (s' : State), operands uNone x s = .run v s' →
    let names (p : Nat) : Prop := bits x.imm 9 7 = p ∨ bits x.imm 6 4 = p
    ((s.slot s.cur).outst = [] → ∃ (t : State), exec (.fence x) s = .next t ∧ OnlyRetires x s s' t ∧
      (names 4 → (t.core (slotCore s.cur)).fetchBuf = []) ∧
      (names 2 → (t.cluster (slotCluster s.cur)).arr = { (s'.cluster (slotCluster s.cur)).arr with
        fences := (s'.cluster (slotCluster s.cur)).arr.fences ++ [4 * (s'.ticket + 1)] }) ∧
      (∀ loc u, Sp.find s'.unseen loc = some u → ∃ u', Sp.find t.unseen loc = some u' ∧ u'.hides = u.hides ∧ u'.old = u.old ∧
        ∀ (v : Viewer) (p q : Nat), let served := v.slot = s.cur ∧ v.gen = (s.slot s.cur).gen ∧ 4 * (s'.ticket + 1) < v.tag ∨ 4 * (s'.ticket + 1) < v.heard
          (served → (p = bits x.imm 9 7 ∧ q = bits x.imm 6 4 ∨ p = bits x.imm 6 4 ∧ q = bits x.imm 9 7) →
            u.carried p { s'.viewer with tag := 4 * (s'.ticket + 1) } = true → u'.carried q v = true) ∧
          (u.carried p v = true → u'.carried p v = true) ∧ (¬served → u'.carried p v = u.carried p v))) ∧
    ((s.slot s.cur).outst ≠ [] → ∃ (t : State), exec (.fence x) s = .next t ∧ WaitsFor .settled s t)) ∧
  (∀ (x : Fld) (s : State) (v : Vals) (s' : State), operands uDA x s = .run v s' → v.a.toNat % 64 = 0 →
    let a := accessOf .acq (fun x => if x.f then 3 else 1) (fun _ v => v.a) (fun x => x.d.toNat) (fun _ => 0xD1) id x v s'
    (∀ p ∈ accPieces a, pieceOk s' a false p = true) → s'.entryFree s.cur false = true → ∃ (t : State), exec (.acq x) s = .next t ∧
      (t.slot s.cur).st = .waiting (.answer a.tag) ∧ (t.slot s.cur).pc = (s.slot s.cur).pc ∧
      (x.d ≠ 0 → (t.slot s.cur).empty x.d.toNat = true) ∧ (t.slot s.cur).g = (s.slot s.cur).g ∧
      (∃ h, Held s' a.part h ∧ t.agenda = s'.agenda ++ [{ homeOp s' a 0 { ea := a.ea, len := 8, pos := 0 } with inj := h }]) ∧
      t.mem = s.mem) ∧
  (∀ (x : Fld) (s : State) (v : Vals) (s' : State), operands uSA x s = .run v s' → v.a.toNat % 64 = 0 →
    let a := accessOf .rel (fun x => if x.f then 3 else 1) (fun _ v => v.a) (fun _ => 0) (fun _ => 0xD2) (fun v => { v with b := v.d }) x v s'
    (∀ p ∈ accPieces a, pieceOk s' a false p = true) → s'.entryFree s.cur false = true → ∃ (t : State), exec (.rel x) s = .next t ∧
      (∃ o ∈ (t.slot s.cur).outst, o.tag = a.tag ∧ o.held = true ∧ o.acc = some a ∧
        ∀ g, s'.target (slotCore s.cur) a.part a.mode v.a = some g → o.bind = some (bindingOf (s'.core (slotCore s.cur)) g.line)) ∧
      Answers t { ins := .releaseSend s.cur (s.slot s.cur).gen a.tag } ∧ t.mem = s.mem ∧ (t.slot s.cur).g = (s.slot s.cur).g ∧
      (t.slot s.cur).pc = BitVec.ofNat 15 (nextPc x (s.slot s.cur))) ∧
  (∀ (x : Fld) (s : State) (v : Vals) (s' : State), operands uSAB x s = .run v s' → v.d.toNat % 64 = 0 → v.a.toNat % 64 = 0 → v.b.toNat ≤ 2 ^ 24 →
    let k := slotCore s.cur; let m : BitVec 2 := if x.f then 3 else 1; let part := s'.partOf (slotCluster s.cur)
    ∀ o b, s'.target k part m v.d = some o → s'.target k part m v.a = some b → ∃ (t : State), exec (.bind x) s = .next t ∧ OnlyRetires x s s' t ∧
      (v.b = 0 → (t.core k).binds = (s'.core k).binds.filter fun q : Bind => q.obj != o.line) ∧
      (v.b ≠ 0 → (∀ q ∈ (s'.core k).binds, q.obj ≠ o.line) → ∃ q ∈ (t.core k).binds, q.obj = o.line ∧ q.level = (s.slot s.cur).level ∧
        (((s'.core k).binds.filter fun q : Bind => !q.ranges.isEmpty).length < 64 → q.ranges = [(globalLine b.line, v.b.toNat)] ∧ q.wide = false))) ∧
  (∀ (x : Fld) (s : State) (v : Vals) (s' : State), operands uAB x s = .run v s' → v.a.toNat % 64 = 0 → v.a.toNat + 64 * v.b.toNat ≤ 0x80000 → let k := slotCore s.cur
    (∀ i, i < v.b.toNat → s'.protAllows k ((v.a.toNat / 64 + i) * 64) 64 (s'.unitAccessor s.cur k) true = true) →
    ∃ (t : State), exec (.guard x) s = .next t ∧ OnlyRetires x s s' t ∧
      (∀ i, Sp.get false (t.core k).guards i =
        if v.a.toNat / 64 ≤ i ∧ i < v.a.toNat / 64 + v.b.toNat then x.f else Sp.get false (s'.core k).guards i)) ∧
  (∀ (x : Fld) (s : State) (v : Vals) (s' : State), operands { d := .g, dDst := true, dPair := true, a := .g } x s = .run v s' → x.d.toNat ≤ 22 → let k := slotCore s.cur
    ∃ (t : State), exec (.tglook x) s = .next t ∧ t.mem = s.mem ∧
      (x.d ≠ 0 → (t.slot s.cur).getG x.d.toNat = if (tagLookup (s'.core k) s.cur (v.a.toNat % 2 ^ 63)).isSome then 1 else 0) ∧
      (t.slot s.cur).getG (x.d.toNat + 1) = (tagLookup (s'.core k) s.cur (v.a.toNat % 2 ^ 63)).getD 0) ∧
  (∀ (x : Fld) (s : State) (v : Vals) (s' : State), operands uSA x s = .run v s' → let k := slotCore s.cur
    ∃ (t : State), exec (.tgset x) s = .next t ∧ OnlyRetires x s s' t ∧ tagLookup (t.core k) s.cur (v.a.toNat % 2 ^ 63) = some v.d) ∧
  (∀ (x : Fld) (s : State) (v : Vals) (s' : State), operands uA x s = .run v s' → let k := slotCore s.cur
    (∃ (t : State), exec (.tgclr x) s = .next t ∧ OnlyRetires x s s' t ∧
      (∀ i, tagFind (s'.core k) s.cur (v.a.toNat % 2 ^ 63) = some i → (t.core k).tags = Sp.erase (s'.core k).tags i) ∧
      (tagFind (s'.core k) s.cur (v.a.toNat % 2 ^ 63) = none → (t.core k).tags = (s'.core k).tags)) ∧
    (∃ (t : State), exec (.tgcfg x) s = .next t ∧ OnlyRetires x s s' t ∧ (t.core k).tagCfg = v.a &&& 7 ∧ (t.core k).tags = []))

/-- R118, R119, R366 to R370. The region forms. ARNEW makes the lowest FREE record of its cluster OPEN and is answered with its handle, or with
all ones where none is free; AREN, with nothing outstanding and no membership, asks the coordinator for membership; ARCOM of a unit that is
no member gives 2, a member's first with no entry sends its vote, and waits for the outcome, or, where it does not block, for the vote's answer, with d EMPTY; ARABT of a member asks the coordinator to abort, of another unit does
nothing; ARINFO is answered with the word it names of the record. That AREN of a member answers 3 before its handle is looked at is the model's
choice (log 120). -/
def Says.RegionForms : Prop :=
  (∀ (x : Fld) (s : State) (v : Vals) (s' : State), operands uDAB x s = .run v s' → v.a ≠ 0 → v.a.toNat ≤ 64 → v.b.toNat < 2 ^ 32 → let c := slotCluster s.cur
    ∃ (t : State) (tag : Nat), exec (.arnew x) s = .next t ∧ Asked x [x.d.toNat] false tag s' t ∧
      (freeRegion s' c = none → Sends s' t (s'.partOf c) (answerOp s tag (BitVec.ofNat 512 (2 ^ 64 - 1)))) ∧
      (∀ i, freeRegion s' c = some i → Sends s' t (s'.partOf c) (answerOp s tag
          ((regionHandle s' c i (Sp.get ({} : Region) (s'.cluster c).regions i).gen).setWidth 512)) ∧
        (Sp.get ({} : Region) (t.cluster c).regions i).st = 1 ∧ (Sp.get ({} : Region) (t.cluster c).regions i).m = v.a.toNat ∧
        (Sp.get ({} : Region) (t.cluster c).regions i).members = [] ∧ (Sp.get ({} : Region) (t.cluster c).regions i).votes = 0)) ∧
  (∀ (x : Fld) (s : State) (v : Vals) (s' : State) (c i : Nat) (r : Region), operands uDA x s = .run v s' → (s.slot s.cur).outst = [] → (s.slot s.cur).region = none →
    regionOf s' (s'.partOf (slotCluster s.cur)) v.a = some (c, i, r) → ∃ (t : State) (tag : Nat), exec (.aren x) s = .next t ∧
      Asked x [x.d.toNat] false tag s' t ∧ Sends s' t (s'.partOf (slotCluster s.cur)) (opD (c * 1024 + i) [v.a, BitVec.ofNat 64 s.cur, (s.slot s.cur).gen.setWidth 64, BitVec.ofNat 64 tag,
                 BitVec.ofNat 64 (s'.partOf (slotCluster s.cur))] .regionMemberJoin)) ∧
  Completes uDA .aren (fun _ _ s => (s.slot s.cur).outst = [] ∧ (s.slot s.cur).region.isSome = true) (fun x _ s => s.putG x.d.toNat 3) ∧
  Completes uD .arcom (fun _ _ s => (s.slot s.cur).region = none) (fun x _ s => s.putG x.d.toNat 2) ∧
  (∀ (x : Fld) (s : State) (v : Vals) (s' : State) (h : W64) (c i : Nat) (r : Region), operands uD x s = .run v s' → (s.slot s.cur).region = some h → (s.slot s.cur).voted = false →
    (s.slot s.cur).outst = [] → regionOf s' (s'.partOf (slotCluster s.cur)) h = some (c, i, r) → (∀ m ∈ r.members, m.slices = []) →
    let votes (t : State) (tag : Nat) (nb : W64) : Prop := (t.slot s.cur).voted = true ∧ (t.slot s.cur).pc = (s.slot s.cur).pc ∧
      (x.d ≠ 0 → (t.slot s.cur).empty x.d.toNat = true) ∧ t.mem = s.mem ∧ Sends s' t (s'.partOf (slotCluster s.cur))
        (opD (c * 1024 + i) [h, BitVec.ofNat 64 s.cur, (s.slot s.cur).gen.setWidth 64, BitVec.ofNat 64 tag, nb] .regionVote)
    ((s.slot s.cur).waitMode ≠ 2 → ∃ (t : State) (tag : Nat), exec (.arcom x) s = .next t ∧ (t.slot s.cur).st = .suspended .arcom ∧ votes t tag 0) ∧
    ((s.slot s.cur).waitMode = 2 → ∃ (t : State) (tag : Nat), exec (.arcom x) s = .next t ∧ (t.slot s.cur).st = .waiting (.answer tag) ∧
      votes t tag 1)) ∧
  Completes uNone .arabt (fun _ _ s => (s.slot s.cur).region = none) (fun _ _ s => s) ∧
  (∀ (x : Fld) (s : State) (v : Vals) (s' : State) (h : W64) (c i : Nat) (r : Region), operands uNone x s = .run v s' → (s.slot s.cur).region = some h →
    regionOf s' (s'.partOf (slotCluster s.cur)) h = some (c, i, r) → ∃ (t : State) (tag : Nat), exec (.arabt x) s = .next t ∧ Asked x [] false tag s' t ∧
      ∃ n, Sends s' t (s'.partOf (slotCluster s.cur))
        (opD (c * 1024 + i) [3, h, BitVec.ofNat 64 s.cur, (s.slot s.cur).gen.setWidth 64, BitVec.ofNat 64 tag, n] .regionAbortRequest)) ∧
  (∀ (x : Fld) (s : State) (v : Vals) (s' : State) (c i : Nat) (r : Region), operands uDAB x s = .run v s' → v.b.toNat ≤ 2 → regionOf s' (s'.partOf (slotCluster s.cur)) v.a = some (c, i, r) →
    ∃ (t : State) (tag : Nat), exec (.arinfo x) s = .next t ∧ Asked x [x.d.toNat] false tag s' t ∧ Sends s' t (s'.partOf (slotCluster s.cur)) (answerOp s tag
      ((if v.b = 0 then BitVec.ofNat 64 (r.st + r.cause * 8 + r.votes * 2 ^ 9 + r.members.length * 2 ^ 16 + r.m * 2 ^ 23 + r.gen.toNat * 2 ^ 32)
        else if v.b = 1 then BitVec.ofNat 64 (r.slices.length + r.deadline.toNat * 2 ^ 32) else r.level : W64).setWidth 512)))

/-- R123, R124. What a coordinator does with the messages it receives for an OPEN region: a join below M adds the member and is answered 0; a
vote of a member that has not voted counts, and the M-th commits, at once where no slice takes part, else by INSTALL to every slice; an
abort request (whose unit has the abort pending before it is answered), a deadline and a member's kill discard at every slice and leave the region ABORTING, or ABORTED where no slice takes part.
A slice that installs writes every MASK byte of the region's write entries and forgets the region; one that discards forgets it; each
acknowledges, and the last acknowledgement commits or aborts the region. A vote under an ARCOM that does not block is answered −1. -/
def Says.RegionMessages : Prop :=
  let rec_ (s : State) (place : Nat) : Region := Sp.get {} (s.cluster (place / 1024)).regions (place % 1024)
  (∀ (s : State) (h slot gen tag part : W64) (c i : Nat) (r : Region), s.data = [h, slot, gen, tag, part] → regionOf s part.toNat h = some (c, i, r) → r.st = 1 → i < 1024 →
    r.members.length < r.m → ∃ (t : State), exec .regionMemberJoin s = .next t ∧ (rec_ t (c * 1024 + i)).members =
      r.members ++ [{ slot := slot.toNat, gen := gen.setWidth 32, voted := false, told := false, slices := [] }] ∧
      Sends s t part.toNat { ins := .fill slot.toNat (gen.setWidth 32) tag.toNat 0 } ∧
      ((s.slot slot.toNat).gen = gen.setWidth 32 → (t.slot slot.toNat).region = some h)) ∧
  (∀ (s : State) (gen slot sgen tag nb : W64) (m : RegMember), s.data = [gen, slot, sgen, tag, nb] → let r := rec_ s s.cur
    r.gen.toNat = bits gen 31 0 → r.st = 1 → m ∈ r.members → m.slot = slot.toNat → m.gen = sgen.setWidth 32 → m.voted = false →
    ∃ (t : State), exec .regionVote s = .next t ∧
      (r.votes + 1 < r.m → (rec_ t s.cur).st = 1 ∧ (rec_ t s.cur).votes = r.votes + 1 ∧ (nb = 0 → t.agenda = s.agenda) ∧
        (nb ≠ 0 → Sends s t (s.partOf (s.cur / 1024)) { ins := .fill slot.toNat (sgen.setWidth 32) tag.toNat (BitVec.ofNat 512 (2 ^ 64 - 1)) })) ∧
      (r.m ≤ r.votes + 1 → r.slices ≠ [] → (rec_ t s.cur).st = 2 ∧ (rec_ t s.cur).acks = r.slices ∧
        (nb = 0 → SendsAll s t r.part (r.slices.map (sliceOp s s.cur r .regionInstall))))) ∧
  (∀ (s : State) (cause gen slot sgen tag n : W64), s.data = [cause, gen, slot, sgen, tag, n] → tag.toNat < 4 → let r := rec_ s s.cur
    r.gen.toNat = bits gen 31 0 → r.st = 1 → r.slices ≠ [] → ∃ (t : State), exec .regionAbortRequest s = .next t ∧ (rec_ t s.cur).st = 3 ∧
      (rec_ t s.cur).cause = cause.toNat ∧ (rec_ t s.cur).acks = r.slices ∧
      ∃ hs : List (Option (Nat × Nat × Option Bool)), hs.length = r.slices.length ∧ (∀ i ∈ hs, Held s r.part i) ∧ t.agenda = s.agenda ++
        ((r.slices.map (sliceOp s s.cur r .regionDiscard)).zip hs).map (fun q => { q.1 with inj := q.2 }) ++
        r.members.map (fun m => { ins := .asyncCauseDelivery m.slot m.gen 1 })) ∧
  (∀ (s : State) (cause gen slot sgen tag n : W64) (m : RegMember), s.data = [cause, gen, slot, sgen, tag, n] → 4 ≤ tag.toNat → let r := rec_ s s.cur
    r.gen.toNat = bits gen 31 0 → r.st = 1 → m ∈ r.members → m.slot = slot.toNat → m.gen = sgen.setWidth 32 →
    (s.slot slot.toNat).st ≠ .idle → (s.slot slot.toNat).gen = sgen.setWidth 32 → ∃ (t : State), exec .regionAbortRequest s = .next t ∧
      (t.slot slot.toNat).arAbort = true ∧ Sends s t (s.partOf (s.cur / 1024)) { ins := .fill slot.toNat (sgen.setWidth 32) tag.toNat 0 }) ∧
  (∀ (s : State) (gen : W64), s.data = [gen] → let r := rec_ s s.cur
    r.gen.toNat = bits gen 31 0 → r.st = 1 → r.slices ≠ [] → ∃ (t : State), exec .regionDeadline s = .next t ∧ (rec_ t s.cur).st = 3 ∧
      (rec_ t s.cur).cause = 5) ∧
  (∀ (s : State) (part : Nat) (h : W64) (slot : Nat) (gen : BitVec 32) (c i : Nat) (r : Region), regionOf s part h = some (c, i, r) → i < 1024 → r.st = 1 → r.slices ≠ [] →
    ∃ (t : State), exec (.regionMemberKilled part h slot gen) s = .next t ∧ (rec_ t (c * 1024 + i)).st = 3 ∧ (rec_ t (c * 1024 + i)).cause = 4) ∧
  (∀ (s : State) (home h place tag : W64), s.data = [home, h, place, tag] → ∃ (t : State), exec .regionInstall s = .next t ∧
    (∀ e ∈ (t.slice s.cur).ws, ¬(e.home = home.toNat ∧ e.region = h)) ∧ (t.slice s.cur).stalled = [] ∧
    Sends s t home.toNat (opD (place.toNat) [h, BitVec.ofNat 64 s.cur, tag] .regionInstallAck) ∧
    (∀ e i, (s.slice s.cur).ws = [e] → e.home = home.toNat → e.region = h → e.w = true → i < 64 → t.byte (e.loc + i) =
      if e.mask.getLsbD i then BitVec.ofNat 8 (e.data.toNat / 2 ^ (8 * i)) else s.byte (e.loc + i))) ∧
  (∀ (s : State) (home h place tag : W64), s.data = [home, h, place, tag] → ∃ (t : State), exec .regionDiscard s = .next t ∧
    (∀ e ∈ (t.slice s.cur).ws, ¬(e.home = home.toNat ∧ e.region = h)) ∧ t.mem = s.mem ∧
    Sends s t home.toNat (opD (place.toNat) [h, BitVec.ofNat 64 s.cur, tag] .regionDiscardAck)) ∧
  (∀ (s : State) (gen sl tag : W64), s.data = [gen, sl, tag] → let r := rec_ s s.cur
    r.gen.toNat = bits gen 31 0 → (∀ m ∈ r.members, m.told = false) → r.members ≠ [] →
    (r.st = 3 → (∀ q ∈ r.acks, q = sl.toNat) → ∃ (t : State), exec .regionDiscardAck s = .next t ∧ (rec_ t s.cur).st = 5) ∧
    (r.st = 2 → (∃ q ∈ r.acks, q ≠ sl.toNat) → ∃ (t : State), exec .regionInstallAck s = .next t ∧ (rec_ t s.cur).st = 2 ∧
      (rec_ t s.cur).acks = r.acks.filter (· != sl.toNat)) ∧
    (r.st = 2 → (∀ q ∈ r.acks, q = sl.toNat) → (∀ m ∈ r.members, (s.slot m.slot).st ≠ .suspended .arcom) →
      ∃ (t : State), exec .regionInstallAck s = .next t ∧ (rec_ t s.cur).st = 4)) ∧
  (∀ (s : State) (home h slot gen key tag nb : W64) (m : Assembly) (c i : Nat) (r : Region), s.data = [home, h, slot, gen, key, tag, nb] → Sp.find s.assembly key.toNat = some m →
    regionOf s home.toNat h = some (c, i, r) → ∃ (t : State), exec .prepare s = .next t ∧ (home.toNat, h) ∈ (t.slice s.cur).prepared ∧
      (∀ e ∈ (t.slice s.cur).ws, e.home = home.toNat → e.region = h → e.w = true → e.prep = true) ∧
      (m.left ≤ 1 → Sends s t home.toNat (opD (c * 1024 + i) [h, slot, gen, tag, nb] .regionVote)) ∧ (1 < m.left → t.agenda = s.agenda))

/-- The statements RegionForms, RegionMessages together, which rest on choices of the model where they say so: log 120. -/
def Obligations.RegionRules : Prop :=
  Says.RegionForms ∧ Says.RegionMessages

/-- R327 to R333. SEND and SENDM of places the unit may name, to a PC inside the store: the group retires with one outstanding entry, and for
each place in order an increment of the unit's level and a message with both data words are on their way. POPEN binds a closed port,
PLISTEN lets one listen, PCLOSE closes a port in every state (an open one sends its closing marker); PSTAT reads a port's state, words
and retries. -/
def Obligations.MessageForms : Prop :=
  let u : Uses := { d := .g, dSrc := true, dPair := true, a := .g, b := .g }
  let sends (x : Fld) (v : Vals) (s s' : State) (places : List W64) (t : State) : Prop := Posted x false none s s' t ∧
    ∃ ms : List Msg, ms.map Msg.place = places ∧
      t.agenda = s'.agenda ++ ms.flatMap (fun m => [{ ins := .levelUpdate (messageIncrement m) }, { ins := .messageInjection m }]) ∧
      (∀ m ∈ ms, m.body.args = [v.d, v.d1] ∧ m.body.pc = v.b.setWidth 15 ∧ m.body.level = (s.slot s.cur).level ∧
        m.body.corr = (s.slot s.cur).corr ∧ m.body.pool = (s.slot s.cur).pool ∧ m.body.phase = (s.slot s.cur).phase ∧ m.gen = 0 ∧
        m.isTask = false ∧ m.tag = s'.plainTag ∧ m.slot = s.cur ∧ m.sgen = (s.slot s.cur).gen)
  (∀ (x : Fld) (s : State) (v : Vals) (s' : State), operands u x s = .run v s' → bits v.a 35 0 = 0 → v.b.toNat < 0x4000 → s'.entryFree s.cur false = true →
    ∃ (t : State), exec (.send x) s = .next t ∧ sends x v s s' [v.a] t) ∧
  (∀ (x : Fld) (s : State) (v : Vals) (s' : State), operands u x s = .run v s' → v.a.toNat < 256 → v.b.toNat < 0x4000 → s'.entryFree s.cur false = true →
    let places := Sp.get [] (s'.part (s'.partOf (slotCluster s.cur))).groups v.a.toNat
    places ≠ [] → ∃ (t : State), exec (.sendm x) s = .next t ∧ sends x v s s' places t) ∧
  TrapsAt u .send (fun _ v _ => bits v.a 35 0 ≠ 0) (fun _ v _ => { cause := 0x16, addr := v.a }) ∧
  (∀ (x : Fld) (s : State) (v : Vals) (s' : State), operands uAB x s = .run v s' → bits v.a 39 0 = 0 → v.b.toNat < 128 → v.b.getLsbD 3 = false →
    let k := slotCore s.cur; let i := v.b.toNat % 8
    (s'.port k i).st = .closed → s'.entryFree s.cur false = true → ∃ (t : State), exec (.popen x) s = .next t ∧ Posted x false none s s' t ∧
      (t.port k i).st = .bound ∧ (t.port k i).place = v.a ∧ (t.port k i).tgtPort = bits v.b 6 4 ∧ (t.port k i).owner = s.cur ∧
      (t.port k i).gen = (s.slot s.cur).gen ∧ Answers t (ackFor { newAccess s' x .rel 0 0 0 0 v with tag := s'.plainTag })) ∧
  (∀ (x : Fld) (s : State) (v : Vals) (s' : State), operands uA x s = .run v s' → v.a.toNat < 8 → let k := slotCore s.cur; let i := v.a.toNat; let p := s'.port k i
    (p.st = .closed → ∃ (t : State), exec (.plisten x) s = .next t ∧ OnlyRetires x s s' t ∧ (t.port k i).st = .listen ∧ (t.port k i).owner = s.cur) ∧
    (p.st ≠ .closed → exec (.plisten x) s = .next (trapEntry s s.cur (s.slot s.cur).pc
      { cause := 0x11, addr := 0, info := BitVec.ofNat 64 (i + p.st.code * 16 + 256) })) ∧
    ((p.st = .opened → p.refused = 0 → s'.portRoom p = true) → ∃ (t : State), exec (.pclose x) s = .next t ∧ OnlyRetires x s s' t ∧
      (t.port k i).st = .closed ∧ (p.st = .opened → Answers t (markerOp p)) ∧ (p.st ≠ .opened → t.agenda = s'.agenda))) ∧
  Completes uDA .pstat (fun _ v _ => v.a.toNat < 8) (fun x v s => let p := s.port (slotCore s.cur) v.a.toNat
    s.putG x.d.toNat (BitVec.ofNat 64 (p.st.code + (if p.buf.contains none then 8 else 0) + (p.buf.filter Option.isSome).length * 16 +
      (s.core (slotCore s.cur)).count.portretry.toNat * 2 ^ 32)))

/-- R79, R81, R328, R403, R412, R416, R457. What happens to a message: its injection, once its increment is acknowledged, sends it to the core
its place names (or holds it at its NI where the partition's budget is spent), or refuses it ADDR and takes the increment back. On arrival
it is refused ADDR where no partner entry maps its partition or no link of its sender's router reaches the device, PROT where its partition is
not the cluster's owner, and else ADDR where the owner is being reset, and its increment is taken back. Its arrival at a bound class with room writes its entry at the ring's tail, the
header with its generation first, and acknowledges it (the ring lies inside the scratchpad, as R79 has it, in no guarded granule); without room it is retried, and at a class that is not bound it is dropped,
counted and acknowledged. -/
def Says.MessageEvents : Prop :=
  let owner (s : State) (m : Msg) : Nat := s.partOf (coreCluster m.dst)
  let mapped (s : State) (m : Msg) : Nat := s.mapPart m.part (clusterDev (coreCluster m.dst))
  let comes (s : State) (m : Msg) : Prop := mapped s m ≠ noPart ∧ senderReaches s m (clusterDev (coreCluster m.dst)) = true
  let admitted (s : State) (m : Msg) : Prop := comes s m ∧ mapped s m = owner s m ∧ (s.part (owner s m)).resetting = false
  let taken (s : State) (m : Msg) : State := s.updCore m.dst fun c => { c with arrived := (s.now + 1, arrivalRank s m) }
  (∀ (s : State) (m : Msg) (core cls : Nat), s.placeOf m.part m.place = some (core, cls) → senderReaches s m (bits m.place 63 54) = true → s.injSpent m.part = true →
    exec (.messageInjection m) s = .next { s with agenda := s.agenda ++ [
      { ins := .messageArrival { m with dst := core, cls := cls }, inj := some (m.src, m.part, some m.body.phase) }] }) ∧
  (∀ (s : State) (m : Msg) (c : Nat), (¬comes s m ∧ c = 0x16) ∨ (comes s m ∧ mapped s m ≠ owner s m ∧ c = 0x04) ∨
      (comes s m ∧ mapped s m = owner s m ∧ (s.part (owner s m)).resetting = true ∧ c = 0x16) →
    m.gen = 0 → m.tag ≠ 0 → Sp.find s.assembly m.tag = none → ∃ (t : State), exec (.messageArrival m) s = .next t ∧ t.mem = s.mem ∧
      t.cores = s.cores ∧ t.slots = s.slots ∧ t.agenda = s.agenda ++ [
        { ins := .refusalArrival m.slot m.sgen m.tag c m.place }, endedOp m.body.home m.body.level 0]) ∧
  (∀ (s : State) (m : Msg) (core cls : Nat), s.placeOf m.part m.place = some (core, cls) → senderReaches s m (bits m.place 63 54) = true → s.injSpent m.part = false → ∃ (t : State), exec (.messageInjection m) s = .next t ∧
    Answers t { ins := .messageArrival { m with dst := core, cls := cls } } ∧ t.mem = s.mem ∧ t.slots = s.slots ∧
    (m.body.phase = false → (t.ni m.src).sent0 = (s.ni m.src).sent0 + 1) ∧ (m.body.phase = true → (t.ni m.src).sent1 = (s.ni m.src).sent1 + 1)) ∧
  (∀ (s : State) (m : Msg), s.placeOf m.part m.place = none ∨ senderReaches s m (bits m.place 63 54) = false → m.tag ≠ 0 → Sp.find s.assembly m.tag = none →
    ∃ (t : State), exec (.messageInjection m) s = .next t ∧
      t.agenda = s.agenda ++ [{ ins := .refusalArrival m.slot m.sgen m.tag 0x16 m.place }, endedOp m.body.home m.body.level 0] ∧ t.mem = s.mem) ∧
  (∀ (s : State) (m : Msg) (at0 : Nat), let c := s.core m.dst; let w := c.cls m.cls
    admitted s m → clsOn w = true → m.isTask = false → m.tag ≠ 0 → Sp.find s.assembly m.tag = none → c.ringFit m.cls 4 = some (0, at0) → clsBase w + 8 * (at0 + 4) ≤ 0x80000 →
    (∀ j, j < 4 → s.guarded m.dst (ringOff w (at0 + j)) = false) →
    s.niAllows m.dst m.body.level ((List.range 4).map (fun j => clsBase w + 8 * (at0 + j))) = true →
    ∃ (t : State), exec (.messageArrival m) s = .next t ∧ (t.core m.dst).tail m.cls = (at0 + 4) % clsSize w ∧
      (t.core m.dst).head m.cls = c.head m.cls ∧ t.slots = s.slots ∧
      (∀ j, j < 4 → t.read (scratchLoc m.dst (ringOff w (at0 + j))) 8 = ([ringHeader m.gen m.body.phase 4 2, m.body.pc.setWidth 64,
        m.body.args.getD 0 0, m.body.args.getD 1 0].getD j (0 : W64)).toNat) ∧
      ({ ins := .accessAcknowledge m.slot m.sgen m.tag } : Op) ∈ t.agenda) ∧
  (∀ (s : State) (m : Msg), let c := s.core m.dst
    admitted s m → clsOn (c.cls m.cls) = true → m.isTask = false → c.ringFit m.cls 4 = none → ∃ (t : State), exec (.messageArrival m) s = .next t ∧
      t = (taken s m).postAt (s.now + Nat.min 4096 (64 * 2 ^ Nat.min m.tries 6)) (.messageRetry { m with tries := m.tries + 1 })) ∧
  (∀ (s : State) (m : Msg), admitted s m → clsOn ((s.core m.dst).cls m.cls) = false → m.isTask = false → m.gen = 0 → m.tag ≠ 0 → Sp.find s.assembly m.tag = none →
    ∃ (t : State), exec (.messageArrival m) s = .next t ∧ (t.core m.dst).count.classdrop = (s.core m.dst).count.classdrop + 1 ∧ t.mem = s.mem ∧
      t.slots = s.slots ∧ t.agenda = s.agenda ++ [{ ins := .accessAcknowledge m.slot m.sgen m.tag }, endedOp m.body.home m.body.level 0]) ∧
  (∀ (s : State) (m : Msg), m.src < 2 ^ 24 → ∃ (t : State), exec (.messageRetry m) s = .next t ∧ Answers t { ins := .messageArrival m } ∧
    (t.core m.src).count.retry = (s.core m.src).count.retry + 1 ∧ t.mem = s.mem ∧ t.slots = s.slots)

/-- R83, R84, R140, R330. A route: its head takes a channel of the next link toward its target, waits and counts a retry where none is free,
and at the target is acquired by a listening port that has no sender; a word enters the receiving port behind the others; a closing marker
frees the route's channels, stands behind the words, and delivers the route as one message. -/
def Says.StreamEvents : Prop :=
  (∀ (s : State), let core := s.cur / 8; let i := s.cur % 8; let p := s.port core i
    p.st = .bound → p.acq = 1 → s.linkFrom (coreCluster core) (bits p.place 63 54) = true → ∀ tgt cls, s.placeOf (s.partOf (coreCluster core)) p.place = some (tgt, cls) →
    let at0 := (p.hops.getLast?.map fun h => linkEnd (h / 8) (h % 8) (coreCluster tgt)).getD (coreCluster core)
    (∀ r port, nextLink s at0 (coreCluster tgt) = some (r, port) → s.channelFree r port = true → ∃ (t : State), exec .routeHop s = .next t ∧
      (t.port core i).hops = p.hops ++ [r * 8 + port] ∧ (t.port core i).acq = 1 ∧ (t.port core i).tgtCore = tgt ∧
      Sp.get 0 (t.router r).streams port = Sp.get 0 (s.router r).streams port + 1 ∧ Answers t { who := s.cur, ins := .routeHop }) ∧
    (∀ r port, nextLink s at0 (coreCluster tgt) = some (r, port) → s.channelFree r port = false → ∃ (t : State), exec .routeHop s = .next t ∧
      t.port core i = p ∧ (t.core core).count.portretry = (s.core core).count.portretry + 1 ∧ Answers t { who := s.cur, ins := .routeHop }) ∧
    (at0 = coreCluster tgt → (s.port tgt p.tgtPort).st = .listen → (s.port tgt p.tgtPort).srcPort = 0 →
      ∃ (t : State), exec .routeHop s = .next t ∧ (t.port core i).acq = 2 ∧ (t.port core i).tgtCore = tgt ∧ (t.port tgt p.tgtPort).srcCore = core ∧
        (t.port tgt p.tgtPort).srcPort = i + 1 ∧ t.agenda = s.agenda)) ∧
  (∀ (s : State) (core port src sp : Nat) (v : W64), let q := s.port core port; (src, sp) ≠ (core, port) → q.receives s.cur = true →
    ∃ (t : State), exec (.streamWordArrival core port src sp v) s = .next t ∧ (t.port core port).st = .recv ∧
      (t.port core port).buf = q.buf ++ [some v] ∧ (t.port core port).wrote = q.wrote + 1 ∧ t.mem = s.mem ∧ t.slots = s.slots ∧
      ((s.port src sp).route = s.cur → (t.port src sp).flying = (s.port src sp).flying - 1)) ∧
  (∀ (s : State) (core port phase : W64) (r p : Nat), let q := s.port core.toNat port.toNat
    s.data = [core, port, phase, BitVec.ofNat 64 (r * 8 + p)] → p < 8 → r < 2 ^ 32 → q.receives s.cur = true →
    ∃ (t : State), exec .closingMarkerArrival s = .next t ∧ (t.port core.toNat port.toNat).buf = q.buf ++ [none] ∧
      (t.port core.toNat port.toNat).st = .recv ∧ Sp.get 0 (t.router r).streams p = Sp.get 0 (s.router r).streams p - 1 ∧
      (phase = 0 → (t.ni core.toNat).recv0 = (s.ni core.toNat).recv0 + 1) ∧ (phase = 1 → (t.ni core.toNat).recv1 = (s.ni core.toNat).recv1 + 1))

/-- The statements MessageEvents, StreamEvents together. -/
def Obligations.DeliveryEvents : Prop :=
  Says.MessageEvents ∧ Says.StreamEvents

/-- R301 to R311, R315 to R318. The forms that give a term array commands: a form of a unit that holds no lease traps LEASE with 1; of the
holder, where the form's own checks pass, the command stands at the end of the queue with the image as it is then, and the group retires.
MXCFG and MXUNF read their block from the core's scratchpad; MXLDB replaces the B source; MXRUN counts toward the lease's runs; MXFREE
ends the holder's right. MXSTOP stops a run in progress or is kept for the next; MXRESUME lets a stopped run go on. -/
def Obligations.ArrayCommands : Prop :=
  (∀ p ∈ ([(uNone, Instr.mxfree), (uA, .mxcfg), (uA, .mxunf), (uAB, .mxldb), (uNone, .mxzero), (uAB, .mxrun), (uAB, .mxrd), (uAB, .mxrdx),
      (uNone, .mxstop), (uNone, .mxresume)] : List (Uses × (Fld → Instr))),
    TrapsAt p.1 p.2 (fun _ _ s => (s.arr (slotCluster s.cur)).isHolder s.cur (s.slot s.cur).gen = false)
      (fun _ _ _ => { cause := 0x12, addr := 0, info := 1 })) ∧
  (∀ (x : Fld) (s : State) (v : Vals) (s' : State), operands uNone x s = .run v s' → Leases s' false → ∃ (t : State), exec (.mxfree x) s = .next t ∧
    Commanded x .free s'.mxImg 0 0 s s' t ∧ (t.arr (slotCluster s.cur)).freeing = true) ∧
  (∀ (x : Fld) (s : State) (v : Vals) (s' : State), operands uNone x s = .run v s' → Leases s' true → ∃ (t : State), exec (.mxzero x) s = .next t ∧
    Commanded x .zero s'.mxImg 0 0 s s' t) ∧
  (∀ (x : Fld) (s : State) (v : Vals) (s' : State), operands uAB x s = .run v s' → Leases s' true → v.b.toNat < 2 ^ 32 → ∃ (t : State), exec (.mxldb x) s = .next t ∧
    Commanded x .ldb { s'.mxImg with bbase := v.a, bstride := v.b } 0 0 s s' t) ∧
  (∀ (x : Fld) (s : State) (v : Vals) (s' : State), operands uA x s = .run v s' → Leases s' true → v.a.toNat % 128 = 0 → LocalOk s' v.a 64 true false →
    LocalOk s' (v.a + 64) 64 true false → let s1 := (s'.tick.look 0 s'.tick.viewer (scratchLoc (slotCore s.cur) v.a.toNat) 64).1
    let w := wordsAt s' v.a.toNat 8 ++ wordsAt s1 (v.a.toNat + 64) 8
    let m : MxImage := { s'.mxImg with cfg := some w, bbase := w.getD 5 0, bstride := w.getD 6 0 }
    cfgAddrBad m = false → cfgFormatBad m = false → ∃ (t : State), exec (.mxcfg x) s = .next t ∧ Commanded x .cfg m 0 0 s s' t) ∧
  (∀ (x : Fld) (s : State) (v : Vals) (s' : State), operands uA x s = .run v s' → Leases s' true → v.a.toNat % 64 = 0 → LocalOk s' v.a 64 true false →
    let m : MxImage := { s'.mxImg with unf := some (wordsAt s' v.a.toNat 8) }
    unfBad m = false → ∃ (t : State), exec (.mxunf x) s = .next t ∧ Commanded x .unf m 0 0 s s' t) ∧
  (∀ (x : Fld) (s : State) (v : Vals) (s' : State), operands uAB x s = .run v s' → Leases s' true → let m := s'.mxImg; let a := s'.arr (slotCluster s.cur)
    m.cfg.isSome = true → (m.aunf = true → m.unf.isSome = true ∧ m.kext = m.kh * m.kw * m.chan) → v.a.toNat + v.b.toNat ≤ m.kext →
    ∃ (t : State), exec (.mxrun x) s = .next t ∧ Commanded x .run m v.a v.b s s' t ∧ (t.arr (slotCluster s.cur)).runs = a.runs + 1 ∧
      (t.arr (slotCluster s.cur)).budRuns = a.budRuns + 1) ∧
  (∀ (x : Fld) (s : State) (v : Vals) (s' : State), operands uAB x s = .run v s' → Leases s' false →
    (readoutCheck s' s'.mxImg false v.a v.b = none → ∃ (t : State), exec (.mxrd x) s = .next t ∧ Commanded x .rd s'.mxImg v.a v.b s s' t) ∧
    (readoutCheck s' s'.mxImg true v.a v.b = none → ∃ (t : State), exec (.mxrdx x) s = .next t ∧ Commanded x .rdx s'.mxImg v.a v.b s s' t)) ∧
  (∀ (x : Fld) (s : State) (v : Vals) (s' : State), operands uNone x s = .run v s' → Leases s' false → let c := slotCluster s.cur; let a := s'.arr c
    (a.waitQ = [] → ∃ (t : State), exec (.mxstop x) s = .next t ∧ OnlyRetires x s s' t ∧ (t.arr c).queue = a.queue ∧ (t.arr c).cmd = a.cmd ∧
      (a.running = true → (t.arr c).stopped = true) ∧ (a.running = false → (t.arr c).stopHeld = true ∧ (t.arr c).stopped = a.stopped)) ∧
    (∃ (t : State), exec (.mxresume x) s = .next t ∧ OnlyRetires x s s' t ∧ (t.arr c).stopped = false ∧ (t.arr c).stopHeld = false ∧
      (a.stopped = true → a.running = true → a.page = none → ({ who := c, ins := .macroStep } : Op) ∈ t.agenda)))

/-- R180, R304, R320, R321. A free lease is granted at once (in the step of its MXLEASE: log 70): the lanes are cleared and d takes 2^32 with the number of the grant; to its
holder it is answered again; a non-blocking request of a lease that is held gets 0, a blocking one waits in the queue. MXWAIT, where
everything issued is done, clears and returns the status; else a non-blocking one gets bit 63 and a blocking one waits. MXSTAT returns
counters, lane flags or status. -/
def Says.ArrayWaiting : Prop :=
  (∀ (x : Fld) (s : State) (v : Vals) (s' : State), operands uD x s = .run v s' → x.d.toNat < 24 → let c := slotCluster s.cur; let a := s'.arr c; let t := s.slot s.cur
    let waits (tag : Nat) (u : State) : Prop := (u.slot s.cur).st = .waiting (.answer tag) ∧ (u.slot s.cur).pc = t.pc ∧
      (x.d ≠ 0 → (u.slot s.cur).empty x.d.toNat = true) ∧ (u.slot s.cur).g = t.g ∧ (∀ j, j ≠ s.cur → u.slot j = s.slot j) ∧ u.mem = s.mem
    (a.isHolder s.cur t.gen = true → exec (.mxlease x) s = .next (retired x s (s'.putG x.d.toNat (BitVec.ofNat 64 (2 ^ 32 + a.grants.toNat))))) ∧
    (a.holder = none → a.leaseQ = [] → ∃ (u : State), exec (.mxlease x) s = .next u ∧ (u.arr c).holder = some (s.cur, t.gen) ∧ (u.arr c).lanes = [] ∧
      (u.arr c).img = {} ∧ (u.arr c).latch = none ∧ (u.arr c).grants = a.grants + 1 ∧
      GWritten x.d.toNat (BitVec.ofNat 64 (2 ^ 32 + (a.grants + 1).toNat)) (nextPc x t) t (u.slot s.cur) ∧ u.mem = s.mem) ∧
    (a.holder.isSome = true → a.isHolder s.cur t.gen = false → t.waitMode = 2 → exec (.mxlease x) s = .next (retired x s (s'.putG x.d.toNat 0))) ∧
    (a.holder.isSome = true → a.isHolder s.cur t.gen = false → t.waitMode = 0 → ∃ (u : State) (tag : Nat), exec (.mxlease x) s = .next u ∧ waits tag u ∧
      (u.arr c).leaseQ = a.leaseQ ++ [{ slot := s.cur, gen := t.gen, tag := tag }] ∧ (u.arr c).holder = a.holder) ∧
    (a.isHolder s.cur t.gen = true → a.lost.contains (s.cur, t.gen) = false → a.latch = none →
      (a.issued ≤ a.done → a.stopped = false → ∃ (u : State), exec (.mxwait x) s = .next u ∧ (u.arr c).inexact = false ∧ (u.arr c).overflow = false ∧
        GWritten x.d.toNat ((if a.inexact then 1 else 0) + (if a.overflow then 2 else 0)) (nextPc x t) t (u.slot s.cur) ∧ u.mem = s.mem) ∧
      (a.done < a.issued → a.stopped = false → t.waitMode = 2 →
        exec (.mxwait x) s = .next (retired x s (s'.putG x.d.toNat 0x8000000000000000))) ∧
      (a.done < a.issued → a.stopped = false → t.waitMode = 0 → ∃ (u : State) (tag : Nat), exec (.mxwait x) s = .next u ∧ waits tag u ∧
        (u.arr c).waitQ = a.waitQ ++ [({ slot := s.cur, gen := t.gen, tag := tag }, a.issued)])) ∧
    (∀ l, a.lost.contains (s.cur, t.gen) = false → a.isHolder s.cur t.gen = true → a.latch = some l → ∃ s1 : State, (s1.arr c).latch = none ∧
      s1.slots = s.slots ∧ exec (.mxwait x) s = .next (trapEntry s1 s.cur t.pc { cause := l.cause, addr := l.addr, info := l.info }))) ∧
  Completes uDA .mxstat (fun _ _ _ => True) (fun x v s => let a := s.arr (slotCluster s.cur)
    s.putG x.d.toNat (mxstatWord a (a.isHolder s.cur (s.slot s.cur).gen) v.a)) ∧
  (∀ (a : TermArray) (h : Bool) (sel : W64), bits sel 1 0 = 0 → sel.getLsbD 10 = false →
    mxstatWord a h sel = (Sp.get 0 a.ctr (bits sel 6 2 * 8 + bits sel 9 7)).setWidth 64)

/-- R159. The terms of a magnitude of an A element: their signed weights add up to it, each digit is 1 or −1, and no two of them stand at
adjacent weights. -/
def Obligations.NonAdjacentForm : Prop :=
  ∀ m : Nat, m < 2 ^ 22 → ((naf m).map fun d : Nat × Int => d.2 * 2 ^ d.1).sum = m ∧ (∀ d ∈ naf m, d.2 = 1 ∨ d.2 = -1) ∧
    (naf m).Pairwise fun d e : Nat × Int => d.1 + 1 < e.1

/-- R301, R311, R313, R316 to R319. The sequencer of a cluster: a configuration command is done at once, MXZERO has cleared the lanes, a run
begins with its first macro step, a readout with its first item, MXFREE gives the lease back. A macro step whose operands have been
fetched and checked adds all its products to the lanes and counts; with its last the run is done. A readout's item is sent with what the
lanes hold, arrives at its home and is stored there, as the holder it was sent for (also where the lease has gone since: logs 64 and 131); where the
partition's injection budget is spent a macro step waits (log 89); its completion is applied when all have. -/
def Obligations.ArrayCommandsRun : Prop :=
  (∀ (s : State) (k : MxCmd) (l : List MxCmd), let a := s.arr s.cur
    a.cmd = none → a.queue = k :: l → a.waitQ = [] → a.ended = false → ∃ (t : State), exec .sequencerCommand s = .next t ∧ t.mem = s.mem ∧ t.slots = s.slots ∧
      (k.op = .cfg ∨ k.op = .unf ∨ k.op = .ldb → CommandDone a (t.arr s.cur) k l ∧ (t.arr s.cur).lanes = a.lanes) ∧
      (k.op = .zero → CommandDone a (t.arr s.cur) k l ∧ (t.arr s.cur).lanes = [] ∧ (t.arr s.cur).frac = []) ∧
      (k.op = .run → k.b ≠ 0 → a.stopHeld = false → (t.arr s.cur).cmd = some k ∧ (t.arr s.cur).queue = l ∧
        ({ who := s.cur, ins := .macroStep } : Op) ∈ t.agenda) ∧
      (k.op = .run → k.b ≠ 0 → a.stopHeld = true → (t.arr s.cur).cmd = some k ∧ (t.arr s.cur).stopped = true ∧ (t.arr s.cur).stopHeld = false) ∧
      (k.op = .rdx ∨ (k.op = .rd ∧ k.img.rpage = false) → (t.arr s.cur).cmd = some k ∧ (t.arr s.cur).next = 0 ∧
        ({ who := s.cur, ins := .readout } : Op) ∈ t.agenda) ∧
      (k.op = .free → (t.arr s.cur).holder = none ∧ (t.arr s.cur).queue = [] ∧ (t.arr s.cur).cmd = none ∧
        ({ who := s.cur, ins := .leaseGrant } : Op) ∈ t.agenda)) ∧
  (∀ (s : State) (k : MxCmd), let a := s.arr s.cur; let o : Op := { who := s.cur, ins := .macroStep }
    a.cmd = some k → k.op = .run → a.stopped = false → a.page = none → a.ended = false → a.waitQ = [] →
    (s.injSpent (s.partOf s.cur) = true → ∃ (t : State), exec .macroStep s = .next t ∧ t.mem = s.mem ∧ t.arr s.cur = a ∧
      { o with inj := some (s.cur * 128, s.partOf s.cur, none) } ∈ t.agenda) ∧ (s.injSpent (s.partOf s.cur) = false →
    let r := fetchStep s s.cur o k k.a.toNat k.b.toNat a.mstep
    r.1.stalled = false → r.1.err = none → ∃ (t : State), exec .macroStep s = .next t ∧ t.mem = r.1.s.mem ∧
      (t.arr s.cur).lanes = (stepLanes k.img.elsb r.2 (a.lanes, a.ctr) (List.range ((k.img.mact + 15) / 16))).1 ∧
      (k.b.toNat ≤ 16 * (a.mstep + 1) → (t.arr s.cur).cmd = none ∧ (t.arr s.cur).done = k.no) ∧
      (16 * (a.mstep + 1) < k.b.toNat → (t.arr s.cur).mstep = a.mstep + 1 ∧ o ∈ t.agenda))) ∧
  (∀ (s : State) (k : MxCmd), let a := s.arr s.cur
    a.cmd = some k → a.flying = [] → a.maySend = true → (s.cluster s.cur).frozenAt = none → s.data = [] →
    s.injSpent (s.partOf s.cur) = false → ∃ (t : State), exec .readout s = .next t ∧ t.mem = s.mem ∧
      (t.arr s.cur).next = a.next + 1 ∧ (t.arr s.cur).flying =
        [{ cmd := k, item := a.next, vals := itemVals a (readWidth (k.op == .rdx) a.rfmt) k a.next, fmt := a.rfmt,
           holder := a.holder.getD (0, 0), level := a.level }] ∧
      ({ who := s.cur, ins := .readout } : Op) ∈ t.agenda) ∧
  (∀ (s s1 s2 : State) (q : MxWrite) (v l : Nat) (h : Target), let a := s.arr s.cur
    a.flying = [q] → a.maySend = false → s.data = [] → let w := itemAddr q.width q.cmd q.item; let n := q.width * itemLanes q.width / 8
    let s0 := s.tick.updArr s.cur fun a => { a with flying := [] }
    let s0' := { s0.deliver (((s0.mxDest s.cur w).map Prod.fst).getD (s.cur * 128)) q.cmd.phase with kept := q.xl }
    itemBytes s0' s.cur q w = (s1, .ok (some v)) → s1.homeOf (s1.mxAccess s.cur q.holder q.level) w n false true = (s2, .loc h l) → ∃ (t : State), exec .readout s = .next t ∧ Stored s2 t l v n) ∧
  (∀ (s : State) (k : MxCmd) (tag : Nat), let a := s.arr s.cur; let r : W64 := BitVec.ofNat 64 k.img.rtarget; let h := a.holder.getD (0, 0)
    a.cmd = some k → a.rtag = some tag → k.op = .rd ∨ k.op = .rdx → a.failed = false → a.ended = false → a.waitQ = [] →
    (r.getLsbD 30 = true → ∃ (t : State), exec .readoutCompletion s = .next t ∧ (t.arr s.cur).cmd = none ∧ (t.arr s.cur).done = k.no ∧ t.mem = s.mem) ∧
    (r.getLsbD 30 = false → r.getLsbD 31 = true → (s.physCluster (s.partOf s.cur) (bits r 18 12)).isSome = true →
      ∃ (t : State), exec .readoutCompletion s = .next t ∧ Sends s t (s.partOf s.cur) { ins := .dcDecrement (s.partOf s.cur) (bits r 18 0) 1 h.1 h.2 tag } ∧ t.mem = s.mem) ∧
    (r.getLsbD 30 = false → r.getLsbD 31 = false → ∀ core off, s.mxDest s.cur k.a = some (core, off) →
      ∃ (t : State) (x : Access), exec .readoutCompletion s = .next t ∧ Sends s t (s.partOf s.cur) { ins := .syncWordUpdate x 2 } ∧ t.mem = s.mem ∧ x.op = .swadd ∧
        x.ea = s.globalOf core (bits r 18 0) ∧ x.d0 = BitVec.ofNat 64 a.bytes ∧ x.tag = tag))

/-- R180, R315, R323. The lease over time: a free lease goes to its oldest waiting request, which is answered with the grant; at the end of
a budget of at least 64 runs grace begins where a request waits, else the budget starts again; at the end of grace the lease is taken
back and what is queued is discarded. -/
def Says.LeaseEvents : Prop :=
  (∀ (s : State) (w : Asker) (l : List Asker) (o : Outst) (d : Nat), let a := s.arr s.cur
    a.holder = none → a.ended = false → a.leaseQ = w :: l → Holds s w.slot w.gen w.tag o → o.dests = [d] → d ≠ 0 → d < 24 →
    ∃ (t : State), exec .leaseGrant s = .next t ∧ (t.arr s.cur).holder = some (w.slot, w.gen) ∧ (t.arr s.cur).leaseQ = l ∧
      (t.arr s.cur).grants = a.grants + 1 ∧ (t.arr s.cur).lanes = [] ∧ (t.arr s.cur).level = (s.slot w.slot).level ∧
      (t.slot w.slot).getG d = BitVec.ofNat 64 (2 ^ 32 + (a.grants + 1).toNat) ∧ (t.slot w.slot).empty d = false ∧
      (t.slot w.slot).outst = entriesWithout (s.slot w.slot) w.tag ∧ (∀ j, j ≠ w.slot → t.slot j = s.slot j) ∧ t.mem = s.mem) ∧
  (∀ (s : State), let a := s.arr s.cur
    a.holder.isSome = true → a.grace = none → s.data = [BitVec.ofNat 64 a.bud] → a.budAt + 2 ^ 20 ≤ s.arrayTime s.cur → 64 ≤ a.budRuns →
    ∃ (t : State), exec .leaseBudgetEnd s = .next t ∧ (t.arr s.cur).holder = a.holder ∧ t.mem = s.mem ∧ t.slots = s.slots ∧
      (a.leaseQ = [] → (t.arr s.cur).budRuns = 0 ∧ (t.arr s.cur).budAt = s.arrayTime s.cur ∧ (t.arr s.cur).grace = none) ∧
      (a.leaseQ ≠ [] → (t.arr s.cur).grace = some (s.arrayTime s.cur) ∧ (t.arr s.cur).stopped = false)) ∧
  (∀ (s : State), let a := s.arr s.cur
    a.holder.isSome = true → a.grace.isSome = true → a.runsLeft = false → s.data = [a.grants.setWidth 64] → a.waitQ = [] →
    Nat.max (a.grace.getD 0) a.lastRun + 4096 ≤ s.arrayTime s.cur → ∃ (t : State), exec .graceEnd s = .next t ∧ (t.arr s.cur).holder = none ∧
      (t.arr s.cur).queue = [] ∧ (t.arr s.cur).cmd = none ∧ (t.arr s.cur).done = a.issued ∧ t.slots = s.slots ∧ t.mem = s.mem ∧
      ({ who := s.cur, ins := .leaseGrant } : Op) ∈ t.agenda)

/-- The statements ArrayWaiting, LeaseEvents together, which rest on choices of the model where they say so: log 70. -/
def Obligations.ArrayLease : Prop :=
  Says.ArrayWaiting ∧ Says.LeaseEvents

/-- R85, R91, R93, R168, R169, R334, R336 to R339. The Confluence forms. CQDECL reads its block and is answered with the handle of the lowest
id that has no live declaration, which it declares, or with 0; CQPUSH sends its key and the four words of g4 to g7 to the key's home;
CQPOP makes d, g4 to g7 and g9 EMPTY and asks the cluster's own slice; CQSTAT reads that slice. RDXADD adds two partials: the greater
exponent, both sums shifted down to it, the flags joined, saturated outside 64 bits. -/
def Says.ConfluenceForms : Prop :=
  (∀ (x : Fld) (s : State) (v : Vals) (s' : State), operands uDA x s = .run v s' → v.a.toNat % 32 = 0 → LocalOk s' v.a 32 true false → let w := wordsAt s' v.a.toNat 4
    let part := s'.partOf (slotCluster s.cur); let q := s'.part part
    declBad (w.getD 0 0) (w.getD 1 0) (w.getD 2 0) (w.getD 3 0) = false → ∃ (t : State) (tag : Nat), exec (.cqdecl x) s = .next t ∧ Asked x [x.d.toNat] false tag s' t ∧
      ((∀ i, i < 64 → (q.decl i).live = true) → Sends s' t part (answerOp s tag 0)) ∧
      (∀ id, id < 64 → (q.decl id).live = false → (∀ i, i < id → (q.decl i).live = true) → let g := nextGen (q.decl id).gen
        Sends s' t part (answerOp s tag (BitVec.ofNat 512 (id + g.toNat * 65536))) ∧ ((t.part part).decl id).live = true ∧
        ((t.part part).decl id).gen = g ∧ ((t.part part).decl id).w0 = w.getD 0 0 ∧ ((t.part part).decl id).w1 = w.getD 1 0 ∧
        ((t.part part).decl id).w2 = w.getD 2 0 ∧ ((t.part part).decl id).w3 = w.getD 3 0 ∧
        ((t.part part).decl id).level = (s.slot s.cur).level)) ∧
  (∀ (x : Fld) (s : State) (v : Vals) (s' : State), operands { d := .g, dDst := true, a := .g, b := .g, extra := [4, 5, 6, 7] } x s = .run v s' → bits v.a 63 32 = 0 →
    bits v.a 15 6 = 0 → (∀ o ∈ (s.slot s.cur).outst, o.len = 0) → (x.f = true → ∀ o ∈ (s.slot s.cur).outst, o.write = false) →
    let r := s.slot s.cur; let part := s'.partOf (slotCluster s.cur); let tag := s'.netTag r.phase
    ∃ (t : State), exec (.cqpush x) s = .next t ∧ Asked x [x.d.toNat] false tag s' t ∧ Sends s' t part (opD (keyHome s' part v.b)
      [BitVec.ofNat 64 s.cur, r.gen.setWidth 64, BitVec.ofNat 64 tag, BitVec.ofNat 64 part, v.a, v.b, r.getG 4, r.getG 5, r.getG 6, r.getG 7,
       r.corr.setWidth 64, 0] .cqPushArrival)) ∧
  (∀ (x : Fld) (s : State) (v : Vals) (s' : State), operands { d := .g, dDst := true, a := .g, extra := [4, 5, 6, 7, 9] } x s = .run v s' → bits v.a 63 32 = 0 → bits v.a 15 6 = 0 →
    let r := s.slot s.cur; let part := s'.partOf (slotCluster s.cur); let tag := s'.netTag r.phase; let ds := [x.d.toNat, 4, 5, 6, 7, 9]
    ∃ (t : State), exec (.cqpop x) s = .next t ∧ (t.slot s.cur).st = .waiting (.answer tag) ∧ (t.slot s.cur).g = r.g ∧ (t.slot s.cur).pc = r.pc ∧
      (∀ c ∈ ds, c ≠ 0 → (t.slot s.cur).empty c = true) ∧ (∀ c, c ∉ ds → (t.slot s.cur).empty c = r.empty c) ∧
      (∀ j, j ≠ s.cur → t.slot j = s.slot j) ∧ t.mem = s.mem ∧
      Sends s' t part (opD (slotCluster s.cur)
        [BitVec.ofNat 64 s.cur, r.gen.setWidth 64, BitVec.ofNat 64 tag, BitVec.ofNat 64 part, v.a, 0] .cqPopRequest)) ∧
  (∀ (x : Fld) (s : State) (v : Vals) (s' : State) (id : Nat) (d : Decl), operands uDAB x s = .run v s' → currentDecl s' (s'.partOf (slotCluster s.cur)) v.a = some (id, d) →
    let k := s'.cluster (slotCluster s.cur); let q := k.confQueue id
    ∃ (t : State) (tag : Nat), exec (.cqstat x) s = .next t ∧ Asked x [x.d.toNat] false tag s' t ∧
      Sends s' t (s'.partOf (slotCluster s.cur)) (answerOp s tag (BitVec.ofNat 512
      (if bits v.b 1 0 = 0 then q.created.toNat else if bits v.b 1 0 = 1 then q.combined.toNat else if bits v.b 1 0 = 2 then q.full.toNat
       else q.head.toNat + q.tail.toNat * 65536 + (k.queue id).length % 2 ^ 15 * 2 ^ 32)))) ∧
  Completes { d := .g, dSrc := true, dDst := true, dPair := true, a := .g, aPair := true } .rdxadd (fun _ _ _ => True) (fun x v s =>
    let r := addPartials (partialOf v.d v.d1) (partialOf v.a v.a1); s.putPair x.d.toNat (BitVec.ofInt 64 r.sum) r.word1) ∧
  (∀ p q : Partial2, p.ovf = false → q.ovf = false → let e := max p.exp q.exp
    let a := p.sum / 2 ^ (e - p.exp).toNat; let b := q.sum / 2 ^ (e - q.exp).toNat; let r := addPartials p q
    r.exp = e ∧ (-2 ^ 63 ≤ a + b → a + b < 2 ^ 63 → r.sum = a + b ∧ r.ovf = false) ∧ (a + b < -2 ^ 63 → r.sum = -2 ^ 63 ∧ r.ovf = true) ∧
    (2 ^ 63 ≤ a + b → r.sum = 2 ^ 63 - 1 ∧ r.ovf = true) ∧
    (r.inexact = true ↔ p.inexact = true ∨ q.inexact = true ∨ p.sum % 2 ^ (e - p.exp).toNat ≠ 0 ∨ q.sum % 2 ^ (e - q.exp).toNat ≠ 0))

/-- R85 to R93, R336, R337. A Confluence slice. A new declaration discards its id's earlier records and frees held requests. A push whose key has
no open record makes one with count 1 and answers 0; under ADD one that has is added word by word, counted, and answers 1; where the
queue has no room a queue that does not block answers 2 and counts it. A pop takes its queue's record, which leaves the slice with its answer (log 139); the
selection seals a record, of a queue that has none sealed (log 140), and passes it to the ready queue as a task, which its launch counts. -/
def Says.ConfluenceEvents : Prop :=
  (∀ (s : State), let c := s.cur / 64; let id := s.cur % 64; ∃ (t : State), exec .cqDeclarationArrival s = .next t ∧
    ((t.cluster c).confQueue id).gen = (s.data.headD 0).setWidth 16 ∧ ((t.cluster c).confQueue id).head = 0 ∧
    ((t.cluster c).confQueue id).tail = 0 ∧ (t.cluster c).queue id = [] ∧ (t.cluster c).held = [] ∧
    t.agenda = s.agenda ++ (s.cluster c).held ∧ t.slots = s.slots ∧ t.mem = s.mem) ∧
  (∀ (s : State) (slot gen tag part h key p4 p5 p6 p7 corr again : W64) (id : Nat) (d : Decl),
    s.data = [slot, gen, tag, part, h, key, p4, p5, p6, p7, corr, again] → currentDecl s part.toNat h = some (id, d) →
    let c := s.cur; let k := s.cluster c; let answer (n : Nat) : Op := { ins := .fill slot.toNat (gen.setWidth 32) tag.toNat (BitVec.ofNat 512 n) }
    (k.confQueue id).gen = d.gen →
    let same := (k.queue id).find? fun r => r.key == key && !r.isSealed && !r.cont
    ((d.op = 0 ∨ same = none) → d.op ≤ 10 → queueFull k id d = false → ∃ (t : State), exec .cqPushArrival s = .next t ∧ Sends s t part.toNat (answer 0) ∧
      ((t.cluster c).confQueue id).tail = (k.confQueue id).tail + 1 ∧
      ∃ r ∈ (t.cluster c).queue id, r.key = key ∧ r.count = 1 ∧ r.w = [p4, p5, p6, p7] ∧ r.isSealed = false ∧ r.part = part.toNat) ∧
    (∀ r, d.op = 1 → same = some r → ∃ (t : State), exec .cqPushArrival s = .next t ∧ Sends s t part.toNat (answer 1) ∧
      ∃ r' ∈ (t.cluster c).queue id, r'.key = r.key ∧ r'.ord = r.ord ∧ r'.count = Nat.min (r.count + 1) (2 ^ 32 - 1) ∧
        r'.w = List.zipWith (· + ·) r.w [p4, p5, p6, p7]) ∧
    ((d.op = 0 ∨ same = none) → queueFull k id d = true → d.policy = 1 → ∃ (t : State), exec .cqPushArrival s = .next t ∧ Sends s t part.toNat (answer 2) ∧
      ((t.cluster c).confQueue id).full = (k.confQueue id).full + 1 ∧ (t.cluster c).queue id = k.queue id)) ∧
  (∀ (s : State), ∃ (t : State), exec .cqPushRetry s = .next t ∧ t = { s with agenda := s.agenda ++ [opD s.cur s.data .cqPushArrival] }) ∧
  (∀ (s : State) (slot gen tag part h again : W64) (id : Nat) (d : Decl), s.data = [slot, gen, tag, part, h, again] → currentDecl s part.toNat h = some (id, d) →
    let c := s.cur; let k := s.cluster c; (k.confQueue id).gen = d.gen → d.hold = true → (∀ p ∈ k.pops, p.qid ≠ id) →
    let answer (n : Nat) : Op := { ins := .fill slot.toNat (gen.setWidth 32) tag.toNat (BitVec.ofNat 512 n) }
    (∀ r, popChoice s k part.toNat id = some r → Sp.find k.conf r.ord = some r → ∃ (t : State), exec .cqPopRequest s = .next t ∧
      Sp.find (t.cluster c).conf r.ord = none ∧ t.mem = s.mem ∧ t.slots = s.slots ∧
      Sends s t part.toNat (answer (joinWords ([r.key.toNat] ++ r.w.map BitVec.toNat ++ [(ConfRec.header { r with isSealed := true }).toNat])))) ∧
    (popChoice s k part.toNat id = none → d.policy = 1 → ∃ (t : State), exec .cqPopRequest s = .next t ∧ Sends s t part.toNat (answer 0) ∧
      (t.cluster c).conf = k.conf) ∧
    (popChoice s k part.toNat id = none → d.policy = 0 → ∃ (t : State), exec .cqPopRequest s = .next t ∧ t.agenda = s.agenda ∧
      ∃ p ∈ (t.cluster c).pops, p.qid = id ∧ p.slot = slot.toNat ∧ p.gen = gen.setWidth 32 ∧ p.tag = tag.toNat)) ∧
  (∀ (s : State) (p : ParkedPop), let c := s.cur; let k := s.cluster c; popStale s (s.partOf c) k = some p → ∃ (t : State),
    exec .confluenceSelect s = .next t ∧ (t.cluster c).pops = k.pops.erase p ∧ (t.cluster c).conf = k.conf ∧ t.mem = s.mem ∧ t.slots = s.slots ∧
      Sends s t (s.partOf c) { ins := .refusalArrival p.slot p.gen p.tag 0x16 (queueHandle p.qid p.qgen) }) ∧
  (∀ (s : State) (id : Nat) (r : ConfRec), let c := s.cur; let part := s.partOf c; let k := s.cluster c
    popStale s part k = none → popReady s part k = none → sealedTask s c part k = none → k.selected ≠ s.now + 1 → r.isSealed = false → r.cont = false →
    (∀ q ∈ chainOf k r, q = r) → Sp.find k.conf r.ord = some r → (k.queue id).find? (fun q => q.isSealed) = none → r.qid = id →
    (∀ j, j < 64 → j ≠ id → ((s.part part).decl j).hold = false → k.sealedHead j = none) →
    selectQueue s part (s.cluster c) = some (id, r) → enqueueRoom s c r.home r.level = true → ∃ (t : State) (e : ReadyRec), exec .confluenceSelect s = .next t ∧
      (t.cluster c).ready = (s.cluster c).ready ++ [e] ∧ e.body.pc = r.w1.setWidth 15 ∧ e.body.args = r.w ∧ e.body.key = r.key ∧
      e.body.level = r.level ∧ e.body.source = 1 ∧ Sp.find (t.cluster c).conf r.ord = none ∧ t.mem = s.mem ∧ t.slots = s.slots ∧
      (∀ l, s.liveLevel r.home r.level = some l → (t.liveLevel r.home r.level).map Level.outstanding = some (l.outstanding + 1)))

/-- The statements ConfluenceForms, ConfluenceEvents together, which rest on choices of the model where they say so: log 139, log 140. -/
def Obligations.ConfluenceRules : Prop :=
  Says.ConfluenceForms ∧ Says.ConfluenceEvents

/-- R132 to R135, R340 to R351. The counter and timer forms. TIME reads the tick of PTPTIME less the stagger; TWREL puts a release on the device's
wheel and is answered 0, or 1 where it has no room; SWINIT writes both words of a sync word; SWWAIT returns word 1 where the generation
has been reached, else waits, or returns at once with bit 63; SWADD and DCDEC are releases held at the core; DCSET and PHFLIP are posted;
BAR sends its arrival; QUIET answers the tag where it is quiet and the level done, −1 without blocking, or waits. -/
def Obligations.CounterForms : Prop :=
  let held (a : Access) (x : Fld) (s t : State) : Prop := (∃ o ∈ (t.slot s.cur).outst, o.tag = a.tag ∧ o.held = true ∧ o.acc = some a) ∧
    Answers t { ins := .releaseSend s.cur (s.slot s.cur).gen a.tag } ∧ t.mem = s.mem ∧ (t.slot s.cur).g = (s.slot s.cur).g ∧
    (t.slot s.cur).pc = BitVec.ofNat 15 (nextPc x (s.slot s.cur))
  let uC : Uses := { d := .g, dSrc := true, a := .g, b := .g }
  let names (s : State) (w : W64) : Prop := bits w 63 19 = 0 ∧ (s.physCluster (s.partOf (slotCluster s.cur)) (bits w 18 12)).isSome = true
  Completes uD .time (fun _ _ _ => True) (fun x _ s => let d := slotDev s.cur
    s.putG x.d.toNat (BitVec.ofNat 64 ((s.ptpTime d).toNat / 256 * 256) - (s.dev d).stagger)) ∧
  (∀ (x : Fld) (s : State) (v : Vals) (s' : State) (c : Nat), operands uDAB x s = .run v s' → bits v.b 31 19 = 0 → bits v.b 63 39 = 0 → bits v.b 18 0 % 64 = 0 →
    let part := s'.partOf (slotCluster s.cur); s'.physCluster part (bits v.b 38 32) = some c →
    LocalOk s' (BitVec.ofNat 64 (bits v.b 18 0)) 64 true false →
    let wheel := (s'.dev (slotDev s.cur)).wheel; let room := wheel.length < 65536 ∧ (wheel.filter fun q => q.part == part).length < (s'.part part).quotaTimers
    ∃ (t : State) (tag : Nat), exec (.twrel x) s = .next t ∧ Asked x [x.d.toNat] false tag s' t ∧
      (¬room → Sends s' t part (answerOp s tag 1) ∧ (t.dev (slotDev s.cur)).wheel = wheel) ∧
      (room → Sends s' t part (answerOp s tag 0) ∧ ∃ r, (t.dev (slotDev s.cur)).wheel = wheel ++ [r] ∧ r.fell = none ∧ r.time = v.a ∧ r.cluster = c ∧ r.part = part ∧
        [r.body.level, r.body.pool] ++ r.body.args = (let w := wordsAt s' (bits v.b 18 0) 8; [w.getD 1 0, w.getD 3 0] ++ w.drop 4))) ∧
  (∀ (x : Fld) (s : State) (v : Vals) (s' : State), operands uC x s = .run v s' → v.a.toNat % 16 = 0 → LocalOk s' v.a 16 false true → ∃ (t : State), exec (.swinit x) s = .next t ∧
    Stored s t (scratchLoc (slotCore s.cur) v.a.toNat) (v.d.toNat + 2 ^ 64 * (v.b.toNat % 2 ^ 34)) 16 ∧
    t.slot s.cur = (s.slot s.cur).retire (nextPc x (s.slot s.cur)) ∧ (∀ j, j ≠ s.cur → t.slot j = s.slot j)) ∧
  (∀ (x : Fld) (s : State) (v : Vals) (s' : State), operands uDAB x s = .run v s' → x.d.toNat < 24 → v.a.toNat % 16 = 0 → LocalOk s' v.a 16 true false →
    let w : W64 := BitVec.ofNat 64 (s'.read (scratchLoc (slotCore s.cur) v.a.toNat + 8) 8); let ahead := (w.toNat % 2 ^ 32 + 2 ^ 32 - v.b.toNat % 2 ^ 32) % 2 ^ 32
    (ahead < 2 ^ 31 → exec (.swwait x) s = .next (retired x s (s'.putG x.d.toNat w))) ∧
    (2 ^ 31 ≤ ahead → (s.slot s.cur).waitMode = 2 → exec (.swwait x) s = .next (retired x s (s'.putG x.d.toNat (w ||| 0x8000000000000000)))) ∧
    (2 ^ 31 ≤ ahead → (s.slot s.cur).waitMode = 0 → ∃ (t : State), exec (.swwait x) s = .next t ∧
      (t.slot s.cur).st = .waiting (.answer s'.plainTag) ∧ (x.d ≠ 0 → (t.slot s.cur).empty x.d.toNat = true) ∧ (t.slot s.cur).g = (s.slot s.cur).g ∧
      t.parked = s'.parked ++ [{ slot := s.cur, gen := (s.slot s.cur).gen, tag := s'.plainTag, loc := scratchLoc (slotCore s.cur) v.a.toNat,
                                 acquire := false, want := v.b.setWidth 32 }] ∧ t.mem = s.mem)) ∧
  (∀ (x : Fld) (s : State) (v : Vals) (s' : State) (core off : Nat), operands uAB x s = .run v s' → let a := accessOf .swadd (fun x => if x.f then 3 else 1) (fun _ v => v.a) (fun _ => 0) (fun _ => 0x5A) id x v s'
    v.a.toNat % 16 = 0 → v.b.toNat < 2 ^ 32 → s'.target (slotCore s.cur) a.part a.mode a.ea = some (.scratch core off) →
    s'.entryFree s.cur false = true → ∃ (t : State), exec (.swadd x) s = .next t ∧ held a x s t) ∧
  (∀ (x : Fld) (s : State) (v : Vals) (s' : State), operands uAB x s = .run v s' → names s' v.a → v.b.toNat < 2 ^ 32 → s'.entryFree s.cur false = true →
    ∃ (t : State), exec (.dcdec x) s = .next t ∧ held (accessOf .dcdec (fun _ => 0) (fun _ v => v.a) (fun _ => 0) (fun _ => 0x55) id x v s') x s t) ∧
  (∀ (x : Fld) (s : State) (v : Vals) (s' : State), operands uC x s = .run v s' → v.d.toNat % 64 = 0 → names s' v.a → v.b.toNat < 2 ^ 32 → s'.entryFree s.cur false = true →
    let tag := s'.netTag (s.slot s.cur).phase; let part := s'.partOf (slotCluster s.cur)
    ∃ (t : State), exec (.dcset x) s = .next t ∧ PostedAs tag x false none s s' t ∧
      Sends s' t part
        { ins := .dcSetArrival part v.a.toNat (v.b.setWidth 32) v.d (s.slot s.cur).level (s.slot s.cur).home s.cur (s.slot s.cur).gen tag }) ∧
  (∀ (x : Fld) (s : State) (v : Vals) (s' : State) (core off : Nat), operands uDA x s = .run v s' → let r := s.slot s.cur; let part := s'.partOf (slotCluster s.cur); let tag := s'.netTag r.phase
    r.guardPend = false → v.a.toNat % 32 = 0 → s'.globalFrom (slotCluster s.cur) part v.a = some (.scratch core off) → r.bars.length < 8 →
    (∀ o ∈ r.outst, o.write = false) → ∃ (t : State), exec (.bar x) s = .next t ∧ (t.slot s.cur).st = .waiting (.answer tag) ∧
      (t.slot s.cur).g = r.g ∧ (t.slot s.cur).pc = r.pc ∧ (∀ j, j ≠ s.cur → t.slot j = s.slot j) ∧ t.mem = s.mem ∧
      Sends s' t part { ins := .barrierArrival part v.a s.cur r.gen tag (r.waitMode == 2) }) ∧
  (∀ (x : Fld) (s : State) (v : Vals) (s' : State), operands uNone x s = .run v s' → s'.entryFree s.cur false = true →
    let tag := s'.netTag (s.slot s.cur).phase; let part := s'.partOf (slotCluster s.cur)
    ∃ (t : State), exec (.phflip x) s = .next t ∧ PostedAs tag x false none s s' t ∧
      Sends s' t part (opD part [BitVec.ofNat 64 s.cur, (s.slot s.cur).gen.setWidth 64, BitVec.ofNat 64 tag] .phflipArrival)) ∧
  (∀ (x : Fld) (s : State) (v : Vals) (s' : State), operands uDA x s = .run v s' → let part := s'.partOf (slotCluster s.cur); let tag := !(s'.part part).tag
    let holds := (s'.part part).quiet tag = true ∧ s'.liveLevel part v.a = none
    (holds → exec (.quiet x) s = .next (retired x s (s'.putG x.d.toNat (if tag then 1 else 0)))) ∧
    (¬holds → (s.slot s.cur).waitMode = 2 → exec (.quiet x) s = .next (retired x s (s'.putG x.d.toNat (-1)))) ∧
    (¬holds → (s.slot s.cur).waitMode = 0 → ∃ (t : State), exec (.quiet x) s = .next t ∧ (t.slot s.cur).st = .waiting (.answer s'.plainTag) ∧
      (t.part part).quiets = (s'.part part).quiets ++ [{ who := { slot := s.cur, gen := (s.slot s.cur).gen, tag := s'.plainTag }, level := v.a, tag := tag }]))

/-- R132 to R135, R141, R347 to R350. The counters at their homes. A sync word counts bytes: short of its target they are added to COUNT; at
or past it an armed word with a target goes to the next generation with COUNT 0, and OVF says that it was passed. A dependence counter
is set whole, at a count of 0 fires at once; a decrement to 0 fires it, a smaller one is subtracted, a greater one or one of a counter that
is not armed leaves 0 and sets UNDER. A firing's record is read and enqueued. A barrier's arrival is counted and waits; the last one
completes the generation. A departure takes away a party, where segment table, regions and guard bits let it reach the object (that they are
asked is the model's reading, log 35; that all slices' NIs count for each partition its choice, log 141). A phase flip toggles the tag; a sweep finds a tag quiet whose sums agree twice. -/
def Says.CounterEvents : Prop :=
  (∀ (s : State) (a : Access) (core off : Nat), a.op = .swadd → AtCore s a 16 core off → off % 16 = 0 → let l := scratchLoc core off
    let target := s.read l 4; let count := s.read (l + 4) 4 + a.d0.toNat; let gen := s.read (l + 8) 4; let flags := s.read (l + 12) 4 % 4
    ∃ (t : State), exec (.syncWordUpdate a 0) s = .next t ∧ Sends s t a.part (ackFor a) ∧ (∀ q, q < l ∨ l + 16 ≤ q → t.byte q = s.byte q) ∧ t.read l 4 = target ∧
      (flags % 2 = 1 → target ≠ 0 → target ≤ count → t.read (l + 4) 4 = 0 ∧ t.read (l + 8) 4 = (gen + 1) % 2 ^ 32 ∧
        t.read (l + 12) 4 = 1 + (if flags / 2 = 1 ∨ target < count then 2 else 0)) ∧
      (¬(flags % 2 = 1 ∧ target ≠ 0 ∧ target ≤ count) → t.read (l + 4) 4 = Nat.min count (2 ^ 32 - 1) ∧ t.read (l + 8) 4 = gen ∧
        t.read (l + 12) 4 = flags % 2 + (if flags / 2 = 1 ∨ 2 ^ 32 ≤ count then 2 else 0))) ∧
  (∀ (s : State) (part name n slot : Nat) (gen : BitVec 32) (tag c : Nat), s.physCluster part (name / 4096) = some c → n < 2 ^ 32 → Sp.find s.copies tag = none →
    (s.arr (slotCluster slot)).rtag ≠ some tag → let i := name % 4096; let q := (s.cluster c).counter i
    ∃ (t : State), exec (.dcDecrement part name n slot gen tag) s = .next t ∧ Sends s t part { ins := .accessAcknowledge slot gen tag } ∧ t.mem = s.mem ∧
      (q.armed = true → n < q.count.toNat → ((t.cluster c).counter i) = { q with count := q.count - BitVec.ofNat 32 n }) ∧
      (q.armed = true → n = q.count.toNat → ((t.cluster c).counter i) = { q with count := 0, armed := false } ∧
        ∃ f, (t.cluster c).firing = (s.cluster c).firing ++ [f] ∧ f.addr = q.record ∧ f.idx = i ∧ opD c [BitVec.ofNat 64 f.id] .dcFire ∈ t.agenda) ∧
      (q.armed = false ∨ q.count.toNat < n → ((t.cluster c).counter i) = { q with count := 0, under := true })) ∧
  (∀ (s : State) (part name : Nat) (count : BitVec 32) (recd level : W64) (home slot : Nat) (gen : BitVec 32) (tag c : Nat), s.physCluster part (name / 4096) = some c → ∃ (t : State),
    exec (.dcSetArrival part name count recd level home slot gen tag) s = .next t ∧
      (∃ h, Held s part h ∧ { ins := .accessAcknowledge slot gen tag, inj := h } ∈ t.agenda) ∧
      (t.cluster c).counter (name % 4096) = { level := level, home := home, count := count, armed := count != 0, under := false, record := recd } ∧
      (count = 0 → ∃ f, (t.cluster c).firing = (s.cluster c).firing ++ [f] ∧ f.addr = recd)) ∧
  (∀ (s : State) (f : Firing) (n : W64) (core off l : Nat) (s2 : State), s.data = [n] → s.linkFrom s.cur (bits f.addr 55 46) = true → (s.cluster s.cur).firing.find? (fun g => g.id == n.toNat) = some f →
    s.homeOf { slot := 2 ^ 31, gen := 0, part := s.partOf s.cur, level := f.level, own := false } f.addr 64 true false =
      (s2, .loc (.scratch core off) l) → let w (j : Nat) : W64 := BitVec.ofNat 64 (s2.read (l + 8 * j) 8)
    ∃ (t : State) (r : TaskRec), exec .dcFire s = .next t ∧ Answers t { ins := .recordEnqueue s.cur r } ∧ (∀ g ∈ (t.cluster s.cur).firing, g.id ≠ n.toNat) ∧
      r.pc = (w 0).setWidth 15 ∧ r.level = w 1 ∧ r.corr = (w 2).setWidth 32 ∧ r.pool = w 3 ∧ r.args = [w 4, w 5, w 6, w 7] ∧ r.source = 2 ∧ r.phase = f.phase) ∧
  (∀ (s : State) (part : Nat) (addr : W64) (slot : Nat) (gen : BitVec 32) (tag : Nat) (nb : Bool) (core off l : Nat) (s2 : State), s.hasEntry slot gen tag = true → s.globalTarget part addr = some (.scratch core off) →
    (s.deliverTag core tag).homeOf ((s.deliverTag core tag).unitAccessor slot core) addr 32 true true = (s2, .loc (.scratch core off) l) →
    registration (s2.slot slot) addr = none → let f := barFields s2 l; let owner := s.partOf (slotCluster slot); let fill (n : Nat) : Op := { ins := .fill slot gen tag (BitVec.ofNat 512 n) }
    ∃ (t : State), exec (.barrierArrival part addr slot gen tag nb) s = .next t ∧
      (∃ b ∈ (t.slot slot).bars, b.2.addr = addr ∧ b.2.gen = BitVec.ofNat 32 f.2.2.1) ∧
      (f.1 ≤ f.2.1 + 1 → barFields t l = (f.1, 0, (f.2.2.1 + 1) % 2 ^ 32, false) ∧
        Sends s t owner (fill (f.2.2.1 + if f.2.2.2 then 2 ^ 32 else 0)) ∧ (∀ b ∈ t.barWait, ¬(b.loc = l ∧ b.gen.toNat = f.2.2.1))) ∧
      (f.2.1 + 1 < f.1 → barFields t l = (f.1, f.2.1 + 1, f.2.2.1, f.2.2.2) ∧ (nb = true → Sends s t owner (fill (2 ^ 64 - 1))) ∧
        (nb = false → t.barWait = s2.barWait ++ [{ loc := l, gen := BitVec.ofNat 32 f.2.2.1, who := { slot := slot, gen := gen, tag := tag } }]))) ∧
  (∀ (s s2 : State) (part : Nat) (addr level : W64) (slot : Nat) (gen bgen : BitVec 32) (k off l : Nat), s.data = [level] →
    departureHome s part addr slot gen level = (s2, .loc (.scratch k off) l) → let f := barFields s2 l
    let arrived := if bgen.toNat = f.2.2.1 then f.2.1 - 1 else f.2.1
    ∃ (t : State), exec (.barrierDeparture part addr slot gen bgen) s = .next t ∧
      (arrived = 0 ∨ arrived < f.1 - 1 → barFields t l = (f.1 - 1, arrived, f.2.2.1, true)) ∧
      (arrived ≠ 0 → f.1 - 1 ≤ arrived → barFields t l = (f.1 - 1, 0, (f.2.2.1 + 1) % 2 ^ 32, false))) ∧
  (∀ (s s2 : State) (part : Nat) (addr level : W64) (slot : Nat) (gen bgen : BitVec 32) (h : Home), s.data = [level] →
    departureHome s part addr slot gen level = (s2, h) → (∀ g l, h ≠ .loc g l) → exec (.barrierDeparture part addr slot gen bgen) s = .next s2) ∧
  (∀ (s : State) (slot gen tag : W64), s.data = [slot, gen, tag] → ∃ (t : State), exec .phflipArrival s = .next t ∧ (t.part s.cur).tag = !(s.part s.cur).tag ∧
    Sends s t s.cur { ins := .accessAcknowledge slot.toNat (gen.setWidth 32) tag.toNat } ∧ t.slots = s.slots ∧ t.mem = s.mem) ∧
  (∀ (s : State), let q := s.part s.cur; let w := sweepSums s s.cur; q.live = true → ∃ (t : State), exec .phaseSweep s = .next t ∧ (t.part s.cur).sweep = some w ∧
    ((t.part s.cur).quiet0 = true ↔ q.quiet0 = true ∨ (w.sent0 = w.recv0 ∧ ∃ p, q.sweep = some p ∧ p.sent0 = w.sent0 ∧ p.recv0 = w.recv0)) ∧
    ((t.part s.cur).quiet1 = true ↔ q.quiet1 = true ∨ (w.sent1 = w.recv1 ∧ ∃ p, q.sweep = some p ∧ p.sent1 = w.sent1 ∧ p.recv1 = w.recv1)) ∧
    ({ who := s.cur, ins := .phaseSweep } : Op) ∈ Sp.get [] t.timers (s.now + 4096) ∧ t.mem = s.mem)

/-- R97, R341, R407, R424. The timer wheel and the clock. A tick takes up a new stagger and marks every release that falls due at it (one whose
tick has passed under a new offset falls due at the next); they leave the wheel in the order entered, each writing its record to its cluster's
ready queue, the first that finds no room holding back the others until it does. A stagger message goes from the management endpoint to every
device; where it arrives, one with a greater epoch sets the offset that
the next tick takes up; one with no greater epoch changes nothing. An announcement makes its master known while it lasts. A time of the best
master ahead of the clock, its path delay added, is taken; one behind never turns it back, and one of another master does nothing; the
response to a delay request gives the path delay, the mean of the two ways; without a master the clock runs on. The kinds 0, 1, 2 of a PTP
message, and the word of its rank, are the model's (log 130). -/
def Says.TimerEvents : Prop :=
  (∀ (s : State), let d := s.cur; let v := s.dev d; let st := v.newStagger.getD v.stagger; let now := (s.ptpTime d).toNat / 256 * 256
    let falls (r : Release) : Prop := r.fell = none ∧ r.time.toNat + st.toNat ≤ now ∧ (st = v.stagger ∨ now < r.time.toNat + st.toNat + 256)
    ((s.data.headD 0).toNat ≤ (s.ptpTime d).toNat / 256 → ∃ (t : State), exec .timerTick s = .next t ∧ (t.dev d).stagger = st ∧
      (t.dev d).newStagger = none ∧ t.slots = s.slots ∧ t.mem = s.mem ∧ (t.dev d).wheel.length = v.wheel.length ∧
      (∀ (i : Nat) (r : Release), v.wheel[i]? = some r → ((falls r → (t.dev d).wheel[i]? = some { r with fell := some now }) ∧
        (¬falls r → (t.dev d).wheel[i]? = some r))) ∧
      ((∃ r ∈ v.wheel, falls r) → t.due = s.due ++ [opD d [BitVec.ofNat 64 now] .timerRelease]) ∧ ((∀ r ∈ v.wheel, ¬falls r) → t.due = s.due)) ∧
    ((s.ptpTime d).toNat / 256 < (s.data.headD 0).toNat → ∃ (t : State), exec .timerTick s = .next t ∧ t.dev d = v ∧ t.due = s.due)) ∧
  (∀ (s : State) (r : Release) (tick : W64), let d := s.cur; let v := s.dev d; let room := enqueueRoom s r.cluster r.body.home r.body.level
    s.data = [tick] → (v.wheel.find? fun r => r.fell == some tick.toNat) = some r →
    (room = true → ∃ (t : State) (e : ReadyRec), exec .timerRelease s = .next t ∧ (t.dev d).wheel = v.wheel.erase r ∧ t.slots = s.slots ∧ t.mem = s.mem ∧
      (t.cluster r.cluster).ready = (s.cluster r.cluster).ready ++ [e] ∧ e.body = { r.body with enq := s.ptpTime (clusterDev r.cluster) } ∧
      ((∃ q ∈ v.wheel.erase r, q.fell = some tick.toNat) → t.due = s.due ++ [opD d [tick] .timerRelease])) ∧
    (room = false → ∃ (t : State), exec .timerRelease s = .next t ∧ (t.dev d).wheel = v.wheel ∧ t.slots = s.slots ∧ t.mem = s.mem ∧
      t.agenda = s.agenda ++ [opD d [tick] .timerRelease] ∧ (4096 ≤ (s.cluster r.cluster).ready.length →
        (t.cluster r.cluster).enqrefuse = (s.cluster r.cluster).enqrefuse + 1))) ∧
  (∀ (s : State) (w0 w1 : W64), s.data = [w0, w1] → ∃ (t : State), exec .stagger s = .next t ∧
    t.agenda = s.agenda ++ (List.range 1024).map fun d => opD d [w0, w1, 1] .stagger) ∧
  (∀ (s : State) (w0 w1 w2 : W64) (rest : List W64), s.data = w0 :: w1 :: w2 :: rest → let d := s.cur; let v := s.dev d; ∃ (t : State), exec .stagger s = .next t ∧
    (bits w1 31 0 ≤ v.epoch.toNat → t = s) ∧
    (v.epoch.toNat < bits w1 31 0 → (t.dev d).epoch = w1.setWidth 32 ∧ (t.dev d).stagger = v.stagger ∧ (t.dev d).newStagger =
      some (BitVec.ofNat 64 (if bits w0 63 32 = 0 then 0 else d * bits w0 31 0 % bits w0 63 32 / 256 * 256)))) ∧
  (∀ (s : State) (rank n : W64), s.data = [0, rank, n] → ∃ (t : State), exec .ptpMessage s = .next t ∧
    ({ rank := rank.toNat, until_ := s.now + n.toNat } : PtpMaster) ∈ (t.dev s.cur).masters ∧ t.ptpTime s.cur = s.ptpTime s.cur) ∧
  (∀ (s : State) (rank t1 f : W64), s.data = [1, rank, t1, f] → let d := s.cur; let t0 := t1 + BitVec.ofNat 64 (s.dev d).delay
    ∃ (t : State), exec .ptpMessage s = .next t ∧
      (bestMaster s d ≠ some rank.toNat → t = s) ∧
      (bestMaster s d = some rank.toNat → (t.dev d).master = true ∧ (t.dev d).freq = f ∧ (t.dev d).ptpAt = s.now ∧ (t.dev d).delayReq = some (t.ptpTime d) ∧
        ((s.ptpTime d).toNat ≤ t0.toNat → t.ptpTime d = t0) ∧ (t0.toNat < (s.ptpTime d).toNat → t.ptpTime d = s.ptpTime d))) ∧
  (∀ (s : State) (rank t4 t3 : W64), s.data = [2, rank, t4] → let d := s.cur; let v := s.dev d; bestMaster s d = some rank.toNat → v.delayReq = some t3 →
    ∃ (t : State), exec .ptpMessage s = .next t ∧ t = s.setDev d { v with delayReq := none, delay := ((v.sync21.toInt + (t4 - t3).toInt) / 2).toNat }) ∧
  (∀ (s : State) (d r : Nat), bestMaster s d = some r → (∃ m ∈ (s.dev d).masters, m.rank = r ∧ s.now ≤ m.until_) ∧
    ∀ m ∈ (s.dev d).masters, s.now ≤ m.until_ → r ≤ m.rank) ∧
  (∀ (s : State), ∃ (t : State), exec .ptpMasterLoss s = .next t ∧
    t = s.setDev s.cur { s.dev s.cur with master := false, masters := [], delayReq := none })

/-- The statements CounterEvents, TimerEvents together, which rest on choices of the model where they say so: log 35, log 141, log 130. -/
def Obligations.CounterAndTimerEvents : Prop :=
  Says.CounterEvents ∧ Says.TimerEvents

/-- R137, R145, R170, R175, R183, R325, R372 to R375, R379 to R381. LVINC and LVDEC ask the Sorting Office to change a level's OUTSTANDING, LVDEC
once its writes have been acknowledged, and trap ADDR on a handle that names no level; LVWAIT of a level that is not live gives DONE at once, else waits or, without blocking, gives −1;
LVCANCEL marks the level and every level below it CANCELLED and sends CANCEL to every unit there, the issuer's own, if it is one, pending before its answer; PERSIST sets the launch's window and
BEAT clears its counter. EXIT ends the unit, with an error where it holds stack entries or a membership; YIELD saves the context at the
next group or, with no frame, does nothing but count. -/
def Says.LevelForms : Prop :=
  (∀ (x : Fld) (s : State) (v : Vals) (s' : State), operands uAB x s = .run v s' → v.b.toNat < 2 ^ 32 → levelNames v.a = true → let part := s'.partOf (slotCluster s.cur)
    (∃ (t : State) (tag : Nat), exec (.lvinc x) s = .next t ∧ Asked x [] false tag s' t ∧
      Sends s' t part (levelOp part v.a true v.b.toNat s.cur (s.slot s.cur).gen tag true v.a)) ∧
    ((∀ o ∈ (s.slot s.cur).outst, o.write = false) → ∃ (t : State) (tag : Nat), exec (.lvdec x) s = .next t ∧ Asked x [] false tag s' t ∧
      Sends s' t part (levelOp part v.a false v.b.toNat s.cur (s.slot s.cur).gen tag true v.a)) ∧
    ((∃ o ∈ (s.slot s.cur).outst, o.write = true) → ∃ (t : State), exec (.lvdec x) s = .next t ∧ WaitsFor .released s t)) ∧
  TrapsAt uAB .lvinc (fun _ v _ => levelNames v.a = false) (fun _ v _ => { cause := 0x16, addr := v.a }) ∧
  TrapsAt uAB .lvdec (fun _ v _ => levelNames v.a = false) (fun _ v _ => { cause := 0x16, addr := v.a }) ∧
  (∀ (x : Fld) (s : State) (v : Vals) (s' : State), operands uDA x s = .run v s' → levelNames v.a = true → let part := s'.partOf (slotCluster s.cur)
    (s'.liveLevel part v.a = none → exec (.lvwait x) s = .next (retired x s (s'.putG x.d.toNat 0x1000000000000))) ∧
    (∀ l, s'.liveLevel part v.a = some l → (s.slot s.cur).waitMode = 2 → exec (.lvwait x) s = .next (retired x s (s'.putG x.d.toNat (-1)))) ∧
    (∀ l, s'.liveLevel part v.a = some l → (s.slot s.cur).waitMode = 0 → ∃ (t : State) (tag : Nat), exec (.lvwait x) s = .next t ∧ Asked x [x.d.toNat] true tag s' t ∧
      t.liveLevel part v.a = some { l with waiters := l.waiters ++ [{ slot := s.cur, gen := (s.slot s.cur).gen, tag := tag }] })) ∧
  (∀ (x : Fld) (s : State) (v : Vals) (s' : State), operands uA x s = .run v s' → let part := s'.partOf (slotCluster s.cur)
    ∃ (t : State) (tag : Nat), exec (.lvcancel x) s = .next t ∧ (t.slot s.cur).st = .waiting (.answer tag) ∧ (t.slot s.cur).pc = (s.slot s.cur).pc ∧
      Sends s' t part (answerOp s tag 0) ∧ (s'.liveLevel part v.a = none → Asked x [] false tag s' t ∧ t.levels = s.levels) ∧
      ((s'.liveLevel part v.a).isSome = true →
        (∀ key l, Sp.find s.levels key = some l → key / 2 ^ 64 = part → levelCovers v.a (BitVec.ofNat 64 key) = true →
          (Sp.find t.levels key).map Level.cancelled = some true) ∧
        ((s.cur, (s.slot s.cur).gen) ∈ unitsUnder s' part v.a → (s.slot s.cur).st ≠ .idle → (t.slot s.cur).cancel = true) ∧
        (∀ q ∈ unitsUnder s' part v.a, q ≠ (s.cur, (s.slot s.cur).gen) → ({ ins := .asyncCauseDelivery q.1 q.2 0 } : Op) ∈ t.agenda))) ∧
  (∀ (x : Fld) (s : State) (v : Vals) (s' : State) (l : Level), operands uA x s = .run v s' → v.a.toNat < 2 ^ 32 → let r := s.slot s.cur; s'.liveLevel r.home r.level = some l →
    ∃ (t : State) (tag : Nat), exec (.persist x) s = .next t ∧ Asked x [] false tag s' t ∧ Sends s' t r.home (answerOp s tag 0) ∧
      t.liveLevel r.home r.level = some { l with persistwin := if v.a = 0 then 0 else v.a + 0x100000000, beat := 0,
                                                      beatAt := if v.a ≠ 0 ∧ l.persistwin = 0 then s'.now + 1024 else l.beatAt }) ∧
  (∀ (x : Fld) (s : State) (v : Vals) (s' : State) (l : Level), operands uNone x s = .run v s' → s'.entryFree s.cur false = true → let r := s.slot s.cur; s'.liveLevel r.home r.level = some l →
    let tag := s'.netTag r.phase
    ∃ (t : State), exec (.beat x) s = .next t ∧ PostedAs tag x false none s s' t ∧ Sends s' t r.home { ins := .accessAcknowledge s.cur r.gen tag } ∧
      t.liveLevel r.home r.level = some { l with beat := if l.persistwin = 0 then l.beat else 0 }) ∧
  (∀ (x : Fld) (s : State) (v : Vals) (s' : State), operands uNone x s = .run v s' → let r := s.slot s.cur
    let ended (err : Nat) (t : State) : Prop := (t.slot s.cur).st = .idle ∧ (t.slot s.cur).g = r.g ∧ (t.slot s.cur).stack = [] ∧
      (t.slot s.cur).region = none ∧ (t.slot s.cur).bars = [] ∧ (∀ j, j ≠ s.cur → t.slot j = s.slot j) ∧
      ({ ins := .levelUpdate { part := r.home, level := r.level, add := false, n := 1, err := err, slot := s.cur, gen := r.gen, tag := 0, ack := false, addr := 0 } } : Op) ∈ t.agenda
    (r.outst = [] → r.stack = [] → r.region = none → ∃ (t : State), exec (.exit x) s = .next t ∧ ended (if r.guardPend then 1 else 0) t) ∧
    (r.outst = [] → (r.stack ≠ [] ∨ r.region.isSome = true) → ∃ (t : State), exec (.exit x) s = .next t ∧ ended 1 t) ∧
    (r.outst ≠ [] → ∃ (t : State), exec (.exit x) s = .next t ∧ WaitsFor .settled s t)) ∧
  (∀ (x : Fld) (s : State) (v : Vals) (s' : State), operands uNone x s = .run v s' → let r := s.slot s.cur
    (r.outst = [] → ∃ (t : State), exec (.yield x) s = .next t ∧ (∀ j, j ≠ s.cur → t.slot j = s.slot j) ∧
      (((t.slot s.cur).st = .idle ∧ ∃ c, (t.slot s.cur).saved = r.saved ++ [c] ∧ c.gen = r.gen ∧ c.fault = false ∧ c.pool = r.pool ∧ c.back = .ready) ∨
       (OnlyRetires x s s' t ∧ (t.core (slotCore s.cur)).count.framefull = (s.core (slotCore s.cur)).count.framefull + 1))) ∧
    (r.outst = [] → r.pool = 0 → ∃ (t : State), exec (.yield x) s = .next t ∧ OnlyRetires x s s' t))

/-- R136 to R139, R144, R145, R179, R186. Levels and what reaches units from them. An increment that fits is added and acknowledged; a decrement
is subtracted with its error; at 0 the level is gone, its waiters are answered with DONE, and its parent is decremented in the same step;
an update of a level that is not live refuses the group that waits. A heartbeat advances each 1,024 cycles and at its window, but for a BEAT in that cycle, expires; an expiry sends
WATCHDOG to the units with a handler, or cancels the launch. A cause becomes pending, and is taken at a group boundary, after the trap that the group itself still owes; TABLED_FAIL
stands after WATCHDOG there (log 122). The news that a level is DONE goes to the Pigeonhole slices, and its record is freed in that step
(logs 23 and 142). A bounded wait
traps WAIT_TIMEOUT and an unbounded one WATCHDOG at its group, without its effect. -/
def Says.LevelEvents : Prop :=
  let traps (s u : State) (slot cause : Nat) (info : W64) : Prop := let t := s.slot slot; let r := u.slot slot
    r.pc = t.trapvec.setWidth 15 ∧ r.trappc = t.pc.setWidth 64 ∧ r.trapcause = BitVec.ofNat 64 (256 + cause) ∧ r.trapaddr = 0 ∧ r.trapinfo = info ∧
    r.st = .ready ∧ r.g = t.g ∧ r.v = t.v ∧ r.k = t.k ∧ r.retired = t.retired ∧ u.mem = s.mem
  (∀ (s : State) (u : LevelUpd) (l : Level), s.liveLevel u.part u.level = some l → u.clear = false → u.ack = true → let fill : Op := { ins := .fill u.slot u.gen u.tag 0 }
    (u.add = true → l.outstanding + u.n < 2 ^ 32 → ∃ (t : State), exec (.levelUpdate u) s = .next t ∧ Sends s t u.part fill ∧
      t.liveLevel u.part u.level = some { l with outstanding := l.outstanding + u.n }) ∧
    (u.add = true → 2 ^ 32 ≤ l.outstanding + u.n → ∃ (t : State), exec (.levelUpdate u) s = .next t ∧ t.levels = s.levels ∧
      Sends s t u.part { ins := .refusalArrival u.slot u.gen u.tag 0x16 u.addr }) ∧
    (u.add = false → 0 < u.n → u.n < l.outstanding → ∃ (t : State), exec (.levelUpdate u) s = .next t ∧ Sends s t u.part fill ∧
      t.liveLevel u.part u.level = some { l with outstanding := l.outstanding - u.n, errors := Nat.min (l.errors + u.err) 0xFFFF }) ∧
    (u.add = false → 0 < u.n → l.outstanding ≤ u.n → ∃ (t : State), exec (.levelUpdate u) s = .next t ∧ Sends s t u.part fill ∧
      t.liveLevel u.part u.level = none ∧
      (∀ w ∈ l.waiters, ∃ (v : V512) (h : Option (Nat × Nat × Option Bool)), Held s u.part h ∧
        ({ ins := .fill w.slot w.gen w.tag v, inj := h } : Op) ∈ t.agenda ∧ v.getLsbD 48 = true) ∧
      ({ ins := .levelUpdate (clearUpd u.part u.level) } : Op) ∈ t.agenda ∧
      (∀ p, l.parent ≠ 0 → l.parent ≠ u.level → s.liveLevel u.part l.parent = some p → 1 < p.outstanding →
        (t.liveLevel u.part l.parent).map Level.outstanding = some (p.outstanding - 1)))) ∧
  (∀ (s : State) (u : LevelUpd), s.liveLevel u.part u.level = none → u.clear = false → u.ack = true → ∃ (t : State), exec (.levelUpdate u) s = .next t ∧ t.levels = s.levels ∧
    Sends s t u.part { ins := .refusalArrival u.slot u.gen u.tag 0x16 u.addr }) ∧
  (∀ (s : State) (l : Level), Sp.find s.levels s.cur = some l → l.persistwin ≠ 0 → l.beatAt = s.now → (∀ c, (s.cluster c).dbgctl.getLsbD 0 = false) →
    ∃ (t : State), exec .heartbeatTick s = .next t ∧ Sp.find t.levels s.cur = some { l with beat := l.beat + 1, beatAt := s.now + 1024 } ∧ t.slots = s.slots ∧ t.mem = s.mem ∧
      ({ who := s.cur, ins := .heartbeatTick } : Op) ∈ Sp.get [] t.timers (s.now + 1024) ∧
      (bits l.persistwin 31 0 ≤ l.beat + 1 → ({ who := s.cur, ins := .heartbeatExpiry } : Op) ∈ Sp.get [] t.timers (s.now + 1))) ∧
  (∀ (s : State) (l : Level), Sp.find s.levels s.cur = some l → l.persistwin = 0 ∨ l.beatAt ≠ s.now → exec .heartbeatTick s = .next s) ∧
  (∀ (s : State) (l : Level), Sp.find s.levels s.cur = some l → l.persistwin = 0 ∨ l.beat < bits l.persistwin 31 0 →
    exec .heartbeatExpiry s = .next s) ∧
  (∀ (s : State) (l : Level), Sp.find s.levels s.cur = some l → l.persistwin ≠ 0 → bits l.persistwin 31 0 ≤ l.beat → let part := s.cur / 2 ^ 64; let h : W64 := BitVec.ofNat 64 s.cur
    ∃ (t : State), exec .heartbeatExpiry s = .next t ∧
      (∀ q ∈ unitsUnder s part h, (s.slot q.1).st ≠ .idle → (s.slot q.1).gen = q.2 → (s.slot q.1).trapvec ≠ 0 →
        ({ ins := .asyncCauseDelivery q.1 q.2 2 } : Op) ∈ t.agenda) ∧
      (unitsUnder s part h = [] → levelNames h = true → (Sp.find t.levels s.cur).map Level.cancelled = some true)) ∧
  (∀ (s : State) (slot : Nat) (gen : BitVec 32), let t := s.slot slot; t.st ≠ .idle → t.gen = gen →
    exec (.asyncCauseDelivery slot gen 0) s = .next (s.setSlot slot { t with cancel := true }) ∧
    exec (.asyncCauseDelivery slot gen 1) s = .next (s.setSlot slot { t with arAbort := true }) ∧
    exec (.asyncCauseDelivery slot gen 2) s = .next (s.setSlot slot { t with wdog := true }) ∧
    exec (.asyncCauseDelivery slot gen 3) s = .next (s.setSlot slot { t with tabFail := true })) ∧
  (∀ (s : State), let t := s.slot s.cur; t.st = .ready → t.trapvec ≠ 0 → t.trapcause.getLsbD 8 = false →
    (∀ cause info, t.owed = some (cause, info) → ∃ (u : State), exec .asyncCauseTaken s = .next u ∧ traps s u s.cur cause info ∧ (u.slot s.cur).owed = none) ∧
    (t.owed = none →
    (t.cancel = true → ∃ (u : State), exec .asyncCauseTaken s = .next u ∧ traps s u s.cur 0x0E 0 ∧ (u.slot s.cur).cancel = false) ∧
    (t.cancel = false → t.arAbort = true → ∃ (u : State) (info : W64), exec .asyncCauseTaken s = .next u ∧ traps s u s.cur 0x0B info ∧ (u.slot s.cur).arAbort = false ∧
      (u.slot s.cur).region = none) ∧
    (t.cancel = false → t.arAbort = false → t.wdog = true → ∃ (u : State), exec .asyncCauseTaken s = .next u ∧ traps s u s.cur 0x0D 0 ∧ (u.slot s.cur).wdog = false) ∧
    (t.cancel = false → t.arAbort = false → t.wdog = false → t.tabFail = true → ∃ (u : State), exec .asyncCauseTaken s = .next u ∧
      traps s u s.cur 0x0C 3 ∧ (u.slot s.cur).tabFail = false))) ∧
  (∀ (s : State) (slot : Nat) (gen : BitVec 32) (att : Nat), let t := s.slot slot; waitStands s slot gen att = true → arrivalFlying s slot gen = false → t.trapvec ≠ 0 →
    t.trapcause.getLsbD 8 = false →
    ((t.attempt.bind Attempt.limit).isSome = true → ∃ (u : State), exec (.waitTimeout slot gen att) s = .next u ∧ traps s u slot 0x09 (expiryInfo s slot)) ∧
    (∀ since, t.attempt.bind Attempt.watched = some since → since + (s.part (s.partOf (slotCluster slot))).wdogwin.toNat ≤ s.now →
      s.persistWin slot = 0 → ∃ (u : State), exec (.watchdog slot gen att) s = .next u ∧ traps s u slot 0x0D 0))

/-- The statements LevelForms, LevelEvents together, which rest on choices of the model where they say so: log 122, logs 23 and 142. -/
def Obligations.LevelRules : Prop :=
  Says.LevelForms ∧ Says.LevelEvents

/-- R31, R33, R71 to R74, R82, R174, R182 to R184, R187, R188. The life of a context beside its groups. A fault save leaves the slot idle with a
saved context that lists the faulted pages, or, with no frame, suspended; a record for each page goes out. A restore brings back the
program counter and every register of the frame; after DENY the unit traps ADDR. A unit starts from its ring entry with a new GEN, its
arguments in g4 on, STKTOP in g2, its record's key and header in g8 and g9, every other register zero and FULL. A wake at the head of a
ring is passed to the running unit whose GEN it has, or dropped and counted. A pre-emption saves the context, at a listed group even while
it waits to issue, or, with no frame, is dropped and leaves it as it was. A request for a slot that runs another unit by then does nothing. The
passing of a wake at a ring's head by a slot in any state is the model's reading (log 126). -/
def Says.ContextEvents : Prop :=
  (∀ (s : State), let t := s.slot s.cur; ∃ (u : State), exec .faultSave s = .next u ∧ (∀ j, j ≠ s.cur → u.slot j = s.slot j) ∧
    (((u.slot s.cur).st = .idle ∧ ∃ c ∈ (u.slot s.cur).saved, c.gen = t.gen ∧ c.fault = true ∧ c.pages = faultPages s t) ∨
     ((u.slot s.cur).st ≠ .idle ∧ (u.slot s.cur).gen = t.gen ∧ (u.slot s.cur).pages = faultPages s t)) ∧
    (t.pool = 0 → (u.slot s.cur).pages = faultPages s t ∧ ∃ w, (u.slot s.cur).st = .suspended w) ∧
    (∀ p ∈ faultPages s t, ∃ r : FaultRec, r.page = p ∧ r.slot = s.cur ∧ r.gen = t.gen ∧ r.part = s.partOf (slotCluster s.cur) ∧
      ({ ins := .faultRecordAtRouter (slotCluster s.cur) 0 r } : Op) ∈ u.agenda)) ∧
  (∀ (s : State) (c : Saved) (s1 : State) (img ext : Nat), restoreChoice s s.cur = some c → readFrames s s.cur c = some (s1, img, ext) →
    (∀ w, c.wake ≠ some (w, false)) → ∃ (u : State), exec .contextRestore s = .next u ∧ let r := u.slot s.cur
      r.pc = BitVec.ofNat 15 (imgWord img 0) ∧ r.st = c.back ∧ r.gen = BitVec.ofNat 32 (imgWord img 4) ∧ r.level = BitVec.ofNat 64 (imgWord img 5) ∧
      r.trappc = BitVec.ofNat 64 (imgWord img 8) ∧ r.trapcause = BitVec.ofNat 64 (imgWord img 9) ∧ r.trapvec = BitVec.ofNat 64 (imgWord img 12) ∧
      r.retired = BitVec.ofNat 64 (imgWord img 17) ∧ (∀ n, 0 < n → n < 24 → r.getG n = BitVec.ofNat 64 (imgWord img (32 + n))) ∧
      (∀ n, n < 16 → r.getV n = BitVec.ofNat 512 (img / 2 ^ (64 * (64 + 8 * n)))) ∧
      (∀ n, 0 < n → n < 8 → r.getK n = BitVec.ofNat 32 (img / 2 ^ (64 * 56 + 32 * n))) ∧
      (∀ n, 0 < n → n < 24 → r.empty n = !(imgWord img 2).testBit n) ∧ (∀ q ∈ r.saved, q.gen ≠ c.gen)) ∧
  (∀ (s : State) (c : Saved) (s1 : State) (img ext w : Nat), restoreChoice s s.cur = some c → readFrames s s.cur c = some (s1, img, ext) → c.wake = some (w, false) →
    imgWord img 12 ≠ 0 → (imgWord img 9).testBit 8 = false → ∃ (u : State), exec .contextRestore s = .next u ∧
      (u.slot s.cur).pc = BitVec.ofNat 15 (imgWord img 12) ∧ (u.slot s.cur).trapcause = 0x116 ∧ (u.slot s.cur).st = .ready) ∧
  (∀ (s : State) (cls i : Nat) (h : W64), s.slotEntry s.cur = some (cls, i, h) → let core := slotCore s.cur; let t := s.slot s.cur
    let w (k : Nat) : W64 := s.ringWord core cls (i + k); let info := Sp.get ({} : EntryInfo) (s.core core).entries (cls * 8192 + i)
    clsSlot ((s.core core).cls cls) = s.cur % 8 → t.st = .idle → s.wakeEntry s.cur = none → s.padClass s.cur = none →
    (bits h 7 0 = 1 → ∃ (u : State), exec .unitStart s = .next u ∧ let r := u.slot s.cur
      r.st = .ready ∧ r.gen = t.genNext ∧ r.genNext = t.genNext + 1 ∧ r.pc = (w 1).setWidth 15 ∧ r.level = w 2 ∧ r.corr = (w 3).setWidth 32 ∧
      r.pool = w 4 ∧ r.getG 2 = t.stktop ∧ r.stktop = t.stktop ∧ r.getG 4 = w 5 ∧ r.getG 5 = w 6 ∧ r.getG 6 = w 7 ∧ r.getG 7 = w 8 ∧
      r.getG 8 = info.key ∧ r.getG 9 = info.header ∧
      (∀ n, n ∉ [2, 4, 5, 6, 7, 8, 9] → r.getG n = 0) ∧ (∀ n, r.getV n = 0) ∧ (∀ n, n ≠ 0 → r.getK n = 0) ∧ (∀ c, r.empty c = false) ∧
      r.trapvec = 0 ∧ r.trapcause = 0 ∧ r.waitpol = 0 ∧ r.outst = [] ∧ r.stack = [] ∧
      (u.core core).head cls = (i + bits h 15 8) % clsSize ((s.core core).cls cls) ∧ u.mem = s.mem) ∧
    (bits h 7 0 = 2 → bits h 63 32 = 0 → ∃ (u : State), exec .unitStart s = .next u ∧ let r := u.slot s.cur
      r.st = .ready ∧ r.gen = t.genNext ∧ r.pc = (w 1).setWidth 15 ∧ r.level = info.level ∧ r.corr = info.corr ∧ r.getG 4 = w 2 ∧ r.getG 5 = w 3 ∧
      (∀ n, n ∉ [2, 4, 5] → r.getG n = 0))) ∧
  (∀ (s : State) (cls i : Nat) (h : W64), s.wakeEntry s.cur = some (cls, i, h) → let core := slotCore s.cur; let t := s.slot s.cur
    ∃ (u : State), exec .unitStart s = .next u ∧ u.slots = s.slots ∧ u.mem = s.mem ∧
      (u.core core).head cls = (i + bits h 15 8) % clsSize ((s.core core).cls cls) ∧
      (t.st ≠ .idle → t.gen.toNat = bits h 63 32 → (u.core core).count = (s.core core).count) ∧
      (t.st = .idle ∨ t.gen.toNat ≠ bits h 63 32 → (u.core core).count.gendrop = (s.core core).count.gendrop + 1)) ∧
  (∀ (s : State) (cls : Nat), s.wakeEntry s.cur = none → s.padClass s.cur = some cls → let core := slotCore s.cur
    ∃ (u : State), exec .unitStart s = .next u ∧ u.slots = s.slots ∧ u.mem = s.mem ∧ (u.core core).head cls = (s.core core).tail cls) ∧
  (∀ (s : State), let t := s.slot s.cur
    let out (u : State) : Prop := (∀ j, j ≠ s.cur → u.slot j = s.slot j) ∧
      (((u.slot s.cur).st = .idle ∧ ∃ c, (u.slot s.cur).saved = t.saved ++ [c] ∧ c.gen = t.gen ∧ c.fault = false ∧ c.back = .ready) ∨
       ((u.slot s.cur).st ≠ .idle ∧ (u.slot s.cur).preempt = none ∧ (u.slot s.cur).g = t.g ∧ (u.slot s.cur).pc = t.pc ∧
        (u.core (slotCore s.cur)).count.framefull = (s.core (slotCore s.cur)).count.framefull + 1))
    (t.st = .ready → ∃ (u : State), exec .preemptionForced s = .next u ∧ out u) ∧
    (t.st = .ready → sideEntry s (slotCore s.cur) t.pc.toNat = none → exec .preemption s = .next s) ∧
    (t.st = .ready → (sideEntry s (slotCore s.cur) t.pc.toNat).isSome = true → ∃ (u : State), exec .preemption s = .next u ∧ out u) ∧
    (∀ code, t.st = .waiting (.reg code) → sideEntry s (slotCore s.cur) t.pc.toNat = none → exec .preemption s = .next s) ∧
    (∀ code, t.st = .waiting (.reg code) → (sideEntry s (slotCore s.cur) t.pc.toNat).isSome = true →
      ∃ (u : State), exec .preemption s = .next u ∧ out u) ∧
    (∀ port, t.st = .waiting (.portIn port) ∨ t.st = .waiting (.portOut port) → ∃ (u : State), exec .preemption s = .next u ∧ out u)) ∧
  (∀ (s : State) (slot gen : W64), s.data = [slot, gen] → s.clusterHalted (slotCluster slot.toNat) = false → let q := s.slot slot.toNat
    ∃ (u : State), exec .preemptRequest s = .next u ∧ u.agenda = s.agenda ∧
      (q.st = .idle ∨ q.gen ≠ gen.setWidth 32 → u = s) ∧
      (q.st ≠ .idle → q.gen = gen.setWidth 32 → (u.slot slot.toNat).preempt = some (q.preempt.getD 0) ∧ (u.slot slot.toNat).g = q.g)) ∧
  (∀ (s : State) (r : ReadyRec) (v : W64), s.data = [v] → timedRecord s = some r → r.ask = none → s.clusterHalted s.cur = false → let c := s.cur
    (∀ slot, (∀ k, k < 128 → clsOn ((s.core (c * 128 + k)).cls r.body.cls) = true →
        s.coreVisible c k = true → (s.slot ((c * 128 + k) * 8 + clsSlot ((s.core (c * 128 + k)).cls r.body.cls))).st ≠ .idle) → preemptTarget s c r = some slot →
      ∃ (u : State), exec .preemptRequest s = .next u ∧ (u.slot slot).preempt = some ((s.slot slot).preempt.getD 0) ∧ (∀ j, j ≠ slot → u.slot j = s.slot j) ∧
        (∀ q ∈ (u.cluster c).ready, q.seq = r.seq → q.ask = some slot)) ∧
    (∀ k, k < 128 → s.coreVisible c k = true → clsOn ((s.core (c * 128 + k)).cls r.body.cls) = true →
        (s.slot ((c * 128 + k) * 8 + clsSlot ((s.core (c * 128 + k)).cls r.body.cls))).st = .idle → ∃ (u : State), exec .preemptRequest s = .next u ∧
      u.slots = s.slots ∧ u.clusters = s.clusters ∧ (opD c s.data .preemptRequest) ∈ Sp.get [] u.timers (s.now + 4096)))

/-- R66, R70, R73, R74. The fault tree and memory's own events. A record that a router has entered already is merged: only its port, and the
record's own path where it came unmerged, are noted; a new one is entered, or with a full table goes on unmerged with its cluster's number,
toward the fault service, where it is answered. A wake takes the entry away and goes to each of its
ports; at a cluster it reaches the saved contexts that wait for the page. A shoot-down drops the partition's translations in every slice.
An uncorrectable error loses the value on whichever path its reader is and resets every live partition it names; a corrected one is counted by
its block. The words of an ECC operation are the model's (log 128), and so are the service's verdict and frame (log 145). -/
def Says.FaultEvents : Prop :=
  (∀ (s : State) (r port : Nat) (f : FaultRec), let m := (s.router r).merge; let here (e : MergeEntry) : Bool := e.part == f.part && e.page == f.page
    (∀ e, m.find? here = some e → ∃ (t : State), exec (.faultRecordAtRouter r port f) s = .next t ∧ t.agenda = s.agenda ∧ t.slots = s.slots ∧
      (∀ e ∈ (t.router r).merge, here e = true → port ∈ e.ports ∧ (port, if f.loose then some f.src else none) ∈ e.paths)) ∧
    (m.find? here = none → m.length < 64 → r ≠ s.serviceRouter f.part →
      let e0 : MergeEntry := { part := f.part, page := f.page, ports := [port], paths := [(port, if f.loose then some f.src else none)] }
      let p := s.portTo r (s.serviceRouter f.part)
      ∃ (t : State), exec (.faultRecordAtRouter r port f) s = .next t ∧ (t.router r).merge = m ++ [e0] ∧
        t.agenda = s.agenda ++ [{ ins := .faultRecordAtRouter (routerStep r p) (backPort p) { f with loose := false } }]) ∧
    (m.find? here = none → 64 ≤ m.length → r ≠ s.serviceRouter f.part → let p := s.portTo r (s.serviceRouter f.part)
      ∃ (t : State), exec (.faultRecordAtRouter r port f) s = .next t ∧ (t.router r).merge = m ∧
        t.agenda = s.agenda ++ [{ ins := .faultRecordAtRouter (routerStep r p) (backPort p) { f with loose := true } }]) ∧
    (m.find? here = none → r = s.serviceRouter f.part → ∃ (t : State) (b : Bool), exec (.faultRecordAtRouter r port f) s = .next t ∧
      t.slots = s.slots ∧ (b = false → t.mem = s.mem) ∧ t.agenda = s.agenda ++
        [opD 0 [] (.faultWakeAtRouter r { part := f.part, page := f.page, ready := b, via := if m.length < 64 then none else some f.src })])) ∧
  (∀ (s : State) (r : Nat) (w : Wake) (e : MergeEntry), (s.router r).merge.find? (fun e => e.part == w.part && e.page == w.page) = some e →
    (w.via = none ∨ ∃ p ∈ e.paths, p.2 = w.via) → ∃ (t : State), exec (.faultWakeAtRouter r w) s = .next t ∧ (∀ q ∈ (t.router r).merge, ¬(q.part = w.part ∧ q.page = w.page)) ∧
      t.agenda = s.agenda ++ e.paths.map (fun p => opD 0 [] (if p.1 = 0 then .faultWake r { w with via := p.2 } else .faultWakeAtRouter (routerStep r p.1) { w with via := p.2 }))) ∧
  (∀ (s : State) (r : Nat) (w : Wake), (s.router r).merge.find? (fun e => e.part == w.part && e.page == w.page) = none →
    ∃ (t : State), exec (.faultWakeAtRouter r w) s = .next t ∧ t.slots = s.slots ∧ t.routers = s.routers ∧
      (w.via = none → t = s) ∧ (w.via = some r → t.agenda = s.agenda ++ [{ ins := .faultWake r w }]) ∧
      (∀ c q, w.via = some c → c ≠ r → routerBefore r (pathTo s c (s.serviceRouter w.part) 32) = some q →
        t.agenda = s.agenda ++ [{ ins := .faultWakeAtRouter q w }])) ∧
  (∀ (s : State) (c : Nat) (w : Wake) (r : FaultRec) (k : Saved), (s.cluster c).dbgctl.getLsbD 0 = false → (s.cluster c).faultWait = [r] → r.part = w.part → r.page = w.page →
    r.engine = 0 → k ∈ (s.slot r.slot).saved → k.gen = r.gen → k.wake = none → w.page ∈ k.pages → ∃ (t : State), exec (.faultWake c w) s = .next t ∧
      (t.cluster c).faultWait = [] ∧ { k with wake := some (s.now, w.ready) } ∈ (t.slot r.slot).saved ∧ t.mem = s.mem) ∧
  (∀ (s : State), ∃ (t : State), exec .shootdown s = .next t ∧ t.mem = s.mem ∧ t.slots = s.slots ∧ ∀ i, (t.slice i).tcache =
    (s.slice i).tcache.filter fun e => e.1 / 2 ^ 30 != s.cur) ∧
  (∀ (s : State) (path who gen tag : W64) (ps : List W64), s.data = path :: who :: gen :: tag :: ps →
    ∃ (t : State), exec .eccUncorrectable s = .next t ∧ t.mem = s.mem ∧ (∀ p ∈ ps, (s.part p.toNat).live = true → opD p.toNat [2] .partitionReset ∈ t.agenda) ∧
    (path = 0 → t.slots = s.slots ∧ ∀ v : V512, ({ ins := .fill who.toNat (gen.setWidth 32) tag.toNat v } : Op) ∉ t.agenda) ∧
    (path = 1 → t.slots = s.slots ∧ Sp.find t.copies who.toNat = none) ∧
    (path = 2 → t.slots = s.slots ∧ (t.arr who.toNat).page = some (noPage, 0, 0) ∧ ∀ o ∈ t.agenda, o.ins = .macroStep → o.who ≠ who.toNat) ∧
    (path = 3 → gen = 0 → t.slots = s.slots ∧ (∀ o ∈ t.agenda, o.ins = .hostRmaRead → o.who ≠ who.toNat) ∧
      ((∃ o ∈ s.agenda, o.ins = .hostRmaRead ∧ o.who = who.toNat) → t.out = s.out ++ [{ who := who.toNat, status := 1, data := [] }])) ∧
    (path = 4 → let q := s.slot who.toNat; q.st = .ready → q.gen = gen.setWidth 32 → ∃ g, (t.slot who.toNat).st = .waiting (.answer g) ∧
      (t.slot who.toNat).pc = q.pc ∧ ∀ v : V512, ({ ins := .fill who.toNat q.gen g v } : Op) ∈ t.agenda →
        ({ ins := .fill who.toNat q.gen g v } : Op) ∈ s.agenda)) ∧
  (∀ (s : State) (block n : W64), s.data = [block, n] → let core := s.cur * 128 + n.toNat % 128
    ∃ (t : State), exec .eccUncorrectable s = .next t ∧ t.slots = s.slots ∧ t.mem = s.mem ∧
    (block = 3 → t.cores = s.cores ∧ (t.slice s.cur).eccfix = (s.slice s.cur).eccfix + 1) ∧
    (block.toNat < 3 → t.slices = s.slices ∧
      Sp.get 0 (t.core core).count.eccfix block.toNat = Sp.get 0 (s.core core).count.eccfix block.toNat + 1) ∧
    (3 < block.toNat → block.toNat < 9 → t.cores = s.cores ∧ t.slices = s.slices ∧
      Sp.get 0 (t.cluster s.cur).eccfix block.toNat = Sp.get 0 (s.cluster s.cur).eccfix block.toNat + 1) ∧
    (9 ≤ block.toNat → t.cores = s.cores ∧ t.slices = s.slices ∧ t.clusters = s.clusters ∧
      Sp.get 0 (t.dev (clusterDev s.cur)).eccfix block.toNat = Sp.get 0 (s.dev (clusterDev s.cur)).eccfix block.toNat + 1))

/-- The statements ContextEvents, FaultEvents together, which rest on choices of the model where they say so: log 126, log 128, log 145. -/
def Obligations.ContextAndFaultEvents : Prop :=
  Says.ContextEvents ∧ Says.FaultEvents

/-- R94 to R96, R137, R176 to R178, R182. The scheduler of a cluster and the Sorting Office's placement. A record enters the ready queue and its
launch counts it where its source has not; a full queue refuses it and it comes again. The selected record is written to its core's ring.
A record that has waited long rises one level, once. A cluster with nothing to do takes a neighbour's record. A report tells a cluster's
idle slots, room and frames; a launch's next unit goes to the first placeable core of the best cluster, or, once no cluster reports an idle
slot, the rest to the ready queues in turn; a gang starts as a whole, but for a member a protection region refuses, which ends with an error. What a report
counts, and where units go before a report, are the model's reading (log 28); a stolen record's priority (log 118) and a gang's cores (log 135)
are its choices. -/
def Obligations.SchedulerEvents : Prop :=
  (∀ (s : State) (c : Nat) (r : TaskRec), let x := s.cluster c
    (x.ready.length < 4096 → (∀ l, s.liveLevel r.home r.level = some l → l.outstanding + 1 < 2 ^ 32) → ∃ (t : State) (e : ReadyRec), exec (.recordEnqueue c r) s = .next t ∧
      (t.cluster c).ready = x.ready ++ [e] ∧ e.pri = r.pri ∧ e.raised = false ∧ e.body = { r with enq := s.ptpTime (clusterDev c) } ∧
      t.mem = s.mem ∧ t.slots = s.slots ∧ (∀ l, s.liveLevel r.home r.level = some l → (t.liveLevel r.home r.level).map Level.outstanding =
        some (if r.source = 1 ∨ r.source = 2 ∨ r.source = 3 then l.outstanding + 1 else l.outstanding))) ∧
    (4096 ≤ x.ready.length → ∃ (t : State), exec (.recordEnqueue c r) s = .next t ∧ (t.cluster c).enqrefuse = x.enqrefuse + 1 ∧
      (t.cluster c).ready = x.ready ∧ t.agenda = s.agenda ++ [{ ins := .enqueueRetry c r }]) ∧
    exec (.enqueueRetry c r) s = .next { s with agenda := s.agenda ++ [{ ins := .recordEnqueue c r }] }) ∧
  (∀ (s : State) (r : ReadyRec) (core at0 : Nat), dispatchChoice s s.cur = some (r, core) → let cls := r.body.cls; let w := (s.core core).cls cls
    (s.core core).ringFit cls 9 = some (0, at0) → s.niAllows core r.body.level ((List.range 9).map (fun j => clsBase w + 8 * (at0 + j))) = true →
    (∀ j, j < 9 → s.guarded core (ringOff w (at0 + j)) = false) →
    ∃ (t : State), exec .schedulerDispatch s = .next t ∧ (∀ q ∈ (t.cluster s.cur).ready, q.seq ≠ r.seq) ∧
      (t.core core).tail cls = (at0 + 9) % clsSize w ∧ t.slots = s.slots ∧
      (∀ j, j < 9 → t.read (scratchLoc core (ringOff w (at0 + j))) 8 = ((ringHeader 0 r.body.phase 9 1 :: recordWords r.body).getD j 0).toNat)) ∧
  (∀ (s : State) (r : ReadyRec) (n : W64), s.data = [n] → (s.cluster s.cur).ready.find? (fun q => q.seq == n.toNat) = some r → ∃ (t : State), exec .priorityAging s = .next t ∧
    (t.cluster s.cur).ready = (s.cluster s.cur).ready.map (fun q => if q.seq = n.toNat ∧ q.raised = false
      then { q with raised := true, pri := Nat.min 3 (q.pri + 1) } else q) ∧ t.slots = s.slots ∧ t.mem = s.mem) ∧
  (∀ (s : State) (p k : Nat), let c := s.cur; let n := routerStep c 1; (s.cluster c).part = some p → (s.cluster c).ready = [] → k < 1024 →
    (s.slot (c * 1024 + k)).st = .idle → s.coreVisible c (k / 8) = true → (s.cluster n).part = some p → n ≠ c → ∀ r, stealChoice (s.cluster n).ready = some r →
    ∃ (t : State) (e : ReadyRec), exec .stealProbe s = .next t ∧ (t.cluster c).ready = [e] ∧ e.body = { r.body with source := 4, launched := recordLaunched r.body } ∧ e.pri = r.pri ∧
      (t.cluster n).ready = (s.cluster n).ready.filter (fun q => q.seq != r.seq) ∧ t.slots = s.slots) ∧
  (∀ (s : State) (p k : Nat), let c := s.cur; (s.cluster c).part = some p → (s.cluster c).ready = [] → k < 1024 → (s.slot (c * 1024 + k)).st = .idle →
    s.coreVisible c (k / 8) = true →
    (∀ d, d < 5 → (s.cluster (routerStep c d)).ready = []) → ∃ (t : State), exec .stealProbe s = .next t ∧
      (t.cluster c).stealfail = (s.cluster c).stealfail + 1 ∧ ({ who := c, ins := .stealProbe } : Op) ∈ Sp.get [] t.timers (s.now + 512)) ∧
  (∀ (s : State) (p : Nat), let c := s.cur; (s.cluster c).part = some p → ∃ (t : State), exec .clusterReport s = .next t ∧
    Sp.get 0 (t.part p).idle (s.relCluster c) = ((List.range 128).filter fun k => let core := c * 128 + k; let w := (s.core core).cls 0
      clsOn w && (s.slot (core * 8 + clsSlot w)).st == .idle && s.coreVisible c (core % 128)).length ∧
    Sp.get 0 (t.part p).room (s.relCluster c) = 4096 - (s.cluster c).ready.length ∧ Sp.get 0 (t.part p).frames (s.relCluster c) = clusterFrames s c ∧
    ({ who := c, ins := .clusterReport } : Op) ∈ Sp.get [] t.timers (s.now + 1024) ∧ t.slots = s.slots ∧ t.mem = s.mem) ∧
  (∀ (s : State) (p : Placing) (l : List Placing), let q := s.part s.cur; q.placing = p :: l → let next (r : TaskRec) : Prop := r.pc = p.body.pc ∧ r.level = p.body.level ∧
      r.args = (p.body.args.headD 0 + p.step * BitVec.ofNat 64 p.next) :: p.body.args.tail
    let rest : List Placing := if p.units ≤ p.next + 1 then l else { p with next := p.next + 1 } :: l
    (∀ i core, p.gang = 0 → p.rest = false → bestCluster q = some i → (clusterCores (q.clusters.getD i 0)).find? (fun k => s.placeable k) = some core →
      ∃ (t : State) (m : Msg), exec .unitPlacement s = .next t ∧ (t.part s.cur).placing = rest ∧ (t.core core).placed = true ∧ t.mem = s.mem ∧
        Sp.get 0 (t.part s.cur).idle i = Sp.get 0 q.idle i - 1 ∧ Sends s t s.cur { ins := .messageArrival m } ∧ m.dst = core ∧
        m.isTask = true ∧ next m.body) ∧
    (∀ i, p.gang = 0 → p.rest = false → bestCluster q = some i → (clusterCores (q.clusters.getD i 0)).find? (fun k => s.placeable k) = none →
      ∃ (t : State), exec .unitPlacement s = .next t ∧ (t.part s.cur).placing = q.placing ∧ Sp.get 0 (t.part s.cur).idle i = 0 ∧ t.agenda = s.agenda) ∧
    (p.gang = 0 → p.rest = true ∨ bestCluster q = none → ∃ (t : State) (r : TaskRec), exec .unitPlacement s = .next t ∧
      (t.part s.cur).placing = (if p.units ≤ p.next + 1 then l else { p with next := p.next + 1, rest := true } :: l) ∧ next r ∧
      t.agenda = s.agenda ++ [{ ins := .recordEnqueue (q.clusters.getD (q.rr % Nat.max 1 q.clusters.length) 0) r }]) ∧
    (∀ cores s1, let g := Nat.min p.gang (p.units - p.next); gangCores s q g = some cores → p.gang ≠ 0 → g ≠ 0 →
      gangRecords (presetPipes s cores p.body.phase (p.pipes.filter fun e => decide (e.1 < cores.length ∧ e.2.2.1 < cores.length))) p cores 0 = some s1 →
      ∃ (t : State), exec .gangPlacement s = .next t ∧ t.mem = s1.mem ∧ (∀ k ∈ cores, (t.core k).placed = true ∨
          (t.core k).count.classdrop = (s.core k).count.classdrop + 1 ∧ endedOp p.body.home p.body.level 1 ∈ t.agenda) ∧ (t.part s.cur).placing = if p.units ≤ p.next + g then l else { p with next := p.next + g } :: l))

/-- R44, R292 to R296. The copy forms: CPY takes length and completion target from d; CPYS, CPY3 and CPYM read their descriptor from the core's
scratchpad. Where both ends are places the unit may name and the target is well formed the copy begins and the group retires. The TRAPADDR of a
malformed target is the model's reading (log 40). -/
def Says.CopyForms : Prop :=
  let hi (w : W64) : BitVec 32 := BitVec.ofNat 32 (bits w 63 32)
  let reads (s' : State) (a : W64) : Prop := a.toNat % 32 = 0 ∧ LocalOk s' a 32 true false
  (∀ (x : Fld) (s : State) (v : Vals) (s' : State), operands { d := .g, dSrc := true, a := .g, b := .g } x s = .run v s' →
    CopyOk s' v.a v.b (hi v.d) → ∃ (t : State), exec (.cpy x) s = .next t ∧
      Copying x s s' t v.a v.b 0 0 1 (bits v.d 31 0) (hi v.d) (syncCore s' v.b) false) ∧
  (∀ (x : Fld) (s : State) (v : Vals) (s' : State), operands uA x s = .run v s' → reads s' v.a →
    let s1 := (s'.tick.look 0 s'.tick.viewer (scratchLoc (slotCore s.cur) v.a.toNat) 32).1
    let w := wordsAt s' v.a.toNat 4; let w0 := w.getD 0 0; let w1 := w.getD 1 0; let w2 := w.getD 2 0; let w3 := w.getD 3 0
    (CopyOk s' w0 w1 (hi w3) → ∃ (t : State), exec (.cpys x) s = .next t ∧
      Copying x s s1 t w0 w1 (bits w2 23 0) (bits w2 47 24) (bits w2 63 48 + 1) (bits w3 31 0) (hi w3) (syncCore s' w1) false) ∧
    (CopyOk s' w0 w1 (hi w2) → ((hi w2).getLsbD 30 = true ∨ (hi w2).getLsbD 31 = true) → w3 = 0 → ∃ (t : State), exec (.cpy3 x) s = .next t ∧
      Copying x s s1 t w0 w1 0 0 1 (bits w2 31 0) (hi w2) 0 false) ∧
    (∀ core cls, CopyOk s' w0 w1 (hi w2) → (hi w2).getLsbD 30 = false → (hi w2).getLsbD 31 = false → bits w3 39 0 = 0 →
      s'.placeOf (s'.partOf (slotCluster s.cur)) w3 = some (core, cls) → ∃ (t : State), exec (.cpy3 x) s = .next t ∧
      Copying x s s1 t w0 w1 0 0 1 (bits w2 31 0) (hi w2) core false) ∧
    (CopyOk s' w0 w1 (hi w2) → bits w3 63 7 = 0 → w1.getLsbD 56 = false → let n := bits w3 6 0 + 1
      (∀ i, i < n → s'.coreVisible (coreCluster (syncCore s' w1)) (bits w1 25 19 + i) = true) → ∃ (t : State), exec (.cpym x) s = .next t ∧
      Copying x s s1 t w0 w1 0 (2 ^ 19) n (bits w2 31 0) (hi w2) (syncCore s' w1) true)) ∧
  TrapsAt { d := .g, dSrc := true, a := .g, b := .g } .cpy (fun _ v s => targetOk s (hi v.d) = false) (fun _ v _ => { cause := 0x16, addr := v.d })

/-- R44, R75, R292, R295 to R297. A copy at work. Bytes of one row and page that every check lets pass are accepted once their piece has a courier's
tag; the courier looks once at the masks of every core it is to read from, and a core that grants nothing makes it refuse the copy. Those of a
scratchpad line are read as path Y sees them then; bytes that arrive are stored at their destination, exactly those; with nothing left the completion follows: none,
a decrement of a counter by 1, or the bytes added to a sync word (a CPYM's once for each core), and with no update to await the copy's entry
is acknowledged. One update for a whole copy is the model's reading (log 37). -/
def Says.CopyEvents : Prop :=
  let whole (s : State) (j : CopyJob) : Prop := Sp.find s.copies s.cur = some j ∧ j.rows = 1 ∧ 0 < j.len ∧ j.todo = [(0, j.len)] ∧
    j.src.toNat % 65536 + j.len ≤ 65536
  let granted (s : State) (j : CopyJob) : Prop := j.courier s.tick 0 ∈ j.looked ∨ maskRefused s.tick j (j.courier s.tick 0) = none
  let begun (s : State) (j : CopyJob) : CopyJob := { j with todo := [], looked := (j.courier s.tick 0 :: j.looked).eraseDups }
  (∀ (s s1 : State) (j : CopyJob) (h : Target) (l : Nat), whole s j → j.accepted = [] → j.flying = [] → tagFree s.tick j 0 = true → granted s j →
    acceptCheck s.tick (begun s j) 0 j.len = (s1, .loc h l) → firstRefused s1 (begun s j) 0 j.len = none → ∃ (t : State), exec .copyAccept s = .next t ∧
      Sp.find t.copies s.cur = some { begun s j with accepted := [(0, j.len)] } ∧ Answers t { who := s.cur, ins := .copyDelivery } ∧
      t.mem = s1.mem ∧ t.slots = s1.slots) ∧
  (∀ (s : State) (j : CopyJob), whole s j → tagFree s.tick j 0 = false → ∃ (t : State), exec .copyAccept s = .next t ∧ t.copies = s.copies ∧
      t.agenda = s.agenda ++ [{ who := s.cur, ins := .copyAccept }] ∧ t.mem = s.mem ∧ t.slots = s.slots) ∧
  (∀ (s s1 : State) (j : CopyJob) (cause : Nat), whole s j → tagFree s.tick j 0 = true → granted s j →
    acceptCheck s.tick (begun s j) 0 j.len = (s1, .refused cause) → s1.copies = s.copies → ∃ (t : State), exec .copyAccept s = .next t ∧
      Sp.find t.copies s.cur = none ∧ Sends s1 t j.part { ins := .refusalArrival j.slot j.gen s.cur cause j.src }) ∧
  (∀ (s : State) (j : CopyJob) (b : Nat), whole s j → tagFree s.tick j 0 = true → j.courier s.tick 0 ∉ j.looked →
    maskRefused s.tick j (j.courier s.tick 0) = some b → ∃ (t : State), exec .copyAccept s = .next t ∧ Sp.find t.copies s.cur = none ∧
      Sends s t j.part { ins := .refusalArrival j.slot j.gen s.cur causeCopyPerm (j.srcAt b) }) ∧
  (∀ (s : State) (j : CopyJob) (core off : Nat), Sp.find s.copies s.cur = some j → s.data = [] → sendable s.tick j = [(0, j.len)] → j.rows = 1 → 0 < j.len →
    j.accepted = [(0, j.len)] → j.flying = [] → j.src.toNat % 64 + j.len ≤ 64 → j.dst.toNat % 64 + j.len ≤ 64 →
    (∀ i, i < j.len → s.globalTarget j.part (j.src + BitVec.ofNat 64 i) = some (.scratch core (off + i)) ∧ s.guarded core (off + i) = false) →
    ∃ (t : State) (i n : Nat), exec .copyDelivery s = .next t ∧ i < j.len ∧ Sp.find t.copies s.cur = some { j with
      accepted := if i = 0 then [] else [(0, i)],
      flying := [(i, j.len - i, BitVec.ofNat 512 n)] } ∧ SeenOn s.tick 1 (scratchLoc core (off + i)) (j.len - i) n ∧
      Answers t { who := s.cur, ins := .copyDelivery } ∧ t.mem = s.mem ∧ t.slots = s.slots) ∧
  (∀ (s s2 : State) (j : CopyJob) (f : Nat × Nat × V512) (k off l : Nat), Sp.find s.copies s.cur = some j → j.todo = [] → j.accepted = [] →
    j.flying = [f] → j.held = [] → j.stuck = [] → s.data = [] → let a := j.dstAt f.1
    s.linkFrom (courierRouter (j.courier s.tick f.1)) (bits a 55 46) = true → a.getLsbD 56 = false →
    s.tick.copyHome j.accessor (j.dstAt f.1) f.2.1 false true =
      (s2, .loc (.scratch k off) l) → ∃ (t : State), exec .copyDelivery s = .next t ∧ Stored s2 t l f.2.2.toNat f.2.1 ∧
      Sp.find t.copies s.cur = some { j with flying := [] } ∧ Answers t { who := s.cur, ins := .copyCompletion } ∧ t.slots = s2.slots) ∧
  (∀ (s : State) (j : CopyJob) (f : Nat × Nat × V512), Sp.find s.copies s.cur = some j → s.data = [] → j.accepted = [] → j.flying = [f] →
    s.linkFrom (courierRouter (j.courier s.tick f.1)) (bits (j.dstAt f.1) 55 46) = false → ∃ (t : State), exec .copyDelivery s = .next t ∧
      Sp.find t.copies s.cur = none ∧ t.mem = s.mem ∧ Sends s t j.part { ins := .refusalArrival j.slot j.gen s.cur 0x16 (j.dstAt f.1) }) ∧
  (∀ (s : State) (j : CopyJob), Sp.find s.copies s.cur = some j → let off := bits (j.target.setWidth 64) 18 0
    (j.target.getLsbD 30 = true → ∃ (t : State), exec .copyCompletion s = .next t ∧ Sp.find t.copies s.cur = none ∧
      SendsAll s t j.part [{ ins := .accessAcknowledge j.slot j.gen s.cur }] ∧ t.mem = s.mem ∧ t.slots = s.slots) ∧
    (j.target.getLsbD 30 = false → j.target.getLsbD 31 = true → ∃ (t : State), exec .copyCompletion s = .next t ∧ t.mem = s.mem ∧
      Sp.find t.copies s.cur = some { j with left := if j.multi then j.rows else 1 } ∧
      SendsAll s t j.part (List.replicate (if j.multi then j.rows else 1) { ins := .dcDecrement j.part off 1 j.slot j.gen s.cur })) ∧
    (j.target.getLsbD 30 = false → j.target.getLsbD 31 = false → j.multi = false → ∃ (t : State) (a : Access), exec .copyCompletion s = .next t ∧
      SendsAll s t j.part [{ ins := .syncWordUpdate a 1 }] ∧ a.op = .swadd ∧ a.ea = s.globalOf j.place off ∧ a.tag = s.cur ∧
      a.d0 = BitVec.ofNat 64 (j.rows * j.len) ∧ a.slot = j.slot ∧ t.mem = s.mem) ∧
    (j.target.getLsbD 30 = false → j.target.getLsbD 31 = false → j.multi = true → ∃ (t : State) (as : List Access), exec .copyCompletion s = .next t ∧
      SendsAll s t j.part (as.map fun a => { ins := .syncWordUpdate a 1 }) ∧ t.mem = s.mem ∧
      as.map Access.ea = (List.range j.rows).map (fun i => s.globalOf (j.place + i) off) ∧ ∀ a ∈ as, a.d0 = BitVec.ofNat 64 j.len ∧ a.tag = s.cur))

/-- The statements CopyForms, CopyEvents together, which rest on choices of the model where they say so: log 40, log 37. -/
def Obligations.CopyRules : Prop :=
  Says.CopyForms ∧ Says.CopyEvents

/-- R110, R356 to R363. The tabled forms. TCALL, TPIN, TUNPIN and TINV ask for their descriptor and keep the slot waiting; TQRY is a load whose
key arguments are captured; TRET of an untabled call returns to g1 with 3 in g3 and restores the stack pointer, of a tabled one sends
g4 to g7 to the entry's home and waits, as TSEED does; TSEED of an untabled call does nothing; both trap TABLED_FAIL on an empty stack. -/
def Says.TabledForms : Prop :=
  let asks (kind : Nat) (desc : W64) (tag : Nat) (s s' t : State) (args : List W64) (idx : Nat) : Prop := let r := s.slot s.cur
    Sends s' t (s'.partOf (slotCluster s.cur)) (opD s.cur [] (.tabledRequest
      { kind := kind, slot := s.cur, gen := r.gen, tag := tag, part := s'.partOf (slotCluster s.cur), desc := desc, args := args, level := r.level, home := r.home, idx := idx, words := [] }))
  let sends (kind : Nat) (x : Fld) (e : W64) (s s' t : State) : Prop := let r := s.slot s.cur; let tag := s'.netTag r.phase
    Asked x [] false tag s' t ∧ Sends s' t (s'.partOf (slotCluster s.cur)) (opD s.cur [] (.tabledAnswer kind (s'.partOf (slotCluster s.cur)) e
      [r.getG 4, r.getG 5, r.getG 6, r.getG 7] s.cur r.gen tag))
  (∀ (x : Fld) (s : State) (v : Vals) (s' : State), operands { uA with extra := [1, 3] } x s = .run v s' → (s.slot s.cur).stack.length < 64 → DescOk s' v.a →
    (∀ o ∈ (s.slot s.cur).outst, o.len = 0) → let tag := s'.netTag (s.slot s.cur).phase
    ∃ (t : State), exec (.tcall x) s = .next t ∧ Asked x [] false tag s' t ∧ asks 0 v.a tag s s' t [] 0) ∧
  (∀ (x : Fld) (s : State) (v : Vals) (s' : State), operands uDA x s = .run v s' → DescOk s' v.a →
    (∀ o ∈ (s.slot s.cur).outst, o.len = 0) → let tag := s'.netTag (s.slot s.cur).phase
    (∃ (t : State), exec (.tpin x) s = .next t ∧ Asked x [x.d.toNat] false tag s' t ∧ asks 1 v.a tag s s' t [] 0) ∧
    (∃ (t : State), exec (.tunpin x) s = .next t ∧ Asked x [x.d.toNat] false tag s' t ∧ asks 2 v.a tag s s' t [] 0) ∧
    (∃ (t : State), exec (.tinv x) s = .next t ∧ Asked x [x.d.toNat] false tag s' t ∧ asks 3 v.a tag s s' t [] 0)) ∧
  (∀ (x : Fld) (s : State) (v : Vals) (s' : State), operands { d := .g, dDst := true, a := .g, b := .g, extra := [4, 5, 6, 7] } x s = .run v s' →
    v.b.toNat < 16 → DescOk s' v.a → s'.entryFree s.cur false = true → let r := s.slot s.cur
    ∃ (t : State) (tag : Nat), exec (.tqry x) s = .next t ∧ asks 4 v.a tag s s' t [r.getG 4, r.getG 5, r.getG 6, r.getG 7] v.b.toNat ∧
      (x.d ≠ 0 → (t.slot s.cur).empty x.d.toNat = true) ∧ (t.slot s.cur).g = r.g ∧ (t.slot s.cur).pc = BitVec.ofNat 15 (nextPc x r) ∧
      (∃ o : Outst, (t.slot s.cur).outst = r.outst ++ [o] ∧ o.tag = tag ∧ o.dests = [x.d.toNat]) ∧ t.mem = s.mem) ∧
  (∀ (x : Fld) (s : State) (v : Vals) (s' : State) (e : W64), operands { extra := [1, 2, 3] } x s = .run v s' → let r := s.slot s.cur
    r.stack.getLast? = some e → (r.getG 1).toNat < 0x4000 →
    (e.getLsbD 56 = true → ∃ (t : State), exec (.tret x) s = .next t ∧ OnlySlot s' t ∧ (t.slot s.cur).pc = (r.getG 1).setWidth 15 ∧
      (t.slot s.cur).stack = r.stack.dropLast ∧ (t.slot s.cur).getG 3 = 3 ∧
      (t.slot s.cur).getG 2 = BitVec.ofNat 64 ((r.getG 2).toNat / 2 ^ 19 * 2 ^ 19 + e.toNat % 2 ^ 19) ∧
      (∀ n, n ≠ 2 → n ≠ 3 → (t.slot s.cur).getG n = r.getG n) ∧ (t.slot s.cur).v = r.v ∧ (t.slot s.cur).k = r.k ∧
      (t.slot s.cur).retired = r.retired + 1) ∧
    (e.getLsbD 56 = false → emptyAnswer s' r (s'.partOf (slotCluster s.cur)) e true = none → (∀ o ∈ r.outst, o.len = 0) → (∀ o ∈ r.outst, o.write = false) →
      ∃ (t : State), exec (.tret x) s = .next t ∧ sends 1 x e s s' t)) ∧
  TrapsAt { extra := [1, 2, 3] } .tret (fun _ _ s => (s.slot s.cur).stack = []) (fun _ _ _ => { cause := 0x0C, addr := 0, info := 5 }) ∧
  TrapsAt uNone .tseed (fun _ _ s => (s.slot s.cur).stack = []) (fun _ _ _ => { cause := 0x0C, addr := 0, info := 5 }) ∧
  Completes uNone .tseed (fun _ _ s => ∃ e, (s.slot s.cur).stack.getLast? = some e ∧ e.getLsbD 56 = true) (fun _ _ s => s) ∧
  (∀ (x : Fld) (s : State) (v : Vals) (s' : State) (e : W64), operands uNone x s = .run v s' → let r := s.slot s.cur
    r.stack.getLast? = some e → e.getLsbD 56 = false → emptyAnswer s' r (s'.partOf (slotCluster s.cur)) e false = none → (∀ o ∈ r.outst, o.len = 0) →
    ∃ (t : State), exec (.tseed x) s = .next t ∧ sends 0 x e s s' t)

/-- R107, R109, R111, R113, R114, R117, R357 to R362. Tabled calls at the home of their key. The first request for a key makes the caller its
producer, with the entry on its stack; one for a COMPLETE key is answered; where the walk has found no cycle the caller waits as a
CONSUMER; a TPIN pins a COMPLETE entry and a TQRY reads a word. A producer's TRET completes the entry and wakes every waiter with its
answer; a TSEED sets the answer. A delivery writes the answer words to g4 on and the outcome to g3, or enters the callee. A killed producer
leaves its entry EMPTY, and its consumers issue their calls again; a trap that reaches a stopped slot is owed until the stop is over. A
producer killed at RETRY 3 is treated as at 2 by the model's choice (log 121; R111 names RETRY = 2); TPIN's outcomes, TSEED and RETRY's life are
its reading (logs 46 to 48). -/
def Says.TabledEvents : Prop :=
  let flies (s t : State) (part who : Nat) (m : TabledMsg) : Prop :=
    ∃ h, Held s part h ∧ { opD who [] (.tabledDelivery m) with inj := h } ∈ t.agenda
  let last (s t : State) (part who : Nat) (P : TabledMsg → Prop) : Prop := ∃ m, P m ∧ Sends s t part (opD who [] (.tabledDelivery m))
  (∀ (s s2 : State) (r : TabledReq) (k off l : Nat), s.hasEntry r.slot r.gen r.tag = true → r.words = [] → r.desc.getLsbD 56 = false →
    s.homeOf (accAccessor (reqAccess s r) (slotCore r.slot)) r.desc 32 true false = (s2, .loc (.scratch k off) l) →
    ∃ (t : State), exec (.tabledRequest r) s = .next t ∧ t.mem = s2.mem ∧ Answers t (opD r.slot [] (.tabledRequest { r with
      words := (List.range 4).map fun i => BitVec.ofNat 64 (s2.read (l + 8 * i) 8) }))) ∧
  (∀ (s : State) (r : TabledReq), let t0 := s.slot r.slot; let args := [t0.getG 4, t0.getG 5, t0.getG 6, t0.getG 7]; let q := { r with args := args }
    let pl := keyPlace s r.part (keyHash r.desc (dArgc r.words) args)
    s.hasEntry r.slot r.gen r.tag = true → r.words ≠ [] → r.kind = 0 → descBad r.words = false → emptyArg t0 r = none → s.relCluster pl.1 < 128 →
    (∀ i, findKey s q = none → freeWay s pl = some i → ∃ (t : State) (e : Pigeon), exec (.tabledRequest r) s = .next t ∧ t.pigeonAt (pl.1, i) = some e ∧
      e.st = 1 ∧ e.prodSlot = r.slot ∧ e.prodGen = r.gen ∧ e.desc = r.desc ∧ e.args = keyArgs r.words args ∧ e.waiters = [] ∧
      (∃ w, (t.slot r.slot).stack = t0.stack ++ [w] ∧ w.getLsbD 56 = false) ∧ last s t r.part r.slot (delivers 1 r.slot r.gen r.tag [] 0)) ∧
    (∀ i e, findKey s q = some (i, e) → e.st = 2 → ∃ (t : State), exec (.tabledRequest r) s = .next t ∧ (t.slot r.slot).stack = t0.stack ∧
      last s t r.part r.slot (delivers 0 r.slot r.gen r.tag (e.ans.take (e.ansc + 1)) (BitVec.ofNat 64 (e.version.toNat * 65536)))) ∧
    (findKey s q = none → freeWay s pl = none → ∃ (t : State), exec (.tabledRequest r) s = .next t ∧
      (∃ w, (t.slot r.slot).stack = t0.stack ++ [w] ∧ w.getLsbD 56 = true) ∧ last s t r.part r.slot (delivers 2 r.slot r.gen r.tag [] 0))) ∧
  (∀ (s : State) (r : TabledReq) (i : Nat) (e : Pigeon), let t0 := s.slot r.slot; let args := [t0.getG 4, t0.getG 5, t0.getG 6, t0.getG 7]
    s.hasEntry r.slot r.gen r.tag = true → r.words ≠ [] → descBad r.words = false → findKey s { r with args := args } = some (i, e) → emptyArg t0 r = none →
    r.kind = 1 → e.st = 2 → e.pin = false → ∃ (t : State), exec (.tabledRequest r) s = .next t ∧ Sends s t r.part { ins := .fill r.slot r.gen r.tag 14 } ∧
      (t.pigeonAt ((keyPlace s r.part (keyHash r.desc (dArgc r.words) args)).1, i)).map Pigeon.pin = some true) ∧
  (∀ (s : State) (r : TabledReq) (i : Nat) (e : Pigeon), s.hasEntry r.slot r.gen r.tag = true → r.words ≠ [] → descBad r.words = false →
    findKey s r = some (i, e) → r.kind = 4 → r.idx = 0 → ∃ (t : State), exec (.tabledRequest r) s = .next t ∧
      Sends s t r.part { ins := .fill r.slot r.gen r.tag (BitVec.ofNat 512 e.desc.toNat) }) ∧
  (∀ (s : State) (r : TabledReq) (ms : List (Nat × Nat)) (st : List W64) (i : Nat) (e : Pigeon), s.hasEntry r.slot r.gen r.tag = true →
    findKey s r = some (i, e) → e.st = 1 → ∃ (t : State), exec (.chainWalkResult r false ms st) s = .next t ∧ (t.slot r.slot).st = .suspended .consumer ∧
      (t.slot r.slot).g = (s.slot r.slot).g ∧ (t.slot r.slot).pc = (s.slot r.slot).pc ∧
      (t.pigeonAt ((keyPlace s r.part (keyHash r.desc (dArgc r.words) r.args)).1, i)).map Pigeon.waiters =
        some (e.waiters ++ [{ slot := r.slot, gen := r.gen, member := false, words := r.words, tag := r.tag }])) ∧
  (∀ (s : State) (part : Nat) (entry : W64) (ans : List W64) (slot : Nat) (gen : BitVec 32) (tag : Nat) (p : Place) (e : Pigeon),
    stackPlace s part entry = some p → s.pigeonAt p = some e → e.st = 1 → e.prodSlot = slot → e.prodGen = gen → e.part = part → ans.length = 4 → e.ansc < 4 →
    let set (f : Pigeon) : Prop := f.ans = (ans.take (e.ansc + 1) ++ [0, 0, 0, 0]).take 4 ∧ f.version = e.version + 1
    (∃ (t : State) (f : Pigeon), exec (.tabledAnswer 0 part entry ans slot gen tag) s = .next t ∧ t.pigeonAt p = some f ∧ set f ∧ f.st = 1 ∧
      Sends s t part { ins := .fill slot gen tag 0 }) ∧
    (∃ (t : State) (f : Pigeon), exec (.tabledAnswer 1 part entry ans slot gen tag) s = .next t ∧ t.pigeonAt p = some f ∧ set f ∧ f.st = 2 ∧ f.waiters = [] ∧
      last s t part slot (delivers 3 slot gen tag [] (BitVec.ofNat 64 (1 + (e.version + 1).toNat * 65536))) ∧
      (∀ w ∈ e.waiters, w.member = false → ∃ m, flies s t part w.slot m ∧
        delivers 0 w.slot w.gen w.tag (ans.take (e.ansc + 1)) (BitVec.ofNat 64 ((e.version + 1).toNat * 65536)) m))) ∧
  (∀ (s : State) (d : TabledMsg), let t0 := s.slot d.slot; t0.st ≠ .idle → t0.gen = d.gen → dAmem d.words = false →
    (d.kind = 1 → ∃ (t : State), exec (.tabledDelivery d) s = .next t ∧ (t.slot d.slot).pc = BitVec.ofNat 15 (dCallee d.words) ∧ (t.slot d.slot).st = .ready ∧
      (t.slot d.slot).getG 1 = BitVec.ofNat 64 (bits (t0.stack.getLast?.getD 0) 34 20) ∧ (∀ n, n ≠ 1 → (t.slot d.slot).getG n = t0.getG n) ∧
      (t.slot d.slot).stack = t0.stack ∧ t.mem = s.mem) ∧
    (∀ w0 w1, d.kind = 0 → t0.st = .suspended .consumer → d.ans = [w0, w1] → ∃ (t : State), exec (.tabledDelivery d) s = .next t ∧
      (t.slot d.slot).pc = BitVec.ofNat 15 (bits (t0.stack.getLast?.getD 0) 34 20) ∧ (t.slot d.slot).st = .ready ∧ (t.slot d.slot).stack = t0.stack.dropLast ∧
      (t.slot d.slot).getG 3 = d.g3 ∧ (t.slot d.slot).getG 4 = w0 ∧ (t.slot d.slot).getG 5 = w1 ∧ t.mem = s.mem ∧
      (∀ n, n ≠ 3 → n ≠ 4 → n ≠ 5 → (t.slot d.slot).getG n = t0.getG n)) ∧
    (d.kind = 3 → d.ans = [] → (t0.getG 1).toNat < 0x4000 → ∃ (t : State), exec (.tabledDelivery d) s = .next t ∧ (t.slot d.slot).pc = (t0.getG 1).setWidth 15 ∧
      (t.slot d.slot).stack = t0.stack.dropLast ∧ (t.slot d.slot).getG 3 = d.g3 ∧ t.mem = s.mem ∧
      (∀ n, n ≠ 2 → n ≠ 3 → (t.slot d.slot).getG n = t0.getG n)) ∧
    (d.kind = 6 → t0.st = .suspended .consumer → ∃ (t : State), exec (.tabledDelivery d) s = .next t ∧ t.mem = s.mem ∧
      (t0.stopped = true → (t.slot d.slot).owed = some (d.cause, d.info) ∧ (t.slot d.slot).st = .ready ∧ (t.slot d.slot).pc = t0.pc) ∧
      (t0.stopped = false → t0.trapvec ≠ 0 → t0.trapcause.getLsbD 8 = false → (t.slot d.slot).pc = t0.trapvec.setWidth 15 ∧
        (t.slot d.slot).trappc = t0.pc.setWidth 64 ∧ (t.slot d.slot).trapcause = BitVec.ofNat 64 (256 + d.cause) ∧ (t.slot d.slot).trapinfo = d.info))) ∧
  (∀ (s : State) (c i slot : Nat) (gen : BitVec 32) (e : Pigeon), s.pigeonAt (c, i) = some e → e.prodSlot = slot → e.prodGen = gen → e.st = 1 →
    (e.retry < 2 → ∃ (t : State) (f : Pigeon), exec (.producerKill c i slot gen) s = .next t ∧ t.pigeonAt (c, i) = some f ∧ f.st = 0 ∧ f.retry = e.retry + 1 ∧
      f.desc = e.desc ∧ f.args = e.args ∧ f.waiters = [] ∧ (∀ w ∈ e.waiters, w.member = false → ∃ m, flies s t e.part w.slot m ∧
        m.kind = 5 ∧ m.slot = w.slot ∧ m.gen = w.gen ∧ m.tag = w.tag)) ∧
    (2 ≤ e.retry → ∃ (t : State), exec (.producerKill c i slot gen) s = .next t ∧ t.pigeonAt (c, i) = none ∧
      (∀ w ∈ e.waiters, ∃ m, flies s t e.part w.slot m ∧ m.kind = 6 ∧ m.tag = w.tag ∧ m.cause = 0x0C ∧ m.slot = w.slot)))

/-- The statements TabledForms, TabledEvents together, which rest on choices of the model where they say so: log 121, logs 46 to 48. -/
def Obligations.TabledRules : Prop :=
  Says.TabledForms ∧ Says.TabledEvents

/-- R98, R99, R100, R458. The host's registers of a command queue. A write of QTAIL copies the packets up to the new tail and is acknowledged;
one more than 2^LOG2 past HEAD is answered BUSY and counted, one that moves backward with the error response, and both change nothing;
a write by a partition that does not own the queue, or by a request that uses a part that is not supported, gets the error response. STATE stops a running queue at once where nothing that has
started is left, and later otherwise; it resumes a stopped one from HEAD; CPLERR is cleared. An idle queue is assigned with every
register at its reset value. -/
def Obligations.QueueRegisters : Prop :=
  let same (s t : State) : Prop := ∀ q, t.queue q = s.queue q
  (∀ (s : State) (pw v : W64) (order : List W64), let part := pw.toNat; let q := s.queue s.cur; let new : BitVec 32 := v.setWidth 32
    s.data = pw :: v :: order → reqBad (order.headD 0) = false → queueAllowed s part s.cur = true →
    (∀ (s2 : State) (l : List Packet), (new - q.head).toNat ≤ 2 ^ q.size → (q.tail - q.head).toNat ≤ (new - q.head).toNat →
      bufferRoom s s.cur (new - q.tail).toNat = true → q.base.toNat % 64 = 0 →
      copyPackets s part q { who := s.cur, data := s.data, ins := .qtailWrite } q.tail (new - q.tail).toNat = (s2, some l, false) →
      ∃ (t : State), exec .qtailWrite s = .next t ∧ t.queue s.cur = { s2.queue s.cur with tail := new, packets := (s2.queue s.cur).packets ++ l } ∧
        Answered t s2.cur 0 [] ∧ Aside s2 t) ∧
    (2 ^ q.size < (new - q.head).toNat → ∃ (t : State), exec .qtailWrite s = .next t ∧ same s t ∧ Answered t s.cur 2 [] ∧ Aside s t ∧
      (t.dev (s.cur / 64)).busy = (s.dev (s.cur / 64)).busy + 1) ∧
    ((new - q.head).toNat ≤ 2 ^ q.size → (new - q.head).toNat < (q.tail - q.head).toNat → exec .qtailWrite s = .next (s.answer 1)) ∧
    (new = q.tail → (new - q.head).toNat ≤ 2 ^ q.size → bufferRoom s s.cur 0 = true → ∃ (t : State), exec .qtailWrite s = .next t ∧ same s t ∧
      Answered t s.cur 0 [] ∧ Aside s t)) ∧
  (∀ (s : State) (pw v x : W64) (l : List W64), s.data = pw :: v :: x :: l → reqBad x = true → exec .qtailWrite s = .next (s.answer 1)) ∧
  (∀ (s : State), queueAllowed s (s.data.headD 0).toNat s.cur = false →
    exec .qtailWrite s = .next (s.answer 1) ∧ exec .qstatusStop s = .next (s.answer 1) ∧ exec .qstatusResume s = .next (s.answer 1) ∧
    exec .cplerrClear s = .next (s.answer 1)) ∧
  (∀ (s : State), queueAllowed s (s.data.headD 0).toNat s.cur = true → let q := s.queue s.cur
    let sets (i : Instr) (r : Queue) : Prop := ∃ (t : State), exec i s = .next t ∧ t.queue s.cur = r ∧ (∀ j, j ≠ s.cur → t.queue j = s.queue j) ∧
      Answered t s.cur 0 [] ∧ Aside s t ∧ t.parts = s.parts
    (q.st = 1 → (q.packets.any fun p => p.started) = true → sets .qstatusStop { q with stopping := true }) ∧
    (q.st = 1 → (q.packets.any fun p => p.started) = false → sets .qstatusStop { q with st := 0, stopping := false }) ∧
    (q.st ≠ 1 → sets .qstatusStop { q with st := 0 } ∧ sets .qstatusResume { q with st := 1, stopping := false }) ∧
    (q.st = 1 → sets .qstatusResume q) ∧ sets .cplerrClear { q with cplerr := false }) ∧
  (∀ (s : State) (v : W64), s.data = [v] → let q := s.queue s.cur
    (q.st = 0 → (s.dev (s.cur / 64)).boot.recovery = false → (q.packets.any fun p => p.started) = false → ∃ (t : State), exec .qownWrite s = .next t ∧
      t.queue s.cur = { own := if v.getLsbD 5 then some (s.cur / 64 * 32 + bits v 4 0) else none } ∧ Answered t s.cur 0 [] ∧ Aside s t) ∧
    (q.st ≠ 0 ∨ (s.dev (s.cur / 64)).boot.recovery = true ∨ (q.packets.any fun p => p.started) = true → exec .qownWrite s = .next (s.answer 1)))

/-- R99, R101 to R104, R138, R174, R176. The packets of a queue. At its start a packet that passes the checks has HEAD behind it and runs; one
that does not leaves STATE 2 and its CORR in QREJ and completes REJECTED. A LAUNCH makes the record of its launch with its units outstanding, and its
units are to be placed; a WAIT completes where every signal is at most its threshold, aborts its queue where one is negative, and else
holds it; a SIGNAL adds to or sets its signal; a COPY completes when its last byte is delivered; a TIMESTAMP writes PTPTIME. A completion
writes its record, leaves the buffer and decrements the signal. The checks on the Headwater's own accesses (log 78), and a signal that only DONE
and ERROR decrement (log 82), are the model's reading. -/
def Obligations.PacketEvents : Prop :=
  (∀ (s : State) (part : Nat) (p : Packet), let q := s.queue s.cur; let who := s.cur * 2 ^ 32 + p.idx.toNat
    q.own = some part → q.headPacket = some p → packetReady s s.cur = true →
    (∀ (s2 : State) (r : Packet), packetReads s part p { who := s.cur, ins := .packetStart } = (s2, some r, false) → r.idx = p.idx → ∃ (t : State),
      exec .packetStart s = .next t ∧ t.due = s2.due ++ [{ who := who, ins := packetIns p.type }] ∧ Aside s2 t ∧
      t.queue s.cur = { s2.queue s.cur with head := p.idx + 1,
                                            packets := (s2.queue s.cur).packets.map fun k => if k.idx = p.idx then { r with started := true } else k }) ∧
    (p.malformed = false → p.type ≠ 1 → packetReads s part p { who := s.cur, ins := .packetStart } = (s, some p, false)) ∧
    (p.malformed = true → ∃ (t : State), exec .packetStart s = .next t ∧ (t.queue s.cur).st = 2 ∧ (t.queue s.cur).rej = p.corr ∧
      (t.queue s.cur).head = p.idx + 1 ∧ Aside s t ∧ t.due = s.due ++ [{ who := who, data := [4], ins := .packetCompletion }])) ∧
  (∀ (s : State) (part : Nat) (p : Packet), Runs s part p → let q := s.part part; let qid := s.cur / 2 ^ 32; let h := launchHandles s part (p.tmpl.getD 1 0)
    let done (status : W64) : Op := { who := s.cur, data := [status], ins := .packetCompletion }
    (∃ (t : State) (l : Level) (x : Placing), exec .launch s = .next t ∧ t.level? part h.2.2.2 = some l ∧ l.outstanding = p.units ∧ l.phase = q.tag ∧
      l.packet = some (qid, s.cur % 2 ^ 32) ∧ (t.part part).placing = q.placing ++ [x] ∧ x.units = p.units ∧ x.next = 0 ∧ x.step = p.word 4 ∧
      x.body.pc = (p.tmpl.getD 0 0).setWidth 15 ∧ x.body.level = h.2.2.2 ∧ x.body.corr = p.corr ∧ x.body.args = (List.range 4).map (fun i => p.tmpl.getD (4 + i) 0) ∧
      t.slots = s.slots ∧ t.mem = s.mem ∧ (p.image = [] → t.cores = s.cores)) ∧
    (s.completing s.cur = false →
      ((∃ i, i < p.waitCount ∧ (q.signal (p.waitSig i)).msb = true) → ∃ (t : State), exec .wait s = .next t ∧ (t.queue qid).st = 3 ∧ (t.queue qid).rej = p.corr ∧
        (t.queue qid).head = (s.queue qid).tail ∧ Aside s t ∧
        t.due = s.due ++ ({ who := qid * 2 ^ 32 + p.idx.toNat, data := [3], ins := .packetCompletion } : Op) :: (((s.queue qid).packets.filter fun r => !r.started).map
          fun r => { who := qid * 2 ^ 32 + r.idx.toNat, data := [3], ins := .packetCompletion })) ∧
      ((∀ i, i < p.waitCount → (q.signal (p.waitSig i)).msb = false) →
        ((∀ i, i < p.waitCount → (q.signal (p.waitSig i)).toInt ≤ (p.word (1 + i)).toInt) → exec .wait s = .next (s.dueOp (done 1))) ∧
        ((∃ i, i < p.waitCount ∧ (p.word (1 + i)).toInt < (q.signal (p.waitSig i)).toInt) → exec .wait s = .next s))) ∧
    (bits (p.word 1) 23 16 < 2 → let i := bits (p.word 1) 15 0; ∃ (t : State), exec .signal s = .next t ∧ Aside s t ∧ t.due.getLast? = some (done 1) ∧
      (t.part part).signal i = (if bits (p.word 1) 23 16 = 0 then q.signal i + p.word 2 else p.word 2) ∧ (∀ j, j ≠ i → (t.part part).signal j = q.signal j)) ∧
    exec .nop s = .next (s.dueOp (done 1)) ∧
    (∀ (s2 : State) (n : Nat), hwBytes s part (p.word 1) 8 (some (s.ptpTime (qid / 64)).toNat) { who := s.cur, ins := .timestamp } = .ok s2 n →
      exec .timestamp s = .next (s2.dueOp (done 1))) ∧
    (p.todo = [] → p.flying = [] → bits (p.word 3) 31 0 ≠ 0 → ∃ (t : State), exec .copy s = .next t ∧ Aside s t ∧ Answers t { who := s.cur, ins := .copy } ∧
      (t.packet s.cur).map Packet.todo = some [(0, bits (p.word 3) 31 0)]) ∧
    (∀ (i n k : Nat) (d : V512) (s2 : State) (r : Nat), p.todo = [] → p.flying = [(i, n, d)] → copyPick s.tick p = some (1, i, k) →
      hwPart s.tick.tick part (p.word 2 + BitVec.ofNat 64 i) n (some d.toNat)
        { who := s.cur, data := [1, BitVec.ofNat 64 i, BitVec.ofNat 64 k], ins := .copy } = .ok s2 r → ∃ (t : State), exec .copy s = .next t ∧
        Aside s2 t ∧ t.due = s2.due ++ [done 1]) ∧
    (∀ (i d : Nat) (v : V512), s.data = [] → p.todo = [] → p.flying = [(i, d, v)] → copyPick s.tick p = some (1, i, d)) ∧
    (∀ (i n : Nat), s.data = [] → p.todo = [(i, n)] → i < n → p.flying = [] → ∃ (j k : Nat), i ≤ j ∧ 0 < k ∧ j + k ≤ n ∧
      (p.word 1 + BitVec.ofNat 64 j).toNat % 64 + k ≤ 64 ∧ (p.word 2 + BitVec.ofNat 64 j).toNat % 64 + k ≤ 64 ∧ copyPick s.tick p = some (0, j, k)) ∧
    (∀ (w j k : W64), s.data = [w, j, k] → copyPick s.tick p = some (w, j.toNat, k.toNat)) ∧
    (∀ (i n j k : Nat) (s2 : State) (v : Nat), p.todo = [(i, n)] → p.flying = [] → copyPick s.tick p = some (0, j, k) →
      hwPart s.tick.tick part (p.word 1 + BitVec.ofNat 64 j) k none { who := s.cur, data := [0, BitVec.ofNat 64 j, BitVec.ofNat 64 k], ins := .copy }
          (copyExec s.tick.tick part (p.word 2 + BitVec.ofNat 64 j)) = .ok s2 v →
        (s2.queue qid).packets = (s.queue qid).packets → ∃ (t : State), exec .copy s = .next t ∧ Aside s2 t ∧
        (t.packet s.cur).map Packet.flying = some [(j, k, BitVec.ofNat 512 v)]) ∧
    (∀ (status : W64) (s2 : State) (r : Nat), s.data = [status] → let x := s.queue qid; x.cpl ≠ 0 →
      hwBytes s part (x.cpl + BitVec.ofNat 64 (p.idx.toNat % 2 ^ x.size * 16)) 16
        (some (p.corr.toNat + status.toNat * 2 ^ 32 + 2 ^ 64 * (s.ptpTime (qid / 64)).toNat))
        { who := s.cur, data := s.data, ins := .packetCompletion } = .ok s2 r → ∃ (t : State), exec .packetCompletion s = .next t ∧ Aside s2 t ∧
        (∀ k ∈ (t.queue qid).packets, k.idx ≠ p.idx) ∧
        (p.onDone = true → status.toNat ≤ 2 → (t.part part).signal p.sig = (s2.part part).signal p.sig - 1) ∧ (p.onDone = false → t.parts = s2.parts)) ∧
    ((s.queue qid).cpl = 0 → p.onDone = false → ∃ (t : State), exec .packetCompletion s = .next t ∧ Aside s t ∧
      (t.queue qid).cplerr = true ∧ (∀ k ∈ (t.queue qid).packets, k.idx ≠ p.idx))) ∧
  (∀ (s : State) (part : Nat) (a : W64) (n core off : Nat) (o : Op) (v : Nat), s.globalTarget part a = some (.scratch core off) →
    s.guarded core off = false → s.guarded core (off + n - 1) = false → let c := coreCluster core
    let check (w : Bool) : Check := s.segment c (s.partAt part (clusterDev c)) (core % 128) false (!w) w
    let prot (w : Bool) : Bool := s.protAllows core off n (hwAccessor (s.partAt part (clusterDev c))) w
    (check false = .ok → prot false = true → hwPart s part a n none o = .ok s (s.read (scratchLoc core off) n)) ∧
    (check true = .ok → prot true = true → hwPart s part a n (some v) o = .ok (s.write (scratchLoc core off) v n) 0 ∧
      hwPart s part a n (some v) o false true = .ok (s.pathWrite 3 (scratchLoc core off) v n) 0) ∧
    (check false ≠ .ok ∨ prot false = false → hwPart s part a n none o = .refused s) ∧
    (check true ≠ .ok ∨ prot true = false → hwPart s part a n (some v) o = .refused s))

/-- R103, R404 to R406, R417. What a partition's host does: it writes and reads signals, reads and writes the registers of the queues it owns
and of PSTATE, reads and writes second-tier memory that its partition may reach, eight bytes at a time, and sends messages. A partition
that is not live, or is being reset, gets the error response, and so does a request that uses a part that is not supported. The request's order
word (log 86) and level 0 of a unit of HOST_SEND (log 88) are the model's reading. -/
def Obligations.HostEvents : Prop :=
  let open' (s : State) : Prop := (s.part s.cur).live = true ∧ (s.part s.cur).resetting = false
  (∀ (s : State) (i v : W64), s.data = [i, v] → open' s →
    (i.toNat < 1024 → ∃ (t : State), exec .hostSignalWrite s = .next t ∧ (t.part s.cur).signal i.toNat = v ∧ Answered t s.cur 0 [] ∧ Aside s t ∧
      (∀ j, j ≠ i.toNat → (t.part s.cur).signal j = (s.part s.cur).signal j)) ∧
    (1024 ≤ i.toNat → exec .hostSignalWrite s = .next (s.answer 1))) ∧
  (∀ (s : State), (s.part s.cur).live = false ∨ (s.part s.cur).resetting = true →
    exec .hostSignalWrite s = .next (s.answer 1) ∧ (∀ off v rest, s.data = 0 :: off :: v :: rest → exec .registerWrite s = .next (s.answer 1))) ∧
  (∀ (s : State) (off x : W64), open' s → let q := s.part s.cur
    s.data = [off, x] → reqLen x = 8 → reqBad x = false →
    (∀ k i, k < 64 → i < 7 → off.toNat = 64 * k + 8 * i → let qid := s.cur / 32 * 64 + k; let x := s.queue qid; queueAllowed s s.cur qid = true →
      exec .hostRmaRead s = .next (s.answer 0 [[x.base, BitVec.ofNat 64 x.size, x.cpl, x.tail.setWidth 64, x.head.setWidth 64,
        BitVec.ofNat 64 (x.st + if x.cplerr then 256 else 0), x.rej.setWidth 64].getD i 0])) ∧
    (∀ j, j < 1024 → off.toNat = 0x2000 + 8 * j → exec .hostRmaRead s = .next (s.answer 0 [q.signal j])) ∧
    (off.toNat = 0x1000 → exec .hostRmaRead s = .next (s.answer 0 [BitVec.ofNat 64 (q.resets.toNat * 2 ^ 16 + q.resetCause % 256 * 2 ^ 8)]))) ∧
  (∀ (s : State) (off v : W64) (k : Nat), open' s → k < 64 → let qid := s.cur / 32 * 64 + k; let x := s.queue qid; queueAllowed s s.cur qid = true →
    let sets (r : Queue) : Prop := (∀ (t : State), exec .registerWrite s = .next t → t.queue qid = r ∧ Answered t s.cur 0 [] ∧ Aside s t) ∧
      (∃ (t : State), exec .registerWrite s = .next t)
    s.data = [0, off, v] →
    (x.st = 0 → (off.toNat = 64 * k → sets { x with base := v }) ∧ (off.toNat = 64 * k + 16 → sets { x with cpl := v }) ∧
      (off.toNat = 64 * k + 8 → sets (if 6 ≤ bits v 4 0 ∧ bits v 4 0 ≤ 16 then { x with size := bits v 4 0 } else x))) ∧
    (x.st ≠ 0 → off.toNat = 64 * k ∨ off.toNat = 64 * k + 8 ∨ off.toNat = 64 * k + 16 → exec .registerWrite s = .next (s.answer 1)) ∧
    (off.toNat = 64 * k + 32 ∨ off.toNat = 64 * k + 48 → sets x)) ∧
  (∀ (s : State) (va n : Nat) (x : W64), open' s → 0 < n → n ≤ 8 → va + n ≤ 2 ^ 46 → reqLen x = n → reqBad x = false → let off := BitVec.ofNat 64 (2 ^ 56 + va)
    let place := BitVec.ofNat 64 (2 ^ 56 + s.cur / 32 * 2 ^ 46 + va)
    (∀ (s2 : State) (v : Nat), s.data = [off, x] → rangeOk s s.cur va false 2 n = true →
      hwBytes s s.cur place n none { who := s.cur, data := s.data, ins := .hostRmaRead } = .ok s2 v →
      exec .hostRmaRead s = .next (s2.answer 0 [BitVec.ofNat 64 v])) ∧
    (∀ (w : W64) (s2 : State) (r : Nat), s.data = [off, x, w] → rangeOk s s.cur va true 2 n = true →
      hwBytes s s.cur place n (some w.toNat) { who := s.cur, data := s.data, ins := .hostRmaWrite } true = .ok s2 r →
      exec .hostRmaWrite s = .next (s2.answer 0)) ∧
    (∀ (w : W64), s.data = [off, x, w] → s.kept = [] → rangeOk s s.cur va true 2 n = false → exec .hostRmaWrite s = .next (s.answer 1))) ∧
  (∀ (s : State) (off x : W64) (w : List W64), s.data = off :: x :: w → reqBad x = true →
    exec .hostRmaRead s = .next (s.answer 1) ∧ exec .hostRmaWrite s = .next (s.answer 1)) ∧
  (∀ (s : State) (place pc a0 a1 x : W64) (w : List W64), s.data = place :: pc :: a0 :: a1 :: x :: w → reqBad x = true →
    exec .hostSend s = .next (s.answer 1)) ∧
  (∀ (s : State) (place pc a0 a1 : W64) (order : List W64) (core cls : Nat), s.data = place :: pc :: a0 :: a1 :: order → reqBad (order.headD 0) = false → open' s → bits place 35 0 = 0 → pc.toNat < 0x4000 →
    s.placeOf s.cur place = some (core, cls) → ∃ (t : State) (m : Msg), exec .hostSend s = .next t ∧ Sends s t s.cur { ins := .messageArrival m } ∧
      m.dst = core ∧ m.cls = cls ∧ m.part = s.cur ∧ m.isTask = false ∧ m.body.pc = pc.setWidth 15 ∧ m.body.args = [a0, a1] ∧ m.body.level = 0 ∧
      Answered t s.cur 0 [] ∧ Aside s t)

/-- R56, R70, R128, R129, R147, R408, R409, R415 to R424, R439. Partition management and the device's own duties. A partition is created
on free clusters with the root, quotas, queues, fault service and class bindings asked for, each cluster's segment entry 15 spanning the cores
it sees; a reset asks every slot for pre-emption, stops its queues and its units, waits, and clears what it holds; each budget period clears the counters, takes the new limits and releases held traffic; the power
estimate stays at most PWRCAP and within PWRSLOPE of every sample of the last 1 ms; a port goes down after 16 retries in a row, and its router has
failed; a failed router resets the
partitions that touch it. The numbers of a message (registers 4, 13 and 14: log 92; the phases of a reset and the words that partition management
writes anew: log 127), a port that is down as a failed router (log 129), and the free values of the estimate (log 90) are the model's choices. -/
def Obligations.ManagementEvents : Prop :=
  (∀ (s : State) (n fault ql qt mask root scale wdog : W64) (l binds : List W64), let cs := l.map BitVec.toNat; let d := s.cur / 32
    s.data = n :: fault :: ql :: qt :: mask :: root :: scale :: wdog :: (l ++ binds) → (s.part s.cur).live = false → (s.dev d).boot.recovery = false →
    s.serviceOk d fault = true → classesBad binds = false → n.toNat = l.length → 0 < l.length → l.length ≤ 128 → cs.Nodup →
    (∀ c ∈ cs, clusterDev c = d ∧ (s.cluster c).part = none ∧ (s.slice c).dead = false) →
    (∀ q, q < 64 → mask.getLsbD q = true → queueIdle (s.queue (d * 64 + q)) = true) → ∃ (t : State), exec .partitionCreate s = .next t ∧
      (t.part s.cur).live = true ∧ (t.part s.cur).clusters = cs ∧ (t.part s.cur).root = root ∧ (t.part s.cur).quotaLevels = ql.toNat ∧
      (t.part s.cur).quotaTimers = qt.toNat ∧ (t.part s.cur).signals = [] ∧ (t.part s.cur).resetting = false ∧
      (t.part s.cur).faultCore = some (fault.toNat - 1) ∧ (binds = [] → t.cores = s.cores) ∧
      (∀ k w, binds = [k, w] → k.toNat / 2048 < cs.length →
        (t.core (cs.getD (k.toNat / 2048) 0 * 128 + k.toNat / 16 % 128)).cls (k.toNat % 16) = w &&& 0xF77FE00) ∧
      (∀ i, i < cs.length → let c := cs.getD i 0; (t.cluster c).part = some s.cur ∧ (t.cluster c).rel = i ∧
        Sp.get 0 (t.cluster c).seg 15 = BitVec.ofNat 64 (s.cur % 32 * 2 ^ 52 + (if c % 16 = 15 then 127 - (s.dev d).w else 127) * 2 ^ 38 + 0x3E00000000) ∧
        (∀ e, e ≠ 15 → Sp.get 0 (t.cluster c).seg e = 0)) ∧
      (∀ c, c ∉ cs → t.cluster c = s.cluster c) ∧
      (∀ q, q < 64 → mask.getLsbD q = true → t.queue (d * 64 + q) = { own := some s.cur }) ∧ t.mem = s.mem ∧ t.slots = s.slots ∧ Answered t s.cur 0 []) ∧
  (∀ (s : State), (s.part s.cur).live = true → exec .partitionCreate s = .next (s.answer 1)) ∧
  (∀ (s : State) (v : W64) (l : List W64), s.data = v :: l → let p := s.cur; let again (n : W64) : Op := { who := p, data := (v + n) :: l, ins := .partitionReset }
    ((s.part p).live = false ∨ classesBad l.tail = true → exec .partitionReset s = .next (s.answer 1)) ∧
    ((s.part p).live = true → classesBad l.tail = false → v.toNat < 256 → (s.part p).resetting = false → ∃ (t : State), exec .partitionReset s = .next t ∧
      Answers t (again 256) ∧ t.mem = s.mem ∧ t.parts = s.parts ∧
      ∀ i, t.slot i = if s.partOf (slotCluster i) = p ∧ (s.slot i).st ≠ .idle then { s.slot i with preempt := some ((s.slot i).preempt.getD 0) } else s.slot i) ∧
    ((s.part p).live = true → classesBad l.tail = false → v.toNat < 512 → (s.part p).resetting = true → exec .partitionReset s = .next (s.answer 0)) ∧
    ((s.part p).live = true → classesBad l.tail = false → 256 ≤ v.toNat → v.toNat < 512 → (s.part p).resetting = false → ∃ (t : State), exec .partitionReset s = .next t ∧
      (t.part p).resetting = true ∧ (t.part p).resetCause = v.toNat % 256 ∧ Answers t (again 256) ∧ (t.part p).placing = [] ∧
      (∀ c, (s.cluster c).part = some p → (t.cluster c).ready = []) ∧
      ((s.clustersOf p).Nodup → ∀ c ∈ s.clustersOf p, ∀ j, j < 1024 → let i := c * 1024 + j
        (t.slot i).gen = (s.slot i).genNext ∧ (t.slot i).genNext = (s.slot i).genNext + 1) ∧
      (∀ i ∈ s.partSlots p, (t.slot i).st = .idle ∧ (t.slot i).saved = []) ∧ (∀ q ∈ s.partQueues p, (t.queue q).st = 0)) ∧
    ((s.part p).live = true → classesBad l.tail = false → 512 ≤ v.toNat → (s.part p).resetting = true → resetSettled s p = false →
      exec .partitionReset s = .next (s.postOnce (again 0))) ∧
    ((s.part p).live = true → classesBad l.tail = false → 512 ≤ v.toNat → (s.part p).resetting = true → resetSettled s p = true → ∃ (t : State), exec .partitionReset s = .next t ∧
      (t.part p).resetting = false ∧ (t.part p).resets = (s.part p).resets + 1 ∧ (t.part p).root = (s.part p).root ∧ (t.part p).signals = [] ∧
      (t.part p).scalebase = (if l = [] then (s.part p).scalebase else l.headD 0 &&& ~~~(3 : W64)) ∧ (t.part p).placing = [] ∧ (∀ h, t.level? p h = none) ∧
      (∀ i, s.partOf (slotCluster i) = p → t.slot i = { gen := (s.slot i).gen, genNext := (s.slot i).genNext }) ∧
      (∀ i, s.partOf (slotCluster i) ≠ p → t.slot i = s.slot i) ∧
      (∀ k, s.partOf (coreCluster k) = p → (l.tail = [] → (t.core k).classes = []) ∧ (t.core k).guards = [] ∧ (t.core k).ports = []) ∧
      (l.tail = [] → ∀ k, s.partOf (coreCluster k) ≠ p → t.core k = s.core k) ∧
      (∀ a, t.byte a = if s.ownsByte p a = true then 0 else s.byte a) ∧ Answered t p 0 [])) ∧
  (∀ (s : State), let q := s.part s.cur; q.live = true → ∃ (t : State), exec .budgetPeriod s = .next t ∧ t.mem = s.mem ∧ t.slots = s.slots ∧
    ((∀ o ∈ s.agenda, ∀ ni part tg, o.inj = some (ni, part, tg) → part ≠ s.cur) → t.agenda = s.agenda ∧ t.part s.cur =
      { q with useInj := 0, useSlice := 0, useCour := 0, newInj := none, newSlice := none, newCour := none, budInj := q.newInj.getD q.budInj, budSlice := q.newSlice.getD q.budSlice, budCour := q.newCour.getD q.budCour }) ∧
    (∀ o ni tg, s.agenda = [o] → o.inj = some (ni, s.cur, tg) → q.newInj.getD q.budInj = 0 → t.agenda = [{ o with inj := none }]) ∧
    (∃ n, s.now < n ∧ ({ who := s.cur, ins := .budgetPeriod } : Op) ∈ Sp.get [] t.timers n)) ∧
  (∀ (s : State), let v := s.dev s.cur; ∃ (t : State), exec .powerGovernorUpdate s = .next t ∧ Aside { s with clusters := t.clusters } t ∧
    (t.dev s.cur).pwrnow ≤ v.pwrcap ∧ (∀ p ∈ v.pwrnow :: v.pwrhist, (t.dev s.cur).pwrnow ≤ p + v.pwrslope ∧
      (powerLow v ≤ powerHigh v → p ≤ (t.dev s.cur).pwrnow + v.pwrslope)) ∧
    t.dev s.cur = { v with pwrnow := (t.dev s.cur).pwrnow, pwrfill := (t.dev s.cur).pwrfill, pwrhist := (v.pwrnow :: v.pwrhist).take 1000 }) ∧
  (∀ (s : State) (d : Nat), let o : Op := { who := d, ins := .powerGovernorUpdate }
    (d < devices → Sp.find s.devs d = none → (s.now + 1) % 1600 = 0 → o ∈ (passCycle s).due) ∧
    (∀ v, (d, v) ∈ s.devs → v.boot.recovery = false → (s.now + 1 - v.since) % 1600 = 0 → o ∈ (passCycle s).due)) ∧
  (∀ (s : State) (p first : W64), s.data = [p, first] → p.toNat < 64 → let n := Sp.get 0 (s.dev s.cur).retries p.toNat; ∃ (t : State), exec .flitRetry s = .next t ∧
    Aside s t ∧ (first = 0 → Sp.get 0 (t.dev s.cur).retries p.toNat = 1 ∧ t.due = s.due) ∧
    (first ≠ 0 → Sp.get 0 (t.dev s.cur).retries p.toNat = n + 1 ∧
      t.due = s.due ++ (if 16 ≤ n + 1 then [{ who := s.cur, data := [p], ins := .linkPortDown }] else []))) ∧
  (∀ (s : State) (p : W64), s.data = [p] → p.toNat < 64 → ∃ (t : State), exec .linkPortDown s = .next t ∧ p.toNat ∈ (t.dev s.cur).down ∧
    (∀ k ∈ (s.dev s.cur).down, k ∈ (t.dev s.cur).down) ∧
    t.due = s.due ++ (if p.toNat ∈ (s.dev s.cur).down then [] else [{ who := s.cur * 128 + linkRouter p.toNat, data := [0], ins := .routerFailure }]) ∧ t.mem = s.mem ∧ t.slots = s.slots) ∧
  (∀ (s : State) (b : W64), s.data = [b] → ∃ (t : State), exec .routerFailure s = .next t ∧ (t.router s.cur).failed = true ∧
    (b = 1 → (t.slice s.cur).dead = true) ∧ (b ≠ 1 → t.slices = s.slices) ∧ t.mem = s.mem ∧ t.slots = s.slots ∧
    (∀ p ∈ s.parts.map Prod.fst, partTouches s p s.cur = true → ({ who := p, data := [3], ins := .partitionReset } : Op) ∈ t.agenda)) ∧
  (∀ (s : State) (path who gen tag p : W64), s.data = [path, who, gen, tag, p] → (s.part p.toNat).live = true → ∃ (t : State),
    exec .eccUncorrectable s = .next t ∧ Answers t { who := p.toNat, data := [2], ins := .partitionReset } ∧ t.mem = s.mem ∧ t.parts = s.parts) ∧
  (∀ (s : State) (idx v : W64), (s.dev s.cur).boot.recovery = false →
    (s.data = [1, 4, idx, v] → idx.toNat < 32 → let p := s.cur * 32 + idx.toNat; (s.part p).live = true → ∃ (t : State), exec .registerWrite s = .next t ∧
      t.part p = { s.part p with root := v } ∧ Aside s t ∧ Answered t s.cur 0 []) ∧
    (s.data = [1, 13, idx, v] → ∃ (t : State), exec .registerWrite s = .next t ∧
      t.dev s.cur = { s.dev s.cur with pwrcap := Nat.min (v.toNat % 2 ^ 13) 4400 } ∧ Aside s t ∧ Answered t s.cur 0 []) ∧
    (s.data = [1, 14, idx, v] → let n := v.toNat % 2 ^ 10; ∃ (t : State), exec .registerWrite s = .next t ∧
      t.dev s.cur = { s.dev s.cur with pwrslope := if 50 ≤ n ∧ n ≤ 500 then n else (s.dev s.cur).pwrslope } ∧ Aside s t ∧ Answered t s.cur 0 [])) ∧
  (∀ (s : State) (code idx v : W64), s.data = [1, code, idx, v] → (s.dev s.cur).boot.recovery = true → exec .registerWrite s = .next (s.answer 1))

/-- R382, R426 to R431. Debug, of a device that is not in recovery (R436: in recovery the requests change nothing or are refused). A cluster that runs is halted with cause 1; one that is halted runs again on a release, keeping its cause, a slot at a
BRK behind it; a step lets a slot of a halted cluster issue once; a trigger halts every cluster of the group with XIN, cause 3. A debug access in a halted
cluster reads or writes a register with its F/E bit, or a word of a memory, and is refused elsewhere, and on a device that has no core of the
role that serves it; a register that waits for a fill is busy. A snapshot trigger is lost while a bank is unread; the banks latch at the tick; the last word of a bank frees it. The words of a
debug access and the numbers of the banks (log 98) are the model's, and trigger groups of one device (log 100) its reading. -/
def Obligations.DebugEvents : Prop :=
  let halted (s : State) (c : Nat) : Bool := (s.cluster c).dbgctl.getLsbD 0
  let cause (s : State) (c : Nat) : Nat := bits (s.cluster c).dbgctl 17 16
  let up (s : State) (d : Nat) : Prop := (s.dev d).boot.recovery = false
  (∀ (s : State), ¬ up s (clusterDev s.cur) → exec .halt s = .next s ∧ exec .haltRelease s = .next s ∧ exec .debugStep s = .next s ∧
    exec .debugAccess s = .next (s.answer 1)) ∧
  (∀ (s : State), ¬ up s s.cur → exec .snapshotTrigger s = .next s ∧ exec .snapshotRead s = .next (s.answer 1)) ∧
  (∀ (s : State), up s (clusterDev s.cur) → (halted s s.cur = true → exec .halt s = .next s) ∧
    (halted s s.cur = false → ∃ (t : State), exec .halt s = .next t ∧ halted t s.cur = true ∧ cause t s.cur = 1 ∧ (t.cluster s.cur).haltAt = s.now ∧
      (∀ c, c ≠ s.cur → t.cluster c = s.cluster c) ∧ t.slots = s.slots ∧ t.mem = s.mem ∧ t.cores = s.cores)) ∧
  (∀ (s : State), up s (clusterDev s.cur) → (halted s s.cur = false → exec .haltRelease s = .next s) ∧
    (halted s s.cur = true → (s.cluster s.cur).dbgNext = none → ∃ (t : State), exec .haltRelease s = .next t ∧ halted t s.cur = false ∧ cause t s.cur = cause s s.cur ∧
      t.mem = s.mem ∧ t.cores = s.cores ∧ (∀ i, slotCluster i ≠ s.cur → t.slot i = s.slot i) ∧
      (∀ i, slotCluster i = s.cur → (s.slot i).st ≠ .idle → (t.slot i).g = (s.slot i).g ∧ (t.slot i).st = (s.slot i).st ∧ (t.slot i).step = false ∧
        ((s.slot i).atBrk = false → (t.slot i).pc = (s.slot i).pc) ∧
        ((s.slot i).atBrk = true → (t.slot i).atBrk = false ∧ (t.slot i).pc = BitVec.ofNat 15 (s.pcAfter (slotCore i) (s.slot i).pc.toNat))))) ∧
  (∀ (s : State) (core slot : W64), up s (clusterDev s.cur) → s.data = [core, slot] → core.toNat < 128 → slot.toNat < 8 → let i := (s.cur * 128 + core.toNat) * 8 + slot.toNat
    (halted s s.cur = true → (s.slot i).st = .ready → (s.slot i).stopped = false → (s.slot i).atBrk = false → ∃ (t : State), exec .debugStep s = .next t ∧
      t.slot i = { s.slot i with step := true } ∧ (∀ j, j ≠ i → t.slot j = s.slot j) ∧ t.mem = s.mem ∧ t.clusters = s.clusters) ∧
    (halted s s.cur = false → exec .debugStep s = .next s)) ∧
  (∀ (s : State) (g : W64), s.data = [g] → ∃ (t : State), exec .triggerFire s = .next t ∧ t.slots = s.slots ∧ t.mem = s.mem ∧
    (∀ c ∈ s.clusters.map Prod.fst, clusterDev c = clusterDev s.cur → bits (s.cluster c).dbgctl 15 8 = g.toNat → dbgXin (s.cluster c).dbgctl = true →
      halted t c = true ∧ (halted s c = false → cause t c = 3)) ∧
    (∀ c, clusterDev c ≠ clusterDev s.cur → t.cluster c = s.cluster c)) ∧
  (∀ (s : State) (kind wr core slot x y : W64) (l : List W64), up s (clusterDev s.cur) → s.data = kind :: wr :: core :: slot :: x :: y :: l → core.toNat < 128 → slot.toNat < 8 →
    let k := s.cur * 128 + core.toNat; let i := k * 8 + slot.toNat; let t := s.slot i
    (halted s s.cur = false ∨ s.debugServed (clusterDev s.cur) = false → exec .debugAccess s = .next (s.answer 1)) ∧
    (halted s s.cur = true → s.debugServed (clusterDev s.cur) = true → wr = 0 →
      (kind = 0 → x.toNat < 24 → exec .debugAccess s = .next (s.answer 0 [t.getG x.toNat, if t.empty x.toNat = true then 1 else 0])) ∧
      (kind = 3 → x.toNat < 2 ^ 19 → x.toNat % 8 = 0 → exec .debugAccess s = .next (s.answer 0 [BitVec.ofNat 64 (s.read (scratchLoc k x.toNat) 8)])) ∧
      (kind = 3 → x.toNat % 8 ≠ 0 → exec .debugAccess s = .next (s.answer 1))) ∧
    (∀ w e : W64, halted s s.cur = true → s.debugServed (clusterDev s.cur) = true → wr ≠ 0 → kind = 0 → 0 < x.toNat → x.toNat < 24 → l = [w, e] →
      ((∀ o ∈ t.outst, x.toNat ∉ o.dests) → ∃ (u : State), exec .debugAccess s = .next u ∧ (u.slot i).getG x.toNat = w ∧ (u.slot i).empty x.toNat = (e != 0) ∧
        (∀ n, n ≠ x.toNat → (u.slot i).getG n = t.getG n) ∧ (∀ n, n ≠ x.toNat → (u.slot i).empty n = t.empty n) ∧ (u.slot i).pc = t.pc ∧
        (∀ j, j ≠ i → u.slot j = s.slot j) ∧ u.mem = s.mem ∧ Answered u s.cur 0 [] ∧ (u.dev (clusterDev s.cur)).debugWrote = true) ∧
      ((∃ o ∈ t.outst, x.toNat ∈ o.dests) → exec .debugAccess s = .next (s.answer 2))) ∧
    (∀ w : W64, halted s s.cur = true → s.debugServed (clusterDev s.cur) = true → wr ≠ 0 → kind = 3 → x.toNat < 2 ^ 19 → x.toNat % 8 = 0 → l = [w] → ∃ (u : State), exec .debugAccess s = .next u ∧
      Stored s u (scratchLoc k x.toNat) w.toNat 8 ∧ u.slots = s.slots ∧ Answered u s.cur 0 [])) ∧
  (∀ (s : State), up s s.cur → let v := s.dev s.cur
    (v.snap.isSome = true → ∃ (t : State), exec .snapshotTrigger s = .next t ∧ t.dev s.cur = { v with snapLost := v.snapLost + 1 } ∧ t.timers = s.timers ∧ Aside s t) ∧
    (v.snap = none → v.snapWait = false → ∃ (t : State), exec .snapshotTrigger s = .next t ∧ t.dev s.cur = { v with snapWait := true } ∧ Aside s t ∧
      (∃ n, s.now < n ∧ opD s.cur [BitVec.ofNat 64 ((s.ptpTime s.cur).toNat / 256 + 1)] .snapshotLatch ∈ Sp.get [] t.timers n))) ∧
  (∀ (s : State) (n : W64), s.data = [n] → let v := s.dev s.cur; v.snapWait = true →
    (n.toNat ≤ (s.ptpTime s.cur).toNat / 256 → ∃ (t : State) (x : Snapshot), exec .snapshotLatch s = .next t ∧ Aside s t ∧ t.dev s.cur = { v with snapWait := false, snap := some x } ∧
      x.freed = [] ∧ (∀ i, slotDev i = s.cur → Sp.get {} x.slots i = s.slot i) ∧ (∀ k, k / 16384 = s.cur → Sp.get {} x.cores k = s.core k)) ∧
    ((s.ptpTime s.cur).toNat / 256 < n.toNat → ∃ (t : State), exec .snapshotLatch s = .next t ∧ t.devs = s.devs ∧
      opD s.cur s.data .snapshotLatch ∈ Sp.get [] t.timers (s.now + 1))) ∧
  (∀ (s : State) (n i : W64) (x : Snapshot), up s s.cur → s.data = [0, n, i] → (s.dev s.cur).snap = some x → n.toNat < 16384 → n.toNat ∉ x.freed → i.toNat < 24 →
    let slot := (s.cur * 16384 + n.toNat) * 8 + i.toNat / 3
    ∃ (t : State) (w : W64), exec .snapshotRead s = .next t ∧ Answered t s.cur 0 [w] ∧ Aside s t ∧
      (i.toNat % 3 = 2 → w = (Sp.get {} x.slots slot : Slot).level) ∧
      (i.toNat % 3 = 1 → w = BitVec.ofNat 64 ((Sp.get {} x.slots slot : Slot).gen.toNat + (Sp.get {} x.slots slot : Slot).corr.toNat * 2 ^ 32)) ∧
      (i.toNat < 23 → t.devs = s.devs) ∧
      (i.toNat = 23 → x.freed.length + 1 < bankCount → (t.dev s.cur).snap = some { x with freed := x.freed ++ [n.toNat] })) ∧
  (∀ (s : State), (s.dev s.cur).snap = none → exec .snapshotRead s = .next (s.answer 1))

/-- R30, R49, R433 to R441. Boot and what the firmware column answers. A device reset clears every core, slot, partition and memory byte of the device and no
other device's, keeping flash and fuses; it ends in recovery where no slot or no table verifies. A marker flip writes the sector that
does not hold the marker in use; an image write changes exactly its bytes of the slot, and in
recovery is taken only whole and signed; the SVN floor only rises, and not in recovery; an
attestation is answered once for a nonce, and not after a debug write; the engine signs for the attestation core only. Sector 0 with SEQ 1 and
the words of an image write (log 104), the refusal of an equal floor (log 105) and the nonces remembered (log 106) are the model's reading. -/
def Obligations.BootEvents : Prop :=
  (∀ (s : State), let d := s.cur; let v := s.dev d; ∃ (t : State), exec .deviceReset s = .next t ∧ (t.dev d).flash = v.flash ∧ (t.dev d).keyHash = v.keyHash ∧
    (t.dev d).floor = v.floor ∧ (∀ i, t.slot i = if slotDev i = d then {} else s.slot i) ∧ (∀ k, t.core k = if k / 16384 = d then {} else s.core k) ∧
    (∀ p, t.part p = if p / 32 = d then {} else s.part p) ∧ (∀ a, t.byte a = if locDev a = d then 0 else s.byte a) ∧
    (∀ e, e ≠ d → t.dev e = s.dev e) ∧ (chooseSlot v = none ∨ configSector v = none → (t.dev d).boot.recovery = true)) ∧
  (∀ (s : State) (slot : W64), s.data = [slot] → let v := s.dev s.cur
    let new (sector seq : Nat) (m : List Byte) : Prop := m = (let b := leBytes 0x4B4D4642 4 ++ leBytes slot.toNat 4 ++ leBytes seq 8 ++ imageDigest v (slotOffset slot.toNat)
      b ++ Config.shake256 b 64) ∧ ∃ (t : State), exec .markerFlip s = .next t ∧ Answered t s.cur 0 [] ∧ Aside s t ∧ t.dev s.cur = writeFlash v (sector * 0x10000) m
    (1 < slot.toNat → exec .markerFlip s = .next (s.answer 1)) ∧
    (slot.toNat ≤ 1 → (∀ i m, markerInUse v = some (i, m) → m.seq + 1 < 2 ^ 64 → ∃ b, new (1 - i) (m.seq + 1) b) ∧ (markerInUse v = none → ∃ b, new 0 1 b))) ∧
  (∀ (v : Device) (off : Nat) (l : List Byte), (∀ i, i < l.length → Sp.get 0 (writeFlash v off l).flash (off + i) = l.getD i 0) ∧
    (∀ k, k < off ∨ off + l.length ≤ k → Sp.get 0 (writeFlash v off l).flash k = Sp.get 0 v.flash k)) ∧
  (∀ (s : State) (slot off n : W64) (l : List W64), s.data = slot :: off :: n :: l → slot.toNat ≤ 1 → off.toNat + n.toNat ≤ 2 ^ 25 → n.toNat ≤ 8 * l.length →
    let o := if slot = 0 then 0x100000 else 0x2100000
    let v := writeFlash (s.dev s.cur) (o + off.toNat) ((l.flatMap fun w => leBytes w.toNat 8).take n.toNat)
    let whole : Prop := off = 0 ∧ n.toNat = headerLen + imageLength v o ∧ imageSigned v o = true
    ((s.dev s.cur).boot.recovery = false ∨ whole → ∃ (t : State), exec .imageWrite s = .next t ∧ Answered t s.cur 0 [] ∧ Aside s t ∧ t.dev s.cur = v) ∧
    ((s.dev s.cur).boot.recovery = true → ¬whole → exec .imageWrite s = .next (s.answer 1))) ∧
  (∀ (s : State) (f : W64), s.data = [f] → let v := s.dev s.cur; let n : BitVec 32 := f.setWidth 32
    (v.boot.recovery = false → v.floor.toNat < n.toNat → ∃ (t : State), exec .svnFloorRaise s = .next t ∧ t.dev s.cur = { v with floor := n } ∧ Answered t s.cur 0 [] ∧ Aside s t) ∧
    (v.boot.recovery = true ∨ n.toNat ≤ v.floor.toNat → exec .svnFloorRaise s = .next (s.answer 1))) ∧
  (∀ (s : State) (a b c e : W64), s.data = [a, b, c, e] → let v := s.dev s.cur; let nonce := [a, b, c, e].flatMap fun w => leBytes w.toNat 8
    (v.boot.recovery = true → exec .attestationRequest s = .next (s.answer 1)) ∧
    (v.boot.recovery = false → ∃ (t : State), exec .attestationRequest s = .next t ∧ Aside s t ∧ t.dev s.cur = { v with nonces := nonce :: v.nonces } ∧
      (v.debugWrote = true → Answered t s.cur 3 []) ∧
      (v.debugWrote = false → anyHalted s s.cur = true ∨ nonce ∈ v.nonces → Answered t s.cur 1 []) ∧
      (v.debugWrote = false → anyHalted s s.cur = false → nonce ∉ v.nonces → ∃ r sig : List Byte, sig = Config.sign (s.identity s.cur) (Config.shake256 r 64) ∧
        r = nonce ++ leBytes (v.boot.ident.getD s.cur) 2 ++ leBytes v.boot.slot 1 ++ [0] ++ leBytes v.boot.svn.toNat 4 ++ leBytes v.boot.seq.toNat 8 ++
          v.boot.digest ++ v.boot.cfgDigest ++ leBytes v.boot.cfgSeq.toNat 8 ++ leBytes v.floor.toNat 4 ++ leBytes (s.ptpTime s.cur).toNat 8 ∧ Answered t s.cur 0 ((r ++ sig).map fun b => b.setWidth 64)))) ∧
  (∀ (s : State), s.data.length = 8 → let v := s.dev (s.cur / 16384)
    (v.boot.recovery = true ∨ Sp.get 0 v.boot.roles (s.cur % 16384) ≠ 4 → exec .signingRequest s = .next (s.answer 1)) ∧
    (v.boot.recovery = false → Sp.get 0 v.boot.roles (s.cur % 16384) = 4 → exec .signingRequest s = .next (s.answer 0 ((Config.sign (s.identity (s.cur / 16384))
      (s.data.flatMap fun w => leBytes w.toNat 8)).map fun b => b.setWidth 64))))

/-- R24. g0 reads as zero and k0 as all ones whatever has been written, both are always FULL, and a write to either is discarded. -/
def Obligations.ZeroRegisters : Prop :=
  ∀ (t : Slot), t.getG 0 = 0 ∧ t.getK 0 = 0xFFFFFFFF ∧ t.empty 0 = false ∧ t.empty 64 = false ∧ (∀ v, t.setG 0 v = t) ∧ (∀ v, t.setK 0 v = t) ∧
    (∀ n v, n ≠ 0 → (t.setG n v).getG n = v ∧ (t.setG n v).empty n = false ∧ ∀ m, m ≠ n → (t.setG n v).getG m = t.getG m) ∧
    (∀ n v, n ≠ 0 → (t.setK n v).getK n = v ∧ ∀ m, m ≠ n → (t.setK n v).getK m = t.getK m) ∧
    (∀ n v, (t.setV n v).getV n = v ∧ ∀ m, m ≠ n → (t.setV n v).getV m = t.getV m)

/-- R30, R37, R49, R78, R79, R106, R131. What reset leaves: every slot idle with its registers zero and FULL and its system registers at their
reset values, class 0 of a core on, bound to slot 0, with 512 words at 0, and the other classes off, every port closed, every byte of every memory zero, no guard bit set, no partition live, no level record, nothing in
flight; memory is in its canonical form. -/
def Obligations.ResetState : Prop :=
  let s := State.reset
  MemInv s ∧ (∀ a, s.byte a = 0) ∧ s.agenda = [] ∧ s.due = [] ∧ s.timers = [] ∧ s.issuable = [] ∧
  (∀ p, (s.part p).live = false ∧ (s.part p).signals = []) ∧ (∀ p h, s.level? p h = none) ∧
  (∀ c, (s.cluster c).part = none ∧ (s.cluster c).dbgctl = 0 ∧ (s.cluster c).ready = []) ∧
  (∀ k, (∀ i, (s.port k i).st = .closed) ∧ (∀ g, Sp.get false (s.core k).guards g = false) ∧ (s.core k).cls 0 = 0x8300000 ∧ (∀ n, 0 < n → n < 16 → (s.core k).cls n = 0)) ∧
  (∀ q, s.queue q = { size := 6 }) ∧
  ∀ i, let t := s.slot i
    t.st = .idle ∧ (∀ n, t.getG n = 0 ∧ t.getV n = 0 ∧ t.getK (n + 1) = 0 ∧ t.empty n = false) ∧ t.getK 0 = 0xFFFFFFFF ∧ t.outst = [] ∧
    (∀ r ∈ [0x001, 0x002, 0x003, 0x010, 0x011, 0x012, 0x013, 0x014, 0x015, 0x018, 0x019, 0x01A, 0x020, 0x028, 0x029, 0x030, 0x031, 0x032, 0x033,
      0x034, 0x035, 0x036, 0x037, 0x040, 0x041, 0x042, 0x050, 0x060], ∀ sub, s.sysReg i r sub = 0) ∧
    s.sysReg i 0x004 0 = 0x80000 ∧ s.sysReg i 0x021 0 = 0x100000

/-- R4, R49. Memory: a read after a write gives the value written, least significant byte first, every other byte stays, the canonical form
is kept, every path sees the bytes as they are now and a path its own write (R192, R195), and a write reaches nothing but memory, the requests parked at it, what it answers, and
the lines of the instruction store that its core goes on to fetch as they were. What a path may not see yet of another write stays so, but for a write
whose bytes this one meets, which is seen from then on. -/
def Obligations.MemoryReadAfterWrite : Prop :=
  ∀ (s : State) (a v n : Nat), let t := s.write a v n
    t.read a n = v % 256 ^ n ∧ (∀ j, j < n → t.byte (a + j) = BitVec.ofNat 8 (v / 256 ^ j)) ∧ (∀ q, q < a ∨ a + n ≤ q → t.byte q = s.byte q) ∧
    (MemInv s → MemInv t) ∧ t = { s with mem := t.mem, parked := t.parked, agenda := t.agenda, cores := t.cores, unseen := t.unseen } ∧
    (a + n ≤ 2 ^ 44 ∨ 2 ^ 45 ≤ a → t.cores = s.cores) ∧ (∀ k, t.core k = { s.core k with fetchBuf := (t.core k).fetchBuf }) ∧
    (∀ path w q, a ≤ q → q < a + n → t.byteOn path w q = t.byte q ∧ (s.pathWrite path a v n).byteOn path w q = t.byte q) ∧
    (∀ q, Sp.find s.unseen q = none → Sp.find t.unseen q = none) ∧
    (∀ q u, Sp.find s.unseen q = some u → (∀ r w, (r, w) ∈ s.unseen → a ≤ r → r < a + n → w.id ≠ u.id) → q < a ∨ a + n ≤ q → Sp.find t.unseen q = some u)

/-- R220, R222 to R224. Decode of encode is the instruction, for every well-formed instruction that words encode, whatever its fields: registers,
f bit, mode, immediate, mask, trap bits and how many immediate prefixes it has. -/
def Obligations.RoundTrip : Prop :=
  ∀ i : Instr, i.encodedWf = true → decodeWords (encode i) = .ok i

/-- R227, R237. What the decoder answers is well formed: its fields obey their row of the opcode map and the prefix rules. A group of a zero base
word, or with more than four prefixes, is refused. -/
def Obligations.DecodedIsWellFormed : Prop :=
  (∀ (ws : List Half) (i : Instr), decodeWords ws = .ok i → i.encodedWf = true) ∧
  (∀ (ws : List Half) (i : Instr), decodeWords (0 :: ws) ≠ .ok i) ∧
  (∀ (a b c d e : Half) (ws : List Half) (i : Instr), (∀ w ∈ [a, b, c, d, e], isPrefixWord w = true) → decodeWords (a :: b :: c :: d :: e :: ws) ≠ .ok i)

/-- R220, R222, R230 to R236. Words written out from the formats: ADD g3, g1, g2; ADDI g2, g1, −1; MOVI g5, 0x3FF with one XI; BEQ g1, g2 with
immediate −2; LD.D g9 with base g17, immediate 1, mode field 01 and an XR; DIV g3, g1, g2 with its f bit set, under XP; VFADD v1, v2, v3 under
mask ~k2; BR with immediate −1. -/
def Obligations.DecodedWords : Prop :=
  decodeWords [0b0000010110010100] = .ok (.add { d := 3, a := 1, b := 2 }) ∧
  decodeWords [0b0011000100011111] = .ok (.addi { d := 2, a := 1, imm := -1 }) ∧
  decodeWords [0b1111000000000111, 0b0101001011111111] = .ok (.movi { d := 5, imm := 0x3FF, nxi := 1 }) ∧
  decodeWords [0b0111000010101110] = .ok (.beq { d := 1, a := 2, imm := -2 }) ∧
  decodeWords [0b1111010110000000, 0b1010000010010101] = .ok (.ldD { d := 9, a := 17, mode := 1, imm := 1, xr := true }) ∧
  decodeWords [0b1111100000000001, 0b0000100110010101] = .ok (.div { d := 3, a := 1, b := 2, f := true, xp := true }) ∧
  decodeWords [0b1111100000000010, 0b1111110101000000, 0b0010100010100110] =
    .ok (.vfadd { d := 1, a := 2, b := 3, xp := true, xk := some (true, 2) }) ∧
  decodeWords [0b0110001111111111] = .ok (.br { imm := -1 })

/-- R12, R172, R173, R192, R218. An operation that is due is performed next, by its part and with its data, but for one that a halt holds for a
slot (R426). Where the one thing to do is that a slot issues, and the words of the group decode to an instruction, the step is what the
instruction does for that slot, in the state as it was; the slot of a group that waits keeps its words (log 53), and a debug step of the slot is
used up. The words of a slot that is ready are those at its PC. An instruction placed where the next step fetches (log 1) is the first to run. -/
def Obligations.StepRunsDecoded : Prop :=
  (∀ (s : State) (o : Op) (l : List Op), s.due = o :: l → opDev { s with due := l } o < devices →
    (haltHolds { s with due := l } o = none → ∀ t, exec o.ins { s with due := l, cur := o.who, data := o.data, kept := o.xl } = .next t →
      step s = .next (afterOp (hearer o) t)) ∧
    (∀ slot, haltHolds { s with due := l } o = some slot → step s = .next (State.holdHalted { s with due := l } slot o))) ∧
  (∀ (s : State) (slot : Nat), (s.slot slot).st = .ready → groupWords s slot = s.group (slotCore slot) (s.slot slot).pc.toNat) ∧
  (∀ (s t : State) (slot : Nat) (ws : List Half) (i : Instr), s.due = [] → moves s = [.issue slot] → groupWords s slot = some ws → decodeWords ws = .ok i →
    exec i { s with cur := slot, data := [], kept := [], issuable := s.issuable.filter (fun j => j != slot) } = .next t →
    step s = .next (afterIssue slot ws (afterOp (tookWord slot s t) t))) ∧
  (∀ (nbits w : Nat) (i : Instr), decodeTableWord nbits w = some i → ∃ (u : State) (ws : List Half), decodeWords ws = .ok i ∧ u.cur = 0 ∧ u.agenda = [] ∧ u.due = [] ∧
    u.slot 0 = { State.reset.slot 0 with st := .ready } ∧
    ∀ t, exec i u = .next t → step (State.reset.withFetchWord nbits w) = .next (afterIssue 0 ws (afterOp (tookWord 0 u t) t)))

/-- R49. Every step keeps memory in its canonical form, from every state that has it. -/
def Obligations.StepKeepsMemory : Prop :=
  ∀ (s t : State), MemInv s → step s = .next t → MemInv t

/-- R185, R218, R227. A property of the model, which rests on these rules and which no one of them states: every group is performed or traps, so every instruction and every event of the table has a next state in every state, so that no
data ends a run; a step is never refused, and has a next state wherever the operations it may perform act for places that a device has. -/
def Obligations.NothingIsRefused : Prop :=
  (∀ (i : Instr) (s : State), ∃ (t : State), exec i s = .next t) ∧ (∀ (s : State) (r : Refusal), step s ≠ .refused r) ∧
  (∀ (s : State), (∀ o ∈ s.due ++ s.agenda, opDev s o < devices) → (∀ c ∈ s.clusters, ∀ q ∈ c.2.haltHeld, opDev s q.2 < devices) → (∀ o, Move.own o ∈ moves s → opDev s o < devices) →
    (∀ slot i, Move.ofSlot slot i ∈ moves s → slotDev slot < devices) → ∃ (t : State), step s = .next t)

/-- R433, R436, R437. The fuses and the flash of a device, over every instruction and event: the key hash never changes, the SVN floor
never falls and changes by SVN_FLOOR_RAISE alone, and the flash changes by IMAGE_WRITE and MARKER_FLIP alone. -/
def Obligations.FusesAndFlash : Prop :=
  ∀ (i : Instr) (s t : State) (d : Nat), exec i s = .next t →
    (t.dev d).keyHash = (s.dev d).keyHash ∧ (s.dev d).floor.toNat ≤ (t.dev d).floor.toNat ∧
    (i ≠ .svnFloorRaise → (t.dev d).floor = (s.dev d).floor) ∧ (i ≠ .imageWrite → i ≠ .markerFlip → (t.dev d).flash = (s.dev d).flash)
end

