-- ==== Sys2Proof/Laws/Sparse.lean ====
section
/-! SUPPORT. Lemmas on sparse maps: reading after a write, and the canonical form kept by every operation. -/

namespace Sys2Proof.Machine

variable {α : Type}

@[simp] theorem Sp.find_erase_self (m : Sp α) (k : Nat) : Sp.find (Sp.erase m k) k = none := by
  induction m with
  | nil => rfl
  | cons p m ih => by_cases h : p.1 = k <;> simp [Sp.erase, Sp.find, h, ih]

theorem Sp.find_erase_other (m : Sp α) (k j : Nat) (h : j ≠ k) : Sp.find (Sp.erase m k) j = Sp.find m j := by
  induction m with
  | nil => rfl
  | cons p m ih =>
    by_cases hk : p.1 = k
    · simp [Sp.erase, Sp.find, hk, ih, Ne.symm h]
    · simp [Sp.erase, Sp.find, hk, ih]

theorem Sp.find_place_self (m : Sp α) (k : Nat) (v : α) : Sp.find (Sp.place m k v) k = some v := by
  induction m with
  | nil => simp [Sp.place, Sp.find]
  | cons p m ih =>
    by_cases h : p.1 < k
    · simp [Sp.place, Sp.find, h, ih, Nat.ne_of_lt h]
    · simp [Sp.place, Sp.find, h]

theorem Sp.find_place_other (m : Sp α) (k j : Nat) (v : α) (h : j ≠ k) : Sp.find (Sp.place m k v) j = Sp.find m j := by
  induction m with
  | nil => simp [Sp.place, Sp.find, h.symm]
  | cons p m ih =>
    by_cases hk : p.1 < k
    · simp [Sp.place, Sp.find, hk, ih]
    · simp [Sp.place, Sp.find, hk, h.symm]

@[simp] theorem Sp.find_put_self (m : Sp α) (k : Nat) (v : α) : Sp.find (Sp.put m k v) k = some v :=
  Sp.find_place_self _ k v

theorem Sp.find_put_other (m : Sp α) (k j : Nat) (v : α) (h : j ≠ k) : Sp.find (Sp.put m k v) j = Sp.find m j := by
  rw [Sp.put, Sp.find_place_other _ _ _ _ h, Sp.find_erase_other _ _ _ h]

@[simp] theorem Sp.get_put_self (d : α) (m : Sp α) (k : Nat) (v : α) : Sp.get d (Sp.put m k v) k = v := by
  simp [Sp.get]

theorem Sp.get_put_other (d : α) (m : Sp α) (k j : Nat) (v : α) (h : j ≠ k) : Sp.get d (Sp.put m k v) j = Sp.get d m j := by
  simp [Sp.get, Sp.find_put_other _ _ _ _ h]

theorem Sp.get_put (d : α) (m : Sp α) (k j : Nat) (v : α) : Sp.get d (Sp.put m k v) j = if j = k then v else Sp.get d m j := by
  by_cases h : j = k
  · simp [h]
  · simp [h, Sp.get_put_other]

theorem Sp.get_set [DecidableEq α] (d : α) (m : Sp α) (k j : Nat) (v : α) :
    Sp.get d (Sp.set d m k v) j = if j = k then v else Sp.get d m j := by
  unfold Sp.set
  by_cases hv : v = d
  · by_cases h : j = k
    · simp [hv, h, Sp.get]
    · simp [hv, h, Sp.get, Sp.find_erase_other]
  · simp [hv, Sp.get_put]

@[simp] theorem Sp.get_set_self [DecidableEq α] (d : α) (m : Sp α) (k : Nat) (v : α) : Sp.get d (Sp.set d m k v) k = v := by
  simp [Sp.get_set]

theorem Sp.erase_erase (m : Sp α) (k : Nat) : Sp.erase (Sp.erase m k) k = Sp.erase m k := by
  induction m with
  | nil => rfl
  | cons p m ih => by_cases h : p.1 = k <;> simp [Sp.erase, h, ih]

theorem Sp.erase_place (m : Sp α) (k : Nat) (v : α) : Sp.erase (Sp.place m k v) k = Sp.erase m k := by
  induction m with
  | nil => simp [Sp.place, Sp.erase]
  | cons p m ih =>
    by_cases h : p.1 < k
    · simp [Sp.place, Sp.erase, h, Nat.ne_of_lt h, ih]
    · simp [Sp.place, Sp.erase, h]

@[simp] theorem Sp.put_put (m : Sp α) (k : Nat) (v w : α) : Sp.put (Sp.put m k v) k w = Sp.put m k w := by
  simp [Sp.put, Sp.erase_place, Sp.erase_erase]

/-! ## The canonical form -/

/-- Every key of a map is above `k`. -/
def Sp.above (k : Nat) (m : Sp α) : Prop := ∀ p ∈ m, k < p.1

theorem Sp.wf_cons [DecidableEq α] (d : α) (p : Nat × α) (m : Sp α) :
    Sp.wf d (p :: m) = true ↔ p.2 ≠ d ∧ Sp.above p.1 m ∧ Sp.wf d m = true := by
  induction m generalizing p with
  | nil => simp [Sp.wf, Sp.above]
  | cons q m ih =>
    have hq := ih q
    constructor
    · intro h
      simp only [Sp.wf, Bool.and_eq_true, decide_eq_true_eq] at h
      have hw : Sp.wf d (q :: m) = true := by simp only [Sp.wf, Bool.and_eq_true, decide_eq_true_eq]; exact h.2
      refine ⟨h.1.1, ?_, hw⟩
      intro r hr
      rcases List.mem_cons.1 hr with e | hm
      · rw [e]; exact h.1.2
      · exact Nat.lt_trans h.1.2 ((hq.1 hw).2.1 r hm)
    · rintro ⟨h1, h2, h3⟩
      simp only [Sp.wf, Bool.and_eq_true, decide_eq_true_eq] at h3 ⊢
      exact ⟨⟨h1, h2 q (by simp)⟩, h3⟩

theorem Sp.mem_erase (m : Sp α) (k : Nat) (p : Nat × α) : p ∈ Sp.erase m k ↔ p ∈ m ∧ p.1 ≠ k := by
  induction m with
  | nil => simp [Sp.erase]
  | cons q m ih =>
    by_cases h : q.1 = k
    · simp only [Sp.erase, h, if_true, ih, List.mem_cons]
      constructor
      · rintro ⟨a, b⟩; exact ⟨Or.inr a, b⟩
      · rintro ⟨rfl | a, b⟩
        · exact absurd h b
        · exact ⟨a, b⟩
    · simp only [Sp.erase, h, if_false, List.mem_cons, ih]
      constructor
      · rintro (rfl | ⟨a, b⟩)
        · exact ⟨Or.inl rfl, h⟩
        · exact ⟨Or.inr a, b⟩
      · rintro ⟨rfl | a, b⟩
        · exact Or.inl rfl
        · exact Or.inr ⟨a, b⟩

theorem Sp.wf_erase [DecidableEq α] (d : α) (m : Sp α) (k : Nat) (h : Sp.wf d m = true) : Sp.wf d (Sp.erase m k) = true := by
  induction m with
  | nil => rfl
  | cons p m ih =>
    obtain ⟨h1, h2, h3⟩ := (Sp.wf_cons d p m).1 h
    by_cases hk : p.1 = k
    · simp only [Sp.erase, hk, if_true]; exact ih h3
    · simp only [Sp.erase, hk, if_false]
      exact (Sp.wf_cons d p _).2 ⟨h1, fun r hr => h2 r ((Sp.mem_erase m k r).1 hr).1, ih h3⟩

theorem Sp.mem_place (m : Sp α) (k : Nat) (v : α) (p : Nat × α) : p ∈ Sp.place m k v ↔ p = (k, v) ∨ p ∈ m := by
  induction m with
  | nil => simp [Sp.place]
  | cons q m ih =>
    by_cases h : q.1 < k
    · simp only [Sp.place, h, if_true, List.mem_cons, ih]
      tauto
    · simp [Sp.place, h]

theorem Sp.wf_place [DecidableEq α] (d : α) (m : Sp α) (k : Nat) (v : α) (hv : v ≠ d) (hk : ∀ p ∈ m, p.1 ≠ k)
    (h : Sp.wf d m = true) : Sp.wf d (Sp.place m k v) = true := by
  induction m with
  | nil => simp [Sp.place, Sp.wf, hv]
  | cons p m ih =>
    obtain ⟨h1, h2, h3⟩ := (Sp.wf_cons d p m).1 h
    by_cases hp : p.1 < k
    · simp only [Sp.place, hp, if_true]
      refine (Sp.wf_cons d p _).2 ⟨h1, ?_, ih (fun r hr => hk r (List.mem_cons_of_mem _ hr)) h3⟩
      intro r hr
      rcases (Sp.mem_place m k v r).1 hr with e | hm
      · rw [e]; exact hp
      · exact h2 r hm
    · have hlt : k < p.1 := lt_of_le_of_ne (Nat.not_lt.1 hp) (fun e => hk p (by simp) e.symm)
      simp only [Sp.place, hp, if_false]
      refine (Sp.wf_cons d (k, v) _).2 ⟨hv, ?_, h⟩
      intro r hr
      rcases List.mem_cons.1 hr with e | hm
      · rw [e]; exact hlt
      · exact Nat.lt_trans hlt (h2 r hm)

theorem Sp.wf_set [DecidableEq α] (d : α) (m : Sp α) (k : Nat) (v : α) (h : Sp.wf d m = true) :
    Sp.wf d (Sp.set d m k v) = true := by
  unfold Sp.set
  by_cases hv : v = d
  · simp only [hv, if_true]; exact Sp.wf_erase d m k h
  · simp only [hv, if_false]
    exact Sp.wf_place d _ k v hv (fun p hp => ((Sp.mem_erase m k p).1 hp).2) (Sp.wf_erase d m k h)

theorem Sp.wf_filter [DecidableEq α] (d : α) (m : Sp α) (f : Nat × α → Bool) (h : Sp.wf d m = true) :
    Sp.wf d (m.filter f) = true := by
  induction m with
  | nil => rfl
  | cons p m ih =>
    obtain ⟨h1, h2, h3⟩ := (Sp.wf_cons d p m).1 h
    by_cases hf : f p = true
    · rw [List.filter_cons_of_pos hf]
      exact (Sp.wf_cons d p _).2 ⟨h1, fun r hr => h2 r (List.mem_of_mem_filter hr), ih h3⟩
    · rw [List.filter_cons_of_neg hf]; exact ih h3

end Sys2Proof.Machine
end

