-- ==== Sys2Proof/Laws/State.lean ====
section
/-! SUPPORT. One lemma per field per update of the state: what each plain update leaves and what it changes, true by rfl. -/

namespace Sys2Proof.Machine
open Sys2Proof

@[simp] theorem State.tick_mem (s : State) : (s.tick).mem = s.mem := rfl
@[simp] theorem State.tick_unseen (s : State) : (s.tick).unseen = s.unseen := rfl
@[simp] theorem State.tick_slots (s : State) : (s.tick).slots = s.slots := rfl
@[simp] theorem State.tick_cores (s : State) : (s.tick).cores = s.cores := rfl
@[simp] theorem State.tick_clusters (s : State) : (s.tick).clusters = s.clusters := rfl
@[simp] theorem State.tick_slices (s : State) : (s.tick).slices = s.slices := rfl
@[simp] theorem State.tick_routers (s : State) : (s.tick).routers = s.routers := rfl
@[simp] theorem State.tick_parts (s : State) : (s.tick).parts = s.parts := rfl
@[simp] theorem State.tick_devs (s : State) : (s.tick).devs = s.devs := rfl
@[simp] theorem State.tick_levels (s : State) : (s.tick).levels = s.levels := rfl
@[simp] theorem State.tick_assembly (s : State) : (s.tick).assembly = s.assembly := rfl
@[simp] theorem State.tick_partners (s : State) : (s.tick).partners = s.partners := rfl
@[simp] theorem State.tick_nis (s : State) : (s.tick).nis = s.nis := rfl
@[simp] theorem State.tick_copies (s : State) : (s.tick).copies = s.copies := rfl
@[simp] theorem State.tick_parked (s : State) : (s.tick).parked = s.parked := rfl
@[simp] theorem State.tick_barWait (s : State) : (s.tick).barWait = s.barWait := rfl
@[simp] theorem State.tick_orphans (s : State) : (s.tick).orphans = s.orphans := rfl
@[simp] theorem State.tick_out (s : State) : (s.tick).out = s.out := rfl
@[simp] theorem State.tick_now (s : State) : (s.tick).now = s.now := rfl
@[simp] theorem State.tick_cur (s : State) : (s.tick).cur = s.cur := rfl
@[simp] theorem State.tick_data (s : State) : (s.tick).data = s.data := rfl
@[simp] theorem State.tick_kept (s : State) : (s.tick).kept = s.kept := rfl
@[simp] theorem State.tick_heard (s : State) : (s.tick).heard = s.heard := rfl
@[simp] theorem State.tick_issuable (s : State) : (s.tick).issuable = s.issuable := rfl
@[simp] theorem State.tick_due (s : State) : (s.tick).due = s.due := rfl
@[simp] theorem State.tick_agenda (s : State) : (s.tick).agenda = s.agenda := rfl
@[simp] theorem State.tick_timers (s : State) : (s.tick).timers = s.timers := rfl

@[simp] theorem State.setSlot_mem (s : State) (i : Nat) (x : Slot) : (s.setSlot i x).mem = s.mem := rfl
@[simp] theorem State.setSlot_unseen (s : State) (i : Nat) (x : Slot) : (s.setSlot i x).unseen = s.unseen := rfl
@[simp] theorem State.setSlot_cores (s : State) (i : Nat) (x : Slot) : (s.setSlot i x).cores = s.cores := rfl
@[simp] theorem State.setSlot_clusters (s : State) (i : Nat) (x : Slot) : (s.setSlot i x).clusters = s.clusters := rfl
@[simp] theorem State.setSlot_slices (s : State) (i : Nat) (x : Slot) : (s.setSlot i x).slices = s.slices := rfl
@[simp] theorem State.setSlot_routers (s : State) (i : Nat) (x : Slot) : (s.setSlot i x).routers = s.routers := rfl
@[simp] theorem State.setSlot_parts (s : State) (i : Nat) (x : Slot) : (s.setSlot i x).parts = s.parts := rfl
@[simp] theorem State.setSlot_devs (s : State) (i : Nat) (x : Slot) : (s.setSlot i x).devs = s.devs := rfl
@[simp] theorem State.setSlot_levels (s : State) (i : Nat) (x : Slot) : (s.setSlot i x).levels = s.levels := rfl
@[simp] theorem State.setSlot_assembly (s : State) (i : Nat) (x : Slot) : (s.setSlot i x).assembly = s.assembly := rfl
@[simp] theorem State.setSlot_partners (s : State) (i : Nat) (x : Slot) : (s.setSlot i x).partners = s.partners := rfl
@[simp] theorem State.setSlot_nis (s : State) (i : Nat) (x : Slot) : (s.setSlot i x).nis = s.nis := rfl
@[simp] theorem State.setSlot_copies (s : State) (i : Nat) (x : Slot) : (s.setSlot i x).copies = s.copies := rfl
@[simp] theorem State.setSlot_parked (s : State) (i : Nat) (x : Slot) : (s.setSlot i x).parked = s.parked := rfl
@[simp] theorem State.setSlot_barWait (s : State) (i : Nat) (x : Slot) : (s.setSlot i x).barWait = s.barWait := rfl
@[simp] theorem State.setSlot_orphans (s : State) (i : Nat) (x : Slot) : (s.setSlot i x).orphans = s.orphans := rfl
@[simp] theorem State.setSlot_out (s : State) (i : Nat) (x : Slot) : (s.setSlot i x).out = s.out := rfl
@[simp] theorem State.setSlot_now (s : State) (i : Nat) (x : Slot) : (s.setSlot i x).now = s.now := rfl
@[simp] theorem State.setSlot_cur (s : State) (i : Nat) (x : Slot) : (s.setSlot i x).cur = s.cur := rfl
@[simp] theorem State.setSlot_data (s : State) (i : Nat) (x : Slot) : (s.setSlot i x).data = s.data := rfl
@[simp] theorem State.setSlot_kept (s : State) (i : Nat) (x : Slot) : (s.setSlot i x).kept = s.kept := rfl
@[simp] theorem State.setSlot_heard (s : State) (i : Nat) (x : Slot) : (s.setSlot i x).heard = s.heard := rfl
@[simp] theorem State.setSlot_issuable (s : State) (i : Nat) (x : Slot) : (s.setSlot i x).issuable = s.issuable := rfl
@[simp] theorem State.setSlot_due (s : State) (i : Nat) (x : Slot) : (s.setSlot i x).due = s.due := rfl
@[simp] theorem State.setSlot_agenda (s : State) (i : Nat) (x : Slot) : (s.setSlot i x).agenda = s.agenda := rfl
@[simp] theorem State.setSlot_timers (s : State) (i : Nat) (x : Slot) : (s.setSlot i x).timers = s.timers := rfl
@[simp] theorem State.setSlot_ticket (s : State) (i : Nat) (x : Slot) : (s.setSlot i x).ticket = s.ticket := rfl

@[simp] theorem State.setCore_mem (s : State) (i : Nat) (x : Core) : (s.setCore i x).mem = s.mem := rfl
@[simp] theorem State.setCore_unseen (s : State) (i : Nat) (x : Core) : (s.setCore i x).unseen = s.unseen := rfl
@[simp] theorem State.setCore_slots (s : State) (i : Nat) (x : Core) : (s.setCore i x).slots = s.slots := rfl
@[simp] theorem State.setCore_clusters (s : State) (i : Nat) (x : Core) : (s.setCore i x).clusters = s.clusters := rfl
@[simp] theorem State.setCore_slices (s : State) (i : Nat) (x : Core) : (s.setCore i x).slices = s.slices := rfl
@[simp] theorem State.setCore_routers (s : State) (i : Nat) (x : Core) : (s.setCore i x).routers = s.routers := rfl
@[simp] theorem State.setCore_parts (s : State) (i : Nat) (x : Core) : (s.setCore i x).parts = s.parts := rfl
@[simp] theorem State.setCore_devs (s : State) (i : Nat) (x : Core) : (s.setCore i x).devs = s.devs := rfl
@[simp] theorem State.setCore_levels (s : State) (i : Nat) (x : Core) : (s.setCore i x).levels = s.levels := rfl
@[simp] theorem State.setCore_assembly (s : State) (i : Nat) (x : Core) : (s.setCore i x).assembly = s.assembly := rfl
@[simp] theorem State.setCore_partners (s : State) (i : Nat) (x : Core) : (s.setCore i x).partners = s.partners := rfl
@[simp] theorem State.setCore_nis (s : State) (i : Nat) (x : Core) : (s.setCore i x).nis = s.nis := rfl
@[simp] theorem State.setCore_copies (s : State) (i : Nat) (x : Core) : (s.setCore i x).copies = s.copies := rfl
@[simp] theorem State.setCore_parked (s : State) (i : Nat) (x : Core) : (s.setCore i x).parked = s.parked := rfl
@[simp] theorem State.setCore_barWait (s : State) (i : Nat) (x : Core) : (s.setCore i x).barWait = s.barWait := rfl
@[simp] theorem State.setCore_orphans (s : State) (i : Nat) (x : Core) : (s.setCore i x).orphans = s.orphans := rfl
@[simp] theorem State.setCore_out (s : State) (i : Nat) (x : Core) : (s.setCore i x).out = s.out := rfl
@[simp] theorem State.setCore_now (s : State) (i : Nat) (x : Core) : (s.setCore i x).now = s.now := rfl
@[simp] theorem State.setCore_cur (s : State) (i : Nat) (x : Core) : (s.setCore i x).cur = s.cur := rfl
@[simp] theorem State.setCore_data (s : State) (i : Nat) (x : Core) : (s.setCore i x).data = s.data := rfl
@[simp] theorem State.setCore_kept (s : State) (i : Nat) (x : Core) : (s.setCore i x).kept = s.kept := rfl
@[simp] theorem State.setCore_heard (s : State) (i : Nat) (x : Core) : (s.setCore i x).heard = s.heard := rfl
@[simp] theorem State.setCore_issuable (s : State) (i : Nat) (x : Core) : (s.setCore i x).issuable = s.issuable := rfl
@[simp] theorem State.setCore_due (s : State) (i : Nat) (x : Core) : (s.setCore i x).due = s.due := rfl
@[simp] theorem State.setCore_agenda (s : State) (i : Nat) (x : Core) : (s.setCore i x).agenda = s.agenda := rfl
@[simp] theorem State.setCore_timers (s : State) (i : Nat) (x : Core) : (s.setCore i x).timers = s.timers := rfl
@[simp] theorem State.setCore_ticket (s : State) (i : Nat) (x : Core) : (s.setCore i x).ticket = s.ticket := rfl

@[simp] theorem State.setCluster_mem (s : State) (i : Nat) (x : Cluster) : (s.setCluster i x).mem = s.mem := rfl
@[simp] theorem State.setCluster_unseen (s : State) (i : Nat) (x : Cluster) : (s.setCluster i x).unseen = s.unseen := rfl
@[simp] theorem State.setCluster_slots (s : State) (i : Nat) (x : Cluster) : (s.setCluster i x).slots = s.slots := rfl
@[simp] theorem State.setCluster_cores (s : State) (i : Nat) (x : Cluster) : (s.setCluster i x).cores = s.cores := rfl
@[simp] theorem State.setCluster_slices (s : State) (i : Nat) (x : Cluster) : (s.setCluster i x).slices = s.slices := rfl
@[simp] theorem State.setCluster_routers (s : State) (i : Nat) (x : Cluster) : (s.setCluster i x).routers = s.routers := rfl
@[simp] theorem State.setCluster_parts (s : State) (i : Nat) (x : Cluster) : (s.setCluster i x).parts = s.parts := rfl
@[simp] theorem State.setCluster_devs (s : State) (i : Nat) (x : Cluster) : (s.setCluster i x).devs = s.devs := rfl
@[simp] theorem State.setCluster_levels (s : State) (i : Nat) (x : Cluster) : (s.setCluster i x).levels = s.levels := rfl
@[simp] theorem State.setCluster_assembly (s : State) (i : Nat) (x : Cluster) : (s.setCluster i x).assembly = s.assembly := rfl
@[simp] theorem State.setCluster_partners (s : State) (i : Nat) (x : Cluster) : (s.setCluster i x).partners = s.partners := rfl
@[simp] theorem State.setCluster_nis (s : State) (i : Nat) (x : Cluster) : (s.setCluster i x).nis = s.nis := rfl
@[simp] theorem State.setCluster_copies (s : State) (i : Nat) (x : Cluster) : (s.setCluster i x).copies = s.copies := rfl
@[simp] theorem State.setCluster_parked (s : State) (i : Nat) (x : Cluster) : (s.setCluster i x).parked = s.parked := rfl
@[simp] theorem State.setCluster_barWait (s : State) (i : Nat) (x : Cluster) : (s.setCluster i x).barWait = s.barWait := rfl
@[simp] theorem State.setCluster_orphans (s : State) (i : Nat) (x : Cluster) : (s.setCluster i x).orphans = s.orphans := rfl
@[simp] theorem State.setCluster_out (s : State) (i : Nat) (x : Cluster) : (s.setCluster i x).out = s.out := rfl
@[simp] theorem State.setCluster_now (s : State) (i : Nat) (x : Cluster) : (s.setCluster i x).now = s.now := rfl
@[simp] theorem State.setCluster_cur (s : State) (i : Nat) (x : Cluster) : (s.setCluster i x).cur = s.cur := rfl
@[simp] theorem State.setCluster_data (s : State) (i : Nat) (x : Cluster) : (s.setCluster i x).data = s.data := rfl
@[simp] theorem State.setCluster_kept (s : State) (i : Nat) (x : Cluster) : (s.setCluster i x).kept = s.kept := rfl
@[simp] theorem State.setCluster_heard (s : State) (i : Nat) (x : Cluster) : (s.setCluster i x).heard = s.heard := rfl
@[simp] theorem State.setCluster_issuable (s : State) (i : Nat) (x : Cluster) : (s.setCluster i x).issuable = s.issuable := rfl
@[simp] theorem State.setCluster_due (s : State) (i : Nat) (x : Cluster) : (s.setCluster i x).due = s.due := rfl
@[simp] theorem State.setCluster_agenda (s : State) (i : Nat) (x : Cluster) : (s.setCluster i x).agenda = s.agenda := rfl
@[simp] theorem State.setCluster_timers (s : State) (i : Nat) (x : Cluster) : (s.setCluster i x).timers = s.timers := rfl
@[simp] theorem State.setCluster_ticket (s : State) (i : Nat) (x : Cluster) : (s.setCluster i x).ticket = s.ticket := rfl

@[simp] theorem State.setSlice_mem (s : State) (i : Nat) (x : Slice) : (s.setSlice i x).mem = s.mem := rfl
@[simp] theorem State.setSlice_unseen (s : State) (i : Nat) (x : Slice) : (s.setSlice i x).unseen = s.unseen := rfl
@[simp] theorem State.setSlice_slots (s : State) (i : Nat) (x : Slice) : (s.setSlice i x).slots = s.slots := rfl
@[simp] theorem State.setSlice_cores (s : State) (i : Nat) (x : Slice) : (s.setSlice i x).cores = s.cores := rfl
@[simp] theorem State.setSlice_clusters (s : State) (i : Nat) (x : Slice) : (s.setSlice i x).clusters = s.clusters := rfl
@[simp] theorem State.setSlice_routers (s : State) (i : Nat) (x : Slice) : (s.setSlice i x).routers = s.routers := rfl
@[simp] theorem State.setSlice_parts (s : State) (i : Nat) (x : Slice) : (s.setSlice i x).parts = s.parts := rfl
@[simp] theorem State.setSlice_devs (s : State) (i : Nat) (x : Slice) : (s.setSlice i x).devs = s.devs := rfl
@[simp] theorem State.setSlice_levels (s : State) (i : Nat) (x : Slice) : (s.setSlice i x).levels = s.levels := rfl
@[simp] theorem State.setSlice_assembly (s : State) (i : Nat) (x : Slice) : (s.setSlice i x).assembly = s.assembly := rfl
@[simp] theorem State.setSlice_partners (s : State) (i : Nat) (x : Slice) : (s.setSlice i x).partners = s.partners := rfl
@[simp] theorem State.setSlice_nis (s : State) (i : Nat) (x : Slice) : (s.setSlice i x).nis = s.nis := rfl
@[simp] theorem State.setSlice_copies (s : State) (i : Nat) (x : Slice) : (s.setSlice i x).copies = s.copies := rfl
@[simp] theorem State.setSlice_parked (s : State) (i : Nat) (x : Slice) : (s.setSlice i x).parked = s.parked := rfl
@[simp] theorem State.setSlice_barWait (s : State) (i : Nat) (x : Slice) : (s.setSlice i x).barWait = s.barWait := rfl
@[simp] theorem State.setSlice_orphans (s : State) (i : Nat) (x : Slice) : (s.setSlice i x).orphans = s.orphans := rfl
@[simp] theorem State.setSlice_out (s : State) (i : Nat) (x : Slice) : (s.setSlice i x).out = s.out := rfl
@[simp] theorem State.setSlice_now (s : State) (i : Nat) (x : Slice) : (s.setSlice i x).now = s.now := rfl
@[simp] theorem State.setSlice_cur (s : State) (i : Nat) (x : Slice) : (s.setSlice i x).cur = s.cur := rfl
@[simp] theorem State.setSlice_data (s : State) (i : Nat) (x : Slice) : (s.setSlice i x).data = s.data := rfl
@[simp] theorem State.setSlice_kept (s : State) (i : Nat) (x : Slice) : (s.setSlice i x).kept = s.kept := rfl
@[simp] theorem State.setSlice_heard (s : State) (i : Nat) (x : Slice) : (s.setSlice i x).heard = s.heard := rfl
@[simp] theorem State.setSlice_issuable (s : State) (i : Nat) (x : Slice) : (s.setSlice i x).issuable = s.issuable := rfl
@[simp] theorem State.setSlice_due (s : State) (i : Nat) (x : Slice) : (s.setSlice i x).due = s.due := rfl
@[simp] theorem State.setSlice_agenda (s : State) (i : Nat) (x : Slice) : (s.setSlice i x).agenda = s.agenda := rfl
@[simp] theorem State.setSlice_timers (s : State) (i : Nat) (x : Slice) : (s.setSlice i x).timers = s.timers := rfl
@[simp] theorem State.setSlice_ticket (s : State) (i : Nat) (x : Slice) : (s.setSlice i x).ticket = s.ticket := rfl

@[simp] theorem State.setRouter_mem (s : State) (i : Nat) (x : Router) : (s.setRouter i x).mem = s.mem := rfl
@[simp] theorem State.setRouter_unseen (s : State) (i : Nat) (x : Router) : (s.setRouter i x).unseen = s.unseen := rfl
@[simp] theorem State.setRouter_slots (s : State) (i : Nat) (x : Router) : (s.setRouter i x).slots = s.slots := rfl
@[simp] theorem State.setRouter_cores (s : State) (i : Nat) (x : Router) : (s.setRouter i x).cores = s.cores := rfl
@[simp] theorem State.setRouter_clusters (s : State) (i : Nat) (x : Router) : (s.setRouter i x).clusters = s.clusters := rfl
@[simp] theorem State.setRouter_slices (s : State) (i : Nat) (x : Router) : (s.setRouter i x).slices = s.slices := rfl
@[simp] theorem State.setRouter_parts (s : State) (i : Nat) (x : Router) : (s.setRouter i x).parts = s.parts := rfl
@[simp] theorem State.setRouter_devs (s : State) (i : Nat) (x : Router) : (s.setRouter i x).devs = s.devs := rfl
@[simp] theorem State.setRouter_levels (s : State) (i : Nat) (x : Router) : (s.setRouter i x).levels = s.levels := rfl
@[simp] theorem State.setRouter_assembly (s : State) (i : Nat) (x : Router) : (s.setRouter i x).assembly = s.assembly := rfl
@[simp] theorem State.setRouter_partners (s : State) (i : Nat) (x : Router) : (s.setRouter i x).partners = s.partners := rfl
@[simp] theorem State.setRouter_nis (s : State) (i : Nat) (x : Router) : (s.setRouter i x).nis = s.nis := rfl
@[simp] theorem State.setRouter_copies (s : State) (i : Nat) (x : Router) : (s.setRouter i x).copies = s.copies := rfl
@[simp] theorem State.setRouter_parked (s : State) (i : Nat) (x : Router) : (s.setRouter i x).parked = s.parked := rfl
@[simp] theorem State.setRouter_barWait (s : State) (i : Nat) (x : Router) : (s.setRouter i x).barWait = s.barWait := rfl
@[simp] theorem State.setRouter_orphans (s : State) (i : Nat) (x : Router) : (s.setRouter i x).orphans = s.orphans := rfl
@[simp] theorem State.setRouter_out (s : State) (i : Nat) (x : Router) : (s.setRouter i x).out = s.out := rfl
@[simp] theorem State.setRouter_now (s : State) (i : Nat) (x : Router) : (s.setRouter i x).now = s.now := rfl
@[simp] theorem State.setRouter_cur (s : State) (i : Nat) (x : Router) : (s.setRouter i x).cur = s.cur := rfl
@[simp] theorem State.setRouter_data (s : State) (i : Nat) (x : Router) : (s.setRouter i x).data = s.data := rfl
@[simp] theorem State.setRouter_kept (s : State) (i : Nat) (x : Router) : (s.setRouter i x).kept = s.kept := rfl
@[simp] theorem State.setRouter_heard (s : State) (i : Nat) (x : Router) : (s.setRouter i x).heard = s.heard := rfl
@[simp] theorem State.setRouter_issuable (s : State) (i : Nat) (x : Router) : (s.setRouter i x).issuable = s.issuable := rfl
@[simp] theorem State.setRouter_due (s : State) (i : Nat) (x : Router) : (s.setRouter i x).due = s.due := rfl
@[simp] theorem State.setRouter_agenda (s : State) (i : Nat) (x : Router) : (s.setRouter i x).agenda = s.agenda := rfl
@[simp] theorem State.setRouter_timers (s : State) (i : Nat) (x : Router) : (s.setRouter i x).timers = s.timers := rfl
@[simp] theorem State.setRouter_ticket (s : State) (i : Nat) (x : Router) : (s.setRouter i x).ticket = s.ticket := rfl

@[simp] theorem State.setPart_mem (s : State) (i : Nat) (x : Part) : (s.setPart i x).mem = s.mem := rfl
@[simp] theorem State.setPart_unseen (s : State) (i : Nat) (x : Part) : (s.setPart i x).unseen = s.unseen := rfl
@[simp] theorem State.setPart_slots (s : State) (i : Nat) (x : Part) : (s.setPart i x).slots = s.slots := rfl
@[simp] theorem State.setPart_cores (s : State) (i : Nat) (x : Part) : (s.setPart i x).cores = s.cores := rfl
@[simp] theorem State.setPart_clusters (s : State) (i : Nat) (x : Part) : (s.setPart i x).clusters = s.clusters := rfl
@[simp] theorem State.setPart_slices (s : State) (i : Nat) (x : Part) : (s.setPart i x).slices = s.slices := rfl
@[simp] theorem State.setPart_routers (s : State) (i : Nat) (x : Part) : (s.setPart i x).routers = s.routers := rfl
@[simp] theorem State.setPart_devs (s : State) (i : Nat) (x : Part) : (s.setPart i x).devs = s.devs := rfl
@[simp] theorem State.setPart_levels (s : State) (i : Nat) (x : Part) : (s.setPart i x).levels = s.levels := rfl
@[simp] theorem State.setPart_assembly (s : State) (i : Nat) (x : Part) : (s.setPart i x).assembly = s.assembly := rfl
@[simp] theorem State.setPart_partners (s : State) (i : Nat) (x : Part) : (s.setPart i x).partners = s.partners := rfl
@[simp] theorem State.setPart_nis (s : State) (i : Nat) (x : Part) : (s.setPart i x).nis = s.nis := rfl
@[simp] theorem State.setPart_copies (s : State) (i : Nat) (x : Part) : (s.setPart i x).copies = s.copies := rfl
@[simp] theorem State.setPart_parked (s : State) (i : Nat) (x : Part) : (s.setPart i x).parked = s.parked := rfl
@[simp] theorem State.setPart_barWait (s : State) (i : Nat) (x : Part) : (s.setPart i x).barWait = s.barWait := rfl
@[simp] theorem State.setPart_orphans (s : State) (i : Nat) (x : Part) : (s.setPart i x).orphans = s.orphans := rfl
@[simp] theorem State.setPart_out (s : State) (i : Nat) (x : Part) : (s.setPart i x).out = s.out := rfl
@[simp] theorem State.setPart_now (s : State) (i : Nat) (x : Part) : (s.setPart i x).now = s.now := rfl
@[simp] theorem State.setPart_cur (s : State) (i : Nat) (x : Part) : (s.setPart i x).cur = s.cur := rfl
@[simp] theorem State.setPart_data (s : State) (i : Nat) (x : Part) : (s.setPart i x).data = s.data := rfl
@[simp] theorem State.setPart_kept (s : State) (i : Nat) (x : Part) : (s.setPart i x).kept = s.kept := rfl
@[simp] theorem State.setPart_heard (s : State) (i : Nat) (x : Part) : (s.setPart i x).heard = s.heard := rfl
@[simp] theorem State.setPart_issuable (s : State) (i : Nat) (x : Part) : (s.setPart i x).issuable = s.issuable := rfl
@[simp] theorem State.setPart_due (s : State) (i : Nat) (x : Part) : (s.setPart i x).due = s.due := rfl
@[simp] theorem State.setPart_agenda (s : State) (i : Nat) (x : Part) : (s.setPart i x).agenda = s.agenda := rfl
@[simp] theorem State.setPart_timers (s : State) (i : Nat) (x : Part) : (s.setPart i x).timers = s.timers := rfl
@[simp] theorem State.setPart_ticket (s : State) (i : Nat) (x : Part) : (s.setPart i x).ticket = s.ticket := rfl

@[simp] theorem State.setDev_mem (s : State) (i : Nat) (x : Device) : (s.setDev i x).mem = s.mem := rfl
@[simp] theorem State.setDev_unseen (s : State) (i : Nat) (x : Device) : (s.setDev i x).unseen = s.unseen := rfl
@[simp] theorem State.setDev_slots (s : State) (i : Nat) (x : Device) : (s.setDev i x).slots = s.slots := rfl
@[simp] theorem State.setDev_cores (s : State) (i : Nat) (x : Device) : (s.setDev i x).cores = s.cores := rfl
@[simp] theorem State.setDev_clusters (s : State) (i : Nat) (x : Device) : (s.setDev i x).clusters = s.clusters := rfl
@[simp] theorem State.setDev_slices (s : State) (i : Nat) (x : Device) : (s.setDev i x).slices = s.slices := rfl
@[simp] theorem State.setDev_routers (s : State) (i : Nat) (x : Device) : (s.setDev i x).routers = s.routers := rfl
@[simp] theorem State.setDev_parts (s : State) (i : Nat) (x : Device) : (s.setDev i x).parts = s.parts := rfl
@[simp] theorem State.setDev_levels (s : State) (i : Nat) (x : Device) : (s.setDev i x).levels = s.levels := rfl
@[simp] theorem State.setDev_assembly (s : State) (i : Nat) (x : Device) : (s.setDev i x).assembly = s.assembly := rfl
@[simp] theorem State.setDev_partners (s : State) (i : Nat) (x : Device) : (s.setDev i x).partners = s.partners := rfl
@[simp] theorem State.setDev_nis (s : State) (i : Nat) (x : Device) : (s.setDev i x).nis = s.nis := rfl
@[simp] theorem State.setDev_copies (s : State) (i : Nat) (x : Device) : (s.setDev i x).copies = s.copies := rfl
@[simp] theorem State.setDev_parked (s : State) (i : Nat) (x : Device) : (s.setDev i x).parked = s.parked := rfl
@[simp] theorem State.setDev_barWait (s : State) (i : Nat) (x : Device) : (s.setDev i x).barWait = s.barWait := rfl
@[simp] theorem State.setDev_orphans (s : State) (i : Nat) (x : Device) : (s.setDev i x).orphans = s.orphans := rfl
@[simp] theorem State.setDev_out (s : State) (i : Nat) (x : Device) : (s.setDev i x).out = s.out := rfl
@[simp] theorem State.setDev_now (s : State) (i : Nat) (x : Device) : (s.setDev i x).now = s.now := rfl
@[simp] theorem State.setDev_cur (s : State) (i : Nat) (x : Device) : (s.setDev i x).cur = s.cur := rfl
@[simp] theorem State.setDev_data (s : State) (i : Nat) (x : Device) : (s.setDev i x).data = s.data := rfl
@[simp] theorem State.setDev_kept (s : State) (i : Nat) (x : Device) : (s.setDev i x).kept = s.kept := rfl
@[simp] theorem State.setDev_heard (s : State) (i : Nat) (x : Device) : (s.setDev i x).heard = s.heard := rfl
@[simp] theorem State.setDev_issuable (s : State) (i : Nat) (x : Device) : (s.setDev i x).issuable = s.issuable := rfl
@[simp] theorem State.setDev_due (s : State) (i : Nat) (x : Device) : (s.setDev i x).due = s.due := rfl
@[simp] theorem State.setDev_agenda (s : State) (i : Nat) (x : Device) : (s.setDev i x).agenda = s.agenda := rfl
@[simp] theorem State.setDev_timers (s : State) (i : Nat) (x : Device) : (s.setDev i x).timers = s.timers := rfl
@[simp] theorem State.setDev_ticket (s : State) (i : Nat) (x : Device) : (s.setDev i x).ticket = s.ticket := rfl

@[simp] theorem State.setLevel_mem (s : State) (p : Nat) (h : W64) (x : Level) : (s.setLevel p h x).mem = s.mem := rfl
@[simp] theorem State.setLevel_unseen (s : State) (p : Nat) (h : W64) (x : Level) : (s.setLevel p h x).unseen = s.unseen := rfl
@[simp] theorem State.setLevel_slots (s : State) (p : Nat) (h : W64) (x : Level) : (s.setLevel p h x).slots = s.slots := rfl
@[simp] theorem State.setLevel_cores (s : State) (p : Nat) (h : W64) (x : Level) : (s.setLevel p h x).cores = s.cores := rfl
@[simp] theorem State.setLevel_clusters (s : State) (p : Nat) (h : W64) (x : Level) : (s.setLevel p h x).clusters = s.clusters := rfl
@[simp] theorem State.setLevel_slices (s : State) (p : Nat) (h : W64) (x : Level) : (s.setLevel p h x).slices = s.slices := rfl
@[simp] theorem State.setLevel_routers (s : State) (p : Nat) (h : W64) (x : Level) : (s.setLevel p h x).routers = s.routers := rfl
@[simp] theorem State.setLevel_parts (s : State) (p : Nat) (h : W64) (x : Level) : (s.setLevel p h x).parts = s.parts := rfl
@[simp] theorem State.setLevel_devs (s : State) (p : Nat) (h : W64) (x : Level) : (s.setLevel p h x).devs = s.devs := rfl
@[simp] theorem State.setLevel_assembly (s : State) (p : Nat) (h : W64) (x : Level) : (s.setLevel p h x).assembly = s.assembly := rfl
@[simp] theorem State.setLevel_partners (s : State) (p : Nat) (h : W64) (x : Level) : (s.setLevel p h x).partners = s.partners := rfl
@[simp] theorem State.setLevel_nis (s : State) (p : Nat) (h : W64) (x : Level) : (s.setLevel p h x).nis = s.nis := rfl
@[simp] theorem State.setLevel_copies (s : State) (p : Nat) (h : W64) (x : Level) : (s.setLevel p h x).copies = s.copies := rfl
@[simp] theorem State.setLevel_parked (s : State) (p : Nat) (h : W64) (x : Level) : (s.setLevel p h x).parked = s.parked := rfl
@[simp] theorem State.setLevel_barWait (s : State) (p : Nat) (h : W64) (x : Level) : (s.setLevel p h x).barWait = s.barWait := rfl
@[simp] theorem State.setLevel_orphans (s : State) (p : Nat) (h : W64) (x : Level) : (s.setLevel p h x).orphans = s.orphans := rfl
@[simp] theorem State.setLevel_out (s : State) (p : Nat) (h : W64) (x : Level) : (s.setLevel p h x).out = s.out := rfl
@[simp] theorem State.setLevel_now (s : State) (p : Nat) (h : W64) (x : Level) : (s.setLevel p h x).now = s.now := rfl
@[simp] theorem State.setLevel_cur (s : State) (p : Nat) (h : W64) (x : Level) : (s.setLevel p h x).cur = s.cur := rfl
@[simp] theorem State.setLevel_data (s : State) (p : Nat) (h : W64) (x : Level) : (s.setLevel p h x).data = s.data := rfl
@[simp] theorem State.setLevel_kept (s : State) (p : Nat) (h : W64) (x : Level) : (s.setLevel p h x).kept = s.kept := rfl
@[simp] theorem State.setLevel_heard (s : State) (p : Nat) (h : W64) (x : Level) : (s.setLevel p h x).heard = s.heard := rfl
@[simp] theorem State.setLevel_issuable (s : State) (p : Nat) (h : W64) (x : Level) : (s.setLevel p h x).issuable = s.issuable := rfl
@[simp] theorem State.setLevel_due (s : State) (p : Nat) (h : W64) (x : Level) : (s.setLevel p h x).due = s.due := rfl
@[simp] theorem State.setLevel_agenda (s : State) (p : Nat) (h : W64) (x : Level) : (s.setLevel p h x).agenda = s.agenda := rfl
@[simp] theorem State.setLevel_timers (s : State) (p : Nat) (h : W64) (x : Level) : (s.setLevel p h x).timers = s.timers := rfl
@[simp] theorem State.setLevel_ticket (s : State) (p : Nat) (h : W64) (x : Level) : (s.setLevel p h x).ticket = s.ticket := rfl

@[simp] theorem State.updSlot_mem (s : State) (i : Nat) (f : Slot → Slot) : (s.updSlot i f).mem = s.mem := rfl
@[simp] theorem State.updSlot_unseen (s : State) (i : Nat) (f : Slot → Slot) : (s.updSlot i f).unseen = s.unseen := rfl
@[simp] theorem State.updSlot_cores (s : State) (i : Nat) (f : Slot → Slot) : (s.updSlot i f).cores = s.cores := rfl
@[simp] theorem State.updSlot_clusters (s : State) (i : Nat) (f : Slot → Slot) : (s.updSlot i f).clusters = s.clusters := rfl
@[simp] theorem State.updSlot_slices (s : State) (i : Nat) (f : Slot → Slot) : (s.updSlot i f).slices = s.slices := rfl
@[simp] theorem State.updSlot_routers (s : State) (i : Nat) (f : Slot → Slot) : (s.updSlot i f).routers = s.routers := rfl
@[simp] theorem State.updSlot_parts (s : State) (i : Nat) (f : Slot → Slot) : (s.updSlot i f).parts = s.parts := rfl
@[simp] theorem State.updSlot_devs (s : State) (i : Nat) (f : Slot → Slot) : (s.updSlot i f).devs = s.devs := rfl
@[simp] theorem State.updSlot_levels (s : State) (i : Nat) (f : Slot → Slot) : (s.updSlot i f).levels = s.levels := rfl
@[simp] theorem State.updSlot_assembly (s : State) (i : Nat) (f : Slot → Slot) : (s.updSlot i f).assembly = s.assembly := rfl
@[simp] theorem State.updSlot_partners (s : State) (i : Nat) (f : Slot → Slot) : (s.updSlot i f).partners = s.partners := rfl
@[simp] theorem State.updSlot_nis (s : State) (i : Nat) (f : Slot → Slot) : (s.updSlot i f).nis = s.nis := rfl
@[simp] theorem State.updSlot_copies (s : State) (i : Nat) (f : Slot → Slot) : (s.updSlot i f).copies = s.copies := rfl
@[simp] theorem State.updSlot_parked (s : State) (i : Nat) (f : Slot → Slot) : (s.updSlot i f).parked = s.parked := rfl
@[simp] theorem State.updSlot_barWait (s : State) (i : Nat) (f : Slot → Slot) : (s.updSlot i f).barWait = s.barWait := rfl
@[simp] theorem State.updSlot_orphans (s : State) (i : Nat) (f : Slot → Slot) : (s.updSlot i f).orphans = s.orphans := rfl
@[simp] theorem State.updSlot_out (s : State) (i : Nat) (f : Slot → Slot) : (s.updSlot i f).out = s.out := rfl
@[simp] theorem State.updSlot_now (s : State) (i : Nat) (f : Slot → Slot) : (s.updSlot i f).now = s.now := rfl
@[simp] theorem State.updSlot_cur (s : State) (i : Nat) (f : Slot → Slot) : (s.updSlot i f).cur = s.cur := rfl
@[simp] theorem State.updSlot_data (s : State) (i : Nat) (f : Slot → Slot) : (s.updSlot i f).data = s.data := rfl
@[simp] theorem State.updSlot_kept (s : State) (i : Nat) (f : Slot → Slot) : (s.updSlot i f).kept = s.kept := rfl
@[simp] theorem State.updSlot_heard (s : State) (i : Nat) (f : Slot → Slot) : (s.updSlot i f).heard = s.heard := rfl
@[simp] theorem State.updSlot_issuable (s : State) (i : Nat) (f : Slot → Slot) : (s.updSlot i f).issuable = s.issuable := rfl
@[simp] theorem State.updSlot_due (s : State) (i : Nat) (f : Slot → Slot) : (s.updSlot i f).due = s.due := rfl
@[simp] theorem State.updSlot_agenda (s : State) (i : Nat) (f : Slot → Slot) : (s.updSlot i f).agenda = s.agenda := rfl
@[simp] theorem State.updSlot_timers (s : State) (i : Nat) (f : Slot → Slot) : (s.updSlot i f).timers = s.timers := rfl
@[simp] theorem State.updSlot_ticket (s : State) (i : Nat) (f : Slot → Slot) : (s.updSlot i f).ticket = s.ticket := rfl

@[simp] theorem State.updCore_mem (s : State) (i : Nat) (f : Core → Core) : (s.updCore i f).mem = s.mem := rfl
@[simp] theorem State.updCore_unseen (s : State) (i : Nat) (f : Core → Core) : (s.updCore i f).unseen = s.unseen := rfl
@[simp] theorem State.updCore_slots (s : State) (i : Nat) (f : Core → Core) : (s.updCore i f).slots = s.slots := rfl
@[simp] theorem State.updCore_clusters (s : State) (i : Nat) (f : Core → Core) : (s.updCore i f).clusters = s.clusters := rfl
@[simp] theorem State.updCore_slices (s : State) (i : Nat) (f : Core → Core) : (s.updCore i f).slices = s.slices := rfl
@[simp] theorem State.updCore_routers (s : State) (i : Nat) (f : Core → Core) : (s.updCore i f).routers = s.routers := rfl
@[simp] theorem State.updCore_parts (s : State) (i : Nat) (f : Core → Core) : (s.updCore i f).parts = s.parts := rfl
@[simp] theorem State.updCore_devs (s : State) (i : Nat) (f : Core → Core) : (s.updCore i f).devs = s.devs := rfl
@[simp] theorem State.updCore_levels (s : State) (i : Nat) (f : Core → Core) : (s.updCore i f).levels = s.levels := rfl
@[simp] theorem State.updCore_assembly (s : State) (i : Nat) (f : Core → Core) : (s.updCore i f).assembly = s.assembly := rfl
@[simp] theorem State.updCore_partners (s : State) (i : Nat) (f : Core → Core) : (s.updCore i f).partners = s.partners := rfl
@[simp] theorem State.updCore_nis (s : State) (i : Nat) (f : Core → Core) : (s.updCore i f).nis = s.nis := rfl
@[simp] theorem State.updCore_copies (s : State) (i : Nat) (f : Core → Core) : (s.updCore i f).copies = s.copies := rfl
@[simp] theorem State.updCore_parked (s : State) (i : Nat) (f : Core → Core) : (s.updCore i f).parked = s.parked := rfl
@[simp] theorem State.updCore_barWait (s : State) (i : Nat) (f : Core → Core) : (s.updCore i f).barWait = s.barWait := rfl
@[simp] theorem State.updCore_orphans (s : State) (i : Nat) (f : Core → Core) : (s.updCore i f).orphans = s.orphans := rfl
@[simp] theorem State.updCore_out (s : State) (i : Nat) (f : Core → Core) : (s.updCore i f).out = s.out := rfl
@[simp] theorem State.updCore_now (s : State) (i : Nat) (f : Core → Core) : (s.updCore i f).now = s.now := rfl
@[simp] theorem State.updCore_cur (s : State) (i : Nat) (f : Core → Core) : (s.updCore i f).cur = s.cur := rfl
@[simp] theorem State.updCore_data (s : State) (i : Nat) (f : Core → Core) : (s.updCore i f).data = s.data := rfl
@[simp] theorem State.updCore_kept (s : State) (i : Nat) (f : Core → Core) : (s.updCore i f).kept = s.kept := rfl
@[simp] theorem State.updCore_heard (s : State) (i : Nat) (f : Core → Core) : (s.updCore i f).heard = s.heard := rfl
@[simp] theorem State.updCore_issuable (s : State) (i : Nat) (f : Core → Core) : (s.updCore i f).issuable = s.issuable := rfl
@[simp] theorem State.updCore_due (s : State) (i : Nat) (f : Core → Core) : (s.updCore i f).due = s.due := rfl
@[simp] theorem State.updCore_agenda (s : State) (i : Nat) (f : Core → Core) : (s.updCore i f).agenda = s.agenda := rfl
@[simp] theorem State.updCore_timers (s : State) (i : Nat) (f : Core → Core) : (s.updCore i f).timers = s.timers := rfl
@[simp] theorem State.updCore_ticket (s : State) (i : Nat) (f : Core → Core) : (s.updCore i f).ticket = s.ticket := rfl

@[simp] theorem State.updCluster_mem (s : State) (i : Nat) (f : Cluster → Cluster) : (s.updCluster i f).mem = s.mem := rfl
@[simp] theorem State.updCluster_unseen (s : State) (i : Nat) (f : Cluster → Cluster) : (s.updCluster i f).unseen = s.unseen := rfl
@[simp] theorem State.updCluster_slots (s : State) (i : Nat) (f : Cluster → Cluster) : (s.updCluster i f).slots = s.slots := rfl
@[simp] theorem State.updCluster_cores (s : State) (i : Nat) (f : Cluster → Cluster) : (s.updCluster i f).cores = s.cores := rfl
@[simp] theorem State.updCluster_slices (s : State) (i : Nat) (f : Cluster → Cluster) : (s.updCluster i f).slices = s.slices := rfl
@[simp] theorem State.updCluster_routers (s : State) (i : Nat) (f : Cluster → Cluster) : (s.updCluster i f).routers = s.routers := rfl
@[simp] theorem State.updCluster_parts (s : State) (i : Nat) (f : Cluster → Cluster) : (s.updCluster i f).parts = s.parts := rfl
@[simp] theorem State.updCluster_devs (s : State) (i : Nat) (f : Cluster → Cluster) : (s.updCluster i f).devs = s.devs := rfl
@[simp] theorem State.updCluster_levels (s : State) (i : Nat) (f : Cluster → Cluster) : (s.updCluster i f).levels = s.levels := rfl
@[simp] theorem State.updCluster_assembly (s : State) (i : Nat) (f : Cluster → Cluster) : (s.updCluster i f).assembly = s.assembly := rfl
@[simp] theorem State.updCluster_partners (s : State) (i : Nat) (f : Cluster → Cluster) : (s.updCluster i f).partners = s.partners := rfl
@[simp] theorem State.updCluster_nis (s : State) (i : Nat) (f : Cluster → Cluster) : (s.updCluster i f).nis = s.nis := rfl
@[simp] theorem State.updCluster_copies (s : State) (i : Nat) (f : Cluster → Cluster) : (s.updCluster i f).copies = s.copies := rfl
@[simp] theorem State.updCluster_parked (s : State) (i : Nat) (f : Cluster → Cluster) : (s.updCluster i f).parked = s.parked := rfl
@[simp] theorem State.updCluster_barWait (s : State) (i : Nat) (f : Cluster → Cluster) : (s.updCluster i f).barWait = s.barWait := rfl
@[simp] theorem State.updCluster_orphans (s : State) (i : Nat) (f : Cluster → Cluster) : (s.updCluster i f).orphans = s.orphans := rfl
@[simp] theorem State.updCluster_out (s : State) (i : Nat) (f : Cluster → Cluster) : (s.updCluster i f).out = s.out := rfl
@[simp] theorem State.updCluster_now (s : State) (i : Nat) (f : Cluster → Cluster) : (s.updCluster i f).now = s.now := rfl
@[simp] theorem State.updCluster_cur (s : State) (i : Nat) (f : Cluster → Cluster) : (s.updCluster i f).cur = s.cur := rfl
@[simp] theorem State.updCluster_data (s : State) (i : Nat) (f : Cluster → Cluster) : (s.updCluster i f).data = s.data := rfl
@[simp] theorem State.updCluster_kept (s : State) (i : Nat) (f : Cluster → Cluster) : (s.updCluster i f).kept = s.kept := rfl
@[simp] theorem State.updCluster_heard (s : State) (i : Nat) (f : Cluster → Cluster) : (s.updCluster i f).heard = s.heard := rfl
@[simp] theorem State.updCluster_issuable (s : State) (i : Nat) (f : Cluster → Cluster) : (s.updCluster i f).issuable = s.issuable := rfl
@[simp] theorem State.updCluster_due (s : State) (i : Nat) (f : Cluster → Cluster) : (s.updCluster i f).due = s.due := rfl
@[simp] theorem State.updCluster_agenda (s : State) (i : Nat) (f : Cluster → Cluster) : (s.updCluster i f).agenda = s.agenda := rfl
@[simp] theorem State.updCluster_timers (s : State) (i : Nat) (f : Cluster → Cluster) : (s.updCluster i f).timers = s.timers := rfl
@[simp] theorem State.updCluster_ticket (s : State) (i : Nat) (f : Cluster → Cluster) : (s.updCluster i f).ticket = s.ticket := rfl

@[simp] theorem State.updSlice_mem (s : State) (i : Nat) (f : Slice → Slice) : (s.updSlice i f).mem = s.mem := rfl
@[simp] theorem State.updSlice_unseen (s : State) (i : Nat) (f : Slice → Slice) : (s.updSlice i f).unseen = s.unseen := rfl
@[simp] theorem State.updSlice_slots (s : State) (i : Nat) (f : Slice → Slice) : (s.updSlice i f).slots = s.slots := rfl
@[simp] theorem State.updSlice_cores (s : State) (i : Nat) (f : Slice → Slice) : (s.updSlice i f).cores = s.cores := rfl
@[simp] theorem State.updSlice_clusters (s : State) (i : Nat) (f : Slice → Slice) : (s.updSlice i f).clusters = s.clusters := rfl
@[simp] theorem State.updSlice_routers (s : State) (i : Nat) (f : Slice → Slice) : (s.updSlice i f).routers = s.routers := rfl
@[simp] theorem State.updSlice_parts (s : State) (i : Nat) (f : Slice → Slice) : (s.updSlice i f).parts = s.parts := rfl
@[simp] theorem State.updSlice_devs (s : State) (i : Nat) (f : Slice → Slice) : (s.updSlice i f).devs = s.devs := rfl
@[simp] theorem State.updSlice_levels (s : State) (i : Nat) (f : Slice → Slice) : (s.updSlice i f).levels = s.levels := rfl
@[simp] theorem State.updSlice_assembly (s : State) (i : Nat) (f : Slice → Slice) : (s.updSlice i f).assembly = s.assembly := rfl
@[simp] theorem State.updSlice_partners (s : State) (i : Nat) (f : Slice → Slice) : (s.updSlice i f).partners = s.partners := rfl
@[simp] theorem State.updSlice_nis (s : State) (i : Nat) (f : Slice → Slice) : (s.updSlice i f).nis = s.nis := rfl
@[simp] theorem State.updSlice_copies (s : State) (i : Nat) (f : Slice → Slice) : (s.updSlice i f).copies = s.copies := rfl
@[simp] theorem State.updSlice_parked (s : State) (i : Nat) (f : Slice → Slice) : (s.updSlice i f).parked = s.parked := rfl
@[simp] theorem State.updSlice_barWait (s : State) (i : Nat) (f : Slice → Slice) : (s.updSlice i f).barWait = s.barWait := rfl
@[simp] theorem State.updSlice_orphans (s : State) (i : Nat) (f : Slice → Slice) : (s.updSlice i f).orphans = s.orphans := rfl
@[simp] theorem State.updSlice_out (s : State) (i : Nat) (f : Slice → Slice) : (s.updSlice i f).out = s.out := rfl
@[simp] theorem State.updSlice_now (s : State) (i : Nat) (f : Slice → Slice) : (s.updSlice i f).now = s.now := rfl
@[simp] theorem State.updSlice_cur (s : State) (i : Nat) (f : Slice → Slice) : (s.updSlice i f).cur = s.cur := rfl
@[simp] theorem State.updSlice_data (s : State) (i : Nat) (f : Slice → Slice) : (s.updSlice i f).data = s.data := rfl
@[simp] theorem State.updSlice_kept (s : State) (i : Nat) (f : Slice → Slice) : (s.updSlice i f).kept = s.kept := rfl
@[simp] theorem State.updSlice_heard (s : State) (i : Nat) (f : Slice → Slice) : (s.updSlice i f).heard = s.heard := rfl
@[simp] theorem State.updSlice_issuable (s : State) (i : Nat) (f : Slice → Slice) : (s.updSlice i f).issuable = s.issuable := rfl
@[simp] theorem State.updSlice_due (s : State) (i : Nat) (f : Slice → Slice) : (s.updSlice i f).due = s.due := rfl
@[simp] theorem State.updSlice_agenda (s : State) (i : Nat) (f : Slice → Slice) : (s.updSlice i f).agenda = s.agenda := rfl
@[simp] theorem State.updSlice_timers (s : State) (i : Nat) (f : Slice → Slice) : (s.updSlice i f).timers = s.timers := rfl
@[simp] theorem State.updSlice_ticket (s : State) (i : Nat) (f : Slice → Slice) : (s.updSlice i f).ticket = s.ticket := rfl

@[simp] theorem State.updPart_mem (s : State) (i : Nat) (f : Part → Part) : (s.updPart i f).mem = s.mem := rfl
@[simp] theorem State.updPart_unseen (s : State) (i : Nat) (f : Part → Part) : (s.updPart i f).unseen = s.unseen := rfl
@[simp] theorem State.updPart_slots (s : State) (i : Nat) (f : Part → Part) : (s.updPart i f).slots = s.slots := rfl
@[simp] theorem State.updPart_cores (s : State) (i : Nat) (f : Part → Part) : (s.updPart i f).cores = s.cores := rfl
@[simp] theorem State.updPart_clusters (s : State) (i : Nat) (f : Part → Part) : (s.updPart i f).clusters = s.clusters := rfl
@[simp] theorem State.updPart_slices (s : State) (i : Nat) (f : Part → Part) : (s.updPart i f).slices = s.slices := rfl
@[simp] theorem State.updPart_routers (s : State) (i : Nat) (f : Part → Part) : (s.updPart i f).routers = s.routers := rfl
@[simp] theorem State.updPart_devs (s : State) (i : Nat) (f : Part → Part) : (s.updPart i f).devs = s.devs := rfl
@[simp] theorem State.updPart_levels (s : State) (i : Nat) (f : Part → Part) : (s.updPart i f).levels = s.levels := rfl
@[simp] theorem State.updPart_assembly (s : State) (i : Nat) (f : Part → Part) : (s.updPart i f).assembly = s.assembly := rfl
@[simp] theorem State.updPart_partners (s : State) (i : Nat) (f : Part → Part) : (s.updPart i f).partners = s.partners := rfl
@[simp] theorem State.updPart_nis (s : State) (i : Nat) (f : Part → Part) : (s.updPart i f).nis = s.nis := rfl
@[simp] theorem State.updPart_copies (s : State) (i : Nat) (f : Part → Part) : (s.updPart i f).copies = s.copies := rfl
@[simp] theorem State.updPart_parked (s : State) (i : Nat) (f : Part → Part) : (s.updPart i f).parked = s.parked := rfl
@[simp] theorem State.updPart_barWait (s : State) (i : Nat) (f : Part → Part) : (s.updPart i f).barWait = s.barWait := rfl
@[simp] theorem State.updPart_orphans (s : State) (i : Nat) (f : Part → Part) : (s.updPart i f).orphans = s.orphans := rfl
@[simp] theorem State.updPart_out (s : State) (i : Nat) (f : Part → Part) : (s.updPart i f).out = s.out := rfl
@[simp] theorem State.updPart_now (s : State) (i : Nat) (f : Part → Part) : (s.updPart i f).now = s.now := rfl
@[simp] theorem State.updPart_cur (s : State) (i : Nat) (f : Part → Part) : (s.updPart i f).cur = s.cur := rfl
@[simp] theorem State.updPart_data (s : State) (i : Nat) (f : Part → Part) : (s.updPart i f).data = s.data := rfl
@[simp] theorem State.updPart_kept (s : State) (i : Nat) (f : Part → Part) : (s.updPart i f).kept = s.kept := rfl
@[simp] theorem State.updPart_heard (s : State) (i : Nat) (f : Part → Part) : (s.updPart i f).heard = s.heard := rfl
@[simp] theorem State.updPart_issuable (s : State) (i : Nat) (f : Part → Part) : (s.updPart i f).issuable = s.issuable := rfl
@[simp] theorem State.updPart_due (s : State) (i : Nat) (f : Part → Part) : (s.updPart i f).due = s.due := rfl
@[simp] theorem State.updPart_agenda (s : State) (i : Nat) (f : Part → Part) : (s.updPart i f).agenda = s.agenda := rfl
@[simp] theorem State.updPart_timers (s : State) (i : Nat) (f : Part → Part) : (s.updPart i f).timers = s.timers := rfl
@[simp] theorem State.updPart_ticket (s : State) (i : Nat) (f : Part → Part) : (s.updPart i f).ticket = s.ticket := rfl

@[simp] theorem State.updDev_mem (s : State) (i : Nat) (f : Device → Device) : (s.updDev i f).mem = s.mem := rfl
@[simp] theorem State.updDev_unseen (s : State) (i : Nat) (f : Device → Device) : (s.updDev i f).unseen = s.unseen := rfl
@[simp] theorem State.updDev_slots (s : State) (i : Nat) (f : Device → Device) : (s.updDev i f).slots = s.slots := rfl
@[simp] theorem State.updDev_cores (s : State) (i : Nat) (f : Device → Device) : (s.updDev i f).cores = s.cores := rfl
@[simp] theorem State.updDev_clusters (s : State) (i : Nat) (f : Device → Device) : (s.updDev i f).clusters = s.clusters := rfl
@[simp] theorem State.updDev_slices (s : State) (i : Nat) (f : Device → Device) : (s.updDev i f).slices = s.slices := rfl
@[simp] theorem State.updDev_routers (s : State) (i : Nat) (f : Device → Device) : (s.updDev i f).routers = s.routers := rfl
@[simp] theorem State.updDev_parts (s : State) (i : Nat) (f : Device → Device) : (s.updDev i f).parts = s.parts := rfl
@[simp] theorem State.updDev_levels (s : State) (i : Nat) (f : Device → Device) : (s.updDev i f).levels = s.levels := rfl
@[simp] theorem State.updDev_assembly (s : State) (i : Nat) (f : Device → Device) : (s.updDev i f).assembly = s.assembly := rfl
@[simp] theorem State.updDev_partners (s : State) (i : Nat) (f : Device → Device) : (s.updDev i f).partners = s.partners := rfl
@[simp] theorem State.updDev_nis (s : State) (i : Nat) (f : Device → Device) : (s.updDev i f).nis = s.nis := rfl
@[simp] theorem State.updDev_copies (s : State) (i : Nat) (f : Device → Device) : (s.updDev i f).copies = s.copies := rfl
@[simp] theorem State.updDev_parked (s : State) (i : Nat) (f : Device → Device) : (s.updDev i f).parked = s.parked := rfl
@[simp] theorem State.updDev_barWait (s : State) (i : Nat) (f : Device → Device) : (s.updDev i f).barWait = s.barWait := rfl
@[simp] theorem State.updDev_orphans (s : State) (i : Nat) (f : Device → Device) : (s.updDev i f).orphans = s.orphans := rfl
@[simp] theorem State.updDev_out (s : State) (i : Nat) (f : Device → Device) : (s.updDev i f).out = s.out := rfl
@[simp] theorem State.updDev_now (s : State) (i : Nat) (f : Device → Device) : (s.updDev i f).now = s.now := rfl
@[simp] theorem State.updDev_cur (s : State) (i : Nat) (f : Device → Device) : (s.updDev i f).cur = s.cur := rfl
@[simp] theorem State.updDev_data (s : State) (i : Nat) (f : Device → Device) : (s.updDev i f).data = s.data := rfl
@[simp] theorem State.updDev_kept (s : State) (i : Nat) (f : Device → Device) : (s.updDev i f).kept = s.kept := rfl
@[simp] theorem State.updDev_heard (s : State) (i : Nat) (f : Device → Device) : (s.updDev i f).heard = s.heard := rfl
@[simp] theorem State.updDev_issuable (s : State) (i : Nat) (f : Device → Device) : (s.updDev i f).issuable = s.issuable := rfl
@[simp] theorem State.updDev_due (s : State) (i : Nat) (f : Device → Device) : (s.updDev i f).due = s.due := rfl
@[simp] theorem State.updDev_agenda (s : State) (i : Nat) (f : Device → Device) : (s.updDev i f).agenda = s.agenda := rfl
@[simp] theorem State.updDev_timers (s : State) (i : Nat) (f : Device → Device) : (s.updDev i f).timers = s.timers := rfl
@[simp] theorem State.updDev_ticket (s : State) (i : Nat) (f : Device → Device) : (s.updDev i f).ticket = s.ticket := rfl

@[simp] theorem State.setPort_mem (s : State) (c i : Nat) (p : Port) : (s.setPort c i p).mem = s.mem := rfl
@[simp] theorem State.setPort_unseen (s : State) (c i : Nat) (p : Port) : (s.setPort c i p).unseen = s.unseen := rfl
@[simp] theorem State.setPort_slots (s : State) (c i : Nat) (p : Port) : (s.setPort c i p).slots = s.slots := rfl
@[simp] theorem State.setPort_clusters (s : State) (c i : Nat) (p : Port) : (s.setPort c i p).clusters = s.clusters := rfl
@[simp] theorem State.setPort_slices (s : State) (c i : Nat) (p : Port) : (s.setPort c i p).slices = s.slices := rfl
@[simp] theorem State.setPort_routers (s : State) (c i : Nat) (p : Port) : (s.setPort c i p).routers = s.routers := rfl
@[simp] theorem State.setPort_parts (s : State) (c i : Nat) (p : Port) : (s.setPort c i p).parts = s.parts := rfl
@[simp] theorem State.setPort_devs (s : State) (c i : Nat) (p : Port) : (s.setPort c i p).devs = s.devs := rfl
@[simp] theorem State.setPort_levels (s : State) (c i : Nat) (p : Port) : (s.setPort c i p).levels = s.levels := rfl
@[simp] theorem State.setPort_assembly (s : State) (c i : Nat) (p : Port) : (s.setPort c i p).assembly = s.assembly := rfl
@[simp] theorem State.setPort_partners (s : State) (c i : Nat) (p : Port) : (s.setPort c i p).partners = s.partners := rfl
@[simp] theorem State.setPort_nis (s : State) (c i : Nat) (p : Port) : (s.setPort c i p).nis = s.nis := rfl
@[simp] theorem State.setPort_copies (s : State) (c i : Nat) (p : Port) : (s.setPort c i p).copies = s.copies := rfl
@[simp] theorem State.setPort_parked (s : State) (c i : Nat) (p : Port) : (s.setPort c i p).parked = s.parked := rfl
@[simp] theorem State.setPort_barWait (s : State) (c i : Nat) (p : Port) : (s.setPort c i p).barWait = s.barWait := rfl
@[simp] theorem State.setPort_orphans (s : State) (c i : Nat) (p : Port) : (s.setPort c i p).orphans = s.orphans := rfl
@[simp] theorem State.setPort_out (s : State) (c i : Nat) (p : Port) : (s.setPort c i p).out = s.out := rfl
@[simp] theorem State.setPort_now (s : State) (c i : Nat) (p : Port) : (s.setPort c i p).now = s.now := rfl
@[simp] theorem State.setPort_cur (s : State) (c i : Nat) (p : Port) : (s.setPort c i p).cur = s.cur := rfl
@[simp] theorem State.setPort_data (s : State) (c i : Nat) (p : Port) : (s.setPort c i p).data = s.data := rfl
@[simp] theorem State.setPort_kept (s : State) (c i : Nat) (p : Port) : (s.setPort c i p).kept = s.kept := rfl
@[simp] theorem State.setPort_heard (s : State) (c i : Nat) (p : Port) : (s.setPort c i p).heard = s.heard := rfl
@[simp] theorem State.setPort_issuable (s : State) (c i : Nat) (p : Port) : (s.setPort c i p).issuable = s.issuable := rfl
@[simp] theorem State.setPort_due (s : State) (c i : Nat) (p : Port) : (s.setPort c i p).due = s.due := rfl
@[simp] theorem State.setPort_agenda (s : State) (c i : Nat) (p : Port) : (s.setPort c i p).agenda = s.agenda := rfl
@[simp] theorem State.setPort_timers (s : State) (c i : Nat) (p : Port) : (s.setPort c i p).timers = s.timers := rfl
@[simp] theorem State.setPort_ticket (s : State) (c i : Nat) (p : Port) : (s.setPort c i p).ticket = s.ticket := rfl

@[simp] theorem State.post_mem (s : State) (j : Instr) (w : Nat) : (s.post j w).mem = s.mem := rfl
@[simp] theorem State.post_unseen (s : State) (j : Instr) (w : Nat) : (s.post j w).unseen = s.unseen := rfl
@[simp] theorem State.post_slots (s : State) (j : Instr) (w : Nat) : (s.post j w).slots = s.slots := rfl
@[simp] theorem State.post_cores (s : State) (j : Instr) (w : Nat) : (s.post j w).cores = s.cores := rfl
@[simp] theorem State.post_clusters (s : State) (j : Instr) (w : Nat) : (s.post j w).clusters = s.clusters := rfl
@[simp] theorem State.post_slices (s : State) (j : Instr) (w : Nat) : (s.post j w).slices = s.slices := rfl
@[simp] theorem State.post_routers (s : State) (j : Instr) (w : Nat) : (s.post j w).routers = s.routers := rfl
@[simp] theorem State.post_parts (s : State) (j : Instr) (w : Nat) : (s.post j w).parts = s.parts := rfl
@[simp] theorem State.post_devs (s : State) (j : Instr) (w : Nat) : (s.post j w).devs = s.devs := rfl
@[simp] theorem State.post_levels (s : State) (j : Instr) (w : Nat) : (s.post j w).levels = s.levels := rfl
@[simp] theorem State.post_assembly (s : State) (j : Instr) (w : Nat) : (s.post j w).assembly = s.assembly := rfl
@[simp] theorem State.post_partners (s : State) (j : Instr) (w : Nat) : (s.post j w).partners = s.partners := rfl
@[simp] theorem State.post_nis (s : State) (j : Instr) (w : Nat) : (s.post j w).nis = s.nis := rfl
@[simp] theorem State.post_copies (s : State) (j : Instr) (w : Nat) : (s.post j w).copies = s.copies := rfl
@[simp] theorem State.post_parked (s : State) (j : Instr) (w : Nat) : (s.post j w).parked = s.parked := rfl
@[simp] theorem State.post_barWait (s : State) (j : Instr) (w : Nat) : (s.post j w).barWait = s.barWait := rfl
@[simp] theorem State.post_orphans (s : State) (j : Instr) (w : Nat) : (s.post j w).orphans = s.orphans := rfl
@[simp] theorem State.post_out (s : State) (j : Instr) (w : Nat) : (s.post j w).out = s.out := rfl
@[simp] theorem State.post_now (s : State) (j : Instr) (w : Nat) : (s.post j w).now = s.now := rfl
@[simp] theorem State.post_cur (s : State) (j : Instr) (w : Nat) : (s.post j w).cur = s.cur := rfl
@[simp] theorem State.post_data (s : State) (j : Instr) (w : Nat) : (s.post j w).data = s.data := rfl
@[simp] theorem State.post_kept (s : State) (j : Instr) (w : Nat) : (s.post j w).kept = s.kept := rfl
@[simp] theorem State.post_heard (s : State) (j : Instr) (w : Nat) : (s.post j w).heard = s.heard := rfl
@[simp] theorem State.post_issuable (s : State) (j : Instr) (w : Nat) : (s.post j w).issuable = s.issuable := rfl
@[simp] theorem State.post_due (s : State) (j : Instr) (w : Nat) : (s.post j w).due = s.due := rfl
@[simp] theorem State.post_timers (s : State) (j : Instr) (w : Nat) : (s.post j w).timers = s.timers := rfl
@[simp] theorem State.post_ticket (s : State) (j : Instr) (w : Nat) : (s.post j w).ticket = s.ticket := rfl

@[simp] theorem State.postAll_mem (s : State) (l : List Op) : (s.postAll l).mem = s.mem := rfl
@[simp] theorem State.postAll_unseen (s : State) (l : List Op) : (s.postAll l).unseen = s.unseen := rfl
@[simp] theorem State.postAll_slots (s : State) (l : List Op) : (s.postAll l).slots = s.slots := rfl
@[simp] theorem State.postAll_cores (s : State) (l : List Op) : (s.postAll l).cores = s.cores := rfl
@[simp] theorem State.postAll_clusters (s : State) (l : List Op) : (s.postAll l).clusters = s.clusters := rfl
@[simp] theorem State.postAll_slices (s : State) (l : List Op) : (s.postAll l).slices = s.slices := rfl
@[simp] theorem State.postAll_routers (s : State) (l : List Op) : (s.postAll l).routers = s.routers := rfl
@[simp] theorem State.postAll_parts (s : State) (l : List Op) : (s.postAll l).parts = s.parts := rfl
@[simp] theorem State.postAll_devs (s : State) (l : List Op) : (s.postAll l).devs = s.devs := rfl
@[simp] theorem State.postAll_levels (s : State) (l : List Op) : (s.postAll l).levels = s.levels := rfl
@[simp] theorem State.postAll_assembly (s : State) (l : List Op) : (s.postAll l).assembly = s.assembly := rfl
@[simp] theorem State.postAll_partners (s : State) (l : List Op) : (s.postAll l).partners = s.partners := rfl
@[simp] theorem State.postAll_nis (s : State) (l : List Op) : (s.postAll l).nis = s.nis := rfl
@[simp] theorem State.postAll_copies (s : State) (l : List Op) : (s.postAll l).copies = s.copies := rfl
@[simp] theorem State.postAll_parked (s : State) (l : List Op) : (s.postAll l).parked = s.parked := rfl
@[simp] theorem State.postAll_barWait (s : State) (l : List Op) : (s.postAll l).barWait = s.barWait := rfl
@[simp] theorem State.postAll_orphans (s : State) (l : List Op) : (s.postAll l).orphans = s.orphans := rfl
@[simp] theorem State.postAll_out (s : State) (l : List Op) : (s.postAll l).out = s.out := rfl
@[simp] theorem State.postAll_now (s : State) (l : List Op) : (s.postAll l).now = s.now := rfl
@[simp] theorem State.postAll_cur (s : State) (l : List Op) : (s.postAll l).cur = s.cur := rfl
@[simp] theorem State.postAll_data (s : State) (l : List Op) : (s.postAll l).data = s.data := rfl
@[simp] theorem State.postAll_kept (s : State) (l : List Op) : (s.postAll l).kept = s.kept := rfl
@[simp] theorem State.postAll_heard (s : State) (l : List Op) : (s.postAll l).heard = s.heard := rfl
@[simp] theorem State.postAll_issuable (s : State) (l : List Op) : (s.postAll l).issuable = s.issuable := rfl
@[simp] theorem State.postAll_due (s : State) (l : List Op) : (s.postAll l).due = s.due := rfl
@[simp] theorem State.postAll_timers (s : State) (l : List Op) : (s.postAll l).timers = s.timers := rfl
@[simp] theorem State.postAll_ticket (s : State) (l : List Op) : (s.postAll l).ticket = s.ticket := rfl

@[simp] theorem State.postOp_mem (s : State) (o : Op) : (s.postOp o).mem = s.mem := rfl
@[simp] theorem State.postOp_unseen (s : State) (o : Op) : (s.postOp o).unseen = s.unseen := rfl
@[simp] theorem State.postOp_slots (s : State) (o : Op) : (s.postOp o).slots = s.slots := rfl
@[simp] theorem State.postOp_cores (s : State) (o : Op) : (s.postOp o).cores = s.cores := rfl
@[simp] theorem State.postOp_clusters (s : State) (o : Op) : (s.postOp o).clusters = s.clusters := rfl
@[simp] theorem State.postOp_slices (s : State) (o : Op) : (s.postOp o).slices = s.slices := rfl
@[simp] theorem State.postOp_routers (s : State) (o : Op) : (s.postOp o).routers = s.routers := rfl
@[simp] theorem State.postOp_parts (s : State) (o : Op) : (s.postOp o).parts = s.parts := rfl
@[simp] theorem State.postOp_devs (s : State) (o : Op) : (s.postOp o).devs = s.devs := rfl
@[simp] theorem State.postOp_levels (s : State) (o : Op) : (s.postOp o).levels = s.levels := rfl
@[simp] theorem State.postOp_assembly (s : State) (o : Op) : (s.postOp o).assembly = s.assembly := rfl
@[simp] theorem State.postOp_partners (s : State) (o : Op) : (s.postOp o).partners = s.partners := rfl
@[simp] theorem State.postOp_nis (s : State) (o : Op) : (s.postOp o).nis = s.nis := rfl
@[simp] theorem State.postOp_copies (s : State) (o : Op) : (s.postOp o).copies = s.copies := rfl
@[simp] theorem State.postOp_parked (s : State) (o : Op) : (s.postOp o).parked = s.parked := rfl
@[simp] theorem State.postOp_barWait (s : State) (o : Op) : (s.postOp o).barWait = s.barWait := rfl
@[simp] theorem State.postOp_orphans (s : State) (o : Op) : (s.postOp o).orphans = s.orphans := rfl
@[simp] theorem State.postOp_out (s : State) (o : Op) : (s.postOp o).out = s.out := rfl
@[simp] theorem State.postOp_now (s : State) (o : Op) : (s.postOp o).now = s.now := rfl
@[simp] theorem State.postOp_cur (s : State) (o : Op) : (s.postOp o).cur = s.cur := rfl
@[simp] theorem State.postOp_data (s : State) (o : Op) : (s.postOp o).data = s.data := rfl
@[simp] theorem State.postOp_kept (s : State) (o : Op) : (s.postOp o).kept = s.kept := rfl
@[simp] theorem State.postOp_heard (s : State) (o : Op) : (s.postOp o).heard = s.heard := rfl
@[simp] theorem State.postOp_issuable (s : State) (o : Op) : (s.postOp o).issuable = s.issuable := rfl
@[simp] theorem State.postOp_due (s : State) (o : Op) : (s.postOp o).due = s.due := rfl
@[simp] theorem State.postOp_timers (s : State) (o : Op) : (s.postOp o).timers = s.timers := rfl
@[simp] theorem State.postOp_ticket (s : State) (o : Op) : (s.postOp o).ticket = s.ticket := rfl

@[simp] theorem State.dueOp_mem (s : State) (o : Op) : (s.dueOp o).mem = s.mem := rfl
@[simp] theorem State.dueOp_unseen (s : State) (o : Op) : (s.dueOp o).unseen = s.unseen := rfl
@[simp] theorem State.dueOp_slots (s : State) (o : Op) : (s.dueOp o).slots = s.slots := rfl
@[simp] theorem State.dueOp_cores (s : State) (o : Op) : (s.dueOp o).cores = s.cores := rfl
@[simp] theorem State.dueOp_clusters (s : State) (o : Op) : (s.dueOp o).clusters = s.clusters := rfl
@[simp] theorem State.dueOp_slices (s : State) (o : Op) : (s.dueOp o).slices = s.slices := rfl
@[simp] theorem State.dueOp_routers (s : State) (o : Op) : (s.dueOp o).routers = s.routers := rfl
@[simp] theorem State.dueOp_parts (s : State) (o : Op) : (s.dueOp o).parts = s.parts := rfl
@[simp] theorem State.dueOp_devs (s : State) (o : Op) : (s.dueOp o).devs = s.devs := rfl
@[simp] theorem State.dueOp_levels (s : State) (o : Op) : (s.dueOp o).levels = s.levels := rfl
@[simp] theorem State.dueOp_assembly (s : State) (o : Op) : (s.dueOp o).assembly = s.assembly := rfl
@[simp] theorem State.dueOp_partners (s : State) (o : Op) : (s.dueOp o).partners = s.partners := rfl
@[simp] theorem State.dueOp_nis (s : State) (o : Op) : (s.dueOp o).nis = s.nis := rfl
@[simp] theorem State.dueOp_copies (s : State) (o : Op) : (s.dueOp o).copies = s.copies := rfl
@[simp] theorem State.dueOp_parked (s : State) (o : Op) : (s.dueOp o).parked = s.parked := rfl
@[simp] theorem State.dueOp_barWait (s : State) (o : Op) : (s.dueOp o).barWait = s.barWait := rfl
@[simp] theorem State.dueOp_orphans (s : State) (o : Op) : (s.dueOp o).orphans = s.orphans := rfl
@[simp] theorem State.dueOp_out (s : State) (o : Op) : (s.dueOp o).out = s.out := rfl
@[simp] theorem State.dueOp_now (s : State) (o : Op) : (s.dueOp o).now = s.now := rfl
@[simp] theorem State.dueOp_cur (s : State) (o : Op) : (s.dueOp o).cur = s.cur := rfl
@[simp] theorem State.dueOp_data (s : State) (o : Op) : (s.dueOp o).data = s.data := rfl
@[simp] theorem State.dueOp_kept (s : State) (o : Op) : (s.dueOp o).kept = s.kept := rfl
@[simp] theorem State.dueOp_heard (s : State) (o : Op) : (s.dueOp o).heard = s.heard := rfl
@[simp] theorem State.dueOp_issuable (s : State) (o : Op) : (s.dueOp o).issuable = s.issuable := rfl
@[simp] theorem State.dueOp_agenda (s : State) (o : Op) : (s.dueOp o).agenda = s.agenda := rfl
@[simp] theorem State.dueOp_timers (s : State) (o : Op) : (s.dueOp o).timers = s.timers := rfl
@[simp] theorem State.dueOp_ticket (s : State) (o : Op) : (s.dueOp o).ticket = s.ticket := rfl

@[simp] theorem State.postDue_mem (s : State) (j : Instr) (w : Nat) : (s.postDue j w).mem = s.mem := rfl
@[simp] theorem State.postDue_unseen (s : State) (j : Instr) (w : Nat) : (s.postDue j w).unseen = s.unseen := rfl
@[simp] theorem State.postDue_slots (s : State) (j : Instr) (w : Nat) : (s.postDue j w).slots = s.slots := rfl
@[simp] theorem State.postDue_cores (s : State) (j : Instr) (w : Nat) : (s.postDue j w).cores = s.cores := rfl
@[simp] theorem State.postDue_clusters (s : State) (j : Instr) (w : Nat) : (s.postDue j w).clusters = s.clusters := rfl
@[simp] theorem State.postDue_slices (s : State) (j : Instr) (w : Nat) : (s.postDue j w).slices = s.slices := rfl
@[simp] theorem State.postDue_routers (s : State) (j : Instr) (w : Nat) : (s.postDue j w).routers = s.routers := rfl
@[simp] theorem State.postDue_parts (s : State) (j : Instr) (w : Nat) : (s.postDue j w).parts = s.parts := rfl
@[simp] theorem State.postDue_devs (s : State) (j : Instr) (w : Nat) : (s.postDue j w).devs = s.devs := rfl
@[simp] theorem State.postDue_levels (s : State) (j : Instr) (w : Nat) : (s.postDue j w).levels = s.levels := rfl
@[simp] theorem State.postDue_assembly (s : State) (j : Instr) (w : Nat) : (s.postDue j w).assembly = s.assembly := rfl
@[simp] theorem State.postDue_partners (s : State) (j : Instr) (w : Nat) : (s.postDue j w).partners = s.partners := rfl
@[simp] theorem State.postDue_nis (s : State) (j : Instr) (w : Nat) : (s.postDue j w).nis = s.nis := rfl
@[simp] theorem State.postDue_copies (s : State) (j : Instr) (w : Nat) : (s.postDue j w).copies = s.copies := rfl
@[simp] theorem State.postDue_parked (s : State) (j : Instr) (w : Nat) : (s.postDue j w).parked = s.parked := rfl
@[simp] theorem State.postDue_barWait (s : State) (j : Instr) (w : Nat) : (s.postDue j w).barWait = s.barWait := rfl
@[simp] theorem State.postDue_orphans (s : State) (j : Instr) (w : Nat) : (s.postDue j w).orphans = s.orphans := rfl
@[simp] theorem State.postDue_out (s : State) (j : Instr) (w : Nat) : (s.postDue j w).out = s.out := rfl
@[simp] theorem State.postDue_now (s : State) (j : Instr) (w : Nat) : (s.postDue j w).now = s.now := rfl
@[simp] theorem State.postDue_cur (s : State) (j : Instr) (w : Nat) : (s.postDue j w).cur = s.cur := rfl
@[simp] theorem State.postDue_data (s : State) (j : Instr) (w : Nat) : (s.postDue j w).data = s.data := rfl
@[simp] theorem State.postDue_kept (s : State) (j : Instr) (w : Nat) : (s.postDue j w).kept = s.kept := rfl
@[simp] theorem State.postDue_heard (s : State) (j : Instr) (w : Nat) : (s.postDue j w).heard = s.heard := rfl
@[simp] theorem State.postDue_issuable (s : State) (j : Instr) (w : Nat) : (s.postDue j w).issuable = s.issuable := rfl
@[simp] theorem State.postDue_agenda (s : State) (j : Instr) (w : Nat) : (s.postDue j w).agenda = s.agenda := rfl
@[simp] theorem State.postDue_timers (s : State) (j : Instr) (w : Nat) : (s.postDue j w).timers = s.timers := rfl
@[simp] theorem State.postDue_ticket (s : State) (j : Instr) (w : Nat) : (s.postDue j w).ticket = s.ticket := rfl

@[simp] theorem State.postAt_mem (s : State) (t : Nat) (j : Instr) (w : Nat) : (s.postAt t j w).mem = s.mem := rfl
@[simp] theorem State.postAt_unseen (s : State) (t : Nat) (j : Instr) (w : Nat) : (s.postAt t j w).unseen = s.unseen := rfl
@[simp] theorem State.postAt_slots (s : State) (t : Nat) (j : Instr) (w : Nat) : (s.postAt t j w).slots = s.slots := rfl
@[simp] theorem State.postAt_cores (s : State) (t : Nat) (j : Instr) (w : Nat) : (s.postAt t j w).cores = s.cores := rfl
@[simp] theorem State.postAt_clusters (s : State) (t : Nat) (j : Instr) (w : Nat) : (s.postAt t j w).clusters = s.clusters := rfl
@[simp] theorem State.postAt_slices (s : State) (t : Nat) (j : Instr) (w : Nat) : (s.postAt t j w).slices = s.slices := rfl
@[simp] theorem State.postAt_routers (s : State) (t : Nat) (j : Instr) (w : Nat) : (s.postAt t j w).routers = s.routers := rfl
@[simp] theorem State.postAt_parts (s : State) (t : Nat) (j : Instr) (w : Nat) : (s.postAt t j w).parts = s.parts := rfl
@[simp] theorem State.postAt_devs (s : State) (t : Nat) (j : Instr) (w : Nat) : (s.postAt t j w).devs = s.devs := rfl
@[simp] theorem State.postAt_levels (s : State) (t : Nat) (j : Instr) (w : Nat) : (s.postAt t j w).levels = s.levels := rfl
@[simp] theorem State.postAt_assembly (s : State) (t : Nat) (j : Instr) (w : Nat) : (s.postAt t j w).assembly = s.assembly := rfl
@[simp] theorem State.postAt_partners (s : State) (t : Nat) (j : Instr) (w : Nat) : (s.postAt t j w).partners = s.partners := rfl
@[simp] theorem State.postAt_nis (s : State) (t : Nat) (j : Instr) (w : Nat) : (s.postAt t j w).nis = s.nis := rfl
@[simp] theorem State.postAt_copies (s : State) (t : Nat) (j : Instr) (w : Nat) : (s.postAt t j w).copies = s.copies := rfl
@[simp] theorem State.postAt_parked (s : State) (t : Nat) (j : Instr) (w : Nat) : (s.postAt t j w).parked = s.parked := rfl
@[simp] theorem State.postAt_barWait (s : State) (t : Nat) (j : Instr) (w : Nat) : (s.postAt t j w).barWait = s.barWait := rfl
@[simp] theorem State.postAt_orphans (s : State) (t : Nat) (j : Instr) (w : Nat) : (s.postAt t j w).orphans = s.orphans := rfl
@[simp] theorem State.postAt_out (s : State) (t : Nat) (j : Instr) (w : Nat) : (s.postAt t j w).out = s.out := rfl
@[simp] theorem State.postAt_now (s : State) (t : Nat) (j : Instr) (w : Nat) : (s.postAt t j w).now = s.now := rfl
@[simp] theorem State.postAt_cur (s : State) (t : Nat) (j : Instr) (w : Nat) : (s.postAt t j w).cur = s.cur := rfl
@[simp] theorem State.postAt_data (s : State) (t : Nat) (j : Instr) (w : Nat) : (s.postAt t j w).data = s.data := rfl
@[simp] theorem State.postAt_kept (s : State) (t : Nat) (j : Instr) (w : Nat) : (s.postAt t j w).kept = s.kept := rfl
@[simp] theorem State.postAt_heard (s : State) (t : Nat) (j : Instr) (w : Nat) : (s.postAt t j w).heard = s.heard := rfl
@[simp] theorem State.postAt_issuable (s : State) (t : Nat) (j : Instr) (w : Nat) : (s.postAt t j w).issuable = s.issuable := rfl
@[simp] theorem State.postAt_due (s : State) (t : Nat) (j : Instr) (w : Nat) : (s.postAt t j w).due = s.due := rfl
@[simp] theorem State.postAt_agenda (s : State) (t : Nat) (j : Instr) (w : Nat) : (s.postAt t j w).agenda = s.agenda := rfl
@[simp] theorem State.postAt_ticket (s : State) (t : Nat) (j : Instr) (w : Nat) : (s.postAt t j w).ticket = s.ticket := rfl

@[simp] theorem State.tick_ticket (s : State) : s.tick.ticket = s.ticket + 1 := rfl
@[simp] theorem State.post_agenda (s : State) (j : Instr) (w : Nat) : (s.post j w).agenda = s.agenda ++ [{ who := w, ins := j }] := rfl
@[simp] theorem State.postAll_agenda (s : State) (l : List Op) : (s.postAll l).agenda = s.agenda ++ l := rfl
@[simp] theorem State.postOp_agenda (s : State) (o : Op) : (s.postOp o).agenda = s.agenda ++ [o] := rfl
@[simp] theorem State.dueOp_due (s : State) (o : Op) : (s.dueOp o).due = s.due ++ [o] := rfl
@[simp] theorem State.postDue_due (s : State) (j : Instr) (w : Nat) : (s.postDue j w).due = s.due ++ [{ who := w, ins := j }] := rfl

/-! ## A part after it has been set -/

theorem State.setSlot_slot (s : State) (i j : Nat) (x : Slot) : (s.setSlot i x).slot j = if j = i then x else s.slot j := by
  simp [State.setSlot, State.slot, Sp.get_put]
@[simp] theorem State.setSlot_slot_self (s : State) (i : Nat) (x : Slot) : (s.setSlot i x).slot i = x := by
  simp [State.setSlot_slot]
theorem State.setSlot_slot_other (s : State) (i j : Nat) (x : Slot) (h : j ≠ i) : (s.setSlot i x).slot j = s.slot j := by
  simp [State.setSlot_slot, h]
theorem State.updSlot_slot (s : State) (i j : Nat) (f : Slot → Slot) : (s.updSlot i f).slot j = if j = i then f (s.slot i) else s.slot j := by
  simp [State.updSlot, State.setSlot_slot]
@[simp] theorem State.updSlot_slot_self (s : State) (i : Nat) (f : Slot → Slot) : (s.updSlot i f).slot i = f (s.slot i) := by
  simp [State.updSlot_slot]
theorem State.setCore_core (s : State) (i j : Nat) (x : Core) : (s.setCore i x).core j = if j = i then x else s.core j := by
  simp [State.setCore, State.core, Sp.get_put]
@[simp] theorem State.setCore_core_self (s : State) (i : Nat) (x : Core) : (s.setCore i x).core i = x := by
  simp [State.setCore_core]
theorem State.setCore_core_other (s : State) (i j : Nat) (x : Core) (h : j ≠ i) : (s.setCore i x).core j = s.core j := by
  simp [State.setCore_core, h]
theorem State.updCore_core (s : State) (i j : Nat) (f : Core → Core) : (s.updCore i f).core j = if j = i then f (s.core i) else s.core j := by
  simp [State.updCore, State.setCore_core]
@[simp] theorem State.updCore_core_self (s : State) (i : Nat) (f : Core → Core) : (s.updCore i f).core i = f (s.core i) := by
  simp [State.updCore_core]
theorem State.setCluster_cluster (s : State) (i j : Nat) (x : Cluster) : (s.setCluster i x).cluster j = if j = i then x else s.cluster j := by
  simp [State.setCluster, State.cluster, Sp.get_put]
@[simp] theorem State.setCluster_cluster_self (s : State) (i : Nat) (x : Cluster) : (s.setCluster i x).cluster i = x := by
  simp [State.setCluster_cluster]
theorem State.setCluster_cluster_other (s : State) (i j : Nat) (x : Cluster) (h : j ≠ i) : (s.setCluster i x).cluster j = s.cluster j := by
  simp [State.setCluster_cluster, h]
theorem State.updCluster_cluster (s : State) (i j : Nat) (f : Cluster → Cluster) : (s.updCluster i f).cluster j = if j = i then f (s.cluster i) else s.cluster j := by
  simp [State.updCluster, State.setCluster_cluster]
@[simp] theorem State.updCluster_cluster_self (s : State) (i : Nat) (f : Cluster → Cluster) : (s.updCluster i f).cluster i = f (s.cluster i) := by
  simp [State.updCluster_cluster]
theorem State.setSlice_slice (s : State) (i j : Nat) (x : Slice) : (s.setSlice i x).slice j = if j = i then x else s.slice j := by
  simp [State.setSlice, State.slice, Sp.get_put]
@[simp] theorem State.setSlice_slice_self (s : State) (i : Nat) (x : Slice) : (s.setSlice i x).slice i = x := by
  simp [State.setSlice_slice]
theorem State.setSlice_slice_other (s : State) (i j : Nat) (x : Slice) (h : j ≠ i) : (s.setSlice i x).slice j = s.slice j := by
  simp [State.setSlice_slice, h]
theorem State.updSlice_slice (s : State) (i j : Nat) (f : Slice → Slice) : (s.updSlice i f).slice j = if j = i then f (s.slice i) else s.slice j := by
  simp [State.updSlice, State.setSlice_slice]
@[simp] theorem State.updSlice_slice_self (s : State) (i : Nat) (f : Slice → Slice) : (s.updSlice i f).slice i = f (s.slice i) := by
  simp [State.updSlice_slice]
theorem State.setRouter_router (s : State) (i j : Nat) (x : Router) : (s.setRouter i x).router j = if j = i then x else s.router j := by
  simp [State.setRouter, State.router, Sp.get_put]
@[simp] theorem State.setRouter_router_self (s : State) (i : Nat) (x : Router) : (s.setRouter i x).router i = x := by
  simp [State.setRouter_router]
theorem State.setRouter_router_other (s : State) (i j : Nat) (x : Router) (h : j ≠ i) : (s.setRouter i x).router j = s.router j := by
  simp [State.setRouter_router, h]
theorem State.setPart_part (s : State) (i j : Nat) (x : Part) : (s.setPart i x).part j = if j = i then x else s.part j := by
  simp [State.setPart, State.part, Sp.get_put]
@[simp] theorem State.setPart_part_self (s : State) (i : Nat) (x : Part) : (s.setPart i x).part i = x := by
  simp [State.setPart_part]
theorem State.setPart_part_other (s : State) (i j : Nat) (x : Part) (h : j ≠ i) : (s.setPart i x).part j = s.part j := by
  simp [State.setPart_part, h]
theorem State.updPart_part (s : State) (i j : Nat) (f : Part → Part) : (s.updPart i f).part j = if j = i then f (s.part i) else s.part j := by
  simp [State.updPart, State.setPart_part]
@[simp] theorem State.updPart_part_self (s : State) (i : Nat) (f : Part → Part) : (s.updPart i f).part i = f (s.part i) := by
  simp [State.updPart_part]
theorem State.setDev_dev (s : State) (i j : Nat) (x : Device) : (s.setDev i x).dev j = if j = i then x else s.dev j := by
  simp [State.setDev, State.dev, Sp.get_put]
@[simp] theorem State.setDev_dev_self (s : State) (i : Nat) (x : Device) : (s.setDev i x).dev i = x := by
  simp [State.setDev_dev]
theorem State.setDev_dev_other (s : State) (i j : Nat) (x : Device) (h : j ≠ i) : (s.setDev i x).dev j = s.dev j := by
  simp [State.setDev_dev, h]
theorem State.updDev_dev (s : State) (i j : Nat) (f : Device → Device) : (s.updDev i f).dev j = if j = i then f (s.dev i) else s.dev j := by
  simp [State.updDev, State.setDev_dev]
@[simp] theorem State.updDev_dev_self (s : State) (i : Nat) (f : Device → Device) : (s.updDev i f).dev i = f (s.dev i) := by
  simp [State.updDev_dev]

@[simp] theorem State.setSlot_setSlot (s : State) (i : Nat) (x y : Slot) : (s.setSlot i x).setSlot i y = s.setSlot i y := by
  simp [State.setSlot]
@[simp] theorem State.setCore_setCore (s : State) (i : Nat) (x y : Core) : (s.setCore i x).setCore i y = s.setCore i y := by
  simp [State.setCore]
@[simp] theorem State.setCluster_setCluster (s : State) (i : Nat) (x y : Cluster) : (s.setCluster i x).setCluster i y = s.setCluster i y := by
  simp [State.setCluster]
@[simp] theorem State.setSlice_setSlice (s : State) (i : Nat) (x y : Slice) : (s.setSlice i x).setSlice i y = s.setSlice i y := by
  simp [State.setSlice]
@[simp] theorem State.setRouter_setRouter (s : State) (i : Nat) (x y : Router) : (s.setRouter i x).setRouter i y = s.setRouter i y := by
  simp [State.setRouter]
@[simp] theorem State.setPart_setPart (s : State) (i : Nat) (x y : Part) : (s.setPart i x).setPart i y = s.setPart i y := by
  simp [State.setPart]
@[simp] theorem State.setDev_setDev (s : State) (i : Nat) (x y : Device) : (s.setDev i x).setDev i y = s.setDev i y := by
  simp [State.setDev]

/-! ## The other parts after an update -/

@[simp] theorem State.tick_slot' (s : State) (q : Nat) : (s.tick).slot q = s.slot q := rfl
@[simp] theorem State.tick_core' (s : State) (q : Nat) : (s.tick).core q = s.core q := rfl
@[simp] theorem State.tick_cluster' (s : State) (q : Nat) : (s.tick).cluster q = s.cluster q := rfl
@[simp] theorem State.tick_slice' (s : State) (q : Nat) : (s.tick).slice q = s.slice q := rfl
@[simp] theorem State.tick_router' (s : State) (q : Nat) : (s.tick).router q = s.router q := rfl
@[simp] theorem State.tick_part' (s : State) (q : Nat) : (s.tick).part q = s.part q := rfl
@[simp] theorem State.tick_dev' (s : State) (q : Nat) : (s.tick).dev q = s.dev q := rfl
@[simp] theorem State.setSlot_core' (s : State) (i : Nat) (x : Slot) (q : Nat) : (s.setSlot i x).core q = s.core q := rfl
@[simp] theorem State.setSlot_cluster' (s : State) (i : Nat) (x : Slot) (q : Nat) : (s.setSlot i x).cluster q = s.cluster q := rfl
@[simp] theorem State.setSlot_slice' (s : State) (i : Nat) (x : Slot) (q : Nat) : (s.setSlot i x).slice q = s.slice q := rfl
@[simp] theorem State.setSlot_router' (s : State) (i : Nat) (x : Slot) (q : Nat) : (s.setSlot i x).router q = s.router q := rfl
@[simp] theorem State.setSlot_part' (s : State) (i : Nat) (x : Slot) (q : Nat) : (s.setSlot i x).part q = s.part q := rfl
@[simp] theorem State.setSlot_dev' (s : State) (i : Nat) (x : Slot) (q : Nat) : (s.setSlot i x).dev q = s.dev q := rfl
@[simp] theorem State.setCore_slot' (s : State) (i : Nat) (x : Core) (q : Nat) : (s.setCore i x).slot q = s.slot q := rfl
@[simp] theorem State.setCore_cluster' (s : State) (i : Nat) (x : Core) (q : Nat) : (s.setCore i x).cluster q = s.cluster q := rfl
@[simp] theorem State.setCore_slice' (s : State) (i : Nat) (x : Core) (q : Nat) : (s.setCore i x).slice q = s.slice q := rfl
@[simp] theorem State.setCore_router' (s : State) (i : Nat) (x : Core) (q : Nat) : (s.setCore i x).router q = s.router q := rfl
@[simp] theorem State.setCore_part' (s : State) (i : Nat) (x : Core) (q : Nat) : (s.setCore i x).part q = s.part q := rfl
@[simp] theorem State.setCore_dev' (s : State) (i : Nat) (x : Core) (q : Nat) : (s.setCore i x).dev q = s.dev q := rfl
@[simp] theorem State.setCluster_slot' (s : State) (i : Nat) (x : Cluster) (q : Nat) : (s.setCluster i x).slot q = s.slot q := rfl
@[simp] theorem State.setCluster_core' (s : State) (i : Nat) (x : Cluster) (q : Nat) : (s.setCluster i x).core q = s.core q := rfl
@[simp] theorem State.setCluster_slice' (s : State) (i : Nat) (x : Cluster) (q : Nat) : (s.setCluster i x).slice q = s.slice q := rfl
@[simp] theorem State.setCluster_router' (s : State) (i : Nat) (x : Cluster) (q : Nat) : (s.setCluster i x).router q = s.router q := rfl
@[simp] theorem State.setCluster_part' (s : State) (i : Nat) (x : Cluster) (q : Nat) : (s.setCluster i x).part q = s.part q := rfl
@[simp] theorem State.setCluster_dev' (s : State) (i : Nat) (x : Cluster) (q : Nat) : (s.setCluster i x).dev q = s.dev q := rfl
@[simp] theorem State.setSlice_slot' (s : State) (i : Nat) (x : Slice) (q : Nat) : (s.setSlice i x).slot q = s.slot q := rfl
@[simp] theorem State.setSlice_core' (s : State) (i : Nat) (x : Slice) (q : Nat) : (s.setSlice i x).core q = s.core q := rfl
@[simp] theorem State.setSlice_cluster' (s : State) (i : Nat) (x : Slice) (q : Nat) : (s.setSlice i x).cluster q = s.cluster q := rfl
@[simp] theorem State.setSlice_router' (s : State) (i : Nat) (x : Slice) (q : Nat) : (s.setSlice i x).router q = s.router q := rfl
@[simp] theorem State.setSlice_part' (s : State) (i : Nat) (x : Slice) (q : Nat) : (s.setSlice i x).part q = s.part q := rfl
@[simp] theorem State.setSlice_dev' (s : State) (i : Nat) (x : Slice) (q : Nat) : (s.setSlice i x).dev q = s.dev q := rfl
@[simp] theorem State.setRouter_slot' (s : State) (i : Nat) (x : Router) (q : Nat) : (s.setRouter i x).slot q = s.slot q := rfl
@[simp] theorem State.setRouter_core' (s : State) (i : Nat) (x : Router) (q : Nat) : (s.setRouter i x).core q = s.core q := rfl
@[simp] theorem State.setRouter_cluster' (s : State) (i : Nat) (x : Router) (q : Nat) : (s.setRouter i x).cluster q = s.cluster q := rfl
@[simp] theorem State.setRouter_slice' (s : State) (i : Nat) (x : Router) (q : Nat) : (s.setRouter i x).slice q = s.slice q := rfl
@[simp] theorem State.setRouter_part' (s : State) (i : Nat) (x : Router) (q : Nat) : (s.setRouter i x).part q = s.part q := rfl
@[simp] theorem State.setRouter_dev' (s : State) (i : Nat) (x : Router) (q : Nat) : (s.setRouter i x).dev q = s.dev q := rfl
@[simp] theorem State.setPart_slot' (s : State) (i : Nat) (x : Part) (q : Nat) : (s.setPart i x).slot q = s.slot q := rfl
@[simp] theorem State.setPart_core' (s : State) (i : Nat) (x : Part) (q : Nat) : (s.setPart i x).core q = s.core q := rfl
@[simp] theorem State.setPart_cluster' (s : State) (i : Nat) (x : Part) (q : Nat) : (s.setPart i x).cluster q = s.cluster q := rfl
@[simp] theorem State.setPart_slice' (s : State) (i : Nat) (x : Part) (q : Nat) : (s.setPart i x).slice q = s.slice q := rfl
@[simp] theorem State.setPart_router' (s : State) (i : Nat) (x : Part) (q : Nat) : (s.setPart i x).router q = s.router q := rfl
@[simp] theorem State.setPart_dev' (s : State) (i : Nat) (x : Part) (q : Nat) : (s.setPart i x).dev q = s.dev q := rfl
@[simp] theorem State.setDev_slot' (s : State) (i : Nat) (x : Device) (q : Nat) : (s.setDev i x).slot q = s.slot q := rfl
@[simp] theorem State.setDev_core' (s : State) (i : Nat) (x : Device) (q : Nat) : (s.setDev i x).core q = s.core q := rfl
@[simp] theorem State.setDev_cluster' (s : State) (i : Nat) (x : Device) (q : Nat) : (s.setDev i x).cluster q = s.cluster q := rfl
@[simp] theorem State.setDev_slice' (s : State) (i : Nat) (x : Device) (q : Nat) : (s.setDev i x).slice q = s.slice q := rfl
@[simp] theorem State.setDev_router' (s : State) (i : Nat) (x : Device) (q : Nat) : (s.setDev i x).router q = s.router q := rfl
@[simp] theorem State.setDev_part' (s : State) (i : Nat) (x : Device) (q : Nat) : (s.setDev i x).part q = s.part q := rfl
@[simp] theorem State.setLevel_slot' (s : State) (p : Nat) (h : W64) (x : Level) (q : Nat) : (s.setLevel p h x).slot q = s.slot q := rfl
@[simp] theorem State.setLevel_core' (s : State) (p : Nat) (h : W64) (x : Level) (q : Nat) : (s.setLevel p h x).core q = s.core q := rfl
@[simp] theorem State.setLevel_cluster' (s : State) (p : Nat) (h : W64) (x : Level) (q : Nat) : (s.setLevel p h x).cluster q = s.cluster q := rfl
@[simp] theorem State.setLevel_slice' (s : State) (p : Nat) (h : W64) (x : Level) (q : Nat) : (s.setLevel p h x).slice q = s.slice q := rfl
@[simp] theorem State.setLevel_router' (s : State) (p : Nat) (h : W64) (x : Level) (q : Nat) : (s.setLevel p h x).router q = s.router q := rfl
@[simp] theorem State.setLevel_part' (s : State) (p : Nat) (h : W64) (x : Level) (q : Nat) : (s.setLevel p h x).part q = s.part q := rfl
@[simp] theorem State.setLevel_dev' (s : State) (p : Nat) (h : W64) (x : Level) (q : Nat) : (s.setLevel p h x).dev q = s.dev q := rfl
@[simp] theorem State.updSlot_core' (s : State) (i : Nat) (f : Slot → Slot) (q : Nat) : (s.updSlot i f).core q = s.core q := rfl
@[simp] theorem State.updSlot_cluster' (s : State) (i : Nat) (f : Slot → Slot) (q : Nat) : (s.updSlot i f).cluster q = s.cluster q := rfl
@[simp] theorem State.updSlot_slice' (s : State) (i : Nat) (f : Slot → Slot) (q : Nat) : (s.updSlot i f).slice q = s.slice q := rfl
@[simp] theorem State.updSlot_router' (s : State) (i : Nat) (f : Slot → Slot) (q : Nat) : (s.updSlot i f).router q = s.router q := rfl
@[simp] theorem State.updSlot_part' (s : State) (i : Nat) (f : Slot → Slot) (q : Nat) : (s.updSlot i f).part q = s.part q := rfl
@[simp] theorem State.updSlot_dev' (s : State) (i : Nat) (f : Slot → Slot) (q : Nat) : (s.updSlot i f).dev q = s.dev q := rfl
@[simp] theorem State.updCore_slot' (s : State) (i : Nat) (f : Core → Core) (q : Nat) : (s.updCore i f).slot q = s.slot q := rfl
@[simp] theorem State.updCore_cluster' (s : State) (i : Nat) (f : Core → Core) (q : Nat) : (s.updCore i f).cluster q = s.cluster q := rfl
@[simp] theorem State.updCore_slice' (s : State) (i : Nat) (f : Core → Core) (q : Nat) : (s.updCore i f).slice q = s.slice q := rfl
@[simp] theorem State.updCore_router' (s : State) (i : Nat) (f : Core → Core) (q : Nat) : (s.updCore i f).router q = s.router q := rfl
@[simp] theorem State.updCore_part' (s : State) (i : Nat) (f : Core → Core) (q : Nat) : (s.updCore i f).part q = s.part q := rfl
@[simp] theorem State.updCore_dev' (s : State) (i : Nat) (f : Core → Core) (q : Nat) : (s.updCore i f).dev q = s.dev q := rfl
@[simp] theorem State.updCluster_slot' (s : State) (i : Nat) (f : Cluster → Cluster) (q : Nat) : (s.updCluster i f).slot q = s.slot q := rfl
@[simp] theorem State.updCluster_core' (s : State) (i : Nat) (f : Cluster → Cluster) (q : Nat) : (s.updCluster i f).core q = s.core q := rfl
@[simp] theorem State.updCluster_slice' (s : State) (i : Nat) (f : Cluster → Cluster) (q : Nat) : (s.updCluster i f).slice q = s.slice q := rfl
@[simp] theorem State.updCluster_router' (s : State) (i : Nat) (f : Cluster → Cluster) (q : Nat) : (s.updCluster i f).router q = s.router q := rfl
@[simp] theorem State.updCluster_part' (s : State) (i : Nat) (f : Cluster → Cluster) (q : Nat) : (s.updCluster i f).part q = s.part q := rfl
@[simp] theorem State.updCluster_dev' (s : State) (i : Nat) (f : Cluster → Cluster) (q : Nat) : (s.updCluster i f).dev q = s.dev q := rfl
@[simp] theorem State.updSlice_slot' (s : State) (i : Nat) (f : Slice → Slice) (q : Nat) : (s.updSlice i f).slot q = s.slot q := rfl
@[simp] theorem State.updSlice_core' (s : State) (i : Nat) (f : Slice → Slice) (q : Nat) : (s.updSlice i f).core q = s.core q := rfl
@[simp] theorem State.updSlice_cluster' (s : State) (i : Nat) (f : Slice → Slice) (q : Nat) : (s.updSlice i f).cluster q = s.cluster q := rfl
@[simp] theorem State.updSlice_router' (s : State) (i : Nat) (f : Slice → Slice) (q : Nat) : (s.updSlice i f).router q = s.router q := rfl
@[simp] theorem State.updSlice_part' (s : State) (i : Nat) (f : Slice → Slice) (q : Nat) : (s.updSlice i f).part q = s.part q := rfl
@[simp] theorem State.updSlice_dev' (s : State) (i : Nat) (f : Slice → Slice) (q : Nat) : (s.updSlice i f).dev q = s.dev q := rfl
@[simp] theorem State.updPart_slot' (s : State) (i : Nat) (f : Part → Part) (q : Nat) : (s.updPart i f).slot q = s.slot q := rfl
@[simp] theorem State.updPart_core' (s : State) (i : Nat) (f : Part → Part) (q : Nat) : (s.updPart i f).core q = s.core q := rfl
@[simp] theorem State.updPart_cluster' (s : State) (i : Nat) (f : Part → Part) (q : Nat) : (s.updPart i f).cluster q = s.cluster q := rfl
@[simp] theorem State.updPart_slice' (s : State) (i : Nat) (f : Part → Part) (q : Nat) : (s.updPart i f).slice q = s.slice q := rfl
@[simp] theorem State.updPart_router' (s : State) (i : Nat) (f : Part → Part) (q : Nat) : (s.updPart i f).router q = s.router q := rfl
@[simp] theorem State.updPart_dev' (s : State) (i : Nat) (f : Part → Part) (q : Nat) : (s.updPart i f).dev q = s.dev q := rfl
@[simp] theorem State.updDev_slot' (s : State) (i : Nat) (f : Device → Device) (q : Nat) : (s.updDev i f).slot q = s.slot q := rfl
@[simp] theorem State.updDev_core' (s : State) (i : Nat) (f : Device → Device) (q : Nat) : (s.updDev i f).core q = s.core q := rfl
@[simp] theorem State.updDev_cluster' (s : State) (i : Nat) (f : Device → Device) (q : Nat) : (s.updDev i f).cluster q = s.cluster q := rfl
@[simp] theorem State.updDev_slice' (s : State) (i : Nat) (f : Device → Device) (q : Nat) : (s.updDev i f).slice q = s.slice q := rfl
@[simp] theorem State.updDev_router' (s : State) (i : Nat) (f : Device → Device) (q : Nat) : (s.updDev i f).router q = s.router q := rfl
@[simp] theorem State.updDev_part' (s : State) (i : Nat) (f : Device → Device) (q : Nat) : (s.updDev i f).part q = s.part q := rfl
@[simp] theorem State.setPort_slot' (s : State) (c i : Nat) (p : Port) (q : Nat) : (s.setPort c i p).slot q = s.slot q := rfl
@[simp] theorem State.setPort_cluster' (s : State) (c i : Nat) (p : Port) (q : Nat) : (s.setPort c i p).cluster q = s.cluster q := rfl
@[simp] theorem State.setPort_slice' (s : State) (c i : Nat) (p : Port) (q : Nat) : (s.setPort c i p).slice q = s.slice q := rfl
@[simp] theorem State.setPort_router' (s : State) (c i : Nat) (p : Port) (q : Nat) : (s.setPort c i p).router q = s.router q := rfl
@[simp] theorem State.setPort_part' (s : State) (c i : Nat) (p : Port) (q : Nat) : (s.setPort c i p).part q = s.part q := rfl
@[simp] theorem State.setPort_dev' (s : State) (c i : Nat) (p : Port) (q : Nat) : (s.setPort c i p).dev q = s.dev q := rfl
@[simp] theorem State.post_slot' (s : State) (j : Instr) (w : Nat) (q : Nat) : (s.post j w).slot q = s.slot q := rfl
@[simp] theorem State.post_core' (s : State) (j : Instr) (w : Nat) (q : Nat) : (s.post j w).core q = s.core q := rfl
@[simp] theorem State.post_cluster' (s : State) (j : Instr) (w : Nat) (q : Nat) : (s.post j w).cluster q = s.cluster q := rfl
@[simp] theorem State.post_slice' (s : State) (j : Instr) (w : Nat) (q : Nat) : (s.post j w).slice q = s.slice q := rfl
@[simp] theorem State.post_router' (s : State) (j : Instr) (w : Nat) (q : Nat) : (s.post j w).router q = s.router q := rfl
@[simp] theorem State.post_part' (s : State) (j : Instr) (w : Nat) (q : Nat) : (s.post j w).part q = s.part q := rfl
@[simp] theorem State.post_dev' (s : State) (j : Instr) (w : Nat) (q : Nat) : (s.post j w).dev q = s.dev q := rfl
@[simp] theorem State.postAll_slot' (s : State) (l : List Op) (q : Nat) : (s.postAll l).slot q = s.slot q := rfl
@[simp] theorem State.postAll_core' (s : State) (l : List Op) (q : Nat) : (s.postAll l).core q = s.core q := rfl
@[simp] theorem State.postAll_cluster' (s : State) (l : List Op) (q : Nat) : (s.postAll l).cluster q = s.cluster q := rfl
@[simp] theorem State.postAll_slice' (s : State) (l : List Op) (q : Nat) : (s.postAll l).slice q = s.slice q := rfl
@[simp] theorem State.postAll_router' (s : State) (l : List Op) (q : Nat) : (s.postAll l).router q = s.router q := rfl
@[simp] theorem State.postAll_part' (s : State) (l : List Op) (q : Nat) : (s.postAll l).part q = s.part q := rfl
@[simp] theorem State.postAll_dev' (s : State) (l : List Op) (q : Nat) : (s.postAll l).dev q = s.dev q := rfl
@[simp] theorem State.postOp_slot' (s : State) (o : Op) (q : Nat) : (s.postOp o).slot q = s.slot q := rfl
@[simp] theorem State.postOp_core' (s : State) (o : Op) (q : Nat) : (s.postOp o).core q = s.core q := rfl
@[simp] theorem State.postOp_cluster' (s : State) (o : Op) (q : Nat) : (s.postOp o).cluster q = s.cluster q := rfl
@[simp] theorem State.postOp_slice' (s : State) (o : Op) (q : Nat) : (s.postOp o).slice q = s.slice q := rfl
@[simp] theorem State.postOp_router' (s : State) (o : Op) (q : Nat) : (s.postOp o).router q = s.router q := rfl
@[simp] theorem State.postOp_part' (s : State) (o : Op) (q : Nat) : (s.postOp o).part q = s.part q := rfl
@[simp] theorem State.postOp_dev' (s : State) (o : Op) (q : Nat) : (s.postOp o).dev q = s.dev q := rfl
@[simp] theorem State.dueOp_slot' (s : State) (o : Op) (q : Nat) : (s.dueOp o).slot q = s.slot q := rfl
@[simp] theorem State.dueOp_core' (s : State) (o : Op) (q : Nat) : (s.dueOp o).core q = s.core q := rfl
@[simp] theorem State.dueOp_cluster' (s : State) (o : Op) (q : Nat) : (s.dueOp o).cluster q = s.cluster q := rfl
@[simp] theorem State.dueOp_slice' (s : State) (o : Op) (q : Nat) : (s.dueOp o).slice q = s.slice q := rfl
@[simp] theorem State.dueOp_router' (s : State) (o : Op) (q : Nat) : (s.dueOp o).router q = s.router q := rfl
@[simp] theorem State.dueOp_part' (s : State) (o : Op) (q : Nat) : (s.dueOp o).part q = s.part q := rfl
@[simp] theorem State.dueOp_dev' (s : State) (o : Op) (q : Nat) : (s.dueOp o).dev q = s.dev q := rfl
@[simp] theorem State.postDue_slot' (s : State) (j : Instr) (w : Nat) (q : Nat) : (s.postDue j w).slot q = s.slot q := rfl
@[simp] theorem State.postDue_core' (s : State) (j : Instr) (w : Nat) (q : Nat) : (s.postDue j w).core q = s.core q := rfl
@[simp] theorem State.postDue_cluster' (s : State) (j : Instr) (w : Nat) (q : Nat) : (s.postDue j w).cluster q = s.cluster q := rfl
@[simp] theorem State.postDue_slice' (s : State) (j : Instr) (w : Nat) (q : Nat) : (s.postDue j w).slice q = s.slice q := rfl
@[simp] theorem State.postDue_router' (s : State) (j : Instr) (w : Nat) (q : Nat) : (s.postDue j w).router q = s.router q := rfl
@[simp] theorem State.postDue_part' (s : State) (j : Instr) (w : Nat) (q : Nat) : (s.postDue j w).part q = s.part q := rfl
@[simp] theorem State.postDue_dev' (s : State) (j : Instr) (w : Nat) (q : Nat) : (s.postDue j w).dev q = s.dev q := rfl
@[simp] theorem State.postAt_slot' (s : State) (t : Nat) (j : Instr) (w : Nat) (q : Nat) : (s.postAt t j w).slot q = s.slot q := rfl
@[simp] theorem State.postAt_core' (s : State) (t : Nat) (j : Instr) (w : Nat) (q : Nat) : (s.postAt t j w).core q = s.core q := rfl
@[simp] theorem State.postAt_cluster' (s : State) (t : Nat) (j : Instr) (w : Nat) (q : Nat) : (s.postAt t j w).cluster q = s.cluster q := rfl
@[simp] theorem State.postAt_slice' (s : State) (t : Nat) (j : Instr) (w : Nat) (q : Nat) : (s.postAt t j w).slice q = s.slice q := rfl
@[simp] theorem State.postAt_router' (s : State) (t : Nat) (j : Instr) (w : Nat) (q : Nat) : (s.postAt t j w).router q = s.router q := rfl
@[simp] theorem State.postAt_part' (s : State) (t : Nat) (j : Instr) (w : Nat) (q : Nat) : (s.postAt t j w).part q = s.part q := rfl
@[simp] theorem State.postAt_dev' (s : State) (t : Nat) (j : Instr) (w : Nat) (q : Nat) : (s.postAt t j w).dev q = s.dev q := rfl

end Sys2Proof.Machine
end

