-- ==== Sys2Proof/Laws/Slot.lean ====
section
/-! SUPPORT. What the shared operations on the issuing slot do: registers, retiring, the operand checks, the long-latency issue. -/

namespace Sys2Proof.Machine
open Sys2Proof

/-! ## Registers -/

@[simp] theorem Slot.getG_zero (t : Slot) : t.getG 0 = 0 := rfl
@[simp] theorem Slot.getK_zero (t : Slot) : t.getK 0 = 0xFFFFFFFF := rfl
@[simp] theorem Slot.empty_zero (t : Slot) : t.empty 0 = false := rfl
@[simp] theorem Slot.empty_k0 (t : Slot) : t.empty 64 = false := by simp [Slot.empty]

theorem Slot.setG_getG (t : Slot) (n m : Nat) (v : W64) : (t.setG n v).getG m = if m = n ∧ n ≠ 0 then v else t.getG m := by
  by_cases hn : n = 0
  · simp [Slot.setG, hn]
  · by_cases hm : m = 0
    · subst hm; simp [Slot.getG, Ne.symm hn]
    · simp [Slot.setG, Slot.getG, hn, hm, Sp.get_set]

theorem Slot.setG_empty (t : Slot) (n c : Nat) (v : W64) : (t.setG n v).empty c = if c = n then false else t.empty c := by
  by_cases hn : n = 0
  · subst hn; by_cases hc : c = 0 <;> simp [Slot.setG, hc]
  · by_cases hc : c = n <;> simp [Slot.setG, Slot.empty, hn, gCode, Sp.get_set, hc]

theorem Slot.setG_rest (t : Slot) (n : Nat) (v : W64) : t.setG n v = { t with g := (t.setG n v).g, fe := (t.setG n v).fe } := by
  by_cases hn : n = 0 <;> simp [Slot.setG, hn]

theorem Slot.setV_getV (t : Slot) (n m : Nat) (v : V512) : (t.setV n v).getV m = if m = n then v else t.getV m := by
  simp [Slot.setV, Slot.getV, Sp.get_set]

theorem Slot.setV_empty (t : Slot) (n c : Nat) (v : V512) : (t.setV n v).empty c = if c = vCode n then false else t.empty c := by
  by_cases hc : c = vCode n <;> simp [Slot.setV, Slot.empty, Sp.get_set, hc]

theorem Slot.setK_getK (t : Slot) (n m : Nat) (v : K32) : (t.setK n v).getK m = if m = n ∧ n ≠ 0 then v else t.getK m := by
  by_cases hn : n = 0
  · simp [Slot.setK, hn]
  · by_cases hm : m = 0
    · subst hm; simp [Slot.getK, Ne.symm hn]
    · simp [Slot.setK, Slot.getK, hn, hm, Sp.get_set]

theorem Slot.setK_empty (t : Slot) (n c : Nat) (v : K32) : (t.setK n v).empty c = if c = kCode n then false else t.empty c := by
  by_cases hn : n = 0
  · subst hn; by_cases hc : c = kCode 0
    · subst hc; simp [Slot.setK, kCode]
    · simp [Slot.setK, hc]
  · by_cases hc : c = kCode n <;> simp [Slot.setK, Slot.empty, hn, Sp.get_set, hc]

theorem Slot.setK_rest (t : Slot) (n : Nat) (v : K32) : t.setK n v = { t with k := (t.setK n v).k, fe := (t.setK n v).fe } := by
  by_cases hn : n = 0 <;> simp [Slot.setK, hn]

/-! ## Retiring -/

@[simp] theorem Slot.retire_getG (t : Slot) (pc n : Nat) : (t.retire pc).getG n = t.getG n := rfl
@[simp] theorem Slot.retire_getV (t : Slot) (pc n : Nat) : (t.retire pc).getV n = t.getV n := rfl
@[simp] theorem Slot.retire_getK (t : Slot) (pc n : Nat) : (t.retire pc).getK n = t.getK n := rfl
@[simp] theorem Slot.retire_empty (t : Slot) (pc c : Nat) : (t.retire pc).empty c = t.empty c := rfl
@[simp] theorem Slot.retire_pc (t : Slot) (pc : Nat) : (t.retire pc).pc = BitVec.ofNat 15 pc := rfl
@[simp] theorem Slot.retire_retired (t : Slot) (pc : Nat) : (t.retire pc).retired = t.retired + 1 := rfl

/-- Retiring changes the current slot and nothing else. -/
theorem retireTo_eq (s : State) (pc : Nat) : retireTo s pc = s.setSlot s.cur ((s.slot s.cur).retire pc) := rfl

@[simp] theorem retireTo_slot (s : State) (pc : Nat) : (retireTo s pc).slot s.cur = (s.slot s.cur).retire pc := by
  simp [retireTo]

theorem retireTo_slot_other (s : State) (pc j : Nat) (h : j ≠ s.cur) : (retireTo s pc).slot j = s.slot j := by
  simp [retireTo_eq, State.setSlot_slot_other _ _ _ _ h]

/-! ## The operand checks -/

/-- What taking words from ports and starting a route may change: the ports, and the channels a route takes. -/
structure PortsOnly (s t : State) : Prop where
  eq : t = { s with cores := t.cores, routers := t.routers, ticket := t.ticket, agenda := t.agenda }

theorem PortsOnly.rfl (s : State) : PortsOnly s s := ⟨by cases s; simp⟩

theorem PortsOnly.trans {s t u : State} (a : PortsOnly s t) (b : PortsOnly t u) : PortsOnly s u := by
  refine ⟨?_⟩
  rw [b.eq]
  conv_lhs => rw [a.eq]

theorem takeWords_ports (s : State) (core i n : Nat) : PortsOnly s (takeWords s core i n) := by
  unfold takeWords
  split
  · exact PortsOnly.rfl s
  · exact ⟨by cases s; rfl⟩

theorem setPort_ports (s : State) (core i : Nat) (p : Port) : PortsOnly s (s.setPort core i p) := ⟨by cases s; rfl⟩

theorem setRouter_ports (s : State) (r : Nat) (x : Router) : PortsOnly s (s.setRouter r x) := ⟨by cases s; rfl⟩

theorem freeChannels_ports (s : State) (l : List Nat) : PortsOnly s (freeChannels s l) := by
  induction l generalizing s with
  | nil => exact PortsOnly.rfl s
  | cons h l ih => exact (setRouter_ports s _ _).trans (ih _)

theorem dropRoute_ports (s : State) (core i : Nat) : PortsOnly s (dropRoute s core i) := by
  simp only [dropRoute]
  split
  · exact ((freeChannels_ports s _).trans (setPort_ports _ _ _ _)).trans (setPort_ports _ _ _ _)
  · exact (freeChannels_ports s _).trans (setPort_ports _ _ _ _)

/-- A hop changes ports, a core's counters and channels only. -/
theorem hopOnce_ports (s : State) (core i : Nat) : PortsOnly s (hopOnce s core i).1 := by
  dsimp only [hopOnce]
  repeat' split
  all_goals first
    | exact PortsOnly.rfl s
    | exact (dropRoute_ports s core i).trans (setPort_ports _ _ _ _)
    | exact (setRouter_ports s _ _).trans (setPort_ports _ _ _ _)
    | exact (setPort_ports s _ _ _).trans (setPort_ports _ _ _ _)
    | exact ⟨by cases s; rfl⟩

theorem hopAll_ports (s : State) (core i n : Nat) : PortsOnly s (hopAll s core i n) := by
  induction n generalizing s with
  | zero => exact PortsOnly.rfl s
  | succ n ih =>
    simp only [hopAll]
    split
    · exact (hopOnce_ports s core i).trans (ih _)
    · exact hopOnce_ports s core i

theorem startRoute_ports (s : State) (core i : Nat) (once : Bool) : PortsOnly s (startRoute s core i once) := by
  simp only [startRoute]
  split
  · split
    · refine PortsOnly.trans ?_ (hopAll_ports _ _ _ _)
      exact ⟨by cases s; rfl⟩
    · exact ⟨by cases s; rfl⟩
  · exact PortsOnly.rfl s

theorem takeAll_ports (s : State) (core : Nat) (f : Nat → Nat) (l : List Nat) :
    PortsOnly s (l.foldl (fun s i => takeWords s core i (f i)) s) := by
  induction l generalizing s with
  | nil => exact PortsOnly.rfl s
  | cons a l ih => exact (takeWords_ports s core a (f a)).trans (ih _)

theorem portStop_ne_run (u : Uses) (x : Fld) (s : State) (c : Cond) (i : Nat) (v : Vals) (s' : State) : portStop u x s c i ≠ .run v s' := by
  simp only [portStop]
  split <;> exact fun h => nomatch h

/-- Where the operand checks pass, they have changed ports alone, and the values are the ones the form reads. -/
theorem operands_run {u : Uses} {x : Fld} {s s' : State} {v : Vals} (h : operands u x s = .run v s') : PortsOnly s s' := by
  simp only [operands] at h
  split at h
  · cases h
  · split at h
    · cases h
    · split at h
      · cases h
      · cases h
      · split at h
        · cases h
        · split at h
          · exact absurd h (portStop_ne_run _ _ _ _ _ _ _)
          · split at h
            · cases h
            · split at h
              · exact absurd h (portStop_ne_run _ _ _ _ _ _ _)
              · cases h
                generalize u.writes x = wr
                cases wr with
                | none => exact takeAll_ports _ _ _ _
                | some i => exact (startRoute_ports _ _ _ _).trans (takeAll_ports _ _ _ _)

theorem PortsOnly.slots {s t : State} (h : PortsOnly s t) : t.slots = s.slots := by rw [h.eq]
theorem PortsOnly.cur {s t : State} (h : PortsOnly s t) : t.cur = s.cur := by rw [h.eq]
theorem PortsOnly.mem {s t : State} (h : PortsOnly s t) : t.mem = s.mem := by rw [h.eq]
theorem PortsOnly.slot {s t : State} (h : PortsOnly s t) (j : Nat) : t.slot j = s.slot j := by
  unfold State.slot; rw [h.slots]

/-! ## How a group ends -/

/-- A group whose operand checks pass ends as its own part does. -/
theorem issue_run {u : Uses} {x : Fld} {s s' : State} {v : Vals} (b : Vals → State → Eff) (h : operands u x s = .run v s') :
    issue u x s b = finish x s (b v s') := by
  simp [issue, h]

end Sys2Proof.Machine
end

