-- ==== Sys2Proof/Laws/Forms.lean ====
section
/-! SUPPORT. How the shapes of forms complete: one lemma per shape, from the equation of a meaning to the statement of its effect and its
frame. -/

namespace Sys2Proof.Machine
open Sys2Proof

theorem OnlySlot.setSlot (s : State) (t : Slot) : OnlySlot s (s.setSlot s.cur t) :=
  ⟨fun j hj => State.setSlot_slot_other _ _ _ _ hj, by cases s; rfl⟩

/-- A group that ends with a next state of its own part retires in it. -/
theorem issue_next {u : Uses} {x : Fld} {s s' t : State} {v : Vals} {b : Vals → State → Eff} (h : operands u x s = .run v s')
    (hb : b v s' = .next t) : issue u x s b = retired x s t := by
  rw [issue_run b h, hb]; rfl

theorem issue_goto {u : Uses} {x : Fld} {s s' t : State} {v : Vals} {pc : Nat} {b : Vals → State → Eff} (h : operands u x s = .run v s')
    (hb : b v s' = .goto t pc) : issue u x s b = retireTo t pc := by
  rw [issue_run b h, hb]; rfl

theorem issue_trap {u : Uses} {x : Fld} {s s' : State} {v : Vals} {e : Trap} {b : Vals → State → Eff} (h : operands u x s = .run v s')
    (hb : b v s' = .trap e) : issue u x s b = trapEntry s s.cur (s.slot s.cur).pc e := by
  rw [issue_run b h, hb]; rfl

theorem issue_hold {u : Uses} {x : Fld} {s s' t : State} {v : Vals} {b : Vals → State → Eff} (h : operands u x s = .run v s')
    (hb : b v s' = .hold t) : issue u x s b = t := by
  rw [issue_run b h, hb]; rfl

theorem issue_gone {u : Uses} {x : Fld} {s s' t : State} {v : Vals} {b : Vals → State → Eff} (h : operands u x s = .run v s')
    (hb : b v s' = .gone t) : issue u x s b = t := by
  rw [issue_run b h, hb]; rfl

theorem issue_wait {u : Uses} {x : Fld} {s s' : State} {v : Vals} {c : Cond} {l : Option Nat} {w : Bool} {n : W64} {b : Vals → State → Eff}
    (h : operands u x s = .run v s') (hb : b v s' = .wait c l w n) : issue u x s b = waitFor s c l w n := by
  rw [issue_run b h, hb]; rfl

/-- Retiring after a write of the current slot is one write of it. -/
theorem retired_updSlot (x : Fld) (s s' : State) (f : Slot → Slot) :
    retired x s (s'.updSlot s'.cur f) = s'.setSlot s'.cur ((f (s'.slot s'.cur)).retire (nextPc x (s.slot s.cur))) := by
  simp [retired, retireTo, State.updSlot]

theorem putG_low (s : State) (n : Nat) (v : W64) (h : n < 24) : s.putG n v = s.updSlot s.cur (fun t => t.setG n v) := by
  simp [State.putG, h]

theorem putG_port (s : State) (n : Nat) (v : W64) (h : 24 ≤ n) : s.putG n v = sendWord s (slotCore s.cur) (n - 24) v := by
  simp [State.putG, Nat.not_lt.2 h]

theorem GWritten.of_setG (t : Slot) (n : Nat) (w : W64) (pc : Nat) : GWritten n w pc t ((t.setG n w).retire pc) := by
  refine ⟨?_, ?_, ?_, ?_, ?_, rfl, ?_, ?_⟩
  · intro h; simp [Slot.setG_getG, h]
  · simp
  · simp [Slot.setG_empty, gCode]
  · intro m hm; simp [Slot.setG_getG, hm]
  · intro c hc; simp [Slot.setG_empty, show c ≠ n from hc]
  · rw [Slot.retire_retired, Slot.setG_rest]
  · unfold Slot.retire; rw [Slot.setG_rest]

theorem VWritten.of_setV (t : Slot) (n : Nat) (w : V512) (holds : V512 → Prop) (pc : Nat) (h : holds w) :
    VWritten n holds pc t ((t.setV n w).retire pc) := by
  refine ⟨by simpa [Slot.setV_getV] using h, by simp [Slot.setV_empty], ?_, ?_, rfl, rfl, rfl⟩
  · intro m hm; simp [Slot.setV_getV, hm]
  · intro c hc; simp [Slot.setV_empty, hc]

theorem KWritten.of_setK (t : Slot) (n : Nat) (w : K32) (pc : Nat) : KWritten n w pc t ((t.setK n w).retire pc) := by
  refine ⟨?_, ?_, ?_, ?_, ?_, rfl, ?_, ?_⟩
  · intro h; simp [Slot.setK_getK, h]
  · simp
  · simp [Slot.setK_empty]
  · intro m hm; simp [Slot.setK_getK, hm]
  · intro c hc; simp [Slot.setK_empty, hc]
  · rw [Slot.retire_retired, Slot.setK_rest]
  · unfold Slot.retire; rw [Slot.setK_rest]

/-- A form whose own part writes one general register. -/
theorem WritesG.of_eq {u : Uses} {i : Fld → Instr} {f : Fld → Vals → W64}
    (h : ∀ x s, exec (i x) s = .next (issue u x s fun v s => .next (s.putG x.d.toNat (f x v)))) : WritesG u i f := by
  intro x s v s' ho
  have hp := operands_run ho
  have he : exec (i x) s = .next (retired x s (s'.putG x.d.toNat (f x v))) := by rw [h, issue_next ho rfl]
  constructor
  · intro hd
    refine ⟨_, he, ?_, ?_⟩
    · rw [putG_low _ _ _ hd, retired_updSlot]; exact OnlySlot.setSlot _ _
    · rw [putG_low _ _ _ hd, retired_updSlot, hp.cur, State.setSlot_slot_self]
      exact GWritten.of_setG _ _ _ _
  · intro hd
    rw [he, putG_port _ _ _ hd, hp.cur]

/-- A form whose own part writes one vector register. -/
theorem WritesV.of_eq {u : Uses} {i : Fld → Instr} {holds : Fld → Vals → V512 → Prop} (f : Fld → Vals → V512)
    (h : ∀ x s, exec (i x) s = .next (issue u x s fun v s => .next (s.putV x.d.toNat (f x v)))) (hf : ∀ x v, holds x v (f x v)) :
    WritesV u i holds := by
  intro x s v s' ho
  have hp := operands_run ho
  refine ⟨_, by rw [h, issue_next ho rfl], ?_, ?_⟩
  · rw [State.putV, retired_updSlot]; exact OnlySlot.setSlot _ _
  · rw [State.putV, retired_updSlot, hp.cur, State.setSlot_slot_self]
    exact VWritten.of_setV _ _ _ _ _ (hf x v)

/-- A form whose own part writes one mask register. -/
theorem WritesK.of_eq {u : Uses} {i : Fld → Instr} {f : Fld → Vals → Slot → K32}
    (h : ∀ x s, exec (i x) s = .next (issue u x s fun v s => .next (s.putK x.d.toNat (f x v (s.slot s.cur))))) : WritesK u i f := by
  intro x s v s' ho
  have hp := operands_run ho
  refine ⟨_, by rw [h, issue_next ho rfl], ?_, ?_⟩
  · rw [State.putK, retired_updSlot]; exact OnlySlot.setSlot _ _
  · rw [State.putK, retired_updSlot, hp.cur, State.setSlot_slot_self]
    exact KWritten.of_setK _ _ _ _

end Sys2Proof.Machine
end

