-- ==== Sys2Proof/Tests/Slice0.lean ====
section
/-! SUPPORT. Small tests: words written out from the spec's encodings, an ill-formed instruction for each check of WellFormed, single steps whose
results were worked out from the rules by hand, and for every statement with hypotheses a state that meets them. A test's name begins with
test; a state's with meets and the name of its statement, then that of the part or the clause it is for. Each compares Booleans, so that the kernel evaluates it. -/

set_option Elab.async false

namespace Sys2Proof.Tests
open Sys2Proof Sys2Proof.Machine

/-! ## Small machines -/

/-- A unit in a slot: ready, its GEN 1, of the level 5 of partition 0, with a handler at 0x40. -/
def unit : Slot := { st := .ready, gen := 1, level := 5, trapvec := 0x40, pc := 16 }

/-- The machine with partition 0 on cluster 0, whose segment table lets it read and write everything, and a unit in slot 0. -/
def box (t : Slot) : State :=
  { slots := [(0, t)], parts := [(0, { live := true, clusters := [0] })],
    clusters := [(0, { part := some 0, seg := [(0, 0x1FFE00000000)] })] }

/-- The same with these general registers. -/
def regs (l : Sp W64) : State := box { unit with g := l }

/-- The fields of a form of three registers, and with an immediate. -/
def ops (d a b : BitVec 5) (f : Bool := false) : Fld := { d := d, a := a, b := b, f := f }
def imm (d a : BitVec 5) (i : W64) (f : Bool := false) : Fld := { d := d, a := a, f := f, imm := i }

/-- What a step of an instruction answers has a property. -/
def after (i : Instr) (s : State) (p : State → Bool) : Bool :=
  match exec i s with
  | .next t => p t
  | _ => false

/-- The operand checks of a form pass, and a property holds of what they find. -/
def runs (u : Uses) (x : Fld) (s : State) (p : Vals → State → Bool := fun _ _ => true) : Bool :=
  match operands u x s with
  | .run v s' => p v s'
  | _ => false

/-- So there are the values and the state the statements speak of. -/
theorem runs_meets {u : Uses} {x : Fld} {s : State} {p : Vals → State → Bool} (h : runs u x s p = true) :
    ∃ v s', operands u x s = .run v s' ∧ p v s' = true := by
  unfold runs at h
  split at h
  · exact ⟨_, _, ‹_›, h⟩
  · cases h

/-- General register n after an instruction. -/
def g (n : Nat) (i : Instr) (s : State) : Option W64 :=
  match exec i s with
  | .next t => some ((t.slot s.cur).getG n)
  | _ => none

/-- Vector and mask register n after an instruction. -/
def v (n : Nat) (i : Instr) (s : State) : Option V512 :=
  match exec i s with
  | .next t => some ((t.slot s.cur).getV n)
  | _ => none
def k (n : Nat) (i : Instr) (s : State) : Option K32 :=
  match exec i s with
  | .next t => some ((t.slot s.cur).getK n)
  | _ => none

/-- The PC after an instruction. -/
def pc (i : Instr) (s : State) : Option Nat :=
  match exec i s with
  | .next t => some (t.slot s.cur).pc.toNat
  | _ => none

/-- The cause, TRAPADDR and TRAPINFO of the trap an instruction takes, to the handler at 0x40. -/
def trapOf (i : Instr) (s : State) : Option (Nat × W64 × W64) :=
  match exec i s with
  | .next t => let r := t.slot s.cur
               if r.trapcause.getLsbD 8 ∧ r.pc = 0x40 ∧ r.trappc = 16 then some (r.trapcause.toNat % 256, r.trapaddr, r.trapinfo) else none
  | _ => none

/-- The value on its way to a register that a long-latency form has left EMPTY. -/
def fill (code : Nat) (i : Instr) (s : State) : Option V512 :=
  match exec i s with
  | .next t => match t.agenda.getLast? with
    | some o => match o.ins with
      | .fill _ _ _ w => if (t.slot s.cur).empty code then some w else none
      | _ => none
    | none => none
  | _ => none

/-! ## Integer forms -/

/-- g4 = 7, g5 = −3, g6 = 0x7FFFFFFF, g7 = 1, g8 = 0x0123456789ABCDEF, g9 = −2^63. -/
def ints : State := regs [(4, 7), (5, 0xFFFFFFFFFFFFFFFD), (6, 0x7FFFFFFF), (7, 1), (8, 0x0123456789ABCDEF), (9, 0x8000000000000000)]

theorem test_integer : [g 3 (.add (ops 3 4 5)) ints, g 3 (.sub (ops 3 4 5)) ints, g 3 (.and (ops 3 4 5)) ints, g 3 (.or (ops 3 4 5)) ints,
    g 3 (.xor (ops 3 4 5)) ints, g 3 (.shl (ops 3 4 5)) ints, g 3 (.shr (ops 3 5 4)) ints, g 3 (.mul (ops 3 4 5)) ints,
    g 3 (.slt (ops 3 5 4)) ints, g 3 (.min (ops 3 4 5)) ints, g 3 (.max (ops 3 4 5)) ints] =
    [some 4, some 10, some 5, some (-1), some (-6), some 0xE000000000000000, some 0x01FFFFFFFFFFFFFF, some (-21), some 1, some (-3),
     some 7] := by decide +kernel

theorem test_integer_w : [g 3 (.add (ops 3 6 7 true)) ints, g 3 (.sub (ops 3 7 9 true)) ints, g 3 (.shl (ops 3 6 5 true)) ints,
    g 3 (.shr (ops 3 5 4 true)) ints, g 3 (.mul (ops 3 6 4 true)) ints, g 3 (.slt (ops 3 8 4 true)) ints, g 3 (.max (ops 3 5 9 true)) ints,
    g 3 (.min (ops 3 8 7 true)) ints] =
    [some 0xFFFFFFFF80000000, some 1, some 0xFFFFFFFFE0000000, some 0x1FFFFFF, some 0x7FFFFFF9, some 1, some 0,
     some 0xFFFFFFFF89ABCDEF] := by decide +kernel

theorem test_immediate : [g 3 (.addi (imm 3 4 (-9))) ints, g 3 (.andi (imm 3 8 0xFF)) ints, g 3 (.ori (imm 3 4 0x18)) ints,
    g 3 (.xori (imm 3 4 2)) ints, g 3 (.shli (imm 3 4 62)) ints, g 3 (.shri (imm 3 9 63)) ints, g 3 (.srai (imm 3 9 62)) ints,
    g 3 (.slti (imm 3 5 (-2))) ints, g 3 (.movi (imm 3 0 (-4))) ints, g 3 (.movhi (imm 3 0 0x12345)) ints, g 3 (.lea (ops 3 4 5 true)) ints,
    g 3 (.lea (ops 3 4 5)) ints] =
    [some (-2), some 0xEF, some 0x1F, some 5, some 0xC000000000000000, some 1, some (-2), some 1, some (-4), some 0x1234500000000,
     some (-17), some 4] := by decide +kernel

theorem test_wide_and_bits : [g 3 (.mulhu (ops 3 5 4)) ints, g 3 (.mulhs (ops 3 5 4)) ints, g 3 (.clz (ops 3 8 0)) ints,
    g 3 (.clz (ops 3 0 0 true)) ints, g 3 (.ctz (ops 3 9 0)) ints, g 3 (.ctz (ops 3 9 0 true)) ints, g 3 (.popc (ops 3 8 0)) ints,
    g 3 (.popc (ops 3 5 0 true)) ints, g 3 (.rot (ops 3 8 4)) ints, g 3 (.rot (ops 3 8 7 true)) ints, g 3 (.extu (imm 3 8 0x1C4)) ints,
    g 3 (.exts (imm 3 8 0x1C4)) ints, g 8 (.ins (imm 8 4 0xC8)) ints] =
    [some 6, some (-1), some 7, some 32, some 63, some 32, some 32, some 31, some 0x91A2B3C4D5E6F780, some 0x13579BDF, some 0xDE,
     some 0xFFFFFFFFFFFFFFDE, some 0x0123456789ABC7EF] := by decide +kernel

theorem test_division : [fill 3 (.div (ops 3 5 4)) ints, fill 3 (.rem (ops 3 5 4)) ints, fill 3 (.div (ops 3 8 5)) ints,
    fill 3 (.div (ops 3 9 10)) (regs [(9, 0x8000000000000000), (10, 0xFFFFFFFFFFFFFFFF)]),
    fill 3 (.rem (ops 3 9 10)) (regs [(9, 0x8000000000000000), (10, 0xFFFFFFFFFFFFFFFF)]), fill 3 (.div (ops 3 5 4 true)) ints,
    fill 3 (.rem (ops 3 5 4 true)) ints] =
    [some 0, some 0xFFFFFFFFFFFFFFFD, some 0xff9ee8dd7cc6bb5b, some 0x8000000000000000, some 0, some 0x2492492492492491,
     some 6] := by decide +kernel

theorem test_division_by_zero : trapOf (.div (ops 3 4 0)) ints = some (0x0A, 0, 0) ∧ trapOf (.rem (ops 3 4 0)) ints = some (0x0A, 0, 0) := by
  decide +kernel

theorem meets_IntegerForms : runs uDAB (ops 3 4 5) ints (fun v _ => v.a == 7 && v.b == -3) = true := by decide +kernel
theorem meets_ImmediateForms : runs uDA (imm 3 4 1) ints = true ∧ runs uD (imm 3 0 1) ints = true ∧ runs uDAB (ops 3 4 5) ints = true := by
  decide +kernel
theorem meets_WideAndBitForms : runs uDAB (ops 3 4 5) ints = true ∧ runs uDA (imm 3 4 0xFFF) ints = true ∧ runs uDioA (imm 3 4 0) ints = true := by
  decide +kernel
theorem meets_Division : runs uDAB (ops 3 4 5) ints (fun v _ => v.b != 0) = true ∧ runs uDAB (ops 3 4 0) ints (fun v _ => v.b == 0) = true := by
  decide +kernel

/-! ## Control transfer -/

theorem test_branches : [pc (.br (imm 0 0 (-6))) ints, pc (.beq (imm 4 4 (-6))) ints, pc (.bne (imm 4 4 (-6))) ints, pc (.blt (imm 4 5 (-6))) ints,
    pc (.bge (imm 4 5 (-6))) ints, pc (.bltu (imm 4 5 (-6))) ints, pc (.bgeu (imm 4 5 (-6))) ints, pc (.bz (imm 0 0 0x20)) ints,
    pc (.bnz (imm 4 0 0x20)) ints, pc (.bne (imm 4 4 0x4000)) ints] =
    [some 10, some 10, some 17, some 17, some 10, some 10, some 17, some 48, some 48, some 17] := by decide +kernel

theorem test_branch_outside : trapOf (.br (imm 0 0 0x4000)) ints = some (0x15, 0x8020, 0) ∧ trapOf (.br (imm 0 0 (-17))) ints = some (0x15, -2, 0) ∧
    pc (.br (imm 0 0 0x3FEF)) ints = some 0x3FFF ∧ pc (.br (imm 0 0 (-16))) ints = some 0 := by decide +kernel

theorem test_call_jump_loop : g 1 (.call (imm 0 0 100)) ints = some 17 ∧ pc (.call (imm 0 0 100)) ints = some 116 ∧
    g 4 (.jr (ops 4 4 0)) ints = some 17 ∧ pc (.jr (ops 4 4 0)) ints = some 7 ∧ trapOf (.jr (ops 4 6 0)) ints = some (0x15, 0xFFFFFFFE, 0) ∧
    g 4 (.loop (imm 4 0 3)) ints = some 6 ∧ pc (.loop (imm 4 0 3)) ints = some 13 ∧ g 7 (.loop (imm 7 0 3)) ints = some 0 ∧
    pc (.loop (imm 7 0 3)) ints = some 17 := by decide +kernel

theorem meets_BranchForms : runs uNone (imm 0 0 1) ints = true ∧ runs uSA (imm 4 5 1) ints (fun v _ => v.d != v.a) = true ∧
    runs uSA (imm 4 4 1) ints (fun v _ => v.d == v.a) = true ∧ runs uS (imm 0 0 1) ints (fun v _ => v.d == 0) = true := by decide +kernel
theorem meets_CallJumpLoop : runs { extra := [1] } (imm 0 0 1) ints = true ∧ runs uDA (ops 1 4 0) ints (fun v _ => decide (v.a.toNat < 0x4000)) = true ∧
    runs uDA (ops 1 6 0) ints (fun v _ => decide (0x4000 ≤ v.a.toNat)) = true ∧
    runs { d := .g, dSrc := true, dDst := true } (imm 4 0 1) ints (fun v _ => v.d - 1 != 0) = true ∧
    runs { d := .g, dSrc := true, dDst := true } (imm 7 0 1) ints (fun v _ => v.d - 1 == 0) = true := by decide +kernel

/-! ## Floating point -/

/-- g4 = 1.5, g5 = 2.25, g6 = 1, g7 = NaN, g8 = +infinity, g9 = −infinity, g10 = 2, g11 = 3, g12 = −0.5; the high halves are not read. -/
def floats : State := regs [(4, 0x3FC00000), (5, 0xAAAAAAAA40100000), (6, 0x3F800000), (7, 0x7F800001), (8, 0x7F800000), (9, 0xFF800000),
  (10, 0x40000000), (11, 0x40400000), (12, 0xBF000000)]

theorem test_float : [g 3 (.fadd (ops 3 4 5)) floats, g 3 (.fsub (ops 3 4 5)) floats, g 3 (.fmul (ops 3 4 5)) floats, g 6 (.fma (ops 6 4 5)) floats,
    g 3 (.fadd (ops 3 8 9)) floats, g 3 (.fmin (ops 3 4 5)) floats, g 3 (.fmax (ops 3 4 5)) floats, g 3 (.fmin (ops 3 4 7)) floats,
    g 3 (.flt (ops 3 4 5)) floats, g 3 (.flt (ops 3 7 5)) floats, g 3 (.feq (ops 3 4 4)) floats, g 3 (.feq (ops 3 7 7)) floats,
    g 3 (.fadd (ops 3 6 14)) (regs [(6, 0x3F800000), (14, 0x33800000)]), g 3 (.fadd (ops 3 6 14)) (regs [(6, 0x3F800000), (14, 0x33800001)])] =
    [some 0x40700000, some 0xBF400000, some 0x40580000, some 0x408C0000, some 0x7FC00000, some 0x3FC00000, some 0x40100000, some 0x7FC00000,
     some 1, some 0, some 1, some 0, some 0x3F800000, some 0x3F800001] := by decide +kernel

theorem test_float_convert : [g 3 (.fcvtf (ops 3 4 2)) (regs [(4, 0x12345678FFFFFFFE)]), g 3 (.fcvtf (ops 3 4 0 true)) (regs [(4, 0xFFFFFFFFFFFFFFFF)]),
    g 3 (.fcvti (ops 3 12 0)) floats, g 3 (.fcvti (ops 3 12 1)) floats, g 3 (.fcvti (ops 3 7 0)) floats, g 3 (.fcvti (ops 3 9 2)) floats,
    g 3 (.fcvti (ops 3 9 0 true)) floats, g 3 (.fcvti (ops 3 4 0)) floats] =
    [some 0xC0000000, some 0x5F800000, some 0, some 0, some 0, some (-(2 ^ 31)), some 0, some 2] := by decide +kernel

theorem test_long_float : [fill 3 (.fdiv (ops 3 6 11)) floats, fill 3 (.fdiv (ops 3 6 0)) floats, fill 3 (.fsqrt (ops 3 10 0)) floats,
    fill 3 (.fsqrt (ops 3 12 0)) floats] = [some 0x3EAAAAAB, some 0x7F800000, some 0x3FB504F3, some 0x7FC00000] := by decide +kernel

theorem meets_ScalarFloatForms : runs uDAB (ops 3 4 5) floats = true ∧ runs uDioAB (ops 6 4 5) floats = true ∧ runs uDA (ops 3 4 0) floats = true := by
  decide +kernel
theorem meets_LongFloatForms : runs uDAB (ops 3 6 11) floats = true ∧ runs uDA (ops 3 10 0) floats = true ∧ runs uVV (ops 3 1 0) floats = true := by
  decide +kernel

/-! ## Vectors and masks -/

/-- A vector of lanes of w bits, the first lowest. -/
def vec (w : Nat) (l : List Nat) : V512 := BitVec.ofNat 512 (l.foldr (fun c n => c % 2 ^ w + 2 ^ w * n) 0)

/-- The lanes of a result. -/
def lanes (w n : Nat) (r : Option V512) : List Nat := match r with
  | some r => (List.range n).map fun i => lane w i r
  | none => []

/-- The machine with these vector and mask registers, g4 = 0x0001FFFF and g5 = −3. -/
def vecs (l : Sp V512) (m : Sp K32 := []) : State := box { unit with g := [(4, 0x1FFFF), (5, 0xFFFFFFFFFFFFFFFD)], v := l, k := m }

/-- v1 = 5, −1, −2^31, 3, …; v2 = 7, 2, 1, 33, …; in view 1 the halves of these. k1 enables lanes 0 to 3. -/
def lane4 : State := vecs [(1, vec 32 [5, 0xFFFFFFFF, 0x80000000, 3]), (2, vec 32 [7, 2, 1, 33]), (3, vec 32 [9, 9, 9, 9, 9])] [(1, 0xF), (2, 0x5)]

/-- A form with a mask register. -/
def masked (x : Fld) (inv : Bool) (m : BitVec 3) : Fld := { x with xk := some (inv, m) }

theorem test_integer_lanes : [lanes 32 4 (v 3 (.vadd (ops 3 1 2)) lane4), lanes 32 4 (v 3 (.vsub (ops 3 1 2)) lane4),
    lanes 32 4 (v 3 (.vmul (ops 3 1 2)) lane4), lanes 32 4 (v 3 (.vmin (ops 3 1 2)) lane4), lanes 32 4 (v 3 (.vmax (ops 3 1 2)) lane4),
    lanes 32 4 (v 3 (.vand (ops 3 1 2)) lane4), lanes 32 4 (v 3 (.vor (ops 3 1 2)) lane4), lanes 32 4 (v 3 (.vxor (ops 3 1 2)) lane4),
    lanes 32 4 (v 3 (.vshl (ops 3 1 2)) lane4), lanes 32 4 (v 3 (.vshr (ops 3 1 2)) lane4)] =
    [[12, 1, 0x80000001, 36], [0xFFFFFFFE, 0xFFFFFFFD, 0x7FFFFFFF, 0xFFFFFFE2], [35, 0xFFFFFFFE, 0x80000000, 99], [5, 0xFFFFFFFF, 0x80000000, 3],
     [7, 2, 1, 33], [5, 2, 0, 1], [7, 0xFFFFFFFF, 0x80000001, 35], [2, 0xFFFFFFFD, 0x80000001, 34], [640, 0xFFFFFFFC, 0, 6],
     [0, 0x3FFFFFFF, 0x40000000, 1]] := by decide +kernel

theorem test_lanes_masked : [lanes 32 5 (v 3 (.vadd (masked (ops 3 1 2) false 2)) lane4), lanes 32 5 (v 3 (.vadd (masked (ops 3 1 2) true 2)) lane4),
    lanes 16 4 (v 3 (.vadd (ops 3 1 2 true)) lane4)] = [[12, 9, 0x80000001, 9, 9], [9, 1, 9, 36, 0], [12, 0, 1, 0xFFFF]] := by decide +kernel

/-- v1 = 1.5, NaN, 2, −4, v2 = 2.25, 1, 0.5, −0; v4 in BF16 = 1, 2, −0.5. -/
def lanef : State := vecs [(1, vec 32 [0x3FC00000, 0x7F800001, 0x40000000, 0xC0800000]), (2, vec 32 [0x40100000, 0x3F800000, 0x3F000000, 0x80000000]),
  (3, vec 32 [0x3F800000, 0x3F800000, 0x3F800000, 0x3F800000]), (4, vec 16 [0x3F80, 0x4000, 0xBF00]),
  (5, vec 32 [0x4B800000, 0x3F800000, 0x3F800000]), (6, vec 32 [0x4B800000, 0, 0x3F800000, 0x3F800000])] [(1, 0xF), (2, 0x5), (4, 0xFFFFFFF0)]

theorem test_float_lanes : [lanes 32 4 (v 3 (.vfadd (ops 3 1 2)) lanef), lanes 32 4 (v 3 (.vfsub (ops 3 1 2)) lanef),
    lanes 32 4 (v 3 (.vfmul (ops 3 1 2)) lanef), lanes 32 4 (v 3 (.vfmin (ops 3 1 2)) lanef), lanes 32 4 (v 3 (.vfmax (ops 3 1 2)) lanef),
    lanes 32 4 (v 3 (.vfma (ops 3 1 2)) lanef), lanes 16 3 (v 4 (.vfadd (ops 4 4 4 true)) lanef), lanes 32 4 (v 3 (.vscale (ops 3 1 5)) lanef)] =
    [[0x40700000, 0x7FC00000, 0x40200000, 0xC0800000], [0xBF400000, 0x7FC00000, 0x3FC00000, 0xC0800000], [0x40580000, 0x7FC00000, 0x3F800000, 0],
     [0x3FC00000, 0x7FC00000, 0x3F000000, 0xC0800000], [0x40100000, 0x7FC00000, 0x40000000, 0x80000000],
     [0x408C0000, 0x7FC00000, 0x40000000, 0x3F800000], [0x4000, 0x4080, 0xBF80], [0x3E400000, 0x7FC00000, 0x3E800000, 0xBF000000]] := by
  decide +kernel

theorem test_compares : [k 1 (.vfclt (ops 1 1 2)) lanef, k 1 (.vfcle (ops 1 1 1)) lanef, k 1 (.vfceq (masked (ops 1 1 1) false 2)) lanef,
    k 1 (.viclt (ops 1 1 2)) lane4, k 1 (.viceq (ops 1 1 1 true)) lane4, k 0 (.viceq (ops 0 1 2)) lane4] =
    [some 0x9, some 0xFFFD, some 0xF, some 0xF, some 0xFFFFFFFF, some 0xFFFFFFFF] := by decide +kernel

theorem test_lane_moves : [lanes 32 4 (v 3 (.vsel (masked (ops 3 1 2) false 2)) lane4), lanes 32 2 (v 3 (.vbcast (ops 3 4 0)) lane4),
    lanes 16 2 (v 3 (.vbcast (ops 3 4 0 true)) lane4), lanes 32 4 (v 3 (.vins (imm 3 4 2)) lane4), lanes 16 4 (v 3 (.vins (imm 3 4 0x22)) lane4),
    lanes 32 4 (v 3 (.vperm (ops 3 1 2)) (vecs [(1, vec 32 [10, 11, 12, 13]), (2, vec 32 [3, 16, 0, 0xFFFFFFFF])]))] =
    [[5, 2, 0x80000000, 33], [0x1FFFF, 0x1FFFF], [0xFFFF, 0xFFFF], [9, 9, 0x1FFFF, 9], [9, 0, 0xFFFF, 0], [13, 0, 10, 0]] := by decide +kernel

theorem test_reductions : [g 3 (.vext (imm 3 1 2)) lane4, g 3 (.vext (imm 3 1 0x25)) lane4, g 3 (.vrsum (ops 3 5 0)) lanef, g 3 (.vrsum (ops 3 6 0)) lanef,
    g 3 (.vrsum (masked (ops 3 6 0) false 3)) lanef, g 3 (.vamax (ops 3 2 0)) lanef, g 3 (.vamax (ops 3 1 0)) lanef,
    g 3 (.vamax (masked (ops 3 1 0) false 2)) lanef, g 3 (.vamax (masked (ops 3 1 0) false 4)) lanef] =
    [some 0x80000000, some 0x8000, some 0x4B800000, some 0x4B800001, some 0x80000000, some 0x40100000, some 0x7FC00000, some 0x40000000, some 0] := by
  decide +kernel

theorem test_vector_functions : [(fill 35 (.vfexp2 (ops 3 3 0)) lanef), (fill 35 (.vflog2 (ops 3 2 0)) lanef), (fill 35 (.vfrcp (ops 3 1 0)) lanef),
    (fill 35 (.vfrsq (ops 3 1 0)) lanef)].map (lanes 32 4) =
    [[0x40000000, 0x40000000, 0x40000000, 0x40000000], [0x3F95C01A, 0, 0xBF800000, 0xFF800000], [0x3F2AAAAB, 0x7FC00000, 0x3F000000, 0xBE800000],
     [0x3F5105EC, 0x7FC00000, 0x3F3504F3, 0x7FC00000]] := by decide +kernel

theorem test_convert_lanes : [lanes 16 4 (v 3 (.vcvt (imm 3 1 0)) lanef), lanes 32 3 (v 3 (.vcvt (imm 3 4 1)) lanef),
    lanes 8 4 (v 3 (.vcvt (imm 3 2 6)) lanef), lanes 16 5 (v 3 (.vcvt (masked (imm 3 1 0) false 2)) lanef)] =
    [[0x3FC0, 0x7FC0, 0x4000, 0xC080], [0x3F800000, 0x40000000, 0xBF000000], [2, 1, 0, 0], [0x3FC0, 0x3F80, 0x4000, 0x3F80, 0]] := by decide +kernel

theorem test_masks : [k 3 (.kand (ops 3 1 2)) lane4, k 3 (.kor (ops 3 1 2)) lane4, k 3 (.kxor (ops 3 1 2)) lane4, k 3 (.knot (ops 3 2 0)) lane4,
    k 3 (.gtok (ops 3 4 0)) lane4, k 0 (.gtok (ops 0 4 0)) lane4] =
    [some 5, some 0xF, some 0xA, some 0xFFFFFFFA, some 0x1FFFF, some 0xFFFFFFFF] ∧ g 3 (.ktog (ops 3 2 0)) lane4 = some 5 ∧
    g 3 (.ktog (ops 3 0 0)) lane4 = some 0xFFFFFFFF := by decide +kernel

theorem meets_LaneForms : runs uVVV (ops 3 1 2) lane4 = true ∧ runs uVVV (masked (ops 3 1 2 true) true 2) lane4 = true ∧
    runs uVioVV (ops 3 1 2) lanef = true ∧ runs uVVG (ops 3 1 5) lanef = true ∧ runs uKVV (ops 1 1 2) lanef = true := by decide +kernel
theorem meets_LaneMovesAndMasks : runs uVG (ops 3 4 0) lane4 = true ∧ runs uGVx (imm 3 1 0x3F) lane4 = true ∧ runs uVioG (imm 3 4 0x3F) lane4 = true ∧
    runs uGV (ops 3 1 0) lane4 = true ∧ runs uVV (imm 3 1 13) lane4 = true ∧ runs uKKK (ops 3 1 2) lane4 = true ∧ runs uKK (ops 3 1 0) lane4 = true ∧
    runs uGK (ops 3 1 0) lane4 = true ∧ runs uKG (ops 3 4 0) lane4 = true := by decide +kernel

/-! ## Operands -/

/-- g5 is EMPTY, k1 is EMPTY, k2 = 0, k3 = 1. -/
def gaps : State := box { unit with g := [(4, 7)], fe := [(5, true), (65, true)], k := [(3, 1)] }

/-- Whether the slot waits, and for what. -/
def waits (c : Cond) (i : Instr) (s : State) : Bool := after i s fun t => decide ((t.slot s.cur).st = .waiting c)

theorem test_empty : waits (.reg 5) (.add (ops 3 4 5)) gaps = true ∧ trapOf (.add { ops 3 4 5 with tb := true }) gaps = some (2, 0, 5 + 128) ∧
    trapOf (.ins { imm 5 4 0 with td := true }) gaps = some (2, 0, 5 + 256) ∧ waits (.reg 5) (.movi (imm 5 0 1)) gaps = true := by decide +kernel

theorem test_masked_off : waits (.reg 65) (.add (masked (ops 3 4 5) false 1)) gaps = true ∧ pc (.add (masked (ops 3 4 5) false 2)) gaps = some 18 ∧
    waits (.reg 5) (.add (masked (ops 3 4 5) true 2)) gaps = true ∧ g 3 (.addi (masked (imm 3 4 1) false 3)) gaps = some 8 := by decide +kernel

theorem meets_RegisterOperands : NoPort uDAB (masked (ops 3 4 4) false 3) ∧ Enabled uDAB (masked (ops 3 4 4) false 3) (gaps.slot gaps.cur) ∧
    (∀ i ∈ uDAB.items (masked (ops 3 4 4) false 3), (gaps.slot gaps.cur).empty i.reg = false) := by
  refine ⟨by unfold NoPort; decide +kernel, ⟨fun inv k h => ?_, by decide +kernel⟩, by decide +kernel⟩
  cases h; decide +kernel
theorem meets_EmptyAndMasked_EmptyRegister_trap : (uDAB, Instr.add) ∈ forms ∧ NoPort uDAB { ops 3 4 5 with tb := true } ∧
    Enabled uDAB { ops 3 4 5 with tb := true } (gaps.slot gaps.cur) ∧
    ((uDAB.items { ops 3 4 5 with tb := true }).find? fun i => (gaps.slot gaps.cur).empty i.reg) = some { file := .g, n := 5, trap := true, op := 1 } := by
  refine ⟨by simp [forms, forms1, formsOf], by unfold NoPort; decide +kernel, ⟨fun inv k h => ?_, by decide +kernel⟩, by decide +kernel⟩
  cases h
theorem meets_EmptyAndMasked_EmptyRegister_wait : (uDAB, Instr.add) ∈ forms ∧ NoPort uDAB (ops 3 4 5) ∧ Enabled uDAB (ops 3 4 5) (gaps.slot gaps.cur) ∧
    ((uDAB.items (ops 3 4 5)).find? fun i => (gaps.slot gaps.cur).empty i.reg) = some { file := .g, n := 5, trap := false, op := 1 } := by
  refine ⟨by simp [forms, forms1, formsOf], by unfold NoPort; decide +kernel, ⟨fun inv k h => ?_, by decide +kernel⟩, by decide +kernel⟩
  cases h
theorem meets_EmptyAndMasked_MaskedOff : (uDAB, Instr.add) ∈ forms ∧ (masked (ops 3 4 5) false 1).xk = some (false, 1) ∧ (gaps.slot gaps.cur).empty (64 + 1) = true ∧
    (masked (ops 3 4 5) false 2).xk = some (false, 2) ∧ (gaps.slot gaps.cur).empty (64 + 2) = false ∧ uDAB.lanes = false ∧
    ((gaps.slot gaps.cur).getK 2).getLsbD 0 = false := by
  refine ⟨by simp [forms, forms1, formsOf], by decide +kernel, by decide +kernel, by decide +kernel, by decide +kernel, by decide +kernel, by decide +kernel⟩

/-! ## Ports -/

/-- A machine with these ports on core 0, and this WAITPOL. -/
def ports (l : Sp Port) (w : W64 := 0) : State := { box { unit with g := [(4, 7)], waitpol := w } with cores := [(0, { ports := l })] }

/-- n0 has received two words, n1 none, n2 a marker; n3 writes, n4 is CLOSED. -/
def some5 (w : W64 := 0) : State := ports [(0, { st := .recv, buf := [some 11, some 12] }), (1, { st := .recv }), (2, { st := .recv, buf := [none] }),
  (3, { st := .opened, owner := 0, gen := 1, tgtCore := 1, tgtPort := 0, route := 9 }), (4, {})] w

theorem test_ports : g 3 (.add (ops 3 24 24)) (some5) = some 23 ∧ after (.addi (imm 3 24 0)) some5 (fun t => (t.port 0 0).taken == 1) = true ∧
    trapOf (.addi { imm 3 25 0 with ta := true }) some5 = some (2, 0, 25) ∧ waits (.portIn 1) (.addi (imm 3 25 0)) some5 = true ∧
    g 3 (.addi (imm 3 25 0)) (some5 2) = some (-1) ∧ trapOf (.addi (imm 3 26 0)) some5 = some (0x11, 0, 2 + 4 * 16 + 2 * 256) ∧
    after (.addi (imm 3 26 0)) some5 (fun t => (t.port 0 2).st == .listen) = true ∧
    trapOf (.addi (imm 3 28 0)) some5 = some (0x11, 0, 4 + 256) ∧ trapOf (.addi (imm 28 4 0)) some5 = some (0x11, 0, 4 + 256) ∧
    after (.addi (imm 27 4 1)) some5 (fun t => decide (t.agenda.getLast? = some { who := 9, ins := .streamWordArrival 1 0 0 3 8 })) = true := by
  decide +kernel

/-- The same with a port whose route was refused with status 1 or 3, a full one, a BOUND one that has not begun, and one whose receiver is full. -/
def outs (w : W64 := 0) : State := ports [(0, { st := .bound, refused := 1, acq := 1 }), (1, { st := .opened, refused := 3, acq := 1 }),
  (2, { st := .opened, tgtCore := 1, flying := 16 }), (3, { st := .bound, tgtCore := 1 }), (4, { st := .bound, tgtCore := 0, tgtPort := 5 }),
  (5, { st := .recv, buf := List.replicate 16 (some 1) })] w
theorem enabled (d a : BitVec 5) (s : State) : Enabled uDA (imm d a 0) (s.slot s.cur) := ⟨(fun inv k h => by cases h), fun _ => by simp [maskOf, imm]⟩
theorem at_ports {x : Fld} {s : State} (h : (uDA.items x).all (fun i =>
    if i.isPort then !i.trap || !(s.port (slotCore s.cur) (i.n - 24)).buf.isEmpty else !(s.slot s.cur).empty i.reg) = true) : AtPorts uDA x s := by
  rw [List.all_eq_true] at h
  constructor
  · intro i hi hp; have := h i hi; simpa [hp] using this
  · intro i hi hp ht; have := h i hi; simpa [hp, ht] using this
theorem meets_PortOperands_PortSource : (uDA, Instr.addi) ∈ forms ∧ Enabled uDA (imm 3 25 0) (some5.slot some5.cur) ∧
    AtPorts uDA (imm 3 24 0) some5 ∧ AtPorts uDA (imm 3 25 0) some5 ∧ AtPorts uDA (imm 3 26 0) some5 ∧ AtPorts uDA (imm 3 28 0) some5 ∧
    [24, 25, 26, 27].all (fun d => (uDA.items (imm d 4 0)).all fun i => i.isPort || !(outs.slot 0).empty i.reg) = true := by
  refine ⟨by simp [forms, forms1, formsOf], enabled _ _ _, ?_, ?_, ?_, ?_, by decide +kernel⟩ <;> exact at_ports (by decide +kernel)
theorem meets_PortOperands_PortSource_source : ((uDA.items { imm 3 25 0 with ta := true }).find? fun i =>
      if i.isPort then i.trap && (some5.port 0 (i.n - 24)).buf.isEmpty else (some5.slot 0).empty i.reg).map FeItem.isPort = some true ∧
    (uDA.reads (imm 3 28 0)).find? (fun i => !(some5.port 0 i).readable) = some 4 ∧
    (uDA.reads (imm 3 26 0)).find? (fun i => ((some5.port 0 i).buf.take (countOf i (uDA.reads (imm 3 26 0)))).contains none) = some 2 ∧ (some5.port 0 2).readable = true ∧
    (uDA.reads (imm 3 25 0)).find? (fun i => decide ((some5.port 0 i).buf.length < countOf i (uDA.reads (imm 3 25 0)))) = some 1 ∧ (some5.port 0 1).readable = true ∧
    uDA.reads (imm 3 24 0) = [0] ∧ (some5.port 0 0).buf = [some 11, some 12] ∧ uDA.writes (imm 3 24 0) = none ∧ (some5.slot 0).waitMode = 0 ∧
    ((some5 0x500000001).slot 0).waitMode = 1 ∧ ((some5 0x500000001).slot 0).waitLimit = 5 ∧ ((some5 1).slot 0).waitLimit = 0 ∧ ((some5 2).slot 0).waitMode = 2 := by
  decide +kernel
theorem meets_PortOperands_PortSource_dest : uDA.writes (imm 28 4 0) = some 4 ∧ uDA.reads (imm 28 4 0) = [] ∧ (some5.port 0 4).writable = false ∧
    (outs.port 0 0).writable = true ∧ (outs.port 0 0).refused = 1 ∧ (outs.port 0 1).writable = true ∧ (outs.port 0 1).refused = 3 ∧
    (outs.port 0 2).st = .opened ∧ (outs.port 0 2).refused = 0 ∧ outs.portRoom (outs.port 0 2) = false ∧
    (outs.port 0 3).st = .bound ∧ (outs.port 0 3).acq = 0 ∧ (outs.port 0 3).refused = 0 ∧ (outs.slot 0).waitMode ≠ 2 ∧ ((outs 2).slot 0).waitMode = 2 ∧
    (let s := startRoute (outs 2) 0 4 true; (s.port 0 4).writable && (s.port 0 4).refused == 0 && !s.portRoom (s.port 0 4)) = true := by
  decide +kernel
theorem meets_PortOperands_PortWord : (some5.port 0 3).st = .opened ∧ (some5.port 0 3).st ≠ .bound ∧
    ((ports [(0, { st := .bound })]).port 0 0).st = .bound ∧ ((ports [(0, { st := .bound })]).port 0 0).phase = false ∧
    ((ports [(0, { st := .bound, phase := true })]).port 0 0).phase = true := by decide +kernel

/-! ## Traps and system registers -/

/-- A unit with no handler, and one that has trapped. -/
def bare : State := box { unit with trapvec := 0 }
def inTrap (c : W64) : State := box { unit with trapcause := 256 + c, trappc := 100, outst := [] }
def entry : Outst :=
  { tag := 4, pc := 0, access := true, vector := false, dests := [], lines := [], write := true, acc := none, held := false, reply := none,
    len := 0, soft := false }
def busy : State := box { unit with trapcause := 256, outst := [entry] }

theorem test_trap : trapOf (.trap (imm 0 0 77)) ints = some (0x0F, 0, 77) ∧ trapOf (.brk (imm 0 0 0)) ints = some (0x14, 0, 0) ∧
    trapOf (.illegalGroup false 0xF7FF 3 0) ints = some (1, 0, 0x3F7FF) ∧ trapOf (.illegalGroup true 0 0 0x8000) ints = some (0x15, 0x8000, 0) ∧
    after (.trap (imm 0 0 77)) bare (fun t => (t.slot 0).st == .idle && (t.slot 0).trapcause == 0x10F) = true ∧
    after (.trap (imm 0 0 77)) (inTrap 1) (fun t => (t.slot 0).st == .idle && (t.slot 0).trapinfo == 77) = true := by decide +kernel

theorem test_rft : pc (.rft (imm 0 0 0)) (inTrap 3) = some 100 ∧ pc (.rft (imm 0 0 0)) (inTrap 0x0F) = some 101 ∧
    after (.rft (imm 0 0 0)) (inTrap 3) (fun t => (t.slot 0).trapcause == 3) = true ∧ waits .settled (.rft (imm 0 0 0)) busy = true := by decide +kernel

/-- The same with BRKEN set. -/
def brken : State := { ints with clusters := [(0, { part := some 0, dbgctl := 4 })] }

theorem test_break : after (.brk (imm 0 0 0)) brken (fun t => (t.slot 0).atBrk && (t.slot 0).pc == 16 && (t.cluster 0).dbgctl == 0x20007) = true := by
  decide +kernel

theorem test_sysr : g 3 (.sysr (imm 3 0 0x001)) ints = some 1 ∧ g 3 (.sysr (imm 3 0 0x002)) ints = some 5 ∧ g 3 (.sysr (imm 3 0 0x004)) ints = some 0x80000 ∧
    g 3 (.sysr (imm 3 0 0x014)) ints = some 0x40 ∧ fill 3 (.sysr (imm 3 0 0x041)) ints = some 0 := by decide +kernel

theorem test_sysw : after (.sysw (imm 0 4 0x020)) (regs [(4, 0x500000001)]) (fun t => (t.slot 0).waitpol == 0x500000001) = true ∧
    after (.sysw (imm 0 4 0x018)) (box { unit with g := [(4, 1)], oobflag := 1 }) (fun t => (t.slot 0).oobflag == 0) = true ∧
    trapOf (.sysw (imm 0 4 0x001)) ints = some (6, 0, 0) ∧ after (.sysw (imm 0 4 0x1028)) ints (fun t => (t.core 0).cpymask1 == 7) = true := by
  decide +kernel

theorem meets_TrapEntry : (ints.slot 0).trapvec ≠ 0 ∧ (ints.slot 0).trapcause.getLsbD 8 = false ∧ (bare.slot 0).trapvec = 0 ∧
    ((inTrap 1).slot 0).trapcause.getLsbD 8 = true := by decide +kernel
theorem meets_SoftwareTraps : runs uNone (imm 0 0 1) ints (fun _ s => !(s.cluster (slotCluster s.cur)).dbgctl.getLsbD 2) = true ∧
    runs uNone (imm 0 0 0) brken = true ∧ (brken.cluster (slotCluster brken.cur)).dbgctl.getLsbD 2 = true ∧
    (brken.cluster (slotCluster brken.cur)).dbgctl.getLsbD 0 = false := by decide +kernel
theorem meets_ReturnFromTrap : runs uNone (imm 0 0 0) (inTrap 3) = true ∧ ((inTrap 3).slot 0).outst = [] ∧ runs uNone (imm 0 0 0) busy = true ∧
    (busy.slot 0).outst ≠ [] := by decide +kernel
theorem meets_SystemRead : runs uD (imm 3 0 0x001) ints = true ∧ sysregLong 0x001 = false ∧ runs uD (imm 3 0 0x041) ints = true ∧
    sysregLong 0x041 = true := by decide +kernel
theorem meets_SystemWrite : runs uA (imm 0 4 0x020) ints (fun v _ => sysReserved 0x020 0 v.a) = true ∧
    runs uA (imm 0 4 0x020) (regs [(4, 0x500000001)]) (fun v _ => !sysReserved 0x020 0 v.a) = true ∧ runs uA (imm 0 4 0x001) ints = true ∧
    runs uA (imm 0 7 0x018) ints (fun v _ => v.a.getLsbD 0) = true ∧ runs uA (imm 0 9 0x018) ints (fun v _ => !v.a.getLsbD 0) = true := by
  decide +kernel
theorem meets_TrapInstruction : runs uNone (imm 0 0 1) ints = true ∧ ([5, 6] : List Nat).length ≤ 3 ∧ (∀ p ∈ ([5, 6] : List Nat), p < 1024) ∧
    (match decodeWords [0xF806, 0b0110000000000111] with
      | .ok (.trap x) => x.imm == 7
      | _ => false) = true := by decide +kernel

/-! ## Memory accesses -/

/-- Core 0's scratchpad holds 0x8877665544332211 at 0x40 and 1 at 0x48; g4 = 0x40, g5 = 0xAABBCCDD11223344, g6 = 0x80000; v1 and v2 hold small numbers. -/
def cells : List Host.Cell := [(64, 0x11), (65, 0x22), (66, 0x33), (67, 0x44), (68, 0x55), (69, 0x66), (70, 0x77), (71, 0x88), (72, 1)]
def memUnit : Slot :=
  { unit with g := [(4, 0x40), (5, 0xAABBCCDD11223344), (6, 0x80000), (7, 0x41), (8, 0x100000000000048)],
              v := [(1, vec 32 [1, 2, 3]), (2, vec 32 [0, 8])], k := [(1, 2), (3, 0x10000)] }
def memory : State := { box memUnit with mem := cells }

/-- An M-format form with a mode. -/
def mem (m : BitVec 2) (d a : BitVec 5) (i : W64) : Fld := { imm d a i with mode := m }

theorem test_loads : [g 3 (.ldBu (mem 0 3 4 7)) memory, g 3 (.ldHu (mem 0 3 4 3)) memory, g 3 (.ldWu (mem 0 3 4 1)) memory, g 3 (.ldD (mem 0 3 4 0)) memory,
    g 3 (.ldBs (mem 0 3 4 7)) memory, g 3 (.ldHs (mem 0 3 4 3)) memory, g 3 (.ldWs (mem 0 3 4 1)) memory] =
    [some 0x88, some 0x8877, some 0x88776655, some 0x8877665544332211, some (-120), some 0xFFFFFFFFFFFF8877, some 0xFFFFFFFF88776655] := by decide +kernel

/-- Eight bytes of core 0's scratchpad after an instruction. -/
def stored (off : Nat) (i : Instr) (s : State) : Option Nat :=
  match exec i s with
  | .next t => some (t.read off 8)
  | _ => none

theorem test_stores : [stored 64 (.stB (mem 0 5 4 1)) memory, stored 64 (.stH (mem 0 5 4 1)) memory, stored 64 (.stW (mem 0 5 4 1)) memory,
    stored 64 (.stD (mem 0 5 4 0)) memory, stored 0x7FFF8 (.stD (mem 0 5 6 (-1))) memory] =
    [some 0x8877665544334411, some 0x8877665533442211, some 0x1122334444332211, some 0xAABBCCDD11223344, some 0xAABBCCDD11223344] := by decide +kernel

theorem test_vector_memory : lanes 32 3 (v 1 (.vld (mem 0 1 4 0)) memory) = [0x44332211, 0x88776655, 1] ∧
    lanes 32 3 (v 1 (.vld (masked (mem 0 1 4 0) false 1)) memory) = [1, 0x88776655, 3] ∧
    stored 64 (.vst (masked (mem 0 1 4 0) false 1)) memory = some 0x244332211 ∧ stored 64 (.vst (mem 0 1 4 0)) memory = some 0x200000001 := by
  decide +kernel

theorem test_access_traps : trapOf (.ldD (mem 0 3 7 0)) memory = some (3, 0x41, 0) ∧ trapOf (.stD (mem 0 3 6 0)) memory = some (0x16, 0x80000, 0) := by decide +kernel

/-- The same behind a protection region that lets the partition read, not write; and with the granule's guard bit set. -/
def readOnly : State := { memory with cores := [(0, { prot := [(0, 0), (1, 0x80000), (2, 0x21)] })] }
def guardedMem : State := { memory with cores := [(0, { guards := [(1, true)] })] }

theorem test_protection : g 3 (.ldD (mem 0 3 4 0)) readOnly = some 0x8877665544332211 ∧ trapOf (.stD (mem 0 5 4 0)) readOnly = some (4, 0x40, 0) ∧
    g 3 (.ldD (mem 0 3 4 0)) guardedMem = some 0 ∧ stored 64 (.stD (mem 0 5 4 0)) guardedMem = some 0x8877665544332211 ∧
    after (.stD (mem 0 5 4 0)) guardedMem (fun t => (t.slot 0).guardPend) = true ∧ lanes 32 2 (v 1 (.vld (masked (mem 0 1 4 0) false 1)) guardedMem) = [1, 0] := by decide +kernel

theorem meets_LocalAccesses_LocalOk : LocalOk memory 0x40 8 true true := by constructor <;> decide +kernel
theorem meets_LocalAccesses_LocalOk_line : LocalOk memory 0x40 64 true true := by constructor <;> decide +kernel
theorem meets_LocalAccesses : runs uDA (mem 0 3 4 0) memory (fun v _ => v.a == 0x40) = true ∧ runs uSA (mem 0 5 4 0) memory (fun v _ => v.a == 0x40) = true ∧
    runs { d := .v, dDst := true, a := .g, lanes := true } (mem 0 1 4 0) memory (fun v _ => v.lanes.toNat % 65536 != 0 && v.a == 0x40) = true ∧
    runs { d := .v, dSrc := true, a := .g, lanes := true } (mem 0 1 4 0) memory (fun v _ => v.lanes.toNat % 65536 != 0 && v.a == 0x40) = true ∧
    runs { d := .v, dDst := true, a := .g, lanes := true } (masked (mem 0 1 4 0) false 3) memory (fun v _ => v.lanes.toNat % 65536 == 0) = true ∧
    runs { d := .v, dSrc := true, a := .g, lanes := true } (masked (mem 0 1 4 0) false 3) memory (fun v _ => v.lanes.toNat % 65536 == 0) = true := by
  decide +kernel
theorem meets_AccessChecks_AccessTraps : runs uDA (mem 0 3 7 0) memory (fun v _ => v.a.toNat % 8 != 0) = true ∧
    runs uSA (mem 0 3 6 0) memory (fun v _ => decide (0x80000 ≤ v.a.toNat)) = true ∧
    runs uSA (mem 0 5 4 0) readOnly (fun _ s => !s.protAllows 0 0x40 8 (localAccessor s) true) = true ∧ (readOnly.slot 0).outst = [] := by decide +kernel
theorem meets_AccessChecks_GuardedAccess : runs uDA (mem 0 3 4 0) guardedMem (fun v s => v.a == 0x40 && s.guarded 0 0x40 && s.protAllows 0 0x40 8 (localAccessor s) false)
    = true ∧ runs uSA (mem 0 5 4 0) guardedMem (fun _ s => s.protAllows 0 0x40 8 (localAccessor s) true) = true ∧ (guardedMem.slot 0).outst = [] ∧
    (guardedMem.slot 0).st ≠ .idle ∧ (guardedMem.slot 0).outst = [] ∧
    runs { d := .v, dDst := true, a := .g, lanes := true } (mem 0 1 4 0) guardedMem (fun v s => v.a == 0x40 && s.guarded 0 0x40 && s.protAllows 0 0x40 64 (localAccessor s) false &&
      v.lanes.toNat % 65536 != 0) = true ∧
    runs { d := .v, dSrc := true, a := .g, lanes := true } (mem 0 1 4 0) guardedMem (fun v s => s.protAllows 0 0x40 64 (localAccessor s) true && v.lanes.toNat % 65536 != 0) = true
      := by decide +kernel

/-! ## Accesses that leave the core -/

/-- The last entry of the slot and the last operation in flight after an instruction. -/
def sent (i : Instr) (s : State) : Option (AccOp × W64 × List Nat × Nat) :=
  match exec i s with
  | .next t => match t.agenda.getLast? with
    | some o => match o.ins with
      | .scratchpadAccess a n => some (a.op, a.ea, (((t.slot s.cur).outst.getLast?).map Outst.dests).getD [], n)
      | _ => none
    | none => none
  | _ => none

theorem test_remote : [sent (.ldD (mem 1 3 4 0)) memory, sent (.stW (mem 1 5 4 1)) memory, sent (.aadd (ops 3 4 5)) memory, sent (.cas (ops 3 4 5)) memory,
    sent (.vld (mem 1 2 4 0)) memory, sent (.vldf (mem 1 2 4 0)) memory, sent (.vgath (masked (ops 3 4 2) false 1)) memory,
    sent (.vscat (masked (ops 3 4 2) false 1)) memory] =
    [some (.ld 8 false, 0x40, [3], 0), some (.st 4, 0x44, [], 0), some (.atom .add, 0x40, [3], 0), some (.cas, 0x40, [3], 0), some (.vld, 0x40, [34], 0),
     some (.vldf false, 0x40, [34], 0), some (.gath, 0x40, [35], 0), some (.scat, 0x40, [], 0)] := by decide +kernel
theorem test_remote_empty : after (.ldD (mem 1 3 4 0)) memory (fun t => (t.slot 0).empty 3 && (t.slot 0).pc == 17) = true := by decide +kernel

/-- The checks of an access that leaves the core. -/
def remoteOk (a : Access) (al : Nat) (ist : Bool) (s : State) : Bool :=
  a.ea.toNat % al == 0 && pieceOk s a ist { ea := a.ea, len := 1, pos := 0 } && (accPieces a).all (pieceOk s a ist) && !(accPieces a).isEmpty &&
  s.entryFree s.cur (opVector a.op)

theorem meets_RemoteAccesses : runs uDA (mem 1 3 4 0) memory (fun v s => remoteOk
      (accessOf (.ld 8 false) (fun x => x.mode) (fun x v => v.a + x.imm * 8) (fun x => x.d.toNat) (fun _ => 0x28) id (mem 1 3 4 0) v s) 8 false s) = true ∧
    runs uSA (mem 3 5 4 0) memory (fun v s => remoteOk
      (accessOf (.st 8) (fun x => x.mode) (fun x v => v.a + x.imm * 8) (fun _ => 0) (fun _ => 0x2F) (fun v => { v with b := v.d }) (mem 3 5 4 0) v s) 8 true s)
      = true ∧
    runs uDAB (ops 3 4 5) memory (fun v s => remoteOk
      (accessOf (.atom .add) (fun x => if x.f then 3 else 1) (fun _ v => v.a) (fun x => x.d.toNat) (fun _ => 0xC0) id (ops 3 4 5) v s) 8 false s) = true ∧
    runs uDioAB (ops 3 4 5 true) memory (fun v s => remoteOk
      (accessOf .cas (fun x => if x.f then 3 else 1) (fun _ v => v.a) (fun x => x.d.toNat) (fun _ => 0xC9) id (ops 3 4 5 true) v s) 8 false s) = true := by
  decide +kernel
theorem meets_RemoteAccesses_RemoteVectors : runs { d := .v, dDst := true, a := .g, lanes := true } (mem 3 2 4 0) memory (fun v s => remoteOk
      (accessOf .vld (fun x => x.mode) (fun x v => v.a + x.imm * 64) (fun x => 32 + x.d.toNat) (fun _ => 0x30) id (mem 3 2 4 0) v s) 64 false s) = true ∧
    runs { d := .v, dSrc := true, a := .g, lanes := true } (mem 2 2 4 (-1)) memory (fun v s => remoteOk
      (accessOf .vst (fun x => x.mode) (fun x v => v.a + x.imm * 64) (fun _ => 0) (fun _ => 0x31) id (mem 2 2 4 (-1)) v s) 64 false s) = true ∧
    runs { d := .v, dDst := true, a := .g, lanes := true } (mem 1 2 4 0) memory (fun v s => remoteOk
      (accessOf (.vldf false) (fun x => x.mode) (fun x v => v.a + x.imm * 16) (fun x => 32 + x.d.toNat) (fun _ => 0xA5) id (mem 1 2 4 0) v s) 1 false s)
      = true := by decide +kernel
theorem meets_RemoteAccesses_RemoteVectors_lanes : runs { d := .v, dDst := true, a := .g, b := .v, lanes := true } (ops 3 4 2) memory (fun v s =>
      let a := accessOf .gath (fun _ => 3) (fun _ v => v.a) (fun x => 32 + x.d.toNat) (fun _ => 0xA3) id (ops 3 4 2) v s
      (accPieces a).all (fun p => p.ea.toNat % 4 == 0 && pieceOk s a false p) && !(accPieces a).isEmpty && s.entryFree s.cur true) = true ∧
    runs { d := .v, dSrc := true, a := .g, b := .v, lanes := true } (ops 3 4 2) memory (fun v s =>
      let a := accessOf .scat (fun _ => 3) (fun _ v => v.a) (fun _ => 0) (fun _ => 0xA4) id (ops 3 4 2) v s
      (accPieces a).all (fun p => p.ea.toNat % 4 == 0 && pieceOk s a false p) && !(accPieces a).isEmpty && s.entryFree s.cur true) = true := by
  decide +kernel

/-! ## Accesses at their homes -/

/-- An access of the unit of slot 0. -/
def access (op : AccOp) (mode : BitVec 2) (ea : W64) : Access :=
  { op := op, slot := 0, gen := 1, tag := 4, pc := 16, part := 0, level := 5, mode := mode, ea := ea, dest := 3, d0 := 7, d1 := 1, vec := 0, offs := 0,
    lanes := 0xFFFFFFFF, masked := false, fall := false, nb := false, opc := 0, region := none }

/-- The last operation in flight after an instruction, and after it eight bytes at a location. -/
def sentOp (i : Instr) (s : State) : Option Instr :=
  match exec i s with
  | .next t => (t.agenda.getLast?).map Op.ins
  | _ => none
def bytesAt (loc : Nat) (i : Instr) (s : State) : Option Nat :=
  match exec i s with
  | .next t => some (t.read loc 8)
  | _ => none

theorem test_home_core : [sentOp (.scratchpadAccess (access (.ld 8 false) 1 0x40) 0) memory, sentOp (.scratchpadAccess (access (.st 8) 1 0x40) 0) memory,
    sentOp (.scratchpadAccess (access (.atom .add) 1 0x48) 0) memory, sentOp (.scratchpadAccess (access .cas 1 0x48) 0) memory,
    sentOp (.scratchpadAccess (access .acq 1 0x48) 0) memory, sentOp (.scratchpadAccess (access .acq 1 0x50) 0) memory,
    sentOp (.scratchpadAccess (access (.st 8) 1 0x40) 0) readOnly, sentOp (.scratchpadAccess (access (.st 8) 3 0x4000040) 0) memory] =
    [some (.fill 0 1 4 0x8877665544332211), some (.accessAcknowledge 0 1 4), some (.fill 0 1 4 1), some (.fill 0 1 4 1), some (.fill 0 1 4 1), none,
     some (.refusalArrival 0 1 4 4 0x40), some (.accessAcknowledge 0 1 4)] := by decide +kernel

theorem test_home_core_memory : [bytesAt 64 (.scratchpadAccess (access (.st 4) 1 0x40) 0) memory, bytesAt 72 (.scratchpadAccess (access (.atom .add) 1 0x48) 0) memory,
    bytesAt 72 (.scratchpadAccess (access .cas 1 0x48) 0) memory, bytesAt 64 (.scratchpadAccess (access .cas 1 0x40) 0) memory,
    bytesAt 72 (.scratchpadAccess (access .rel 1 0x48) 0) memory, bytesAt (istoreLoc 0 0x40) (.scratchpadAccess (access (.st 8) 3 0x4000040) 0) memory] =
    [some 0x8877665500000007, some 8, some 7, some 0x8877665544332211, some 7, some 7] := by decide +kernel

theorem test_atomics : [atomApply .add (-1) 3, atomApply .smin (-1) 3, atomApply .smax (-1) 3, atomApply .umin (-1) 3, atomApply .umax (-1) 3,
    atomApply .and 6 3, atomApply .or 6 3, atomApply .xor 6 3, atomApply .swp 6 3] = [2, -1, 3, 3, -1, 2, 7, 5, 3] := by decide +kernel

theorem meets_HomeCore_AtCore : AtCore memory (access .cas 1 0x48) 8 0 0x48 := by constructor <;> decide +kernel
theorem meets_HomeCore_AtCore_load : AtCore memory (access (.ld 8 false) 1 0x40) 8 0 0x40 := by constructor <;> decide +kernel
theorem meets_HomeCore_AtCore_acquire : AtCore memory (access .acq 1 0x50) 8 0 0x50 ∧ memory.read (scratchLoc 0 0x50) 8 = 0 := by
  refine ⟨?_, by decide +kernel⟩; constructor <;> decide +kernel
theorem meets_HomeCore_AtCore_release : AtCore memory (access .rel 1 0x48) 8 0 0x48 := by constructor <;> decide +kernel
theorem meets_HomeCore_AtCore_store : AtCore memory (access (.st 4) 1 0x40) 4 0 0x40 := by constructor <;> decide +kernel
theorem meets_HomeCore_AtStore : AtStore memory (access (.st 8) 3 0x4000040) 8 0 0x40 := by constructor <;> decide +kernel
theorem meets_HomeCore_HomeRefuses : accPieces (access (.st 8) 1 0x40) = [{ ea := 0x40, len := 8, pos := 0 }] ∧
    heldFault readOnly (access (.st 8) 1 0x40) 0 { ea := 0x40, len := 8, pos := 0 } = none ∧
    readOnly.target 0 0 1 0x40 = some (.scratch 0 0x40) ∧ readOnly.segment 0 (readOnly.partAt 0 0) 0 false false true = .ok ∧
    readOnly.protAllows 0 0x40 8 { accAccessor (access (.st 8) 1 0x40) 0 with part := readOnly.partAt 0 0 } true = false ∧
    ({ readOnly with clusters := [(0, { part := some 0 })] } : State).segment 0 0 0 false false true = .refuse 4 := by decide +kernel

/-- A page table: VA 0 of partition 0 is frame 5 of slice 0, which holds 0x2A; VA 0x10000 is not valid. Slot 0 may read and write it. -/
def table (f n : Nat) : List Host.Cell := [(2 ^ 45 + f * 65536, 1), (2 ^ 45 + f * 65536 + 2, BitVec.ofNat 8 n)]
def pagedMem (leaf : Byte) : State :=
  { box memUnit with mem := table 1 2 ++ table 2 3 ++ table 3 4 ++ [(2 ^ 45 + 4 * 65536, leaf), (2 ^ 45 + 4 * 65536 + 2, 5), (2 ^ 45 + 5 * 65536, 0x2A)],
                     parts := [(0, { live := true, clusters := [0], root := 0x10001 })] }
def paged : State := pagedMem 7

theorem test_home_slice : [sentOp (.sliceAccess (access (.ld 8 false) 3 0x100000000000000) 0) paged, sentOp (.sliceAccess (access (.st 8) 3 0x100000000000000) 0) paged,
    sentOp (.sliceAccess (access (.st 8) 3 0x100000000000000) 0) (pagedMem 3), sentOp (.sliceAccess (access (.ld 8 false) 3 0x100000000010000) 0) paged] =
    [some (.fill 0 1 4 0x2A), some (.accessAcknowledge 0 1 4), some (.refusalArrival 0 1 4 6 0x100000000000000),
     some (.faultReply 0 1 4 (2 ^ 40 + 1))] := by decide +kernel
theorem test_home_slice_memory : bytesAt (2 ^ 45 + 5 * 65536) (.sliceAccess (access (.st 8) 3 0x100000000000000) 0) paged = some 7 ∧
    bytesAt (2 ^ 45 + 4 * 65536) (.sliceAccess (access (.st 8) 3 0x100000000000000) 0) paged = some 0x51807 ∧
    bytesAt (2 ^ 45 + 4 * 65536) (.sliceAccess (access (.ld 8 false) 3 0x100000000000000) 0) paged = some 0x50807 := by decide +kernel

/-- The state in which the walk of R64 is done in AtHomeSlice. -/
def arrived (s : State) (a : Access) : State :=
  (s.tick.deliverTag (homeNi s a { ea := a.ea, len := 8, pos := 0 }) a.tag).updPart a.part fun q => { q with useSlice := q.useSlice + 8 }
theorem meets_AtHomeSlice : let a := access (.st 8) 3 0x100000000000000
    paged.data = [] ∧ heldFault paged a 0 { ea := a.ea, len := 8, pos := 0 } = none ∧ paged.target 0 0 3 a.ea = some (.second 0 0) ∧
    ((arrived paged a).translate 0 ((arrived paged a).partAt 0 0) 0 true).2 = some 0x50007 ∧ pteCheck 0x50007 0 false true = .ok ∧
    memberRegion ((arrived paged a).translate 0 0 0 true).1 a = none ∧ ((arrived paged a).translate 0 0 0 true).1.lineEntries 0 0 0 = [] := by decide +kernel
theorem meets_AtHomeSlice_refused : let a := access (.st 8) 3 0x100000000000000
    ((arrived (pagedMem 3) a).translate 0 ((arrived (pagedMem 3) a).partAt 0 0) 0 true).2 = some 0x50003 ∧ pteCheck 0x50003 0 false true = .refuse 6 ∧
    ((arrived paged (access (.ld 8 false) 3 0x100000000010000)).translate 0 0 0x10000 false).2 = none := by decide +kernel

/-! ## Answers -/

/-- A unit with an entry for the tag 4. -/
def waiting (o : Outst) (st : SlotState := .ready) : State := box { memUnit with outst := [o], st := st, fe := [(3, true)] }
def loadEntry : Outst := { entry with dests := [3], acc := some (access (.ld 4 true) 1 0x40), write := false, pc := 12 }

theorem test_answers : g 3 (.fill 0 1 4 0x80000000) (waiting loadEntry) = some 0xFFFFFFFF80000000 ∧
    after (.fill 0 1 4 0x80000000) (waiting loadEntry) (fun t => !(t.slot 0).empty 3 && (t.slot 0).outst == []) = true ∧
    after (.fill 0 2 4 0x80000000) (waiting loadEntry) (fun t => (t.core 0).count.gendrop == 1 && (t.slot 0).empty 3) = true ∧
    pc (.fill 0 1 4 6) (waiting { loadEntry with len := 2 } (.waiting (.answer 4))) = some 18 ∧
    after (.accessAcknowledge 0 1 4) (waiting entry) (fun t => (t.slot 0).outst == []) = true := by decide +kernel
theorem test_refusal : after (.refusalArrival 0 1 4 4 0x40) (waiting loadEntry) (fun t => (t.slot 0).stopped) = true ∧
    after .refusalTrap (waiting { loadEntry with reply := some (.refused 4 0x40) }) (fun t => (t.slot 0).trappc == 12 && (t.slot 0).pc == 0x40 &&
      (t.slot 0).trapcause == 0x104 && (t.slot 0).trapaddr == 0x40 && (t.slot 0).outst == [] && !(t.slot 0).empty 3) = true ∧
    after (.faultReply 0 1 4 9) (waiting loadEntry) (fun t => (t.slot 0).stopped) = true ∧
    sentOp (.releaseSend 0 1 4) (waiting { entry with held := true, acc := some (access .rel 1 0x48) }) = some (.scratchpadAccess (access .rel 1 0x48) 0) := by
  decide +kernel

theorem meets_AnswersArrive_Holds : Holds (waiting loadEntry) 0 1 4 loadEntry := by
  unfold Holds; decide +kernel
theorem meets_AnswersArrive : loadEntry.dests = [3] ∧ loadEntry.acc = some (access (.ld 4 true) 1 0x40) ∧ ({ entry with dests := [35] } : Outst).dests = [35] ∧
    entry.len = 0 ∧ ((waiting { loadEntry with len := 2 } (.waiting (.answer 4))).slot 0).st = .waiting (.answer 4) ∧ ((waiting loadEntry).slot 0).gen ≠ 2 ∧
    ((waiting loadEntry).slot 0).st = .ready ∧
    ({ entry with dests := [27] } : Outst).portOf = some 3 ∧ (some5.port 0 3).writable = true ∧ some5.portRoom (some5.port 0 3) = true ∧
    (outs.port 0 2).writable = true ∧ outs.portRoom (outs.port 0 2) = false := by decide +kernel
theorem meets_AnswersArrive_OtherAnswers : Holds (waiting { entry with held := true, acc := some (access .rel 1 0x48) }) 0 1 4
      { entry with held := true, acc := some (access .rel 1 0x48) } ∧
    ((waiting { loadEntry with reply := some (.refused 4 0x40) }).slot 0).deciding = some { loadEntry with reply := some (.refused 4 0x40) } ∧
    ((waiting loadEntry).slot 0).trapvec ≠ 0 ∧ ((waiting loadEntry).slot 0).trapcause.getLsbD 8 = false := by
  unfold Holds; decide +kernel

/-! ## Ordering, tags, guard bits -/

/-- g4 = 0x80 (two lines of memory), g5 = 2, g6 = 0x40; line 0 is in the fetch buffer and the array keeps a line. -/
def order : State :=
  { box { unit with g := [(4, 0x80), (5, 2), (6, 0x40), (7, 0x8000000000000005)] } with
      cores := [(0, { fetchBuf := [(0, 1)], tags := [(5 * 4, { tag := 5, data := 99, use := 1 })] })],
      clusters := [(0, { part := some 0, seg := [(0, 0x1FFE00000000)], arr := { tlines := [(1, 1, 1)] } })] }

theorem test_order : after (.fence (imm 0 0 0x200)) order (fun t => (t.core 0).fetchBuf == [] && (t.cluster 0).arr.fences == []) = true ∧
    after (.fence (imm 0 0 0x20)) order (fun t => (t.core 0).fetchBuf == [(0, 1)] && (t.cluster 0).arr.fences == [8]) = true ∧
    waits .settled (.fence (imm 0 0 0)) busy = true ∧ after (.acq (ops 3 4 0)) order (fun t => (t.slot 0).pc == 16 && (t.slot 0).empty 3) = true ∧
    after (.rel (ops 5 4 0)) order (fun t => (t.slot 0).pc == 17 && ((t.slot 0).outst.map Outst.held) == [true]) = true := by decide +kernel
/-- Other paths may see a stored byte as it was, until a FENCE of the thread names C and one of them: then its own later reads there do not, while
those of a thread that has received nothing since still may (R20, R198). -/
theorem test_unseen : after (.scratchpadAccess (access (.st 8) 1 0x40) 0) memory (fun t => (Sp.find t.unseen 0x40).map (fun u => (u.path, u.hides, u.old)) ==
      some (0, [1, 2], 0x11) && t.byteOn 0 t.viewer 0x40 == 7) = true ∧
    after (.fence (imm 0 0 0x10)) { order with unseen := [(3, { path := 0, hides := [1], old := 5 })] } (fun t => (Sp.find t.unseen 3).map (fun u =>
      (u.carried 1 { slot := 0, gen := 1, tag := 9, heard := 0 }, u.carried 1 { slot := 8, gen := 1, tag := 9, heard := 0 },
       u.carried 1 { slot := 8, gen := 1, tag := 13, heard := 12 })) == some (true, false, true)) = true ∧
    after (.fence (imm 0 0 0x20)) { order with unseen := [(3, { path := 0, hides := [1], old := 5 })] } (fun t => (Sp.find t.unseen 3).map
      (fun u => u.carried 1 { slot := 0, gen := 1, tag := 9, heard := 0 }) == some false) = true := by decide +kernel

theorem test_acq_rel_traps : trapOf (.acq (ops 3 5 0)) order = some (3, 2, 0) ∧ trapOf (.rel (ops 3 5 0)) order = some (3, 2, 0) := by decide +kernel
theorem test_bind : after (.bind (ops 6 4 5)) order (fun t => (t.core 0).binds == [{ obj := 1, wide := false, ranges := [(2, 2)], level := 5, part := 0 }]) = true ∧
    trapOf (.bind (ops 5 4 5)) order = some (3, 2, 0) := by decide +kernel
theorem test_guard : after (.guard (ops 0 4 5 true)) order (fun t => (t.core 0).guards == [(2, true), (3, true)]) = true ∧
    trapOf (.guard (ops 0 5 5 true)) order = some (3, 2, 0) := by decide +kernel
theorem test_tags : g 10 (.tglook (ops 10 7 0)) order = some 1 ∧ g 11 (.tglook (ops 10 7 0)) order = some 99 ∧ g 10 (.tglook (ops 10 4 0)) order = some 0 ∧
    after (.tgset (ops 5 4 0)) order (fun t => tagLookup (t.core 0) 0 0x80 == some 2) = true ∧
    after (.tgclr (ops 0 7 0)) order (fun t => tagLookup (t.core 0) 0 5 == none) = true ∧
    after (.tgcfg (ops 0 4 0)) order (fun t => (t.core 0).tags == [] && (t.core 0).tagCfg == 0) = true := by decide +kernel

theorem meets_OrderingForms : runs uNone (imm 0 0 0x200) order = true ∧ (order.slot 0).outst = [] ∧ (busy.slot 0).outst ≠ [] ∧
    runs uDA (ops 3 4 0) order (fun v s => v.a == 0x80 && (accPieces (accessOf .acq (fun _ => 1) (fun _ v => v.a) (fun x => x.d.toNat) (fun _ => 0xD1) id (ops 3 4 0) v s)).all
      (pieceOk s (accessOf .acq (fun _ => 1) (fun _ v => v.a) (fun x => x.d.toNat) (fun _ => 0xD1) id (ops 3 4 0) v s) false) && s.entryFree 0 false) = true ∧
    runs uSA (ops 5 4 0) order (fun v s => v.a == 0x80 && pieceOk s (accessOf .rel (fun _ => 1) (fun _ v => v.a) (fun _ => 0) (fun _ => 0xD2) (fun v => { v with b := v.d }) (ops 5 4 0) v s)
      false { ea := 0x80, len := 8, pos := 0 } && s.entryFree 0 false) = true := by
  decide +kernel
theorem meets_OrderingForms_bind : runs uSAB (ops 6 4 5) order (fun v s => v.d == 0x40 && v.a == 0x80 && v.b != 0 && decide (s.target 0 0 1 v.d = some (.scratch 0 0x40)) &&
    decide (s.target 0 0 1 v.a = some (.scratch 0 0x80)) && (s.core 0).binds.isEmpty) = true ∧ runs uSAB (ops 6 4 0) order (fun v _ => v.b == 0) = true := by decide +kernel
theorem meets_OrderingForms_tags : runs uAB (ops 0 4 5) order (fun v s => v.a == 0x80 && (List.range 2).all fun i => s.protAllows 0 ((2 + i) * 64) 64 (s.unitAccessor 0 0) true)
      = true ∧ runs { d := .g, dDst := true, dPair := true, a := .g } (ops 22 7 0) order = true ∧ runs uSA (ops 5 4 0) order = true ∧
    runs uA (ops 0 7 0) order (fun _ s => tagFind (s.core 0) 0 5 == some 20) = true ∧ tagFind (order.core 0) 0 0x80 = none := by decide +kernel

/-! ## Regions -/

/-- A coordinator of cluster 0 with record 0 of generation 3: two members at most; slot 0 is one; slice 2 takes part. -/
def region (st : Nat) (slices : List Nat) : Region :=
  { gen := 3, m := 2, st := st, members := [{ slot := 0, gen := 1, voted := false, told := false, slices := [] }], slices := slices, acks := slices }
def regional (r : Region) (t : Slot) (data : List W64) (cur : Nat := 0) : State :=
  { slots := [(0, t)], parts := [(0, { live := true, clusters := [0] })], data := data, cur := cur,
    clusters := [(0, { part := some 0, seg := [(0, 0x1FFE00000000)], regions := [(0, r)] })] }
def handled : Slot := { unit with g := [(4, 3), (5, 1), (6, 2)] }

theorem test_region_forms : sentOp (.arnew (ops 3 6 0)) (regional (region 1 []) handled []) = some (.fill 0 1 6 0x100000000) ∧
    sentOp (.aren (ops 3 4 0)) (regional (region 1 []) handled []) = some .regionMemberJoin ∧
    g 3 (.aren (ops 3 4 0)) (regional (region 1 []) { handled with region := some 3 } []) = some 3 ∧
    g 3 (.arcom (ops 3 0 0)) (regional (region 1 []) handled []) = some 2 ∧
    after (.arcom (ops 3 0 0)) (regional (region 1 []) { handled with region := some 3 } [])
      (fun t => decide ((t.slot 0).st = .suspended .arcom) && t.agenda.map Op.ins == [.regionVote]) = true := by decide +kernel
theorem test_region_more : pc (.arabt (ops 0 0 0)) (regional (region 1 []) handled []) = some 17 ∧
    sentOp (.arabt (ops 0 0 0)) (regional (region 1 []) { handled with region := some 3 } []) = some .regionAbortRequest ∧
    sentOp (.arinfo (ops 3 4 0)) (regional (region 1 []) handled []) = some (.fill 0 1 6 0x301010001) ∧
    trapOf (.arinfo (ops 3 5 0)) (regional (region 1 []) handled []) = some (0x16, 1, 0) ∧
    trapOf (.arnew (ops 3 0 0)) (regional (region 1 []) handled []) = some (0x16, 0, 0) := by decide +kernel

/-- The record after an event, and the operations it has sent. -/
def record (i : Instr) (s : State) : Option (Nat × Nat × Nat × List Instr) :=
  match exec i s with
  | .next t => let r : Region := Sp.get {} (t.cluster 0).regions 0
               some (r.st, r.votes, r.cause, t.agenda.map Op.ins)
  | _ => none

theorem test_region_events : [record .regionMemberJoin (regional (region 1 []) handled [3, 8, 7, 4, 0]), record .regionVote (regional (region 1 [2]) handled [3, 0, 1, 0, 0]),
    record .regionVote (regional { region 1 [2] with m := 1 } handled [3, 0, 1, 0, 0]), record .regionAbortRequest (regional (region 1 [2]) handled [3, 3, 0, 0, 0, 0]),
    record .regionDeadline (regional (region 1 [2]) handled [3]), record (.regionMemberKilled 0 3 0 1) (regional (region 1 [2]) handled []),
    record .regionInstallAck (regional { region 2 [2, 3] with m := 1 } handled [3, 3, 0]), record .regionInstallAck (regional { region 2 [2] with m := 1 } handled [3, 2, 0]),
    record .regionDiscardAck (regional (region 3 [2]) handled [3, 2, 0])] =
    [some (1, 0, 0, [.fill 8 7 4 0]), some (1, 1, 0, []), some (2, 1, 0, [.regionInstall]), some (3, 0, 3, [.regionDiscard, .asyncCauseDelivery 0 1 1]),
     some (3, 0, 5, [.regionDiscard, .asyncCauseDelivery 0 1 1]), some (3, 0, 4, [.regionDiscard, .asyncCauseDelivery 0 1 1]), some (2, 0, 0, []), some (4, 0, 0, []),
     some (5, 0, 0, [])] := by decide +kernel

/-- Slice 0 with one tentative byte of region 3 for location 2^45 + 64. -/
def writeSet : WsEntry :=
  { part := 0, line := 1, home := 0, region := 3, loc := 2 ^ 45 + 64, r := false, w := true, prep := false, mask := 2, data := 0x5500 }
def sliced (data : List W64) : State := { regional (region 2 [0]) handled data with slices := [(0, { ws := [writeSet] })], assembly := [(8, { left := 1, data := 0, refused := none, faults := [], failed := 0 })] }

theorem test_region_slices : after .regionInstall (sliced [0, 3, 0, 0]) (fun t => t.byte (2 ^ 45 + 65) == 0x55 && (t.slice 0).ws == [] && t.agenda.map Op.ins == [.regionInstallAck])
      = true ∧ after .regionDiscard (sliced [0, 3, 0, 0]) (fun t => t.byte (2 ^ 45 + 65) == 0 && (t.slice 0).ws == [] && t.agenda.map Op.ins == [.regionDiscardAck]) = true ∧
    after .prepare (sliced [0, 3, 0, 1, 8, 6, 0]) (fun t => ((t.slice 0).ws.map WsEntry.prep) == [true] && t.agenda.map Op.ins == [.regionVote]) = true := by decide +kernel

theorem meets_RegionRules_forms : runs uDAB (ops 3 6 0) (regional (region 1 []) handled []) (fun v s => v.a == 2 && v.b == 0 && freeRegion s 0 == some 1) = true ∧
    runs uDA (ops 3 4 0) (regional (region 1 []) handled []) (fun v s => decide (regionOf s 0 v.a = some (0, 0, region 1 []))) = true ∧
    runs uD (ops 3 0 0) (regional (region 1 []) { handled with region := some 3 } []) = true ∧ runs uNone (ops 0 0 0) (regional (region 1 []) handled []) = true ∧
    (region 1 []).members.all (fun m => m.slices == []) = true ∧
    runs uD (ops 3 0 0) (regional (region 1 []) { handled with region := some 3, waitpol := 2 } []) (fun _ s => (s.slot 0).waitMode == 2 && !(s.slot 0).voted) = true := by decide +kernel
theorem meets_RegionRules_messages : regionOf (regional (region 1 [2]) handled []) 0 3 = some (0, 0, region 1 [2]) ∧ (region 1 [2]).members.length < (region 1 [2]).m ∧
    (region 1 [2]).gen.toNat = bits 3 31 0 ∧ (region 1 [2]).slices ≠ [] ∧ (region 1 [2]).members ≠ [] ∧ (∀ m ∈ (region 1 [2]).members, m.told = false) ∧
    ((regional (region 2 [2]) handled []).slot 0).st ≠ .suspended .arcom ∧ (sliced [0, 3, 0, 0]).data = [0, 3, 0, 0] ∧
    ((sliced []).slice 0).ws = [writeSet] ∧ writeSet.region = 3 ∧ (Sp.find (sliced []).assembly 8).isSome = true ∧
    regionOf (sliced []) 0 3 = some (0, 0, region 2 [0]) ∧ (handled.st ≠ .idle ∧ handled.gen = 1) := by decide +kernel

/-! ## Messages and streams -/

/-- g4, g5 two data words, g6 the place of core 1 class 0, g7 a PC, g8 a group number, g9 a port. -/
def sender : Slot := { unit with g := [(4, 11), (5, 12), (6, 0x10000000000), (7, 0x20), (8, 3), (9, 0x21), (10, 1), (11, 0x8000)] }
def net : State := { box sender with parts := [(0, { live := true, clusters := [0], groups := [(3, [0, 0x10000000000])] })], cores := [(0, { ports := [(2, { st := .recv, buf := [some 5, none] })] })] }

theorem test_send : after (.send (ops 4 6 7)) net (fun t => (t.agenda.length == 2) && (t.slot 0).pc == 17 && ((t.slot 0).outst.map Outst.tag) == [4]) = true ∧
    after (.sendm (ops 4 8 7)) net (fun t => t.agenda.length == 4) = true ∧ trapOf (.send (ops 4 7 7)) net = some (0x16, 0x20, 0) ∧
    trapOf (.send (ops 4 6 11)) net = some (0x16, 0x8000, 0) ∧ trapOf (.sendm (ops 4 6 7)) net = some (0x16, 0x10000000000, 0) := by decide +kernel
theorem test_port_forms : after (.popen (ops 0 6 9)) net (fun t => (t.port 0 1).st == .bound && (t.port 0 1).tgtPort == 2) = true ∧
    after (.plisten (ops 0 10 0)) net (fun t => (t.port 0 1).st == .listen) = true ∧ after (.pclose (ops 0 10 0)) net (fun t => (t.port 0 1).st == .closed) = true ∧
    g 3 (.pstat (ops 3 12 0)) (net.updSlot 0 fun t => t.setG 12 2) = some 0x1C ∧
    trapOf (.plisten (ops 0 12 0)) (net.updSlot 0 fun t => t.setG 12 2) = some (0x11, 0, 2 + 4 * 16 + 256) := by decide +kernel

/-- An active message for core 1. -/
def task (pc : Pc) (args : List W64) : TaskRec :=
  { pc := pc, noSteal := false, level := 5, home := 0, pri := 0, cls := 0, corr := 0, pool := 0, args := args, source := 5, phase := false, key := 0,
    header := 0, enq := 0 }
def msg (place : W64) : Msg :=
  { src := 0, dst := 1, cls := 0, gen := 0, part := 0, isTask := false, body := task 0x20 [11, 12], seq := 1, after := [], lines := [], tries := 0,
    place := place, slot := 0, sgen := 1, tag := 4, idx := 0 }
def ringed (tail : Nat) : State := { net with cores := [(1, { tails := [(0, tail)], heads := [(0, 0)] })] }

theorem test_message : sentOp (.messageInjection (msg 0x10000000000)) net = some (.messageArrival { msg 0x10000000000 with dst := 1, cls := 0 }) ∧
    after (.messageInjection (msg 0x80000000000000)) net (fun t => t.agenda.head?.map Op.ins == some (.refusalArrival 0 1 4 0x16 0x80000000000000)) = true ∧
    after (.messageArrival (msg 0)) (ringed 0) (fun t => (t.core 1).tail 0 == 4 && t.read (scratchLoc 1 0) 8 == 0x402 && t.read (scratchLoc 1 8) 8 == 0x20 &&
      t.read (scratchLoc 1 24) 8 == 12) = true ∧
    after (.messageArrival { msg 0 with cls := 1 }) (ringed 0) (fun t => (t.core 1).count.classdrop == 1 && t.agenda.length == 2) = true := by decide +kernel
theorem test_message_retry : after (.messageArrival (msg 0)) (ringed 510) (fun t => t.timers == [(64, [{ ins := .messageRetry { msg 0 with tries := 1 } }])]) = true ∧
    sentOp (.messageRetry (msg 0)) net = some (.messageArrival (msg 0)) := by decide +kernel

/-- Core 0's port 3 acquires a route to core 1's port 2, in the same cluster; core 128's to core 1 of cluster 0. -/
def routed (st : PortState) (hops : List Nat) : State :=
  { net with cur := 3, cores := [(0, { ports := [(3, { st := .bound, acq := 1, place := 0x10000000000, tgtPort := 2, route := 3, hops := hops, flying := 1 })] }),
                                 (1, { ports := [(2, { st := st, srcPort := if st = .recv then 4 else 0, route := 3 })] })] }
def away : State :=
  { net with cur := 1024 + 3, clusters := [(0, { part := some 0 }), (1, { part := some 0, rel := 1 })], parts := [(0, { live := true, clusters := [0, 1] })],
             cores := [(128, { ports := [(3, { st := .bound, acq := 1, place := 0x10000000000, tgtPort := 2 })] })] }

theorem test_streams : after .routeHop (routed .listen []) (fun t => (t.port 0 3).acq == 2 && (t.port 1 2).srcPort == 4) = true ∧
    after .routeHop away (fun t => (t.port 128 3).hops.length == 1 && t.agenda.map Op.ins == [.routeHop]) = true ∧
    after (.streamWordArrival 1 2 0 3 77) (routed .recv []) (fun t => (t.port 1 2).buf == [some 77] && (t.port 0 3).flying == 0) = true ∧
    after .closingMarkerArrival { routed .recv [] with data := [1, 2, 0, 5], routers := [(0, { streams := [(5, 1)] })] }
      (fun t => (t.port 1 2).buf == [none] && (t.router 0).streams == [] && (t.ni 1).recv0 == 1) = true := by decide +kernel

theorem meets_MessageForms : runs { d := .g, dSrc := true, dPair := true, a := .g, b := .g } (ops 4 6 7) net (fun v s => bits v.a 35 0 == 0 && s.entryFree 0 false) = true ∧
    runs { d := .g, dSrc := true, dPair := true, a := .g, b := .g } (ops 4 8 7) net (fun v _ => decide (v.a.toNat < 256)) = true ∧
    Sp.get [] (net.part 0).groups 3 ≠ [] ∧ runs { d := .g, dSrc := true, dPair := true, a := .g, b := .g } (ops 4 7 7) net (fun v _ => bits v.a 35 0 != 0) = true ∧
    runs uAB (ops 0 6 9) net (fun v s => bits v.a 39 0 == 0 && decide (v.b.toNat < 128) && !v.b.getLsbD 3 && (s.port 0 1).st == .closed) = true ∧
    runs uA (ops 0 10 0) net (fun v s => v.a == 1 && (s.port 0 1).st == .closed) = true ∧ runs uDA (ops 3 10 0) net (fun v _ => decide (v.a.toNat < 8)) = true ∧
    (net.port 0 2).st ≠ .closed := by decide +kernel
theorem meets_DeliveryEvents_MessageEvents : net.placeOf 0 0x10000000000 = some (1, 0) ∧ net.placeOf 0 0x80000000000000 = none ∧ Sp.find net.assembly 4 = none ∧
    clsOn (((ringed 0).core 1).cls 0) = true ∧ ((ringed 0).core 1).ringFit 0 4 = some (0, 0) ∧
    (ringed 0).niAllows 1 5 ((List.range 4).map fun j => clsBase (((ringed 0).core 1).cls 0) + 8 * (0 + j)) = true ∧
    ((ringed 510).core 1).ringFit 0 4 = none ∧ clsOn (((ringed 0).core 1).cls 1) = false ∧ (msg 0).src < 2 ^ 24 ∧
    (List.range 4).all (fun j => !(ringed 0).guarded 1 (ringOff (((ringed 0).core 1).cls 0) j)) = true ∧ clsBase (((ringed 0).core 1).cls 0) + 8 * 4 ≤ 0x80000 := by decide +kernel
/-- Message 0 comes and is admitted; one of another partition of the device comes, one of a partition that the device does not map, or from a core
whose router has no way to the device, does not; and an owner that is being reset. -/
theorem meets_DeliveryEvents_MessageEvents_senders : (ringed 0).mapPart 0 0 = 0 ∧ (ringed 0).partOf 0 = 0 ∧ senderReaches (ringed 0) (msg 0) 0 = true ∧
    ((ringed 0).part 0).resetting = false ∧ (ringed 0).mapPart 1 0 = 1 ∧ (ringed 0).mapPart 32 0 = noPart ∧
    senderReaches { ringed 0 with routers := [(128, { deviceTable := [(0, 5)], deviceAlt := [(0, 5)] })], devs := [(1, { down := List.range 64 })] }
      { msg 0 with src := 128 * 128 } 0 = false ∧
    ({ ringed 0 with parts := [(0, { live := true, clusters := [0], resetting := true })] } : State).mapPart 0 0 = 0 ∧ net.injSpent 0 = false ∧
    ({ net with parts := [(0, { live := true, clusters := [0], budInj := 5, useInj := 5 })] } : State).injSpent 0 = true ∧
    ({ net with parts := [(0, { live := true, clusters := [0], budInj := 5, useInj := 5 })] } : State).placeOf 0 0x10000000000 = some (1, 0) := by decide +kernel
theorem meets_DeliveryEvents_StreamEvents : ((routed .listen []).port 0 3).st = .bound ∧ ((routed .listen []).port 0 3).acq = 1 ∧
    (routed .listen []).placeOf 0 0x10000000000 = some (1, 0) ∧ nextLink (routed .listen []) 0 0 = none ∧ ((routed .listen []).port 1 2).st = .listen ∧
    (nextLink away 1 0).isSome = true ∧ away.channelFree 1 1 = true ∧ ((routed .recv []).port 1 2).receives 3 = true ∧
    ({ away with routers := [(1, { streams := [(1, 8)] })] } : State).channelFree 1 1 = false ∧ away.linkFrom 1 (bits 0x10000000000 63 54) = true := by decide +kernel

/-! ## Term array -/

/-- Cells that hold words at a location. -/
def wordCells (loc : Nat) (l : List Nat) : List Host.Cell :=
  l.zipIdx.flatMap fun q => (List.range 8).filterMap fun i => if q.1 / 256 ^ i % 256 = 0 then none else some (loc + 8 * q.2 + i, BitVec.ofNat 8 (q.1 / 256 ^ i))

/-- At 0x80 a configuration block: A and B of format 1 (bytes), one row, one lane, one k-step, B at scratchpad 0x200 of core 0, readout of format 1
with no target; A at 0x240 holds 3 and B holds 5. -/
def cfgWords : List Nat := [0x00010101, 0x240, 16, 0x100010001, 0, 0x200, 16, 0, 0, 0x4000000000000000]
def cfgImage : MxImage := { cfg := some ((cfgWords ++ [0, 0, 0, 0, 0, 0]).map (BitVec.ofNat 64)), bbase := 0x200, bstride := 16 }
def arrayUnit : Slot := { unit with g := [(4, 0x80), (5, 0), (6, 1), (7, 0x300), (8, 0x10)] }
def arrayMem : List Host.Cell := wordCells 0x80 cfgWords ++ [(0x200, 5), (0x240, 3)]
def arrayed (a : TermArray) (t : Slot := arrayUnit) : State :=
  { slots := [(0, t)], parts := [(0, { live := true, clusters := [0] })], mem := arrayMem,
    clusters := [(0, { part := some 0, seg := [(0, 0x1FFE00000000)], arr := a })] }
def held : TermArray := { holder := some (0, 1), level := 5, grants := 1 }

/-- The queue of the array after a form: numbers, operations, operands. -/
def queued (i : Instr) (s : State) : Option (List (Nat × MxOp × W64 × W64)) :=
  match exec i s with
  | .next t => some ((t.arr 0).queue.map fun k => (k.no, k.op, k.a, k.b))
  | _ => none

theorem test_array_forms : [queued (.mxcfg (ops 0 4 0)) (arrayed held), queued (.mxldb (ops 0 7 6)) (arrayed held), queued (.mxzero (ops 0 0 0)) (arrayed held),
    queued (.mxrun (ops 0 5 6)) (arrayed { held with img := cfgImage }), queued (.mxrd (ops 0 7 5)) (arrayed { held with img := cfgImage }),
    queued (.mxrdx (ops 0 7 5)) (arrayed { held with img := cfgImage }), queued (.mxfree (ops 0 0 0)) (arrayed held)] =
    [some [(1, .cfg, 0, 0)], some [(1, .ldb, 0, 0)], some [(1, .zero, 0, 0)], some [(1, .run, 0, 1)], some [(1, .rd, 0x300, 0)], some [(1, .rdx, 0x300, 0)],
     some [(1, .free, 0, 0)]] := by decide +kernel
theorem test_array_traps : [trapOf (.mxzero (ops 0 0 0)) (arrayed {}), trapOf (.mxrun (ops 0 5 6)) (arrayed held), trapOf (.mxrun (ops 0 6 6)) (arrayed { held with img := cfgImage }),
    trapOf (.mxcfg (ops 0 8 0)) (arrayed held), trapOf (.mxunf (ops 0 4 0)) (arrayed held), trapOf (.mxzero (ops 0 0 0)) (arrayed { held with grace := some 0 }),
    trapOf (.mxstop (ops 0 0 0)) (arrayed { held with latch := some { cause := 5, addr := 7, info := 2 } })] =
    [some (0x12, 0, 1), some (0x12, 0, 3), some (0x16, 2, 0), some (3, 0x10, 0), some (0x16, 0x80, 0), some (0x12, 0, 2), some (5, 7, 2)] := by decide +kernel
theorem test_array_unfold : queued (.mxunf (ops 0 4 0)) { arrayed held with mem := wordCells 0x80 [0x240, 0x100040004, 1, 0x10101010303, 0, 0x20002] } =
    some [(1, .unf, 0, 0)] := by decide +kernel
theorem test_array_stop : after (.mxstop (ops 0 0 0)) (arrayed held) (fun t => (t.arr 0).stopHeld && !(t.arr 0).stopped) = true ∧
    after (.mxresume (ops 0 0 0)) (arrayed { held with stopHeld := true }) (fun t => !(t.arr 0).stopHeld) = true := by decide +kernel

theorem test_lease : g 3 (.mxlease (ops 3 0 0)) (arrayed held) = some 0x100000001 ∧ g 3 (.mxlease (ops 3 0 0)) (arrayed {}) = some 0x100000001 ∧
    g 3 (.mxlease (ops 3 0 0)) (arrayed { held with holder := some (8, 1) } { arrayUnit with waitpol := 2 }) = some 0 ∧
    after (.mxlease (ops 3 0 0)) (arrayed { held with holder := some (8, 1) }) (fun t => (t.arr 0).leaseQ.length == 1 && (t.slot 0).empty 3) = true := by decide +kernel
theorem test_array_wait : g 3 (.mxwait (ops 3 0 0)) (arrayed { held with inexact := true }) = some 1 ∧
    g 3 (.mxwait (ops 3 0 0)) (arrayed { held with issued := 1 } { arrayUnit with waitpol := 2 }) = some 0x8000000000000000 ∧
    after (.mxwait (ops 3 0 0)) (arrayed { held with issued := 1 }) (fun t => (t.arr 0).waitQ.length == 1 && (t.slot 0).pc == 16) = true ∧
    g 3 (.mxstat (ops 3 9 0)) (arrayed { held with ctr := [(1, 9)] } { arrayUnit with g := [(9, 0x80)] }) = some 9 ∧
    g 3 (.mxstat (ops 3 9 0)) (arrayed held { arrayUnit with g := [(9, 2)] }) = some 3 := by decide +kernel

/-- A command being performed, or first in the queue. -/
def command (op : MxOp) (a b : W64) : MxCmd := { no := 1, op := op, img := cfgImage, a := a, b := b }
def arrayAfter (i : Instr) (s : State) (p : State → TermArray → Bool) : Bool := after i s fun t => p t (t.arr 0)

theorem test_sequencer : arrayAfter .sequencerCommand (arrayed { held with queue := [command .zero 0 0], lanes := [(0, { acc := 3 })], issued := 1 })
      (fun _ a => a.cmd == none && a.done == 1 && a.lanes == []) = true ∧
    arrayAfter .sequencerCommand (arrayed { held with queue := [command .run 0 1], issued := 1 })
      (fun t a => a.cmd == some (command .run 0 1) && t.agenda.map Op.ins == [.macroStep]) = true ∧
    arrayAfter .sequencerCommand (arrayed { held with queue := [command .rd 0x300 0], issued := 1 }) (fun t a => a.next == 0 && t.agenda.map Op.ins == [.readout]) = true ∧
    arrayAfter .sequencerCommand (arrayed { held with queue := [command .free 0 0], issued := 1 }) (fun t a => a.holder == none && t.agenda.map Op.ins == [.leaseGrant])
      = true := by decide +kernel
theorem test_macro_step : arrayAfter .macroStep (arrayed { held with cmd := some (command .run 0 1), issued := 1 })
    (fun _ a => (Sp.get {} a.lanes 0).acc == 15 && a.cmd == none && a.done == 1) = true := by decide +kernel
theorem test_readout : arrayAfter .readout (arrayed { held with cmd := some (command .rd 0x300 0), rfmt := 1, lanes := [(0, { acc := 15 })], issued := 1 })
      (fun t a => a.next == 1 && a.flying.length == 1 && t.agenda.map Op.ins == [.readout]) = true ∧
    arrayAfter .readout (arrayed { held with cmd := some (command .rd 0x300 0), rfmt := 1, next := 1, issued := 1,
                                             flying := [{ cmd := command .rd 0x300 0, item := 0, vals := [({ acc := 15 }, 0)], fmt := 1 }] })
      (fun t a => t.read 0x300 1 == 15 && a.bytes == 1 && t.agenda.map Op.ins == [.readoutCompletion]) = true ∧
    arrayAfter .readoutCompletion (arrayed { held with cmd := some (command .rd 0x300 0), rtag := some 8, issued := 1 }) (fun _ a => a.cmd == none && a.done == 1)
      = true := by decide +kernel

theorem test_lease_events : arrayAfter .leaseGrant { arrayed { held with holder := none, leaseQ := [{ slot := 0, gen := 1, tag := 4 }] }
      with slots := [(0, { arrayUnit with outst := [{ entry with dests := [3], len := 1, access := false }], st := .waiting (.answer 4), fe := [(3, true)] })] }
      (fun t a => a.holder == some (0, 1) && a.grants == 2 && (t.slot 0).getG 3 == 0x100000002 && (t.slot 0).pc == 17) = true ∧
    arrayAfter .leaseBudgetEnd { arrayed { held with budRuns := 64, leaseQ := [{ slot := 8, gen := 1, tag := 4 }] } with now := 2 ^ 21, data := [0] }
      (fun _ a => a.grace == some (2 ^ 20)) = true ∧
    arrayAfter .leaseBudgetEnd { arrayed { held with budRuns := 64 } with now := 2 ^ 21, data := [0] } (fun _ a => a.grace == none && a.budRuns == 0) = true ∧
    arrayAfter .graceEnd { arrayed { held with grace := some 0, issued := 3 } with now := 8192, data := [1] } (fun _ a => a.holder == none && a.done == 3) = true := by
  decide +kernel

theorem test_naf : naf 7 = [(0, -1), (3, 1)] ∧ naf 11 = [(0, -1), (2, -1), (4, 1)] ∧ naf 0 = [] := by decide +kernel

theorem meets_ArrayCommands_Leases : Leases (arrayed held) true ∧ Leases (arrayed { held with img := cfgImage }) true := by
  constructor <;> constructor <;> decide +kernel
theorem meets_ArrayCommands : runs uNone (ops 0 0 0) (arrayed {}) (fun _ s => !(s.arr 0).isHolder 0 1) = true ∧
    runs uA (ops 0 4 0) (arrayed held) (fun v s => v.a == 0x80 && !cfgAddrBad { s.mxImg with cfg := some (wordsAt s 0x80 16), bbase := 0x200, bstride := 16 } &&
      !cfgFormatBad { s.mxImg with cfg := some (wordsAt s 0x80 16), bbase := 0x200, bstride := 16 }) = true ∧
    runs uAB (ops 0 5 6) (arrayed { held with img := cfgImage }) (fun v s => s.mxImg.cfg.isSome && !s.mxImg.aunf && decide (v.a.toNat + v.b.toNat ≤ s.mxImg.kext)) = true ∧
    runs uAB (ops 0 7 5) (arrayed { held with img := cfgImage }) (fun v s => (readoutCheck s s.mxImg false v.a v.b).isNone && (readoutCheck s s.mxImg true v.a v.b).isNone)
      = true ∧ held.waitQ = [] ∧
    runs uA (ops 0 4 0) { arrayed held with mem := wordCells 0x80 [0x240, 0x100040004, 1, 0x10101010303, 0, 0x20002] }
      (fun v s => v.a == 0x80 && !unfBad { s.mxImg with unf := some (wordsAt s 0x80 8) }) = true := by decide +kernel
theorem meets_ArrayCommands_block : LocalOk (arrayed held) 0x80 64 true false ∧ LocalOk (arrayed held) 0xC0 64 true false := by
  constructor <;> constructor <;> decide +kernel
theorem meets_ArrayLease : runs uD (ops 3 0 0) (arrayed held) (fun _ s => (s.arr 0).isHolder 0 1 && (s.arr 0).lost.isEmpty && (s.arr 0).latch.isNone) = true ∧
    runs uD (ops 3 0 0) (arrayed {}) (fun _ s => (s.arr 0).holder.isNone) = true ∧
    runs uD (ops 3 0 0) (arrayed { held with holder := some (8, 1) }) (fun _ s => !(s.arr 0).isHolder 0 1) = true ∧
    runs uD (ops 3 0 0) (arrayed { held with latch := some { cause := 5, addr := 7, info := 2 } }) = true ∧ runs uDA (ops 3 4 0) (arrayed held) = true ∧
    Holds { arrayed held with slots := [(0, { arrayUnit with outst := [{ entry with dests := [3] }] })] } 0 1 4 { entry with dests := [3] } := by
  unfold Holds; decide +kernel
theorem meets_ArrayCommandsRun : let s := arrayed { held with cmd := some (command .run 0 1), issued := 1 }
    let r := fetchStep s 0 { who := 0, ins := .macroStep } (command .run 0 1) 0 1 0
    r.1.stalled = false ∧ r.1.err = none ∧ (s.arr 0).page = none ∧ (s.cluster 0).frozenAt = none ∧
    TermArray.maySend { held with cmd := some (command .rd 0x300 0), rfmt := 1 } = true ∧ TermArray.maySend { held with cmd := some (command .rd 0x300 0), rfmt := 1, next := 1 } = false := by
  decide +kernel
/-- A readout's item on its way, and the same with another completion target. -/
def flyingItem : MxWrite := { cmd := command .rd 0x300 0, item := 0, vals := [({ acc := 15 }, 0)], fmt := 1, holder := (0, 1), level := 5 }
def reading : State := arrayed { held with cmd := some (command .rd 0x300 0), rfmt := 1, next := 1, issued := 1, flying := [flyingItem] }
def targeted (t : Nat) : MxImage := { cfg := some ((cfgWords.take 9 ++ [t * 2 ^ 32, 0, 0, 0, 0, 0, 0]).map (BitVec.ofNat 64)), bbase := 0x200, bstride := 16 }
theorem meets_ArrayCommandsRun_readout : TermArray.maySend (reading.arr 0) = false ∧ (reading.injSpent 0) = false ∧
    ({ reading with parts := [(0, { live := true, clusters := [0], budInj := 5, useInj := 5 })] } : State).injSpent 0 = true ∧
    (match itemBytes { (reading.tick.updArr 0 fun a => { a with flying := [] }).deliver 0 false with kept := flyingItem.xl } 0 flyingItem 0x300 with
      | (s1, .ok (some 15)) => match s1.homeOf (s1.mxAccess 0 (0, 1) 5) 0x300 1 false true with
        | (_, .loc _ l) => l == scratchLoc 0 0x300
        | _ => false
      | _ => false) = true ∧ ((reading.mxDest 0 0x300).map Prod.fst).getD 0 = 0 ∧ (flyingItem.width * itemLanes flyingItem.width) / 8 = 1 ∧
    (BitVec.ofNat 64 cfgImage.rtarget : W64).getLsbD 30 = true ∧ (BitVec.ofNat 64 (targeted 0x80000002).rtarget : W64) = 0x80000002 ∧
    (reading.physCluster 0 (bits 0x80000002 18 12)).isSome = true ∧ (BitVec.ofNat 64 (targeted 0x80).rtarget : W64) = 0x80 ∧
    reading.mxDest 0 0x300 = some (0, 0x300) := by decide +kernel
theorem meets_NonAdjacentForm : (2 ^ 22 - 1 : Nat) < 2 ^ 22 := by decide

/-! ## Confluence -/

/-- Declaration 3 of partition 0, its generation 1: ADD, quota 2, policy p, held for pops or not; the block at 0x80 declares the same. -/
def decl (op hold policy : Nat) : Decl :=
  { live := true, gen := 1, w0 := BitVec.ofNat 64 (op + 64 * hold + 128 * policy), w2 := 2, w3 := 0x20, level := 5 }
def queueUnit : Slot := { unit with g := [(4, 11), (5, 12), (6, 13), (7, 14), (8, 0x10003), (9, 0x77), (10, 0x80), (11, 3)] }
def confluent (d : Decl) (k : Cluster) (data : List W64) : State :=
  { slots := [(0, queueUnit)], parts := [(0, { live := true, clusters := [0], decls := [(3, d)] })], data := data, mem := wordCells 0x80 [1, 0, 2, 0x20],
    clusters := [(0, { k with part := some 0, seg := [(0, 0x1FFE00000000)] })] }
def queue3 : ConfQueue := { gen := 1, created := 6 }
/-- A record of the queue. -/
def confRec (key : W64) : ConfRec :=
  { part := 0, qid := 3, ord := 0, born := 0, key := key, w1 := 0x20, level := 5, home := 0, count := 1, isSealed := false, cont := false, inexact := false, ovf := false,
    op := 1, w := [1, 2, 3, 4], filled := 4, corr := 0, pool := 0, phase := false }
def holding : Cluster := { confq := [(3, queue3)], conf := [(0, confRec 0x77)] }
def pushData (key : W64) : List W64 := [0, 1, 4, 0, 0x10003, key, 11, 12, 13, 14, 0, 0]

theorem test_confluence_forms : sentOp (.cqdecl (ops 3 10 0)) (confluent (decl 1 0 1) {} []) = some (.fill 0 1 10 0x10000) ∧
    after (.cqpush (ops 3 8 9)) (confluent (decl 1 0 1) {} []) (fun t => (t.agenda.map fun o => (o.who, o.ins)) == [(0, .cqPushArrival)] &&
      ((t.agenda.map Op.data).headD []).drop 4 == [0x10003, 0x77, 11, 12, 13, 14, 0, 0]) = true ∧
    after (.cqpop (ops 3 8 0)) (confluent (decl 1 1 1) {} []) (fun t => t.agenda.map Op.ins == [.cqPopRequest] &&
      [3, 4, 5, 6, 7, 9].all (t.slot 0).empty && !(t.slot 0).empty 8) = true ∧
    sentOp (.cqstat (ops 3 8 0)) (confluent (decl 1 0 1) { confq := [(3, queue3)] } []) = some (.fill 0 1 6 6) := by decide +kernel
theorem test_confluence_traps : trapOf (.cqdecl (ops 3 8 0)) (confluent (decl 1 0 1) {} []) = some (3, 0x10003, 0) ∧
    trapOf (.cqpush (ops 3 9 9)) (confluent (decl 1 0 1) {} []) = some (0x16, 0x77, 0) ∧ trapOf (.cqpop (ops 3 9 0)) (confluent (decl 1 0 1) {} []) = some (0x16, 0x77, 0) := by
  decide +kernel
theorem test_rdxadd : g 2 (.rdxadd (ops 2 4 0)) (regs [(2, 5), (3, 2), (4, 12), (5, 4)]) = some 13 ∧ g 3 (.rdxadd (ops 2 4 0)) (regs [(2, 5), (3, 2), (4, 12), (5, 4)]) = some 0x10004 ∧
    g 3 (.rdxadd (ops 2 4 0)) (regs [(2, 0x7FFFFFFFFFFFFFFF), (3, 2), (4, 12), (5, 2)]) = some 0x20002 := by decide +kernel

/-- The records of queue 3 after an event, and what it has sent. -/
def slice3 (i : Instr) (s : State) : Option (List (W64 × Nat × List W64) × List Instr) :=
  match exec i s with
  | .next t => some (((t.cluster 0).queue 3).map (fun r => (r.key, r.count, r.w)), t.agenda.map Op.ins)
  | _ => none

theorem test_push : slice3 .cqPushArrival (confluent (decl 1 0 1) holding (pushData 0x78)) =
    some ([(0x77, 1, [1, 2, 3, 4]), (0x78, 1, [11, 12, 13, 14])], [.fill 0 1 4 0]) := by decide +kernel
theorem test_push_combines : slice3 .cqPushArrival (confluent (decl 1 0 1) holding (pushData 0x77)) = some ([(0x77, 2, [12, 14, 16, 18])], [.fill 0 1 4 1]) := by
  decide +kernel
theorem test_push_full : slice3 .cqPushArrival (confluent { decl 1 0 1 with w2 := 1 } holding (pushData 0x78)) = some ([(0x77, 1, [1, 2, 3, 4])], [.fill 0 1 4 2]) := by
  decide +kernel
theorem test_pop : slice3 .cqPopRequest (confluent (decl 1 1 1) holding [0, 1, 4, 0, 0x10003, 0]) =
    some ([], [.fill 0 1 4 (BitVec.ofNat 512 (0x77 + 2 ^ 64 * (1 + 2 ^ 64 * (2 + 2 ^ 64 * (3 + 2 ^ 64 * (4 + 2 ^ 64 * 0x181))))))]) := by decide +kernel
theorem test_pop_empty : slice3 .cqPopRequest (confluent (decl 1 1 1) { confq := [(3, queue3)] } [0, 1, 4, 0, 0x10003, 0]) = some ([], [.fill 0 1 4 0]) := by decide +kernel
theorem test_pop_waits : after .cqPopRequest (confluent (decl 1 1 0) { confq := [(3, queue3)] } [0, 1, 4, 0, 0x10003, 0])
    (fun t => (t.cluster 0).pops.length == 1 && t.agenda == []) = true := by decide +kernel
theorem test_select : after .confluenceSelect (confluent (decl 1 0 1) holding []) (fun t => (t.cluster 0).conf == [] &&
      ((t.cluster 0).ready.map fun e => (e.body.pc, e.body.args)) == [(0x20, [1, 2, 3, 4])]) = true ∧
    after .cqDeclarationArrival { confluent (decl 1 0 1) { holding with held := [{ who := 0, ins := .cqPushArrival }] } [2] with cur := 3 }
      (fun t => (t.cluster 0).conf == [] && ((t.cluster 0).confQueue 3).gen == 2 && t.agenda.map Op.ins == [.cqPushArrival]) = true := by decide +kernel

theorem meets_ConfluenceRules_ConfluenceForms : runs uDA (ops 3 10 0) (confluent (decl 1 0 1) {} []) (fun v s => v.a == 0x80 &&
      let w := wordsAt s 0x80 4; !declBad (w.getD 0 0) (w.getD 1 0) (w.getD 2 0) (w.getD 3 0)) = true ∧
    (((confluent (decl 1 0 1) {} []).part 0).decl 0).live = false ∧
    runs { d := .g, dDst := true, a := .g, b := .g, extra := [4, 5, 6, 7] } (ops 3 8 9) (confluent (decl 1 0 1) {} []) (fun v _ => bits v.a 63 32 == 0 && bits v.a 15 6 == 0) = true ∧
    queueUnit.outst = [] ∧ runs { d := .g, dDst := true, a := .g, extra := [4, 5, 6, 7, 9] } (ops 3 8 0) (confluent (decl 1 1 1) {} []) = true ∧
    runs uDAB (ops 3 8 0) (confluent (decl 1 0 1) {} []) (fun v s => currentDecl s 0 v.a == some (3, decl 1 0 1)) = true ∧
    runs { d := .g, dSrc := true, dDst := true, dPair := true, a := .g, aPair := true } (ops 2 4 0) ints = true := by decide +kernel
theorem meets_ConfluenceRules_ConfluenceForms_block : LocalOk (confluent (decl 1 0 1) {} []) 0x80 32 true false := by constructor <;> decide +kernel
theorem meets_ConfluenceRules_ConfluenceEvents : currentDecl (confluent (decl 1 0 1) holding (pushData 0x77)) 0 0x10003 = some (3, decl 1 0 1) ∧ (holding.confQueue 3).gen = (decl 1 0 1).gen ∧
    queueFull holding 3 (decl 1 0 1) = false ∧ queueFull holding 3 { decl 1 0 1 with w2 := 1 } = true ∧ (decl 1 0 1).op = 1 ∧ (decl 1 0 1).policy = 1 ∧ (decl 1 1 0).policy = 0 ∧
    ((holding.queue 3).find? fun r => r.key == 0x77 && !r.isSealed && !r.cont) = some (confRec 0x77) ∧
    popChoice (confluent (decl 1 1 1) holding []) holding 0 3 = some (confRec 0x77) ∧ Sp.find holding.conf 0 = some (confRec 0x77) ∧
    popChoice (confluent (decl 1 1 1) {} []) { confq := [(3, queue3)] } 0 3 = none := by decide +kernel
theorem meets_ConfluenceRules_ConfluenceEvents_select : let s := confluent (decl 1 0 1) holding []
    let k := s.cluster 0
    popStale s 0 k = none ∧ popReady s 0 k = none ∧ sealedTask s 0 0 k = none ∧ k.selected ≠ s.now + 1 ∧ chainOf k (confRec 0x77) = [confRec 0x77] ∧
      (k.queue 3).find? (fun q => q.isSealed) = none ∧ ((List.range 64).all fun j => k.sealedHead j == none) = true ∧
      selectQueue s 0 k = some (3, confRec 0x77) ∧ enqueueRoom s 0 0 5 = true := by decide +kernel
theorem meets_ConfluenceRules_ConfluenceEvents_stale : let p : ParkedPop := { part := 0, qid := 3, slot := 0, gen := 1, tag := 4, since := 0, qgen := 7 }
    let s := confluent (decl 1 1 0) { holding with pops := [p] } []
    popStale s (s.partOf 0) (s.cluster 0) = some p := by decide +kernel

/-! ## Counters and timers -/

/-- g4 = 0x40, g5 = 3, g6 = 0x40 in cluster 0, g7 a counter's name; at 0x40 the sync word with target 5, count 3, generation 7, armed. -/
def countUnit : Slot := { unit with g := [(4, 0x40), (5, 3), (6, 0x40), (7, 2), (8, 8), (9, 1)] }
def counted (t : Slot := countUnit) (k : Cluster := {}) (l : List Host.Cell := wordCells 0x40 [5 + 3 * 2 ^ 32, 7 + 2 ^ 32]) : State :=
  { slots := [(0, t)], parts := [(0, { live := true, clusters := [0] })], mem := l, clusters := [(0, { k with part := some 0, seg := [(0, 0x1FFE00000000)] })] }

theorem test_counter_forms : g 3 (.time (ops 3 0 0)) { counted with now := 3000 } = some 0x700 ∧ sentOp (.twrel (ops 3 5 6)) counted = some (.fill 0 1 10 0) ∧
    after (.twrel (ops 3 5 6)) counted (fun t => (t.dev 0).wheel.map Release.time == [3]) = true ∧ stored 0x40 (.swinit (ops 5 4 8)) counted = some 3 ∧
    g 3 (.swwait (ops 3 4 5)) counted = some 0x100000007 ∧ waits (.answer 4) (.swwait (ops 3 4 8)) counted = true ∧
    g 3 (.swwait (ops 3 4 8)) (counted { countUnit with waitpol := 2 }) = some 0x8000000100000007 := by decide +kernel
theorem test_counter_sends : sentOp (.swadd (ops 0 4 5)) counted = some (.releaseSend 0 1 6) ∧ sentOp (.dcdec (ops 0 7 5)) counted = some (.releaseSend 0 1 6) ∧
    sentOp (.dcset (ops 6 7 5)) counted = some (.dcSetArrival 0 2 3 0x40 5 0 0 1 6) ∧ sentOp (.bar (ops 3 4 0)) counted = some (.barrierArrival 0 0x40 0 1 6 false) ∧
    sentOp (.phflip (ops 0 0 0)) counted = some .phflipArrival := by decide +kernel
theorem test_quiet : waits (.answer 4) (.quiet (ops 3 0 0)) counted = true ∧ g 3 (.quiet (ops 3 0 0)) (counted { countUnit with waitpol := 2 }) = some (-1) ∧
    g 3 (.quiet (ops 3 0 0)) { counted with parts := [(0, { live := true, clusters := [0], quiet1 := true })] } = some 1 := by decide +kernel
theorem test_counter_traps : trapOf (.swadd (ops 0 8 5)) counted = some (3, 8, 0) ∧ trapOf (.dcset (ops 5 7 5)) counted = some (3, 3, 0) ∧
    trapOf (.bar (ops 3 8 0)) counted = some (3, 8, 0) ∧ trapOf (.bar (ops 3 4 0)) (counted { countUnit with guardPend := true }) = some (8, 0, 0) ∧
    trapOf (.swinit (ops 5 8 8)) counted = some (3, 8, 0) ∧ trapOf (.twrel (ops 3 5 8)) counted = some (3, 8, 0) := by decide +kernel

theorem test_sync_word : bytesAt 0x40 (.syncWordUpdate { access .swadd 1 0x40 with d0 := 1 } 0) counted = some (5 + 4 * 2 ^ 32) ∧
    bytesAt 0x40 (.syncWordUpdate { access .swadd 1 0x40 with d0 := 2 } 0) counted = some 5 ∧ bytesAt 0x48 (.syncWordUpdate { access .swadd 1 0x40 with d0 := 2 } 0) counted = some 0x100000008 ∧
    bytesAt 0x48 (.syncWordUpdate { access .swadd 1 0x40 with d0 := 3 } 0) counted = some 0x300000008 := by decide +kernel

/-- A dependence counter of cluster 0 with a count of 3, and its record at 0x80. -/
def depCount : DepCount := { level := 5, count := 3, armed := true, record := 0x80 }
def dependent (l : List Firing := []) : State := { counted countUnit { dc := [(2, depCount)], firing := l } (wordCells 0x80 [0x20, 5, 9, 0, 1, 2, 3, 4]) with data := [1] }
def firing : Firing := { id := 1, idx := 2, addr := 0x80, level := 5, home := 0, phase := false }
def counter2 (i : Instr) (s : State) : Option (DepCount × List W64) :=
  match exec i s with
  | .next t => some ((t.cluster 0).counter 2, (t.cluster 0).firing.map Firing.addr)
  | _ => none

theorem test_dependence : [counter2 (.dcDecrement 0 2 1 0 1 8) dependent, counter2 (.dcDecrement 0 2 3 0 1 8) dependent, counter2 (.dcDecrement 0 2 4 0 1 8) dependent,
    counter2 (.dcSetArrival 0 2 0 0xC0 5 0 0 1 8) dependent, counter2 (.dcSetArrival 0 2 9 0xC0 5 0 0 1 8) dependent] =
    [some ({ depCount with count := 2 }, []), some ({ depCount with count := 0, armed := false }, [0x80]), some ({ depCount with count := 0, under := true }, []),
     some ({ level := 5, record := 0xC0 }, [0xC0]), some ({ level := 5, count := 9, armed := true, record := 0xC0 }, [])] := by decide +kernel
theorem test_fire : after .dcFire (dependent [firing]) (fun t => (t.agenda.map fun o => match o.ins with
    | .recordEnqueue c r => (c, r.pc, r.corr, r.args)
    | _ => (9, 0, 0, [])) == [(0, 0x20, 9, [1, 2, 3, 4])] && (t.cluster 0).firing == []) = true := by decide +kernel

/-- A barrier object at 0x40: 2 parties, `n` arrived, generation 7; the unit waits with tag 4. -/
def barred (n : Nat) : State :=
  { counted { countUnit with outst := [{ entry with dests := [3], len := 1 }], st := .waiting (.answer 4) } {} (wordCells 0x40 [2 + n * 2 ^ 32, 7]) with
    cores := [(0, { prot := [(0, 0), (1, 0x80000), (2, 0x61)] })] }
theorem test_barrier : after (.barrierArrival 0 0x40 0 1 4 false) (barred 1) (fun t => barFields t 0x40 == (2, 0, 8, false) && t.agenda.map Op.ins == [.fill 0 1 4 7]) = true ∧
    after (.barrierArrival 0 0x40 0 1 4 false) (barred 0) (fun t => barFields t 0x40 == (2, 1, 7, false) && t.barWait.length == 1) = true ∧
    after (.barrierDeparture 0 0x40 0 1 7) (barred 1) (fun t => barFields t 0x40 == (1, 0, 7, true)) = true ∧
    after (.barrierDeparture 0 0x40 0 1 6) (barred 1) (fun t => barFields t 0x40 == (1, 0, 8, false)) = true := by decide +kernel
theorem test_phases : after .phflipArrival { counted with data := [0, 1, 4] } (fun t => (t.part 0).tag && t.agenda.map Op.ins == [.accessAcknowledge 0 1 4]) = true ∧
    after .phaseSweep { counted with nis := [(0, { sent0 := 3, recv0 := 3, sent1 := 1 })], parts := [(0, { live := true, clusters := [0], sweep := some { sent0 := 3, recv0 := 3, sent1 := 1, recv1 := 0 } })] }
      (fun t => (t.part 0).quiet0 && !(t.part 0).quiet1) = true := by decide +kernel

/-- A release of the wheel at 0x300. -/
def release : Release := { time := 0x300, body := task 0x20 [], cluster := 0, part := 0 }
def wheeled (now : Nat) (data : List W64) : State := { counted with now := now, data := data, devs := [(0, { wheel := [release], newStagger := some 0x100, epoch := 2 })] }
/-- The same after it fell due. -/
def fallen (data : List W64) : State := { wheeled 1640 data with devs := [(0, { wheel := [{ release with fell := some 0x300 }] })] }
theorem test_timers : after .timerTick (wheeled 1640 []) (fun t => (t.dev 0).stagger == 0x100 && t.due.map Op.ins == [.timerRelease]) = true ∧
    after .timerTick (wheeled 1630 []) (fun t => t.due == []) = true ∧
    after .timerRelease (fallen [0x300]) (fun t => (t.dev 0).wheel == [] && ((t.cluster 0).ready.map fun e => e.body.pc) == [0x20]) = true ∧
    after .stagger (wheeled 0 [0x100000000003, 3, 1]) (fun t => (t.dev 0).epoch == 3 && (t.dev 0).newStagger == some 0) = true ∧
    after .stagger (wheeled 0 [0x100000000003, 2, 1]) (fun t => (t.dev 0).newStagger == some 0x100) = true ∧
    after .stagger (wheeled 0 [0x100000000003, 3]) (fun t => t.agenda.length == 1024 && (t.dev 0).epoch == 2) = true := by decide +kernel
/-- The clock of a device that knows two masters, that of rank 9 no longer; its delay request left at 4900. -/
def clocked (data : List W64) : State := { counted with now := 1600, data := data, devs := [(0, {
    masters := [{ rank := 9, until_ := 1000 }, { rank := 7, until_ := 2000 }, { rank := 8, until_ := 2000 }], delayReq := some 4900, sync21 := 60 })] }
theorem test_ptp : after .ptpMessage (clocked [1, 7, 5000, 0]) (fun t => t.ptpTime 0 == 5000 && (t.dev 0).master && (t.dev 0).delayReq == some 5000) = true ∧
    after .ptpMessage (clocked [1, 8, 5000, 0]) (fun t => !(t.dev 0).master && (t.dev 0).delayReq == some 4900) = true ∧
    after .ptpMessage (clocked [2, 7, 4940]) (fun t => (t.dev 0).delay == 50 && (t.dev 0).delayReq == none) = true ∧
    after .ptpMessage (clocked [0, 3, 100]) (fun t => bestMaster t 0 == some 3) = true ∧
    after .ptpMasterLoss (clocked []) (fun t => !(t.dev 0).master && bestMaster t 0 == none) = true := by decide +kernel

theorem meets_CounterForms : runs uD (ops 3 0 0) counted = true ∧
    runs uDAB (ops 3 5 6) counted (fun v s => bits v.b 31 19 == 0 && bits v.b 63 39 == 0 && bits v.b 18 0 == 0x40 && s.physCluster 0 (bits v.b 38 32) == some 0) = true ∧
    runs { d := .g, dSrc := true, a := .g, b := .g } (ops 5 4 8) counted (fun v _ => v.a == 0x40) = true ∧ runs uDAB (ops 3 4 5) counted (fun v _ => v.a == 0x40) = true ∧
    runs uAB (ops 0 4 5) counted (fun v s => v.a == 0x40 && s.target 0 0 1 v.a == some (.scratch 0 0x40) && s.entryFree 0 false) = true ∧
    runs uAB (ops 0 7 5) counted (fun v s => bits v.a 63 19 == 0 && (s.physCluster 0 (bits v.a 18 12)).isSome) = true ∧
    runs { d := .g, dSrc := true, a := .g, b := .g } (ops 6 7 5) counted (fun v _ => v.d == 0x40) = true ∧
    runs uDA (ops 3 4 0) counted (fun v s => s.globalTarget 0 v.a == some (.scratch 0 0x40) && v.a.toNat % 32 == 0) = true ∧ runs uNone (ops 0 0 0) counted = true := by
  decide +kernel
theorem meets_CounterForms_line : LocalOk counted 0x40 64 true false ∧ LocalOk counted 0x40 16 true true := by constructor <;> constructor <;> decide +kernel
theorem meets_CounterAndTimerEvents_CounterEvents_sync : AtCore counted (access .swadd 1 0x40) 16 0 0x40 := by constructor <;> decide +kernel
theorem meets_CounterAndTimerEvents_CounterEvents : dependent.physCluster 0 (2 / 4096) = some 0 ∧ Sp.find dependent.copies 8 = none ∧ (dependent.arr 0).rtag ≠ some 8 ∧
    ((dependent [firing]).cluster 0).firing.find? (fun f => f.id == 1) = some firing ∧ (dependent [firing]).linkFrom 0 (bits (0x80 : W64) 55 46) = true ∧
    ((dependent [firing]).homeOf { slot := 2 ^ 31, gen := 0, part := 0, level := 5, own := false } 0x80 64 true false).2 = .loc (.scratch 0 0x80) 0x80 := by decide +kernel
theorem meets_CounterAndTimerEvents_CounterEvents_barrier : (barred 1).hasEntry 0 1 4 = true ∧ (barred 1).globalTarget 0 0x40 = some (.scratch 0 0x40) ∧
    (((barred 1).deliverTag 0 4).homeOf (((barred 1).deliverTag 0 4).unitAccessor 0 0) 0x40 32 true true).2 = .loc (.scratch 0 0x40) 0x40 ∧
    registration ((barred 1).slot 0) 0x40 = none ∧ (counted.part 0).live = true ∧
    (departureHome (barred 1) 0 0x40 0 1 5).2 = .loc (.scratch 0 0x40) 0x40 ∧
    (departureHome { barred 1 with clusters := [(0, { part := some 0 })] } 0 0x40 0 1 5).2 = .refused 4 := by decide +kernel
theorem meets_CounterAndTimerEvents_TimerEvents : (([] : List W64).headD 0).toNat ≤ ((wheeled 1640 []).ptpTime 0).toNat / 256 ∧
    ((wheeled 1640 []).ptpTime 0).toNat / 256 < 100 ∧ release.fell = none ∧ release.time.toNat + 0x100 ≤ ((wheeled 1640 []).ptpTime 0).toNat / 256 * 256 ∧
    ((wheeled 1640 []).ptpTime 0).toNat / 256 * 256 < release.time.toNat + 0x100 + 256 ∧
    (((fallen [0x300]).dev 0).wheel.find? fun r => r.fell == some 0x300) = some { release with fell := some 0x300 } ∧
    enqueueRoom (fallen [0x300]) 0 0 5 = true ∧ enqueueRoom { fallen [0x300] with levels := [(0x1000200030004, { outstanding := 2 ^ 32 - 1 })] } 0 0 0x1000200030004 = false ∧
    ((wheeled 1640 []).cluster 0).ready.length < 4096 ∧
    bestMaster (clocked [1, 7, 5000, 0]) 0 = some 7 ∧ ((clocked [2, 7, 4940]).dev 0).delayReq = some 4900 := by decide +kernel

/-! ## Levels -/

/-- A launch, and the graph above it. -/
def lv : W64 := 0x1000200030004
def gr : W64 := 0x1000200030000
/-- g4 names the launch of the units of slots 0 and 1, which has 3 units under way; g5 = 1, g6 = 2^32, g10 a level that is not live; its graph has 2. -/
def levelUnit : Slot := { unit with level := lv, g := [(4, lv), (5, 1), (6, 0x100000000), (7, 3), (10, 0x1000200030007)] }
def levelled (t : Slot := levelUnit) (l : Level := { outstanding := 3, parent := gr }) (a : List Op := []) : State :=
  { slots := [(0, t), (1, { unit with gen := 9, level := lv })], parts := [(0, { live := true, clusters := [0] })], agenda := a,
    clusters := [(0, { part := some 0, seg := [(0, 0x1FFE00000000)] })], levels := [(gr.toNat, { outstanding := 2 }), (lv.toNat, l)] }
/-- What a level counts after an instruction, and the last thing in flight. -/
def counts (h : Nat) (i : Instr) (s : State) : Option (Option (Nat × Nat) × Option Instr) :=
  match exec i s with
  | .next t => some ((Sp.find t.levels h).map (fun l => (l.outstanding, l.errors)), (t.agenda.getLast?).map Op.ins)
  | _ => none
def update (add : Bool) (n err : Nat) (tag : Nat := 4) : LevelUpd :=
  { part := 0, level := lv, add := add, n := n, err := err, slot := 0, gen := 1, tag := tag, ack := true, addr := lv }

theorem test_level_forms : sentOp (.lvinc (ops 0 4 5)) levelled = some (.levelUpdate (update true 1 0 6)) ∧
    sentOp (.lvdec (ops 0 4 5)) levelled = some (.levelUpdate (update false 1 0 6)) ∧ g 3 (.lvwait (ops 3 10 0)) levelled = some 0x1000000000000 ∧
    g 3 (.lvwait (ops 3 4 0)) (levelled { levelUnit with waitpol := 2 }) = some (-1) ∧ waits (.answer 6) (.lvwait (ops 3 4 0)) levelled = true ∧
    waits .released (.lvdec (ops 0 4 5)) (levelled { levelUnit with outst := [entry] }) = true := by decide +kernel
theorem test_level_traps : trapOf (.lvinc (ops 0 4 6)) levelled = some (0x16, 0x100000000, 0) ∧ trapOf (.lvdec (ops 0 4 6)) levelled = some (0x16, 0x100000000, 0) ∧
    trapOf (.lvwait (ops 3 9 0)) levelled = some (0x16, 0, 0) ∧ trapOf (.persist (ops 0 6 0)) levelled = some (0x16, 0x100000000, 0) := by decide +kernel
theorem test_level_cancel : after (.lvcancel (ops 0 4 0)) levelled (fun t => (Sp.find t.levels lv.toNat).map Level.cancelled == some true &&
      (Sp.find t.levels gr.toNat).map Level.cancelled == some false &&
      (t.slot 0).cancel && t.agenda.map Op.ins == [.asyncCauseDelivery 1 9 0, .fill 0 1 6 0]) = true := by decide +kernel
theorem test_persist : after (.persist (ops 0 7 0)) levelled (fun t => (Sp.find t.levels lv.toNat).map (fun l => (l.persistwin, l.beat)) == some (0x100000003, 0) &&
      (Sp.get [] t.timers 1024).map Op.ins == [.heartbeatTick]) = true ∧
    after (.beat (ops 0 0 0)) (levelled levelUnit { outstanding := 3, persistwin := 0x100000003, beat := 2 }) (fun t => (Sp.find t.levels lv.toNat).map Level.beat == some 0 &&
      t.agenda.map Op.ins == [.accessAcknowledge 0 1 6]) = true := by decide +kernel
theorem test_exit : after (.exit (ops 0 0 0)) levelled (fun t => (t.slot 0).st == .idle && t.agenda.map Op.ins == [.levelUpdate { update false 1 0 with tag := 0, ack := false, addr := 0 }])
    = true ∧
    after (.exit (ops 0 0 0)) (levelled { levelUnit with region := some 5 }) (fun t => (t.agenda.map Op.ins).contains (.levelUpdate { update false 1 1 with tag := 0, ack := false, addr := 0 }))
    = true ∧ waits .settled (.exit (ops 0 0 0)) (levelled { levelUnit with outst := [entry] }) = true := by decide +kernel
theorem test_yield : after (.yield (ops 0 0 0)) levelled (fun t => (t.slot 0).pc == 17 && (t.slot 0).st == .ready && (t.core 0).count.framefull == 1) = true := by decide +kernel

theorem test_level_update : counts lv.toNat (.levelUpdate (update true 4 0)) levelled = some (some (7, 0), some (.fill 0 1 4 0)) ∧
    counts lv.toNat (.levelUpdate (update false 2 1)) levelled = some (some (1, 1), some (.fill 0 1 4 0)) ∧
    counts lv.toNat (.levelUpdate (update false 3 1)) levelled = some (none, some (.fill 0 1 4 0)) ∧
    counts gr.toNat (.levelUpdate (update false 3 1)) levelled = some (some (1, 1), some (.fill 0 1 4 0)) := by decide +kernel
theorem test_level_refused : counts lv.toNat (.levelUpdate (update true 0xFFFFFFFD 0)) levelled = some (some (3, 0), some (.refusalArrival 0 1 4 0x16 lv)) ∧
    counts lv.toNat (.levelUpdate { update true 1 0 with level := 0x1000200030007 }) levelled = some (some (3, 0), some (.refusalArrival 0 1 4 0x16 lv)) := by decide +kernel
theorem test_level_done : after (.levelUpdate (update false 3 0)) (levelled levelUnit { outstanding := 3, errors := 2, waiters := [{ slot := 1, gen := 9, tag := 8 }] })
    (fun t => t.agenda.map Op.ins == [.levelUpdate { update false 0 0 0 with level := lv, gen := 0, ack := false, addr := 0, clear := true }, .fill 1 9 8 0x1000200000000,
      .fill 0 1 4 0]) = true := by decide +kernel
/-- A launch that must beat within 2 ticks. -/
def beating (n : Nat) (t : Slot := levelUnit) : State := { levelled t { outstanding := 3, persistwin := 0x100000002, beat := n } with cur := lv.toNat }
theorem test_heartbeat : after .heartbeatTick (beating 0) (fun t => (Sp.find t.levels lv.toNat).map Level.beat == some 1 && t.due == [] && (Sp.get [] t.timers 1024).map Op.ins == [.heartbeatTick])
    = true ∧ after .heartbeatTick (beating 1) (fun t => (Sp.get [] t.timers 1).map Op.ins == [.heartbeatExpiry]) = true ∧
    after .heartbeatExpiry (beating 2) (fun t => t.agenda.map Op.ins == [.asyncCauseDelivery 0 1 2, .asyncCauseDelivery 1 9 2]) = true := by decide +kernel
theorem test_async : trapOf .asyncCauseTaken (levelled { levelUnit with cancel := true, arAbort := true, wdog := true }) = some (0x0E, 0, 0) ∧
    trapOf .asyncCauseTaken (levelled { levelUnit with arAbort := true, wdog := true }) = some (0x0B, 0, 0) ∧
    trapOf .asyncCauseTaken (levelled { levelUnit with wdog := true }) = some (0x0D, 0, 0) ∧
    after (.asyncCauseDelivery 1 9 0) levelled (fun t => (t.slot 1).cancel && !(t.slot 0).cancel) = true ∧
    trapOf .asyncCauseTaken (levelled { levelUnit with tabFail := true }) = some (0x0C, 0, 3) ∧ after (.asyncCauseDelivery 1 9 3) levelled (fun t => (t.slot 1).tabFail) = true ∧
    after (.asyncCauseDelivery 1 8 0) levelled (fun t => !(t.slot 1).cancel) = true := by decide +kernel
/-- A unit that has waited for a register since cycle 0, with a limit or watched. -/
def timed (l : Option Nat) : State :=
  { levelled { levelUnit with st := .waiting (.reg 3), fe := [(3, true)], attempt := some { since := 0, id := 7, limit := l, info := 6, watched := if l.isNone then some 0 else none } } with
    now := 0x100000 }
theorem test_expiry : trapOf (.waitTimeout 0 1 7) (timed (some 9)) = some (9, 0, 6) ∧ trapOf (.watchdog 0 1 7) (timed none) = some (0x0D, 0, 0) ∧
    after (.waitTimeout 0 1 8) (timed (some 9)) (fun t => (t.slot 0).st == .waiting (.reg 3)) = true ∧
    after (.watchdog 0 1 7) { timed none with now := 0xFFFFF } (fun t => (t.slot 0).st == .waiting (.reg 3) && (Sp.get [] t.timers 0x100000).length == 1) = true := by
  decide +kernel

theorem meets_SystemRead_level : levelled.liveLevel (levelled.slot 0).home (levelled.slot 0).level = some { outstanding := 3, parent := gr } ∧
    ints.liveLevel (ints.slot 0).home (ints.slot 0).level = none ∧ (ints.dev 0).slow = 0 ∧ slotDev 0 < 1024 ∧ (ints.cluster 0).rel < 128 := by decide +kernel
theorem meets_LevelRules_LevelForms : runs uAB (ops 0 4 5) levelled (fun v _ => decide (v.b.toNat < 2 ^ 32)) = true ∧ (levelUnit.outst.all fun o => !o.write) = true ∧
    runs uAB (ops 0 4 5) (levelled { levelUnit with outst := [entry] }) (fun _ s => (s.slot 0).outst.any fun o => o.write) = true ∧
    runs uDA (ops 3 10 0) levelled (fun v s => levelNames v.a && (s.liveLevel 0 v.a).isNone) = true ∧
    runs uDA (ops 3 4 0) levelled (fun v s => levelNames v.a && (s.liveLevel 0 v.a).isSome && (s.slot 0).waitMode == 0) = true ∧
    runs uDA (ops 3 4 0) (levelled { levelUnit with waitpol := 2 }) (fun v s => (s.liveLevel 0 v.a).isSome && (s.slot 0).waitMode == 2) = true := by decide +kernel
theorem meets_LevelRules_LevelForms_cancel : runs uA (ops 0 4 0) levelled (fun v s => (s.liveLevel 0 v.a).isSome && (s.levels.any fun l => l.1 / 2 ^ 64 == 0 && levelCovers v.a (BitVec.ofNat 64 l.1)) &&
      !(unitsUnder s 0 v.a).isEmpty) = true ∧ runs uA (ops 0 10 0) levelled (fun v s => (s.liveLevel 0 v.a).isNone) = true ∧
    runs uNone (ops 0 0 0) levelled (fun _ s => s.entryFree 0 false && (s.liveLevel 0 lv).isSome) = true ∧
    runs uNone (ops 0 0 0) (levelled { levelUnit with region := some 5 }) = true ∧ levelUnit.outst = [] ∧ levelUnit.stack = [] ∧ levelUnit.region = none ∧ levelUnit.pool = 0 ∧
    runs uNone (ops 0 0 0) (levelled { levelUnit with outst := [entry] }) = true := by decide +kernel
theorem meets_LevelRules_LevelEvents : levelled.liveLevel 0 lv = some { outstanding := 3, parent := gr } ∧ levelled.liveLevel 0 0x1000200030007 = none ∧ levelled.liveLevel 0 gr = some { outstanding := 2 } ∧
    Sp.find (beating 0).levels lv.toNat = some { outstanding := 3, persistwin := 0x100000002, beat := 0 } ∧ (beating 0).now = 0 ∧ (beating 0).clusters.all (fun c => !c.2.dbgctl.getLsbD 0) = true ∧
    (0, 1) ∈ unitsUnder (beating 2) 0 lv ∧ unitsUnder { beating 2 with slots := [] } 0 lv = [] ∧ levelNames lv = true := by decide +kernel
theorem meets_LevelRules_LevelEvents_waits : waitStands (timed (some 9)) 0 1 7 = true ∧ arrivalFlying (timed (some 9)) 0 1 = false ∧ waitStands (timed none) 0 1 7 = true ∧
    (((timed none).slot 0).attempt.bind Attempt.watched) = some 0 ∧ 0 + ((timed none).part 0).wdogwin.toNat ≤ (timed none).now ∧ (timed none).persistWin 0 = 0 := by
  decide +kernel

/-! ## Contexts -/

/-- Cluster 0 has a pool at 0x4000 with 4 frames, all free; slot 1 is idle. -/
def pooled (t : Slot) (l : List Host.Cell := [(0x4000, 0xF), (0x4008, 3)]) : State :=
  { slots := [(0, t)], parts := [(0, { live := true, clusters := [0], faultCore := some 0 })], mem := l, now := 70000,
    clusters := [(0, { part := some 0, seg := [(0, 0x1FFE00000000)] })] }
def poolUnit : Slot := { unit with g := [(4, 11), (5, 12)], v := [(1, 99)], k := [(2, 3)], fe := [(5, true)], pool := 0x4000, retired := 8 }
/-- The same with an access that has met a fault on page 3. -/
def faulted (p : W64) : State := pooled { poolUnit with pool := p, stopped := true, outst := [{ entry with reply := some (.fault 3), acc := some (access (.st 8) 3 0x100000000030000) }] }

theorem test_save : after .preemptionForced (pooled poolUnit) (fun t => (t.slot 0).st == .idle && ((t.slot 0).saved.map fun c => (c.gen, c.frame, c.fault)) == [(1, 0, false)]) = true ∧
    after .preemptionForced (pooled { poolUnit with pool := 0 }) (fun t => (t.slot 0).st == .ready && (t.core 0).count.framefull == 1) = true := by decide +kernel
/-- A context in frame 1: PC 16, g1 to g3 and k7 EMPTY, GEN 1, TRAPVEC 0x40, RETIRED 8, g4 = 11, k2 = 3, v1 = 99; woken or not. -/
def savedCtx : Saved :=
  { pool := 0x4000, frame := 1, ext := none, gen := 1, level := 5, home := 0, part := 0, fault := true, pages := [3], time := 0, wake := none, cancel := false, arAbort := false, wdog := false,
    region := none, voted := false, phase := false, source := 0, enq := 0, deq := 0, trapvec := 0, ist := [], tags := [], back := .ready, attempt := none, first := 0x77 }
def frame1 (i : Nat) (w : Nat) : List Host.Cell := wordCells (0x4840 + 8 * i) [w]
def savedState (w : Option (Nat × Bool)) : State :=
  pooled { st := .idle, genNext := 4, saved := [{ savedCtx with wake := w }] } (wordCells 0x4000 [0xD, 3] ++ frame1 0 16 ++ frame1 2 (2 ^ 46 - 16) ++ frame1 4 1 ++ frame1 12 0x40 ++
    frame1 17 8 ++ frame1 36 11 ++ frame1 57 3 ++ frame1 72 99)
theorem test_restore : after .contextRestore (savedState (some (1, true))) (fun t => let r := t.slot 0
      r.st == .ready && r.pc == 16 && r.gen == 1 && r.getG 4 == 11 && r.getK 2 == 3 && r.empty 3 && !r.empty 4 && r.retired == 8 && r.saved.isEmpty) = true := by decide +kernel
theorem test_restore_vector : after .contextRestore (savedState (some (1, true))) (fun t => (t.slot 0).getV 1 == 99 && t.read 0x4000 8 == 0xF && (t.slot 0).genNext == 4) = true := by
  decide +kernel
theorem test_restore_denied : trapOf .contextRestore (savedState (some (1, false))) = some (0x16, 0x77, 0) := by decide +kernel
theorem test_fault_save : after .faultSave (faulted 0x4000) (fun t => (t.slot 0).st == .idle && ((t.slot 0).saved.map fun c => (c.fault, c.pages)) == [(true, [3])] &&
      (t.agenda.map Op.ins) == [.faultRecordAtRouter 0 0 { part := 0, page := 3, slot := 0, gen := 1, engine := 0, id := 0 }]) = true ∧
    after .faultSave (faulted 0) (fun t => (t.slot 0).st == .suspended .fault && (t.slot 0).pages == [3]) = true := by decide +kernel

/-- Where a word of a core's ring stands. -/
def ringLoc (core : Nat) (w : W64) (i : Nat) : Nat := scratchLoc core (ringOff w i)
/-- A record in the ring of class 0 of core 0 at 0x30000 whose slot 0 is idle. -/
def started (h : Nat) : State :=
  let w0 := (({} : Core).cls 0)
  { slots := [(0, { genNext := 7, stktop := 0x7000 })], parts := [(0, { live := true, clusters := [0] })], clusters := [(0, { part := some 0 })],
    cores := [(0, { tails := [(0, 9)], entries := [(0, { level := 5, key := 1, header := 2, source := 1 })] })],
    mem := wordCells (ringLoc 0 w0 0) [h, 0x20, 5, 77, 0, 21, 22, 23, 24] }
theorem test_start : after .unitStart (started 0x901) (fun t => let r := t.slot 0
      r.st == .ready && r.pc == 0x20 && r.gen == 7 && r.genNext == 8 && r.level == 5 && r.corr == 77 && [2, 4, 5, 6, 7, 8, 9, 3].map r.getG == [0x7000, 21, 22, 23, 24, 1, 2, 0] &&
      (t.core 0).head 0 == 9) = true ∧
    after .unitStart (started 0x402) (fun t => let r := t.slot 0
      r.pc == 0x20 && r.level == 5 && [4, 5, 6].map r.getG == [5, 77, 0] && (t.core 0).head 0 == 4) = true ∧
    after .unitStart (started 0x600000402) (fun t => (t.slot 0).st == .idle && (t.core 0).count.gendrop == 1 && (t.core 0).head 0 == 4) = true ∧
    after .unitStart (started 0x900) (fun t => (t.slot 0).st == .idle && (t.core 0).head 0 == 9) = true := by decide +kernel

/-- A record of class 1, which core 0 alone takes in its slot 0, has waited. -/
def asking (t : Slot) : State :=
  { slots := [(0, t)], parts := [(0, { live := true, clusters := [0] })], data := [3], cores := [(0, { classes := [(1, 0x8300000)] })],
    clusters := [(0, { part := some 0, ready := [{ seq := 3, since := 0, pri := 2, raised := false, ask := none, body := { task 0x20 [] with cls := 1 } }] })] }
theorem test_preempt_request : after .preemptRequest (asking { unit with pri := 1 }) (fun t => (t.slot 0).preempt == some 0 && ((t.cluster 0).ready.map ReadyRec.ask) == [some 0]) = true ∧
    after .preemptRequest (asking { unit with pri := 2 }) (fun t => (t.slot 0).preempt == none && (Sp.get [] t.timers 4096).length == 1) = true ∧
    after .preemptRequest (asking {}) (fun t => (t.slot 0).preempt == none && (Sp.get [] t.timers 4096).length == 1) = true := by decide +kernel

theorem meets_ContextAndFaultEvents_ContextEvents : ((faulted 0).slot 0).pool = 0 ∧ faultPages (faulted 0) ((faulted 0).slot 0) = [3] ∧ (restoreChoice (savedState (some (1, true))) 0).isSome = true ∧
    ((restoreChoice (savedState (some (1, true))) 0).bind (readFrames (savedState (some (1, true))) 0)).isSome = true ∧ ((restoreChoice (savedState (some (1, true))) 0).map Saved.wake) = some (some (1, true)) ∧
    ((restoreChoice (savedState (some (1, false))) 0).map Saved.wake) = some (some (1, false)) ∧
    ((restoreChoice (savedState (some (1, false))) 0).bind (readFrames (savedState (some (1, false))) 0)).map (fun r => (imgWord r.2.1 12, (imgWord r.2.1 9).testBit 8)) =
      some (0x40, false) := by decide +kernel
theorem meets_ContextAndFaultEvents_ContextEvents_start : (started 0x901).slotEntry 0 = some (0, 0, 0x901) ∧ (started 0x402).slotEntry 0 = some (0, 0, 0x402) ∧
    ([0x901, 0x402].all fun h => (started h).wakeEntry 0 == none && (started h).padClass 0 == none && ((started h).slot 0).st == .idle) = true ∧
    (started 0x600000402).wakeEntry 0 = some (0, 0, 0x600000402) ∧
    ({ started 0x600000402 with slots := [(0, { unit with gen := 6 })] } : State).wakeEntry 0 = some (0, 0, 0x600000402) ∧
    (started 0x900).wakeEntry 0 = none ∧ (started 0x900).padClass 0 = some 0 ∧ clsSlot (((started 0x901).core 0).cls 0) = 0 ∧
    Sp.get ({} : EntryInfo) ((started 0x901).core 0).entries 0 = { level := 5, key := 1, header := 2, source := 1 } := by decide +kernel
theorem meets_LevelRules_LevelEvents_owed : ({ unit with owed := some (0x0C, 3) } : Slot).owed = some (0x0C, 3) ∧ unit.st = .ready ∧ (update true 1 0).clear = false ∧
    trapOf .asyncCauseTaken (levelled { levelUnit with owed := some (0x0C, 3), cancel := true }) = some (0x0C, 0, 3) := by decide +kernel
theorem meets_ContextAndFaultEvents_ContextEvents_preempt : sideEntry (pooled poolUnit) 0 16 = none ∧ (sideEntry (pooled poolUnit (wordCells (istoreLoc 0 0x7FF0) [0x8010, 0x7FF00001])) 0 16) = some 1 ∧
    ((pooled { poolUnit with st := .waiting (.reg 5) }).slot 0).st = .waiting (.reg 5) ∧
    (timedRecord (asking { unit with pri := 1 })).map (fun r => (r.ask, preemptTarget (asking { unit with pri := 1 }) 0 r)) = some (none, some 0) ∧
    ((pooled { poolUnit with st := .waiting (.portIn 2) }).slot 0).st = .waiting (.portIn 2) ∧
    (asking {}).coreVisible 0 0 = true ∧ ((asking {}).slot 0).st = .idle ∧ clsOn (((asking {}).core 0).cls 1) = true ∧
    (List.range 128).all (fun k => let s := asking { unit with pri := 1 }; !clsOn ((s.core k).cls 1) || !s.coreVisible 0 k || (s.slot (k * 8 + clsSlot ((s.core k).cls 1))).st != .idle) = true ∧
    (timedRecord (asking {})).map ReadyRec.ask = some none ∧ (asking unit).clusterHalted 0 = false ∧
    after .preemptRequest { asking unit with data := [0, 1] } (fun t => (t.slot 0).preempt == some 0) = true ∧
    after .preemptRequest { asking unit with data := [0, 2] } (fun t => (t.slot 0).preempt == none) = true := by
  decide +kernel

/-! ## Faults -/

def faultRec : FaultRec := { part := 0, page := 3, slot := 0, gen := 1, engine := 0, id := 0 }
def wake : Wake := { part := 0, page := 3, ready := true, via := none }
/-- The fault service of partition 0 is core 2 * 128; router 1 has an entry for page 3 where `m` says so. -/
def tree (m : List MergeEntry) (f : List FaultRec) : State :=
  { slots := [(0, { unit with st := .idle, saved := [savedCtx] })], parts := [(0, { live := true, clusters := [0], faultCore := some 256 })], routers := [(1, { merge := m })],
    clusters := [(0, { part := some 0, faultWait := f })], slices := [(0, { tcache := [(5, 7), (2 ^ 30 + 5, 7)] })], agenda := [{ ins := .fill 0 1 4 9 }], data := [0, 1, 4, 0] }
theorem test_fault_tree : after (.faultRecordAtRouter 1 2 faultRec) (tree [] []) (fun t => (t.router 1).merge == [{ part := 0, page := 3, ports := [2], paths := [(2, none)] }] &&
      (t.agenda.map Op.ins).drop 1 == [.faultRecordAtRouter 2 2 faultRec]) = true ∧
    after (.faultRecordAtRouter 1 4 faultRec) (tree [{ part := 0, page := 3, ports := [2], paths := [(2, none)] }] []) (fun t => (t.router 1).merge ==
      [{ part := 0, page := 3, ports := [2, 4], paths := [(2, none), (4, none)] }] &&
      t.agenda.length == 1) = true ∧
    after (.faultWakeAtRouter 1 wake) (tree [{ part := 0, page := 3, ports := [0, 2], paths := [(0, none), (2, some 5)] }] []) (fun t => (t.router 1).merge == [] &&
      (t.agenda.map Op.ins).drop 1 == [.faultWake 1 wake, .faultWakeAtRouter 0 { wake with via := some 5 }]) = true ∧
    after (.faultWake 0 wake) (tree [] [faultRec]) (fun t => (t.cluster 0).faultWait == [] && ((t.slot 0).saved.map Saved.wake) == [some (0, true)]) = true := by decide +kernel
theorem test_fault_memory : after .shootdown (tree [] []) (fun t => (t.slice 0).tcache == [(2 ^ 30 + 5, 7)]) = true ∧
    after .eccUncorrectable { tree [] [] with data := [0, 0, 1, 4, 0] } (fun t => t.agenda == [{ who := 0, data := [2], ins := .partitionReset }]) = true ∧
    after .eccUncorrectable { tree [] [] with data := [3, 0] } (fun t => (t.slice 0).eccfix == 1 && t.agenda.length == 1) = true ∧
    after .eccUncorrectable { tree [] [] with data := [1, 5] } (fun t => Sp.get 0 (t.core 5).count.eccfix 1 == 1) = true := by decide +kernel

theorem meets_ContextAndFaultEvents_FaultEvents : ((tree [{ part := 0, page := 3, ports := [2] }] []).router 1).merge.find? (fun e => e.part == 0 && e.page == 3) = some { part := 0, page := 3, ports := [2] } ∧
    ((tree [] []).router 1).merge = [] ∧ (tree [] []).serviceRouter 0 = 2 ∧ ((tree [] [faultRec]).cluster 0).dbgctl.getLsbD 0 = false ∧
    ((tree [] [faultRec]).cluster 0).faultWait = [faultRec] ∧ savedCtx ∈ ((tree [] [faultRec]).slot 0).saved ∧ ({ tree [] [] with data := [0, 0, 1, 4, 0] } : State).data = 0 :: 0 :: 1 :: 4 :: [0] ∧
    ({ tree [] [] with data := [3, 0] } : State).data = [3, 0] ∧
    ((tree [] []).part 0).live = true := by decide +kernel
/-- A table that is full of other pages; a wake for a record that came unmerged from cluster 0, at a router on its way, at its own, and the entry it
matches; and a read of the host on its way. -/
theorem meets_ContextAndFaultEvents_FaultEvents_paths : let full : MergeEntry := { part := 0, page := 9, ports := [2] }
    64 ≤ (List.replicate 64 full).length ∧ ((List.replicate 64 full).find? fun e => e.part == 0 && e.page == 3) = none ∧
    (1 : Nat) ≠ (tree [] []).serviceRouter 0 ∧ routerBefore 1 (pathTo (tree [] []) 0 2 32) = some 0 ∧ ({ wake with via := some 0 } : Wake).via = some 0 ∧
    (∃ p ∈ [((0 : Nat), some 0), (2, none)], p.2 = some 0) ∧ ((tree [] []).slot 0).st = .idle ∧ unit.st = .ready ∧
    (∃ o ∈ [({ who := 7, ins := .hostRmaRead } : Op)], o.ins = .hostRmaRead ∧ o.who = 7) := by decide +kernel

/-! ## Scheduling -/

/-- Core 0 takes class 1 in its slot 0; cluster 0 has these records, its neighbour 1 those. -/
def waitRec (seq pri : Nat) : ReadyRec :=
  { seq := seq, since := 0, pri := pri, raised := false, ask := none, body := { task 0x20 [21, 22, 23, 24] with cls := 1, pri := pri, level := lv, source := 1 } }
def sched (l m : List ReadyRec) (d : List W64 := []) (p : Part := {}) : State :=
  { parts := [(0, { p with live := true, clusters := [0, 1] })], cores := [(0, { classes := [(1, 0x8300000)] })], levels := [(lv.toNat, { outstanding := 3 })], data := d,
    clusters := [(0, { part := some 0, seg := [(0, 0x1FFE00000000)], ready := l }), (1, { part := some 0, rel := 1, ready := m })] }
def seqs (s : State) (c : Nat) : List (Nat × Nat) := (s.cluster c).ready.map fun r => (r.seq, r.pri)

theorem test_enqueue : after (.recordEnqueue 0 (waitRec 0 2).body) (sched [] []) (fun t => seqs t 0 == [(1, 2)] && (Sp.find t.levels lv.toNat).map Level.outstanding == some 4 &&
      (Sp.get [] t.timers 65536).map Op.ins == [.priorityAging] && (Sp.get [] t.timers 4096).map Op.ins == [.preemptRequest]) = true ∧
    after (.recordEnqueue 0 { (waitRec 0 2).body with source := 5 }) (sched [] []) (fun t => (Sp.find t.levels lv.toNat).map Level.outstanding == some 3) = true := by decide +kernel
theorem test_dispatch : after .schedulerDispatch (sched [waitRec 3 1, waitRec 4 2, waitRec 5 2] []) (fun t => seqs t 0 == [(3, 1), (5, 2)] && (t.core 0).tail 1 == 9 &&
      [0, 1, 5].map (fun j => t.read (ringLoc 0 0x8300000 j) 8) == [0x901, 0x20, 21]) = true := by decide +kernel
theorem test_aging : after .priorityAging (sched [waitRec 3 1, waitRec 4 2] [] [3]) (fun t => seqs t 0 == [(3, 2), (4, 2)] && ((t.cluster 0).ready.map ReadyRec.raised) == [true, false])
    = true ∧ after .priorityAging (sched [waitRec 3 3] [] [3]) (fun t => seqs t 0 == [(3, 3)]) = true := by decide +kernel
theorem test_steal : after .stealProbe (sched [] [waitRec 3 1, waitRec 4 2]) (fun t => seqs t 0 == [(1, 2)] && seqs t 1 == [(3, 1)] && ((t.cluster 0).ready.map fun r => r.body.source) == [4])
    = true ∧ after .stealProbe (sched [] []) (fun t => (t.cluster 0).stealfail == 1 && (Sp.get [] t.timers 512).map Op.ins == [.stealProbe]) = true := by decide +kernel
theorem test_report : after .clusterReport (sched [] []) (fun t => Sp.get 0 (t.part 0).idle 0 == 128) = true := by decide +kernel

/-- Unit 1 of two of a launch whose word 4 grows by 10. -/
def placing (next gang : Nat) (pipes : List (Nat × Nat × Nat × Nat)) : Placing :=
  { body := { task 0x20 [21, 22, 23, 24] with level := lv }, next := next, units := 2, step := 10, gang := gang, pipes := pipes }
theorem test_placement : after .unitPlacement (sched [] [] [] { placing := [placing 1 0 []], idle := [(0, 3)] }) (fun t => (t.part 0).placing == [] && Sp.get 0 (t.part 0).idle 0 == 2 &&
      (t.core 0).placed && (t.agenda.map fun o => match o.ins with
        | .messageArrival m => (m.dst, m.isTask, m.body.args)
        | _ => (9, false, [])) == [(0, true, [31, 22, 23, 24])]) = true ∧
    after .unitPlacement (sched [] [] [] { placing := [placing 0 0 []], rr := 1 }) (fun t => (t.part 0).placing == [{ placing 1 0 [] with rest := true }] && (t.part 0).rr == 0 &&
      (t.agenda.map fun o => match o.ins with
        | .recordEnqueue c r => (c, r.args)
        | _ => (9, [])) == [(1, [21, 22, 23, 24])]) = true := by decide +kernel
theorem test_gang : after .gangPlacement (sched [] [] [] { placing := [placing 0 2 [(0, 3, 1, 4)]] }) (fun t => (t.part 0).placing == [] && (t.port 0 3).st == .bound && (t.port 0 3).tgtPort == 4 &&
      (t.port 1 4).st == .listen && (t.core 0).placed && (t.core 1).placed && t.read (ringLoc 0 0x8300000 5) 8 == 21 && t.read (ringLoc 1 0x8300000 5) 8 == 31) = true := by decide +kernel

/-- A ready queue of any length. -/
theorem ready_length (n : Nat) : ((sched (List.replicate n (waitRec 3 1)) []).cluster 0).ready.length = n :=
  (List.length_replicate : (List.replicate n (waitRec 3 1)).length = n)
theorem meets_SchedulerEvents_full : ∃ (s : State), 4096 ≤ (s.cluster 0).ready.length := ⟨sched (List.replicate 4096 (waitRec 3 1)) [], Nat.le_of_eq (ready_length 4096).symm⟩
theorem meets_SchedulerEvents : (sched [] []).liveLevel 0 lv = some { outstanding := 3 } ∧ (((sched [] []).cluster 0).ready.length < 4096) ∧
    (dispatchChoice (sched [waitRec 3 1] []) 0).map (fun q => (q.1.seq, q.2)) = some (3, 0) ∧ ((sched [waitRec 3 1] []).core 0).ringFit 1 9 = some (0, 0) ∧
    (sched [waitRec 3 1] []).niAllows 0 lv ((List.range 9).map (fun j => clsBase 0x8300000 + 8 * (0 + j))) = true ∧
    (timedRecord (sched [waitRec 3 1] [] [3])).map ReadyRec.seq = some 3 ∧ ((sched [] []).cluster (routerStep 0 1)).part = some 0 ∧ ((sched [] []).slot 0).st = .idle ∧
    (stealChoice [waitRec 3 1, waitRec 4 2]).map ReadyRec.seq = some 4 ∧ [0, 1, 2, 3, 4].all (fun d => ((sched [] []).cluster (routerStep 0 d)).ready == []) = true := by decide +kernel
theorem meets_SchedulerEvents_place : bestCluster { clusters := [0, 1], idle := [(0, 3)] } = some 0 ∧ bestCluster { clusters := [0, 1] } = none ∧
    (clusterCores 0).find? (fun k => (sched [] []).placeable k) = some 0 := by decide +kernel
theorem meets_SchedulerEvents_gang : let s := sched [] [] [] { placing := [placing 0 2 [(0, 3, 1, 4)]] }
    gangCores s (s.part 0) 2 = some [0, 1] ∧ (gangRecords (presetPipes s [0, 1] false ([(0, 3, 1, 4)].filter fun e => decide (e.1 < 2 ∧ e.2.2.1 < 2))) (placing 0 2 [(0, 3, 1, 4)]) [0, 1] 0).isSome = true := by decide +kernel

/-! ## Copies -/

/-- g4 = 0x40 (eight bytes of 1 to 8), g6 = 0x200, g5 asks for 8 bytes and no completion, g7 for an update of the word at 0x80, g8 the descriptor at 0x100. -/
def copyUnit : Slot := { unit with g := [(4, 0x40), (5, 0x4000000000000008), (6, 0x200), (7, 0x8000000008), (8, 0x100), (9, 0x200000000008), (10, 0x8000000)] }
def copying (w : List Nat) (j : Sp CopyJob := []) : State :=
  { slots := [(0, copyUnit)], parts := [(0, { live := true, clusters := [0] })], mem := wordCells 0x40 [0x0807060504030201] ++ wordCells 0x100 w,
    clusters := [(0, { part := some 0, seg := [(0, 0x1FFE00000000)] })], copies := j, cur := if j = [] then 0 else 4 }
/-- The copy a form has begun: source, destination, strides, rows, length, target, core of the word, ranges to be accepted. -/
def begun (i : Instr) (s : State) (tag : Nat := 6) : Option (List Nat × List (Nat × Nat)) :=
  match exec i s with
  | .next t => (Sp.find t.copies tag).map fun j => ([j.src.toNat, j.dst.toNat, j.sstride, j.dstride, j.rows, j.len, j.target.toNat, j.place], j.todo)
  | _ => none

theorem test_cpy : begun (.cpy (ops 5 4 6)) (copying []) = some ([0x40, 0x200, 0, 0, 1, 8, 0x40000000, 0], [(0, 8)]) ∧
    begun (.cpy (ops 7 4 6)) (copying []) = some ([0x40, 0x200, 0, 0, 1, 8, 0x80, 0], [(0, 8)]) ∧
    sentOp (.cpy (ops 5 4 6)) (copying []) = some .copyAccept ∧ trapOf (.cpy (ops 9 4 6)) { copying [] with slots := [(0, { copyUnit with g := (9, 0x800000008) :: copyUnit.g })] } = some (0x16, 0x800000008, 0) ∧
    trapOf (.cpy (ops 5 10 6)) (copying []) = some (0x16, 0x8000000, 0) := by decide +kernel
theorem test_cpys : begun (.cpys (ops 0 8 0)) (copying [0x40, 0x200, 0x2000020000010, 0x4000000000000004]) 10 = some ([0x40, 0x200, 0x10, 0x20, 3, 4, 0x40000000, 0], [(0, 12)]) := by
  decide +kernel
theorem test_cpy3 : begun (.cpy3 (ops 0 8 0)) (copying [0x40, 0x200, 0x4000000000000004, 0]) 10 = some ([0x40, 0x200, 0, 0, 1, 4, 0x40000000, 0], [(0, 4)]) ∧
    trapOf (.cpy3 (ops 0 8 0)) (copying [0x40, 0x200, 0x4000000000000004, 1]) = some (0x16, 0x100, 0) := by decide +kernel
theorem test_cpym : begun (.cpym (ops 0 8 0)) (copying [0x40, 0x200, 0x4000000000000004, 1]) 10 = some ([0x40, 0x200, 0, 0x80000, 2, 4, 0x40000000, 0], [(0, 8)]) ∧
    trapOf (.cpym (ops 0 8 0)) (copying [0x40, 0x200, 0x4000000000000004, 0x80]) = some (0x16, 0x100, 0) := by decide +kernel

def job (t : BitVec 32) (multi : Bool := false) : CopyJob :=
  { slot := 0, gen := 1, pc := 16, part := 0, level := 5, phase := false, src := 0x40, dst := 0x200, sstride := 0, dstride := 0, rows := if multi then 2 else 1, len := 8, target := t,
    place := 0, multi := multi, todo := [], accepted := [], flying := [], held := [], left := 0 }
def sentAll (i : Instr) (s : State) : Option (List (Nat × W64 × W64)) :=
  match exec i s with
  | .next t => some (t.agenda.map fun o => match o.ins with
    | .accessAcknowledge sl _ tag => (1, BitVec.ofNat 64 sl, BitVec.ofNat 64 tag)
    | .dcDecrement _ idx n _ _ _ => (2, BitVec.ofNat 64 idx, BitVec.ofNat 64 n)
    | .syncWordUpdate a _ => (3, a.ea, a.d0)
    | _ => (9, 0, 0))
  | _ => none
theorem test_copy_completion : sentAll .copyCompletion (copying [] [(4, job 0x40000000)]) = some [(1, 0, 4)] ∧ sentAll .copyCompletion (copying [] [(4, job 0x80000002)]) = some [(2, 2, 1)] ∧
    sentAll .copyCompletion (copying [] [(4, job 0x80)]) = some [(3, (copying []).globalOf 0 0x80, 8)] := by decide +kernel
theorem test_copy_completion_multi : sentAll .copyCompletion (copying [] [(4, job 0x80 true)]) = some [(3, (copying []).globalOf 0 0x80, 8), (3, (copying []).globalOf 1 0x80, 8)] ∧
    sentAll .copyCompletion (copying [] [(4, job 0x80000002 true)]) = some [(2, 2, 1), (2, 2, 1)] := by decide +kernel

def copyOk (s : State) (src dst : W64) (t : BitVec 32) : Bool :=
  targetOk s t && (s.globalFrom (slotCluster s.cur) (s.partOf (slotCluster s.cur)) src).isSome && (s.globalTarget (s.partOf (slotCluster s.cur)) dst).isSome && s.entryFree s.cur false
theorem copyOk_iff {s : State} {src dst : W64} {t : BitVec 32} (h : copyOk s src dst t = true) : CopyOk s src dst t := by
  simp only [copyOk, Bool.and_eq_true] at h
  exact ⟨h.1.1.1, h.1.1.2, h.1.2, h.2⟩
theorem meets_CopyRules_CopyForms : runs { d := .g, dSrc := true, a := .g, b := .g } (ops 5 4 6) (copying []) (fun v s => copyOk s v.a v.b (BitVec.ofNat 32 (bits v.d 63 32))) = true ∧
    runs { d := .g, dSrc := true, a := .g, b := .g } (ops 9 4 6) { copying [] with slots := [(0, { copyUnit with g := (9, 0x800000008) :: copyUnit.g })] }
      (fun v s => !targetOk s (BitVec.ofNat 32 (bits v.d 63 32))) = true := by decide +kernel
theorem meets_CopyRules_CopyForms_desc : runs uA (ops 0 8 0) (copying [0x40, 0x200, 0x4000000000000004, 0x4000000000000004]) (fun v s => v.a == 0x100 &&
      copyOk s 0x40 0x200 0x40000000 && wordsAt s 0x100 4 == [0x40, 0x200, 0x4000000000000004, 0x4000000000000004]) = true ∧
    runs uA (ops 0 8 0) (copying [0x40, 0x200, 0x8000000004, 0]) (fun _ s => copyOk s 0x40 0x200 0x80 && s.placeOf 0 0 == some (0, 0)) = true ∧
    runs uA (ops 0 8 0) (copying [0x40, 0x200, 0x4000000000000004, 1]) (fun _ s => copyOk s 0x40 0x200 0x40000000 &&
      (List.range 2).all fun i => s.coreVisible (coreCluster (syncCore s 0x200)) (bits (0x200 : W64) 25 19 + i)) = true := by decide +kernel
theorem meets_CopyRules_CopyForms_local : LocalOk (copying []) 0x100 32 true false := by constructor <;> decide +kernel

/-- Another 256 copies hold the tags of cluster 0's courier. -/
def tagless (s : State) : State :=
  { s with copies := s.copies ++ (List.range 256).map fun i => (1000 + i, { job 0 with accepted := [(0, 8)] }) }
/-- Whether the source's checks accept all of a copy's bytes; or refuse them, and why. -/
def accepts (s : State) (j : CopyJob) : Option Nat :=
  let b : CopyJob := { j with todo := [], looked := [j.courier s.tick 0] }
  match acceptCheck s.tick b 0 j.len with
  | (s1, .loc _ _) => if firstRefused s1 b 0 j.len = none ∧ maskRefused s.tick j (j.courier s.tick 0) = none then some 0 else none
  | (s1, .refused c) => if s1.copies = s.copies then some c else none
  | _ => none
theorem meets_CopyRules_CopyEvents : accepts (copying [] [(4, { job 0 with todo := [(0, 8)] })]) { job 0 with todo := [(0, 8)] } = some 0 ∧
    accepts (copying [] [(4, { job 0 with src := 0x8000000, todo := [(0, 8)] })]) { job 0 with src := 0x8000000, todo := [(0, 8)] } = some 0x16 ∧
    (List.range 8).all (fun i => decide ((copying []).globalTarget 0 (0x40 + BitVec.ofNat 64 i) = some (.scratch 0 (0x40 + i))) && !(copying []).guarded 0 (0x40 + i)) = true ∧
    (let j := { job 0 with accepted := [(0, 8)] }; sendable (copying [] [(4, j)]).tick j = [(0, 8)]) ∧
    (let j := { job 0 with todo := [(0, 8)] }; tagFree (copying [] [(4, j)]).tick j 0 = true ∧ tagFree (tagless (copying [] [(4, j)])).tick j 0 = false) := by decide +kernel
/-- The source's core, neither the issuer's nor the destination's, grants nothing; no link leads to the destination's device. -/
theorem meets_CopyRules_CopyEvents_refused : let j := { job 0 with src := 0x80040, dst := 0x100200, todo := [(0, 8)] }
    let s := copying [] [(4, j)]
    let f := { job 0 with dst := 0x400000000000, flying := [(0, 8, 1)] }
    let cut : State := { copying [] [(4, f)] with routers := [(0, { deviceTable := [(1, 5)], deviceAlt := [(1, 5)] })], devs := [(0, { down := List.range 64 })] }
    maskRefused s.tick j (j.courier s.tick 0) = some 0 ∧ j.courier s.tick 0 ∉ j.looked ∧ cut.linkFrom (courierRouter (f.courier cut.tick 0)) (bits (f.dstAt 0) 55 46) = false := by
  decide +kernel
theorem meets_CopyRules_CopyEvents_write : let j := { job 0 with flying := [(0, 8, 0x0807060504030201)] }; let s := copying [] [(4, j)]
    (s.tick.copyHome (CopyJob.accessor j) (CopyJob.dstAt j 0) 8 false true).2 =
      .loc (.scratch 0 0x200) (scratchLoc 0 0x200) := by decide +kernel

/-! ## Tabled calls -/

/-- The descriptor at 0x80: callee 0x20, one key argument, one answer word, bound 1. Its key with g4 = 11 has the ways 216 to 223 of cluster 0. -/
def descWords : List W64 := [0x100010020, 0, 0, 0]
def callUnit : Slot := { unit with level := lv, g := [(1, 0x111), (2, 0x7000), (4, 11), (8, 0x80), (9, 4)] }
/-- The unit waits for an answer of tag 6 at its group of two words. -/
def asked : Slot := { callUnit with st := .waiting (.answer 6), outst := [{ entry with tag := 6, len := 2, access := false, write := false }] }
def pigeon (st : Nat) (f : Pigeon → Pigeon := id) : Pigeon :=
  f { words := descWords, desc := 0x80, args := [11, 0, 0, 0], argc := 1, st := st, prodSlot := 1, prodGen := 9, level := lv, ans := [77, 0, 0, 0], version := 3 }
def tabled (t : Slot) (l : Sp Pigeon := []) : State :=
  { slots := [(0, t), (1, { unit with gen := 9, level := lv })], parts := [(0, { live := true, clusters := [0] })], mem := wordCells 0x80 [0x100010020],
    clusters := [(0, { part := some 0, seg := [(0, 0x1FFE00000000)], pigeon := l })] }
def request (kind : Nat) (words : List W64 := descWords) (idx : Nat := 0) : TabledReq :=
  { kind := kind, slot := 0, gen := 1, tag := 6, part := 0, desc := 0x80, args := [11, 0, 0, 0], level := lv, home := 0, idx := idx, words := words }
/-- The stack word of a call at PC 16 of two words with g2 = 0x7000, by its entry; and the untabled one. -/
def stk (i : Nat) : W64 := BitVec.ofNat 64 (0x7000 + 18 * 2 ^ 20 + i * 2 ^ 35)
def stkU : W64 := 0x100000001207000
/-- What is on its way to a slot that waits: kind, slot, answer words, g3. -/
def delivered (i : Instr) (s : State) : Option (List (Nat × Nat × List W64 × W64)) :=
  match exec i s with
  | .next t => some (t.agenda.map fun o => match o.ins with
    | .tabledDelivery d => (d.kind, d.slot, d.ans, d.g3)
    | _ => (9, 9, [], 0))
  | _ => none
def entryAfter (i : Instr) (s : State) (p : State → Pigeon → Bool) : Bool := after i s fun t => ((t.pigeonAt (0, 216)).map (p t)).getD false

theorem test_tabled_forms : sentOp (.tcall (ops 0 8 0)) (tabled callUnit) = some (.tabledRequest { request 0 [] with args := [] }) ∧
    sentOp (.tpin (ops 3 8 0)) (tabled callUnit) = some (.tabledRequest { request 1 [] with args := [] }) ∧
    sentOp (.tunpin (ops 3 8 0)) (tabled callUnit) = some (.tabledRequest { request 2 [] with args := [] }) ∧
    sentOp (.tinv (ops 3 8 0)) (tabled callUnit) = some (.tabledRequest { request 3 [] with args := [] }) ∧
    waits (.answer 6) (.tcall (ops 0 8 0)) (tabled callUnit) = true ∧ after (.tqry (ops 3 8 9)) (tabled callUnit) (fun t => (t.slot 0).empty 3 && (t.slot 0).pc == 17) = true := by
  decide +kernel
theorem test_tabled_traps : trapOf (.tcall (ops 0 9 0)) (tabled callUnit) = some (3, 4, 0) ∧ trapOf (.tcall (ops 0 8 0)) (tabled { callUnit with stack := List.replicate 64 0 }) = some (0x0C, 0, 1) ∧
    trapOf (.tqry (ops 3 8 8)) (tabled callUnit) = some (0x16, 0x80, 0) ∧ trapOf (.tret (ops 0 0 0)) (tabled callUnit) = some (0x0C, 0, 5) ∧
    trapOf (.tseed (ops 0 0 0)) (tabled callUnit) = some (0x0C, 0, 5) ∧ trapOf (.tpin (ops 3 9 0)) (tabled callUnit) = some (3, 4, 0) := by decide +kernel
theorem test_tret_untabled : after (.tret (ops 0 0 0)) (tabled { callUnit with g := [(1, 0x111), (2, 0xF80001)], stack := [5, stkU] }) (fun t => (t.slot 0).pc == 0x111 &&
      (t.slot 0).stack == [5] && (t.slot 0).getG 3 == 3 && (t.slot 0).getG 2 == 0xF87000) = true ∧
    pc (.tseed (ops 0 0 0)) (tabled { callUnit with stack := [stkU] }) = some 17 := by decide +kernel
theorem test_tret_tabled : sentOp (.tret (ops 0 0 0)) (tabled { callUnit with stack := [stk 216] }) = some (.tabledAnswer 1 0 (stk 216) [11, 0, 0, 0] 0 1 6) ∧
    sentOp (.tseed (ops 0 0 0)) (tabled { callUnit with stack := [stk 216] }) = some (.tabledAnswer 0 0 (stk 216) [11, 0, 0, 0] 0 1 6) := by decide +kernel

theorem test_tcall_reads : sentOp (.tabledRequest (request 0 [])) (tabled asked) = some (.tabledRequest (request 0)) := by decide +kernel
theorem test_tcall_produces : delivered (.tabledRequest (request 0)) (tabled asked) = some [(1, 0, [], 0)] ∧
    entryAfter (.tabledRequest (request 0)) (tabled asked) (fun t e => e.st == 1 && e.prodSlot == 0 && e.prodGen == 1 && e.args == [11, 0, 0, 0] && (t.slot 0).stack == [stk 216]) = true := by
  decide +kernel
theorem test_tcall_answered : delivered (.tabledRequest (request 0)) (tabled asked [(216, pigeon 2)]) = some [(0, 0, [77], 0x30000)] := by decide +kernel
theorem test_tcall_waits : entryAfter (.chainWalkResult (request 0) false [] []) (tabled asked [(216, pigeon 1)]) (fun t e => e.waiters.map Waiter.slot == [0] &&
      (t.slot 0).st == .suspended .consumer && (t.slot 0).stack == [stk 216]) = true := by decide +kernel
theorem test_pin : sentOp (.tabledRequest (request 1)) (tabled asked [(216, pigeon 2)]) = some (.fill 0 1 6 14) ∧
    entryAfter (.tabledRequest (request 1)) (tabled asked [(216, pigeon 2)]) (fun _ e => e.pin) = true ∧
    sentOp (.tabledRequest (request 2)) (tabled asked [(216, pigeon 2)]) = some (.fill 0 1 6 6) ∧ sentOp (.tabledRequest (request 3)) (tabled asked [(216, pigeon 2)]) = some (.fill 0 1 6 14) ∧
    sentOp (.tabledRequest (request 3)) (tabled asked) = some (.fill 0 1 6 0) := by decide +kernel
theorem test_tqry : [0, 1, 5].map (fun i => sentOp (.tabledRequest (request 4 descWords i)) (tabled asked [(216, pigeon 2)])) = [some (.fill 0 1 6 0x80), some (.fill 0 1 6 11), some (.fill 0 1 6 77)] := by
  decide +kernel

/-- The producer, slot 1, answers: [5, 6, 7, 8]; slot 0 waits as CONSUMER. -/
def producing : State := tabled { callUnit with st := .suspended .consumer, stack := [stk 216] }
  [(216, pigeon 1 fun e => { e with waiters := [{ slot := 0, gen := 1, member := false, words := descWords }] })]
theorem test_tret_answers : delivered (.tabledAnswer 1 0 (stk 216) [5, 6, 7, 8] 1 9 6) producing = some [(0, 0, [5], 0x40000), (3, 1, [], 0x40001)] ∧
    entryAfter (.tabledAnswer 1 0 (stk 216) [5, 6, 7, 8] 1 9 6) producing (fun _ e => e.st == 2 && e.ans == [5, 0, 0, 0] && e.version == 4 && e.waiters == []) = true := by decide +kernel
theorem test_tseed_answers : sentOp (.tabledAnswer 0 0 (stk 216) [5, 6, 7, 8] 1 9 6) producing = some (.fill 1 9 6 0) := by decide +kernel
theorem test_tret_gone : delivered (.tabledAnswer 1 0 (stk 217) [5, 6, 7, 8] 1 9 6) producing = some [(3, 1, [], 3)] := by decide +kernel
def delivery (kind : Nat) (ans : List W64) (g3 : W64) : TabledMsg := { tmsg kind 0 1 6 with ans := ans, g3 := g3, words := descWords }
theorem test_deliveries : after (.tabledDelivery (delivery 0 [5, 6] 0x40000)) producing (fun t => let r := t.slot 0
      r.pc == 18 && r.st == .ready && r.stack == [] && [3, 4, 5, 2].map r.getG == [0x40000, 5, 6, 0x7000]) = true ∧
    after (.tabledDelivery (delivery 1 [] 0)) (tabled { asked with stack := [stk 216] }) (fun t => (t.slot 0).pc == 0x20 && (t.slot 0).getG 1 == 18 && (t.slot 0).st == .ready) = true ∧
    after (.tabledDelivery (delivery 3 [] 0x40001)) (tabled { asked with stack := [stk 216] }) (fun t => (t.slot 0).pc == 0x111 && (t.slot 0).getG 3 == 0x40001 && (t.slot 0).stack == [] &&
      (t.slot 0).outst == []) = true := by decide +kernel
theorem test_producer_kill : delivered (.producerKill 0 216 1 9) producing = some [(5, 0, [], 0)] ∧
    entryAfter (.producerKill 0 216 1 9) producing (fun _ e => e.st == 0 && e.retry == 1 && e.waiters == []) = true ∧
    after (.producerKill 0 216 1 9) (tabled callUnit [(216, pigeon 1 fun e => { e with retry := 2 })]) (fun t => (t.pigeonAt (0, 216)).isNone) = true := by decide +kernel

theorem desc_ok : DescOk (tabled callUnit) 0x80 :=
  ⟨by decide, .scratch 0 0x80, by decide +kernel, fun _ _ => by simp, (fun o h => by cases h), fun o h => by cases h⟩
theorem meets_TabledRules_TabledForms : runs { uA with extra := [1, 3] } (ops 0 8 0) (tabled callUnit) (fun v _ => v.a == 0x80) = true ∧ callUnit.outst = [] ∧ callUnit.stack.length < 64 ∧
    runs uDA (ops 3 8 0) (tabled callUnit) (fun v _ => v.a == 0x80) = true ∧
    runs { d := .g, dDst := true, a := .g, b := .g, extra := [4, 5, 6, 7] } (ops 3 8 9) (tabled callUnit) (fun v s => v.a == 0x80 && decide (v.b.toNat < 16) && s.entryFree 0 false) = true ∧
    runs { extra := [1, 2, 3] } (ops 0 0 0) (tabled { callUnit with stack := [stkU] }) (fun _ s => ((s.slot 0).stack.getLast?.getD 0).getLsbD 56) = true ∧
    runs { extra := [1, 2, 3] } (ops 0 0 0) (tabled { callUnit with stack := [stk 216] }) (fun _ s => !((s.slot 0).stack.getLast?.getD 0).getLsbD 56 &&
      (emptyAnswer s (s.slot 0) 0 (stk 216) true).isNone && (emptyAnswer s (s.slot 0) 0 (stk 216) false).isNone) = true ∧
    runs uNone (ops 0 0 0) (tabled callUnit) (fun _ s => (s.slot 0).stack == []) = true ∧
    runs { extra := [1, 2, 3] } (ops 0 0 0) (tabled callUnit) (fun _ s => (s.slot 0).stack == []) = true ∧
    runs uNone (ops 0 0 0) (tabled { callUnit with stack := [stk 216] }) (fun _ s => (emptyAnswer s (s.slot 0) 0 (stk 216) false).isNone) = true := by decide +kernel
theorem meets_TabledRules_TabledEvents : (tabled asked).hasEntry 0 1 6 = true ∧
    ((tabled asked).homeOf (accAccessor (reqAccess (tabled asked) (request 0 [])) 0) 0x80 32 true false).2 = .loc (.scratch 0 0x80) 0x80 ∧ descBad descWords = false ∧
    emptyArg asked (request 0) = none ∧ emptyArg asked (request 1) = none ∧ keyPlace (tabled asked) 0 (keyHash 0x80 1 [11, 0, 0, 0]) = (0, 27) ∧ (tabled asked).relCluster 0 < 128 ∧
    (findKey (tabled asked) (request 0)).isNone = true ∧ freeWay (tabled asked) (0, 27) = some 216 ∧
    (findKey (tabled asked [(216, pigeon 2)]) (request 0)).map (fun q => (q.1, q.2.st, q.2.pin)) = some (216, 2, false) ∧
    (findKey (tabled asked [(216, pigeon 1)]) (request 0)).map (fun q => (q.1, q.2.st)) = some (216, 1) ∧
    freeWay (tabled asked ((List.range 8).map fun i => (216 + i, pigeon 1 fun e => { e with desc := 0x100 }))) (0, 27) = none := by decide +kernel
theorem meets_TabledRules_TabledEvents_answers : stackPlace producing 0 (stk 216) = some (0, 216) ∧
    (producing.pigeonAt (0, 216)).map (fun e => (e.st, e.prodSlot, e.prodGen, e.part, e.ansc, e.retry)) = some (1, 1, 9, 0, 0, 0) ∧ (producing.slot 0).st = .suspended .consumer ∧
    (producing.slot 0).gen = 1 ∧ dAmem descWords = false ∧ ((tabled asked).slot 0).st ≠ .idle ∧ (asked.getG 1).toNat < 0x4000 ∧
    (callUnit.stopped = false ∧ callUnit.trapvec ≠ 0 ∧ callUnit.trapcause.getLsbD 8 = false) ∧
    after (.tabledDelivery { delivery 6 [] 0 with cause := 0x0C, info := 4 }) (tabled { callUnit with st := .suspended .consumer, stopped := true })
      (fun t => (t.slot 0).owed == some (0x0C, 4) && (t.slot 0).pc == 16) = true := by decide +kernel

/-! ## Command queues -/

/-- Queue 0 of device 0 belongs to partition 0; its ring is at 0x1000 of core 0 and its completions go to 0x2000. -/
def queue0 : Queue := { own := some 0, base := 0x1000, cpl := 0x2000, tail := 5, head := 5 }
def queued0 (q : Queue) (d : List W64) (cur : Nat := 0) (p : Part := {}) : State :=
  { parts := [(0, { p with live := true, clusters := [0] })], clusters := [(0, { part := some 0, seg := [(0, 0x1FFE00000000)] })], devs := [(0, { queues := [(0, q)] })], data := d, cur := cur,
    cores := [(0, { prot := [(0, 0), (1, 0x80000), (2, 0x61)] })],
    mem := wordCells (0x1000 + 5 * 64) [0x700000006] ++ wordCells 0x3000 [0x20, 0x1000200030000, 77, 0, 1, 2, 3, 4] ++ wordCells 0x40 [0x0807060504030201] }
def queueAfter (i : Instr) (s : State) (p : State → Queue → Bool) : Bool := after i s fun t => p t (t.queue 0)
def answered (i : Instr) (s : State) : Option (List (Nat × List W64)) :=
  match exec i s with
  | .next t => some (t.out.map fun a => (a.status, a.data))
  | _ => none

theorem test_qtail : queueAfter .qtailWrite (queued0 queue0 [0, 6]) (fun t q => q.tail == 6 && q.packets.map (fun p => (p.idx, p.word 0)) == [(5, 0x700000006)] &&
      t.out == [{ who := 0, status := 0, data := [] }]) = true ∧ answered .qtailWrite (queued0 queue0 [0, 70]) = some [(2, [])] ∧
    answered .qtailWrite (queued0 { queue0 with tail := 6 } [0, 5]) = some [(1, [])] ∧ answered .qtailWrite (queued0 queue0 [1, 6]) = some [(1, [])] := by decide +kernel
theorem test_qstatus : queueAfter .qstatusStop (queued0 { queue0 with st := 1 } [0]) (fun _ q => q.st == 0) = true ∧
    queueAfter .qstatusStop (queued0 { queue0 with st := 1, packets := [{ idx := 4, w := [], started := true }] } [0]) (fun _ q => q.st == 1 && q.stopping) = true ∧
    queueAfter .qstatusResume (queued0 queue0 [0]) (fun _ q => q.st == 1 && q.head == 5) = true ∧
    queueAfter .cplerrClear (queued0 { queue0 with cplerr := true } [0]) (fun _ q => !q.cplerr) = true ∧
    queueAfter .qownWrite (queued0 queue0 [0x23]) (fun _ q => q == { own := some 3 }) = true ∧ answered .qownWrite (queued0 { queue0 with st := 1 } [0x23]) = some [(1, [])] := by decide +kernel

/-- The packet 5 of a queue that runs. -/
def packet (w : List W64) : Packet := { idx := 5, w := w }
def running (p : Packet) (d : List W64 := []) (f : Part := {}) (cpl : W64 := 0x2000) : State := queued0 { queue0 with st := 1, tail := 6, cpl := cpl, packets := [p] } d 5 f
theorem test_packet_start : queueAfter .packetStart { running (packet [0x700000006]) with cur := 0 } (fun t q => q.head == 6 && q.packets.map Packet.started == [true] &&
      t.due == [{ who := 5, ins := .nop }]) = true ∧
    queueAfter .packetStart { running (packet [0x700000007]) with cur := 0 } (fun t q => q.st == 2 && q.rej == 7 && q.head == 6 && t.due == [{ who := 5, data := [4], ins := .packetCompletion }])
      = true := by decide +kernel
def launchP : Packet := { packet [0x700000001, 0x3000, 0, 2, 10] with tmpl := [0x20, 0x1000200030000, 77, 0, 1, 2, 3, 4], started := true }
theorem test_launch : after .launch (running launchP) (fun t => (Sp.find t.levels 0x1000200030001).map (fun l => (l.outstanding, l.packet)) == some (2, some (0, 5)) &&
      (Sp.find t.levels 0x1000200030000).map Level.outstanding == some 1 &&
      ((t.part 0).placing.map fun x => (x.units, x.step, x.body.pc, x.body.level, x.body.corr, x.body.args)) == [(2, 10, 0x20, 0x1000200030001, 7, [1, 2, 3, 4])]) = true := by decide +kernel
/-- Signal 3 against the threshold 5. -/
def waitP : Packet := { packet [0x700000002, 5, 0, 0, 0x1000000000003] with started := true }
theorem test_wait : after .wait (running waitP [] { signals := [(3, 5)] }) (fun t => t.due == [{ who := 5, data := [1], ins := .packetCompletion }]) = true ∧
    after .wait (running waitP [] { signals := [(3, 6)] }) (fun t => t.due == []) = true ∧
    queueAfter .wait (running waitP [] { signals := [(3, -1)] }) (fun t q => q.st == 3 && q.rej == 7 && q.head == 6 && t.due == [{ who := 5, data := [3], ins := .packetCompletion }]) = true := by
  decide +kernel
def signalP (op : Nat) : Packet := { packet [0x700000003, BitVec.ofNat 64 (3 + op * 65536), 4] with started := true }
theorem test_signal : after .signal (running (signalP 0) [] { signals := [(3, 5)] }) (fun t => (t.part 0).signal 3 == 9) = true ∧
    after .signal (running (signalP 1) [] { signals := [(3, 5)] }) (fun t => (t.part 0).signal 3 == 4) = true := by decide +kernel
def copyP : Packet := { packet [0x700000004, 0x40, 0x200, 8] with started := true }
theorem test_packets : after .copy (running copyP) (fun t => (t.packet 5).map Packet.todo == some [(0, 8)] && t.agenda.map Op.ins == [.copy]) = true ∧
    after .timestamp { running { packet [0x700000005, 0x200] with started := true } with now := 1600 } (fun t => t.read 0x200 8 == 1000 && t.due.map Op.data == [[1]]) = true ∧
    after .nop (running (packet [0x700000006])) (fun t => t.due == [{ who := 5, data := [1], ins := .packetCompletion }]) = true := by decide +kernel
theorem test_completion : queueAfter .packetCompletion { running { packet [0x700030206] with started := true } [1] { signals := [(3, 5)] } with now := 1600 } (fun t q => q.packets == [] &&
      t.read 0x2050 8 == 0x100000007 && t.read 0x2058 8 == 1000 && (t.part 0).signal 3 == 4) = true ∧
    queueAfter .packetCompletion (running { packet [0x700000006] with started := true } [1] {} 0) (fun _ q => q.packets == [] && q.cplerr) = true := by decide +kernel

theorem meets_QueueRegisters : queueAllowed (queued0 queue0 [0, 6]) 0 0 = true ∧ bufferRoom (queued0 queue0 [0, 6]) 0 1 = true ∧
    (copyPackets (queued0 queue0 [0, 6]) 0 queue0 { who := 0, data := [0, 6], ins := .qtailWrite } 5 1).2 = (some [{ packet [0x700000006, 0, 0, 0, 0, 0, 0, 0] with qtail := 2 }], false) ∧
    queueAllowed (queued0 queue0 [1, 6]) 1 0 = false ∧
    (queued0 queue0 [0, 6]).data = 0 :: 6 :: [] ∧ (queue0.packets.any fun p => p.started) = false ∧
    reqBad 0xFFFF000000000000 = true ∧ reqBad 0 = false ∧ answered .qtailWrite (queued0 queue0 [0, 6, 0xFFFF000000000000]) = some [(1, [])] := by decide +kernel
theorem meets_PacketEvents_start : let s := { running (packet [0x700000006]) with cur := 0 }
    packetReady s 0 = true ∧ (s.queue 0).headPacket = some (packet [0x700000006]) ∧ (s.queue 0).own = some 0 ∧ (packet [0x700000006]).malformed = false ∧
    (packet [0x700000007]).malformed = true ∧ packetReady { running (packet [0x700000007]) with cur := 0 } 0 = true ∧ (packetReads s 0 (packet [0x700000006]) (startOp 0)).2 = (some (packet [0x700000006]), false) := by
  decide +kernel
theorem runs_waitP : Runs (running waitP [] { signals := [(3, 5)] }) 0 waitP := by constructor <;> decide +kernel
theorem runs_copyP : Runs (running { copyP with flying := [(0, 8, 9)] }) 0 { copyP with flying := [(0, 8, 9)] } := by constructor <;> decide +kernel
/-- What an access of the Headwater gives. -/
def hwOk : HwGot → Option Nat
  | .ok _ v => some v
  | _ => none
theorem meets_PacketEvents : waitP.waitCount = 1 ∧ (({ signals := [(3, 5)] } : Part).signal (waitP.waitSig 0)) = 5 ∧ waitP.word 1 = 5 ∧ bits ((signalP 1).word 1) 23 16 = 1 ∧
    hwOk (hwBytes (running (packet [0x700000005, 0x200])) 0 0x200 8 (some 0) { who := 5, ins := .timestamp }) = some 0 ∧ bits (copyP.word 3) 31 0 = 8 ∧
    hwOk (hwPart (running { copyP with flying := [(0, 8, 9)] }).tick 0 0x200 8 (some 9) { who := 5, data := [1, 0, 8], ins := .copy }) = some 0 ∧
    copyPick (running { copyP with flying := [(0, 8, 9)] }).tick { copyP with flying := [(0, 8, 9)] } = some (1, 0, 8) ∧
    copyPick { running { copyP with todo := [(0, 8)] } with data := [0, 2, 4] }.tick { copyP with todo := [(0, 8)] } = some (0, 2, 4) ∧
    hwOk (hwPart { running { copyP with todo := [(0, 8)] } with data := [0, 2, 4] }.tick.tick 0 0x42 4 none { who := 5, data := [0, 2, 4], ins := .copy }
      (copyExec { running { copyP with todo := [(0, 8)] } with data := [0, 2, 4] }.tick.tick 0 0x202)) = some 0x06050403 ∧
    (List.range 8).all (fun i => hwOk (hwPart (running { copyP with todo := [(0, 8)] }).tick.tick 0 (0x40 + BitVec.ofNat 64 i) (8 - i) none { who := 5, ins := .copy }) != none) = true ∧
    hwOk (hwBytes (running (packet [0x700000006]) [1]) 0 0x2050 16 (some 7) { who := 5, data := [1], ins := .packetCompletion }) = some 0 ∧
    (running copyP).globalTarget 0 0x40 = some (.scratch 0 0x40) ∧ (running copyP).segment 0 ((running copyP).partAt 0 0) 0 false false true = .ok ∧
    ({ running copyP with clusters := [(0, { part := some 0 })] }).segment 0 0 0 false true false ≠ .ok ∧
    (running copyP).protAllows 0 0x40 8 (hwAccessor 0) true = true ∧ ({ running copyP with cores := [] }).protAllows 0 0x40 8 (hwAccessor 0) true = false ∧
    (running copyP).completing 5 = false := by decide +kernel

/-! ## The host -/

theorem test_host_signal : after .hostSignalWrite (queued0 queue0 [3, 9]) (fun t => (t.part 0).signal 3 == 9) = true ∧ answered .hostSignalWrite (queued0 queue0 [1024, 9]) = some [(1, [])] ∧
    answered .hostSignalWrite { queued0 queue0 [3, 9] with cur := 1 } = some [(1, [])] := by decide +kernel
theorem test_host_reads : [0, 8, 0x18, 0x28, 0x2018, 0x1000, 0x38].map (fun o => answered .hostRmaRead (queued0 queue0 [o, 8] 0 { signals := [(3, 5)], resets := 2, resetCause := 1 })) =
    [some [(0, [0x1000])], some [(0, [6])], some [(0, [5])], some [(0, [0])], some [(0, [5])], some [(0, [0x20100])], some [(1, [])]] := by decide +kernel
theorem test_host_writes : queueAfter .registerWrite (queued0 queue0 [0, 0, 0x1040]) (fun _ q => q.base == 0x1040) = true ∧ queueAfter .registerWrite (queued0 queue0 [0, 8, 7]) (fun _ q => q.size == 7) = true ∧
    queueAfter .registerWrite (queued0 queue0 [0, 8, 5]) (fun t q => q.size == 6 && t.out.map Answer.status == [0]) = true ∧
    answered .registerWrite (queued0 { queue0 with st := 1 } [0, 0, 0x1040]) = some [(1, [])] ∧ queueAfter .registerWrite (queued0 queue0 [0, 0x20, 9]) (fun _ q => q == queue0) = true := by decide +kernel
theorem test_host_memory : answered .hostRmaRead { paged with data := [0x100000000000000, 8] } = some [(0, [0x2A])] ∧
    bytesAt (2 ^ 45 + 5 * 65536) .hostRmaWrite { paged with data := [0x100000000000000, 8, 0x55] } = some 0x55 ∧
    answered .hostRmaWrite { paged with data := [0x100000000010000, 8, 0x55] } = some [(1, [])] ∧
    [0xFFFF000000000008, 8].map (fun (x : W64) => (answered .hostRmaRead { paged with data := [0x100000000000000, x] }).map fun l => l.map Prod.fst) = [some [1], some [0]] ∧
    answered .hostSend (queued0 queue0 [0, 0x20, 11, 12, 0xFFFF000000000000]) = some [(1, [])] := by decide +kernel
theorem test_host_send : after .hostSend (queued0 queue0 [0, 0x20, 11, 12]) (fun t => (t.agenda.map fun o => match o.ins with
      | .messageArrival m => (m.dst, m.isTask, m.body.args)
      | _ => (9, true, [])) == [(0, false, [11, 12])] && t.out.map Answer.status == [0]) = true := by decide +kernel
theorem meets_HostEvents : rangeOk paged 0 0 false 2 8 = true ∧ rangeOk paged 0 0 true 2 8 = true ∧ rangeOk paged 0 65536 true 2 8 = false ∧
    hwOk (hwBytes { paged with data := [0x100000000000000, 8] } 0 0x100000000000000 8 none { data := [0x100000000000000, 8], ins := .hostRmaRead }) = some 0x2A ∧
    (paged.part 0).live = true ∧ (paged.part 0).resetting = false ∧ (queued0 queue0 []).placeOf 0 0 = some (0, 0) ∧ bits (0 : W64) 35 0 = 0 ∧
    (reqLen 8, reqBad 8, reqBad 0xFFFF000000000008, reqBad 0x1000000000008) = (8, false, true, false) ∧ queueAllowed (queued0 queue0 []) 0 0 = true := by
  decide +kernel

/-! ## Partition management -/

/-- Device 0 with partition 0, and clusters 2 and 15 free. -/
def managed (d : List W64) (cur : Nat := 0) (p : Part := {}) (v : Device := {}) : State :=
  { slots := [(0, { unit with level := lv })], parts := [(0, { p with live := true, clusters := [0] })], clusters := [(0, { part := some 0, seg := [(0, 0x1FFE00000000)] })],
    cores := [(0, { guards := [(1, true)], cpymask0 := 3 })], levels := [(lv.toNat, { outstanding := 1 })], devs := [(0, v)], data := d, cur := cur, mem := wordCells 0x40 [7] }
/-- Two clusters, fault service on core 127 of cluster 15, quotas 10 and 20, queues 0 and 2, the root, SCALEBASE, WDOGWIN. -/
def createData : List W64 := [2, 2048, 10, 20, 5, 0x10001, 0, 0x100, 2, 15]
def serving : Device := { boot := { roles := [(2047, 1)] } }

theorem test_create : after .partitionCreate (managed createData 1 {} serving) (fun t => (t.part 1).live && (t.part 1).clusters == [2, 15] && (t.part 1).root == 0x10001 && (t.part 1).faultCore == some 2047 &&
      (t.part 1).quotaLevels == 10 && (t.part 1).quotaTimers == 20 && (t.part 1).wdogwin == 0x100 && (t.cluster 2).part == some 1 && (t.cluster 15).rel == 1 &&
      Sp.get 0 (t.cluster 2).seg 15 == 0x101FFE00000000 && Sp.get 0 (t.cluster 15).seg 15 == 0x101EFE00000000 && (t.queue 0).own == some 1 && (t.queue 1).own == none &&
      (t.queue 2).own == some 1) = true ∧
    answered .partitionCreate (managed createData 1 {} { boot := { roles := [(2047, 2)] } }) = some [(1, [])] ∧
    after .partitionCreate (managed (createData ++ [2048 + 16 * 3 + 2, 0xF008300000]) 1 {} serving) (fun t => (t.core (15 * 128 + 3)).cls 2 == 0x8300000) = true ∧
    answered .partitionCreate (managed createData 0 {} serving) = some [(1, [])] ∧ answered .partitionCreate (managed [1, 0, 10, 20, 0, 0, 0, 0, 0] 1) = some [(1, [])] := by decide +kernel
theorem test_reset_asks : after .partitionReset (managed [1]) (fun t => !(t.part 0).resetting && (t.slot 0).preempt == some 0 && (t.slot 0).st == .ready &&
      t.agenda == [{ who := 0, data := [257], ins := .partitionReset }]) = true ∧ answered .partitionReset (managed [1] 1) = some [(1, [])] ∧
    answered .partitionReset (managed [1] 0 { resetting := true }) = some [(0, [])] ∧ answered .partitionReset (managed [1, 0, 5]) = some [(1, [])] := by decide +kernel
theorem test_reset_begins : after .partitionReset (managed [257]) (fun t => (t.part 0).resetting && (t.part 0).resetCause == 1 &&
      t.agenda.getLast? == some { who := 0, data := [513], ins := .partitionReset } &&
      (t.agenda.map Op.ins).contains (.levelUpdate { update false 1 0 with tag := 0, ack := false, addr := 0 })) = true := by decide +kernel
theorem test_reset_ends : after .partitionReset (managed [513] 0 { resetting := true, root := 5, signals := [(3, 9)] }) (fun t => !(t.part 0).resetting && (t.part 0).resets == 1 &&
      (t.part 0).root == 5 && (t.part 0).signals == [] && t.levels == [] && t.slot 0 == { gen := 1 } && (t.core 0).guards == [] && (t.core 0).cpymask0 == 3 && t.mem == [] &&
      (t.cluster 0).seg == [(15, 0x1FFE00000000)]) = true ∧
    after .partitionReset (managed [513, 0, 2, 0x8300000] 0 { resetting := true }) (fun t => (t.core 0).cls 2 == 0x8300000) = true := by decide +kernel
/-- An access that is held at its NI, 5 bytes of the injection budget used. -/
def heldOp : Op := { ins := .accessAcknowledge 0 1 4, inj := some (0, 0, some false) }
theorem test_budget : after .budgetPeriod (managed [] 0 { useInj := 9, budInj := 5, newInj := some 7 }) (fun t => (t.part 0).useInj == 0 && (t.part 0).budInj == 7 && (t.part 0).newInj == none &&
      (Sp.get [] t.timers 16000).map Op.ins == [.budgetPeriod]) = true ∧
    after .budgetPeriod { managed [] 0 { useInj := 9, budInj := 5 } with agenda := [heldOp] } (fun t => t.agenda == [{ heldOp with inj := none }] && (t.ni 0).sent0 == 1) = true ∧
    after .budgetPeriod { managed [] 1 { budInj := 5 } with agenda := [heldOp] } (fun t => t.agenda == [heldOp]) = true := by decide +kernel
theorem test_power : after .powerGovernorUpdate (managed [] 0 {} { pwrcap := 0 }) (fun t => (t.dev 0).pwrnow == 0 && (t.dev 0).pwrhist == [0]) = true := by decide +kernel
theorem test_flits : after .flitRetry (managed [3, 1] 0 {} { retries := [(3, 15)] }) (fun t => t.due == [{ who := 0, data := [3], ins := .linkPortDown }]) = true ∧
    after .flitRetry (managed [3, 1] 0 {} { retries := [(3, 4)] }) (fun t => Sp.get 0 (t.dev 0).retries 3 == 5 && t.due == []) = true ∧
    after .flitRetry (managed [3, 0] 0 {} { retries := [(3, 15)] }) (fun t => Sp.get 0 (t.dev 0).retries 3 == 1) = true ∧
    after .linkPortDown (managed [3]) (fun t => (t.dev 0).down == [3] && t.due.map Op.ins == [.routerFailure]) = true := by decide +kernel
theorem test_management_registers : after .registerWrite (managed [1, 13, 0, 5000]) (fun t => (t.dev 0).pwrcap == 4400) = true ∧
    after .registerWrite (managed [1, 14, 0, 40]) (fun t => (t.dev 0).pwrslope == 500) = true ∧ after .registerWrite (managed [1, 14, 0, 60]) (fun t => (t.dev 0).pwrslope == 60) = true ∧
    after .registerWrite (managed [1, 4, 0, 0x20001]) (fun t => (t.part 0).root == 0x20001) = true ∧
    answered .registerWrite (managed [1, 13, 0, 5] 0 {} { boot := { recovery := true } }) = some [(1, [])] := by decide +kernel
theorem meets_ManagementEvents : ((managed createData 1).part 1).live = false ∧ (managed createData 1 {} serving).serviceOk 0 2048 = true ∧ classesBad [] = false ∧
    classesBad [2048 + 16 * 3 + 2, 0x8300000] = false ∧ classesBad [5] = true ∧ powerLow {} ≤ powerHigh {} ∧ ([2, 15] : List Nat).Nodup ∧
    [2, 15].all (fun c => clusterDev c == 0 && ((managed createData 1).cluster c).part.isNone && !((managed createData 1).slice c).dead) = true ∧
    queueIdle ((managed createData 1).queue 0) = true ∧ ((managed []).part 0).live = true ∧ resetSettled (managed [513] 0 { resetting := true }) 0 = true ∧ partTouches (managed []) 0 0 = true ∧
    resetSettled { managed [] with copies := [(4, job 0)] } 0 = false ∧ (managed []).partSlots 0 = [0] ∧
    (({} : State).now + 1600) % 1600 = 0 ∧ Sp.find ({} : State).devs 3 = none ∧ ((managed []).clustersOf 0).Nodup ∧
    { ins := .powerGovernorUpdate } ∈ (passCycle { managed [] with now := 1599 }).due := by decide +kernel

/-! ## Debug -/

/-- Cluster 0, halted or not, in trigger group 1 with XIN; cluster 1 in the same group. -/
def debugged (halt : Bool) (t : Slot := unit) (d : List W64 := []) : State :=
  { slots := [(0, t)], parts := [(0, { live := true, clusters := [0, 1] })], data := d, mem := wordCells 0x40 [7] ++ [(2 ^ 44 + 33, 4)],
    clusters := [(0, { part := some 0, dbgctl := if halt then 0x20101 else 0x100 }), (1, { part := some 0, rel := 1, dbgctl := 0x110 })] }
theorem test_halt : after .halt (debugged false) (fun t => (t.cluster 0).dbgctl == 0x10103 && (t.cluster 1).dbgctl == 0x110) = true ∧
    after .haltRelease (debugged true) (fun t => !(t.cluster 0).dbgctl.getLsbD 0 && bits (t.cluster 0).dbgctl 17 16 == 2 && (t.slot 0).pc == 16) = true ∧
    after .haltRelease (debugged true { unit with atBrk := true }) (fun t => (t.slot 0).pc == 17 && !(t.slot 0).atBrk) = true := by decide +kernel
theorem test_step : after .debugStep (debugged true unit [0, 0]) (fun t => (t.slot 0).step) = true ∧ after .debugStep (debugged false unit [0, 0]) (fun t => !(t.slot 0).step) = true ∧
    after .triggerFire (debugged false unit [1]) (fun t => !(t.cluster 0).dbgctl.getLsbD 0 && (t.cluster 1).dbgctl.getLsbD 0 && bits (t.cluster 1).dbgctl 17 16 == 3) = true := by decide +kernel
theorem test_debug_reads : answered .debugAccess (debugged true { unit with g := [(3, 9)], fe := [(3, true)] } [0, 0, 0, 0, 3, 0]) = some [(0, [9, 1])] ∧
    answered .debugAccess (debugged true unit [3, 0, 0, 0, 0x40, 0]) = some [(0, [7])] ∧ answered .debugAccess (debugged true unit [3, 0, 0, 0, 0x41, 0]) = some [(1, [])] ∧
    answered .debugAccess (debugged false unit [3, 0, 0, 0, 0x40, 0]) = some [(1, [])] := by decide +kernel
theorem test_debug_writes : after .debugAccess (debugged true unit [0, 1, 0, 0, 3, 0, 8, 1]) (fun t => (t.slot 0).getG 3 == 8 && (t.slot 0).empty 3 && (t.dev 0).debugWrote) = true ∧
    after .debugAccess (debugged true unit [3, 1, 0, 0, 0x48, 0, 6]) (fun t => t.read 0x48 8 == 6) = true ∧
    answered .debugAccess (debugged true { unit with outst := [{ entry with dests := [3] }] } [0, 1, 0, 0, 3, 0, 8, 1]) = some [(2, [])] := by decide +kernel
def latched : Snapshot := { now := 0, seed := 1, slots := [(0, { unit with level := lv })], cores := [], clusters := [], slices := [], routers := [], nis := [], couriers := [], freed := [] }
def snapped (v : Device) (d : List W64) : State := { debugged false unit d with devs := [(0, v)], now := 1600 }
theorem test_snapshot : after .snapshotTrigger (snapped {} []) (fun t => (t.dev 0).snapWait && (Sp.get [] t.timers 1601).map Op.data == [[4]]) = true ∧
    after .snapshotTrigger (snapped { snap := some latched } []) (fun t => (t.dev 0).snapLost == 1) = true ∧
    after .snapshotLatch (snapped { snapWait := true } [3]) (fun t => !(t.dev 0).snapWait && ((t.dev 0).snap.map Snapshot.slots) == some [(0, unit)]) = true ∧
    after .snapshotLatch (snapped { snapWait := true } [4]) (fun t => (t.dev 0).snapWait && (Sp.get [] t.timers 1601).length == 1) = true := by decide +kernel
theorem test_snapshot_read : answered .snapshotRead (snapped { snap := some latched } [0, 0, 2]) = some [(0, [lv])] ∧ answered .snapshotRead (snapped { snap := some latched } [0, 0, 1]) = some [(0, [1])] ∧
    answered .snapshotRead (snapped { snap := some latched } [0, 0, 24]) = some [(1, [])] ∧ answered .snapshotRead (snapped {} [0, 0, 2]) = some [(1, [])] ∧
    after .snapshotRead (snapped { snap := some latched } [0, 5, 23]) (fun t => ((t.dev 0).snap.map Snapshot.freed) == some [5]) = true := by decide +kernel
theorem meets_DebugEvents : ((debugged true).cluster 0).dbgctl.getLsbD 0 = true ∧ ((debugged false).cluster 0).dbgctl.getLsbD 0 = false ∧ ((debugged true).cluster 0).dbgNext = none ∧
    bits ((debugged false).cluster 1).dbgctl 15 8 = 1 ∧ dbgXin ((debugged false).cluster 1).dbgctl = true ∧ unit.st = .ready ∧ unit.outst = [] ∧
    (3 : Nat) ≤ ((snapped {} []).ptpTime 0).toNat / 256 ∧ ((snapped {} []).ptpTime 0).toNat / 256 < 4 ∧ latched.freed.length + 1 < bankCount ∧
    (debugged true).debugServed 0 = true ∧ ({ debugged true with devs := [(0, { boot := { roles := [(2047, 1)] } })] } : State).debugServed 0 = false := by decide +kernel

theorem meets_DebugEvents_recovery : ((snapped { boot := { recovery := true } } []).dev (clusterDev 0)).boot.recovery = true ∧
    after .halt (snapped { boot := { recovery := true } } []) (fun t => !(t.cluster 0).dbgctl.getLsbD 0) = true ∧ ((debugged true).dev (clusterDev 0)).boot.recovery = false ∧
    ((snapped {} []).dev 0).boot.recovery = false ∧ ((snapped { snap := some latched } []).dev 0).boot.recovery = false := by decide +kernel

/-! ## Boot -/

def device (v : Device) (d : List W64) (cur : Nat := 0) : State := { devs := [(0, v)], data := d, cur := cur }
theorem test_updates : after .imageWrite (device {} [0, 4, 2, 0x332211]) (fun t => (t.dev 0).flash == [(0x100004, 0x11), (0x100005, 0x22)]) = true ∧
    answered .imageWrite (device {} [2, 4, 2, 0x332211]) = some [(1, [])] ∧ after .svnFloorRaise (device { floor := 3 } [4]) (fun t => (t.dev 0).floor == 4) = true ∧
    answered .svnFloorRaise (device { floor := 3 } [3]) = some [(1, [])] ∧ answered .markerFlip (device {} [2]) = some [(1, [])] := by decide +kernel
theorem test_attestation : answered .attestationRequest (device { debugWrote := true } [1, 2, 3, 4]) = some [(3, [])] ∧
    answered .attestationRequest (device { boot := { recovery := true } } [1, 2, 3, 4]) = some [(1, [])] ∧
    answered .attestationRequest { device {} [1, 2, 3, 4] with clusters := [(0, { dbgctl := 1 })] } = some [(1, [])] ∧
    answered .signingRequest (device {} [1, 2, 3, 4, 5, 6, 7, 8]) = some [(1, [])] := by decide +kernel
theorem meets_BootEvents : markerInUse {} = none ∧ ({} : Device).boot.recovery = false ∧ anyHalted (device {} []) 0 = false ∧ ([] : List (List Byte)).contains [1] = false ∧
    Sp.get 0 ({ roles := [(0, 4)] } : Boot).roles 0 = 4 ∧ (3 : BitVec 32).toNat < (4 : BitVec 32).toNat ∧
    answered .imageWrite (device { boot := { recovery := true } } [0, 4, 2, 0x332211]) = some [(1, [])] := by decide +kernel

/-! ## The machine as a whole -/

theorem meets_StepRunsDecoded_due : let s : State := { box unit with due := [{ who := 0, ins := .halt }] }
    opDev { s with due := [] } { who := 0, ins := .halt } < devices ∧ haltHolds { s with due := [] } { who := 0, ins := .halt } = none := by decide +kernel
/-- Slot 0 of a halted cluster, for which an asynchronous cause has come. -/
def haltedBox : State := { debugged true with due := [{ who := 0, ins := .asyncCauseDelivery 0 1 0 }] }
theorem meets_StepRunsDecoded_halted : haltHolds { haltedBox with due := [] } { who := 0, ins := .asyncCauseDelivery 0 1 0 } = some 0 ∧
    opDev { haltedBox with due := [] } { who := 0, ins := .asyncCauseDelivery 0 1 0 } < devices ∧ (match step haltedBox with
      | .next t => !(t.slot 0).cancel && (t.cluster 0).haltHeld.map Prod.fst == [0]
      | _ => false) = true := by decide +kernel
/-- Slot 0 is to issue ADD g3, g1, g2 at PC 16. -/
def fetching : State := { box { unit with g := [(1, 5), (2, 7)] } with mem := [(istoreLoc 0 32, 0x94), (istoreLoc 0 33, 0x05)], issuable := [0] }
theorem test_fetch : (match step fetching with
    | .next t => (t.slot 0).getG 3 == 12 && (t.slot 0).pc == 17 && t.issuable == []
    | _ => false) = true := by decide +kernel
theorem meets_StepRunsDecoded : moves fetching = [.issue 0] ∧ fetching.due = [] ∧ groupWords fetching 0 = some [0x0594] ∧ (fetching.slot 0).st = .ready ∧
    decodeWords [0x0594] = .ok (.add { d := 3, a := 1, b := 2 }) ∧ decodeTableWord 16 0x0594 = some (.add { d := 3, a := 1, b := 2 }) := by decide +kernel
/-- A group that waited keeps the words it was fetched with. -/
theorem test_waiting_words : let s : State := { fetching with slots := [(0, { unit with st := .waiting (.reg 3), words := some [0x0594] })], mem := [] }
    groupWords s 0 = some [(0x0594 : Half)] := by decide +kernel
theorem meets_StepKeepsMemory : MemInv fetching ∧ (match step fetching with | .next _ => true | _ => false) = true := by unfold MemInv; decide +kernel
theorem meets_MemoryReadAfterWrite : MemInv memory := by unfold MemInv; decide +kernel
/-- A byte that a path may not see yet, of a write that another one at 64 does not meet. -/
theorem meets_MemoryReadAfterWrite_unseen : let s : State := { memory with unseen := [(3, { path := 0, hides := [1], old := 5, id := 1 })] }
    Sp.find s.unseen 64 = none ∧ (Sp.find s.unseen 3).isSome = true ∧ (∀ q ∈ s.unseen, 64 ≤ q.1 → q.1 < 72 → q.2.id ≠ 1) := by decide +kernel
theorem meets_FusesAndFlash : after .svnFloorRaise (device { floor := 3 } [4]) (fun _ => true) = true ∧
    after .imageWrite (device {} [0, 4, 2, 0x332211]) (fun _ => true) = true := by decide +kernel
theorem meets_NothingIsRefused : (fetching.due ++ fetching.agenda = []) ∧ moves fetching = [.issue 0] ∧ fetching.clusters.all (fun c => c.2.haltHeld.isEmpty) = true := by decide +kernel
theorem test_from_reset : (match step (State.reset.withFetchWord 16 0x5285) with
    | .next t => (t.slot 0).getG 5 == 5 && (t.slot 0).pc == 1
    | _ => false) = true := by decide +kernel

/-! ## Decoding and encoding

The words below are written out from the formats and the opcode map of the spec, field by field: op6, d, a, b, f; op6, d, a, imm; op6, d, imm;
op6, imm; op6, d, a, m, imm; before them XP with its page. -/

/-- The words decode to the instruction, and encoding it gives the words. -/
def reads (q : List Half × Instr) : Bool :=
  (match decodeWords q.1 with
    | .ok i => i == q.2
    | .error _ => false) && encode q.2 == q.1

def words0a : List (List Half × Instr) :=
  [([0b000001_011_001_010_1], .add { d := 3, a := 1, b := 2, f := true }), ([0b000010_011_001_010_1], .sub { d := 3, a := 1, b := 2, f := true }),
   ([0b000011_011_001_010_1], .and { d := 3, a := 1, b := 2, f := true }), ([0b000100_011_001_010_1], .or { d := 3, a := 1, b := 2, f := true }),
   ([0b000101_011_001_010_1], .xor { d := 3, a := 1, b := 2, f := true }), ([0b000110_011_001_010_1], .shl { d := 3, a := 1, b := 2, f := true }),
   ([0b000111_011_001_010_1], .shr { d := 3, a := 1, b := 2, f := true }), ([0b001000_011_001_010_1], .mul { d := 3, a := 1, b := 2, f := true }),
   ([0b001001_011_001_010_1], .slt { d := 3, a := 1, b := 2, f := true }), ([0b001010_011_001_010_1], .min { d := 3, a := 1, b := 2, f := true }),
   ([0b001011_011_001_010_1], .max { d := 3, a := 1, b := 2, f := true }), ([0b001100_011_001_0101], .addi { d := 3, a := 1, imm := 5 }),
   ([0b001101_011_001_0101], .andi { d := 3, a := 1, imm := 5 }), ([0b001110_011_001_0101], .ori { d := 3, a := 1, imm := 5 }),
   ([0b001111_011_001_0101], .xori { d := 3, a := 1, imm := 5 }), ([0b010000_011_001_0101], .shli { d := 3, a := 1, imm := 5 }),
   ([0b010001_011_001_0101], .shri { d := 3, a := 1, imm := 5 }), ([0b010010_011_001_0101], .srai { d := 3, a := 1, imm := 5 }),
   ([0b010011_011_001_0101], .slti { d := 3, a := 1, imm := 5 }), ([0b010100_011_0000101], .movi { d := 3, imm := 5 }),
   ([0b010101_011_0000101], .movhi { d := 3, imm := 5 }), ([0b010110_011_001_010_1], .lea { d := 3, a := 1, b := 2, f := true }),
   ([0b011000_0000000101], .br { imm := 5 }), ([0b011001_0000000101], .call { imm := 5 })]
def words0b : List (List Half × Instr) :=
  [([0b011010_011_001_000_0], .jr { d := 3, a := 1 }), ([0b011100_011_001_0101], .beq { d := 3, a := 1, imm := 5 }),
   ([0b011101_011_001_0101], .bne { d := 3, a := 1, imm := 5 }), ([0b011110_011_001_0101], .blt { d := 3, a := 1, imm := 5 }),
   ([0b011111_011_001_0101], .bge { d := 3, a := 1, imm := 5 }), ([0b100000_011_001_0101], .bltu { d := 3, a := 1, imm := 5 }),
   ([0b100001_011_001_0101], .bgeu { d := 3, a := 1, imm := 5 }), ([0b100010_011_0000101], .bz { d := 3, imm := 5 }),
   ([0b100011_011_0000101], .bnz { d := 3, imm := 5 }), ([0b100100_011_0000101], .loop { d := 3, imm := 5 }),
   ([0b100101_011_001_10_01], .ldBu { d := 3, a := 1, mode := 2, imm := 1 }), ([0b100110_011_001_10_01], .ldHu { d := 3, a := 1, mode := 2, imm := 1 }),
   ([0b100111_011_001_10_01], .ldWu { d := 3, a := 1, mode := 2, imm := 1 }), ([0b101000_011_001_10_01], .ldD { d := 3, a := 1, mode := 2, imm := 1 }),
   ([0b101001_011_001_10_01], .ldBs { d := 3, a := 1, mode := 2, imm := 1 }), ([0b101010_011_001_10_01], .ldHs { d := 3, a := 1, mode := 2, imm := 1 }),
   ([0b101011_011_001_10_01], .ldWs { d := 3, a := 1, mode := 2, imm := 1 }), ([0b101100_011_001_10_01], .stB { d := 3, a := 1, mode := 2, imm := 1 }),
   ([0b101101_011_001_10_01], .stH { d := 3, a := 1, mode := 2, imm := 1 }), ([0b101110_011_001_10_01], .stW { d := 3, a := 1, mode := 2, imm := 1 }),
   ([0b101111_011_001_10_01], .stD { d := 3, a := 1, mode := 2, imm := 1 }), ([0b110000_011_001_10_01], .vld { d := 3, a := 1, mode := 2, imm := 1 }),
   ([0b110001_011_001_10_01], .vst { d := 3, a := 1, mode := 2, imm := 1 })]
def words1a : List (List Half × Instr) :=
  [([0b111110_0000000001, 0b000000_011_001_010_0], .mulhu { d := 3, a := 1, b := 2, xp := true }),
   ([0b111110_0000000001, 0b000001_011_001_010_0], .mulhs { d := 3, a := 1, b := 2, xp := true }),
   ([0b111110_0000000001, 0b000010_011_001_010_1], .div { d := 3, a := 1, b := 2, f := true, xp := true }),
   ([0b111110_0000000001, 0b000011_011_001_010_1], .rem { d := 3, a := 1, b := 2, f := true, xp := true }),
   ([0b111110_0000000001, 0b000100_011_001_000_1], .clz { d := 3, a := 1, f := true, xp := true }),
   ([0b111110_0000000001, 0b000101_011_001_000_1], .ctz { d := 3, a := 1, f := true, xp := true }),
   ([0b111110_0000000001, 0b000110_011_001_000_1], .popc { d := 3, a := 1, f := true, xp := true }),
   ([0b111110_0000000001, 0b000111_011_001_010_1], .rot { d := 3, a := 1, b := 2, f := true, xp := true }),
   ([0b111110_0000000001, 0b001000_011_001_0101], .extu { d := 3, a := 1, imm := 5, xp := true }),
   ([0b111110_0000000001, 0b001001_011_001_0101], .exts { d := 3, a := 1, imm := 5, xp := true }),
   ([0b111110_0000000001, 0b001010_011_001_0101], .ins { d := 3, a := 1, imm := 5, xp := true }),
   ([0b111110_0000000001, 0b010000_011_001_010_0], .fadd { d := 3, a := 1, b := 2, xp := true }),
   ([0b111110_0000000001, 0b010001_011_001_010_0], .fsub { d := 3, a := 1, b := 2, xp := true }),
   ([0b111110_0000000001, 0b010010_011_001_010_0], .fmul { d := 3, a := 1, b := 2, xp := true }),
   ([0b111110_0000000001, 0b010011_011_001_010_0], .fma { d := 3, a := 1, b := 2, xp := true }),
   ([0b111110_0000000001, 0b010100_011_001_010_0], .fmin { d := 3, a := 1, b := 2, xp := true }),
   ([0b111110_0000000001, 0b010101_011_001_010_0], .fmax { d := 3, a := 1, b := 2, xp := true }),
   ([0b111110_0000000001, 0b010110_011_001_010_0], .flt { d := 3, a := 1, b := 2, xp := true }),
   ([0b111110_0000000001, 0b010111_011_001_010_0], .feq { d := 3, a := 1, b := 2, xp := true }),
   ([0b111110_0000000001, 0b011000_011_001_010_1], .fcvtf { d := 3, a := 1, b := 2, f := true, xp := true }),
   ([0b111110_0000000001, 0b011001_011_001_010_1], .fcvti { d := 3, a := 1, b := 2, f := true, xp := true }),
   ([0b111110_0000000001, 0b011010_011_001_010_0], .fdiv { d := 3, a := 1, b := 2, xp := true }),
   ([0b111110_0000000001, 0b011011_011_001_000_0], .fsqrt { d := 3, a := 1, xp := true })]
def words2a : List (List Half × Instr) :=
  [([0b111110_0000000010, 0b000000_011_001_010_1], .vadd { d := 3, a := 1, b := 2, f := true, xp := true }),
   ([0b111110_0000000010, 0b000001_011_001_010_1], .vsub { d := 3, a := 1, b := 2, f := true, xp := true }),
   ([0b111110_0000000010, 0b000010_011_001_010_1], .vmul { d := 3, a := 1, b := 2, f := true, xp := true }),
   ([0b111110_0000000010, 0b000011_011_001_010_1], .vmin { d := 3, a := 1, b := 2, f := true, xp := true }),
   ([0b111110_0000000010, 0b000100_011_001_010_1], .vmax { d := 3, a := 1, b := 2, f := true, xp := true }),
   ([0b111110_0000000010, 0b000101_011_001_010_1], .vand { d := 3, a := 1, b := 2, f := true, xp := true }),
   ([0b111110_0000000010, 0b000110_011_001_010_1], .vor { d := 3, a := 1, b := 2, f := true, xp := true }),
   ([0b111110_0000000010, 0b000111_011_001_010_1], .vxor { d := 3, a := 1, b := 2, f := true, xp := true }),
   ([0b111110_0000000010, 0b001000_011_001_010_1], .vshl { d := 3, a := 1, b := 2, f := true, xp := true }),
   ([0b111110_0000000010, 0b001001_011_001_010_1], .vshr { d := 3, a := 1, b := 2, f := true, xp := true }),
   ([0b111110_0000000010, 0b001010_011_001_010_1], .vfadd { d := 3, a := 1, b := 2, f := true, xp := true }),
   ([0b111110_0000000010, 0b001011_011_001_010_1], .vfsub { d := 3, a := 1, b := 2, f := true, xp := true }),
   ([0b111110_0000000010, 0b001100_011_001_010_1], .vfmul { d := 3, a := 1, b := 2, f := true, xp := true }),
   ([0b111110_0000000010, 0b001101_011_001_010_1], .vfma { d := 3, a := 1, b := 2, f := true, xp := true }),
   ([0b111110_0000000010, 0b001110_011_001_010_1], .vfmin { d := 3, a := 1, b := 2, f := true, xp := true }),
   ([0b111110_0000000010, 0b001111_011_001_010_1], .vfmax { d := 3, a := 1, b := 2, f := true, xp := true }),
   ([0b111110_0000000010, 0b010000_011_001_010_1], .vfclt { d := 3, a := 1, b := 2, f := true, xp := true }),
   ([0b111110_0000000010, 0b010001_011_001_010_1], .vfcle { d := 3, a := 1, b := 2, f := true, xp := true }),
   ([0b111110_0000000010, 0b010010_011_001_010_1], .vfceq { d := 3, a := 1, b := 2, f := true, xp := true }),
   ([0b111110_0000000010, 0b010011_011_001_010_1], .viclt { d := 3, a := 1, b := 2, f := true, xp := true }),
   ([0b111110_0000000010, 0b010100_011_001_010_1], .viceq { d := 3, a := 1, b := 2, f := true, xp := true }),
   ([0b111110_0000000010, 0b010110_011_001_000_1], .vbcast { d := 3, a := 1, f := true, xp := true }),
   ([0b111110_0000000010, 0b010111_011_001_0101], .vext { d := 3, a := 1, imm := 5, xp := true }),
   ([0b111110_0000000010, 0b011000_011_001_0101], .vins { d := 3, a := 1, imm := 5, xp := true })]
def words2b : List (List Half × Instr) :=
  [([0b111110_0000000010, 0b011001_011_001_010_1], .vperm { d := 3, a := 1, b := 2, f := true, xp := true }),
   ([0b111110_0000000010, 0b011010_011_001_000_1], .vrsum { d := 3, a := 1, f := true, xp := true }),
   ([0b111110_0000000010, 0b011011_011_001_000_1], .vfexp2 { d := 3, a := 1, f := true, xp := true }),
   ([0b111110_0000000010, 0b011100_011_001_000_1], .vflog2 { d := 3, a := 1, f := true, xp := true }),
   ([0b111110_0000000010, 0b011101_011_001_000_1], .vfrcp { d := 3, a := 1, f := true, xp := true }),
   ([0b111110_0000000010, 0b011110_011_001_000_1], .vfrsq { d := 3, a := 1, f := true, xp := true }),
   ([0b111110_0000000010, 0b100000_011_001_0101], .vcvt { d := 3, a := 1, imm := 5, xp := true }),
   ([0b111110_0000000010, 0b100001_011_001_010_1], .vscale { d := 3, a := 1, b := 2, f := true, xp := true }),
   ([0b111110_0000000010, 0b100010_011_001_000_1], .vamax { d := 3, a := 1, f := true, xp := true }),
   ([0b111110_0000000010, 0b100011_011_001_010_0], .vgath { d := 3, a := 1, b := 2, xp := true }),
   ([0b111110_0000000010, 0b100100_011_001_010_0], .vscat { d := 3, a := 1, b := 2, xp := true }),
   ([0b111110_0000000010, 0b100101_011_001_10_01], .vldf { d := 3, a := 1, mode := 2, imm := 1, xp := true }),
   ([0b111110_0000000010, 0b101000_011_001_010_0], .kand { d := 3, a := 1, b := 2, xp := true }),
   ([0b111110_0000000010, 0b101001_011_001_010_0], .kor { d := 3, a := 1, b := 2, xp := true }),
   ([0b111110_0000000010, 0b101010_011_001_010_0], .kxor { d := 3, a := 1, b := 2, xp := true }),
   ([0b111110_0000000010, 0b101011_011_001_000_0], .knot { d := 3, a := 1, xp := true }),
   ([0b111110_0000000010, 0b101100_011_001_000_0], .ktog { d := 3, a := 1, xp := true }),
   ([0b111110_0000000010, 0b101101_011_001_000_0], .gtok { d := 3, a := 1, xp := true })]
def words3a : List (List Half × Instr) :=
  [([0b111110_0000000011, 0b000000_011_001_010_1], .aadd { d := 3, a := 1, b := 2, f := true, xp := true }),
   ([0b111110_0000000011, 0b000001_011_001_010_1], .asmin { d := 3, a := 1, b := 2, f := true, xp := true }),
   ([0b111110_0000000011, 0b000010_011_001_010_1], .asmax { d := 3, a := 1, b := 2, f := true, xp := true }),
   ([0b111110_0000000011, 0b000011_011_001_010_1], .aumin { d := 3, a := 1, b := 2, f := true, xp := true }),
   ([0b111110_0000000011, 0b000100_011_001_010_1], .aumax { d := 3, a := 1, b := 2, f := true, xp := true }),
   ([0b111110_0000000011, 0b000101_011_001_010_1], .aand { d := 3, a := 1, b := 2, f := true, xp := true }),
   ([0b111110_0000000011, 0b000110_011_001_010_1], .aor { d := 3, a := 1, b := 2, f := true, xp := true }),
   ([0b111110_0000000011, 0b000111_011_001_010_1], .axor { d := 3, a := 1, b := 2, f := true, xp := true }),
   ([0b111110_0000000011, 0b001000_011_001_010_1], .aswp { d := 3, a := 1, b := 2, f := true, xp := true }),
   ([0b111110_0000000011, 0b001001_011_001_010_1], .cas { d := 3, a := 1, b := 2, f := true, xp := true }),
   ([0b111110_0000000011, 0b010000_0000010000], .fence { imm := 16, xp := true }),
   ([0b111110_0000000011, 0b010001_011_001_000_1], .acq { d := 3, a := 1, f := true, xp := true }),
   ([0b111110_0000000011, 0b010010_011_001_000_1], .rel { d := 3, a := 1, f := true, xp := true }),
   ([0b111110_0000000011, 0b010011_011_001_010_1], .bind { d := 3, a := 1, b := 2, f := true, xp := true }),
   ([0b111110_0000000011, 0b011000_011_001_010_0], .cpy { d := 3, a := 1, b := 2, xp := true }),
   ([0b111110_0000000011, 0b011001_000_001_000_0], .cpys { a := 1, xp := true }), ([0b111110_0000000011, 0b011010_000_001_000_0], .cpy3 { a := 1, xp := true }),
   ([0b111110_0000000011, 0b011011_000_001_000_0], .cpym { a := 1, xp := true }),
   ([0b111110_0000000011, 0b100000_000_001_010_1], .guard { a := 1, b := 2, f := true, xp := true }),
   ([0b111110_0000000011, 0b101000_011_001_000_0], .tglook { d := 3, a := 1, xp := true }),
   ([0b111110_0000000011, 0b101001_011_001_000_0], .tgset { d := 3, a := 1, xp := true }),
   ([0b111110_0000000011, 0b101010_000_001_000_0], .tgclr { a := 1, xp := true }), ([0b111110_0000000011, 0b101011_000_001_000_0], .tgcfg { a := 1, xp := true })]
def words4a : List (List Half × Instr) :=
  [([0b111110_0000000100, 0b000000_011_000_000_0], .mxlease { d := 3, xp := true }), ([0b111110_0000000100, 0b000001_000_000_000_0], .mxfree { xp := true }),
   ([0b111110_0000000100, 0b000010_000_001_000_0], .mxcfg { a := 1, xp := true }), ([0b111110_0000000100, 0b000011_000_001_000_0], .mxunf { a := 1, xp := true }),
   ([0b111110_0000000100, 0b000100_000_001_010_0], .mxldb { a := 1, b := 2, xp := true }), ([0b111110_0000000100, 0b000101_000_000_000_0], .mxzero { xp := true }),
   ([0b111110_0000000100, 0b000110_000_001_010_0], .mxrun { a := 1, b := 2, xp := true }),
   ([0b111110_0000000100, 0b000111_000_001_010_0], .mxrd { a := 1, b := 2, xp := true }),
   ([0b111110_0000000100, 0b001000_000_001_010_0], .mxrdx { a := 1, b := 2, xp := true }),
   ([0b111110_0000000100, 0b001001_011_001_000_0], .mxstat { d := 3, a := 1, xp := true }), ([0b111110_0000000100, 0b001010_000_000_000_0], .mxstop { xp := true }),
   ([0b111110_0000000100, 0b001011_000_000_000_0], .mxresume { xp := true }), ([0b111110_0000000100, 0b001100_011_000_000_0], .mxwait { d := 3, xp := true })]
def words5a : List (List Half × Instr) :=
  [([0b111110_0000000101, 0b000000_011_001_010_0], .send { d := 3, a := 1, b := 2, xp := true }),
   ([0b111110_0000000101, 0b000001_011_001_010_0], .sendm { d := 3, a := 1, b := 2, xp := true }),
   ([0b111110_0000000101, 0b000010_000_001_010_0], .popen { a := 1, b := 2, xp := true }),
   ([0b111110_0000000101, 0b000011_000_001_000_0], .pclose { a := 1, xp := true }),
   ([0b111110_0000000101, 0b000100_000_001_000_0], .plisten { a := 1, xp := true }),
   ([0b111110_0000000101, 0b000101_011_001_000_0], .pstat { d := 3, a := 1, xp := true }),
   ([0b111110_0000000101, 0b001000_011_001_000_0], .cqdecl { d := 3, a := 1, xp := true }),
   ([0b111110_0000000101, 0b001001_011_001_010_1], .cqpush { d := 3, a := 1, b := 2, f := true, xp := true }),
   ([0b111110_0000000101, 0b001010_011_001_000_0], .cqpop { d := 3, a := 1, xp := true }),
   ([0b111110_0000000101, 0b001011_011_001_010_0], .cqstat { d := 3, a := 1, b := 2, xp := true }),
   ([0b111110_0000000101, 0b001100_011_001_000_0], .rdxadd { d := 3, a := 1, xp := true }),
   ([0b111110_0000000101, 0b010000_011_001_010_0], .twrel { d := 3, a := 1, b := 2, xp := true }),
   ([0b111110_0000000101, 0b010001_011_000_000_0], .time { d := 3, xp := true }),
   ([0b111110_0000000101, 0b010100_011_001_010_0], .dcset { d := 3, a := 1, b := 2, xp := true }),
   ([0b111110_0000000101, 0b010101_000_001_010_0], .dcdec { a := 1, b := 2, xp := true }),
   ([0b111110_0000000101, 0b011000_011_001_010_0], .swinit { d := 3, a := 1, b := 2, xp := true }),
   ([0b111110_0000000101, 0b011001_011_001_010_0], .swwait { d := 3, a := 1, b := 2, xp := true }),
   ([0b111110_0000000101, 0b011010_000_001_010_1], .swadd { a := 1, b := 2, f := true, xp := true }),
   ([0b111110_0000000101, 0b011100_011_001_000_0], .bar { d := 3, a := 1, xp := true }), ([0b111110_0000000101, 0b011101_000_000_000_0], .phflip { xp := true }),
   ([0b111110_0000000101, 0b011110_011_001_000_0], .quiet { d := 3, a := 1, xp := true })]
def words6a : List (List Half × Instr) :=
  [([0b111110_0000000110, 0b000000_000_001_000_0], .tcall { a := 1, xp := true }), ([0b111110_0000000110, 0b000001_000_000_000_0], .tret { xp := true }),
   ([0b111110_0000000110, 0b000010_000_000_000_0], .tseed { xp := true }), ([0b111110_0000000110, 0b000011_011_001_000_0], .tpin { d := 3, a := 1, xp := true }),
   ([0b111110_0000000110, 0b000100_011_001_000_0], .tunpin { d := 3, a := 1, xp := true }),
   ([0b111110_0000000110, 0b000101_011_001_000_0], .tinv { d := 3, a := 1, xp := true }),
   ([0b111110_0000000110, 0b000110_011_001_010_0], .tqry { d := 3, a := 1, b := 2, xp := true }),
   ([0b111110_0000000110, 0b001000_011_001_010_0], .arnew { d := 3, a := 1, b := 2, xp := true }),
   ([0b111110_0000000110, 0b001001_011_001_000_0], .aren { d := 3, a := 1, xp := true }),
   ([0b111110_0000000110, 0b001010_011_000_000_0], .arcom { d := 3, xp := true }), ([0b111110_0000000110, 0b001011_000_000_000_0], .arabt { xp := true }),
   ([0b111110_0000000110, 0b001100_011_001_010_0], .arinfo { d := 3, a := 1, b := 2, xp := true }),
   ([0b111110_0000000110, 0b010000_000_001_010_0], .lvinc { a := 1, b := 2, xp := true }),
   ([0b111110_0000000110, 0b010001_000_001_010_0], .lvdec { a := 1, b := 2, xp := true }),
   ([0b111110_0000000110, 0b010010_011_001_000_0], .lvwait { d := 3, a := 1, xp := true }),
   ([0b111110_0000000110, 0b010011_000_001_000_0], .lvcancel { a := 1, xp := true }), ([0b111110_0000000110, 0b011000_0000000101], .trap { imm := 5, xp := true }),
   ([0b111110_0000000110, 0b011001_000_000_000_0], .rft { xp := true }), ([0b111110_0000000110, 0b011010_011_000_0011], .sysr { d := 3, imm := 3, xp := true }),
   ([0b111110_0000000110, 0b011011_000_001_0011], .sysw { a := 1, imm := 3, xp := true }), ([0b111110_0000000110, 0b011100_000_000_000_0], .exit { xp := true }),
   ([0b111110_0000000110, 0b011101_000_000_000_0], .yield { xp := true }), ([0b111110_0000000110, 0b011110_000_001_000_0], .persist { a := 1, xp := true }),
   ([0b111110_0000000110, 0b011111_000_000_000_0], .beat { xp := true })]
def words6b : List (List Half × Instr) :=
  [([0b111110_0000000110, 0b100000_000_000_000_0], .brk { xp := true })]

theorem test_words0a : words0a.all reads = true := by decide +kernel
theorem test_words0b : words0b.all reads = true := by decide +kernel
theorem test_words1a : words1a.all reads = true := by decide +kernel
theorem test_words2a : words2a.all reads = true := by decide +kernel
theorem test_words2b : words2b.all reads = true := by decide +kernel
theorem test_words3a : words3a.all reads = true := by decide +kernel
theorem test_words4a : words4a.all reads = true := by decide +kernel
theorem test_words5a : words5a.all reads = true := by decide +kernel
theorem test_words6a : words6a.all reads = true := by decide +kernel
theorem test_words6b : words6b.all reads = true := by decide +kernel

/-- The words the spec prints in its examples (R222, R224, R240, R244, R249, R250, R252, R257, R261 and on). -/
def printed : List (List Half × Instr) :=
  [([0xF408, 0x075E], .add { d := 6, a := 5, b := 7, ta := true, xr := true }),
   ([0xF680, 0xF080, 0xA0CC], .ldD { d := 17, a := 20, mode := 3, imm := 0x200, xr := true, nxi := 1 }),
   ([0xF801, 0xF550, 0x6814], .fdiv { d := 8, a := 9, b := 10, xp := true, xr := true }), ([0x32DD], .addi { d := 5, a := 5, imm := -3 }),
   ([0xF007, 0x5268], .movi { d := 4, imm := 1000, nxi := 1 }), ([0xF801, 0x1371], .clz { d := 6, a := 7, f := true, xp := true }),
   ([0xF801, 0xF01C, 0x26E4], .exts { d := 5, a := 6, imm := 0x1C4, xp := true, nxi := 1 }), ([0xF801, 0x4E5C], .fma { d := 4, a := 5, b := 6, xp := true }),
   ([0x7A5A], .blt { d := 4, a := 5, imm := -6 }), ([0x5280], .movi { d := 5 }), ([0x06D8], .add { d := 5, a := 5, b := 4 }), ([0x9201], .loop { d := 4, imm := 1 })]
def printedV : List (List Half × Instr) :=
  [([0xF802, 0xA138], .kand { d := 2, a := 3, b := 4, xp := true }), ([0xF802, 0x0001], .vadd { f := true, xp := true }), ([0xF802, 0x6AA0], .vrsum { d := 5, a := 2, xp := true }),
   ([0xF802, 0x94EC], .vldf { d := 1, a := 6, mode := 3, xp := true }), ([0xF802, 0xF002, 0x5EB7], .vext { d := 5, a := 3, imm := 0x27, xp := true, nxi := 1 }),
   ([0xF802, 0x8252], .vcvt { d := 4, a := 5, imm := 2, xp := true })]
theorem test_printed : printed.all reads = true := by decide +kernel
theorem test_printed_vector : printedV.all reads = true := by decide +kernel

/-- Words that are no instruction, with the word and position that R227 reports. -/
def refuses (ws : List Half) (w : Half) (pos : Nat) : Bool :=
  match decodeWords ws with
  | .error e => e == .illegal w pos
  | .ok _ => false
theorem test_illegal : refuses [0xF080, 0xF408, 0xF080, 0x075E] 0xF080 2 = true ∧ refuses [0xF408, 0x6814] 0x6814 1 = true ∧ refuses [0x0000] 0 0 = true ∧ refuses [0xF807] 0xF807 0 = true ∧
    refuses [0xF801, 0xF802, 0x0400] 0xF802 1 = true ∧ refuses [0x5C00] 0x5C00 0 = true ∧ refuses [0xF000, 0xF000, 0xF000, 0xF000, 0xF000, 0x5280] 0xF000 4 = true := by decide +kernel
theorem meets_DecodedIsWellFormed : ([0xF000, 0xF001, 0xF800, 0xFFFF, 0xF400] : List Half).all isPrefixWord = true := by decide +kernel
theorem meets_DecodedIsWellFormed_word : reads ([0x0594], .add { d := 3, a := 1, b := 2 }) = true := by decide +kernel
theorem meets_RoundTrip : (Instr.add { d := 3, a := 1, b := 2 }).encodedWf = true ∧ (Instr.vsel { d := 15, xp := true, xr := true, xk := some (true, 7) }).encodedWf = true := by decide +kernel

/-! ## What WellFormed refuses: an ill-formed instruction for each check -/

theorem test_wf_registers : [Instr.clz { d := 3, a := 1, b := 1, xp := true }, .ldD { d := 24, mode := 1, xr := true }, .fdiv { d := 24, xp := true, xr := true }, .rdxadd { d := 23, xp := true, xr := true },
    .vadd { d := 16, f := true, xp := true, xr := true }, .kand { d := 8, xp := true, xr := true }, .fcvtf { b := 1, xp := true }, .fcvti { b := 4, xp := true },
    .sysr { d := 24, imm := 0x040, xp := true, xr := true, nxi := 1 }, .br { d := 1, imm := 1 }].all (fun i => !i.encodedWf) = true := by decide +kernel
theorem test_wf_bits : [Instr.fadd { d := 1, f := true, xp := true }, .add { d := 1, td := true, xr := true }, .movi { d := 1, ta := true, xr := true }, .addi { d := 1, tb := true, xr := true },
    .add { d := 1, mode := 1 }].all (fun i => !i.encodedWf) = true := by decide +kernel
theorem test_wf_immediates : [Instr.add { d := 1, imm := 1 }, .shli { d := 1, imm := 64, nxi := 1 }, .exts { d := 1, imm := 0xFC1, nxi := 1, xp := true }, .vext { d := 1, imm := 0x10, nxi := 1, xp := true },
    .vcvt { d := 1, imm := 14, xp := true }, .fence { imm := 1, xp := true }, .fence { imm := 0x50, xp := true }, .fence { imm := 0x280, xp := true }, .sysr { d := 1, imm := 5, xp := true },
    .sysw { imm := 0x1020, nxi := 1, xp := true }].all (fun i => !i.encodedWf) = true := by decide +kernel
theorem test_wf_prefixes : [Instr.add { d := 1, nxi := 1 }, .fence { imm := 0x10, nxi := 1, xp := true }, .br { imm := 1, xr := true }, .kand { d := 1, xp := true, xk := some (false, 1) },
    .vsel { d := 1, xp := true }, .movi { d := 1, nxi := 5 }, .fadd { d := 1 }, .add { d := 8 }, .add { d := 1, ta := true }, .addi { d := 1, imm := 8 }, .vadd { xp := true }].all (fun i => !i.encodedWf)
    = true := by decide +kernel
theorem test_wf_events : [Instr.halt, .illegalGroup false 0 0 0, .fill 0 0 0 0].all (fun i => !i.encodedWf && encode i == []) = true := by decide +kernel
/-- Each of them is well formed once what is wrong is put right. -/
theorem test_wf_right : [Instr.clz { d := 3, a := 1, xp := true }, .ldD { d := 24, xr := true }, .fdiv { d := 23, xp := true, xr := true }, .rdxadd { d := 22, xp := true, xr := true },
    .vadd { d := 15, f := true, xp := true, xr := true }, .kand { d := 7, xp := true }, .fcvtf { b := 2, xp := true }, .add { d := 1, ta := true, xr := true }, .shli { d := 1, imm := 63, nxi := 1 },
    .exts { d := 1, imm := 0xFC0, nxi := 1, xp := true }, .vext { d := 1, imm := 0x2F, nxi := 1, xp := true }, .vcvt { d := 1, imm := 13, xp := true }, .fence { imm := 0x240, xp := true },
    .sysw { imm := 0x1028, nxi := 1, xp := true }, .vsel { d := 1, xp := true, xk := some (false, 1) }, .movi { d := 1, nxi := 4 }, .addi { d := 1, imm := 7 }].all (fun i => i.encodedWf) = true := by
  decide +kernel

end Sys2Proof.Tests
end

section
/-! SUPPORT. The rules of memory: what one write does to the bytes, to the requests parked, to the instruction stores and to what the
paths see. -/

namespace Sys2Proof.Machine
open Sys2Proof

/-! ## Bytes as a number -/

/-- The number that `n` bytes from a location make, the least significant first: what `State.read` and `State.readOn` both compute. -/
def bytesNat (f : Nat → Byte) (loc : Nat) : Nat → Nat
  | 0 => 0
  | n + 1 => (f loc).toNat + 256 * bytesNat f (loc + 1) n

theorem State.read_eq (s : State) (loc n : Nat) : s.read loc n = bytesNat s.byte loc n := by
  induction n generalizing loc with
  | zero => rfl
  | succ n ih => rw [State.read, bytesNat, ih]

theorem State.readOn_eq (s : State) (path : Nat) (v : Viewer) (loc n : Nat) :
    s.readOn path v loc n = bytesNat (s.byteOn path v) loc n := by
  induction n generalizing loc with
  | zero => rfl
  | succ n ih => rw [State.readOn, bytesNat, ih]

theorem bytesNat_lt (f : Nat → Byte) (loc n : Nat) : bytesNat f loc n < 256 ^ n := by
  induction n generalizing loc with
  | zero => simp [bytesNat]
  | succ n ih =>
    have hb := (f loc).isLt
    have hr := ih (loc + 1)
    simp only [bytesNat, Nat.pow_succ]
    omega

theorem bytesNat_byte (f : Nat → Byte) (loc : Nat) {j n : Nat} (h : j < n) :
    BitVec.ofNat 8 (bytesNat f loc n / 256 ^ j) = f (loc + j) := by
  induction n generalizing loc j with
  | zero => omega
  | succ n ih =>
    have hb : (f loc).toNat < 256 := (f loc).isLt
    cases j with
    | zero => simp [bytesNat, BitVec.ofNat_add, BitVec.ofNat_mul]
    | succ j =>
      have hd : bytesNat f loc (n + 1) / 256 = bytesNat f (loc + 1) n := by simp only [bytesNat]; omega
      rw [Nat.pow_succ', ← Nat.div_div_eq_div_mul, hd, ih _ (Nat.lt_of_succ_lt_succ h), Nat.add_right_comm, Nat.add_assoc]

theorem bytesNat_of_bytes (f : Nat → Byte) (loc v n : Nat) (h : ∀ j, j < n → f (loc + j) = BitVec.ofNat 8 (v / 256 ^ j)) :
    bytesNat f loc n = v % 256 ^ n := by
  induction n generalizing loc v with
  | zero => simp [bytesNat, Nat.mod_one]
  | succ n ih =>
    have h0 : (f loc).toNat = v % 256 := by simpa using congrArg BitVec.toNat (h 0 (Nat.succ_pos n))
    have hr : bytesNat f (loc + 1) n = v / 256 % 256 ^ n := ih _ _ fun j hj => by
      rw [Nat.div_div_eq_div_mul, ← Nat.pow_succ', ← h (j + 1) (Nat.succ_lt_succ hj), Nat.add_assoc, Nat.add_comm 1]
    rw [bytesNat, h0, hr, Nat.pow_succ', Nat.mod_mul]

/-! ## The list of written bytes -/

/-- A stored range reads as the bytes of its value, and every other location as before. -/
theorem get_memWrite (m : List Host.Cell) (loc v n q : Nat) : Sp.get unwritten (memWrite m loc v n) q =
    if loc ≤ q ∧ q < loc + n then BitVec.ofNat 8 (v / 256 ^ (q - loc)) else Sp.get unwritten m q := by
  induction n generalizing m loc v with
  | zero => simp [memWrite, show ¬ (loc ≤ q ∧ q < loc) by omega]
  | succ n ih =>
    rw [memWrite, ih, Sp.get_set]
    by_cases hq : q = loc
    · subst hq; simp
    · by_cases hr : loc + 1 ≤ q ∧ q < loc + 1 + n
      · have hp : 256 ^ (q - loc) = 256 * 256 ^ (q - (loc + 1)) := by
          rw [← Nat.pow_succ']; congr 1; omega
        rw [if_pos hr, if_pos (by omega), hp, Nat.div_div_eq_div_mul]
      · rw [if_neg hr, if_neg hq, if_neg (by omega)]

theorem wf_memWrite (m : List Host.Cell) (loc v n : Nat) (h : Memory.wf m = true) : Memory.wf (memWrite m loc v n) = true := by
  induction n generalizing m loc v with
  | zero => exact h
  | succ n ih => exact ih _ _ _ (Sp.wf_set _ _ _ _ h)

/-! ## The instruction store's lines (R195, R282) -/

/-- Keeping a line changes nothing but cores. -/
theorem State.keepLine_eq (s : State) (loc : Nat) : s.keepLine loc = { s with cores := (s.keepLine loc).cores } := by
  unfold State.keepLine
  split
  · rfl
  · split <;> rfl

theorem State.keepLines_eq (s : State) (loc n : Nat) : s.keepLines loc n = { s with cores := (s.keepLines loc n).cores } := by
  unfold State.keepLines
  split
  · rfl
  · rw [State.keepLine_eq (s.keepLine loc), State.keepLine_eq s]

/-- Keeping a line changes nothing of a core but its fetch buffer. -/
theorem State.keepLine_core (s : State) (loc k : Nat) :
    (s.keepLine loc).core k = { s.core k with fetchBuf := ((s.keepLine loc).core k).fetchBuf } := by
  unfold State.keepLine
  split
  · rfl
  · next c l _ =>
    split
    · rfl
    · by_cases h : k = c
      · subst h; simp
      · simp [State.setCore_core_other _ _ _ _ h]

theorem State.keepLines_core (s : State) (loc n k : Nat) :
    (s.keepLines loc n).core k = { s.core k with fetchBuf := ((s.keepLines loc n).core k).fetchBuf } := by
  unfold State.keepLines
  split
  · rfl
  · rw [State.keepLine_core (s.keepLine loc), State.keepLine_core s]

theorem State.keepLine_outside (s : State) {loc : Nat} (h : loc < 2 ^ 44 ∨ 2 ^ 45 ≤ loc) : s.keepLine loc = s := by
  have hn : istoreLine loc = none := if_neg (by omega)
  simp [State.keepLine, hn]

theorem State.keepLines_outside (s : State) {loc n : Nat} (h : loc + n ≤ 2 ^ 44 ∨ 2 ^ 45 ≤ loc) : s.keepLines loc n = s := by
  unfold State.keepLines
  split
  · rfl
  · rw [State.keepLine_outside s (by omega), State.keepLine_outside s (by omega)]

/-! ## One write (R4, R49, R289, R345) -/

/-- Which entries of what a path may not see outlive a write: those of no write whose bytes it meets. -/
def State.unmet (s : State) (loc n : Nat) : Sp Unseen := s.unseen.filter fun u => !(s.unseenIds loc n).contains u.2.id

/-- A write changes memory, what is not seen yet, the kept lines, the parked requests and what it answers. -/
theorem State.write_eq (s : State) (loc v n : Nat) : s.write loc v n =
    { s with mem := memWrite s.mem loc v n, unseen := s.unmet loc n, cores := (s.keepLines loc n).cores,
             parked := (s.write loc v n).parked, agenda := (s.write loc v n).agenda } := by
  have h := s.keepLines_eq loc n
  generalize hc : (s.keepLines loc n).cores = c at h ⊢
  simp only [State.write, State.wakeParked, h]
  rfl

@[simp] theorem State.write_mem (s : State) (loc v n : Nat) : (s.write loc v n).mem = memWrite s.mem loc v n := by rw [State.write_eq]
@[simp] theorem State.write_unseen (s : State) (loc v n : Nat) : (s.write loc v n).unseen = s.unmet loc n := by rw [State.write_eq]
@[simp] theorem State.write_cores (s : State) (loc v n : Nat) : (s.write loc v n).cores = (s.keepLines loc n).cores := by rw [State.write_eq]
@[simp] theorem State.write_core (s : State) (loc v n k : Nat) : (s.write loc v n).core k = (s.keepLines loc n).core k := by
  rw [State.core, State.write_cores]; rfl

theorem State.write_byte (s : State) (loc v n q : Nat) : (s.write loc v n).byte q =
    if loc ≤ q ∧ q < loc + n then BitVec.ofNat 8 (v / 256 ^ (q - loc)) else s.byte q := by
  rw [State.byte, State.write_mem, get_memWrite]; rfl

theorem State.write_byte_inside (s : State) (loc v : Nat) {j n : Nat} (h : j < n) :
    (s.write loc v n).byte (loc + j) = BitVec.ofNat 8 (v / 256 ^ j) := by
  rw [State.write_byte, if_pos (by omega), Nat.add_sub_cancel_left]

theorem State.write_byte_outside (s : State) (loc v : Nat) {n q : Nat} (h : q < loc ∨ loc + n ≤ q) : (s.write loc v n).byte q = s.byte q := by
  rw [State.write_byte, if_neg (by omega)]

theorem State.read_write (s : State) (loc v n : Nat) : (s.write loc v n).read loc n = v % 256 ^ n := by
  rw [State.read_eq]
  exact bytesNat_of_bytes _ _ _ _ fun _ hj => s.write_byte_inside loc v hj

theorem State.write_keeps_memInv (s : State) (loc v n : Nat) (h : MemInv s) : MemInv (s.write loc v n) := by
  rw [MemInv, State.write_mem]
  exact wf_memWrite _ _ _ _ h

/-- A byte whose last write every path has seen shows itself. -/
theorem State.byteOn_seen {s : State} {q : Nat} (path : Nat) (w : Viewer) (h : Sp.find s.unseen q = none) : s.byteOn path w q = s.byte q := by
  rw [State.byteOn, h]

/-! ## What is still unseen after a write (R192) -/

theorem Sp.find_filter_none {α : Type} {m : Sp α} {k : Nat} (f : Nat × α → Bool) (h : Sp.find m k = none) : Sp.find (m.filter f) k = none := by
  induction m with
  | nil => rfl
  | cons p m ih =>
    by_cases hk : p.1 = k
    · simp [Sp.find, hk] at h
    · rw [Sp.find, if_neg hk] at h
      by_cases hf : f p = true
      · rw [List.filter_cons_of_pos hf, Sp.find, if_neg hk, ih h]
      · rw [List.filter_cons_of_neg hf, ih h]

theorem Sp.find_filter_some {α : Type} {m : Sp α} {k : Nat} {v : α} {f : Nat × α → Bool} (h : Sp.find m k = some v) (hf : f (k, v) = true) :
    Sp.find (m.filter f) k = some v := by
  induction m with
  | nil => cases h
  | cons p m ih =>
    by_cases hk : p.1 = k
    · obtain ⟨j, u⟩ := p
      obtain rfl : j = k := hk
      obtain rfl : u = v := by simpa [Sp.find] using h
      rw [List.filter_cons_of_pos hf, Sp.find, if_pos rfl]
    · rw [Sp.find, if_neg hk] at h
      by_cases hp : f p = true
      · rw [List.filter_cons_of_pos hp, Sp.find, if_neg hk, ih h]
      · rw [List.filter_cons_of_neg hp, ih h]

theorem Sp.mem_of_find {α : Type} {m : Sp α} {k : Nat} {v : α} (h : Sp.find m k = some v) : (k, v) ∈ m := by
  induction m with
  | nil => cases h
  | cons p m ih =>
    by_cases hk : p.1 = k
    · obtain ⟨j, u⟩ := p
      obtain rfl : j = k := hk
      obtain rfl : u = v := by simpa [Sp.find] using h
      exact List.mem_cons_self
    · rw [Sp.find, if_neg hk] at h
      exact List.mem_cons_of_mem _ (ih h)

theorem State.mem_unseenIds {s : State} {loc n id : Nat} :
    id ∈ s.unseenIds loc n ↔ ∃ r w, (r, w) ∈ s.unseen ∧ (loc ≤ r ∧ r < loc + n) ∧ w.id = id := by
  simp [State.unseenIds, inRange, and_assoc]

theorem State.mem_unmet {s : State} {loc n : Nat} {u : Nat × Unseen} : u ∈ s.unmet loc n ↔ u ∈ s.unseen ∧ u.2.id ∉ s.unseenIds loc n := by
  simp [State.unmet]

/-- What a write covers is seen from then on. -/
theorem State.find_unmet_inside (s : State) {loc n q : Nat} (h : loc ≤ q ∧ q < loc + n) : Sp.find (s.unmet loc n) q = none := by
  cases hf : Sp.find (s.unmet loc n) q with
  | none => rfl
  | some u =>
    obtain ⟨hu, hid⟩ := State.mem_unmet.1 (Sp.mem_of_find hf)
    exact absurd (State.mem_unseenIds.2 ⟨q, u, hu, h, rfl⟩) hid

theorem State.find_unmet_of_unmet {s : State} {loc n q : Nat} {u : Unseen} (hf : Sp.find s.unseen q = some u)
    (h : ∀ r w, (r, w) ∈ s.unseen → loc ≤ r → r < loc + n → w.id ≠ u.id) : Sp.find (s.unmet loc n) q = some u := by
  have hid : u.id ∉ s.unseenIds loc n := fun hm => by
    obtain ⟨r, w, hw, ⟨hl, hr⟩, he⟩ := State.mem_unseenIds.1 hm
    exact h r w hw hl hr he
  exact Sp.find_filter_some hf (by simpa using hid)

/-! ## A write on a path (R20, R192) -/

theorem not_mem_hiddenOn (path : Nat) : path ∉ hiddenOn path := by
  unfold hiddenOn
  split
  · next h => simp [h]
  · split
    · next h => simp [h]
    · next h0 h1 => simp [h0, h1]

/-- The entries that a write on a path leaves: of its bytes, each hidden on the other paths and as it was. -/
def hideBytes (m : Sp Unseen) (loc n : Nat) (e : Nat → Unseen) : Sp Unseen :=
  (List.range n).foldl (fun m i => Sp.put m (loc + i) (e i)) m

theorem find_hideBytes (m : Sp Unseen) (loc n : Nat) (e : Nat → Unseen) (q : Nat) :
    Sp.find (hideBytes m loc n e) q = if loc ≤ q ∧ q < loc + n then some (e (q - loc)) else Sp.find m q := by
  induction n with
  | zero => simp [hideBytes, show ¬ (loc ≤ q ∧ q < loc) by omega]
  | succ n ih =>
    have hs : hideBytes m loc (n + 1) e = Sp.put (hideBytes m loc n e) (loc + n) (e n) := by
      simp [hideBytes, List.range_succ]
    rw [hs]
    by_cases hq : q = loc + n
    · subst hq; simp
    · rw [Sp.find_put_other _ _ _ _ hq, ih]
      exact if_congr (by omega) rfl rfl

/-- The entry of the `i`-th byte of a write on a path. -/
def State.hidden (s : State) (path loc i : Nat) : Unseen :=
  { path := path, hides := hiddenOn path, old := s.byte (loc + i), id := s.ticket + 1 }

/-- A write on a path is a write, whose bytes other paths may see as they were. -/
theorem State.pathWrite_eq (s : State) (path loc v n : Nat) : s.pathWrite path loc v n =
    { s.tick.write loc v n with unseen := hideBytes (s.unmet loc n) loc n (s.hidden path loc) } := by
  have h : s.unmet loc n = (s.tick.write loc v n).unseen := (State.write_unseen s.tick loc v n).symm
  rw [h]; rfl

@[simp] theorem State.pathWrite_mem (s : State) (path loc v n : Nat) : (s.pathWrite path loc v n).mem = memWrite s.mem loc v n := by
  rw [State.pathWrite_eq]
  exact State.write_mem _ _ _ _

theorem State.pathWrite_byte (s : State) (path loc v n q : Nat) : (s.pathWrite path loc v n).byte q = (s.write loc v n).byte q := by
  simp [State.byte]

/-- A path sees its own write. -/
theorem State.pathWrite_byteOn (s : State) (path loc v n : Nat) (w : Viewer) {q : Nat} (h : loc ≤ q ∧ q < loc + n) :
    (s.pathWrite path loc v n).byteOn path w q = (s.write loc v n).byte q := by
  have hf : Sp.find (s.pathWrite path loc v n).unseen q = some (s.hidden path loc (q - loc)) := by
    rw [State.pathWrite_eq]
    exact (find_hideBytes _ _ _ _ _).trans (if_pos h)
  have hc : (s.hidden path loc (q - loc)).carried path w = true := by
    simp [Unseen.carried, State.hidden, not_mem_hiddenOn]
  rw [State.byteOn, hf, ← State.pathWrite_byte s path]
  simp [Unseen.shown, hc]

/-- Settles O52: each clause is one rule of a write. -/
theorem memoryReadAfterWrite : Obligations.MemoryReadAfterWrite := by
  intro s a v n t
  refine ⟨s.read_write a v n, fun j hj => s.write_byte_inside a v hj, fun q hq => s.write_byte_outside a v hq,
    s.write_keeps_memInv a v n, ?_, ?_, ?_, ?_, ?_, ?_⟩
  · exact (s.write_eq a v n).trans (by simp [t])
  · intro h
    rw [State.write_cores, State.keepLines_outside s h]
  · intro k
    rw [State.write_core]
    exact s.keepLines_core a n k
  · intro path w q hl hr
    exact ⟨State.byteOn_seen _ _ (by rw [State.write_unseen]; exact s.find_unmet_inside ⟨hl, hr⟩), s.pathWrite_byteOn path a v n w ⟨hl, hr⟩⟩
  · intro q h
    rw [State.write_unseen]
    exact Sp.find_filter_none _ h
  · intro q u hf h _
    rw [State.write_unseen]
    exact State.find_unmet_of_unmet hf h

end Sys2Proof.Machine
end

section
/-! SUPPORT. What an access on path C reads and writes (R20, R192, R193, R206), and the local accesses of mode .L (R279 to R281). -/

namespace Sys2Proof.Machine
open Sys2Proof

/-! ## Reads on a path -/

/-- A path never shows an old byte of a write that is seen on it. -/
theorem Unseen.hides_of_shown {u : Unseen} {ticket path : Nat} {v : Viewer} (h : u.shown ticket path v = true) : path ∈ u.hides := by
  simp only [Unseen.shown, Unseen.carried, Bool.and_eq_true, Bool.not_eq_true', Bool.or_eq_false_iff, Bool.not_eq_false',
    List.contains_iff_mem] at h
  exact h.1.1

theorem seenOn_read (s : State) (path loc n : Nat) : SeenOn s path loc n (s.read loc n) := by
  rw [State.read_eq]
  refine ⟨by simpa [Nat.pow_mul] using bytesNat_lt s.byte loc n, fun j hj => .inl ?_⟩
  rw [Nat.pow_mul]
  exact bytesNat_byte s.byte loc hj

theorem State.byteOn_cases (s : State) (path : Nat) (v : Viewer) (q : Nat) :
    s.byteOn path v q = s.byte q ∨ ∃ u, Sp.find s.unseen q = some u ∧ path ∈ u.hides ∧ u.old = s.byteOn path v q := by
  unfold State.byteOn
  split
  · next u hu =>
    split
    · next hs => exact .inr ⟨u, hu, Unseen.hides_of_shown hs, rfl⟩
    · exact .inl rfl
  · exact .inl rfl

theorem seenOn_readOn (s : State) (path : Nat) (v : Viewer) (loc n : Nat) : SeenOn s path loc n (s.readOn path v loc n) := by
  rw [State.readOn_eq]
  refine ⟨by simpa [Nat.pow_mul] using bytesNat_lt (s.byteOn path v) loc n, fun j hj => ?_⟩
  rw [Nat.pow_mul, show (2 : Nat) ^ 8 = 256 from rfl, bytesNat_byte _ _ hj]
  exact s.byteOn_cases path v (loc + j)

theorem Looked.refl (path : Nat) (s : State) : Looked path s s :=
  ⟨rfl, fun e he => ⟨e, he, rfl, rfl, fun _ h => h, fun _ _ h => h⟩⟩

/-- A ticket taken before or after a look is no part of what it has seen. -/
theorem Looked.of_tick {path : Nat} {s t : State} (h : Looked path s.tick t) : Looked path s t := ⟨h.1, h.2⟩

theorem Looked.tick {path : Nat} {s t : State} (h : Looked path s t) : Looked path s t.tick :=
  ⟨by rw [h.1]; rfl, h.2⟩

theorem Unseen.sees_eq (u : Unseen) (path : Nat) (ids : List Nat) : u.sees path ids = { u with hides := (u.sees path ids).hides } := by
  unfold Unseen.sees
  split <;> rfl

theorem Unseen.hides_sees {u : Unseen} {path q : Nat} {ids : List Nat} (h : q ∈ (u.sees path ids).hides) : q ∈ u.hides := by
  unfold Unseen.sees at h
  split at h
  · exact List.mem_of_mem_filter h
  · exact h

theorem Unseen.sees_other {u : Unseen} {path q : Nat} {ids : List Nat} (hq : q ≠ path) (h : q ∈ u.hides) : q ∈ (u.sees path ids).hides := by
  unfold Unseen.sees
  split
  · exact List.mem_filter.2 ⟨h, by simpa using hq⟩
  · exact h

theorem looked_sawIds (s : State) (path : Nat) (ids : List Nat) : Looked path s (s.sawIds path ids) := by
  refine ⟨rfl, fun e he => ?_⟩
  obtain ⟨e', he', rfl⟩ := List.mem_map.1 (List.mem_of_mem_filter he)
  exact ⟨e', he', rfl, Unseen.sees_eq _ _ _, fun _ => Unseen.hides_sees, fun _ => Unseen.sees_other⟩

theorem looked_saw (s : State) (path loc n : Nat) : Looked path s (s.saw path loc n) := by
  unfold State.saw
  split
  · exact Looked.refl path s
  · exact looked_sawIds s path _

/-- A read on a path: what it shows, and what it leaves. -/
theorem looked_look (s : State) (path : Nat) (v : Viewer) (loc n : Nat) :
    Looked path s (s.look path v loc n).1 ∧ SeenOn s path loc n (s.look path v loc n).2 := by
  simp only [State.look]
  split
  · exact ⟨Looked.refl path s, seenOn_read s path loc n⟩
  · exact ⟨(looked_sawIds s path _).tick, seenOn_readOn s path v loc n⟩

/-- The same for what an access reads on path C, be it memory itself or what the path shows. -/
theorem looked_pathC (s : State) (a : Access) (loc n : Nat) :
    Looked 0 s (pathC s a loc n (s.read loc n)).1 ∧ SeenOn s 0 loc n (pathC s a loc n (s.read loc n)).2 := by
  unfold pathC
  split
  · exact ⟨looked_saw s 0 loc n, seenOn_read s 0 loc n⟩
  · exact looked_look s 0 _ loc n

/-! ## Writes on path C -/

/-- Two states differ at most in what a write on a path may change. -/
structure WritesOnly (s t : State) : Prop where
  eq : t = { s with mem := t.mem, unseen := t.unseen, cores := t.cores, parked := t.parked, agenda := t.agenda, ticket := t.ticket }

theorem WritesOnly.refl (s : State) : WritesOnly s s := ⟨rfl⟩

theorem WritesOnly.trans {s t u : State} (a : WritesOnly s t) (b : WritesOnly t u) : WritesOnly s u := by
  refine ⟨?_⟩
  rw [b.eq]
  conv_lhs => rw [a.eq]

theorem writesOnly_tick (s : State) : WritesOnly s s.tick := ⟨rfl⟩

theorem writesOnly_pathWrite (s : State) (path loc v n : Nat) : WritesOnly s (s.pathWrite path loc v n) := by
  refine ⟨?_⟩
  rw [State.pathWrite_eq, State.write_eq]
  rfl

theorem writesOnly_writeAll (s : State) (loc : Nat) (l : List (Nat × Nat × Nat)) : WritesOnly s (writeAll s loc l) := by
  induction l generalizing s with
  | nil => exact WritesOnly.refl s
  | cons w l ih => exact (writesOnly_pathWrite s 0 _ _ _).trans (ih _)

theorem WritesOnly.slots {s t : State} (h : WritesOnly s t) : t.slots = s.slots := by rw [h.eq]
theorem WritesOnly.cur {s t : State} (h : WritesOnly s t) : t.cur = s.cur := by rw [h.eq]
theorem WritesOnly.clusters {s t : State} (h : WritesOnly s t) : t.clusters = s.clusters := by rw [h.eq]
theorem WritesOnly.parts {s t : State} (h : WritesOnly s t) : t.parts = s.parts := by rw [h.eq]
theorem WritesOnly.levels {s t : State} (h : WritesOnly s t) : t.levels = s.levels := by rw [h.eq]
theorem WritesOnly.slot {s t : State} (h : WritesOnly s t) (j : Nat) : t.slot j = s.slot j := by
  unfold State.slot; rw [h.slots]

theorem State.pathWrite_cores (s : State) (path : Nat) {loc n : Nat} (v : Nat) (h : loc + n ≤ 2 ^ 44 ∨ 2 ^ 45 ≤ loc) :
    (s.pathWrite path loc v n).cores = s.cores := by
  rw [State.pathWrite_eq]
  show (s.tick.write loc v n).cores = s.cores
  rw [State.write_cores, State.keepLines_outside _ h, State.tick_cores]

theorem stored_pathWrite (s : State) (path loc v n : Nat) : Stored s (s.pathWrite path loc v n) loc v n := by
  constructor
  · intro j hj
    rw [State.pathWrite_byte, State.write_byte_inside _ _ _ hj, Nat.pow_mul]
  · intro q hq
    rw [State.pathWrite_byte, State.write_byte_outside _ _ _ hq]

/-- The low `size` bytes of a value are all that a store of `size` bytes stores. -/
theorem Stored.of_mod {s t : State} {loc v size : Nat} (h : Stored s t loc (v % 2 ^ (8 * size)) size) : Stored s t loc v size := by
  refine ⟨fun j hj => (h.1 j hj).trans (BitVec.eq_of_toNat_eq ?_), h.2⟩
  have hp : 2 ^ (8 * size) = 2 ^ (8 * j) * 2 ^ (8 * (size - j)) := by rw [← Nat.pow_add]; congr 1; omega
  have hd : 2 ^ 8 ∣ 2 ^ (8 * (size - j)) := Nat.pow_dvd_pow 2 (by omega)
  rw [BitVec.toNat_ofNat, BitVec.toNat_ofNat, hp, Nat.mod_mul_right_div_self, Nat.mod_mod_of_dvd _ hd]

/-- The bytes after the words of some lanes have been written. -/
theorem writeAll_words_byte (s : State) (loc : Nat) (f : Nat → Nat) (l : List Nat) (i j : Nat) (hj : j < 4) :
    (writeAll s loc (l.map fun k => (4 * k, 4, f k))).byte (loc + 4 * i + j) =
      if i ∈ l then BitVec.ofNat 8 (f i / 2 ^ (8 * j)) else s.byte (loc + 4 * i + j) := by
  induction l generalizing s with
  | nil => simp [writeAll]
  | cons k l ih =>
    have hs := stored_pathWrite s 0 (loc + 4 * k) (f k) 4
    rw [List.map_cons, writeAll, ih]
    by_cases hi : i ∈ l
    · simp [hi]
    · rw [if_neg hi]
      by_cases hk : i = k
      · subst hk; simp [hs.1 j hj]
      · simp [hk, hi, hs.2 (loc + 4 * i + j) (by omega)]

theorem writeAll_words_outside (s : State) (loc n : Nat) (f : Nat → Nat) (l : List Nat) (hl : ∀ k ∈ l, k < n) (q : Nat)
    (hq : q < loc ∨ loc + 4 * n ≤ q) : (writeAll s loc (l.map fun k => (4 * k, 4, f k))).byte q = s.byte q := by
  induction l generalizing s with
  | nil => rfl
  | cons k l ih =>
    have hk := hl k List.mem_cons_self
    rw [List.map_cons, writeAll, ih _ fun r hr => hl r (List.mem_cons_of_mem _ hr)]
    exact (stored_pathWrite s 0 (loc + 4 * k) (f k) 4).2 q (by omega)

/-! ## Lanes (R25) -/

theorem lanesNat_lt (w : Nat) (f : Nat → Nat) (n : Nat) : lanesNat w f n < 2 ^ (w * n) := by
  induction n with
  | zero => simp [lanesNat]
  | succ n ih =>
    have hf : f n % 2 ^ w + 1 ≤ 2 ^ w := Nat.mod_lt _ (Nat.two_pow_pos w)
    calc lanesNat w f (n + 1) < 2 ^ (w * n) + f n % 2 ^ w * 2 ^ (w * n) := Nat.add_lt_add_right ih _
      _ = (f n % 2 ^ w + 1) * 2 ^ (w * n) := by ring
      _ ≤ 2 ^ w * 2 ^ (w * n) := Nat.mul_le_mul_right _ hf
      _ = 2 ^ (w * (n + 1)) := by rw [← Nat.pow_add]; congr 1; ring

theorem lanesNat_lane (w : Nat) (f : Nat → Nat) {i n : Nat} (h : i < n) : lanesNat w f n / 2 ^ (w * i) % 2 ^ w = f i % 2 ^ w := by
  induction n with
  | zero => omega
  | succ n ih =>
    rcases Nat.lt_succ_iff_lt_or_eq.1 h with hi | rfl
    · have hp : 2 ^ (w * n) = 2 ^ w * 2 ^ (w * (n - i - 1)) * 2 ^ (w * i) := by
        rw [← Nat.pow_add, ← Nat.pow_add]; congr 1
        obtain ⟨d, rfl⟩ := Nat.exists_eq_add_of_lt hi
        simp only [show i + d + 1 - i - 1 = d by omega]; ring
      rw [lanesNat, hp, ← Nat.mul_assoc, Nat.add_mul_div_right _ _ (Nat.two_pow_pos _), Nat.mul_left_comm, Nat.add_mul_mod_self_left, ih hi]
    · rw [lanesNat, Nat.add_mul_div_right _ _ (Nat.two_pow_pos _), Nat.div_eq_of_lt (lanesNat_lt w f i), Nat.zero_add, Nat.mod_mod]

/-- A lane of a vector made of lanes. -/
theorem lane_mkV {w n i : Nat} (f : Nat → Nat) (hn : w * n ≤ 512) (h : i < n) : lane w i (mkV w n f) = f i % 2 ^ w := by
  have hlt := Nat.lt_of_lt_of_le (lanesNat_lt w f n) (Nat.pow_le_pow_right Nat.two_pos hn)
  rw [lane, mkV, BitVec.toNat_ofNat, Nat.mod_eq_of_lt hlt, lanesNat_lane w f h]

theorem lane_mod (w i : Nat) (v : V512) : lane w i v % 2 ^ w = lane w i v := Nat.mod_mod _ _

/-- The lanes of 32 bits after a masked write (R259). -/
theorem lane_maskV {m : BitVec 32} {old : V512} {f : Nat → Nat} {i : Nat} (h : i < 16) :
    lane 32 i (maskV false m old f) = if m.getLsbD i then f i % 2 ^ 32 else lane 32 i old := by
  have e : lane 32 i (maskV false m old f) = (if m.getLsbD i then f i else lane 32 i old) % 2 ^ 32 := lane_mkV _ (by decide) h
  rw [e]
  split
  · rfl
  · exact lane_mod 32 i old

/-! ## An access in mode .L -/

/-- An access that a form of the current slot makes in mode .L, of `n` bytes when every lane is enabled, and that decodes nothing. -/
structure LocalForm (s : State) (a : Access) (n : Nat) : Prop where
  slot : a.slot = s.cur
  mode : a.mode = 0
  accessor : { accAccessor a (slotCore s.cur) with part := s.partAt a.part (clusterDev (coreCluster (slotCore s.cur))) } = localAccessor s
  plain : ∀ r, a.op ≠ .vldf r
  whole : accPieces { a with lanes := 0xFFFFFFFF } = [{ ea := a.ea, len := n, pos := 0 }]

theorem localForm_newAccess (s : State) {x : Fld} (op : AccOp) (ea : W64) (dest opc : Nat) (v : Vals) {n : Nat} (hm : x.mode = 0)
    (hop : ∀ r, op ≠ .vldf r)
    (hw : accPieces { newAccess s x op x.mode ea dest opc v with lanes := 0xFFFFFFFF } = [{ ea := ea, len := n, pos := 0 }]) :
    LocalForm s (newAccess s x op x.mode ea dest opc v) n :=
  ⟨rfl, hm, by simp [accAccessor, newAccess, localAccessor], hop, hw⟩

theorem target_local (s : State) (core part : Nat) {ea : W64} (h : ea.toNat < 0x80000) :
    s.target core part 0 ea = some (.scratch core ea.toNat) := by
  simp [State.target, h]

/-! A ticket taken is seen by no check. -/

@[simp] theorem State.tick_mapPart (s : State) (p d : Nat) : s.tick.mapPart p d = s.mapPart p d := by
  simp [State.mapPart, State.partner]
@[simp] theorem State.tick_linkUp (s : State) (p d : Nat) : s.tick.linkUp p d = s.linkUp p d := rfl
@[simp] theorem State.tick_partAt (s : State) (p d : Nat) : s.tick.partAt p d = s.partAt p d := by
  simp [State.partAt]
@[simp] theorem State.tick_protAllows (s : State) (core off len : Nat) (x : Accessor) (wr : Bool) :
    s.tick.protAllows core off len x wr = s.protAllows core off len x wr := rfl
@[simp] theorem State.tick_guarded (s : State) (core off : Nat) : s.tick.guarded core off = s.guarded core off := rfl

/-- A group does not wait for a line that neither its slot nor a killed unit before it has an access to. -/
theorem LocalOk.line_free {s : State} {ea : W64} {n : Nat} {rd wr : Bool} (h : LocalOk s ea n rd wr) :
    s.holds s.cur (.line (scratchLoc (slotCore s.cur) ea.toNat / 64)) = true := by
  have hf := h.free
  have hp := h.past
  simp only [State.holds, Bool.and_eq_true, Bool.not_eq_true', List.any_eq_false, List.contains_iff_mem, beq_iff_eq]
  exact ⟨hf, fun o ho he => hp o ho he.1 he.2⟩

section
variable {s : State} {a : Access} {n : Nat} (hl : LocalForm s a n)
include hl

theorem LocalForm.target (h : a.ea.toNat < 0x80000) :
    s.target (slotCore a.slot) a.part a.mode a.ea = some (.scratch (slotCore s.cur) a.ea.toNat) := by
  rw [hl.slot, hl.mode, target_local s _ _ h]

/-- The checks of R278 find nothing wrong with an aligned address inside the scratchpad. -/
theorem LocalForm.accessForm_eq {al : Nat} (ist : Bool) (dests : List Nat) (hal : a.ea.toNat % al = 0) (h : a.ea.toNat < 0x80000) :
    accessForm s a al ist dests = localAccess s a := by
  have hb : badPiece s { a with lanes := 0xFFFFFFFF } ist = none := by
    rw [badPiece, hl.whole]
    simp [pieceOk, hl.target h]
  rw [accessForm, if_neg (not_not.2 hal), hb]
  exact if_pos hl.mode

theorem LocalForm.accessLines_eq (hp : accPieces a = [{ ea := a.ea, len := n, pos := 0 }]) (h : a.ea.toNat < 0x80000) :
    accessLines s a = [scratchLoc (slotCore s.cur) a.ea.toNat / 64] := by
  have hs : scaleLine s a = none := by
    unfold scaleLine
    split
    · next r _ _ hr _ => exact absurd hr (hl.plain r)
    · next r _ _ hr _ => exact absurd hr (hl.plain r)
    · rfl
  simp [accessLines, hp, hs, hl.target h, Target.line]

/-- The access passes the checks of its home: it is performed there. -/
theorem LocalForm.scratchPiece_eq (hok : LocalOk s a.ea n (opReads a.op) (opWrites a.op)) :
    scratchPiece s.tick a { ea := a.ea, len := n, pos := 0 } (slotCore s.cur) a.ea.toNat =
      ((homeApply s.tick a { ea := a.ea, len := n, pos := 0 } (scratchLoc (slotCore s.cur) a.ea.toNat)).1,
        pieceValue { ea := a.ea, len := n, pos := 0 }
          (homeApply s.tick a { ea := a.ea, len := n, pos := 0 } (scratchLoc (slotCore s.cur) a.ea.toNat)).2) := by
  have hlen : (if (opVector a.op && n = 1) = true then 1 else n) = n := by split <;> simp_all
  have hprot : (opReads a.op && !s.protAllows (slotCore s.cur) a.ea.toNat n (localAccessor s) false ||
      opWrites a.op && !s.protAllows (slotCore s.cur) a.ea.toNat n (localAccessor s) true) = false := by
    simpa using And.intro hok.mayRead hok.mayWrite
  simp only [scratchPiece, hlen, State.tick_partAt, State.tick_protAllows, hl.accessor]
  rw [if_neg (by rw [hprot]; exact Bool.false_ne_true)]
  split
  · next r hr => exact absurd hr (hl.plain r)
  · rw [State.tick_guarded, hok.unguarded]; rfl

/-- An access in mode .L that nothing is in the way of is performed at once. -/
theorem LocalForm.localAccess_eq (hp : accPieces a = [{ ea := a.ea, len := n, pos := 0 }])
    (hok : LocalOk s a.ea n (opReads a.op) (opWrites a.op)) :
    let r := homeApply s.tick a { ea := a.ea, len := n, pos := 0 } (scratchLoc (slotCore s.cur) a.ea.toNat)
    localAccess s a = .next (if opFills a.op then writeDest r.1 a (BitVec.ofNat 512 (r.2 % 2 ^ (8 * n))) else r.1) := by
  intro r
  simp [localAccess, hp, hl.target hok.inside, hl.accessLines_eq hp hok.inside, hok.line_free, hl.scratchPiece_eq hok, pieceValue, r]

end

/-- With no lane enabled a form accesses nothing (R280). -/
theorem localAccess_no_piece (s : State) {a : Access} (hp : accPieces a = []) : localAccess s a = .next s := by
  simp [localAccess, hp]

end Sys2Proof.Machine
end

section
/-! SUPPORT. The loads and stores of mode .L as their statements say them (R279 to R281): scalar loads, scalar stores, VLD and VST. -/

namespace Sys2Proof.Machine
open Sys2Proof

/-! ## What a local load and a local store leave -/

section
variable {s : State} {a : Access} {n : Nat} (hl : LocalForm s a n) (hp : accPieces a = [{ ea := a.ea, len := n, pos := 0 }])
include hl hp

/-- A load in mode .L reads what path C sees of its bytes, and writes its destination. -/
theorem LocalForm.load {al : Nat} (ist : Bool) (dests : List Nat) (hf : opFills a.op = true) (hr : opReads a.op = true)
    (hw : opWrites a.op = false) (hn : ∀ p old, pieceWrites a p old = []) (hal : a.ea.toNat % al = 0) (hok : LocalOk s a.ea n true false) :
    ∃ u k, Looked 0 s u ∧ SeenOn s 0 (scratchLoc (slotCore s.cur) a.ea.toNat) n k ∧
      accessForm s a al ist dests = .next (writeDest u a (BitVec.ofNat 512 k)) := by
  obtain ⟨hu, hk⟩ := looked_pathC s.tick a (scratchLoc (slotCore s.cur) a.ea.toNat) n
  refine ⟨_, _, hu.of_tick, hk, ?_⟩
  rw [hl.accessForm_eq ist dests hal hok.inside, hl.localAccess_eq hp (by rw [hr, hw]; exact hok)]
  simp only [homeApply, hf, hn, writeAll, if_true, Nat.mod_eq_of_lt hk.1]

/-- A store in mode .L performs its writes and nothing else. -/
theorem LocalForm.store {al : Nat} (ist : Bool) (dests : List Nat) (hf : opFills a.op = false) (hr : opReads a.op = false)
    (hw : opWrites a.op = true) (hal : a.ea.toNat % al = 0) (hok : LocalOk s a.ea n false true) :
    ∃ old, accessForm s a al ist dests =
      .next (writeAll s.tick (scratchLoc (slotCore s.cur) a.ea.toNat) (pieceWrites a { ea := a.ea, len := n, pos := 0 } old)) := by
  refine ⟨s.tick.read (scratchLoc (slotCore s.cur) a.ea.toNat) n, ?_⟩
  rw [hl.accessForm_eq ist dests hal hok.inside, hl.localAccess_eq hp (by rw [hr, hw]; exact hok)]
  simp only [homeApply, hf, Bool.false_eq_true, if_false]

end

theorem Looked.slots {path : Nat} {s t : State} (h : Looked path s t) : t.slots = s.slots := by rw [h.1]
theorem Looked.cur {path : Nat} {s t : State} (h : Looked path s t) : t.cur = s.cur := by rw [h.1]
theorem Looked.slot {path : Nat} {s t : State} (h : Looked path s t) (j : Nat) : t.slot j = s.slot j := by
  unfold State.slot; rw [h.slots]

/-- A group that has only written memory: its slot has retired, and no other slot has changed. -/
theorem WritesOnly.retired_slots {s s' t : State} (hp : PortsOnly s s') (h : WritesOnly s' t) (x : Fld) :
    (retired x s t).slot s.cur = (s.slot s.cur).retire (nextPc x (s.slot s.cur)) ∧
      ∀ j, j ≠ s.cur → (retired x s t).slot j = s.slot j := by
  have hc : t.cur = s.cur := h.cur.trans hp.cur
  have hs : ∀ j, t.slot j = s.slot j := fun j => (h.slot j).trans (hp.slot j)
  constructor
  · rw [retired, ← hc, retireTo_slot, hc, hs]
  · intro j hj
    rw [retired, retireTo_slot_other _ _ _ (hc ▸ hj), hs]

/-! ## Scalar loads (R281) -/

theorem toNat_ofNat_of_lt {k m w : Nat} (hk : k < 2 ^ m) (hm : m ≤ w) : (BitVec.ofNat w k).toNat = k :=
  Nat.mod_eq_of_lt (Nat.lt_of_lt_of_le hk (Nat.pow_le_pow_right Nat.two_pos hm))

/-- The value that a scalar load takes: the bytes read, sign- or zero-extended. -/
theorem extendLoad_ld (size : Nat) (sgn : Bool) {k : Nat} (hs : size ≤ 8) (hk : k < 2 ^ (8 * size)) :
    (extendLoad (.ld size sgn) (BitVec.ofNat 512 k)).setWidth 64 =
      if sgn = true ∧ k.testBit (8 * size - 1) = true then BitVec.ofInt 64 ((k : Int) - 2 ^ (8 * size)) else BitVec.ofNat 64 k := by
  have hraw : (BitVec.ofNat 512 k).toNat % 2 ^ (8 * size) = k := by
    rw [toNat_ofNat_of_lt hk (by omega), Nat.mod_eq_of_lt hk]
  cases sgn with
  | false =>
    simp only [extendLoad, hraw, Bool.false_eq_true, if_false, false_and]
    exact BitVec.setWidth_ofNat_of_le (by norm_num) k
  | true =>
    simp only [extendLoad, hraw, if_true, true_and, BitVec.setWidth_setWidth_of_le _ (show 64 ≤ 512 by norm_num), BitVec.setWidth_eq, signedOf]
    split
    · rfl
    · exact BitVec.ofInt_natCast 64 k

/-- A scalar load in mode .L. -/
theorem loadsLocal {i : Fld → Instr} {size opc : Nat} {sgn : Bool} (hs : size ≤ 8)
    (he : ∀ x s, exec (i x) s = .next (loadForm x s size sgn opc)) : LoadsLocal i size sgn := by
  intro x s v s' ho hm ea hal hok
  have hp := operands_run ho
  have hl : LocalForm s' (newAccess s' x (.ld size sgn) x.mode (effAddr v x size) x.d.toNat opc v) size :=
    localForm_newAccess s' _ _ _ _ _ hm nofun rfl
  obtain ⟨u, k, hu, hk, hf⟩ := hl.load rfl (x.mode == 3) [x.d.toNat] rfl rfl rfl (fun _ _ => rfl) hal hok
  refine ⟨k, u, hp.cur ▸ hk, hu, ?_⟩
  have hd : writeDest u (newAccess s' x (.ld size sgn) x.mode (effAddr v x size) x.d.toNat opc v) (BitVec.ofNat 512 k) =
      u.putG x.d.toNat ((extendLoad (.ld size sgn) (BitVec.ofNat 512 k)).setWidth 64) := if_pos x.d.isLt
  rw [he, loadForm, issue_next ho hf, hd, extendLoad_ld size sgn hs hk.1]

/-! ## Scalar stores (R281) -/

theorem writeAll_one (s : State) (loc v n : Nat) : writeAll s loc [(0, n, v)] = s.pathWrite 0 loc v n := by
  simp [writeAll]

theorem pieceWrites_st {a : Access} {n : Nat} (h : a.op = .st n) (p : Piece) (old : Nat) :
    pieceWrites a p old = [(0, n, a.d0.toNat % 2 ^ (8 * n))] := by
  simp [pieceWrites, h]

/-- A scalar store in mode .L. -/
theorem storesLocal {i : Fld → Instr} {size opc : Nat} (hs : size ≤ 8)
    (he : ∀ x s, exec (i x) s = .next (storeForm x s size opc)) : StoresLocal i size := by
  intro x s v s' ho hm ea hal hok
  have hp := operands_run ho
  have hl : LocalForm s' (newAccess s' x (.st size) x.mode (effAddr v x size) 0 opc { v with b := v.d }) size :=
    localForm_newAccess s' _ _ _ _ _ hm nofun rfl
  obtain ⟨_, hf⟩ := hl.store rfl (x.mode == 3) [] rfl rfl rfl hal hok
  rw [pieceWrites_st rfl, writeAll_one, hp.cur] at hf
  have hw := (writesOnly_tick s').trans
    (writesOnly_pathWrite s'.tick 0 (scratchLoc (slotCore s.cur) ea.toNat) (v.d.toNat % 2 ^ (8 * size)) size)
  have hst := (stored_pathWrite s'.tick 0 (scratchLoc (slotCore s.cur) ea.toNat) (v.d.toNat % 2 ^ (8 * size)) size).of_mod
  obtain ⟨hcur, hoth⟩ := hw.retired_slots hp x
  refine ⟨_, (he x s).trans (congrArg Host.Outcome.next (issue_next ho hf)), ⟨hst.1, fun q hq => ?_⟩, hcur, hoth, fun hc => ?_, ?_, ?_, ?_⟩
  · exact (hst.2 q hq).trans (congrArg (fun m => Sp.get unwritten m q) hp.mem)
  · refine State.pathWrite_cores s'.tick 0 (v.d.toNat % 2 ^ (8 * size)) (.inl ?_)
    simp only [scratchLoc, slotCore]
    omega
  · exact hw.clusters.trans (by rw [hp.eq])
  · exact hw.parts.trans (by rw [hp.eq])
  · exact hw.levels.trans (by rw [hp.eq])

/-! ## VLD and VST (R280) -/

/-- A vector access in mode .L has one piece of 64 bytes where a lane is enabled. -/
theorem accPieces_vector {a : Access} (hop : a.op = .vld ∨ a.op = .vst) (hm : a.mode = 0) (hn : a.lanes.toNat % 65536 ≠ 0) :
    accPieces a = [{ ea := a.ea, len := 64, pos := 0 }] := by
  rcases hop with h | h <;> simp [accPieces, h, hm, hn]

/-- And none where no lane is. -/
theorem accPieces_no_lane {a : Access} (hop : a.op = .vld ∨ a.op = .vst) (hn : a.lanes.toNat % 65536 = 0) : accPieces a = [] := by
  rcases hop with h | h <;> simp [accPieces, h, hn]

theorem localForm_vector (s : State) {x : Fld} {op : AccOp} (hop : op = .vld ∨ op = .vst) (ea : W64) (dest opc : Nat) (v : Vals) (hm : x.mode = 0) :
    LocalForm s (newAccess s x op x.mode ea dest opc v) 64 :=
  localForm_newAccess s op ea dest opc v hm (fun r h => by rcases hop with rfl | rfl <;> cases h)
    (accPieces_vector hop hm (show (0xFFFFFFFF : BitVec 32).toNat % 65536 ≠ 0 by decide))

/-- The lanes of the bytes a vector load has read. -/
theorem lane_ofNat (k i : Nat) (hk : k < 2 ^ (8 * 64)) : lane 32 i (BitVec.ofNat 512 k) = k / 2 ^ (32 * i) % 2 ^ 32 := by
  rw [lane, toNat_ofNat_of_lt hk (by decide)]

/-- The writes of a vector store: the word of each enabled lane. -/
theorem pieceWrites_vst {a : Access} (h : a.op = .vst) (ea : W64) (old : Nat) : pieceWrites a { ea := ea, len := 64, pos := 0 } old =
    ((List.range 16).filter fun j => a.lanes.getLsbD j).map fun j => (4 * j, 4, lane 32 j a.vec) := by
  simp [pieceWrites, h, vecBytes, lane, ← Nat.mul_assoc]

/-- A vector load in mode .L. -/
theorem vld_local {x : Fld} {s s' : State} {v : Vals} (ho : operands { d := .v, dDst := true, a := .g, lanes := true } x s = .run v s')
    (hm : x.mode = 0) (hal : (effAddr v x 64).toNat % 64 = 0) (hn : v.lanes.toNat % 65536 ≠ 0) (hok : LocalOk s' (effAddr v x 64) 64 true false) :
    ∃ (t u : State) (n : Nat), exec (.vld x) s = .next t ∧ Looked 0 s' u ∧ OnlySlot u t ∧
      SeenOn s' 0 (scratchLoc (slotCore s.cur) (effAddr v x 64).toNat) 64 n ∧
      VWritten x.d.toNat (fun r => ∀ i, i < 16 → lane 32 i r =
          if v.lanes.getLsbD i then n / 2 ^ (32 * i) % 2 ^ 32 else lane 32 i ((s.slot s.cur).getV x.d.toNat))
        (nextPc x (s.slot s.cur)) (s'.slot s.cur) (t.slot s.cur) := by
  have hp := operands_run ho
  have hl := localForm_vector s' (.inl rfl) (effAddr v x 64) (vCode x.d.toNat) 0x30 v hm
  obtain ⟨u, k, hu, hk, hf⟩ := hl.load (accPieces_vector (.inl rfl) hm hn) false [vCode x.d.toNat] rfl rfl rfl (fun _ _ => rfl) hal hok
  have hd : writeDest u (newAccess s' x .vld x.mode (effAddr v x 64) (vCode x.d.toNat) 0x30 v) (BitVec.ofNat 512 k) =
      u.putV x.d.toNat (maskV false v.lanes ((u.slot u.cur).getV x.d.toNat) fun i => lane 32 i (BitVec.ofNat 512 k)) := by
    simp [writeDest, newAccess, vCode]
  have hc : u.cur = s.cur := hu.cur.trans hp.cur
  refine ⟨_, u, k, congrArg Host.Outcome.next (issue_next ho hf), hu, ?_, hp.cur ▸ hk, ?_⟩
  · rw [hd, State.putV, retired_updSlot]
    exact OnlySlot.setSlot _ _
  · rw [hd, State.putV, retired_updSlot, hc, State.setSlot_slot_self, hu.slot]
    refine VWritten.of_setV _ _ _ _ _ fun i hi => ?_
    rw [lane_maskV hi, lane_ofNat k i hk.1, Nat.mod_mod, hp.slot]

/-- A vector store in mode .L. -/
theorem vst_local {x : Fld} {s s' : State} {v : Vals} (ho : operands { d := .v, dSrc := true, a := .g, lanes := true } x s = .run v s')
    (hm : x.mode = 0) (hal : (effAddr v x 64).toNat % 64 = 0) (hn : v.lanes.toNat % 65536 ≠ 0) (hok : LocalOk s' (effAddr v x 64) 64 false true) :
    ∃ (t : State), exec (.vst x) s = .next t ∧
      (∀ i j, i < 16 → j < 4 → t.byte (scratchLoc (slotCore s.cur) (effAddr v x 64).toNat + 4 * i + j) =
        if v.lanes.getLsbD i then BitVec.ofNat 8 (lane 32 i v.vd / 2 ^ (8 * j))
        else s.byte (scratchLoc (slotCore s.cur) (effAddr v x 64).toNat + 4 * i + j)) ∧
      (∀ q, q < scratchLoc (slotCore s.cur) (effAddr v x 64).toNat ∨ scratchLoc (slotCore s.cur) (effAddr v x 64).toNat + 64 ≤ q →
        t.byte q = s.byte q) ∧
      t.slot s.cur = (s.slot s.cur).retire (nextPc x (s.slot s.cur)) ∧ (∀ j, j ≠ s.cur → t.slot j = s.slot j) := by
  have hp := operands_run ho
  have hl := localForm_vector s' (.inr rfl) (effAddr v x 64) 0 0x31 v hm
  obtain ⟨old, hf⟩ := hl.store (accPieces_vector (.inr rfl) hm hn) false [] rfl rfl rfl hal hok
  rw [pieceWrites_vst rfl, hp.cur] at hf
  have hb : ∀ q, s'.tick.byte q = s.byte q := fun q => congrArg (fun m => Sp.get unwritten m q) hp.mem
  obtain ⟨hcur, hoth⟩ := ((writesOnly_tick s').trans (writesOnly_writeAll s'.tick _ _)).retired_slots hp x
  refine ⟨_, congrArg Host.Outcome.next (issue_next ho hf), ?_, ?_, hcur, hoth⟩
  · intro i j hi hj
    refine (writeAll_words_byte s'.tick _ _ _ i j hj).trans ?_
    rw [hb]
    exact if_congr (by simp [hi, newAccess]) rfl rfl
  · intro q hq
    exact (writeAll_words_outside s'.tick _ 16 _ _ (fun k hk => List.mem_range.1 (List.mem_of_mem_filter hk)) q hq).trans (hb q)

/-- A vector form with no lane enabled accesses nothing (R280). -/
theorem accessForm_no_lane (s : State) {x : Fld} {op : AccOp} (hop : op = .vld ∨ op = .vst) {ea : W64} (dest opc : Nat) {v : Vals} (ist : Bool)
    (dests : List Nat) (hm : x.mode = 0) (hal : ea.toNat % 64 = 0) (hin : ea.toNat < 0x80000) (hn : v.lanes.toNat % 65536 = 0) :
    accessForm s (newAccess s x op x.mode ea dest opc v) 64 ist dests = .next s := by
  rw [(localForm_vector s hop ea dest opc v hm).accessForm_eq ist dests hal hin]
  exact localAccess_no_piece s (accPieces_no_lane hop hn)

/-! ## The statements -/

theorem localLoads : Says.LocalLoads :=
  ⟨loadsLocal (by decide) fun _ _ => rfl, loadsLocal (by decide) fun _ _ => rfl, loadsLocal (by decide) fun _ _ => rfl,
    loadsLocal (by decide) fun _ _ => rfl, loadsLocal (by decide) fun _ _ => rfl, loadsLocal (by decide) fun _ _ => rfl,
    loadsLocal (by decide) fun _ _ => rfl⟩

theorem localStores : Says.LocalStores :=
  ⟨storesLocal (by decide) fun _ _ => rfl, storesLocal (by decide) fun _ _ => rfl, storesLocal (by decide) fun _ _ => rfl,
    storesLocal (by decide) fun _ _ => rfl⟩

theorem localVectors : Says.LocalVectors := by
  refine ⟨fun _ _ _ _ => vld_local, fun _ _ _ _ => vst_local, ?_, ?_⟩
  · rintro x s v s' ho ⟨hm, hal, hin, hn⟩
    exact congrArg Host.Outcome.next (issue_next ho (accessForm_no_lane s' (.inl rfl) _ _ _ _ hm hal hin hn))
  · rintro x s v s' ho ⟨hm, hal, hin, hn⟩
    exact congrArg Host.Outcome.next (issue_next ho (accessForm_no_lane s' (.inr rfl) _ _ _ _ hm hal hin hn))

/-- Settles O21: a local access passes its checks and is performed at once, on the bytes that path C sees. -/
theorem localAccesses : Obligations.LocalAccesses :=
  ⟨localLoads, localStores, localVectors⟩

end Sys2Proof.Machine
end

section
/-! SUPPORT. One step as its statement says it (R12, R172, R173, R192, R218): what is performed, the words of the group that issues, and the
instruction that is placed where the next step fetches. -/

namespace Sys2Proof.Machine
open Sys2Proof

/-! ## What a step performs (R192, R426) -/

theorem step_due {s : State} {o : Op} {l : List Op} (h : s.due = o :: l) : step s = runOp o { s with due := l } := by
  rw [step, advance, h]

theorem step_only {s : State} {m : Move} (hd : s.due = []) (hm : moves s = [m]) : step s = performMove m s := by
  rw [step, advance, hd, pickMove, hm]

theorem runOp_next {s t : State} {o : Op} (hp : opDev s o < devices) (hh : haltHolds s o = none)
    (he : exec o.ins { s with cur := o.who, data := o.data, kept := o.xl } = .next t) : runOp o s = .next (afterOp (hearer o) t) := by
  rw [runOp, if_neg (Nat.not_le.2 hp), hh]
  exact congrArg (heardOut (hearer o)) he

theorem runOp_held {s : State} {o : Op} {slot : Nat} (hp : opDev s o < devices) (hh : haltHolds s o = some slot) :
    runOp o s = .next (s.holdHalted slot o) := by
  rw [runOp, if_neg (Nat.not_le.2 hp), hh]

/-! ## The words of a group (R218, R282) -/

theorem State.read_congr {s t : State} (hm : t.mem = s.mem) (loc n : Nat) : t.read loc n = s.read loc n := by
  rw [State.read_eq, State.read_eq, show t.byte = s.byte from funext fun q => congrArg (fun m => Sp.get unwritten m q) hm]

theorem State.istoreWord_congr {s t : State} (hm : t.mem = s.mem) (core pc : Nat) : t.istoreWord core pc = s.istoreWord core pc := by
  rw [State.istoreWord, State.read_congr hm, State.istoreWord]

theorem State.fetchWord_congr {s t : State} {core : Nat} (hc : t.core core = s.core core) (hm : t.mem = s.mem) (pc : Nat) :
    t.fetchWord core pc = s.fetchWord core pc := by
  rw [State.fetchWord, State.fetchWord, State.istoreWord_congr hm, hc]

/-- The words of a group rest on the core's fetch buffer and on memory alone. -/
theorem State.groupFrom_congr {s t : State} {core : Nat} (hc : t.core core = s.core core) (hm : t.mem = s.mem) (pc n : Nat) :
    t.groupFrom core pc n = s.groupFrom core pc n := by
  induction n generalizing pc with
  | zero => rfl
  | succ n ih => rw [State.groupFrom, State.groupFrom, ih, State.fetchWord_congr hc hm]

theorem groupWords_of_ready {s : State} {slot : Nat} (h : (s.slot slot).st = .ready) :
    groupWords s slot = s.group (slotCore slot) (s.slot slot).pc.toNat := by
  rw [groupWords, h]

/-- The state in which the group of a slot is performed. -/
def State.issuing (s : State) (slot : Nat) : State :=
  { s with cur := slot, data := [], kept := [], issuable := s.issuable.filter (fun j => j != slot) }

theorem groupWords_issuing (s : State) (slot : Nat) : groupWords (s.issuing slot) slot = groupWords s slot := by
  have hg (core pc : Nat) : (s.issuing slot).group core pc = s.group core pc := State.groupFrom_congr (s := s) (t := s.issuing slot) rfl rfl _ _
  rw [groupWords, groupWords, hg]
  rfl

theorem issueGroup_next {s t : State} {slot : Nat} {ws : List Half} {i : Instr} (hw : groupWords s slot = some ws) (hi : decodeWords ws = .ok i)
    (he : exec i (s.issuing slot) = .next t) : issueGroup slot s = .next (afterIssue slot ws (afterOp (tookWord slot s t) t)) := by
  have hg : groupInstr ((s.issuing slot).slot slot).pc.toNat (groupWords (s.issuing slot) slot) = i := by
    rw [groupWords_issuing, hw, groupInstr, hi]
  have hr : issueGroup slot s =
      endStep slot (keepWords slot (groupWords (s.issuing slot) slot)
        (heardOut (portHeard (s.issuing slot) slot (exec i (s.issuing slot))) (exec i (s.issuing slot)))) := by
    rw [← hg]; rfl
  rw [hr, he, groupWords_issuing, hw]
  rfl

/-- Where the one thing to do is that a slot issues, the step is what the instruction of its words does. -/
theorem step_issue {s t : State} {slot : Nat} {ws : List Half} {i : Instr} (hd : s.due = []) (hm : moves s = [.issue slot])
    (hw : groupWords s slot = some ws) (hi : decodeWords ws = .ok i) (he : exec i (s.issuing slot) = .next t) :
    step s = .next (afterIssue slot ws (afterOp (tookWord slot s t) t)) :=
  (step_only hd hm).trans (issueGroup_next hw hi he)

/-- Where path I sees words that scan to a base word, the group that is fetched is as much of them as the decoder reads. -/
theorem groupFrom_of_scanGroup {s : State} {core : Nat} {ws : List Half} {p : Prefixes} {r : Prefixes × Half} (hs : scanGroup p ws = .ok r)
    {pc n : Nat} (hn : ws.length ≤ n) (hf : ∀ k, k < ws.length → s.fetchWord core (pc + k) = ws.getD k 0) :
    ∃ vs, s.groupFrom core pc n = some vs ∧ scanGroup p vs = .ok r := by
  induction ws generalizing p pc n with
  | nil => cases hs
  | cons w ws ih =>
    obtain ⟨n, rfl⟩ : ∃ m, n = m + 1 := ⟨n - 1, by simp at hn; omega⟩
    have hw : s.fetchWord core pc = w := hf 0 (by simp)
    by_cases hp : isPrefixWord w = true
    · rw [scanGroup, if_pos hp] at hs
      cases ha : addPrefix p w with
      | none => rw [ha] at hs; cases hs
      | some q =>
        rw [ha] at hs
        obtain ⟨vs, hg, hv⟩ := ih hs (pc := pc + 1) (Nat.le_of_succ_le_succ hn) fun k hk => by
          rw [Nat.add_assoc, Nat.add_comm 1]
          exact hf (k + 1) (Nat.succ_lt_succ hk)
        refine ⟨w :: vs, ?_, ?_⟩
        · rw [State.groupFrom, hw, if_pos (by simpa [isPrefixWord] using hp), hg]
        · rw [scanGroup, if_pos hp, ha]
          exact hv
    · rw [scanGroup, if_neg hp] at hs
      refine ⟨[w], ?_, ?_⟩
      · rw [State.groupFrom, hw, if_neg (by simpa [isPrefixWord] using hp)]
      · rw [scanGroup, if_neg hp]
        exact hs

/-- The group that is fetched from words that decode is the instruction they decode to. -/
theorem groupFrom_of_decodeWords {s : State} {core : Nat} {ws : List Half} {i : Instr} (hi : decodeWords ws = .ok i) {pc n : Nat}
    (hn : ws.length ≤ n) (hf : ∀ k, k < ws.length → s.fetchWord core (pc + k) = ws.getD k 0) :
    ∃ vs, s.groupFrom core pc n = some vs ∧ decodeWords vs = .ok i := by
  cases hs : scanGroup {} ws with
  | error e => rw [decodeWords, hs] at hi; cases hi
  | ok r =>
    obtain ⟨vs, hg, hv⟩ := groupFrom_of_scanGroup hs hn hf
    refine ⟨vs, hg, ?_⟩
    rw [decodeWords, hs] at hi
    rw [decodeWords, hv]
    exact hi

theorem decodeWords_of_decodeTableWord {nbits w : Nat} {i : Instr} (h : decodeTableWord nbits w = some i) :
    decodeWords (tableWords nbits w) = .ok i := by
  unfold decodeTableWord at h
  split at h
  · next j hj => rw [hj, Option.some.inj h]
  · cases h

theorem length_tableWords_le (nbits w : Nat) : (tableWords nbits w).length ≤ 2 := by
  unfold tableWords
  split
  · simp
  · split <;> simp

/-! ## Words stored in an instruction store (R195) -/

theorem State.read_write_outside (s : State) {a v n b m : Nat} (h : b + m ≤ a ∨ a + n ≤ b) : (s.write a v n).read b m = s.read b m := by
  induction m generalizing b with
  | zero => rfl
  | succ m ih => rw [State.read, State.read, ih (by omega), s.write_byte_outside a v (by omega)]

/-- The words of a list stored one behind the other from the start of core 0's instruction store on. -/
def State.storeWords (s : State) (ws : List Half) (n : Nat) : State :=
  (List.range n).foldl (fun s i => s.write (istoreLoc 0 (2 * i)) (ws.getD i 0).toNat 2) s

theorem State.storeWords_succ (s : State) (ws : List Half) (n : Nat) :
    s.storeWords ws (n + 1) = (s.storeWords ws n).write (istoreLoc 0 (2 * n)) (ws.getD n 0).toNat 2 := by
  simp [State.storeWords, List.range_succ]

theorem istoreLoc_word {k : Nat} (h : k < 2 ^ 14) : istoreLoc 0 (2 * k) = 2 ^ 44 + 2 * k := by
  rw [istoreLoc, Nat.mod_eq_of_lt (by omega)]; omega

theorem State.storeWords_istoreWord (s : State) (ws : List Half) {n k : Nat} (hn : n ≤ 2 ^ 14) (hk : k < n) :
    (s.storeWords ws n).istoreWord 0 k = ws.getD k 0 := by
  induction n with
  | zero => omega
  | succ n ih =>
    rw [State.storeWords_succ, State.istoreWord]
    by_cases h : k = n
    · subst h
      rw [State.read_write, Nat.mod_eq_of_lt (show _ < 256 ^ 2 from (ws.getD k 0).isLt), BitVec.ofNat_toNat, BitVec.setWidth_eq]
    · have hout : istoreLoc 0 (2 * k) + 2 ≤ istoreLoc 0 (2 * n) := by
        rw [istoreLoc_word (by omega), istoreLoc_word (by omega)]; omega
      rw [State.read_write_outside _ (.inl hout)]
      exact ih (by omega) (by omega)

/-! ## An instruction placed where the next step fetches -/

/-- A core whose fetch buffer has been discarded. -/
def Core.discarded (c : Core) : Core := { c with fetchBuf := [] }

/-- A slot made ready to issue the first group of the store. -/
def Slot.readied (t : Slot) : Slot :=
  { t with st := .ready, pc := 0, stopped := false, attempt := none, preempt := none, cancel := false, arAbort := false, wdog := false,
           tabFail := false, words := none }

theorem State.withFetchWord_eq (s : State) (nbits w : Nat) : s.withFetchWord nbits w =
    { ((s.storeWords (tableWords nbits w) 5).updCore 0 Core.discarded).updSlot 0 Slot.readied with issuable := [0], due := [], agenda := [] } := by
  unfold State.withFetchWord State.storeWords
  rfl

/-- The words placed are what core 0 fetches next. -/
theorem State.withFetchWord_fetchWord (s : State) (nbits w : Nat) {k : Nat} (hk : k < 5) :
    (s.withFetchWord nbits w).fetchWord 0 k = (tableWords nbits w).getD k 0 := by
  rw [State.withFetchWord_eq, ← s.storeWords_istoreWord (tableWords nbits w) (n := 5) (by norm_num) hk]
  generalize s.storeWords (tableWords nbits w) 5 = t
  have hb : ((t.updCore 0 Core.discarded).core 0).fetchBuf = [] := by
    rw [State.updCore_core_self]
    rfl
  have hf : (t.updCore 0 Core.discarded).fetchWord 0 k = t.istoreWord 0 k := by
    rw [State.fetchWord, hb]
    exact State.istoreWord_congr rfl 0 k
  exact (State.fetchWord_congr rfl rfl k).trans hf

/-- A machine after reset but for what its memory holds and for its cores. -/
def afterReset (m : List Host.Cell) (c : Sp Core) : State := { State.reset with mem := m, cores := c }

/-- Of the cores only core 0 has been touched, and of it only its fetch buffer. -/
def OnlyFetched (c : Sp Core) : Prop := c = [] ∨ ∃ b, c = [(0, { fetchBuf := b })]

theorem OnlyFetched.keepLine {m : List Host.Cell} {c : Sp Core} (h : OnlyFetched c) {loc : Nat} (hl : 2 ^ 44 ≤ loc ∧ loc < 2 ^ 44 + 2 ^ 15) :
    ∃ c', (afterReset m c).keepLine loc = afterReset m c' ∧ OnlyFetched c' := by
  have hk : istoreLine loc = some (0, (loc - 2 ^ 44) % 2 ^ 15 / 64) := by
    rw [istoreLine, if_pos (by omega), Nat.div_eq_of_lt (by omega)]
  rw [State.keepLine, hk]
  dsimp only
  split
  · exact ⟨c, rfl, h⟩
  · refine ⟨_, rfl, .inr ?_⟩
    obtain rfl | ⟨b, rfl⟩ := h
    · exact ⟨_, rfl⟩
    · exact ⟨_, rfl⟩

theorem OnlyFetched.write {m : List Host.Cell} {c : Sp Core} (h : OnlyFetched c) {k : Nat} (hk : k < 2 ^ 14) (v : Nat) :
    ∃ m' c', (afterReset m c).write (istoreLoc 0 (2 * k)) v 2 = afterReset m' c' ∧ OnlyFetched c' := by
  rw [istoreLoc_word hk]
  obtain ⟨c1, h1, ho1⟩ := h.keepLine (m := m) (loc := 2 ^ 44 + 2 * k) (by omega)
  obtain ⟨c2, h2, ho2⟩ := ho1.keepLine (m := m) (loc := 2 ^ 44 + 2 * k + 2 - 1) (by omega)
  have hks : (afterReset m c).keepLines (2 ^ 44 + 2 * k) 2 = afterReset m c2 := by
    rw [State.keepLines, if_neg (by norm_num), h1, h2]
  refine ⟨memWrite m (2 ^ 44 + 2 * k) v 2, c2, ?_, ho2⟩
  rw [State.write, hks]
  rfl

theorem storeWords_reset (ws : List Half) {n : Nat} (hn : n ≤ 2 ^ 14) :
    ∃ m c, State.reset.storeWords ws n = afterReset m c ∧ OnlyFetched c := by
  induction n with
  | zero => exact ⟨[], [], rfl, .inl rfl⟩
  | succ n ih =>
    obtain ⟨m, c, hs, hc⟩ := ih (by omega)
    rw [State.storeWords_succ, hs]
    exact hc.write (by omega) _

/-- The machine with slot 0 of core 0 about to issue and nothing else to do. -/
def atFetch (m : List Host.Cell) : State := { afterReset m [(0, {})] with slots := [(0, { st := .ready })], issuable := [0] }

theorem withFetchWord_reset (nbits w : Nat) : ∃ m, State.reset.withFetchWord nbits w = atFetch m := by
  obtain ⟨m, c, hs, hc⟩ := storeWords_reset (tableWords nbits w) (n := 5) (by norm_num)
  refine ⟨m, ?_⟩
  rw [State.withFetchWord_eq, hs]
  obtain rfl | ⟨b, rfl⟩ := hc <;> rfl

@[simp] theorem atFetch_slot_zero (m : List Host.Cell) : (atFetch m).slot 0 = { st := .ready } := rfl
@[simp] theorem atFetch_slot_succ (m : List Host.Cell) (k : Nat) : (atFetch m).slot (k + 1) = {} := rfl
@[simp] theorem atFetch_core (m : List Host.Cell) (k : Nat) : (atFetch m).core k = {} := by cases k <;> rfl
@[simp] theorem atFetch_cluster (m : List Host.Cell) (c : Nat) : (atFetch m).cluster c = {} := rfl
@[simp] theorem atFetch_clusters (m : List Host.Cell) : (atFetch m).clusters = [] := rfl
@[simp] theorem atFetch_part (m : List Host.Cell) (p : Nat) : (atFetch m).part p = {} := rfl
@[simp] theorem atFetch_issuable (m : List Host.Cell) : (atFetch m).issuable = [0] := rfl
@[simp] theorem head_reset (cls : Nat) : Core.head {} cls = 0 := rfl
@[simp] theorem tail_reset (cls : Nat) : Core.tail {} cls = 0 := rfl

/-- No ring holds an entry. -/
@[simp] theorem ringHead_atFetch (m : List Host.Cell) (core cls : Nat) : (atFetch m).ringHead core cls = none := by
  have he (n : Nat) : ringEntries (atFetch m) core cls 0 n = [] := by
    cases n with
    | zero => rfl
    | succ n => rw [ringEntries, atFetch_core, tail_reset, if_pos (Nat.zero_mod _)]
  rw [State.ringHead, atFetch_core, head_reset, he]
  rfl

@[simp] theorem wakeEntry_atFetch (m : List Host.Cell) (slot : Nat) : (atFetch m).wakeEntry slot = none := by
  simp [State.wakeEntry]

@[simp] theorem slotEntry_atFetch (m : List Host.Cell) (slot : Nat) : (atFetch m).slotEntry slot = none := by
  simp [State.slotEntry]

@[simp] theorem padClass_atFetch (m : List Host.Cell) (slot : Nat) : (atFetch m).padClass slot = none := by
  simp only [State.padClass, State.padOnly, atFetch_core, head_reset, tail_reset]
  simp

@[simp] theorem takesEntry_atFetch (m : List Host.Cell) (slot : Nat) : (atFetch m).takesEntry slot = false := by
  simp [State.takesEntry]

@[simp] theorem restoreChoice_idle (m : List Host.Cell) (k : Nat) : restoreChoice (atFetch m) (k + 1) = none := by
  simp [restoreChoice, oldestSaved]

/-- No slot does anything beside the group of slot 0. -/
theorem slotOwn_atFetch (m : List Host.Cell) (slot : Nat) : slotOwn (atFetch m) slot = none := by
  cases slot with
  | zero => simp [slotOwn, Slot.owes, Slot.asyncCause] -- a ready slot owes nothing
  | succ k => simp [slotOwn] -- an idle slot has nothing to start or restore

theorem couldIssue_atFetch (m : List Host.Cell) : couldIssue (atFetch m) 0 = true := by
  simp [couldIssue, wouldIssue, State.halted, preemptsHere]

theorem moves_atFetch (m : List Host.Cell) : moves (atFetch m) = [.issue 0] := by
  have hf : forcedMoves (atFetch m) = [] := by
    simp [forcedMoves, slotOwn_atFetch]
  have hi : issueMoves (atFetch m) = [.issue 0] := by
    simp [issueMoves, slotOwn_atFetch, couldIssue_atFetch]
  rw [moves, hf, hi]
  rfl

theorem groupWords_withFetchWord_reset {nbits w : Nat} {i : Instr} (h : decodeTableWord nbits w = some i) :
    ∃ ws, groupWords (State.reset.withFetchWord nbits w) 0 = some ws ∧ decodeWords ws = .ok i := by
  obtain ⟨m, hm⟩ := withFetchWord_reset nbits w
  have hslot : (State.reset.withFetchWord nbits w).slot 0 = { st := .ready } := by rw [hm, atFetch_slot_zero]
  have hlen := length_tableWords_le nbits w
  rw [groupWords_of_ready (by rw [hslot]), hslot]
  refine groupFrom_of_decodeWords (decodeWords_of_decodeTableWord h) (Nat.le_trans hlen (by decide)) fun k hk => ?_
  exact (congrArg _ (Nat.zero_add k)).trans (State.withFetchWord_fetchWord _ _ _ (by omega))

/-! ## The statement -/

/-- Settles O56: an operation that is due is performed or held, and a lone issue performs the group that is fetched. -/
theorem stepRunsDecoded : Obligations.StepRunsDecoded := by
  refine ⟨fun s o l hd hp => ⟨fun hh t he => ?_, fun slot hh => ?_⟩, fun s slot => groupWords_of_ready,
    fun s t slot ws i => step_issue, fun nbits w i h => ?_⟩
  · rw [step_due hd, runOp_next hp hh he]
  · rw [step_due hd, runOp_held hp hh]
  · obtain ⟨m, hm⟩ := withFetchWord_reset nbits w
    obtain ⟨ws, hw, hi⟩ := groupWords_withFetchWord_reset h
    rw [hm] at hw ⊢
    exact ⟨(atFetch m).issuing 0, ws, hi, rfl, rfl, rfl, rfl, fun t => step_issue rfl (moves_atFetch m) hw hi⟩

end Sys2Proof.Machine
end

section
/-! SUPPORT. The fixed registers (R24), what a group reads from registers that are FULL (R26, R226, R238), and what stops it at one that is
not. -/

namespace Sys2Proof.Machine
open Sys2Proof

/-! ## The fixed registers -/

/-- Settles O50: each clause is one rule of a register write. -/
theorem zeroRegisters : Obligations.ZeroRegisters := by
  intro t
  refine ⟨rfl, rfl, rfl, t.empty_k0, fun v => if_pos rfl, fun v => if_pos rfl, fun n v hn => ⟨?_, ?_, fun m hm => ?_⟩,
    fun n v hn => ⟨?_, fun m hm => ?_⟩, fun n v => ⟨?_, fun m hm => ?_⟩⟩
  · rw [Slot.setG_getG, if_pos ⟨rfl, hn⟩]
  · rw [Slot.setG_empty, if_pos rfl]
  · rw [Slot.setG_getG, if_neg fun h => hm h.1]
  · rw [Slot.setK_getK, if_pos ⟨rfl, hn⟩]
  · rw [Slot.setK_getK, if_neg fun h => hm h.1]
  · rw [Slot.setV_getV, if_pos rfl]
  · rw [Slot.setV_getV, if_neg hm]

/-! ## The operand checks in their three stages: mask, registers, ports -/

/-- The code of the mask register that a group waits for, if XK names one that is EMPTY (R226). -/
def maskWait (t : Slot) (x : Fld) : Option Nat :=
  match x.xk with
  | none => none
  | some (_, k) => if t.empty (64 + k.toNat) then some (64 + k.toNat) else none

/-- What the checks find once no port stands against the group and every word it takes is there (R83): its route has been started. -/
def linkVerdict (u : Uses) (x : Fld) (s : State) : Verdict :=
  match portFault s (slotCore s.cur) [] (u.writes x) with
  | some (e, s') => .trap e s'
  | none =>
    match writeWait s (slotCore s.cur) (u.writes x) with
    | some i => portStop u x s (.portOut i) i
    | none => .run (readVals u x s s.cur)
        ((List.range 8).foldl (fun t i => takeWords t (slotCore s.cur) i (countOf i (u.reads x))) s)

/-- The state in which a port as d has its route started. -/
def routeStarted (u : Uses) (x : Fld) (s : State) : State :=
  match u.writes x with
  | some i => startRoute s (slotCore s.cur) i ((s.slot s.cur).waitMode == 2)
  | none => s

/-- What the checks find at the ports of a group whose registers are FULL (R28, R84, R332). -/
def portVerdict (u : Uses) (x : Fld) (s : State) : Verdict :=
  match portFault s (slotCore s.cur) (u.reads x) (u.writes x) with
  | some (e, s') => .trap e s'
  | none =>
    match readWait s (slotCore s.cur) (u.reads x) with
    | some i => portStop u x s (.portIn i) i
    | none => linkVerdict u x (routeStarted u x s)

/-- The stages of the operand checks. -/
theorem operands_eq (u : Uses) (x : Fld) (s : State) : operands u x s =
    match maskWait (s.slot s.cur) x with
    | some c => .wait (.reg c) none false 0 s
    | none =>
      if !u.lanes && !(maskOf (s.slot s.cur) x).getLsbD 0 then .skip else
      match feCheck s s.cur (u.items x) with
      | some (.error e) => .trap e s
      | some (.ok c) => .wait c none false 0 s
      | none => portVerdict u x s := by
  have hcur : (routeStarted u x s).cur = s.cur := by
    unfold routeStarted
    split
    · exact (startRoute_ports _ _ _ _).cur
    · rfl
  unfold portVerdict linkVerdict
  rw [hcur]
  rfl

theorem maskWait_of_full {x : Fld} {t : Slot} (h : ∀ inv k, x.xk = some (inv, k) → t.empty (64 + k.toNat) = false) : maskWait t x = none := by
  unfold maskWait
  split
  · rfl
  · next i k hk => simp [h i k hk]

theorem maskWait_of_empty {x : Fld} {t : Slot} {inv : Bool} {k : BitVec 3} (hx : x.xk = some (inv, k)) (h : t.empty (64 + k.toNat) = true) :
    maskWait t x = some (64 + k.toNat) := by
  simp [maskWait, hx, h]

/-- The first bit of the mask of an enabled group that is no vector form is set. -/
theorem Enabled.not_masked {u : Uses} {x : Fld} {t : Slot} (h : Enabled u x t) : (!u.lanes && !(maskOf t x).getLsbD 0) = false := by
  cases hl : u.lanes with
  | true => rfl
  | false => simp [h.2 hl]

/-- An enabled group comes to its F/E checks, and where they pass to its ports. -/
theorem operands_enabled {u : Uses} {x : Fld} {s : State} (h : Enabled u x (s.slot s.cur)) : operands u x s =
    match feCheck s s.cur (u.items x) with
    | some (.error e) => .trap e s
    | some (.ok c) => .wait c none false 0 s
    | none => portVerdict u x s := by
  rw [operands_eq, maskWait_of_full h.1, h.not_masked]
  rfl

/-- What the F/E check finds of one item (R26, R28): a port stops only a group whose trap bit is set. -/
def FeItem.stops (s : State) (slot : Nat) (i : FeItem) : Bool :=
  if i.isPort then i.trap && (s.port (slotCore slot) (i.n - 24)).buf.isEmpty else (s.slot slot).empty i.reg

/-- The F/E check stops at the first item that is not FULL. -/
theorem feCheck_eq (s : State) (slot : Nat) (l : List FeItem) : feCheck s slot l =
    (l.find? (FeItem.stops s slot)).map fun i =>
      if i.trap then .error { cause := causeFeEmpty, info := i.info } else .ok (.reg i.reg) := by
  induction l with
  | nil => rfl
  | cons i l ih =>
    rw [feCheck, List.find?_cons, ih]
    cases hp : i.isPort with
    | true =>
      cases ht : i.trap <;> cases hb : (s.port (slotCore slot) (i.n - 24)).buf.isEmpty <;> simp [FeItem.stops, hp, ht, hb]
    | false =>
      cases he : (s.slot slot).empty i.reg <;> simp [FeItem.stops, hp, he]; split <;> rfl

theorem FeItem.stops_register {s : State} {slot : Nat} {i : FeItem} (h : i.isPort = false) : i.stops s slot = (s.slot slot).empty i.reg := by
  simp [FeItem.stops, h]

/-! ## Ports among the items -/

theorem mem_feItems {f : File} (n : Nat) (pair trap : Bool) (op : Nat) (h : f ≠ .no) :
    { file := f, n := n, trap := trap, op := op } ∈ feItems f n pair trap op := by
  simp [feItems, h]

/-- The fields of a form that name registers are among its items. -/
theorem Uses.mem_items_d {u : Uses} (x : Fld) (h : u.dSrc = true ∨ u.dDst = true) (hf : u.d ≠ .no) :
    { file := u.d, n := x.d.toNat, trap := x.td && u.dSrc, op := 2 } ∈ u.items x := by
  have := mem_feItems x.d.toNat u.dPair (x.td && u.dSrc) 2 hf
  simp [Uses.items, h, this]

theorem Uses.mem_items_a {u : Uses} (x : Fld) (hf : u.a ≠ .no) : { file := u.a, n := x.a.toNat, trap := x.ta, op := 0 } ∈ u.items x := by
  have := mem_feItems x.a.toNat u.aPair x.ta 0 hf
  simp [Uses.items, this]

theorem Uses.mem_items_b {u : Uses} (x : Fld) (hf : u.b ≠ .no) : { file := u.b, n := x.b.toNat, trap := x.tb, op := 1 } ∈ u.items x := by
  have := mem_feItems x.b.toNat false x.tb 1 hf
  simp [Uses.items, this]

/-- A g field of a form that names no port is a register. -/
theorem NoPort.d_lt {u : Uses} {x : Fld} (h : NoPort u x) (hs : u.dSrc = true ∨ u.dDst = true) (hf : u.d = .g) : x.d.toNat < 24 := by
  have := h _ (u.mem_items_d x hs (by simp [hf]))
  simpa [FeItem.isPort, hf] using this

theorem NoPort.a_lt {u : Uses} {x : Fld} (h : NoPort u x) (hf : u.a = .g) : x.a.toNat < 24 := by
  have := h _ (u.mem_items_a x (by simp [hf]))
  simpa [FeItem.isPort, hf] using this

theorem NoPort.b_lt {u : Uses} {x : Fld} (h : NoPort u x) (hf : u.b = .g) : x.b.toNat < 24 := by
  have := h _ (u.mem_items_b x (by simp [hf]))
  simpa [FeItem.isPort, hf] using this

theorem NoPort.reads {u : Uses} {x : Fld} (h : NoPort u x) : u.reads x = [] := by
  have ha : ¬(u.a = .g ∧ 24 ≤ x.a.toNat) := fun hp => Nat.not_le.2 (h.a_lt hp.1) hp.2
  have hb : ¬(u.b = .g ∧ 24 ≤ x.b.toNat) := fun hp => Nat.not_le.2 (h.b_lt hp.1) hp.2
  have hd : ¬(u.dSrc = true ∧ u.d = .g ∧ 24 ≤ x.d.toNat) := fun hp => Nat.not_le.2 (h.d_lt (.inl hp.1) hp.2.1) hp.2.2
  rw [Uses.reads, if_neg ha, if_neg hb, if_neg hd]
  rfl

theorem NoPort.writes {u : Uses} {x : Fld} (h : NoPort u x) : u.writes x = none :=
  if_neg fun hp => Nat.not_le.2 (h.d_lt (.inr hp.1) hp.2.1) hp.2.2

/-- At no port a group that names none takes nothing. -/
theorem NoPort.portVerdict_eq {u : Uses} {x : Fld} (h : NoPort u x) (s : State) : portVerdict u x s = .run (readVals u x s s.cur) s := by
  simp [portVerdict, linkVerdict, routeStarted, portFault, readWait, writeWait, h.reads, h.writes, countOf, takeWords]

/-! ## What the values are -/

theorem State.gVal_register (s : State) (slot : Nat) {n : Nat} (k : Nat) (h : n < 24) : s.gVal slot n k = (s.slot slot).getG n :=
  if_pos h

/-- Settles O12: the three stages pass, and each value is the content of its register. -/
theorem registerOperands : Obligations.RegisterOperands := by
  intro u x s t hp he hf
  have hn : (u.items x).find? (FeItem.stops s s.cur) = none :=
    List.find?_eq_none.2 fun i hi => by rw [FeItem.stops_register (hp i hi), hf i hi]; exact Bool.false_ne_true
  have ho : operands u x s = .run (readVals u x s s.cur) s := by
    rw [operands_enabled he, feCheck_eq, hn]
    exact hp.portVerdict_eq s
  refine ⟨readVals u x s s.cur, ho, fun h => ?_, fun _ h => if_pos h, fun h => ?_, fun h hs => ?_, fun _ hs h => if_pos ⟨h, hs⟩, fun h => if_pos h,
    fun h => if_pos h, fun h => if_pos h, fun h => if_pos h, fun h => if_pos h, fun h => ?_, fun k h => ?_, fun k h => ?_⟩
  · exact (if_pos h).trans (s.gVal_register _ _ (hp.a_lt h))
  · exact (if_pos h).trans (s.gVal_register _ _ (hp.b_lt h))
  · exact (if_pos ⟨h, hs⟩).trans (s.gVal_register _ _ (hp.d_lt (.inl hs) h))
  · show maskOf t x = _; rw [maskOf, h]
  · show maskOf t x = _; rw [maskOf, h]; rfl
  · show maskOf t x = _; rw [maskOf, h]; rfl

/-! ## Every encoded form makes these checks -/

/-- The meaning of a form is one group with its operands: the checks, then a part of its own. -/
def Issues (p : Uses × (Fld → Instr)) : Prop := ∀ x s, ∃ b, exec (p.2 x) s = .next (issue p.1 x s b)

theorem issues_forms1 : ∀ p ∈ forms1, Issues p := by
  intro p hp
  fin_cases hp <;> exact fun x s => ⟨_, rfl⟩

theorem issues_forms2 : ∀ p ∈ forms2, Issues p := by
  intro p hp
  fin_cases hp <;> exact fun x s => ⟨_, rfl⟩

theorem issues_forms3 : ∀ p ∈ forms3, Issues p := by
  intro p hp
  fin_cases hp <;> exact fun x s => ⟨_, rfl⟩

theorem issues_forms4 : ∀ p ∈ forms4, Issues p := by
  intro p hp
  fin_cases hp <;> exact fun x s => ⟨_, rfl⟩

theorem issues_forms : ∀ p ∈ forms, Issues p := by
  intro p hp
  simp only [forms, List.mem_append] at hp
  rcases hp with ((h | h) | h) | h
  · exact issues_forms1 p h
  · exact issues_forms2 p h
  · exact issues_forms3 p h
  · exact issues_forms4 p h

section
variable {p : Uses × (Fld → Instr)} (hi : Issues p) {x : Fld} {s : State}
include hi

theorem Issues.trap {e : Trap} {s' : State} (h : operands p.1 x s = .trap e s') :
    exec (p.2 x) s = .next (trapEntry s' s.cur (s.slot s.cur).pc e) := by
  obtain ⟨b, hb⟩ := hi x s
  rw [hb, issue, h]

theorem Issues.wait {c : Cond} {l : Option Nat} {w : Bool} {n : W64} {s' : State} (h : operands p.1 x s = .wait c l w n s') :
    exec (p.2 x) s = .next (waitFor s' c l w n) := by
  obtain ⟨b, hb⟩ := hi x s
  rw [hb, issue, h]

theorem Issues.skip (h : operands p.1 x s = .skip) : exec (p.2 x) s = .next (retired x s s) := by
  obtain ⟨b, hb⟩ := hi x s
  rw [hb, issue, h]
  rfl

theorem Issues.fail {s' : State} (h : operands p.1 x s = .fail s') : exec (p.2 x) s = .next (retired x s s') := by
  obtain ⟨b, hb⟩ := hi x s
  rw [hb, issue, h]
  rfl

end

/-- An unbounded wait that no watchdog counts only takes the slot out of the rotation (R172). -/
theorem waitsFor_waitFor (s : State) (c : Cond) (n : W64) : WaitsFor c s (waitFor s c none false n) :=
  ⟨fun j hj => by simp [waitFor, State.updSlot_slot, hj], rfl, by simp [waitFor]⟩

theorem emptyRegister : Says.EmptyRegister := by
  intro p hp x s i t hn he hf
  have hs : (p.1.items x).find? (FeItem.stops s s.cur) = some i := by
    rw [← hf]
    exact List.find?_congr fun j hj => FeItem.stops_register (hn j hj)
  have ho := operands_enabled (u := p.1) (x := x) (s := s) he
  rw [feCheck_eq, hs] at ho
  refine ⟨fun ht => (issues_forms p hp).trap (e := { cause := causeFeEmpty, info := i.info }) ?_, fun ht => ?_⟩
  · rw [ho, Option.map_some, ht]; rfl
  · refine ⟨_, (issues_forms p hp).wait (c := .reg i.reg) (l := none) (w := false) (n := 0) (s' := s) ?_, waitsFor_waitFor _ _ _⟩
    rw [ho, Option.map_some, ht]; rfl

theorem maskedOff : Says.MaskedOff := by
  intro p hp x s inv k t hx
  refine ⟨fun he => ⟨_, (issues_forms p hp).wait (c := .reg (64 + k.toNat)) (l := none) (w := false) (n := 0) (s' := s) ?_, waitsFor_waitFor _ _ _⟩,
    fun he hl hk => (issues_forms p hp).skip ?_⟩
  · rw [operands_eq, maskWait_of_empty hx he]
  · have hw : maskWait t x = none := maskWait_of_full fun i j hj => by
      obtain ⟨rfl, rfl⟩ : inv = i ∧ k = j := by simpa using hx.symm.trans hj
      exact he
    have hm : (maskOf t x).getLsbD 0 = false := by
      rw [maskOf, hx]
      cases inv <;> simp_all
    rw [operands_eq, hw, hl, hm]
    rfl

/-- Settles O16. -/
theorem emptyAndMasked : Obligations.EmptyAndMasked := ⟨emptyRegister, maskedOff⟩

end Sys2Proof.Machine
end

section
/-! SUPPORT. System registers as SYSR reads them and SYSW writes them (R36 to R48, R378). -/

namespace Sys2Proof.Machine
open Sys2Proof

/-! ## Fields of a word -/

/-- The number and the sub-index of the register that an immediate names (R36). -/
theorem bits_sysreg_num (w : W64) : bits w 11 0 = w.toNat % 4096 := by
  simp [bits]

theorem bits_sysreg_sub (w : W64) : bits w 13 12 = w.toNat / 4096 % 4 := rfl

/-! ## SYSR -/

theorem exec_sysr_short : Completes uD .sysr (fun x _ _ => sysregLong (x.imm.toNat % 4096) = false)
    (fun x _ s => s.putG x.d.toNat (s.sysReg s.cur (x.imm.toNat % 4096) (x.imm.toNat / 4096 % 4))) := by
  intro x s v s' ho hl
  refine congrArg Host.Outcome.next (issue_next ho ?_)
  simp only [bits_sysreg_num, bits_sysreg_sub, hl]
  rfl

theorem exec_sysr_long : Completes uD .sysr (fun x _ _ => sysregLong (x.imm.toNat % 4096) = true)
    (fun x _ s => startFill s [x.d.toNat] ((s.sysReg s.cur (x.imm.toNat % 4096) (x.imm.toNat / 4096 % 4)).setWidth 512)) := by
  intro x s v s' ho hl
  refine congrArg Host.Outcome.next (issue_next ho ?_)
  simp only [bits_sysreg_num, bits_sysreg_sub, hl]
  rfl

/-- The sub-words of a protection region (R45). -/
theorem State.sysReg_prot (s : State) (slot : Nat) {n : Nat} (sub : Nat) (h : n < 8) :
    s.sysReg slot (0x030 + n) sub = Sp.get 0 (s.core (slotCore slot)).prot (n * 4 + sub) := by
  interval_cases n <;> rfl

theorem State.persistWin_of_none {s : State} {slot : Nat} (h : s.liveLevel (s.slot slot).home (s.slot slot).level = none) : s.persistWin slot = 0 := by
  rw [State.persistWin, h]; rfl

theorem State.persistWin_of_some {s : State} {slot : Nat} {l : Level} (h : s.liveLevel (s.slot slot).home (s.slot slot).level = some l) :
    s.persistWin slot = l.persistwin := by
  rw [State.persistWin, h]; rfl

/-- PTPTIME of a clock that is not being slewed (R47, R407). -/
theorem State.ptpTime_of_not_slow {s : State} {d : Nat} (h : (s.dev d).slow = 0) : s.ptpTime d = (s.dev d).ptpSet +
    BitVec.ofNat 64 (((s.now - (s.dev d).ptpAt : Nat) : Int) * 5 * (2 ^ 32 + (s.dev d).freq.toInt) / (8 * 2 ^ 32)).toNat := by
  simp only [State.ptpTime, h, if_true]

/-- SLOTID as one number (R38). -/
theorem State.slotId_toNat (s : State) (slot : Nat) (hd : slotDev slot < 1024) (hr : (s.cluster (slotCluster slot)).rel < 128) :
    (s.slotId slot).toNat = slotDev slot * 2 ^ 54 + (s.cluster (slotCluster slot)).rel * 2 ^ 47 + slotCore slot % 128 * 2 ^ 40 +
      slot % 8 * 2 ^ 37 + s.partOf (slotCluster slot) % 32 * 2 ^ 32 := by
  have hc : coreCluster (slotCore slot) = slotCluster slot := Nat.div_div_eq_div_mul _ _ _
  have hv : clusterDev (slotCluster slot) = slotDev slot := Nat.div_div_eq_div_mul _ _ _
  have hk : slotCore slot % 128 < 128 := Nat.mod_lt _ (by decide)
  have hp : s.partOf (slotCluster slot) % 32 < 32 := Nat.mod_lt _ (by decide)
  rw [State.slotId, State.placeId, hc, hv, State.relCluster, BitVec.toNat_add, BitVec.toNat_ofNat, BitVec.toNat_ofNat]
  omega

theorem State.slotId_fields (s : State) (slot : Nat) (hd : slotDev slot < 1024) (hr : (s.cluster (slotCluster slot)).rel < 128) :
    let w := s.slotId slot
    bits w 63 54 = slotDev slot ∧ bits w 53 47 = (s.cluster (slotCluster slot)).rel ∧ bits w 46 40 = slotCore slot % 128 ∧
      bits w 39 37 = slot % 8 ∧ bits w 36 32 = s.partOf (slotCluster slot) % 32 ∧ bits w 31 0 = 0 := by
  have hk : slotCore slot % 128 < 128 := Nat.mod_lt _ (by decide)
  have hp : s.partOf (slotCluster slot) % 32 < 32 := Nat.mod_lt _ (by decide)
  simp only [bits, s.slotId_toNat slot hd hr]
  refine ⟨?_, ?_, ?_, ?_, ?_, ?_⟩ <;> omega

/-- Settles O14: SYSR completes in one of two ways, and the reading of each register is one case of its definition. -/
theorem systemRead : Obligations.SystemRead := by
  refine ⟨exec_sysr_short, exec_sysr_long, fun s slot => ?_, fun s slot => ?_, fun s slot => s.slotId_fields slot⟩
  · exact ⟨rfl, rfl, rfl, rfl, rfl, rfl, rfl, rfl, rfl, rfl, rfl, rfl, rfl, rfl, rfl⟩
  · exact ⟨rfl, rfl, rfl, rfl, rfl, rfl, fun n sub hn _ => s.sysReg_prot slot sub hn, State.persistWin_of_none, fun _ => State.persistWin_of_some,
      State.ptpTime_of_not_slow⟩

/-! ## SYSW -/

/-- What a slot holds of system registers has changed at most in register `num` (R37). -/
structure SysKept (num : Nat) (t u : Slot) : Prop where
  gen : u.gen = t.gen
  level : u.level = t.level
  home : u.home = t.home
  corr : u.corr = t.corr
  stktop : 0x004 ≠ num → u.stktop = t.stktop
  trappc : 0x010 ≠ num → u.trappc = t.trappc
  trapcause : 0x011 ≠ num → u.trapcause = t.trapcause
  trapaddr : u.trapaddr = t.trapaddr
  trapinfo : u.trapinfo = t.trapinfo
  trapvec : 0x014 ≠ num → u.trapvec = t.trapvec
  trapscr : 0x015 ≠ num → u.trapscr = t.trapscr
  oobflag : u.oobflag = t.oobflag
  oobaddr : u.oobaddr = t.oobaddr
  guardmode : 0x01A ≠ num → u.guardmode = t.guardmode
  waitpol : 0x020 ≠ num → u.waitpol = t.waitpol
  retired : 0x041 ≠ num → u.retired = t.retired

/-- A change of one register of a slot is read by no other (R37). -/
theorem SysKept.sysReg {s : State} {slot num : Nat} {f : Slot → Slot} (h : SysKept num (s.slot slot) (f (s.slot slot))) {q : Nat} (hq : q ≠ num)
    (sub : Nat) : (s.updSlot slot f).sysReg slot q sub = s.sysReg slot q sub := by
  obtain ⟨h1, h2, h3, h4, h5, h6, h7, h8, h9, h10, h11, h12, h13, h14, h15, h16⟩ := h
  have hp : (s.updSlot slot f).persistWin slot = s.persistWin slot := by
    simp only [State.persistWin, State.updSlot_slot_self, h2, h3]; rfl
  unfold State.sysReg
  simp only [State.updSlot_slot_self, hp]
  split <;> simp_all <;> rfl

/-- What a core holds of system registers (R44, R45). -/
def Core.sysWord (c : Core) (num sub : Nat) : W64 :=
  match num with
  | 0x028 => if sub = 0 then c.cpymask0 else c.cpymask1
  | 0x029 => c.cpyxmask
  | 0x040 => c.cycleAdd
  | _ => if 0x030 ≤ num ∧ num ≤ 0x037 then Sp.get 0 c.prot ((num - 0x030) * 4 + sub) else 0

theorem State.sysReg_updCore {s : State} {slot q sub : Nat} {f : Core → Core} (hk : sysregKnown q = true)
    (h : (f (s.core (slotCore slot))).sysWord q sub = (s.core (slotCore slot)).sysWord q sub) :
    (s.updCore (slotCore slot) f).sysReg slot q sub = s.sysReg slot q sub := by
  unfold State.sysReg Core.sysWord at *
  simp only [State.updCore_core_self]
  split
  case h_24 =>
    have hr : 0x030 ≤ q ∧ q ≤ 0x037 := by
      clear h
      simp_all [sysregKnown]
      omega
    simpa [hr] using h
  all_goals simp_all <;> rfl

/-- A SYSW of register `num`, sub-index `sub`, by a slot: it reads as `w` from then on, no other register that is read at once has changed,
nor has any register of the slot's files, another slot or memory. -/
structure SysWritten (slot num sub : Nat) (w : W64) (s t : State) : Prop where
  cur : t.cur = s.cur
  reads : t.sysReg slot num sub = w
  others : ∀ q i, sysregLong q = false → (q, i) ≠ (num, sub) → sysregKnown q = true → i < sysregSubs q → t.sysReg slot q i = s.sysReg slot q i
  g : (t.slot slot).g = (s.slot slot).g
  v : (t.slot slot).v = (s.slot slot).v
  k : (t.slot slot).k = (s.slot slot).k
  pc : (t.slot slot).pc = (s.slot slot).pc
  slots : ∀ j, j ≠ slot → t.slot j = s.slot j
  mem : t.mem = s.mem

/-- A register of the slot itself. -/
theorem SysWritten.of_slot {s : State} {slot num : Nat} {w : W64} {f : Slot → Slot} (hn : sysregSubs num = 1)
    (hk : SysKept num (s.slot slot) (f (s.slot slot))) (hr : (s.updSlot slot f).sysReg slot num 0 = w)
    (hf : (f (s.slot slot)).g = (s.slot slot).g ∧ (f (s.slot slot)).v = (s.slot slot).v ∧ (f (s.slot slot)).k = (s.slot slot).k ∧
      (f (s.slot slot)).pc = (s.slot slot).pc) : SysWritten slot num 0 w s (s.updSlot slot f) where
  cur := rfl
  reads := hr
  others q i _ hq _ hi := by
    have hne : q ≠ num := fun e => hq (by rw [e] at hi ⊢; rw [hn] at hi; rw [Nat.lt_one_iff.1 hi])
    exact hk.sysReg hne i
  g := by rw [State.updSlot_slot_self]; exact hf.1
  v := by rw [State.updSlot_slot_self]; exact hf.2.1
  k := by rw [State.updSlot_slot_self]; exact hf.2.2.1
  pc := by rw [State.updSlot_slot_self]; exact hf.2.2.2
  slots j hj := by rw [State.updSlot_slot, if_neg hj]
  mem := rfl

/-- A register of the slot's core. -/
theorem SysWritten.of_core {s : State} {slot num sub : Nat} {w : W64} {f : Core → Core}
    (hr : (s.updCore (slotCore slot) f).sysReg slot num sub = w)
    (hf : ∀ q i, (q, i) ≠ (num, sub) → i < sysregSubs q →
      (f (s.core (slotCore slot))).sysWord q i = (s.core (slotCore slot)).sysWord q i) :
    SysWritten slot num sub w s (s.updCore (slotCore slot) f) where
  cur := rfl
  reads := hr
  others q i _ hq hk hi := State.sysReg_updCore hk (hf q i hq hi)
  g := rfl
  v := rfl
  k := rfl
  pc := rfl
  slots _ _ := rfl
  mem := rfl

/-- Writing a sub-word of a protection region leaves every other register of the core (R45). -/
theorem sysWord_set_prot {c : Core} {o : Sp ProtOwner} {n i : Nat} {w : W64} (hi : i < 4) {q j : Nat} (hq : (q, j) ≠ (0x030 + n, i))
    (hj : j < sysregSubs q) : ({ c with prot := Sp.set 0 c.prot (n * 4 + i) w, protOwn := o } : Core).sysWord q j = c.sysWord q j := by
  unfold Core.sysWord
  split
  · rfl
  · rfl
  · rfl
  · by_cases hr : 0x030 ≤ q ∧ q ≤ 0x037
    · have hk : (q - 0x030) * 4 + j ≠ n * 4 + i := fun he => by
        rw [sysregSubs, if_pos hr] at hj
        exact hq (Prod.ext (by simp only; omega) (by simp only; omega))
      rw [if_pos hr, if_pos hr, Sp.get_set, if_neg hk]
    · rw [if_neg hr, if_neg hr]

/-- A copy mask leaves every other register of the core (R44). -/
theorem sysWord_cpymask0 {c : Core} {w : W64} (q j : Nat) (hq : (q, j) ≠ (0x028, 0)) (_ : j < sysregSubs q) :
    ({ c with cpymask0 := w } : Core).sysWord q j = c.sysWord q j := by
  unfold Core.sysWord
  split
  · rw [if_neg fun e => hq (by rw [e]), if_neg fun e => hq (by rw [e])]
  all_goals rfl

theorem sysWord_cpymask1 {c : Core} {w : W64} (q j : Nat) (hq : (q, j) ≠ (0x028, 1)) (hj : j < sysregSubs q) :
    ({ c with cpymask1 := w } : Core).sysWord q j = c.sysWord q j := by
  unfold Core.sysWord
  split
  · have h0 : j = 0 := by
      have h2 : j < 2 := hj
      have h1 : j ≠ 1 := fun e => hq (by rw [e])
      omega
    rw [if_pos h0, if_pos h0]
  all_goals rfl

theorem sysWord_cpyxmask {c : Core} {w : W64} (q j : Nat) (hq : (q, j) ≠ (0x029, 0)) (hj : j < sysregSubs q) :
    ({ c with cpyxmask := w } : Core).sysWord q j = c.sysWord q j := by
  unfold Core.sysWord
  split
  case h_2 => exact absurd (by rw [Nat.lt_one_iff.1 hj]) hq
  all_goals rfl

/-- PROTn, sub-index `i` (R45). -/
theorem sysWritten_prot (s : State) (slot : Nat) {n i : Nat} (v : W64) (hn : n < 8) (hi : i < 4) :
    SysWritten slot (0x030 + n) i (v &&& protMask i) s (sysWrite s slot (0x030 + n) i v) := by
  have he : sysWrite s slot (0x030 + n) i v = writeProt s slot n i v := by interval_cases n <;> rfl
  rw [he, writeProt]
  refine SysWritten.of_core ?_ fun q j hq hj => sysWord_set_prot hi hq hj
  rw [State.sysReg_prot _ _ _ hn, State.updCore_core_self, Sp.get_set_self]

/-- The registers SYSW may write, with the bits a write takes (R37, R39, R43, R44, R45, R48). -/
def sysWritable : List (Nat × Nat × W64) :=
  [(0x004, 0, 0xFFFF0), (0x010, 0, 0x7FFF), (0x011, 0, 0x1FF), (0x014, 0, 0x7FFF), (0x015, 0, 0xFFFFFFFFFFFFFFFF), (0x01A, 0, 1),
    (0x020, 0, 0xFFFFFFFF00000003), (0x028, 0, 0xFFFFFFFFFFFFFFFF), (0x028, 1, 0xFFFFFFFFFFFFFFFF), (0x029, 0, 3)] ++
  (List.range 8).flatMap fun n => [(0x030 + n, 0, 0x7FFC0), (0x030 + n, 1, 0xFFFC0), (0x030 + n, 2, 0x3FFF), (0x030 + n, 3, 0x7FFFC)]

theorem and_allOnes64 (v : W64) : v &&& 18446744073709551615#64 = v := BitVec.and_allOnes

/-- Every register that SYSW may write takes its bits of the value. -/
theorem sysWritten_of_writable {r : Nat × Nat × W64} (hr : r ∈ sysWritable) (s : State) (slot : Nat) (v : W64) :
    SysWritten slot r.1 r.2.1 (v &&& r.2.2) s (sysWrite s slot r.1 r.2.1 v) := by
  rcases List.mem_append.1 hr with h | h
  · fin_cases h
    · exact .of_slot (f := fun t => { t with stktop := v &&& 0xFFFF0 }) rfl (by constructor <;> simp) (by simp [State.sysReg]) ⟨rfl, rfl, rfl, rfl⟩
    · exact .of_slot (f := fun t => { t with trappc := v &&& 0x7FFF }) rfl (by constructor <;> simp) (by simp [State.sysReg]) ⟨rfl, rfl, rfl, rfl⟩
    · exact .of_slot (f := fun t => { t with trapcause := v &&& 0x1FF }) rfl (by constructor <;> simp) (by simp [State.sysReg]) ⟨rfl, rfl, rfl, rfl⟩
    · exact .of_slot (f := fun t => { t with trapvec := v &&& 0x7FFF }) rfl (by constructor <;> simp) (by simp [State.sysReg]) ⟨rfl, rfl, rfl, rfl⟩
    · exact .of_slot (f := fun t => { t with trapscr := v }) rfl (by constructor <;> simp) (by simp [State.sysReg, and_allOnes64]) ⟨rfl, rfl, rfl, rfl⟩
    · exact .of_slot (f := fun t => { t with guardmode := v &&& 1 }) rfl (by constructor <;> simp) (by simp [State.sysReg]) ⟨rfl, rfl, rfl, rfl⟩
    · exact .of_slot (f := fun t => { t with waitpol := v &&& 0xFFFFFFFF00000003 }) rfl (by constructor <;> simp) (by simp [State.sysReg]) ⟨rfl, rfl, rfl, rfl⟩
    · exact .of_core (f := fun c => { c with cpymask0 := v }) (by simp [State.sysReg, and_allOnes64]) sysWord_cpymask0
    · exact .of_core (f := fun c => { c with cpymask1 := v }) (by simp [State.sysReg, and_allOnes64]) sysWord_cpymask1
    · exact .of_core (f := fun c => { c with cpyxmask := v &&& 3 }) (by simp [State.sysReg]) sysWord_cpyxmask
  · obtain ⟨n, hn, h⟩ := List.mem_flatMap.1 h
    have hn : n < 8 := List.mem_range.1 hn
    simp only [List.mem_cons, List.not_mem_nil, or_false] at h
    rcases h with rfl | rfl | rfl | rfl
    · exact sysWritten_prot s slot v hn (i := 0) (by decide)
    · exact sysWritten_prot s slot v hn (i := 1) (by decide)
    · exact sysWritten_prot s slot v hn (i := 2) (by decide)
    · exact sysWritten_prot s slot v hn (i := 3) (by decide)

/-- That the group retires is read by no register that is read at once. -/
theorem sysReg_retireTo (s : State) (pc : Nat) {q : Nat} (hq : sysregLong q = false) (sub : Nat) :
    (retireTo s pc).sysReg s.cur q sub = s.sysReg s.cur q sub :=
  SysKept.sysReg (num := 0x041) (f := fun t => t.retire pc) (by constructor <;> simp [Slot.retire]) (fun e => by rw [e] at hq; cases hq) sub

theorem sysWritable_facts : ∀ r ∈ sysWritable, (r.1 < 4096 ∧ r.2.1 < 4) ∧ sysregLong r.1 = false ∧ sysReadOnly r.1 = false := by decide

/-- What a SYSW has written is so once its group has retired. -/
theorem SysWritten.retired {num sub : Nat} {w : W64} {s s' t : State} (h : SysWritten s.cur num sub w s' t) (hc : s'.cur = s.cur)
    (hl : sysregLong num = false) (x : Fld) : let u := retired x s t
    u.sysReg s.cur num sub = w ∧ (u.slot s.cur).pc = BitVec.ofNat 15 (nextPc x (s.slot s.cur)) ∧ (u.slot s.cur).g = (s'.slot s.cur).g ∧
      (u.slot s.cur).v = (s'.slot s.cur).v ∧ (u.slot s.cur).k = (s'.slot s.cur).k ∧ (∀ j, j ≠ s.cur → u.slot j = s'.slot j) ∧ u.mem = s'.mem ∧
      ∀ q i, sysregLong q = false → (q, i) ≠ (num, sub) → sysregKnown q = true → i < sysregSubs q → u.sysReg s.cur q i = s'.sysReg s.cur q i := by
  have ht : t.cur = s.cur := h.cur.trans hc
  have hr (q i : Nat) (hq : sysregLong q = false) : (Machine.retired x s t).sysReg s.cur q i = t.sysReg s.cur q i := by
    have := sysReg_retireTo t (nextPc x (s.slot s.cur)) hq i
    rwa [ht] at this
  have hs : (Machine.retired x s t).slot s.cur = (t.slot s.cur).retire (nextPc x (s.slot s.cur)) := by
    have := retireTo_slot t (nextPc x (s.slot s.cur))
    rwa [ht] at this
  refine ⟨(hr _ _ hl).trans h.reads, ?_, ?_, ?_, ?_, fun j hj => ?_, h.mem, fun q i hq hne hk hi => (hr q i hq).trans (h.others q i hq hne hk hi)⟩
  · rw [hs]; rfl
  · rw [hs]; exact h.g
  · rw [hs]; exact h.v
  · rw [hs]; exact h.k
  · exact (retireTo_slot_other t _ j (by rw [ht]; exact hj)).trans (h.slots j hj)

theorem systemWriteTakesEffect : Says.SystemWriteTakesEffect := by
  intro r hr x s v s' ho hx
  obtain ⟨hb, hl, hro⟩ := sysWritable_facts r hr
  have hnum : bits x.imm 11 0 = r.1 := by rw [bits_sysreg_num]; omega
  have hsub : bits x.imm 13 12 = r.2.1 := by rw [bits_sysreg_sub]; omega
  have hc : s'.cur = s.cur := (operands_run ho).cur
  refine ⟨fun hok => ?_, fun hbad => ?_⟩
  · have hw : SysWritten s.cur r.1 r.2.1 (v.a &&& r.2.2) s' (sysWrite s' s'.cur r.1 r.2.1 v.a) := by
      rw [hc]; exact sysWritten_of_writable hr s' s.cur v.a
    refine ⟨_, congrArg Host.Outcome.next (issue_next ho ?_), hw.retired hc hl x⟩
    simp [hnum, hsub, hro, hok]
  · refine congrArg Host.Outcome.next (issue_trap ho ?_)
    simp [hnum, hsub, hbad, causePerm]

theorem exec_sysw_oobflag {x : Fld} {s s' : State} {v : Vals} (ho : operands uA x s = .run v s') (hx : x.imm.toNat = 0x018) :
    exec (.sysw x) s = .next (retired x s (sysWrite s' s'.cur 0x018 0 v.a)) := by
  have hnum : bits x.imm 11 0 = 0x018 := by rw [bits_sysreg_num, hx]
  have hsub : bits x.imm 13 12 = 0 := by rw [bits_sysreg_sub, hx]
  refine congrArg Host.Outcome.next (issue_next ho ?_)
  simp [hnum, hsub, sysReadOnly, sysReserved]

theorem systemWriteRefused : Says.SystemWriteRefused := by
  refine ⟨fun n hn x s v s' ho hx => ?_, fun x s v s' ho ⟨hx, hb⟩ => ?_, fun x s v s' ho ⟨hx, hb⟩ => ?_⟩
  · have hro : sysReadOnly n = true := List.contains_iff_mem.2 hn
    refine congrArg Host.Outcome.next (issue_trap ho ?_)
    simp [bits_sysreg_num, hx, hro, causePerm]
  · rw [exec_sysw_oobflag ho hx]
    simp only [sysWrite, hb]
    rfl
  · rw [exec_sysw_oobflag ho hx]
    simp only [sysWrite, hb]
    rfl

/-- Settles O20. -/
theorem systemWrite : Obligations.SystemWrite := ⟨systemWriteTakesEffect, systemWriteRefused⟩

end Sys2Proof.Machine
end

section
/-! SUPPORT. What the hardware's own accesses and the end of a unit leave (R121, R148, R175, R187), and the entry into a trap (R41, R185). -/

namespace Sys2Proof.Machine
open Sys2Proof

/-! ## What happens behind the slots -/

/-- Nothing of any slot and no event counter of any core has changed, and what was in flight still is, but for a slice's part of a region's
outcome, which a write that would stall performs first (R121). -/
structure Behind (s t : State) : Prop where
  slots : t.slots = s.slots
  counts : ∀ k, (t.core k).count = (s.core k).count
  flight : ∀ o ∈ s.agenda, o.ins ≠ .regionInstall → o.ins ≠ .regionDiscard → o ∈ t.agenda

theorem Behind.refl (s : State) : Behind s s := ⟨rfl, fun _ => rfl, fun _ h _ _ => h⟩

theorem Behind.trans {s t u : State} (a : Behind s t) (b : Behind t u) : Behind s u :=
  ⟨b.slots.trans a.slots, fun k => (b.counts k).trans (a.counts k), fun o h hi hd => b.flight o (a.flight o h hi hd) hi hd⟩

theorem Behind.slot {s t : State} (h : Behind s t) (j : Nat) : t.slot j = s.slot j := by
  unfold State.slot; rw [h.slots]

/-- A change of the parts that are no slots and no cores, with more put in flight. -/
theorem Behind.of_append {s t : State} (hs : t.slots = s.slots) (hc : t.cores = s.cores) {l : List Op} (ha : t.agenda = s.agenda ++ l) :
    Behind s t :=
  ⟨hs, fun k => by unfold State.core; rw [hc], fun o h _ _ => by rw [ha]; exact List.mem_append_left _ h⟩

theorem Behind.of_eq {s t : State} (hs : t.slots = s.slots) (hc : t.cores = s.cores) (ha : t.agenda = s.agenda) : Behind s t :=
  .of_append hs hc (l := []) (by rw [ha, List.append_nil])

theorem Behind.foldl {α : Type} {f : State → α → State} (h : ∀ s a, Behind s (f s a)) (l : List α) (s : State) : Behind s (l.foldl f s) := by
  induction l generalizing s with
  | nil => exact .refl s
  | cons a l ih => exact (h s a).trans (ih _)

theorem behind_tick (s : State) : Behind s s.tick := .of_eq rfl rfl rfl
theorem behind_post (s : State) (i : Instr) (w : Nat) : Behind s (s.post i w) := .of_append rfl rfl rfl
theorem behind_postOp (s : State) (o : Op) : Behind s (s.postOp o) := .of_append rfl rfl rfl
theorem behind_postAll (s : State) (l : List Op) : Behind s (s.postAll l) := .of_append rfl rfl rfl
theorem behind_setSlice (s : State) (i : Nat) (x : Slice) : Behind s (s.setSlice i x) := .of_eq rfl rfl rfl
theorem behind_updSlice (s : State) (i : Nat) (f : Slice → Slice) : Behind s (s.updSlice i f) := .of_eq rfl rfl rfl
theorem behind_setRouter (s : State) (i : Nat) (x : Router) : Behind s (s.setRouter i x) := .of_eq rfl rfl rfl
theorem behind_updPart (s : State) (i : Nat) (f : Part → Part) : Behind s (s.updPart i f) := .of_eq rfl rfl rfl
theorem behind_updCluster (s : State) (i : Nat) (f : Cluster → Cluster) : Behind s (s.updCluster i f) := .of_eq rfl rfl rfl

theorem behind_waits (s : State) (p : List Parked) (o : List Orphan) : Behind s { s with parked := p, orphans := o } := .of_eq rfl rfl rfl

theorem behind_setCore (s : State) (i : Nat) (c : Core) (h : c.count = (s.core i).count) : Behind s (s.setCore i c) := by
  refine ⟨rfl, fun k => ?_, fun _ h _ _ => h⟩
  rw [State.setCore_core]
  split
  · next e => rw [h, e]
  · rfl

theorem behind_setPort (s : State) (core i : Nat) (p : Port) : Behind s (s.setPort core i p) := behind_setCore _ _ _ rfl

theorem behind_write (s : State) (loc v n : Nat) : Behind s (s.write loc v n) := by
  refine ⟨?_, fun k => ?_, fun o h _ _ => ?_⟩
  · rw [State.write_eq]
  · rw [State.write_core, State.keepLines_core]
  · have ha : (s.write loc v n).agenda = (s.keepLines loc n).agenda ++ _ := rfl
    rw [ha, State.keepLines_eq]
    exact List.mem_append_left _ h

/-! ## Traffic -/

theorem behind_inject (s : State) (ni part : Nat) (t : Bool) : Behind s (s.inject ni part t) := .of_eq rfl rfl rfl
theorem behind_injBytes (s : State) (part : Nat) : Behind s (s.injBytes part) := .of_eq rfl rfl rfl

theorem behind_sendAs (s : State) (ni part : Nat) (t : Option Bool) (o : Op) : Behind s (s.sendAs ni part t o) := by
  unfold State.sendAs
  split
  · exact behind_postOp _ _
  · cases t with
    | none => exact (behind_injBytes _ _).trans (behind_postOp _ _)
    | some b => exact (behind_inject _ _ _ _).trans (behind_postOp _ _)

theorem behind_sendTag (s : State) (ni part tag : Nat) (o : Op) : Behind s (s.sendTag ni part tag o) := by
  unfold State.sendTag
  split
  · exact behind_sendAs _ _ _ _ _
  · exact behind_postOp _ _

theorem behind_deliverTag (s : State) (ni tag : Nat) : Behind s (s.deliverTag ni tag) := by
  unfold State.deliverTag
  split
  · exact .of_eq rfl rfl rfl
  · exact .refl s

/-! ## Settling a line (R121) -/

theorem behind_toSlices (s : State) (place : Nat) (r : Region) (i : Instr) : Behind s (toSlices s place r i) :=
  .foldl (fun _ _ => behind_sendAs _ _ _ _ _) _ _

theorem behind_setRegion (s : State) (place : Nat) (r : Region) : Behind s (s.setRegion place r) := .of_eq rfl rfl rfl

/-- An abort that no member asks for tells the members by what is put in flight. -/
theorem behind_askAbort (s : State) (place : Nat) (gen : W64) (cause : Nat) : Behind s (askAbort s place gen cause) := by
  unfold askAbort
  split
  · exact .refl s
  · next r _ =>
    split
    · refine (behind_toSlices _ _ _ _).trans (Behind.trans (.foldl (fun t m => ?_) _ _) (behind_setRegion _ _ _))
      rw [if_neg nofun]
      exact behind_post _ _ _
    · exact .refl s

theorem behind_installBytes (s : State) (e : WsEntry) (i n : Nat) : Behind s (installBytes s e i n) := by
  induction n generalizing s i with
  | zero => exact .refl s
  | succ n ih =>
    simp only [installBytes]
    split
    · exact (behind_write _ _ _ _).trans (ih _ _)
    · exact ih _ _

theorem behind_releaseStalled (s : State) (sl : Nat) : Behind s (releaseStalled s sl) := .of_eq rfl rfl rfl

theorem behind_slicePart (s : State) (sl : Nat) (install : Bool) (data : List W64) : Behind s (slicePart s sl install data) := by
  unfold slicePart
  split
  · next home h place tag =>
    dsimp only
    refine Behind.trans ?_ (behind_releaseStalled _ _)
    refine Behind.trans ?_ (behind_sendTag _ _ _ _ _)
    refine Behind.trans ?_ (behind_updSlice _ _ _)
    exact (behind_deliverTag _ _ _).trans (.foldl (fun t e => behind_installBytes t e 0 64) _ _)
  · exact .refl s

/-- An operation that is one slice's part of one region's outcome. -/
def isOutcome (sl : Nat) (e : WsEntry) (o : Op) : Bool :=
  o.who == sl && (o.ins == .regionInstall || o.ins == .regionDiscard) && o.data.take 2 == [BitVec.ofNat 64 e.home, e.region]

/-- What is in flight for the region at the slice is performed first. -/
def performOutcome (s : State) (sl : Nat) (e : WsEntry) : State :=
  match s.agenda.find? (isOutcome sl e) with
  | none => s
  | some o =>
    let s := { s with agenda := s.agenda.filter fun q => !isOutcome sl e q }
    slicePart (match o.inj with
      | some (ni, p, some t) => s.inject ni p t
      | _ => s) sl (o.ins == .regionInstall) o.data

theorem settleEntry_eq (s : State) (sl : Nat) (e : WsEntry) : settleEntry s sl e =
    performOutcome (match regionOf s e.home e.region with
      | some (c, i, _) => askAbort s (c * 1024 + i) e.region 1
      | none => s) sl e := rfl

theorem behind_performOutcome (s : State) (sl : Nat) (e : WsEntry) : Behind s (performOutcome s sl e) := by
  unfold performOutcome
  split
  · exact .refl s
  · next o _ =>
    have hf : Behind s { s with agenda := s.agenda.filter fun q => !isOutcome sl e q } := by
      refine ⟨rfl, fun _ => rfl, fun q hq hi hd => List.mem_filter.2 ⟨hq, ?_⟩⟩
      simp [isOutcome, hi, hd]
    refine hf.trans (Behind.trans ?_ (behind_slicePart _ _ _ _))
    split
    · exact behind_inject _ _ _ _
    · exact .refl _

theorem behind_settleEntry (s : State) (sl : Nat) (e : WsEntry) : Behind s (settleEntry s sl e) := by
  rw [settleEntry_eq]
  refine Behind.trans ?_ (behind_performOutcome _ _ _)
  split
  · exact behind_askAbort _ _ _ _
  · exact .refl s

theorem behind_settleLine (s : State) (sl part va : Nat) : Behind s (settleLine s sl part va) :=
  .foldl (fun _ _ => behind_settleEntry _ _ _) _ _

/-! ## Translation and the reaching of a location (R65, R187) -/

theorem behind_markEntry (s : State) (w : W64 × Nat) (wr : Bool) : Behind s (s.markEntry w wr) := by
  simp only [State.markEntry]
  split_ifs
  · exact .refl s
  · exact behind_write _ _ _ _
  · exact .refl s
  · exact behind_write _ _ _ _

/-- A walk has found a leaf entry, which the slice holds from then on. -/
theorem behind_cached (s : State) (w : W64 × Nat) (wr : Bool) (sl key : Nat) : Behind s ((s.markEntry w wr).setSlice sl
    { (s.markEntry w wr).slice sl with tcache := Sp.put ((s.markEntry w wr).slice sl).tcache key w.1 }) :=
  (behind_markEntry s w wr).trans (behind_setSlice _ _ _)

theorem behind_lookUp (s : State) (dev part va : Nat) (wr : Bool) : Behind s (s.lookUp dev part va wr).1 := by
  unfold State.lookUp
  dsimp only
  split
  · split
    · exact behind_tick s
    · split
      · exact behind_tick s
      · exact (behind_tick s).trans (behind_cached _ _ _ _ _)
  · split
    · exact .refl s
    · exact behind_cached _ _ _ _ _

theorem behind_translate (s : State) (dev part va : Nat) (wr : Bool) : Behind s (s.translate dev part va wr).1 := by
  have h := behind_lookUp s dev part va wr
  unfold State.translate
  split
  · exact .refl s
  · split
    · next hl => rw [hl] at h; exact h
    · next hl => rw [hl] at h; exact h.trans (.of_eq rfl rfl rfl)

theorem behind_reach (s : State) (x : Accessor) (a : W64) (len : Nat) (rd wr : Bool) : Behind s (s.reach x a len rd wr).1 := by
  unfold State.reach
  split
  · exact .refl s
  · exact .refl s
  · dsimp only
    split <;> exact .refl s
  · next dev va _ =>
    have h := behind_translate s dev (s.partAt x.part dev) va wr
    split
    · next ht => rw [ht] at h; exact h
    · next ht =>
      rw [ht] at h
      split
      · split
        · exact h.trans (behind_settleLine _ _ _ _)
        · exact h
      · exact h

theorem behind_of_reach {s t : State} {x : Accessor} {a : W64} {len : Nat} {rd wr : Bool} {r : Option (Option Nat)}
    (h : s.reach x a len rd wr = (t, r)) : Behind s t := by
  have := behind_reach s x a len rd wr
  rwa [h] at this

/-! ## The end of a unit (R148, R175, R187) -/

theorem behind_traceRecord (s : State) (slot : Nat) : Behind s (traceRecord s slot) := by
  unfold traceRecord
  dsimp only
  split
  · exact .refl s
  · split
    · next hr => exact behind_of_reach hr
    · next l hr =>
      refine (behind_of_reach hr).trans (Behind.trans ?_ (behind_updPart _ _ _))
      split
      · exact behind_write _ _ _ _
      · exact .refl _

theorem behind_freeChannels (s : State) (l : List Nat) : Behind s (freeChannels s l) := by
  induction l generalizing s with
  | nil => exact .refl s
  | cons h l ih => exact (behind_setRouter s _ _).trans (ih _)

theorem behind_dropRoute (s : State) (core i : Nat) : Behind s (dropRoute s core i) := by
  unfold dropRoute
  dsimp only
  refine Behind.trans ?_ (behind_setPort _ _ _ _)
  split
  · exact (behind_freeChannels s _).trans (behind_setPort _ _ _ _)
  · exact behind_freeChannels s _

theorem behind_closePort (s : State) (core i : Nat) : Behind s (closePort s core i) := by
  have hr (s : State) : Behind s (if (s.port core i).srcPort = 0 then s else
      let q := s.port (s.port core i).srcCore ((s.port core i).srcPort - 1)
      if (q.st = .opened ∨ q.st = .bound) ∧ q.route = (s.port core i).route
      then s.setPort (s.port core i).srcCore ((s.port core i).srcPort - 1) { q with refused := 3 } else s) := by
    dsimp only
    split_ifs
    · exact .refl s
    · exact behind_setPort _ _ _ _
    · exact .refl s
  unfold closePort
  dsimp only
  split
  · exact .refl s
  · exact (behind_dropRoute s _ _).trans (behind_setPort _ _ _ _)
  · exact (behind_setPort s _ _ _).trans (behind_postOp _ _)
  · exact (hr s).trans (behind_setPort _ _ _ _)
  · exact (hr s).trans (behind_setPort _ _ _ _)

theorem behind_closePorts (s : State) (slot : Nat) (gen : BitVec 32) (n : Nat) : Behind s (closePorts s slot gen n) := by
  induction n with
  | zero => exact .refl s
  | succ n ih =>
    simp only [closePorts]
    split
    · exact ih.trans (behind_closePort _ _ _)
    · exact ih

theorem behind_freeLease (s : State) (slot : Nat) (gen : BitVec 32) : Behind s (freeLease s slot gen) := by
  unfold freeLease
  dsimp only
  split
  · exact (behind_updCluster _ _ _).trans (behind_post _ _ _)
  · exact .refl s

theorem behind_freeFrame (s : State) (x : Accessor) (pool : W64) (i : Nat) : Behind s (freeFrame s x pool i) := by
  unfold freeFrame
  split
  · next hr => exact behind_of_reach hr
  · next hr => exact behind_of_reach hr
  · next hr =>
    dsimp only
    split
    · exact behind_of_reach hr
    · exact (behind_of_reach hr).trans (behind_write _ _ _ _)

theorem behind_freeSaved (s : State) (slot : Nat) (c : Saved) : Behind s (freeSaved s slot c) := by
  unfold freeSaved
  dsimp only
  split
  · exact behind_freeFrame _ _ _ _
  · exact (behind_freeFrame _ _ _ _).trans (behind_freeFrame _ _ _ _)

/-- The decrement a unit's end sends to its launch (R137, R139). -/
def endUpdate (t : Slot) (slot : Nat) (err : Bool) : Op :=
  { ins := .levelUpdate { part := t.home, level := t.level, add := false, n := 1, err := if err then 1 else 0, slot := slot, gen := t.gen, tag := 0,
                          ack := false, addr := 0 } }

/-- The end of a unit: its slot is idle, no other has changed, and its launch hears of it. -/
theorem unitEnd_eq (s : State) (slot : Nat) (killed err : Bool) : ∃ t, Behind s t ∧
    endUpdate (s.slot slot) slot ((killed && err) || (s.slot slot).guardPend) ∈ t.agenda ∧
    unitEnd s slot killed err = t.setSlot slot (idleSlot (s.slot slot)) := by
  unfold unitEnd
  dsimp only
  refine ⟨_, ?_, ?_, rfl⟩
  · refine Behind.trans ?_ (behind_waits _ _ _)
    refine Behind.trans ?_ (.foldl (fun _ _ => behind_freeSaved _ _ _) _ _)
    refine Behind.trans ?_ (behind_post _ _ _)
    refine Behind.trans ?_ (behind_postAll _ _)
    have h : Behind s (freeLease (closePorts (traceRecord s slot) slot (s.slot slot).gen 8) slot (s.slot slot).gen) :=
      (behind_traceRecord s slot).trans ((behind_closePorts _ _ _ _).trans (behind_freeLease _ _ _))
    split
    · refine Behind.trans ?_ (behind_post _ _ _)
      split
      · exact h.trans (behind_postAll _ _)
      · exact h
    · split
      · exact h.trans (behind_postAll _ _)
      · exact h
  · have hb {t : State} {l : List Saved} {p : List Parked} {o : List Orphan} :
        Behind t { l.foldl (fun s c => freeSaved s slot c) t with parked := p, orphans := o } :=
      Behind.trans (.foldl (fun _ _ => behind_freeSaved _ _ _) _ _) (behind_waits _ _ _)
    exact hb.flight _ (List.mem_append_right _ (List.mem_singleton_self _)) nofun nofun

/-! ## Trap entry (R41, R185) -/

theorem trapToHandler : Says.TrapToHandler := by
  intro s slot pc e t hv ha
  have he : trapEntry s slot pc e = s.setSlot slot { t.trapRegs pc e with pc := t.trapvec.setWidth 15, st := .ready, attempt := none } := by
    simp only [trapEntry]
    rw [if_neg (not_or.2 ⟨hv, by rw [ha]; exact Bool.false_ne_true⟩), State.setSlot_setSlot]
  rw [he]
  exact ⟨State.setSlot_slot_self _ _ _, fun j hj => State.setSlot_slot_other _ _ _ _ hj, rfl⟩

theorem trapEntry_kills {s : State} {slot : Nat} {pc : Pc} {e : Trap} (h : (s.slot slot).trapvec = 0 ∨ (s.slot slot).trapcause.getLsbD 8 = true) :
    trapEntry s slot pc e = unitEnd (s.setSlot slot ((s.slot slot).trapRegs pc e)) slot true (e.cause != causeCancel) := if_pos h

theorem trapKills : Says.TrapKills := by
  intro s slot pc e t u h
  have hs : (s.setSlot slot (t.trapRegs pc e)).slot slot = t.trapRegs pc e := State.setSlot_slot_self _ _ _
  obtain ⟨s1, hb, hm, hu⟩ := unitEnd_eq (s.setSlot slot (t.trapRegs pc e)) slot true (e.cause != causeCancel)
  rw [hs] at hm hu
  have hu : u = s1.setSlot slot (idleSlot (t.trapRegs pc e)) := (trapEntry_kills h).trans hu
  have hus : u.slot slot = idleSlot (t.trapRegs pc e) := by rw [hu]; exact State.setSlot_slot_self _ _ _
  rw [hus]
  refine ⟨rfl, rfl, rfl, rfl, rfl, rfl, rfl, rfl, rfl, rfl, rfl, fun j hj => ?_, ?_⟩
  · rw [hu, State.setSlot_slot_other _ _ _ _ hj, hb.slot, State.setSlot_slot_other _ _ _ _ hj]
  · rw [hu]
    have he : (if (true && (e.cause != causeCancel) || t.guardPend) = true then 1 else 0) = if e.cause ≠ 0x0E ∨ t.guardPend = true then 1 else 0 :=
      if_congr (by simp [causeCancel]) rfl rfl
    exact he ▸ hm

/-- Settles O18. -/
theorem trapEntry_enters_or_kills : Obligations.TrapEntry := ⟨trapToHandler, trapKills⟩

end Sys2Proof.Machine
end

section
/-! SUPPORT. The state after device reset (R30, R37, R49, R78, R79, R106, R131): every map is empty, so that each part reads as its default. -/

namespace Sys2Proof.Machine
open Sys2Proof

/-- No launch is known after reset. -/
theorem persistWin_reset (i : Nat) : State.reset.persistWin i = 0 :=
  State.persistWin_of_none (by unfold State.liveLevel; split <;> rfl)

theorem ptpTime_reset (d : Nat) : State.reset.ptpTime d = 0 :=
  (State.ptpTime_of_not_slow (s := State.reset) (d := d) rfl).trans (by simp [State.reset, State.dev, Sp.get, Sp.find])

/-- The registers whose reading after reset is 0 by their definition alone (R37). -/
def plainZeros : List Nat :=
  [0x001, 0x002, 0x003, 0x010, 0x011, 0x012, 0x013, 0x014, 0x015, 0x018, 0x019, 0x01A, 0x020, 0x029, 0x030, 0x031, 0x032, 0x033,
    0x034, 0x035, 0x036, 0x037, 0x040, 0x041, 0x060]

theorem sysReg_reset_plain {r : Nat} (hr : r ∈ plainZeros) (i sub : Nat) : State.reset.sysReg i r sub = 0 := by
  fin_cases hr <;> rfl

theorem sysReg_reset_cpymask (i sub : Nat) : State.reset.sysReg i 0x028 sub = 0 := ite_self (0 : W64)

/-- Settles O51. -/
theorem resetState : Obligations.ResetState := by
  refine ⟨rfl, fun _ => rfl, rfl, rfl, rfl, rfl, fun _ => ⟨rfl, rfl⟩, fun _ _ => rfl, fun _ => ⟨rfl, rfl, rfl⟩,
    fun k => ⟨fun _ => rfl, fun _ => rfl, rfl, fun n hn _ => ?_⟩, fun _ => rfl, fun i => ⟨rfl, fun n => ⟨?_, rfl, rfl, ?_⟩, rfl, rfl,
    fun r hr sub => ?_, rfl, rfl⟩⟩
  · exact if_neg (Nat.pos_iff_ne_zero.1 hn)
  · exact ite_self (0 : W64)
  · exact Bool.and_false _
  · have hc : r ∈ plainZeros ∨ r = 0x028 ∨ r = 0x042 ∨ r = 0x050 := by
      revert r; decide
    rcases hc with h | rfl | rfl | rfl
    · exact sysReg_reset_plain h i sub
    · exact sysReg_reset_cpymask i sub
    · exact ptpTime_reset _
    · exact persistWin_reset i

end Sys2Proof.Machine
end

section
/-! SUPPORT. Stream ports as operands (R28, R83, R84, R179, R332): what stands against a group at its ports, where it stops, the words it takes
and the word it sends. -/

namespace Sys2Proof.Machine
open Sys2Proof

/-! ## What stands against a group at its ports -/

section
variable {s : State} {core i : Nat} {reads : List Nat} {wr : Option Nat}

theorem portFault_unreadable (h : reads.find? (fun i => !(s.port core i).readable) = some i) :
    portFault s core reads wr = some ({ cause := causePort, info := portInfo i (s.port core i).st 1 }, s) := by
  simp only [portFault, h]

theorem portFault_marker (hr : ∀ i ∈ reads, (s.port core i).readable = true)
    (h : reads.find? (fun i => ((s.port core i).buf.take (countOf i reads)).contains none) = some i) :
    portFault s core reads wr = some ({ cause := causePort, info := portInfo i (s.port core i).st 2 }, takeMarker s core i) := by
  have hn : reads.find? (fun i => !(s.port core i).readable) = none := List.find?_eq_none.2 fun i hi => by simp [hr i hi]
  simp only [portFault, hn, h]

/-- Nothing stands against the ports a group reads: only the port it writes may. -/
theorem portFault_reads (hr : ∀ i ∈ reads, (s.port core i).readable = true)
    (hm : ∀ i ∈ reads, none ∉ (s.port core i).buf.take (countOf i reads)) : portFault s core reads wr = portFault s core [] wr := by
  have hn : reads.find? (fun i => !(s.port core i).readable) = none := List.find?_eq_none.2 fun i hi => by simp [hr i hi]
  have hk : reads.find? (fun i => ((s.port core i).buf.take (countOf i reads)).contains none) = none :=
    List.find?_eq_none.2 fun i hi => by simpa using hm i hi
  simp only [portFault, hn, hk, List.find?_nil]

theorem portFault_unwritable (h : (s.port core i).writable = false) :
    portFault s core [] (some i) = some ({ cause := causePort, info := portInfo i (s.port core i).st 1 }, s) := by
  simp [portFault, h]

theorem portFault_refused_addr (h : (s.port core i).writable = true) (hr : (s.port core i).refused = 1) :
    portFault s core [] (some i) = some ({ cause := causeAddr, addr := (s.port core i).place }, dropRoute s core i) := by
  simp [portFault, h, hr]

theorem portFault_refused_lost (h : (s.port core i).writable = true) (hr : (s.port core i).refused = 3) :
    portFault s core [] (some i) = some ({ cause := causePort, info := portInfo i (s.port core i).st 3 }, dropRoute s core i) := by
  simp [portFault, h, hr]

/-- The port that a group writes, if it writes one, takes words. -/
theorem portFault_none (h : ∀ i, wr = some i → (s.port core i).writable = true ∧ (s.port core i).refused = 0) : portFault s core [] wr = none := by
  cases wr with
  | none => rfl
  | some i => simp [portFault, h i rfl]

end

/-! ## The verdict at the ports -/

/-- Nothing stands against a group at its ports. -/
structure PortsClear (u : Uses) (x : Fld) (s : State) : Prop where
  readable : ∀ i ∈ u.reads x, (s.port (slotCore s.cur) i).readable = true
  unmarked : ∀ i ∈ u.reads x, none ∉ (s.port (slotCore s.cur) i).buf.take (countOf i (u.reads x))
  writable : ∀ i, u.writes x = some i → (s.port (slotCore s.cur) i).writable = true ∧ (s.port (slotCore s.cur) i).refused = 0

theorem PortsClear.portFault {u : Uses} {x : Fld} {s : State} (h : PortsClear u x s) :
    Machine.portFault s (slotCore s.cur) (u.reads x) (u.writes x) = none :=
  (portFault_reads h.readable h.unmarked).trans (portFault_none h.writable)

theorem portVerdict_fault {u : Uses} {x : Fld} {s s' : State} {e : Trap}
    (h : portFault s (slotCore s.cur) (u.reads x) (u.writes x) = some (e, s')) : portVerdict u x s = .trap e s' := by
  simp only [portVerdict, h]

theorem PortsClear.few_words {u : Uses} {x : Fld} {s : State} (h : PortsClear u x s) {i : Nat}
    (hw : (u.reads x).find? (fun i => decide ((s.port (slotCore s.cur) i).buf.length < countOf i (u.reads x))) = some i) :
    portVerdict u x s = portStop u x s (.portIn i) i := by
  simp only [portVerdict, h.portFault, readWait, hw]

theorem PortsClear.enough_words {u : Uses} {x : Fld} {s : State} (h : PortsClear u x s)
    (hw : ∀ i ∈ u.reads x, countOf i (u.reads x) ≤ (s.port (slotCore s.cur) i).buf.length) :
    portVerdict u x s = linkVerdict u x (routeStarted u x s) := by
  have hn : readWait s (slotCore s.cur) (u.reads x) = none :=
    List.find?_eq_none.2 fun i hi => by simpa using hw i hi
  simp only [portVerdict, h.portFault, hn]

/-- A port as d that has no room for its word stops the group. -/
theorem linkVerdict_no_room {u : Uses} {x : Fld} {s : State} {i : Nat} (hu : u.writes x = some i)
    (hw : (s.port (slotCore s.cur) i).writable = true ∧ (s.port (slotCore s.cur) i).refused = 0)
    (hr : s.portRoom (s.port (slotCore s.cur) i) = false) : linkVerdict u x s = portStop u x s (.portOut i) i := by
  have hf : portFault s (slotCore s.cur) [] (some i) = none := portFault_none fun j hj => by cases hj; exact hw
  have hq : writeWait s (slotCore s.cur) (some i) = some i := by simp [writeWait, Option.filter, hr]
  simp only [linkVerdict, hu, hf, hq]

theorem linkVerdict_no_dest {u : Uses} {x : Fld} {s : State} (hu : u.writes x = none) : linkVerdict u x s =
    .run (readVals u x s s.cur) ((List.range 8).foldl (fun t i => takeWords t (slotCore s.cur) i (countOf i (u.reads x))) s) := by
  simp [linkVerdict, hu, portFault, writeWait]

/-! ## Where a group stops (R179) -/

theorem Slot.limit_of_mode_one {t : Slot} (h : t.waitMode = 1) : t.limit = some t.waitLimit := if_pos h
theorem Slot.limit_of_mode_other {t : Slot} (h : t.waitMode ≠ 1) : t.limit = none := if_neg h

/-- The attempt with which a group begins or goes on to wait under a limit. -/
def boundedAttempt (s : State) (l : Nat) (info : W64) : Attempt :=
  { (s.slot s.cur).attempt.getD { since := s.now, id := s.ticket, limit := none, info := 0, watched := none } with
    limit := some l, info := info, watched := none }

theorem boundedAttempt_since (s : State) (l : Nat) (info : W64) :
    (boundedAttempt s l info).since = ((s.slot s.cur).attempt.map (·.since)).getD s.now := by
  unfold boundedAttempt
  cases (s.slot s.cur).attempt <;> rfl

/-- A bounded wait goes on or expires (R179). -/
theorem waitFor_bounded (s : State) (c : Cond) (l : Nat) (w : Bool) (info : W64) : waitFor s c (some l) w info =
    let a := boundedAttempt s l info
    let u := s.tick.updSlot s.cur fun t => { t with st := .waiting c, attempt := some a }
    if a.since + l ≤ s.now then trapEntry (dropRoutes u s.cur) s.cur (s.slot s.cur).pc { cause := causeWaitTimeout, info := info }
    else u.postAt (a.since + l + 1) (.waitTimeout s.cur (s.slot s.cur).gen a.id) := by
  simp only [waitFor, boundedAttempt, Option.isNone_some, Bool.and_false, Bool.false_eq_true, if_false]
  rfl

theorem waitFor_unbounded_slot (s : State) (c : Cond) (w : Bool) (info : W64) : let t' := waitFor s c none w info
    t'.slot s.cur = { s.slot s.cur with st := .waiting c, attempt := (t'.slot s.cur).attempt } := by
  cases w <;> simp [waitFor]

theorem PortsOnly.now {s t : State} (h : PortsOnly s t) : t.now = s.now := by rw [h.eq]

theorem stopsAtPort_of_portStop {p : Uses × (Fld → Instr)} (hi : Issues p) {x : Fld} {s s1 : State} {c : Cond} {i : Nat} (hs : PortsOnly s s1)
    (h : operands p.1 x s = portStop p.1 x s1 c i) : StopsAtPort p x s s1 c i := by
  have hc : s1.cur = s.cur := hs.cur
  refine ⟨fun hm => ?_, fun hm => ?_, fun hm => ?_⟩
  · have hw : operands p.1 x s = .wait c none true (portWaitInfo i (s1.port (slotCore s.cur) i)) s1 := by
      simp only [h, portStop, hc, hm, Slot.limit_of_mode_other (t := s1.slot s.cur) (by rw [hm]; decide)]
      rfl
    have := waitFor_unbounded_slot s1 c true (portWaitInfo i (s1.port (slotCore s.cur) i))
    rw [hc] at this
    exact ⟨_, hi.wait hw, this⟩
  · have hl : (s1.slot s.cur).limit = some (s1.slot s.cur).waitLimit := Slot.limit_of_mode_one hm
    have hw : operands p.1 x s =
        .wait c (some (s1.slot s.cur).waitLimit) true (portWaitInfo i (s1.port (slotCore s.cur) i)) s1 := by
      simp only [h, portStop, hc, hm, hl]
      rfl
    have he := hi.wait hw
    rw [waitFor_bounded] at he
    have hsince := boundedAttempt_since s1 (s1.slot s.cur).waitLimit (portWaitInfo i (s1.port (slotCore s.cur) i))
    rw [hc, hs.now] at hsince
    simp only [hc, hs.now, hsince] at he
    refine ⟨fun hn => ?_, fun hn => ?_⟩
    · rw [if_neg (Nat.not_le.2 hn)] at he
      exact ⟨_, _, he, by simp, hsince, rfl, rfl⟩
    · rw [if_pos hn] at he
      exact ⟨_, rfl, he⟩
  · have hf : operands p.1 x s = .fail ((dropRoutes s1 s.cur).updSlot s.cur fun t => (p.1.failDests x).foldl (fun t n => t.setG n (-1)) t) := by
      simp only [h, portStop, hc, hm, if_true]
    exact hi.fail hf

/-! ## The words a group takes -/

/-- The state after a group has taken its words from the first `m` ports of its core. -/
def takeAll (s : State) (core : Nat) (f : Nat → Nat) (m : Nat) : State := (List.range m).foldl (fun t i => takeWords t core i (f i)) s

theorem takeAll_succ (s : State) (core : Nat) (f : Nat → Nat) (m : Nat) :
    takeAll s core f (m + 1) = takeWords (takeAll s core f m) core m (f m) := by
  simp [takeAll, List.range_succ]

theorem State.setPort_port (s : State) (core i j : Nat) (p : Port) : (s.setPort core i p).port core j = if j = i then p else s.port core j := by
  simp [State.port, State.setPort, Core.port, Core.setPort, Sp.get_put]

theorem takeWords_port (s : State) (core i j n : Nat) : ((takeWords s core i n).port core j).buf =
      (if j = i then (s.port core j).buf.drop n else (s.port core j).buf) ∧
    ((takeWords s core i n).port core j).taken =
      (if j = i then (s.port core j).taken + BitVec.ofNat 16 n else (s.port core j).taken) := by
  unfold takeWords
  split
  · next h => subst h; simp
  · rw [State.setPort_port]
    split
    · next h => subst h; exact ⟨rfl, rfl⟩
    · exact ⟨rfl, rfl⟩

/-- Each port has given up the words the group takes of it. -/
theorem takeAll_port (s : State) (core : Nat) (f : Nat → Nat) (m j : Nat) : ((takeAll s core f m).port core j).buf =
      (if j < m then (s.port core j).buf.drop (f j) else (s.port core j).buf) ∧
    ((takeAll s core f m).port core j).taken =
      (if j < m then (s.port core j).taken + BitVec.ofNat 16 (f j) else (s.port core j).taken) := by
  induction m with
  | zero => exact ⟨rfl, rfl⟩
  | succ m ih =>
    obtain ⟨hb, ht⟩ := takeWords_port (takeAll s core f m) core m j (f m)
    rw [takeAll_succ, hb, ht, ih.1, ih.2]
    by_cases hj : j = m
    · subst hj; simp
    · have : j < m + 1 ↔ j < m := by omega
      simp [hj, this]

theorem takeWords_agenda (s : State) (core i n : Nat) : (takeWords s core i n).agenda = s.agenda := by
  unfold takeWords
  split <;> rfl

theorem takeAll_agenda (s : State) (core : Nat) (f : Nat → Nat) (m : Nat) : (takeAll s core f m).agenda = s.agenda := by
  induction m with
  | zero => rfl
  | succ m ih => rw [takeAll_succ, takeWords_agenda, ih]

/-- The word that a port operand gives, where the port holds it. -/
theorem gVal_port {s : State} {slot n k : Nat} (h : 24 ≤ n) (hk : k < (s.port (slotCore slot) (n - 24)).buf.length)
    {m : Nat} (hm : k < m) (hu : none ∉ (s.port (slotCore slot) (n - 24)).buf.take m) :
    (s.port (slotCore slot) (n - 24)).buf[k]? = some (some (s.gVal slot n k)) := by
  have hw : (s.port (slotCore slot) (n - 24)).buf[k]? = some ((s.port (slotCore slot) (n - 24)).buf[k]) := List.getElem?_eq_getElem hk
  have hmem : (s.port (slotCore slot) (n - 24)).buf[k] ∈ (s.port (slotCore slot) (n - 24)).buf.take m :=
    List.mem_take_iff_getElem.2 ⟨k, by omega, rfl⟩
  cases hv : (s.port (slotCore slot) (n - 24)).buf[k] with
  | none => exact absurd (hv ▸ hmem) hu
  | some v => rw [State.gVal, if_neg (Nat.not_lt.2 h), Port.wordAt, hw, hv]; rfl

theorem countOf_append (i : Nat) (l m : List Nat) : countOf i (l ++ m) = countOf i l + countOf i m := by
  simp [countOf]

theorem countOf_self (i : Nat) : countOf i [i] = 1 := by simp [countOf]

theorem countOf_one (i j : Nat) : countOf i [j] = if j = i then 1 else 0 := by
  by_cases h : j = i <;> simp [countOf, h]

/-- The port that operand a names, if it names one. -/
def Uses.portA (u : Uses) (x : Fld) : List Nat := if u.a = .g ∧ 24 ≤ x.a.toNat then [x.a.toNat - 24] else []

theorem Uses.countOf_a {u : Uses} {x : Fld} (ha : u.a = .g) (h : 24 ≤ x.a.toNat) : 0 < countOf (x.a.toNat - 24) (u.reads x) := by
  rw [Uses.reads, countOf_append, countOf_append, if_pos ⟨ha, h⟩, countOf_self]
  omega

theorem Uses.countOf_b {u : Uses} {x : Fld} (hb : u.b = .g) (h : 24 ≤ x.b.toNat) :
    countOf (x.b.toNat - 24) (u.portA x) < countOf (x.b.toNat - 24) (u.reads x) := by
  rw [Uses.reads, countOf_append, countOf_append, if_pos (c := u.b = .g ∧ _) ⟨hb, h⟩, countOf_self, Uses.portA]
  omega

/-- Operand b takes the second word of a port that operand a names too. -/
theorem Uses.countOf_portA {u : Uses} {x : Fld} (h : 24 ≤ x.b.toNat) :
    countOf (x.b.toNat - 24) (u.portA x) = if u.a = .g ∧ x.a = x.b then 1 else 0 := by
  unfold Uses.portA
  by_cases ha : u.a = .g ∧ 24 ≤ x.a.toNat
  · have he : x.a.toNat - 24 = x.b.toNat - 24 ↔ x.a = x.b := by
      rw [← BitVec.toNat_inj]; omega
    rw [if_pos ha, countOf_one]
    exact if_congr (by rw [he]; exact ⟨fun e => ⟨ha.1, e⟩, And.right⟩) rfl rfl
  · have hn : ¬(u.a = .g ∧ x.a = x.b) := fun e => ha ⟨e.1, by rw [e.2]; exact h⟩
    rw [if_neg ha, if_neg hn]
    rfl

theorem Uses.mem_reads_of_count {u : Uses} {x : Fld} {i : Nat} (h : 0 < countOf i (u.reads x)) : i ∈ u.reads x := by
  obtain ⟨j, hj⟩ := List.exists_mem_of_length_pos h
  obtain ⟨hm, he⟩ := List.mem_filter.1 hj
  rwa [beq_iff_eq.1 he] at hm

/-- A group whose ports hold every word it takes, and that writes none, runs on these words. -/
theorem PortsClear.runs {u : Uses} {x : Fld} {s : State} (h : PortsClear u x s) (hu : u.writes x = none)
    (hw : ∀ i ∈ u.reads x, countOf i (u.reads x) ≤ (s.port (slotCore s.cur) i).buf.length) :
    portVerdict u x s = .run (readVals u x s s.cur) (takeAll s (slotCore s.cur) (fun i => countOf i (u.reads x)) 8) := by
  have hr : routeStarted u x s = s := by simp [routeStarted, hu]
  rw [h.enough_words hw, hr, linkVerdict_no_dest hu]
  rfl

/-- The words a group reads on the ports of a and b. -/
theorem PortsClear.words {u : Uses} {x : Fld} {s : State} (h : PortsClear u x s)
    (hw : ∀ i ∈ u.reads x, countOf i (u.reads x) ≤ (s.port (slotCore s.cur) i).buf.length) :
    (u.a = .g → 24 ≤ x.a.toNat → (s.port (slotCore s.cur) (x.a.toNat - 24)).buf[0]? = some (some (readVals u x s s.cur).a)) ∧
    (u.b = .g → 24 ≤ x.b.toNat → (s.port (slotCore s.cur) (x.b.toNat - 24)).buf[if u.a = .g ∧ x.a = x.b then 1 else 0]? =
      some (some (readVals u x s s.cur).b)) := by
  refine ⟨fun ha hp => ?_, fun hb hp => ?_⟩
  · have hc := Uses.countOf_a ha hp
    have hm := Uses.mem_reads_of_count hc
    have hv : (readVals u x s s.cur).a = s.gVal s.cur x.a.toNat 0 := if_pos ha
    rw [hv]
    exact gVal_port hp (Nat.lt_of_lt_of_le hc (hw _ hm)) hc (h.unmarked _ hm)
  · have hc := Uses.countOf_b hb hp
    have hm := Uses.mem_reads_of_count (Nat.zero_lt_of_lt hc)
    have hv : (readVals u x s s.cur).b = s.gVal s.cur x.b.toNat (countOf (x.b.toNat - 24) (u.portA x)) := if_pos hb
    rw [hv, ← Uses.countOf_portA hp]
    exact gVal_port hp (Nat.lt_of_lt_of_le hc (hw _ hm)) hc (h.unmarked _ hm)

/-! ## The start of a route (R83) -/

theorem startRoute_of_started {s : State} {core i : Nat} {once : Bool} (h : (s.port core i).st = .opened ∨ (s.port core i).acq ≠ 0) :
    startRoute s core i once = s := by
  have hn : ¬((s.port core i).st = .bound ∧ (s.port core i).acq = 0) := fun hb => by
    rcases h with ho | ha
    · rw [hb.1] at ho; cases ho
    · exact ha hb.2
  simp only [startRoute, if_neg hn]

/-- A group that may wait sends the head of its route on its way. -/
theorem startRoute_waiting {s : State} {core i : Nat} (hb : (s.port core i).st = .bound) (ha : (s.port core i).acq = 0) :
    startRoute s core i false =
      (s.tick.setPort core i { s.port core i with acq := 1, route := s.ticket + 1, writer := s.cur }).post .routeHop (core * 8 + i) := by
  simp only [startRoute, if_pos (show (s.port core i).st = .bound ∧ (s.port core i).acq = 0 from ⟨hb, ha⟩)]
  rfl

theorem PortsOnly.linkVerdict_no_room {u : Uses} {x : Fld} {s s1 : State} {i : Nat} (hs : PortsOnly s s1) (hu : u.writes x = some i)
    (hw : (s1.port (slotCore s.cur) i).writable = true) (hf : (s1.port (slotCore s.cur) i).refused = 0)
    (hr : s1.portRoom (s1.port (slotCore s.cur) i) = false) : linkVerdict u x s1 = portStop u x s1 (.portOut i) i := by
  rw [← hs.cur] at hw hf hr
  exact Machine.linkVerdict_no_room hu ⟨hw, hf⟩ hr

/-- Under a trap bit a port that holds nothing traps, if every register before it is FULL. -/
theorem emptyPort_traps {p : Uses × (Fld → Instr)} (hi : Issues p) {x : Fld} {s : State} (he : Enabled p.1 x (s.slot s.cur)) {i : FeItem}
    (hf : (p.1.items x).find? (FeItem.stops s s.cur) = some i) (hp : i.isPort = true) :
    exec (p.2 x) s = .next (trapEntry s s.cur (s.slot s.cur).pc { cause := 0x02, addr := 0, info := BitVec.ofNat 64 (i.n + i.op * 128) }) := by
  have ht : i.trap = true := by
    have := List.find?_some hf
    simp only [FeItem.stops, hp, if_true, Bool.and_eq_true] at this
    exact this.1
  have hfile : i.file = .g := by
    simp only [FeItem.isPort, Bool.and_eq_true, beq_iff_eq] at hp
    exact hp.1
  have ho := operands_enabled (u := p.1) (x := x) (s := s) he
  rw [feCheck_eq, hf, Option.map_some, ht] at ho
  rw [hi.trap ho, FeItem.info, hfile]
  rfl

/-- A group that comes to its ports is looked at there. -/
theorem AtPorts.operands {u : Uses} {x : Fld} {s : State} (h : AtPorts u x s) (he : Enabled u x (s.slot s.cur)) :
    operands u x s = portVerdict u x s := by
  have hn : (u.items x).find? (FeItem.stops s s.cur) = none := List.find?_eq_none.2 fun i hi => by
    cases hp : i.isPort with
    | false => simp [FeItem.stops_register hp, h.full i hi hp]
    | true =>
      simp only [FeItem.stops, hp, if_true, Bool.and_eq_true, List.isEmpty_iff, not_and]
      exact h.words i hi hp
  rw [operands_enabled he, feCheck_eq, hn]
  rfl

theorem takeMarker_port (s : State) (core i : Nat) : ((takeMarker s core i).port core i).st = .listen ∧
    ((takeMarker s core i).port core i).buf = ((s.port core i).buf.dropWhile (·.isSome)).drop 1 := by
  unfold takeMarker
  rw [State.setPort_port, if_pos rfl]
  exact ⟨rfl, rfl⟩

theorem portSource : Says.PortSource := by
  intro p hp x s
  dsimp only
  intro he
  have hi := issues_forms p hp
  refine ⟨fun i hf hport => emptyPort_traps hi he hf hport, fun hat => ?_⟩
  have ho := hat.operands he
  have trap {e : Trap} {s' : State} (h : portFault s (slotCore s.cur) (p.1.reads x) (p.1.writes x) = some (e, s')) :
      exec (p.2 x) s = .next (trapEntry s' s.cur (s.slot s.cur).pc e) := hi.trap (ho.trans (portVerdict_fault h))
  refine ⟨fun i h => trap (portFault_unreadable h), fun hr => ⟨fun i h => ?_, fun hm => ?_⟩⟩
  · obtain ⟨hst, hbuf⟩ := takeMarker_port s (slotCore s.cur) i
    exact ⟨_, trap (portFault_marker hr h), hst, hbuf, fun j => rfl⟩
  have hd := portFault_reads (wr := p.1.writes x) hr hm
  refine ⟨fun i hw h => trap ?_, fun i hw h hr => trap ?_, fun i hw h hr => trap ?_, fun hwr => ?_⟩
  · rw [hd, hw]; exact portFault_unwritable h
  · rw [hd, hw]; exact portFault_refused_addr h hr
  · rw [hd, hw]; exact portFault_refused_lost h hr
  have hc : PortsClear p.1 x s := ⟨hr, hm, hwr⟩
  refine ⟨fun i h => stopsAtPort_of_portStop hi (.rfl s) (ho.trans (hc.few_words h)), fun hen => ?_⟩
  have hl := ho.trans (hc.enough_words hen)
  have started {i : Nat} (hw : p.1.writes x = some i) :
      routeStarted p.1 x s = startRoute s (slotCore s.cur) i ((s.slot s.cur).waitMode == 2) := by simp only [routeStarted, hw]
  have stop {i : Nat} (hw : p.1.writes x = some i) {s1 : State} (h1 : startRoute s (slotCore s.cur) i ((s.slot s.cur).waitMode == 2) = s1)
      (hwt : (s1.port (slotCore s.cur) i).writable = true) (hrf : (s1.port (slotCore s.cur) i).refused = 0)
      (hroom : s1.portRoom (s1.port (slotCore s.cur) i) = false) : StopsAtPort p x s s1 (.portOut i) i := by
    have hs : PortsOnly s s1 := h1 ▸ startRoute_ports _ _ _ _
    refine stopsAtPort_of_portStop hi hs (hl.trans ?_)
    rw [started hw, h1]
    exact hs.linkVerdict_no_room hw hwt hrf hroom
  refine ⟨fun i hw hs hroom => ?_, fun i hw hb ha => ⟨fun hmode => ?_, fun hmode hwt hrf hroom => stop hw rfl hwt hrf hroom⟩, fun hw => ?_⟩
  · exact stop hw (startRoute_of_started hs) (hwr i hw).1 (hwr i hw).2 hroom
  · have h1 := startRoute_waiting hb ha
    rw [← beq_false_of_ne hmode] at h1
    have hport : (startRoute s (slotCore s.cur) i ((s.slot s.cur).waitMode == 2)).port (slotCore s.cur) i =
        { s.port (slotCore s.cur) i with acq := 1, route := s.ticket + 1, writer := s.cur } := by
      rw [h1]
      exact (State.setPort_port _ _ _ _ _).trans (if_pos rfl)
    refine ⟨stop hw rfl ?_ ?_ ?_, ?_, ?_, ?_⟩
    · rw [hport]; exact (hwr i hw).1
    · rw [hport]; exact (hwr i hw).2
    · rw [hport, State.portRoom, hb]; rfl
    · rw [hport]
    · rw [hport]
    · rw [h1]
      exact ⟨_, List.mem_append_right _ (List.mem_singleton_self _), rfl, rfl⟩
  · have hports := takeAll_ports s (slotCore s.cur) (fun i => countOf i (p.1.reads x)) (List.range 8)
    obtain ⟨hwa, hwb⟩ := hc.words hen
    refine ⟨_, _, ho.trans (hc.runs hw hen), hwa, hwb, fun i h8 => ?_, hports.slot, hports.mem, takeAll_agenda _ _ _ _⟩
    obtain ⟨hb, ht⟩ := takeAll_port s (slotCore s.cur) (fun i => countOf i (p.1.reads x)) 8 i
    exact ⟨hb.trans (if_pos h8), ht.trans (if_pos h8)⟩

/-! ## The word a port takes (R84, R140, R147) -/

/-- What sending from an NI changes: what is in flight, the counts of the NIs and the partitions. -/
theorem sendAs_eq (s : State) (ni part : Nat) (t : Option Bool) (o : Op) : s.sendAs ni part t o =
    { s with agenda := (s.sendAs ni part t o).agenda, nis := (s.sendAs ni part t o).nis, parts := (s.sendAs ni part t o).parts } := by
  unfold State.sendAs
  split
  · rfl
  · cases t <;> rfl

theorem sendAs_held {s : State} {part : Nat} (h : s.injSpent part = true) (ni : Nat) (t : Option Bool) (o : Op) :
    s.sendAs ni part t o = s.postOp { o with inj := some (ni, part, t) } := if_pos h

theorem sendAs_counted {s : State} {part : Nat} (h : s.injSpent part = false) (ni : Nat) (b : Bool) (o : Op) :
    s.sendAs ni part (some b) o = (s.inject ni part b).postOp o := if_neg (by rw [h]; exact Bool.false_ne_true)

theorem sendAs_uncounted {s : State} {part : Nat} (h : s.injSpent part = false) (ni : Nat) (o : Op) :
    s.sendAs ni part none o = (s.injBytes part).postOp o := if_neg (by rw [h]; exact Bool.false_ne_true)

/-- The count of one injected message under a phase tag (R140). -/
theorem inject_ni (s : State) (ni part : Nat) (t : Bool) : (s.inject ni part t).ni ni =
    if t then { s.ni ni with sent1 := (s.ni ni).sent1 + 1 } else { s.ni ni with sent0 := (s.ni ni).sent0 + 1 } := by
  simp [State.inject, State.ni, State.updPart, State.injBytes, State.setPart]

/-- A port that has taken one more word (R84). -/
def Port.wordTaken (p : Port) : Port := { p with st := .opened, flying := p.flying + 1, wrote := p.wrote + 1 }

/-- A word on its way to the receiver of a port. -/
def wordOp (p : Port) (core i : Nat) (w : W64) : Op := { who := p.route, ins := .streamWordArrival p.tgtCore p.tgtPort core i w }

theorem sendWord_eq (s : State) (core i : Nat) (w : W64) : sendWord s core i w =
    (s.setPort core i (s.port core i).wordTaken).sendAs core (s.partOf (coreCluster core))
      (if (s.port core i).st = .bound then some (s.port core i).phase else none) (wordOp (s.port core i) core i w) := rfl

theorem sendWord_port (s : State) (core i : Nat) (w : W64) : (sendWord s core i w).port core i = (s.port core i).wordTaken := by
  have h : (sendWord s core i w).port core i = (s.setPort core i (s.port core i).wordTaken).port core i := by
    rw [sendWord_eq, sendAs_eq]; rfl
  rw [h, State.setPort_port, if_pos rfl]

theorem portWord : Says.PortWord := by
  intro s core i w
  dsimp only
  have hspent (part : Nat) : (s.setPort core i (s.port core i).wordTaken).injSpent part = s.injSpent part := rfl
  rw [sendWord_port]
  refine ⟨rfl, rfl, rfl, ?_, ?_, fun h => ?_, fun h => ?_, fun hb => ?_, fun h hb hp => ?_, fun h hb hp => ?_⟩
  · rw [sendWord_eq, sendAs_eq]; rfl
  · rw [sendWord_eq, sendAs_eq]; rfl
  · rw [sendWord_eq]
    split
    · rw [sendAs_counted (by rw [hspent, h])]; rfl
    · rw [sendAs_uncounted (by rw [hspent, h])]; rfl
  · rw [sendWord_eq, sendAs_held (by rw [hspent, h])]
    exact ⟨rfl, rfl, rfl⟩
  · rw [sendWord_eq, if_neg hb]
    cases h : s.injSpent (s.partOf (coreCluster core)) with
    | true => rw [sendAs_held (by rw [hspent, h])]; rfl
    | false => rw [sendAs_uncounted (by rw [hspent, h])]; rfl
  · have hn : (sendWord s core i w).ni core = { s.ni core with sent0 := (s.ni core).sent0 + 1 } := by
      rw [sendWord_eq, if_pos hb, hp, sendAs_counted (by rw [hspent, h])]
      exact inject_ni _ core (s.partOf (coreCluster core)) false
    rw [hn]
    exact ⟨rfl, rfl⟩
  · have hn : (sendWord s core i w).ni core = { s.ni core with sent1 := (s.ni core).sent1 + 1 } := by
      rw [sendWord_eq, if_pos hb, hp, sendAs_counted (by rw [hspent, h])]
      exact inject_ni _ core (s.partOf (coreCluster core)) true
    rw [hn]
    exact ⟨rfl, rfl⟩

/-- Settles O17. -/
theorem portOperands : Obligations.PortOperands := ⟨portSource, portWord⟩

end Sys2Proof.Machine
end

section
/-! SUPPORT. An access that leaves its core (R26, R173, R279): what the slot holds for it, and the requests on their way to its homes. -/

namespace Sys2Proof.Machine
open Sys2Proof

/-! ## F/E bits -/

theorem Slot.setEmpty_empty (t : Slot) (c d : Nat) (e : Bool) :
    (t.setEmpty c e).empty d = if d = c then d != 0 && d != 64 && e else t.empty d := by
  simp only [Slot.empty, Slot.setEmpty, Sp.get_set]
  split <;> rfl

theorem Slot.markEmpty_rest (l : List Nat) (t : Slot) : t.markEmpty l = { t with fe := (t.markEmpty l).fe } := by
  induction l generalizing t with
  | nil => rfl
  | cons c l ih =>
    simp only [Slot.markEmpty]
    rw [ih]
    split <;> rfl

theorem Slot.markEmpty_empty_of_not_mem {l : List Nat} {d : Nat} (h : d ∉ l) (t : Slot) : (t.markEmpty l).empty d = t.empty d := by
  induction l generalizing t with
  | nil => rfl
  | cons c l ih =>
    simp only [Slot.markEmpty]
    rw [ih fun hd => h (List.mem_cons_of_mem c hd)]
    split
    · rfl
    · rw [Slot.setEmpty_empty, if_neg fun hd => h (by rw [hd]; exact List.mem_cons_self)]

theorem Slot.markEmpty_empty_of_mem {l : List Nat} {d : Nat} (h : d ∈ l) (h0 : d ≠ 0) (hk : d ≠ 64) (t : Slot) :
    (t.markEmpty l).empty d = true := by
  induction l generalizing t with
  | nil => exact absurd h List.not_mem_nil
  | cons c l ih =>
    simp only [Slot.markEmpty]
    by_cases hl : d ∈ l
    · exact ih hl _
    · have hc : d = c := (List.mem_cons.1 h).resolve_right hl
      rw [Slot.markEmpty_empty_of_not_mem hl, if_neg (hc ▸ h0), Slot.setEmpty_empty, if_pos hc]
      simp [h0, hk]

/-! ## Neither the slots nor a ticket taken are seen by an address check -/

theorem State.setSlot_linkFrom (s : State) (i : Nat) (t : Slot) (c d : Nat) : (s.setSlot i t).linkFrom c d = s.linkFrom c d := rfl
theorem State.setSlot_partAt (s : State) (i : Nat) (t : Slot) (p d : Nat) : (s.setSlot i t).partAt p d = s.partAt p d := by
  simp [State.partAt, State.mapPart, State.partner, State.linkUp, State.setSlot_linkFrom]

theorem State.tick_globalTarget (s : State) (p : Nat) (e : W64) : s.tick.globalTarget p e = s.globalTarget p e := by
  simp only [State.globalTarget, State.tick_partAt]
  rfl
theorem State.setSlot_globalTarget (s : State) (i : Nat) (t : Slot) (p : Nat) (e : W64) : (s.setSlot i t).globalTarget p e = s.globalTarget p e := by
  simp only [State.globalTarget, State.setSlot_partAt]
  rfl

theorem State.tick_target (s : State) (c p : Nat) (m : BitVec 2) (e : W64) : s.tick.target c p m e = s.target c p m e := by
  simp only [State.target, State.globalFrom, State.tick_globalTarget]
  split <;> rfl
theorem State.setSlot_target (s : State) (i : Nat) (t : Slot) (c p : Nat) (m : BitVec 2) (e : W64) :
    (s.setSlot i t).target c p m e = s.target c p m e := by
  simp only [State.target, State.globalFrom, State.setSlot_globalTarget]
  split <;> rfl

/-! ## Traffic on its way -/

theorem State.updPart_budInj (s : State) (i p : Nat) {f : Part → Part} (hf : ∀ q, (f q).budInj = q.budInj) :
    ((s.updPart i f).part p).budInj = (s.part p).budInj := by
  rw [State.updPart_part]
  split
  · next h => rw [hf, h]
  · rfl

theorem sendAs_budInj (s : State) (ni part : Nat) (t : Option Bool) (o : Op) (p : Nat) :
    ((s.sendAs ni part t o).part p).budInj = (s.part p).budInj := by
  have hb (r : State) : ((r.injBytes part).part p).budInj = (r.part p).budInj := r.updPart_budInj part p fun _ => rfl
  have hi (r : State) (b : Bool) : ((r.inject ni part b).part p).budInj = (r.part p).budInj :=
    (State.updPart_budInj _ part p (f := fun q => { q with quiet1 := q.quiet1 && !b, quiet0 := q.quiet0 && b }) fun _ => rfl).trans (hb _)
  cases h : s.injSpent part with
  | true => rw [sendAs_held h]; rfl
  | false =>
    cases t with
    | none => rw [sendAs_uncounted h]; exact hb s
    | some b => rw [sendAs_counted h]; exact hi s b

/-- A budget that is spent is a limited one (R147). -/
theorem injSpent_limited {s : State} {part : Nat} (h : s.injSpent part = true) : (s.part part).budInj ≠ 0 := by
  simp only [State.injSpent, budgetSpent, Bool.and_eq_true] at h
  simpa using h.1

/-- What is sent is in flight, or held at its NI. -/
theorem sendAs_agenda (s : State) (ni part : Nat) (t : Option Bool) {o : Op} (ho : o.inj = none) :
    ∃ h, Held s part h ∧ (s.sendAs ni part t o).agenda = s.agenda ++ [{ o with inj := h }] := by
  cases hs : s.injSpent part with
  | true => exact ⟨_, .inr ⟨injSpent_limited hs, ni, t, rfl⟩, by rw [sendAs_held hs]; rfl⟩
  | false =>
    have hn : ({ o with inj := none } : Op) = o := by rw [← ho]
    refine ⟨none, .inl rfl, ?_⟩
    rw [hn]
    cases t with
    | none => rw [sendAs_uncounted hs]; rfl
    | some b => rw [sendAs_counted hs]; rfl

/-- Several operations sent in order. -/
def sendList (ni part : Nat) (b : Bool) (l : List Op) (s : State) : State := l.foldl (fun s o => s.send ni part b o) s

theorem sendList_cons (ni part : Nat) (b : Bool) (o : Op) (l : List Op) (s : State) :
    sendList ni part b (o :: l) s = sendList ni part b l (s.sendAs ni part (some b) o) := rfl

theorem sendList_eq (ni part : Nat) (b : Bool) (l : List Op) (s : State) : sendList ni part b l s =
    { s with agenda := (sendList ni part b l s).agenda, nis := (sendList ni part b l s).nis, parts := (sendList ni part b l s).parts } := by
  induction l generalizing s with
  | nil => rfl
  | cons o l ih =>
    rw [sendList_cons, ih, sendAs_eq]

theorem sendList_agenda (ni part : Nat) (b : Bool) {l : List Op} (hl : ∀ o ∈ l, o.inj = none) (s : State) :
    ∃ h : List (Option (Nat × Nat × Option Bool)), h.length = l.length ∧ (∀ i ∈ h, Held s part i) ∧
      (sendList ni part b l s).agenda = s.agenda ++ (l.zip h).map fun q => { q.1 with inj := q.2 } := by
  induction l generalizing s with
  | nil => exact ⟨[], rfl, fun _ h => absurd h List.not_mem_nil, by simp [sendList]⟩
  | cons o l ih =>
    obtain ⟨i, hi, ha⟩ := sendAs_agenda s ni part (some b) (hl o List.mem_cons_self)
    obtain ⟨h, hlen, hh, hr⟩ := ih (fun o ho => hl o (List.mem_cons_of_mem _ ho)) (s.sendAs ni part (some b) o)
    refine ⟨i :: h, by simp [hlen], ?_, ?_⟩
    · intro j hj
      rcases List.mem_cons.1 hj with rfl | hj
      · exact hi
      · have hheld := hh j hj
        rwa [Held, sendAs_budInj] at hheld
    · rw [sendList_cons, hr, ha]
      simp

/-- The requests of an access, one a piece, are on their way to the homes of the pieces. -/
theorem sendPieces_agenda (s : State) (a : Access) :
    ∃ h : List (Option (Nat × Nat × Option Bool)), h.length = (accPieces a).length ∧ (∀ i ∈ h, Held s a.part i) ∧
      (sendPieces s a).agenda = s.agenda ++ ((accPieces a).zipIdx.zip h).map fun q => { homeOp s a q.1.2 q.1.1 with inj := q.2 } := by
  have hinj : ∀ o ∈ (accPieces a).zipIdx.map (fun q => homeOp s a q.2 q.1), o.inj = none := by
    intro o ho
    obtain ⟨q, -, rfl⟩ := List.mem_map.1 ho
    unfold homeOp
    split <;> rfl
  obtain ⟨h, hlen, hh, ha⟩ := sendList_agenda (slotCore a.slot) a.part (a.tag % 2 == 1) hinj s
  refine ⟨h, by simpa using hlen, hh, ha.trans ?_⟩
  simp [List.zip_map_left, Function.comp_def]

/-! ## The slot of an access that has left -/

/-- The entry that an access takes until it is answered (R279). -/
def accessEntry (s : State) (a : Access) (dests : List Nat) : Outst :=
  { tag := a.tag, pc := a.pc, access := true, vector := opVector a.op, dests := dests, lines := accessLines s a,
    write := opWrites a.op, acc := some a, held := false, reply := none, len := 0, soft := a.op == .acq }

/-- An access that is not held at its slot leaves it at once. -/
theorem sendAccess_eq (s : State) (a : Access) (dests : List Nat) : sendAccess s a dests false 0 =
    sendPieces (s.tick.setSlot s.cur { (s.slot s.cur).markEmpty dests with
      outst := (s.slot s.cur).outst ++ [accessEntry s a dests], ist := istoreLines s a ++ (s.slot s.cur).ist }) a := rfl

/-- An access that has left, and whose group has retired. -/
theorem sent_sendAccess {x : Fld} {s s' : State} (hp : PortsOnly s s') {a : Access} (hpc : a.pc = (s'.slot s.cur).pc) (hq : a.op ≠ .acq)
    (dests : List Nat) : Sent x a dests s s' (retired x s (sendAccess s' a dests false 0)) := by
  set t : Slot := { (s'.slot s.cur).markEmpty dests with
    outst := (s'.slot s.cur).outst ++ [accessEntry s' a dests], ist := istoreLines s' a ++ (s'.slot s.cur).ist } with ht
  have he : sendAccess s' a dests false 0 = sendPieces (s'.tick.setSlot s.cur t) a := by rw [sendAccess_eq, hp.cur]
  obtain ⟨h, hlen, hh, ha⟩ := sendPieces_agenda (s'.tick.setSlot s.cur t) a
  have hhome (i : Nat) (p : Piece) : homeOp (s'.tick.setSlot s.cur t) a i p = homeOp s' a i p := by
    rw [homeOp, State.setSlot_target, State.tick_target, homeOp]
  have hs : sendPieces (s'.tick.setSlot s.cur t) a = sendList _ _ _ _ _ := rfl
  have hslots : (sendPieces (s'.tick.setSlot s.cur t) a).slots = (s'.tick.setSlot s.cur t).slots := by rw [hs, sendList_eq]
  have hmem : (sendPieces (s'.tick.setSlot s.cur t) a).mem = s'.mem := by rw [hs, sendList_eq]; rfl
  have hcur : (sendPieces (s'.tick.setSlot s.cur t) a).cur = s.cur := by rw [hs, sendList_eq]; exact hp.cur
  have hself : (sendPieces (s'.tick.setSlot s.cur t) a).slot s.cur = t := by
    rw [State.slot, hslots]; exact State.setSlot_slot_self _ _ _
  have hslot : (retired x s (sendAccess s' a dests false 0)).slot s.cur = t.retire (nextPc x (s.slot s.cur)) := by
    rw [he, retired, retireTo, hcur, State.updSlot_slot_self, hself]
  have hentry : accessEntry s' a dests = { accessEntry s' a dests with pc := (s'.slot s.cur).pc, soft := false } := by
    simp [accessEntry, hpc, hq]
  have hfe (c : Nat) : (t.retire (nextPc x (s.slot s.cur))).empty c = ((s'.slot s.cur).markEmpty dests).empty c := rfl
  have hrest := Slot.markEmpty_rest dests (s'.slot s.cur)
  refine ⟨?_, fun c hc h0 hk => ?_, fun c hc => ?_, ?_, ?_, ?_, ⟨h, hlen, hh, ?_⟩, ?_, ?_, fun j hj => ?_, ?_⟩
  · rw [hslot]; exact congrArg (fun o => (s'.slot s.cur).outst ++ [o]) hentry
  · rw [hslot, hfe, Slot.markEmpty_empty_of_mem hc h0 hk]
  · rw [hslot, hfe, Slot.markEmpty_empty_of_not_mem hc]
  · rw [hslot]; exact (congrArg Slot.g hrest :)
  · rw [hslot]; exact (congrArg Slot.v hrest :)
  · rw [hslot]; exact (congrArg Slot.k hrest :)
  · rw [he]; exact ha.trans (congrArg (s'.agenda ++ ·) (List.map_congr_left fun q _ => by rw [hhome]))
  · rw [hslot]; rfl
  · rw [hslot, Slot.retire_retired]; exact (congrArg (fun u : Slot => u.retired + 1) hrest :)
  · rw [he, retired, retireTo, hcur, State.updSlot_slot, if_neg hj, State.slot, hslots]
    exact State.setSlot_slot_other _ _ _ _ hj
  · rw [he]; exact hmem

/-- The mask is seen by no address check. -/
theorem badPiece_none {s : State} {a : Access} {ist : Bool} (h : ∀ p ∈ accPieces a, pieceOk s a ist p = true) : badPiece s a ist = none :=
  List.find?_eq_none.2 fun p hp => by simp [h p hp]

theorem remoteAccess_sends {s : State} {a : Access} (hn : accPieces a ≠ []) (hf : s.entryFree s.cur (opVector a.op) = true) (dests : List Nat) :
    remoteAccess s a dests = .next (sendAccess s a dests false 0) := by
  rw [remoteAccess, if_neg (by simpa using hn), if_neg (by simp [hf])]

theorem accessForm_sends {s : State} {a : Access} {al : Nat} {ist : Bool} (hal : a.ea.toNat % al = 0)
    (hok : ∀ p ∈ accPieces { a with lanes := 0xFFFFFFFF }, pieceOk s a ist p = true) (hm : a.mode ≠ 0) (hn : accPieces a ≠ [])
    (hf : s.entryFree s.cur (opVector a.op) = true) (dests : List Nat) :
    accessForm s a al ist dests = .next (sendAccess s a dests false 0) := by
  have hb : badPiece s { a with lanes := 0xFFFFFFFF } ist = none := badPiece_none hok
  rw [accessForm, if_neg (not_not.2 hal), hb]
  exact (if_neg hm).trans (remoteAccess_sends hn hf dests)

theorem laneForms_sends {s : State} {a : Access} (hok : ∀ p ∈ accPieces a, p.ea.toNat % 4 = 0 ∧ pieceOk s a false p = true)
    (hn : accPieces a ≠ []) (hf : s.entryFree s.cur (opVector a.op) = true) (dests : List Nat) :
    laneForms s a dests = .next (sendAccess s a dests false 0) := by
  have hal : (accPieces a).find? (fun p => p.ea.toNat % 4 != 0) = none := List.find?_eq_none.2 fun p hp => by simp [(hok p hp).1]
  rw [laneForms, hal]
  dsimp only
  rw [badPiece_none fun p hp => (hok p hp).2]
  exact remoteAccess_sends hn hf dests

/-! ## The forms -/

/-- A form whose own part is an access in a mode other than .L. -/
theorem AccessesRemote.of_eq {u : Uses} {i : Fld → Instr} {ok : Fld → Prop} {al : Nat} {ist : Fld → Bool} {dests : Fld → List Nat}
    {op : AccOp} {mode : Fld → BitVec 2} {ea : Fld → Vals → W64} {dest opc : Fld → Nat} {data : Vals → Vals}
    (h : ∀ x s, ok x → exec (i x) s = .next (issue u x s fun v s => accessForm s (accessOf op mode ea dest opc data x v s) al (ist x) (dests x)))
    (hm : ∀ x, ok x → mode x ≠ 0) (hq : op ≠ .acq) : AccessesRemote u i ok al ist dests (accessOf op mode ea dest opc data) := by
  intro x s v s' ho hx a hal hok hn hf
  have hp := operands_run ho
  rw [← hp.cur] at hf
  refine ⟨_, (h x s hx).trans (congrArg _ (issue_next ho (accessForm_sends hal hok (hm x hx) hn hf (dests x)))), ?_⟩
  exact sent_sendAccess hp (show (s'.slot s'.cur).pc = _ by rw [hp.cur]) hq _

theorem addrMode_ne_zero (f : Bool) : (if f then 3 else 1 : BitVec 2) ≠ 0 := by cases f <;> decide

theorem remoteScalars : Says.RemoteScalars := by
  have far : ∀ x : Fld, x.mode ≠ 0 → x.mode ≠ 0 := fun _ h => h
  have page3 : ∀ x : Fld, True → (if x.f then 3 else 1 : BitVec 2) ≠ 0 := fun x _ => addrMode_ne_zero x.f
  dsimp only [Says.RemoteScalars]
  refine ⟨?_, ?_, ?_, ?_, ?_, ?_, ?_, ?_, ?_, ?_, ?_, ?_, ?_, ?_, ?_, ?_, ?_, ?_, ?_, ?_, ?_⟩
  iterate 11 exact .of_eq (fun _ _ _ => rfl) far (by decide)
  iterate 10 exact .of_eq (fun _ _ _ => rfl) page3 (by decide)

/-- A gather or scatter whose lane addresses are aligned and good. -/
theorem lanes_sent {u : Uses} {x : Fld} {s s' : State} {v : Vals} {op : AccOp} {ea : W64} {dest opc : Nat} {dests : List Nat} {i : Instr}
    (h : exec i s = .next (issue u x s fun v s => laneForms s (newAccess s x op 3 v.a dest opc v) dests))
    (ho : operands u x s = .run v s') (hv : opVector op = true) (hq : op ≠ .acq) (hea : v.a = ea)
    (hok : ∀ p ∈ accPieces (newAccess s' x op 3 ea dest opc v), p.ea.toNat % 4 = 0 ∧ pieceOk s' (newAccess s' x op 3 ea dest opc v) false p = true)
    (hn : accPieces (newAccess s' x op 3 ea dest opc v) ≠ []) (hf : s'.entryFree s.cur true = true) :
    ∃ (t : State), exec i s = .next t ∧ Sent x (newAccess s' x op 3 ea dest opc v) dests s s' t := by
  subst hea
  have hp := operands_run ho
  rw [← hp.cur] at hf
  replace hf : s'.entryFree s'.cur (opVector op) = true := by rw [hv]; exact hf
  refine ⟨_, h.trans (congrArg _ (issue_next ho (laneForms_sends hok hn hf dests))), ?_⟩
  exact sent_sendAccess hp (show (s'.slot s'.cur).pc = _ by rw [hp.cur]) hq _

theorem remoteVectors : Says.RemoteVectors := by
  refine ⟨.of_eq (fun _ _ _ => rfl) (fun _ h => h) (by decide), .of_eq (fun _ _ _ => rfl) (fun _ h => h) (by decide),
    .of_eq (fun x s hx => ?_) (fun x hx => ?_) (by decide), fun x s v s' ho => ?_, fun x s v s' ho => ?_⟩
  · have h2 : x.mode ≠ 2 := by rcases hx with h | h <;> rw [h] <;> decide
    simp only [exec, execVldf, if_neg h2]
    rfl
  · rcases hx with h | h <;> rw [h] <;> decide
  · exact lanes_sent rfl ho rfl (by decide) rfl
  · exact lanes_sent rfl ho rfl (by decide) rfl

/-- Settles O23. -/
theorem remoteAccesses : Obligations.RemoteAccesses := ⟨remoteScalars, remoteVectors⟩

end Sys2Proof.Machine
end

section
/-! SUPPORT. The answer that the statement of O27 gives wrong: a refusal that decides while a unit is suspended (R185). -/

namespace Sys2Proof.Machine
open Sys2Proof

/-- A unit in slot 0 that waits in an ARCOM with two groups that wait for an answer, the first of which was refused; the second is to write
g5, which is EMPTY. -/
def twoWaitingGroups : State :=
  { ({} : State) with slots := [(0, { ({} : Slot) with
      st := .suspended .arcom, trapvec := 8, fe := [(5, true)],
      outst := [{ tag := 4, pc := 0, access := true, vector := false, dests := [], lines := [], write := true, acc := none,
                  held := false, reply := some (.refused 6 0), len := 1, soft := false },
                { tag := 8, pc := 0, access := false, vector := false, dests := [5], lines := [], write := false, acc := none,
                  held := false, reply := none, len := 1, soft := false }] })] }

/-- Its refusal discards both entries, but leaves g5 EMPTY: withdrawing the suspension drops every entry with a group that waits, and makes
FULL the destinations of the first alone. -/
theorem twoWaitingGroups_g5_empty : ((refusalTrap twoWaitingGroups).slot 0).empty 5 = true := by decide

/-- Refutes O27, at its last clause (a refusal that decides, R185): the state `twoWaitingGroups` meets its hypotheses, and after REFUSAL_TRAP
g5, the destination of the second entry, is EMPTY. -/
theorem not_answersArrive : ¬ Obligations.AnswersArrive := by
  rintro ⟨-, h⟩
  obtain ⟨-, -, -, -, hrefusal⟩ := h twoWaitingGroups 0 0 0
    { tag := 4, pc := 0, access := true, vector := false, dests := [], lines := [], write := true, acc := none,
      held := false, reply := some (.refused 6 0), len := 1, soft := false }
  obtain ⟨u, hu, -, -, -, -, -, -, -, hfull, -⟩ := hrefusal rfl (by decide) 6 0 rfl (by decide) (by decide)
  have hrun : refusalTrap twoWaitingGroups = u := Host.Outcome.next.inj hu
  have hg5 : (u.slot 0).empty 5 = false := hfull _ (List.mem_cons_of_mem _ List.mem_cons_self) 5 (by decide)
  rw [← hrun, twoWaitingGroups_g5_empty] at hg5
  exact Bool.noConfusion hg5

end Sys2Proof.Machine
end

section
/-! SUPPORT. Boot and what the firmware column answers (R30, R433 to R441). -/

namespace Sys2Proof.Machine
open Sys2Proof

/-! ## The flash and its bytes -/

theorem leBytes_length (v n : Nat) : (leBytes v n).length = n := by simp [leBytes]

theorem words_length (l : List W64) : (l.flatMap fun w => leBytes w.toNat 8).length = 8 * l.length := by
  simp [leBytes_length, Nat.mul_comm]

/-- Bytes written in a row: what a key reads then. -/
theorem foldl_set_get (off k : Nat) (l : List Byte) (j : Nat) (m : Sp Byte) :
    Sp.get 0 ((l.zipIdx j).foldl (fun m b => Sp.set 0 m (off + b.2) b.1) m) k =
      if off + j ≤ k ∧ k < off + j + l.length then l.getD (k - (off + j)) 0 else Sp.get 0 m k := by
  induction l generalizing j m with
  | nil => exact (if_neg (by rw [List.length_nil]; omega)).symm
  | cons b l ih =>
    rw [List.zipIdx_cons, List.foldl_cons, ih, Sp.get_set, List.length_cons]
    by_cases hk : k = off + j
    · subst hk
      simp
    · by_cases hlt : k < off + j
      · rw [if_neg (by omega), if_neg hk, if_neg (by omega)]
      · obtain ⟨i, rfl⟩ : ∃ i, k = off + j + (i + 1) := ⟨k - (off + j) - 1, by omega⟩
        simp only [Nat.add_sub_cancel_left, List.getD_cons_succ, if_neg hk]
        refine if_congr (by omega) ?_ rfl
        rw [show off + j + (i + 1) - (off + (j + 1)) = i by omega]

/-- What a byte of the flash is after a write (R433). -/
theorem writeFlash_get (v : Device) (off : Nat) (l : List Byte) (k : Nat) : Sp.get 0 (writeFlash v off l).flash k =
    if off ≤ k ∧ k < off + l.length then l.getD (k - off) 0 else Sp.get 0 v.flash k := foldl_set_get off k l 0 v.flash

/-! ## Device reset -/

theorem Sp.get_filter_key {α : Type} (d : α) (m : Sp α) (f : Nat → Bool) (k : Nat) :
    Sp.get d (m.filter fun p => f p.1) k = if f k then Sp.get d m k else d := by
  unfold Sp.get
  split
  · next hf =>
    cases hm : Sp.find m k with
    | none => rw [Sp.find_filter_none _ hm]
    | some v => rw [Sp.find_filter_some hm hf]
  · next hf =>
    cases hm : Sp.find (m.filter fun p => f p.1) k with
    | none => rfl
    | some v => exact absurd (List.mem_filter.1 (Sp.mem_of_find hm)).2 hf

/-- Nothing but the tables of routers has been written. -/
def TablesOnly (s t : State) : Prop := t = { s with routers := t.routers, ticket := t.ticket }

theorem TablesOnly.refl (s : State) : TablesOnly s s := rfl
theorem TablesOnly.trans {s t u : State} (a : TablesOnly s t) (b : TablesOnly t u) : TablesOnly s u := by
  rw [TablesOnly, b, a]

theorem TablesOnly.foldl {α : Type} {f : State → α → State} (h : ∀ s a, TablesOnly s (f s a)) (l : List α) (s : State) :
    TablesOnly s (l.foldl f s) := by
  induction l generalizing s with
  | nil => exact .refl s
  | cons a l ih => exact (h s a).trans (ih _)

theorem tablesOnly_setRouter (s : State) (r : Nat) (x : Router) : TablesOnly s (s.setRouter r x) := rfl

theorem tablesOnly_writeClusterTables (s : State) (d : Nat) : TablesOnly s (writeClusterTables s d) := by
  dsimp only [writeClusterTables]
  split
  · rfl
  · exact .foldl (fun s _ => .foldl (fun _ _ => tablesOnly_setRouter _ _ _) _ s) _ s

theorem tablesOnly_writeTables (s : State) (d : Nat) : TablesOnly s (writeTables s d) :=
  (tablesOnly_writeClusterTables s d).trans
    (.trans (t := State.tick _) rfl (.foldl (fun _ _ => tablesOnly_setRouter _ _ _) _ _))

/-- What a device keeps over its reset. -/
structure DeviceCleared (s : State) (d : Nat) (t : State) : Prop where
  flash : (t.dev d).flash = (s.dev d).flash
  keyHash : (t.dev d).keyHash = (s.dev d).keyHash
  floor : (t.dev d).floor = (s.dev d).floor
  slot : ∀ i, t.slot i = if slotDev i = d then {} else s.slot i
  core : ∀ k, t.core k = if k / 16384 = d then {} else s.core k
  part : ∀ p, t.part p = if p / 32 = d then {} else s.part p
  byte : ∀ a, t.byte a = if locDev a = d then 0 else s.byte a
  others : ∀ e, e ≠ d → t.dev e = s.dev e

theorem deviceCleared_clearDevice (s : State) (d : Nat) : DeviceCleared s d (clearDevice s d).tick := by
  have hdev : ((clearDevice s d).tick.dev d) =
      { flash := (s.dev d).flash, keyHash := (s.dev d).keyHash, floor := (s.dev d).floor, since := s.now, ptpAt := s.now } :=
    Sp.get_put_self _ _ _ _
  have keep {α : Type} (x y : α) (k : Nat) : (if (k != d) = true then x else y) = if k = d then y else x := by
    by_cases h : k = d <;> simp [h]
  refine ⟨by rw [hdev], by rw [hdev], by rw [hdev], fun i => ?_, fun k => ?_, fun p => ?_, fun a => ?_, fun e he => ?_⟩
  · exact (Sp.get_filter_key _ s.slots (fun i => i / 131072 != d) i).trans (keep _ _ _)
  · exact (Sp.get_filter_key _ s.cores (fun k => k / 16384 != d) k).trans (keep _ _ _)
  · exact (Sp.get_filter_key _ s.parts (fun p => p / 32 != d) p).trans (keep _ _ _)
  · exact (Sp.get_filter_key _ s.mem (fun a => locDev a != d) a).trans (keep _ _ _)
  · exact Sp.get_put_other _ _ _ _ _ he

/-- A boot that programs what a device keeps no part of. -/
theorem DeviceCleared.setDev {s t : State} {d : Nat} (h : DeviceCleared s d t) {v : Device} (hf : v.flash = (t.dev d).flash)
    (hk : v.keyHash = (t.dev d).keyHash) (hl : v.floor = (t.dev d).floor) : DeviceCleared s d (t.setDev d v) := by
  refine ⟨?_, ?_, ?_, h.slot, h.core, h.part, h.byte, fun e he => ?_⟩
  · rw [State.setDev_dev_self, hf, h.flash]
  · rw [State.setDev_dev_self, hk, h.keyHash]
  · rw [State.setDev_dev_self, hl, h.floor]
  · rw [State.setDev_dev_other _ _ _ _ he, h.others e he]

theorem DeviceCleared.tables {s t u : State} {d : Nat} (h : DeviceCleared s d t) (ht : TablesOnly t u) : DeviceCleared s d u := by
  rw [ht]
  exact ⟨h.flash, h.keyHash, h.floor, h.slot, h.core, h.part, h.byte, h.others⟩

theorem DeviceCleared.configured {s t : State} {d : Nat} (h : DeviceCleared s d t) (slot : Nat) (m : Option Marker) (o : Nat) :
    DeviceCleared s d (bootConfigured t d slot m o) := by
  refine DeviceCleared.tables ?_ (tablesOnly_writeTables _ d)
  exact h.setDev rfl rfl rfl

/-- Where a device boots from is a matter of its flash and its fuses. -/
theorem chooseSlot_congr {v w : Device} (hf : v.flash = w.flash) (hk : v.keyHash = w.keyHash) (hl : v.floor = w.floor) :
    chooseSlot v = chooseSlot w ∧ configSector v = configSector w := by
  cases v
  cases w
  cases hf
  cases hk
  cases hl
  exact ⟨rfl, rfl⟩

theorem deviceReset_clears (s : State) : DeviceCleared s s.cur (deviceReset s) ∧
    (chooseSlot (s.dev s.cur) = none ∨ configSector (s.dev s.cur) = none → ((deviceReset s).dev s.cur).boot.recovery = true) := by
  have hc := deviceCleared_clearDevice s s.cur
  obtain ⟨hslot, hsector⟩ := chooseSlot_congr hc.flash hc.keyHash hc.floor
  have hrec : DeviceCleared s s.cur (recover (clearDevice s s.cur).tick s.cur) ∧ (chooseSlot (s.dev s.cur) = none ∨
      configSector (s.dev s.cur) = none → ((recover (clearDevice s s.cur).tick s.cur).dev s.cur).boot.recovery = true) :=
    ⟨hc.setDev rfl rfl rfl, fun _ => by rw [recover, State.updDev_dev_self]⟩
  generalize hr : deviceReset s = r
  dsimp only [deviceReset] at hr
  rw [hslot, hsector] at hr
  split at hr
  · exact hr ▸ hrec
  · split at hr
    · exact hr ▸ hrec
    · next hs =>
      split at hr
      · exact hr ▸ hrec
      · next ht =>
        split at hr
        · exact hr ▸ hrec
        · rw [hs, ht, ← hr]
          exact ⟨hc.configured _ _ _, fun h => by simp at h⟩

/-! ## Answers of the firmware column -/

/-- A device that has changed beside everything else, and an answer. -/
theorem answered_setDev (s : State) (v : Device) (status : Nat) (data : List W64) : Answered ((s.setDev s.cur v).answer status data) s.cur status data ∧
    Aside s ((s.setDev s.cur v).answer status data) ∧ ((s.setDev s.cur v).answer status data).dev s.cur = v :=
  ⟨by simp [Answered, State.answer], ⟨rfl, rfl, rfl, rfl, rfl, rfl⟩, State.setDev_dev_self s s.cur v⟩

/-- The marker that a flip writes for a slot (R434). -/
def markerBytes (v : Device) (slot seq : Nat) : List Byte :=
  let b := leBytes 0x4B4D4642 4 ++ leBytes slot 4 ++ leBytes seq 8 ++ imageDigest v (slotOffset slot)
  b ++ Config.shake256 b 64

theorem markerFlip_refused {s : State} {slot : W64} (hd : s.data = [slot]) (h : 1 < slot.toNat) : markerFlip s = s.answer 1 := by
  simp [markerFlip, hd, h]

/-- A flip writes the sector that does not hold the marker in use, with the next SEQ. -/
theorem markerFlip_writes {s : State} {slot : W64} {sector seq : Nat} (hd : s.data = [slot]) (h : slot.toNat ≤ 1)
    (hsector : ((markerInUse (s.dev s.cur)).map fun u => 1 - u.1).getD 0 = sector)
    (hseq : ((markerInUse (s.dev s.cur)).map fun u => u.2.seq).getD 0 + 1 = seq) (hlt : seq < 2 ^ 64) : markerFlip s =
    (s.setDev s.cur (writeFlash (s.dev s.cur) (sector * 0x10000) (markerBytes (s.dev s.cur) slot.toNat seq))).answer 0 := by
  subst hsector hseq
  dsimp only [markerFlip]
  rw [hd, if_neg (by simp only [List.headD_cons]; omega)]
  rfl

theorem slotOffset_of_word (slot : W64) : slotOffset slot.toNat = if slot = 0 then 0x100000 else 0x2100000 := by
  rw [slotOffset]
  exact if_congr (by simp [← BitVec.toNat_inj]) rfl rfl

/-- An image write whose words fit: what the device takes, or refuses in recovery (R436). -/
theorem imageWrite_eq {s : State} {slot off n : W64} {l : List W64} (hd : s.data = slot :: off :: n :: l) (h1 : slot.toNat ≤ 1)
    (h2 : off.toNat + n.toNat ≤ 2 ^ 25) (h3 : n.toNat ≤ 8 * l.length) :
    let o := slotOffset slot.toNat
    let v := writeFlash (s.dev s.cur) (o + off.toNat) ((l.flatMap fun w => leBytes w.toNat 8).take n.toNat)
    imageWrite s = if (s.dev s.cur).boot.recovery = true ∧ ¬(off = 0 ∧ n.toNat = headerLen + imageLength v o ∧ imageSigned v o = true) then s.answer 1
      else (s.setDev s.cur v).answer 0 := by
  intro o v
  rw [imageWrite, hd]
  dsimp only
  rw [if_neg (by omega)]
  refine if_congr (and_congr Iff.rfl ?_) rfl rfl
  simp only [Bool.not_eq_true', ← Bool.not_eq_true, Bool.and_eq_true, beq_iff_eq, and_assoc, o, v]

/-- The status and the words that answer an attestation request for a nonce (R441). -/
def attestAnswer (s : State) (nonce : List Byte) : Nat × List W64 :=
  if (s.dev s.cur).debugWrote then (3, [])
  else if anyHalted s s.cur ∨ (s.dev s.cur).nonces.contains nonce then (1, [])
  else
    let r := attestReport s s.cur nonce
    (0, (r ++ Config.sign (s.identity s.cur) (Config.shake256 r 64)).map fun b => b.setWidth 64)

/-- An attestation request whose nonce is four words, outside recovery: the nonce is noted, and answered. -/
theorem attestationRequest_eq {s : State} {a b c e : W64} (hd : s.data = [a, b, c, e]) (hr : (s.dev s.cur).boot.recovery = false) :
    let nonce := [a, b, c, e].flatMap fun w => leBytes w.toNat 8
    attestationRequest s = (s.setDev s.cur { s.dev s.cur with nonces := nonce :: (s.dev s.cur).nonces }).answer
      (attestAnswer s nonce).1 (attestAnswer s nonce).2 := by
  intro nonce
  have hn : ((s.data.take 4).flatMap fun w => leBytes w.toNat 8) = nonce := by rw [hd]; rfl
  have hlen : nonce.length = 32 := words_length _
  dsimp only [attestationRequest, attestAnswer]
  rw [hn, if_neg (by simp [hlen, hr])]
  split
  · rfl
  · split <;> rfl

theorem attestAnswer_debug {s : State} (h : (s.dev s.cur).debugWrote = true) (nonce : List Byte) : attestAnswer s nonce = (3, []) := if_pos h

theorem attestAnswer_refused {s : State} {nonce : List Byte} (hw : (s.dev s.cur).debugWrote = false)
    (h : anyHalted s s.cur = true ∨ nonce ∈ (s.dev s.cur).nonces) : attestAnswer s nonce = (1, []) := by
  rw [attestAnswer, hw, if_neg Bool.false_ne_true, if_pos (h.imp_right List.contains_iff_mem.2)]

theorem attestAnswer_signed {s : State} {nonce : List Byte} (hw : (s.dev s.cur).debugWrote = false) (hh : anyHalted s s.cur = false)
    (hn : nonce ∉ (s.dev s.cur).nonces) : attestAnswer s nonce = (0, (attestReport s s.cur nonce ++
      Config.sign (s.identity s.cur) (Config.shake256 (attestReport s s.cur nonce) 64)).map fun b => b.setWidth 64) := by
  rw [attestAnswer, hw, if_neg Bool.false_ne_true, if_neg (not_or.2 ⟨by simp [hh], fun h => hn (List.contains_iff_mem.1 h)⟩)]

theorem attestationRequest_recovery {s : State} (hr : (s.dev s.cur).boot.recovery = true) : attestationRequest s = s.answer 1 := by
  simp [attestationRequest, hr]

/-- The engine signs for a core of the role attestation alone (R440). -/
theorem signingRequest_eq {s : State} (hd : s.data.length = 8) : signingRequest s =
    if (s.dev (s.cur / 16384)).boot.recovery = true ∨ Sp.get 0 (s.dev (s.cur / 16384)).boot.roles (s.cur % 16384) ≠ 4 then s.answer 1
    else s.answer 0 ((Config.sign (s.identity (s.cur / 16384)) (s.data.flatMap fun w => leBytes w.toNat 8)).map fun b => b.setWidth 64) := by
  have ht : s.data.take 8 = s.data := List.take_of_length_le (by omega)
  have hlen : (s.data.flatMap fun w => leBytes w.toNat 8).length = 64 := by rw [words_length, hd]
  dsimp only [signingRequest]
  rw [ht]
  refine if_congr ?_ rfl rfl
  simp [hlen, State.role]

/-- Settles O49. -/
theorem bootEvents : Obligations.BootEvents := by
  refine ⟨fun s => ?_, fun s slot hd => ⟨fun h => ?_, fun h => ⟨fun i m hu hseq => ?_, fun hu => ?_⟩⟩, fun v off l => ⟨fun i hi => ?_, fun k hk => ?_⟩,
    fun s slot off n l hd h1 h2 h3 => ?_, fun s f hd => ⟨fun hr hf => ?_, fun h => ?_⟩, fun s a b c e hd => ⟨fun hr => ?_, fun hr => ?_⟩,
    fun s hd => ⟨fun h => ?_, fun hr h => ?_⟩⟩
  · obtain ⟨h, hrec⟩ := deviceReset_clears s
    exact ⟨_, rfl, h.flash, h.keyHash, h.floor, h.slot, h.core, h.part, h.byte, h.others, hrec⟩
  · exact congrArg Host.Outcome.next (markerFlip_refused hd h)
  · obtain ⟨hans, haside, hdev⟩ := answered_setDev s (writeFlash (s.dev s.cur) ((1 - i) * 0x10000) (markerBytes (s.dev s.cur) slot.toNat (m.seq + 1))) 0 []
    exact ⟨_, rfl, _, congrArg Host.Outcome.next (markerFlip_writes hd h (by rw [hu]; rfl) (by rw [hu]; rfl) hseq), hans, haside, hdev⟩
  · obtain ⟨hans, haside, hdev⟩ := answered_setDev s (writeFlash (s.dev s.cur) (0 * 0x10000) (markerBytes (s.dev s.cur) slot.toNat 1)) 0 []
    exact ⟨_, rfl, _, congrArg Host.Outcome.next (markerFlip_writes hd h (by rw [hu]; rfl) (by rw [hu]; rfl) (by decide)), hans, haside, hdev⟩
  · rw [writeFlash_get, if_pos (by omega), Nat.add_sub_cancel_left]
  · rw [writeFlash_get, if_neg (by omega)]
  · have he := imageWrite_eq hd h1 h2 h3
    dsimp only at he
    rw [slotOffset_of_word] at he
    refine ⟨fun h => ?_, fun hr hw => ?_⟩
    · rw [if_neg (by rintro ⟨hr, hw⟩; exact h.elim (by simp [hr]) hw)] at he
      obtain ⟨hans, haside, hdev⟩ := answered_setDev s _ 0 []
      exact ⟨_, congrArg Host.Outcome.next he, hans, haside, hdev⟩
    · rw [if_pos ⟨hr, hw⟩] at he
      exact congrArg Host.Outcome.next he
  · obtain ⟨hans, haside, hdev⟩ := answered_setDev s { s.dev s.cur with floor := f.setWidth 32 } 0 []
    refine ⟨_, congrArg Host.Outcome.next ?_, hdev, hans, haside⟩
    dsimp only [svnFloorRaise]
    rw [hd]
    exact if_neg (by simpa [hr] using hf)
  · refine congrArg Host.Outcome.next ?_
    dsimp only [svnFloorRaise]
    rw [hd]
    exact if_pos h
  · exact congrArg Host.Outcome.next (attestationRequest_recovery hr)
  · have he := attestationRequest_eq hd hr
    dsimp only at he
    obtain ⟨hans, haside, hdev⟩ := answered_setDev s { s.dev s.cur with
      nonces := ([a, b, c, e].flatMap fun w => leBytes w.toNat 8) :: (s.dev s.cur).nonces } _ _
    refine ⟨_, congrArg Host.Outcome.next he, haside, hdev, fun hw => ?_, fun hw hh => ?_, fun hw hh hn => ⟨_, _, rfl, rfl, ?_⟩⟩
    · rw [attestAnswer_debug hw] at hans ⊢
      exact hans
    · rw [attestAnswer_refused hw hh] at hans ⊢
      exact hans
    · rw [attestAnswer_signed hw hh hn] at hans ⊢
      exact hans
  · exact congrArg Host.Outcome.next ((signingRequest_eq hd).trans (if_pos h))
  · exact congrArg Host.Outcome.next ((signingRequest_eq hd).trans (if_neg (by simp [hr, h])))

end Sys2Proof.Machine
end

section
/-! SUPPORT. What an address names is a matter of the machine's parts and tables alone (R53 to R55, R409, R410). -/

namespace Sys2Proof.Machine
open Sys2Proof

/-- Two states with the same parts and tables: what an address names and who may reach it is the same in both. -/
structure SameMap (s t : State) : Prop where
  cores : t.cores = s.cores
  clusters : t.clusters = s.clusters
  slices : t.slices = s.slices
  routers : t.routers = s.routers
  parts : t.parts = s.parts
  devs : t.devs = s.devs
  partners : t.partners = s.partners

section
variable {s t : State} (h : SameMap s t)
include h

theorem SameMap.core : t.core = s.core := by funext i; rw [State.core, h.cores]; rfl
theorem SameMap.cluster : t.cluster = s.cluster := by funext i; rw [State.cluster, h.clusters]; rfl
theorem SameMap.slice : t.slice = s.slice := by funext i; rw [State.slice, h.slices]; rfl
theorem SameMap.router : t.router = s.router := by funext i; rw [State.router, h.routers]; rfl
theorem SameMap.part : t.part = s.part := by funext i; rw [State.part, h.parts]; rfl
theorem SameMap.dev : t.dev = s.dev := by funext i; rw [State.dev, h.devs]; rfl
theorem SameMap.partOf : t.partOf = s.partOf := by funext c; rw [State.partOf, h.cluster]; rfl
theorem SameMap.coreVisible : t.coreVisible = s.coreVisible := by funext c k; rw [State.coreVisible, h.dev]; rfl
theorem SameMap.physCluster : t.physCluster = s.physCluster := by funext p r; rw [State.physCluster, h.part]; rfl
theorem SameMap.partner : t.partner = s.partner := by funext d p; rw [State.partner, h.partners]; rfl
theorem SameMap.linkFrom : t.linkFrom = s.linkFrom := by
  have hl : t.deviceLinks = s.deviceLinks := by
    funext r d
    unfold State.deviceLinks State.linkChoice State.routerOut
    rw [h.router, h.dev]
  funext r d
  unfold State.linkFrom State.deviceExit State.portUp
  rw [hl, h.dev]
theorem SameMap.partAt : t.partAt = s.partAt := by
  funext p d
  unfold State.partAt State.mapPart State.linkUp
  rw [h.partner, h.part, h.linkFrom]
theorem SameMap.globalTarget : t.globalTarget = s.globalTarget := by
  funext p a
  unfold State.globalTarget
  rw [h.partAt, h.physCluster, h.coreVisible, h.slice]
theorem SameMap.globalFrom : t.globalFrom = s.globalFrom := by
  funext r p a
  unfold State.globalFrom
  rw [h.globalTarget, h.linkFrom]
theorem SameMap.placeOf : t.placeOf = s.placeOf := by
  funext p a
  unfold State.placeOf
  rw [h.physCluster, h.partAt, h.coreVisible]
theorem SameMap.globalOf : t.globalOf = s.globalOf := by
  funext c o
  unfold State.globalOf State.relCluster
  rw [h.cluster]
theorem SameMap.guarded : t.guarded = s.guarded := by
  funext c o
  unfold State.guarded
  rw [h.core]
end

theorem Looked.sameMap {path : Nat} {s t : State} (h : Looked path s t) : SameMap s t := by
  rw [h.1]
  exact ⟨rfl, rfl, rfl, rfl, rfl, rfl, rfl⟩

theorem sameMap_tick (s : State) : SameMap s s.tick := ⟨rfl, rfl, rfl, rfl, rfl, rfl, rfl⟩

end Sys2Proof.Machine
end

section
/-! SUPPORT. The copy forms (R292 to R294): the descriptor they read, and the copy they start. -/

namespace Sys2Proof.Machine
open Sys2Proof

/-! ## The descriptor -/

/-- What a unit's own accesses to its scratchpad may read, the forms that read it there may. -/
theorem protAllows_unit {s : State} {off len : Nat} {wr : Bool} (h : s.protAllows (slotCore s.cur) off len (localAccessor s) wr = true) :
    s.protAllows (slotCore s.cur) off len (s.unitAccessor s.cur (slotCore s.cur)) wr = true := by
  have hc : coreCluster (slotCore s.cur) = slotCluster s.cur := by simp only [coreCluster, slotCore, slotCluster]; omega
  dsimp only [State.protAllows] at h ⊢
  cases hm : matchRegion (s.core (slotCore s.cur)) (off / 64) ((off + len - 1) / 64) with
  | none => simp [State.unitAccessor]
  | some n =>
    rw [hm] at h
    simp only [localAccessor, State.unitAccessor, hc, beq_self_eq_true, Bool.true_and, Bool.or_eq_true, Bool.and_eq_true] at h ⊢
    exact h.imp_right fun hp => hp.2

/-- A descriptor that nothing is in the way of is read at once, as path C shows it. -/
theorem copyDescriptor_reads {s : State} {a : W64} (hal : a.toNat % 32 = 0) (h : LocalOk s a 32 true false) (f : State → (Nat → W64) → Eff) :
    copyDescriptor s a f = f (s.tick.look 0 s.tick.viewer (scratchLoc (slotCore s.cur) a.toNat) 32).1
      (imageWord (s.tick.look 0 s.tick.viewer (scratchLoc (slotCore s.cur) a.toNat) 32).2) := by
  have hloc : localOffset a 32 = none := by
    rw [localOffset, if_neg (by omega), if_neg (by have := h.inside; omega)]
  have hwait : lineWait s a.toNat = false := by
    rw [lineWait, show (Target.scratch (slotCore s.cur) a.toNat).line = scratchLoc (slotCore s.cur) a.toNat / 64 from rfl, h.line_free]
    rfl
  have hread : localRead s a.toNat 32 = .ok ((s.tick.look 0 s.tick.viewer (scratchLoc (slotCore s.cur) a.toNat) 32).1,
      imageWord (s.tick.look 0 s.tick.viewer (scratchLoc (slotCore s.cur) a.toNat) 32).2) := by
    have hcheck : localCheck s a.toNat 32 = .ok (s, true) := by
      dsimp only [localCheck]
      rw [protAllows_unit (h.mayRead rfl), h.unguarded]
      rfl
    rw [localRead, hcheck]
  dsimp only [copyDescriptor]
  rw [hloc]
  dsimp only
  rw [hwait, hread]
  rfl

/-! ## A copy that starts -/

/-- A copy as it starts, with all its bytes still to be accepted (R293, R296). -/
def newCopy (s : State) (src dst : W64) (sstride dstride rows len : Nat) (target : BitVec 32) (place : Nat) (multi : Bool) : CopyJob :=
  let t := s.slot s.cur
  { slot := s.cur, gen := t.gen, pc := t.pc, part := s.partOf (slotCluster s.cur), level := t.level, phase := t.phase, src := src, dst := dst,
    sstride := sstride, dstride := dstride, rows := rows, len := len, target := target, place := place, multi := multi,
    todo := if rows * len = 0 then [] else [(0, rows * len)], accepted := [], flying := [], held := [], left := 0, heard := s.heardBy s.cur }

/-- The slot's entry for a copy. -/
def copyEntry (s : State) : Outst :=
  let t := s.slot s.cur
  { tag := s.netTag t.phase, pc := t.pc, access := true, vector := false, dests := [], lines := [], write := false, acc := none,
    held := false, reply := none, len := 0, soft := false }

/-- The state in which a copy has started. -/
def copyStarted (s : State) (j : CopyJob) : State :=
  let t := s.slot s.cur
  ({ s.tick.setSlot s.cur { t with outst := t.outst ++ [copyEntry s] } with copies := Sp.put s.copies (s.netTag t.phase) j }).post
    (if j.rows * j.len = 0 then .copyCompletion else .copyAccept) (s.netTag t.phase)

theorem startCopy_eq {s : State} {src dst : W64} {target : BitVec 32} (h : CopyOk s src dst target) (sstride dstride rows len place : Nat)
    (multi : Bool) : startCopy s src dst sstride dstride rows len target place multi =
      .next (copyStarted s (newCopy s src dst sstride dstride rows len target place multi)) := by
  have hsrc : (s.globalFrom (slotCluster s.cur) (s.partOf (slotCluster s.cur)) src).isNone = false := by
    rw [← Option.not_isSome, h.src]; rfl
  have hdst : (s.globalTarget (s.partOf (slotCluster s.cur)) dst).isNone = false := by rw [← Option.not_isSome, h.dst]; rfl
  dsimp only [startCopy]
  rw [hsrc, hdst, h.entry]
  by_cases ht : rows * len = 0
  · simp only [Bool.false_eq_true, if_false, Bool.not_true, copyStarted, newCopy, ht, if_true]
    rfl
  · simp only [Bool.false_eq_true, if_false, Bool.not_true, copyStarted, newCopy, ht]
    rfl

/-- Both ends of a copy are good in a state that differs in what a path has seen alone. -/
theorem CopyOk.looked {s t : State} (hl : Looked 0 s t) {src dst : W64} {target : BitVec 32} (h : CopyOk s src dst target) :
    CopyOk t src dst target := by
  have hm := hl.sameMap
  refine ⟨?_, ?_, ?_, ?_⟩
  · have ht := h.target
    unfold targetOk at ht ⊢
    rwa [hm.physCluster, hm.partOf, hl.cur]
  · rw [hm.globalFrom, hm.partOf, hl.cur]; exact h.src
  · rw [hm.globalTarget, hm.partOf, hl.cur]; exact h.dst
  · have he := h.entry
    unfold State.entryFree State.coreEntries at he ⊢
    rwa [show t.slot = s.slot from funext hl.slot, hl.cur]

theorem Looked.syncCore {s t : State} (hl : Looked 0 s t) (dst : W64) : syncCore t dst = syncCore s dst := by
  have hm := hl.sameMap
  unfold Machine.syncCore
  rw [hm.globalTarget, hm.partOf, hl.cur]

/-- A copy that has started, and whose group has retired. -/
theorem copying_copyStarted {x : Fld} {s s1 : State} (hcur : s1.cur = s.cur) (hslots : s1.slots = s.slots) (hmem : s1.mem = s.mem)
    (src dst : W64) (sstride dstride rows len : Nat) (target : BitVec 32) (place : Nat) (multi : Bool) :
    Copying x s s1 (retired x s (copyStarted s1 (newCopy s1 src dst sstride dstride rows len target place multi)))
      src dst sstride dstride rows len target place multi := by
  have hs (j : Nat) : s1.slot j = s.slot j := by unfold State.slot; rw [hslots]
  have hcr : s1.slot s1.cur = s.slot s.cur := by rw [hcur, hs]
  generalize hj : newCopy s1 src dst sstride dstride rows len target place multi = j
  have hc : (copyStarted s1 j).cur = s.cur := hcur
  have hst : (copyStarted s1 j).slot s.cur = { s.slot s.cur with outst := (s.slot s.cur).outst ++ [copyEntry s1] } := by
    rw [← hcr, ← hcur]
    exact State.setSlot_slot_self _ _ _
  have hslot : (retired x s (copyStarted s1 j)).slot s.cur =
      { s.slot s.cur with outst := (s.slot s.cur).outst ++ [copyEntry s1] }.retire (nextPc x (s.slot s.cur)) := by
    rw [retired, retireTo, hc, State.updSlot_slot_self, hst]
  have htag : s1.netTag (s1.slot s1.cur).phase = s1.netTag (s.slot s.cur).phase := by rw [hcr]
  refine ⟨⟨j, ?_, ?_⟩, ⟨copyEntry s1, ?_, htag, rfl, rfl⟩, ?_, ?_, ?_, fun i hi => ?_, hmem⟩
  · rw [← htag]
    exact Sp.find_put_self s1.copies _ j
  · rw [← hj, newCopy, hcr, hcur]
    exact ⟨rfl, rfl, rfl, rfl, rfl, rfl, rfl, rfl, rfl, rfl, rfl, rfl, rfl, rfl, rfl, rfl, rfl, rfl, rfl, rfl, rfl⟩
  · rw [hslot]; rfl
  · rw [← htag, ← hj]
    exact List.getLast?_concat
  · rw [hslot]; rfl
  · rw [hslot]; rfl
  · rw [retired, retireTo, hc, State.updSlot_slot, if_neg hi, ← hs i]
    exact State.setSlot_slot_other _ _ _ _ (by rw [hcur]; exact hi)

/-! ## The forms -/

/-- A form whose own part starts a copy. -/
theorem copy_begins {u : Uses} {x : Fld} {s s' s1 : State} {v : Vals} {i : Instr} {b : Vals → State → Eff} (ho : operands u x s = .run v s')
    (he : exec i s = .next (issue u x s b)) (hl : Looked 0 s' s1) {src dst : W64} {target : BitVec 32} (hok : CopyOk s1 src dst target)
    {sstride dstride rows len place : Nat} {multi : Bool} (hb : b v s' = startCopy s1 src dst sstride dstride rows len target place multi) :
    ∃ t, exec i s = .next t ∧ Copying x s s1 t src dst sstride dstride rows len target place multi := by
  have hp := operands_run ho
  rw [startCopy_eq hok] at hb
  refine ⟨_, he.trans (congrArg _ (issue_next ho hb)), copying_copyStarted (hl.cur.trans hp.cur) (hl.slots.trans hp.slots) ?_ _ _ _ _ _ _ _ _ _⟩
  rw [hl.1]
  exact hp.mem

theorem wordsAt_getD (s : State) (off : Nat) {i n : Nat} (h : i < n) : (wordsAt s off n).getD i 0 =
    imageWord (s.tick.look 0 s.tick.viewer (scratchLoc (slotCore s.cur) off) (8 * n)).2 i := by
  simp [wordsAt, h]

/-- What a form that reads a descriptor sees, and the state in which it has read it. -/
theorem looked_descriptor (s : State) (a : W64) :
    Looked 0 s (s.tick.look 0 s.tick.viewer (scratchLoc (slotCore s.cur) a.toNat) 32).1 := (looked_look _ _ _ _ _).1.of_tick

theorem copyForms : Says.CopyForms := by
  refine ⟨fun x s v s' ho hok => ?_, fun x s v s' ho hr => ?_, fun x s v s' ho hbad => ?_⟩
  · refine copy_begins ho rfl (Looked.refl 0 s') hok ?_
    exact if_neg (by rw [hok.target]; exact Bool.false_ne_true)
  · obtain ⟨hal, hok⟩ := hr
    have hp := operands_run ho
    have hl := looked_descriptor s' v.a
    have hd := copyDescriptor_reads hal hok
    have hw {i : Nat} (hi : i < 4) := wordsAt_getD s' v.a.toNat hi
    rw [show 8 * 4 = 32 from rfl] at hw
    dsimp only
    rw [← hp.cur]
    generalize s'.tick.look 0 s'.tick.viewer (scratchLoc (slotCore s'.cur) v.a.toNat) 32 = r at hl hd hw
    rw [hw (i := 0) (by decide), hw (i := 1) (by decide), hw (i := 2) (by decide), hw (i := 3) (by decide)]
    have ht {src dst : W64} {target : BitVec 32} (h : CopyOk s' src dst target) : ¬(!targetOk r.1 target) = true := by
      rw [(h.looked hl).target]; exact Bool.false_ne_true
    refine ⟨fun h => ?_, fun h hkind h3 => ?_, fun core cls h h30 h31 h3 hplace => ?_, fun h h3 h56 hvis => ?_⟩
    · refine copy_begins ho rfl hl (h.looked hl) ((hd _).trans ?_)
      dsimp only
      rw [if_neg (ht h), hl.syncCore]
    · refine copy_begins ho rfl hl (h.looked hl) ((hd _).trans ?_)
      dsimp only
      rw [if_neg (ht h), if_pos hkind, if_neg (not_not.2 h3)]
    · refine copy_begins ho rfl hl (h.looked hl) ((hd _).trans ?_)
      dsimp only
      rw [if_neg (ht h), if_neg (by rw [h30, h31]; decide), if_pos h3, hl.sameMap.placeOf, hl.sameMap.partOf, hl.cur, hplace]
    · refine copy_begins ho rfl hl (h.looked hl) ((hd _).trans ?_)
      dsimp only
      have hall : ((List.range (bits (imageWord r.2 3) 6 0 + 1)).all fun i =>
          r.1.coreVisible (coreCluster (syncCore r.1 (imageWord r.2 1))) (bits (imageWord r.2 1) 25 19 + i)) = true := by
        rw [hl.sameMap.coreVisible, hl.syncCore, List.all_eq_true]
        exact fun i hi => hvis i (List.mem_range.1 hi)
      rw [if_neg (by rw [(h.looked hl).target, h56]; simp [h3]), if_neg (by simp [hall]), hl.syncCore]
  · refine congrArg Host.Outcome.next (issue_trap ho ?_)
    exact if_pos (by rw [hbad]; rfl)

end Sys2Proof.Machine
end

section
/-! SUPPORT. A copy at work (R292, R295 to R297): what it accepts, what it reads and writes, and its completion. -/

namespace Sys2Proof.Machine
open Sys2Proof

/-! ## Answers under a tag -/

theorem sendTag_eq (s : State) (ni part tag : Nat) (o : Op) : s.sendTag ni part tag o =
    { s with agenda := (s.sendTag ni part tag o).agenda, nis := (s.sendTag ni part tag o).nis, parts := (s.sendTag ni part tag o).parts } := by
  unfold State.sendTag
  split
  · exact sendAs_eq _ _ _ _ _
  · rfl

theorem sendTag_budInj (s : State) (ni part tag : Nat) (o : Op) (p : Nat) : ((s.sendTag ni part tag o).part p).budInj = (s.part p).budInj := by
  unfold State.sendTag
  split
  · exact sendAs_budInj _ _ _ _ _ _
  · rfl

theorem sendTag_agenda (s : State) (ni part tag : Nat) {o : Op} (ho : o.inj = none) :
    ∃ h, Held s part h ∧ (s.sendTag ni part tag o).agenda = s.agenda ++ [{ o with inj := h }] := by
  unfold State.sendTag
  split
  · exact sendAs_agenda s ni part _ ho
  · exact ⟨none, .inl rfl, by rw [← ho]; rfl⟩

theorem sendTag_sends (s : State) (ni part tag : Nat) {o : Op} (ho : o.inj = none) : Sends s (s.sendTag ni part tag o) part o := by
  obtain ⟨h, hh, ha⟩ := sendTag_agenda s ni part tag ho
  exact ⟨h, hh, by rw [Answers, ha]; exact List.getLast?_concat⟩

/-- Several answers sent in order, each from the NI that the state names. -/
theorem sendTags_agenda (ni : State → Nat) (part tag : Nat) {l : List Op} (hl : ∀ o ∈ l, o.inj = none) (s : State) :
    SendsAll s (l.foldl (fun s o => s.sendTag (ni s) part tag o) s) part l := by
  induction l generalizing s with
  | nil => exact ⟨[], rfl, fun _ h => absurd h List.not_mem_nil, by simp⟩
  | cons o l ih =>
    obtain ⟨i, hi, ha⟩ := sendTag_agenda s (ni s) part tag (hl o List.mem_cons_self)
    obtain ⟨h, hlen, hh, hr⟩ := ih (fun o ho => hl o (List.mem_cons_of_mem _ ho)) (s.sendTag (ni s) part tag o)
    refine ⟨i :: h, by simp [hlen], fun j hj => ?_, ?_⟩
    · rcases List.mem_cons.1 hj with rfl | hj
      · exact hi
      · have hheld := hh j hj
        rwa [Held, sendTag_budInj] at hheld
    · rw [List.foldl_cons, hr, ha]
      simp

theorem sendTags_eq (ni : State → Nat) (part tag : Nat) (l : List Op) (s : State) :
    let t := l.foldl (fun s o => s.sendTag (ni s) part tag o) s
    t = { s with agenda := t.agenda, nis := t.nis, parts := t.parts } := by
  induction l generalizing s with
  | nil => rfl
  | cons o l ih =>
    rw [List.foldl_cons]
    dsimp only at ih ⊢
    rw [ih, sendTag_eq]

theorem deliverTag_eq (s : State) (ni tag : Nat) : s.deliverTag ni tag = { s with nis := (s.deliverTag ni tag).nis } := by
  unfold State.deliverTag
  split <;> rfl

theorem deliverTags_eq {α : Type} (l : List α) (s : State) (ni tag : Nat) : l.foldl (fun s _ => s.deliverTag ni tag) s =
    { s with nis := (l.foldl (fun s _ => s.deliverTag ni tag) s).nis } := by
  induction l generalizing s with
  | nil => rfl
  | cons a l ih => rw [List.foldl_cons, ih, deliverTag_eq]

/-! ## A copy that is refused -/

theorem dropCopy_eq (s : State) (j : CopyJob) (tag : Nat) : dropCopy s j tag =
    { s with copies := Sp.erase s.copies tag, nis := (dropCopy s j tag).nis } := deliverTags_eq _ _ _ _

/-- A copy that is refused is gone, and its slot is told (R296). -/
theorem copyRefused_sends {s : State} {tag : Nat} {j : CopyJob} (hj : Sp.find s.copies tag = some j) (cause : Nat) (addr : W64) :
    let t := copyRefused s tag cause addr
    Sp.find t.copies tag = none ∧ Sends s t j.part { ins := .refusalArrival j.slot j.gen tag cause addr } ∧ t.mem = s.mem := by
  have ht : copyRefused s tag cause addr = (dropCopy s j tag).sendTag (slotCluster j.slot * 128) j.part tag
      { ins := .refusalArrival j.slot j.gen tag cause addr } := by rw [copyRefused, hj]; rfl
  obtain ⟨h, hh, ha⟩ := sendTag_sends (dropCopy s j tag) (slotCluster j.slot * 128) j.part tag
    (o := { ins := .refusalArrival j.slot j.gen tag cause addr }) rfl
  intro t
  have hd := dropCopy_eq s j tag
  refine ⟨?_, ⟨h, ?_, ?_⟩, ?_⟩
  · rw [show t = _ from ht, sendTag_eq, hd]
    exact Sp.find_erase_self _ _
  · rw [hd] at hh; exact hh
  · rw [show t = _ from ht]; exact ha
  · rw [show t = _ from ht, sendTag_eq, hd]

/-! ## Acceptance -/

/-- COPY_ACCEPT once a range of bytes has been picked. -/
def acceptRange (s : State) (tag : Nat) (j : CopyJob) (lo hi : Nat) : State :=
  if !tagFree s j lo then s.post .copyAccept tag else
  let k := j.courier s lo
  match if j.looked.contains k then none else maskRefused s j k with
  | some b => copyRefused s tag causeCopyPerm (j.srcAt b)
  | none =>
  let j := { j with todo := cutRange j.todo lo hi, looked := (k :: j.looked).eraseDups }
  let again (s : State) : State := if j.todo = [] then s else s.post .copyAccept tag
  match acceptCheck s j lo hi with
  | (s, .refused c) => copyRefused s tag c (j.srcAt lo)
  | (s, .fault page) => again (holdCopy s tag j page lo hi false (j.srcAt lo))
  | (s, _) =>
    match firstRefused s j lo hi with
    | some b => copyRefused s tag causeProt (j.srcAt b)
    | none =>
      let s := if j.busy then s else s.post .copyDelivery tag
      again { s with copies := Sp.put s.copies tag { j with accepted := j.accepted ++ [(lo, hi)] } }

/-- A copy of one row, within one page of its source, none of whose bytes has been accepted. -/
structure WholeCopy (s : State) (j : CopyJob) : Prop where
  copy : Sp.find s.copies s.cur = some j
  rows : j.rows = 1
  len : 0 < j.len
  todo : j.todo = [(0, j.len)]
  page : j.src.toNat % 65536 + j.len ≤ 65536

theorem CopyJob.srcAt_row (j : CopyJob) {i : Nat} (h : i < j.len) : j.srcAt i = j.src + BitVec.ofNat 64 i := by
  rw [CopyJob.srcAt, Nat.div_eq_of_lt h, Nat.mod_eq_of_lt h, Nat.zero_mul, Nat.zero_add]

theorem CopyJob.dstAt_row (j : CopyJob) {i : Nat} (h : i < j.len) : j.dstAt i = j.dst + BitVec.ofNat 64 i := by
  rw [CopyJob.dstAt, Nat.div_eq_of_lt h, Nat.mod_eq_of_lt h, Nat.zero_mul, Nat.zero_add]

/-- An offset within a block of an address. -/
theorem add_mod_block (a : W64) {i n : Nat} (hn : n ∣ 2 ^ 64) (h : a.toNat % n + i < n) : (a + BitVec.ofNat 64 i).toNat % n = a.toNat % n + i := by
  rw [BitVec.toNat_add, BitVec.toNat_ofNat, Nat.mod_mod_of_dvd _ hn, Nat.add_mod, Nat.mod_mod_of_dvd _ hn, ← Nat.add_mod, Nat.add_mod,
    Nat.mod_eq_of_lt (show i < n by omega), Nat.mod_eq_of_lt h]

theorem pickByte_single (a b n : Nat) : pickByte [(a, b)] n = some (a + n % Nat.max 1 (b - a), b) := by
  simp [pickByte, Nat.mod_one]

theorem cutRange_whole (n : Nat) : cutRange [(0, n)] 0 n = [] := by
  simp [cutRange]

theorem WholeCopy.copyAccept_eq {s : State} {j : CopyJob} (h : WholeCopy s j) : copyAccept s = acceptRange s.tick s.cur j 0 j.len := by
  obtain ⟨i, hi, hpick⟩ : ∃ i, i < j.len ∧ pickByte j.todo (Config.choice s.tick.ticket) = some (i, j.len) := by
    refine ⟨Config.choice s.tick.ticket % Nat.max 1 (j.len - 0), ?_, by rw [h.todo, pickByte_single, Nat.zero_add]⟩
    have := h.len
    exact Nat.lt_of_lt_of_le (Nat.mod_lt _ (by simp)) (by simp; omega)
  have hfind : (j.todo.find? fun r => decide (r.1 ≤ i ∧ i < r.2)) = some (0, j.len) := by
    rw [h.todo]
    simp [hi]
  have hpage := h.page
  have hsrc : (j.srcAt i).toNat % 65536 = j.src.toNat % 65536 + i := by
    rw [j.srcAt_row hi]
    exact add_mod_block _ ⟨2 ^ 48, by norm_num⟩ (by omega)
  have hlo : i - Nat.min (i - 0) (Nat.min (i % j.len) ((j.srcAt i).toNat % 65536)) = 0 := by
    rw [hsrc, Nat.mod_eq_of_lt hi, Nat.sub_zero]
    exact Nat.sub_eq_zero_of_le (Nat.le_min.2 ⟨le_refl _, Nat.le_min.2 ⟨le_refl _, by omega⟩⟩)
  have hsrc0 : (j.srcAt 0).toNat % 65536 = j.src.toNat % 65536 := by rw [j.srcAt_row h.len]; simp
  have hhi : Nat.min j.len (0 + Nat.min (rowLeft j 0) (blockLeft (j.srcAt 0) 65536)) = j.len := by
    rw [rowLeft, blockLeft, hsrc0, Nat.zero_mod, Nat.zero_add]
    exact Nat.min_eq_left (Nat.le_min.2 ⟨le_refl _, by omega⟩)
  dsimp only [copyAccept]
  rw [h.copy]
  dsimp only
  rw [hpick]
  dsimp only
  rw [hfind]
  let back := Nat.min (i - 0) (Nat.min (i % j.len) ((j.srcAt i).toNat % 65536))
  show acceptRange s.tick s.cur j (i - back)
    (Nat.min j.len (i - back + Nat.min (rowLeft j (i - back)) (blockLeft (j.srcAt (i - back)) 65536))) = _
  rw [hlo, hhi]

/-- A copy all of whose bytes are about to be accepted, with its courier's look at the masks noted. -/
def acceptedCopy (s : State) (j : CopyJob) : CopyJob :=
  { j with todo := cutRange j.todo 0 j.len, looked := (j.courier s 0 :: j.looked).eraseDups }

theorem acceptedCopy_eq (s : State) {j : CopyJob} (h : j.todo = [(0, j.len)]) :
    acceptedCopy s j = { j with todo := [], looked := (j.courier s 0 :: j.looked).eraseDups } := by
  rw [acceptedCopy, h, cutRange_whole]

/-- The courier's look at the masks finds nothing to refuse: it has looked already, or every source core grants the copy. -/
theorem maskLook_none {s : State} {j : CopyJob} (h : j.courier s 0 ∈ j.looked ∨ maskRefused s j (j.courier s 0) = none) :
    (if j.looked.contains (j.courier s 0) = true then none else maskRefused s j (j.courier s 0)) = none := by
  rcases h with h | h
  · exact if_pos (List.contains_iff_mem.2 h)
  · rw [h, ite_self]

section
variable {s s1 : State} {tag : Nat} {j : CopyJob}

theorem acceptRange_no_tag (h : tagFree s j 0 = false) (hi : Nat) : acceptRange s tag j 0 hi = s.post .copyAccept tag :=
  if_pos (by rw [h]; rfl)

theorem acceptRange_not_granted {b hi : Nat} (ht : tagFree s j 0 = true) (hl : j.courier s 0 ∉ j.looked)
    (hm : maskRefused s j (j.courier s 0) = some b) : acceptRange s tag j 0 hi = copyRefused s tag causeCopyPerm (j.srcAt b) := by
  have hmask : (if j.looked.contains (j.courier s 0) = true then none else maskRefused s j (j.courier s 0)) = some b := by
    rw [if_neg (fun h => hl (List.contains_iff_mem.1 h)), hm]
  dsimp only [acceptRange]
  rw [if_neg (by simp [ht]), hmask]

variable (ht : tagFree s j 0 = true) (hg : j.courier s 0 ∈ j.looked ∨ maskRefused s j (j.courier s 0) = none)
include ht hg

theorem acceptRange_refused {cause : Nat} (hc : acceptCheck s (acceptedCopy s j) 0 j.len = (s1, .refused cause)) :
    acceptRange s tag j 0 j.len = copyRefused s1 tag cause (j.srcAt 0) := by
  rw [acceptedCopy] at hc
  dsimp only [acceptRange]
  rw [if_neg (by simp [ht]), maskLook_none hg]
  dsimp only
  rw [hc]
  rfl

theorem acceptRange_taken {h : Target} {l : Nat} (htodo : j.todo = [(0, j.len)])
    (hc : acceptCheck s (acceptedCopy s j) 0 j.len = (s1, .loc h l))
    (hf : firstRefused s1 (acceptedCopy s j) 0 j.len = none) (hb : j.busy = false) : acceptRange s tag j 0 j.len =
      { s1.post .copyDelivery tag with copies := Sp.put s1.copies tag { acceptedCopy s j with accepted := j.accepted ++ [(0, j.len)] } } := by
  have hcut : cutRange j.todo 0 j.len = [] := by rw [htodo]; exact cutRange_whole _
  rw [acceptedCopy] at hc hf ⊢
  dsimp only [acceptRange]
  rw [if_neg (by simp [ht]), maskLook_none hg]
  dsimp only
  rw [hc]
  dsimp only
  rw [hf]
  dsimp only
  rw [if_pos hcut, if_neg (by rw [CopyJob.busy] at hb ⊢; simpa using hb)]
  rfl

end

/-! ## Delivery -/

section
variable {s : State} {j : CopyJob} (hj : Sp.find s.copies s.cur = some j) (hd : s.data = [])
include hj hd

/-- With nothing accepted, bytes that fly are what comes next. -/
theorem copyDelivery_flying {f : Nat × Nat × V512} (ha : j.accepted = []) (hf : j.flying = [f]) :
    copyDelivery s = copyWrite s.tick s.cur { j with flying := [] } f.1 f.2.1 f.2.2 := by
  have hsend : sendable s.tick j = [] := by
    unfold sendable
    split
    · rfl
    · rw [ha]; rfl
  dsimp only [copyDelivery]
  rw [hj]
  dsimp only
  rw [show s.tick.data = [] from hd, hsend, hf]
  simp [Nat.mod_one]

/-- With nothing on its way, the accepted bytes of a copy of one line are read from a byte that a free value picks on. -/
theorem copyDelivery_accepted (hs : sendable s.tick j = [(0, j.len)]) (ha : j.accepted = [(0, j.len)]) (hf : j.flying = []) (hlen : 0 < j.len)
    (hsrc : j.src.toNat % 64 + j.len ≤ 64) (hdst : j.dst.toNat % 64 + j.len ≤ 64) : ∃ i, i < j.len ∧
    copyDelivery s = copyRead s.tick s.cur { j with accepted := if i = 0 then [] else [(0, i)] } i (j.len - i) := by
  obtain ⟨i, hi, hpick⟩ : ∃ i, i < j.len ∧ pickByte [(0, j.len)] (Config.choice s.tick.ticket / Nat.max 1 (0 + 1)) = some (i, j.len) := by
    refine ⟨Config.choice s.tick.ticket / Nat.max 1 (0 + 1) % Nat.max 1 (j.len - 0), ?_, by rw [pickByte_single, Nat.zero_add]⟩
    exact Nat.lt_of_lt_of_le (Nat.mod_lt _ (by simp)) (by simp; omega)
  refine ⟨i, hi, ?_⟩
  have hs64 : (j.srcAt i).toNat % 64 = j.src.toNat % 64 + i := by
    rw [j.srcAt_row hi]; exact add_mod_block _ ⟨2 ^ 58, by norm_num⟩ (by omega)
  have hd64 : (j.dstAt i).toNat % 64 = j.dst.toNat % 64 + i := by
    rw [j.dstAt_row hi]; exact add_mod_block _ ⟨2 ^ 58, by norm_num⟩ (by omega)
  have hn : Nat.min (j.len - i) (Nat.min (rowLeft j i) (Nat.min (blockLeft (j.srcAt i) 64) (blockLeft (j.dstAt i) 64))) = j.len - i := by
    rw [rowLeft, blockLeft, blockLeft, hs64, hd64, Nat.mod_eq_of_lt hi]
    exact Nat.min_eq_left (Nat.le_min.2 ⟨le_refl _, Nat.le_min.2 ⟨by omega, by omega⟩⟩)
  have hcut : cutRange j.accepted i (i + (j.len - i)) = if i = 0 then [] else [(0, i)] := by
    rw [ha, show i + (j.len - i) = j.len by omega]
    by_cases h0 : i = 0
    · rw [if_pos h0, h0]; exact cutRange_whole _
    · simp [cutRange, h0, Nat.min_eq_right (Nat.le_of_lt hi), Nat.pos_of_ne_zero h0]
  dsimp only [copyDelivery]
  rw [hj]
  dsimp only
  rw [show s.tick.data = [] from hd, hs, hf]
  dsimp only [List.length_nil, List.length_singleton, List.getElem?_nil]
  rw [hpick]
  dsimp only
  rw [hn, hcut]

end

/-- Bytes in a scratchpad that are free to be read are on their way as path Y shows them. -/
theorem copyRead_flies {s : State} {tag : Nat} {j : CopyJob} {core off i n : Nat}
    (hf : j.flying = []) (hg : s.globalTarget j.part (j.srcAt i) = some (.scratch core off)) (hfree : s.guarded core off = false) : ∃ v,
    SeenOn s 1 (scratchLoc core off) n v ∧
    Sp.find (copyRead s tag j i n).copies tag = some { j with flying := [(i, n, BitVec.ofNat 512 v)] } ∧
    Answers (copyRead s tag j i n) { who := tag, ins := .copyDelivery } ∧ (copyRead s tag j i n).mem = s.mem ∧
    (copyRead s tag j i n).slots = s.slots := by
  obtain ⟨hl, hv⟩ := looked_look s 1 { slot := j.slot, gen := j.gen, tag := tag, heard := j.heard } (scratchLoc core off) n
  have hr : readSource s tag j i n (stuckOp tag i 0) =
      .bytes (s.look 1 { slot := j.slot, gen := j.gen, tag := tag, heard := j.heard } (scratchLoc core off) n).1
        (s.look 1 { slot := j.slot, gen := j.gen, tag := tag, heard := j.heard } (scratchLoc core off) n).2 := by
    dsimp only [readSource]
    rw [hg]
    dsimp only
    rw [hfree]
    rfl
  refine ⟨_, hv, ?_⟩
  generalize s.look 1 { slot := j.slot, gen := j.gen, tag := tag, heard := j.heard } (scratchLoc core off) n = r at hl hr
  unfold copyRead
  rw [hr, hf]
  exact ⟨Sp.find_put_self _ _ _, List.getLast?_concat, by rw [hl.1]; rfl, hl.slots⟩

/-- A copy none of whose bytes is left: the bytes that have arrived were its last. -/
structure LastBytes (j : CopyJob) : Prop where
  todo : j.todo = []
  accepted : j.accepted = []
  flying : j.flying = []
  held : j.held = []
  stuck : j.stuck = []

/-- Bytes for a scratchpad that pass the checks of their home are written there, exactly those; with none left the completion follows. -/
theorem copyWrite_stores {s s2 : State} {tag : Nat} {j : CopyJob} (hj : LastBytes j) {i n k off l : Nat} {v : V512}
    (hlink : s.linkFrom (courierRouter (j.courier s i)) (bits (j.dstAt i) 55 46) = true) (h56 : (j.dstAt i).getLsbD 56 = false)
    (hh : s.copyHome j.accessor (j.dstAt i) n false true = (s2, .loc (.scratch k off) l)) :
    Stored s2 (copyWrite s tag j i n v) l v.toNat n ∧ Sp.find (copyWrite s tag j i n v).copies tag = some j ∧
    Answers (copyWrite s tag j i n v) { who := tag, ins := .copyCompletion } ∧ (copyWrite s tag j i n v).slots = s2.slots := by
  have hbusy : j.busy = false := by simp [CopyJob.busy, hj.accepted, hj.flying]
  have hmoved : j.moved = true := by simp [CopyJob.moved, hj.todo, hj.accepted, hj.flying, hj.held, hj.stuck]
  have he : copyWrite s tag j i n v = ({ (s2.deliver (j.destNi s2 i) j.phase).pathWrite 1 l v.toNat n with
      copies := Sp.put s2.copies tag j }).post .copyCompletion tag := by
    dsimp only [copyWrite]
    rw [hlink, h56, hh]
    dsimp only
    rw [hbusy, if_neg (by decide), if_neg (by simp), if_neg Bool.false_ne_true, putCopy, hmoved, if_pos rfl,
      (writesOnly_pathWrite _ 1 l v.toNat n).eq]
    rfl
  rw [he]
  refine ⟨?_, Sp.find_put_self _ _ _, List.getLast?_concat, (writesOnly_pathWrite _ 1 l v.toNat n).slots⟩
  exact stored_pathWrite (s2.deliver (j.destNi s2 i) j.phase) 1 l v.toNat n

/-! ## Completion -/

/-- The copy's courier sends the updates of its completion, in order (R292). -/
def completionSent (s : State) (tag : Nat) (j : CopyJob) (l : List Op) : State :=
  l.foldl (fun s o => s.sendTag (courierNi (j.lead s)) j.part tag o)
    { s with copies := Sp.put s.copies tag { j with left := if j.multi then j.rows else 1 } }

theorem completionSent_sends (s : State) (tag : Nat) (j : CopyJob) {l : List Op} (hl : ∀ o ∈ l, o.inj = none) :
    SendsAll s (completionSent s tag j l) j.part l ∧ (completionSent s tag j l).mem = s.mem ∧
    Sp.find (completionSent s tag j l).copies tag = some { j with left := if j.multi then j.rows else 1 } := by
  have he : completionSent s tag j l = _ := sendTags_eq (fun s => courierNi (j.lead s)) j.part tag l _
  obtain ⟨h, hlen, hh, ha⟩ := sendTags_agenda (fun s => courierNi (j.lead s)) j.part tag hl
    { s with copies := Sp.put s.copies tag { j with left := if j.multi then j.rows else 1 } }
  refine ⟨⟨h, hlen, hh, ha⟩, ?_, ?_⟩
  · rw [he]
  · rw [he]; exact Sp.find_put_self _ _ _

/-- The access by which a copy's courier adds to a sync word. -/
def syncAccess (s : State) (tag : Nat) (j : CopyJob) (core n : Nat) : Access :=
  { op := .swadd, slot := j.slot, gen := j.gen, tag := tag, pc := j.pc, part := j.part, level := j.level, mode := 3,
    ea := s.globalOf core (bits (j.target.setWidth 64) 18 0), dest := 0, d0 := BitVec.ofNat 64 n, d1 := 0, vec := 0, offs := 0,
    lanes := 0xFFFFFFFF, masked := false, fall := false, nb := false, opc := 0x5A, region := none }

theorem copySync_eq (s : State) (tag : Nat) (j : CopyJob) (core n : Nat) :
    copySync s tag j core n = { ins := .syncWordUpdate (syncAccess s tag j core n) 1 } := rfl

section
variable {s : State} {j : CopyJob} (hj : Sp.find s.copies s.cur = some j)
include hj

/-- A copy without a target is acknowledged as it is done. -/
theorem copyCompletion_none (h : j.target.getLsbD 30 = true) : ∃ c, Sp.find c s.cur = none ∧ copyCompletion s =
    ({ s with copies := c } : State).sendTag (slotCluster j.slot * 128) j.part s.cur { ins := .accessAcknowledge j.slot j.gen s.cur } := by
  dsimp only [copyCompletion]
  rw [hj]
  dsimp only
  rw [h, if_pos rfl, copyApplied, Sp.find_put_self]
  exact ⟨_, Sp.find_erase_self _ _, rfl⟩

/-- A counter is told by a decrement, a CPYM's once for each core. -/
theorem copyCompletion_counter (h30 : j.target.getLsbD 30 = false) (h31 : j.target.getLsbD 31 = true) : copyCompletion s =
    completionSent s s.cur j (List.replicate (if j.multi then j.rows else 1)
      { ins := .dcDecrement j.part (bits (j.target.setWidth 64) 18 0) 1 j.slot j.gen s.cur }) := by
  dsimp only [copyCompletion]
  rw [hj]
  dsimp only
  rw [h30, h31, if_neg Bool.false_ne_true, if_pos rfl, completionSent, List.map_const', List.length_range]

/-- A sync word is told the bytes, a CPYM's once on each core. -/
theorem copyCompletion_sync (h30 : j.target.getLsbD 30 = false) (h31 : j.target.getLsbD 31 = false) : copyCompletion s =
    completionSent s s.cur j (if j.multi then
        (List.range j.rows).map fun i => copySync { s with copies := Sp.put s.copies s.cur { j with left := if j.multi then j.rows else 1 } } s.cur j (j.place + i) j.len
      else [copySync { s with copies := Sp.put s.copies s.cur { j with left := if j.multi then j.rows else 1 } } s.cur j j.place (j.rows * j.len)]) := by
  dsimp only [copyCompletion]
  rw [hj]
  dsimp only
  rw [h30, h31, if_neg Bool.false_ne_true, if_neg Bool.false_ne_true]
  cases hm : j.multi with
  | true => simp [completionSent, hm]
  | false => simp [completionSent, hm]

end

/-! ## The statements -/

theorem copyEvents : Says.CopyEvents := by
  refine ⟨fun s s1 j h l hw ha hf ht hg hc hr => ?_, fun s j hw ht => ?_, fun s s1 j cause hw ht hg hc hs => ?_, fun s j b hw ht hl hm => ?_,
    fun s j core off hj hd hs hrows hlen ha hf hsrc hdst hb => ?_, fun s s2 j f k off l hj htodo ha hf hheld hstuck hd => ?_,
    fun s j f hj hd ha hf hlink => ?_, fun s j hj => ⟨fun h30 => ?_, fun h30 h31 => ?_, fun h30 h31 hm => ?_, fun h30 h31 hm => ?_⟩⟩
  · obtain ⟨hj, hrows, hlen, htodo, hpage⟩ := hw
    have hb : j.busy = false := by simp [CopyJob.busy, ha, hf]
    have hacc := acceptedCopy_eq s.tick htodo
    replace hc : acceptCheck s.tick (acceptedCopy s.tick j) 0 j.len = (s1, .loc h l) := by rw [hacc]; exact hc
    replace hr : firstRefused s1 (acceptedCopy s.tick j) 0 j.len = none := by rw [hacc]; exact hr
    have he := (WholeCopy.copyAccept_eq ⟨hj, hrows, hlen, htodo, hpage⟩).trans (acceptRange_taken ht hg htodo hc hr hb)
    rw [ha, List.nil_append, hacc] at he
    refine ⟨_, congrArg Host.Outcome.next he, Sp.find_put_self _ _ _, List.getLast?_concat, rfl, rfl⟩
  · obtain ⟨hj, hrows, hlen, htodo, hpage⟩ := hw
    exact ⟨_, congrArg Host.Outcome.next ((WholeCopy.copyAccept_eq ⟨hj, hrows, hlen, htodo, hpage⟩).trans (acceptRange_no_tag ht _)), rfl, rfl, rfl, rfl⟩
  · obtain ⟨hj, hrows, hlen, htodo, hpage⟩ := hw
    replace hc : acceptCheck s.tick (acceptedCopy s.tick j) 0 j.len = (s1, .refused cause) := by rw [acceptedCopy_eq s.tick htodo]; exact hc
    have he := (WholeCopy.copyAccept_eq ⟨hj, hrows, hlen, htodo, hpage⟩).trans (acceptRange_refused ht hg hc)
    rw [show j.srcAt 0 = j.src by simp [j.srcAt_row hlen]] at he
    obtain ⟨hgone, hsend, -⟩ := copyRefused_sends (tag := s.cur) (hs ▸ hj) cause j.src
    exact ⟨_, congrArg Host.Outcome.next he, hgone, hsend⟩
  · obtain ⟨hj, hrows, hlen, htodo, hpage⟩ := hw
    have he := (WholeCopy.copyAccept_eq ⟨hj, hrows, hlen, htodo, hpage⟩).trans (acceptRange_not_granted ht hl hm)
    obtain ⟨hgone, hsend, -⟩ := copyRefused_sends (s := s.tick) (tag := s.cur) hj causeCopyPerm (j.srcAt b)
    exact ⟨_, congrArg Host.Outcome.next he, hgone, hsend⟩
  · obtain ⟨i, hi, he⟩ := copyDelivery_accepted hj hd hs ha hf hlen hsrc hdst
    obtain ⟨hg, hfree⟩ := hb i hi
    rw [← j.srcAt_row hi, ← (sameMap_tick s).globalTarget] at hg
    rw [← (sameMap_tick s).guarded] at hfree
    obtain ⟨n, hseen, hcopy, hans, hmem, hslots⟩ := copyRead_flies (s := s.tick) (tag := s.cur)
      (j := { j with accepted := if i = 0 then [] else [(0, i)] }) (n := j.len - i) hf hg hfree
    exact ⟨_, i, n, congrArg Host.Outcome.next he, hi, hcopy, hseen, hans, hmem, hslots⟩
  · intro a hlink h56 hh
    rw [← (sameMap_tick s).linkFrom] at hlink
    obtain ⟨hstored, hcopy, hans, hslots⟩ := copyWrite_stores (tag := s.cur) (j := { j with flying := [] }) ⟨htodo, ha, rfl, hheld, hstuck⟩
      (v := f.2.2) hlink h56 hh
    exact ⟨_, congrArg Host.Outcome.next (copyDelivery_flying hj hd ha hf), hstored, hcopy, hans, hslots⟩
  · have hw : copyWrite s.tick s.cur { j with flying := [] } f.1 f.2.1 f.2.2 = copyRefused s.tick s.cur causeAddr (j.dstAt f.1) := by
      rw [← (sameMap_tick s).linkFrom] at hlink
      exact if_pos (by rw [Bool.not_eq_true']; exact hlink)
    obtain ⟨hgone, hsend, hmem⟩ := copyRefused_sends (s := s.tick) (tag := s.cur) hj causeAddr (j.dstAt f.1)
    exact ⟨_, congrArg Host.Outcome.next ((copyDelivery_flying hj hd ha hf).trans hw), hgone, hmem, hsend⟩
  · obtain ⟨c, hgone, he⟩ := copyCompletion_none hj h30
    obtain ⟨h, hh, ha⟩ := sendTag_agenda { s with copies := c } (slotCluster j.slot * 128) j.part s.cur
      (o := { ins := .accessAcknowledge j.slot j.gen s.cur }) rfl
    refine ⟨_, congrArg Host.Outcome.next he, ?_, ⟨[h], rfl, ?_, ha⟩, ?_, ?_⟩
    · rw [sendTag_eq]; exact hgone
    · rintro i hi
      rw [List.mem_singleton.1 hi]
      exact hh
    · rw [sendTag_eq]
    · rw [sendTag_eq]
  · obtain ⟨hsends, hmem, hcopy⟩ := completionSent_sends s s.cur j (l := List.replicate (if j.multi then j.rows else 1)
      { ins := .dcDecrement j.part (bits (j.target.setWidth 64) 18 0) 1 j.slot j.gen s.cur }) fun o ho => by
        rw [List.eq_of_mem_replicate ho]
    exact ⟨_, congrArg Host.Outcome.next (copyCompletion_counter hj h30 h31), hmem, hcopy, hsends⟩
  · have he := copyCompletion_sync hj h30 h31
    rw [hm, if_neg Bool.false_ne_true] at he
    obtain ⟨hsends, hmem, -⟩ := completionSent_sends s s.cur j (l := [copySync _ s.cur j j.place (j.rows * j.len)]) fun o ho => by
      rw [List.mem_singleton.1 ho]; rfl
    exact ⟨_, _, congrArg Host.Outcome.next he, hsends, rfl, rfl, rfl, rfl, rfl, hmem⟩
  · have he := copyCompletion_sync hj h30 h31
    rw [hm, if_pos rfl] at he
    let sync (i : Nat) : Access := syncAccess { s with copies := Sp.put s.copies s.cur { j with left := j.rows } } s.cur j (j.place + i) j.len
    obtain ⟨hsends, hmem, -⟩ := completionSent_sends s s.cur j (l := ((List.range j.rows).map sync).map fun a => { ins := .syncWordUpdate a 1 })
      fun o ho => by
        obtain ⟨a, -, rfl⟩ := List.mem_map.1 ho
        rfl
    refine ⟨_, (List.range j.rows).map sync, congrArg Host.Outcome.next (he.trans ?_), hsends, hmem, ?_, fun a ha => ?_⟩
    · rw [List.map_map]; rfl
    · rw [List.map_map]; rfl
    · obtain ⟨i, -, rfl⟩ := List.mem_map.1 ha
      exact ⟨rfl, rfl⟩

/-- Settles O42. -/
theorem copyRules : Obligations.CopyRules := ⟨copyForms, copyEvents⟩

end Sys2Proof.Machine
end

section
/-! SUPPORT. The life of a context beside its groups (R31, R33, R71 to R74, R82, R174, R182 to R184, R187, R188): saves, restores, starts, wakes at
a ring and pre-emptions. -/

namespace Sys2Proof.Machine
open Sys2Proof

/-! ## Saving a context (R187, R188) -/

theorem behind_of_reachLines {x : Accessor} {wr : Bool} : ∀ {n : Nat} {s t : State} {a : W64} {r : Option (List (Option Nat))},
    s.reachLines x a wr n = (t, r) → Behind s t
  | 0, s, t, a, r, h => by
    rw [State.reachLines] at h
    exact (Prod.mk.inj h).1 ▸ .refl s
  | n + 1, s, t, a, r, h => by
    rw [State.reachLines] at h
    split at h
    · next hr => exact (Prod.mk.inj h).1 ▸ behind_of_reach hr
    · next hr =>
      split at h
      · next hl => exact (Prod.mk.inj h).1 ▸ (behind_of_reach hr).trans (behind_of_reachLines hl)
      · next hl => exact (Prod.mk.inj h).1 ▸ (behind_of_reach hr).trans (behind_of_reachLines hl)

theorem behind_writeLines (s : State) (v : Nat) (l : List (Option Nat)) : Behind s (writeLines s v l) := by
  induction l generalizing s v with
  | nil => exact .refl s
  | cons l ls ih =>
    refine Behind.trans ?_ (ih _ _)
    cases l with
    | none => exact .refl s
    | some l => exact behind_write _ _ _ _

theorem behind_of_takeFrames {s t : State} {x : Accessor} {pool : W64} {two : Bool} {r : Option (Nat × Option Nat)}
    (h : takeFrames s x pool two = (t, r)) : Behind s t := by
  unfold takeFrames at h
  dsimp only at h
  split at h
  · exact (Prod.mk.inj h).1 ▸ .refl s
  · split at h
    · next hr => exact (Prod.mk.inj h).1 ▸ behind_of_reach hr
    · next hr => exact (Prod.mk.inj h).1 ▸ behind_of_reach hr
    · next hr =>
      have hb := behind_of_reach hr
      split at h
      · exact (Prod.mk.inj h).1 ▸ hb
      · split at h
        · exact (Prod.mk.inj h).1 ▸ hb.trans (behind_write _ _ _ _)
        · split at h
          · exact (Prod.mk.inj h).1 ▸ hb
          · exact (Prod.mk.inj h).1 ▸ hb.trans (behind_write _ _ _ _)

/-- A slot whose unit's context has been saved: it is idle and owns the context. -/
def savedSlot (t : Slot) (c : Saved) : Slot := { idleSlot t with saved := t.saved ++ [c] }

/-- A saved context describes the unit of a slot: its GEN, whether a fault saved it, the pages it waits for, and where it goes on. -/
structure Describes (c : Saved) (gen : BitVec 32) (fault : Bool) (pages : List Nat) (back : SlotState) : Prop where
  gen : c.gen = gen
  fault : c.fault = fault
  pages : c.pages = pages
  back : c.back = back

/-- What a save leaves: a context that describes the unit, in its slot, and nothing else of any slot. -/
theorem saveContext_some {s u : State} {slot kind : Nat} {pc : Pc} {live : Nat} {recs : List (Access × Nat)} {back : SlotState} {pages : List Nat}
    (h : saveContext s slot kind pc live recs back pages = some u) : ∃ c t, Describes c (s.slot slot).gen (kind == 2) pages back ∧ Behind s t ∧
      u = t.setSlot slot (savedSlot (s.slot slot) c) := by
  have fin {t : State} {i : Nat} {ext : Option Nat} (hb : Behind s t)
      (hu : some (saveContext.finishSave slot kind recs back pages t (s.slot slot) i ext) = some u) :
      ∃ c t, Describes c (s.slot slot).gen (kind == 2) pages back ∧ Behind s t ∧ u = t.setSlot slot (savedSlot (s.slot slot) c) :=
    ⟨_, t, ⟨rfl, rfl, rfl, rfl⟩, hb, (Option.some.inj hu).symm⟩
  unfold saveContext at h
  dsimp only at h
  split at h
  · cases h
  · next hf =>
    have hb := behind_of_takeFrames hf
    split at h
    · cases h
    · next hl => exact fin ((hb.trans (behind_of_reachLines hl)).trans (behind_writeLines _ _ _)) h
    · next hl =>
      split at h
      · cases h
      · next hl' =>
        exact fin ((((hb.trans (behind_of_reachLines hl)).trans (behind_of_reachLines hl')).trans (behind_writeLines _ _ _)).trans
          (behind_writeLines _ _ _)) h

/-- Without a pool no context is saved. -/
theorem saveContext_pool_zero {s : State} {slot : Nat} (h : (s.slot slot).pool = 0) (kind : Nat) (pc : Pc) (live : Nat) (recs : List (Access × Nat))
    (back : SlotState) (pages : List Nat) : saveContext s slot kind pc live recs back pages = none := by
  unfold saveContext
  dsimp only
  rw [takeFrames, if_pos (.inl h)]

/-! ## The fault save (R72, R187) -/

theorem sendFaults_slots (c : Nat) (f : Nat → FaultRec) (l : List Nat) (s : State) : (l.foldl (fun s p => sendFault s c (f p)) s).slots = s.slots := by
  induction l generalizing s with
  | nil => rfl
  | cons p l ih => exact ih _

/-- Each record is on its way to the router of the cluster. -/
theorem sendFaults_agenda (c : Nat) (f : Nat → FaultRec) (l : List Nat) (s : State) : (l.foldl (fun s p => sendFault s c (f p)) s).agenda =
    s.agenda ++ l.map fun p => { ins := .faultRecordAtRouter c 0 { f p with src := c } } := by
  induction l generalizing s with
  | nil => exact (List.append_nil _).symm
  | cons p l ih =>
    refine (ih _).trans ?_
    rw [List.map_cons, List.append_cons]
    rfl

/-- The parts of a slot that a fault save looks at: two slots that differ in their registers only. -/
structure SameUnit (t q : Slot) : Prop where
  gen : q.gen = t.gen
  pool : q.pool = t.pool
  st : q.st = t.st
  saved : q.saved = t.saved

theorem SameUnit.refl (t : Slot) : SameUnit t t := ⟨rfl, rfl, rfl, rfl⟩
theorem SameUnit.trans {t q r : Slot} (a : SameUnit t q) (b : SameUnit q r) : SameUnit t r :=
  ⟨b.gen.trans a.gen, b.pool.trans a.pool, b.st.trans a.st, b.saved.trans a.saved⟩

theorem SameUnit.foldl {α : Type} {f : Slot → α → Slot} (h : ∀ t a, SameUnit t (f t a)) (l : List α) (t : Slot) : SameUnit t (l.foldl f t) := by
  induction l generalizing t with
  | nil => exact .refl t
  | cons a l ih => exact (h t a).trans (ih _)

theorem sameUnit_setEmpty (t : Slot) (c : Nat) (e : Bool) : SameUnit t (t.setEmpty c e) := ⟨rfl, rfl, rfl, rfl⟩

theorem sameUnit_partialLanes (s : State) (t : Slot) (o : Outst) : SameUnit t (partialLanes s t o) := by
  unfold partialLanes
  split
  · dsimp only
    split
    · exact ⟨rfl, rfl, rfl, rfl⟩
    · exact .refl t
  · exact .refl t

/-- The state of a fault save once what arrived is in the registers. -/
def arrived (s : State) (slot : Nat) : State :=
  let t0 := s.slot slot
  let rest := t0.outst.filter fun o : Outst => o.reply.isSome || o.held
  let s := s.setSlot slot (rest.foldl (partialLanes s) t0)
  let keep := rest.filter fun o : Outst => (entryRecord s o).isNone
  s.updSlot slot fun t => (keep.flatMap Outst.dests).foldl (fun t c => t.setEmpty c false) t

theorem arrived_slot_other (s : State) {slot j : Nat} (h : j ≠ slot) : (arrived s slot).slot j = s.slot j := by
  unfold arrived
  rw [State.updSlot_slot, if_neg h, State.setSlot_slot_other _ _ _ _ h]

theorem sameUnit_arrived (s : State) (slot : Nat) : SameUnit (s.slot slot) ((arrived s slot).slot slot) := by
  unfold arrived
  rw [State.updSlot_slot_self, State.setSlot_slot_self]
  exact (SameUnit.foldl (sameUnit_partialLanes s) _ _).trans (.foldl (fun t c => sameUnit_setEmpty t c false) _ _)

/-- The state of a slot that a fault has stopped and that could not be saved. -/
def heldBack : SlotState → SlotState
  | .suspended w => .suspended w
  | _ => .suspended .fault

theorem heldBack_suspended (x : SlotState) : ∃ w, heldBack x = .suspended w := by
  unfold heldBack
  split
  · exact ⟨_, rfl⟩
  · exact ⟨_, rfl⟩

/-- What a fault save leaves at its slot: the saved context, or the unit suspended. -/
structure FaultSaved (s u : State) : Prop where
  others : ∀ j, j ≠ s.cur → u.slot j = s.slot j
  here : ((u.slot s.cur).st = .idle ∧ ∃ c ∈ (u.slot s.cur).saved, c.gen = (s.slot s.cur).gen ∧ c.fault = true ∧ c.pages = faultPages s (s.slot s.cur)) ∨
    ((u.slot s.cur).st ≠ .idle ∧ (u.slot s.cur).gen = (s.slot s.cur).gen ∧ (u.slot s.cur).pages = faultPages s (s.slot s.cur))
  frameless : (s.slot s.cur).pool = 0 → (u.slot s.cur).pages = faultPages s (s.slot s.cur) ∧ ∃ w, (u.slot s.cur).st = .suspended w

theorem FaultSaved.of_slots {s t u : State} (h : FaultSaved s t) (e : u.slots = t.slots) : FaultSaved s u := by
  have hs (j : Nat) : u.slot j = t.slot j := by unfold State.slot; rw [e]
  exact ⟨fun j hj => (hs j).trans (h.others j hj), by rw [hs]; exact h.here, by rw [hs]; exact h.frameless⟩

/-- The contexts of one unit take the address it met first. -/
def noteFirst (gen : BitVec 32) (first : W64) (c : Saved) : Saved := if c.gen = gen then { c with first := first } else c

/-- A save succeeded: its context is in the slot, with the address it has met first. -/
theorem faultSaved_frame {s u : State} {pc : Pc} {live : Nat} {recs : List (Access × Nat)} {back : SlotState}
    (h : saveContext (arrived s s.cur) s.cur 2 pc live recs back (faultPages s (s.slot s.cur)) = some u) (l : Sp Assembly) (a : List Op) (first : W64) :
    FaultSaved s (({ u with assembly := l, agenda := a }).updSlot s.cur fun q =>
      { q with saved := q.saved.map (noteFirst ((arrived s s.cur).slot s.cur).gen first) }) := by
  have hg := sameUnit_arrived s s.cur
  obtain ⟨c, v, hc, hb, rfl⟩ := saveContext_some h
  refine ⟨fun j hj => ?_, .inl ?_, fun hp => ?_⟩
  · rw [State.updSlot_slot, if_neg hj]
    exact (State.setSlot_slot_other _ _ _ _ hj).trans ((hb.slot j).trans (arrived_slot_other s hj))
  · rw [State.updSlot_slot_self]
    have hv : State.slot { v.setSlot s.cur (savedSlot ((arrived s s.cur).slot s.cur) c) with assembly := l, agenda := a } s.cur =
        savedSlot ((arrived s s.cur).slot s.cur) c := State.setSlot_slot_self _ _ _
    rw [hv]
    refine ⟨rfl, noteFirst ((arrived s s.cur).slot s.cur).gen first c, List.mem_map_of_mem (List.mem_append_right _ (.head _)), ?_⟩
    rw [noteFirst, if_pos hc.gen]
    exact ⟨hc.gen.trans hg.gen, hc.fault, hc.pages⟩
  · rw [saveContext_pool_zero (hg.pool.trans hp)] at h
    cases h

/-- No save: the unit stays in its slot. -/
theorem faultSaved_frameless (s : State) (first : W64) : FaultSaved s ((arrived s s.cur).updSlot s.cur fun t =>
    { t with st := heldBack t.st, first := first, outst := t.outst.filter (fun o : Outst => o.len == 0), pages := faultPages s (s.slot s.cur) }) := by
  obtain ⟨w, hw⟩ := heldBack_suspended ((arrived s s.cur).slot s.cur).st
  refine ⟨fun j hj => ?_, .inr ?_, fun _ => ?_⟩
  · rw [State.updSlot_slot, if_neg hj, arrived_slot_other s hj]
  · rw [State.updSlot_slot_self]
    refine ⟨?_, (sameUnit_arrived s s.cur).gen, rfl⟩
    dsimp only
    rw [hw]
    exact nofun
  · rw [State.updSlot_slot_self]
    exact ⟨rfl, w, hw⟩

/-- A fault save is what it leaves at the slot, then a record for each page. -/
theorem faultSave_eq (s : State) : ∃ t gen, gen = (s.slot s.cur).gen ∧ FaultSaved s t ∧ faultSave s =
    (faultPages s (s.slot s.cur)).foldl (fun q p => sendFault q (slotCluster s.cur)
      { part := s.partOf (slotCluster s.cur), page := p, slot := s.cur, gen := gen, engine := 0, id := 0 }) t := by
  refine ⟨_, ((arrived s s.cur).slot s.cur).gen, (sameUnit_arrived s s.cur).gen, ?_, rfl⟩
  split
  · next h => exact faultSaved_frame h _ _ _
  · exact faultSaved_frameless s _

theorem faultSave_saves (s : State) : ∃ u : State, exec .faultSave s = .next u ∧ FaultSaved s u ∧
    ∀ p ∈ faultPages s (s.slot s.cur), ∃ r : FaultRec, r.page = p ∧ r.slot = s.cur ∧ r.gen = (s.slot s.cur).gen ∧
      r.part = s.partOf (slotCluster s.cur) ∧ ({ ins := .faultRecordAtRouter (slotCluster s.cur) 0 r } : Op) ∈ u.agenda := by
  obtain ⟨t, gen, rfl, ht, he⟩ := faultSave_eq s
  refine ⟨faultSave s, rfl, ?_, fun p hp => ?_⟩
  · rw [he]
    exact ht.of_slots (sendFaults_slots _ _ _ _)
  · rw [he, sendFaults_agenda]
    exact ⟨_, rfl, rfl, rfl, rfl, List.mem_append_right _ (List.mem_map_of_mem hp)⟩

/-! ## Loading a context (R33, R188) -/

/-- A table filled key by key reads, at a key that one entry alone has, that entry. -/
theorem Sp.get_foldl_set {α : Type} [DecidableEq α] (d : α) (key : Nat → Nat) (val : Nat → α) {c j : Nat} (hc : key j = c) :
    ∀ {n : Nat}, j < n → (∀ i < n, key i = c → i = j) → ∀ m : Sp α,
      Sp.get d ((List.range n).foldl (fun m i => Sp.set d m (key i) (val i)) m) c = val j
  | 0, hj, _, _ => absurd hj (Nat.not_lt_zero j)
  | n + 1, hj, hi, m => by
    rw [List.range_succ, List.foldl_append, List.foldl_cons, List.foldl_nil, Sp.get_set]
    by_cases e : n = j
    · rw [if_pos (e ▸ hc.symm), e]
    · rw [if_neg fun h => e (hi n (Nat.lt_succ_self n) h.symm)]
      exact Sp.get_foldl_set d key val hc (by omega) (fun i h => hi i (Nat.lt_succ_of_lt h)) m

/-- A slot holds what a frame says of its unit: its state, the words of R188 that a program can read back, its registers and their F/E bits. -/
structure Loaded (r : Slot) (c : Saved) (img : Nat) : Prop where
  pc : r.pc = BitVec.ofNat 15 (imgWord img 0)
  st : r.st = c.back
  gen : r.gen = BitVec.ofNat 32 (imgWord img 4)
  level : r.level = BitVec.ofNat 64 (imgWord img 5)
  trappc : r.trappc = BitVec.ofNat 64 (imgWord img 8)
  trapcause : r.trapcause = BitVec.ofNat 64 (imgWord img 9)
  trapvec : r.trapvec = BitVec.ofNat 64 (imgWord img 12)
  retired : r.retired = BitVec.ofNat 64 (imgWord img 17)
  g : ∀ n, 0 < n → n < 24 → r.getG n = BitVec.ofNat 64 (imgWord img (32 + n))
  v : ∀ n, n < 16 → r.getV n = BitVec.ofNat 512 (img / 2 ^ (64 * (64 + 8 * n)))
  k : ∀ n, 0 < n → n < 8 → r.getK n = BitVec.ofNat 32 (img / 2 ^ (64 * 56 + 32 * n))
  full : ∀ n, 0 < n → n < 24 → r.empty n = !(imgWord img 2).testBit n
  saved : ∀ q ∈ r.saved, q.gen ≠ c.gen

theorem Loaded.outst {r : Slot} {c : Saved} {img : Nat} (h : Loaded r c img) (l : List Outst) : Loaded { r with outst := l } c img :=
  ⟨h.pc, h.st, h.gen, h.level, h.trappc, h.trapcause, h.trapvec, h.retired, h.g, h.v, h.k, h.full, h.saved⟩

theorem Loaded.attempt {r : Slot} {c : Saved} {img : Nat} (h : Loaded r c img) (a : Option Attempt) : Loaded { r with attempt := a } c img :=
  ⟨h.pc, h.st, h.gen, h.level, h.trappc, h.trapcause, h.trapvec, h.retired, h.g, h.v, h.k, h.full, h.saved⟩

/-- The code of the register whose F/E bit stands at bit `i + 1` of the frame's mask. -/
def fullCode (i : Nat) : Nat := if i < 23 then i + 1 else if i < 39 then 32 + (i - 23) else 65 + (i - 39)

theorem eq_of_fullCode {i j : Nat} (hj : j < 23) (h : fullCode i = j + 1) : i = j := by
  unfold fullCode at h
  split_ifs at h <;> omega

theorem loaded_loadImage (t : Slot) (c : Saved) (img ext : Nat) : Loaded (loadImage t c img ext) c img where
  pc := rfl
  st := rfl
  gen := rfl
  level := rfl
  trappc := rfl
  trapcause := rfl
  trapvec := rfl
  retired := rfl
  g n h0 hn := by
    obtain ⟨j, rfl⟩ := Nat.exists_eq_add_of_lt h0
    rw [Nat.zero_add] at *
    rw [Slot.getG, if_neg (Nat.succ_ne_zero j)]
    refine (Sp.get_foldl_set 0 (· + 1) (fun i => BitVec.ofNat 64 (imgWord img (33 + i))) rfl (by omega) (fun i _ h => Nat.succ.inj h) []).trans ?_
    rw [show 33 + j = 32 + (j + 1) by omega]
  v n hn := Sp.get_foldl_set 0 id (fun i => BitVec.ofNat 512 (img / 2 ^ (64 * (64 + 8 * i)))) rfl hn (fun i _ h => h) []
  k n h0 hn := by
    obtain ⟨j, rfl⟩ := Nat.exists_eq_add_of_lt h0
    rw [Nat.zero_add] at *
    rw [Slot.getK, if_neg (Nat.succ_ne_zero j)]
    exact Sp.get_foldl_set 0 (· + 1) (fun i => BitVec.ofNat 32 (img / 2 ^ (64 * 56 + 32 * (i + 1)))) rfl (by omega) (fun i _ h => Nat.succ.inj h) []
  full n h0 hn := by
    obtain ⟨j, rfl⟩ := Nat.exists_eq_add_of_lt h0
    rw [Nat.zero_add] at *
    have hj : j < 23 := by omega
    have hf : Sp.get false (loadImage t c img ext).fe (j + 1) = !(imgWord img 2).testBit (j + 1) :=
      Sp.get_foldl_set false fullCode (fun i => !(imgWord img 2).testBit (i + 1)) (if_pos hj) (by omega) (fun i _ h => eq_of_fullCode hj h) []
    have h1 : (j + 1 != 0) = true := bne_iff_ne.2 (by omega)
    have h2 : (j + 1 != 64) = true := bne_iff_ne.2 (by omega)
    rw [Slot.empty, hf, h1, h2, Bool.true_and, Bool.true_and]
  saved q hq := by
    have := (List.mem_filter.1 hq).2
    simpa using this

/-! ## Replaying accesses (R74) -/

theorem behind_sendPieces (s : State) (a : Access) : Behind s (sendPieces s a) := .foldl (fun _ _ => behind_sendAs _ _ _ _ _) _ _

/-- A replayed access is noted at its slot, and leaves nothing else there. -/
theorem replayAccess_slot (s : State) (slot : Nat) (binds : List (Nat × Bind)) (a : Access) : ∃ o,
    (replayAccess s slot binds a).slot slot = { s.slot slot with outst := (s.slot slot).outst ++ [o] } := by
  let o := replayEntry s a ((binds.find? fun q => q.1 == a.tag).map Prod.snd)
  refine ⟨o, Eq.trans ?_ (State.updSlot_slot_self s slot fun t => { t with outst := t.outst ++ [o] })⟩
  refine Behind.slot ?_ slot
  unfold replayAccess
  dsimp only
  split
  · exact behind_sendTag _ _ _ _ _
  · exact behind_post _ _ _
  · exact behind_post _ _ _
  · exact behind_post _ _ _
  · exact behind_sendPieces _ _

theorem loaded_replay {c : Saved} {img slot : Nat} (binds : List (Nat × Bind)) (l : List Access) {s : State} (h : Loaded (s.slot slot) c img) :
    Loaded ((l.foldl (fun s a => replayAccess s slot binds a) s).slot slot) c img := by
  induction l generalizing s with
  | nil => exact h
  | cons a l ih =>
    obtain ⟨o, ho⟩ := replayAccess_slot s slot binds a
    exact ih (ho ▸ h.outst _)

/-! ## The restore (R33, R74, R184) -/

theorem behind_armWait (s : State) (slot : Nat) (a : Attempt) : Behind s (armWait s slot a) := by
  unfold armWait
  dsimp only
  split
  · exact .of_eq rfl rfl rfl
  · exact .of_eq rfl rfl rfl
  · exact .refl s

/-- The attempt a context waited in goes on, later by the time it was away. -/
def laterAttempt (late id : Nat) (a : Attempt) : Attempt := { a with since := a.since + late, id := id, watched := a.watched.map (· + late) }

/-- The slot of a restore, before anything is replayed. -/
def restoredSlot (s1 s2 : State) (slot : Nat) (c : Saved) (img ext : Nat) : Slot :=
  let t := loadImage (s1.slot slot) c img ext
  { t with attempt := c.attempt.map (laterAttempt (s2.now - c.time) s2.ticket) }

theorem loaded_restoredSlot (s1 s2 : State) (slot : Nat) (c : Saved) (img ext : Nat) : Loaded (restoredSlot s1 s2 slot c img ext) c img :=
  (loaded_loadImage _ _ _ _).attempt _

/-- A restore up to the replay: the frames are free, the slot is loaded, and a wait that goes on has its timer. -/
def restoredState (s1 : State) (slot : Nat) (c : Saved) (img ext : Nat) : State :=
  let s2 := freeSaved s1 slot c
  let t := restoredSlot s1 s2 slot c img ext
  let s := s2.tick.setSlot slot t
  match t.attempt with
    | some a => armWait s slot a
    | none => s

theorem restoredState_slot (s1 : State) (slot : Nat) (c : Saved) (img ext : Nat) :
    Loaded ((restoredState s1 slot c img ext).slot slot) c img := by
  have h := loaded_restoredSlot s1 (freeSaved s1 slot c) slot c img ext
  unfold restoredState
  dsimp only
  split
  · rw [(behind_armWait _ _ _).slot, State.setSlot_slot_self]
    exact h
  · rw [State.setSlot_slot_self]
    exact h

/-- READY: the records are replayed in order. -/
theorem contextRestore_replays {s s1 : State} {c : Saved} {img ext : Nat} (hc : restoreChoice s s.cur = some c)
    (hr : readFrames s s.cur c = some (s1, img, ext)) (hw : ∀ w, c.wake ≠ some (w, false)) : ∃ l : List Access,
    contextRestore s = l.foldl (fun t a => replayAccess t s.cur c.binds a) (restoredState s1 s.cur c img ext) := by
  unfold contextRestore
  dsimp only
  rw [hc]
  dsimp only
  rw [hr]
  dsimp only
  split
  · next h => exact absurd h (hw _)
  · exact ⟨_, rfl⟩

/-- A restore that replays leaves the unit of the frame in the slot. -/
theorem contextRestore_loads {s s1 : State} {c : Saved} {img ext : Nat} (hc : restoreChoice s s.cur = some c)
    (hr : readFrames s s.cur c = some (s1, img, ext)) (hw : ∀ w, c.wake ≠ some (w, false)) :
    ∃ u : State, exec .contextRestore s = .next u ∧ Loaded (u.slot s.cur) c img := by
  obtain ⟨l, hl⟩ := contextRestore_replays hc hr hw
  refine ⟨contextRestore s, rfl, ?_⟩
  rw [hl]
  exact loaded_replay _ _ (restoredState_slot _ _ _ _ _)

/-- Two slots whose traps enter alike: the same handler, and ACTIVE alike. -/
structure SameTraps (t q : Slot) : Prop where
  vec : q.trapvec = t.trapvec
  cause : q.trapcause = t.trapcause

theorem SameTraps.refl (t : Slot) : SameTraps t t := ⟨rfl, rfl⟩
theorem SameTraps.trans {t q r : Slot} (a : SameTraps t q) (b : SameTraps q r) : SameTraps t r :=
  ⟨b.vec.trans a.vec, b.cause.trans a.cause⟩

theorem sameTraps_setEmpties {α : Type} (code : α → Nat) (l : List α) (t : Slot) : SameTraps t (l.foldl (fun t a => t.setEmpty (code a) false) t) := by
  induction l generalizing t with
  | nil => exact .refl t
  | cons a l ih => exact SameTraps.trans (q := t.setEmpty (code a) false) ⟨rfl, rfl⟩ (ih _)

theorem sameTraps_updSlot {s t : State} {slot : Nat} (hs : t.slots = s.slots) {f : Slot → Slot} (hf : ∀ q, SameTraps q (f q)) :
    SameTraps (s.slot slot) ((t.updSlot slot f).slot slot) := by
  rw [State.updSlot_slot_self, show t.slot slot = s.slot slot by unfold State.slot; rw [hs]]
  exact hf _

theorem sameTraps_of_slots {s t : State} {slot : Nat} (hs : t.slots = s.slots) : SameTraps (s.slot slot) (t.slot slot) := by
  unfold State.slot
  rw [hs]
  exact .refl _

theorem dropFlying_slots (s : State) (slot : Nat) (gen : BitVec 32) (tag : Nat) : (dropFlying s slot gen tag).slots = s.slots :=
  (Behind.foldl (fun s _ => behind_deliverTag s (slotCore slot) tag) _ s).slots

theorem dropRequest_slots (s : State) (slot : Nat) (gen : BitVec 32) (tag : Nat) : (dropRequest s slot gen tag).slots = s.slots :=
  dropFlying_slots s slot gen tag

theorem leaveWaiting_slots (s : State) (slot : Nat) : (leaveWaiting s slot).slots = s.slots := by
  unfold leaveWaiting
  dsimp only
  split
  · rfl
  · split
    · rfl
    · rfl

/-- A withdrawn wait leaves the trap registers. -/
theorem sameTraps_withdraw (s : State) (slot : Nat) : SameTraps (s.slot slot) ((withdraw s slot).slot slot) := by
  unfold withdraw
  dsimp only
  split
  · refine sameTraps_updSlot (dropRequest_slots _ _ _ _) fun q => ?_
    exact SameTraps.trans (sameTraps_setEmpties id _ q) ⟨rfl, rfl⟩
  · exact sameTraps_updSlot rfl fun q => ⟨rfl, rfl⟩
  · exact sameTraps_updSlot (leaveWaiting_slots _ _) fun q => ⟨rfl, rfl⟩
  · exact sameTraps_updSlot (leaveWaiting_slots _ _) fun q => ⟨rfl, rfl⟩
  · refine sameTraps_updSlot rfl fun q => ?_
    exact SameTraps.trans (sameTraps_setEmpties id _ q) ⟨rfl, rfl⟩
  · exact .refl _

theorem sameTraps_endSuspension (s : State) (slot : Nat) : SameTraps (s.slot slot) ((endSuspension s slot).slot slot) := by
  unfold endSuspension
  dsimp only
  split
  · exact .refl _
  · refine SameTraps.trans ?_ (sameTraps_withdraw _ _)
    have hb (l : List Op) : Behind s (l.foldl (fun s o => match o.ins with
        | .tabledDelivery d => s.deliverTag (slotCore slot) d.tag
        | _ => s) s) := .foldl (fun s o => by
      split
      · exact behind_deliverTag _ _ _
      · exact .refl s) _ _
    refine sameTraps_of_slots ?_
    exact (hb _).slots
  · exact .refl _

/-- DENY: the unit traps ADDR at a group, with the trap registers of its frame. -/
theorem contextRestore_denies {s s1 : State} {c : Saved} {img ext w : Nat} (hc : restoreChoice s s.cur = some c)
    (hr : readFrames s s.cur c = some (s1, img, ext)) (hw : c.wake = some (w, false)) : ∃ (t : State) (pc : Pc) (addr : W64),
    SameTraps ((restoredState s1 s.cur c img ext).slot s.cur) (t.slot s.cur) ∧ contextRestore s = trapEntry t s.cur pc { cause := causeAddr, addr := addr } := by
  unfold contextRestore
  dsimp only
  rw [hc]
  dsimp only
  rw [hr]
  dsimp only
  rw [hw]
  dsimp only
  refine ⟨_, _, _, ?_, rfl⟩
  refine SameTraps.trans (sameTraps_endSuspension (restoredState s1 s.cur c img ext) s.cur) (sameTraps_updSlot rfl fun q => ?_)
  exact SameTraps.trans (sameTraps_setEmpties Access.dest _ q) ⟨rfl, rfl⟩

/-- DENY, with a handler and ACTIVE 0 in the frame: the unit goes on at the handler, with ADDR. -/
theorem contextRestore_traps {s s1 : State} {c : Saved} {img ext w : Nat} (hc : restoreChoice s s.cur = some c)
    (hr : readFrames s s.cur c = some (s1, img, ext)) (hw : c.wake = some (w, false)) (hv : imgWord img 12 ≠ 0)
    (ha : (imgWord img 9).testBit 8 = false) : ∃ u : State, exec .contextRestore s = .next u ∧
      (u.slot s.cur).pc = BitVec.ofNat 15 (imgWord img 12) ∧ (u.slot s.cur).trapcause = 0x116 ∧ (u.slot s.cur).st = .ready := by
  obtain ⟨t, pc, addr, ht, he⟩ := contextRestore_denies hc hr hw
  have hl := restoredState_slot s1 s.cur c img ext
  have hvec : (t.slot s.cur).trapvec = BitVec.ofNat 64 (imgWord img 12) := ht.vec.trans hl.trapvec
  have hcause : (t.slot s.cur).trapcause = BitVec.ofNat 64 (imgWord img 9) := ht.cause.trans hl.trapcause
  have hlt : imgWord img 12 < 2 ^ 64 := Nat.mod_lt _ (by decide)
  have hne : (t.slot s.cur).trapvec ≠ 0 := fun h => hv <| by
    have h0 := congrArg BitVec.toNat (hvec.symm.trans h)
    rwa [BitVec.toNat_ofNat, Nat.mod_eq_of_lt hlt] at h0
  have hact : (t.slot s.cur).trapcause.getLsbD 8 = false := by
    rw [hcause, BitVec.getLsbD_ofNat, ha]
    rfl
  obtain ⟨hs, -, -⟩ := trapToHandler t s.cur pc { cause := causeAddr, addr := addr } hne hact
  refine ⟨contextRestore s, rfl, ?_⟩
  rw [he, hs, hvec]
  refine ⟨?_, rfl, rfl⟩
  exact BitVec.setWidth_ofNat_of_le (v := 15) (w := 64) (by decide) _

/-! ## The start of a unit (R31, R82, R174) -/

/-- General registers written one after the other. -/
def Slot.setGs (t : Slot) (regs : List (Nat × W64)) : Slot := regs.foldl (fun t q => t.setG q.1 q.2) t

/-- They leave everything of a slot but those registers and their F/E bits. -/
theorem Slot.setGs_rest (t : Slot) (regs : List (Nat × W64)) : ∃ g fe, t.setGs regs = { t with g := g, fe := fe } := by
  induction regs generalizing t with
  | nil => exact ⟨t.g, t.fe, rfl⟩
  | cons q l ih =>
    obtain ⟨g, fe, h⟩ := ih (t.setG q.1 q.2)
    refine ⟨g, fe, h.trans ?_⟩
    rw [t.setG_rest q.1 q.2]

theorem Slot.setGs_empty {t : Slot} (h : ∀ c, t.empty c = false) (regs : List (Nat × W64)) (c : Nat) : (t.setGs regs).empty c = false := by
  induction regs generalizing t with
  | nil => exact h c
  | cons q l ih =>
    refine ih fun c => ?_
    rw [Slot.setG_empty, h c, ite_self]

theorem Slot.setGs_getG_of_not_mem (t : Slot) {regs : List (Nat × W64)} {n : Nat} (h : n ∉ regs.map Prod.fst) : (t.setGs regs).getG n = t.getG n := by
  induction regs generalizing t with
  | nil => rfl
  | cons q l ih =>
    rw [List.map_cons, List.mem_cons, not_or] at h
    refine (ih _ h.2).trans ?_
    rw [Slot.setG_getG, if_neg fun e => h.1 e.1]

theorem Slot.setGs_getG_of_mem (t : Slot) {regs : List (Nat × W64)} {n : Nat} {v : W64} (hd : (regs.map Prod.fst).Nodup) (hn : n ≠ 0)
    (h : (n, v) ∈ regs) : (t.setGs regs).getG n = v := by
  induction regs generalizing t with
  | nil => cases h
  | cons q l ih =>
    rw [List.map_cons, List.nodup_cons] at hd
    rcases List.mem_cons.1 h with rfl | h
    · refine (Slot.setGs_getG_of_not_mem _ hd.1).trans ?_
      rw [Slot.setG_getG, if_pos ⟨rfl, hn⟩]
    · exact ih _ hd.2 h

/-- A slot in which a unit has started from a record, with its general registers apart (R31). -/
structure Started (t r : Slot) (rec : TaskRec) : Prop where
  st : r.st = .ready
  gen : r.gen = t.genNext
  genNext : r.genNext = t.genNext + 1
  pc : r.pc = rec.pc
  level : r.level = rec.level
  corr : r.corr = rec.corr
  pool : r.pool = rec.pool
  stktop : r.stktop = t.stktop
  v : ∀ n, r.getV n = 0
  k : ∀ n, n ≠ 0 → r.getK n = 0
  full : ∀ c, r.empty c = false
  trapvec : r.trapvec = 0
  trapcause : r.trapcause = 0
  waitpol : r.waitpol = 0
  outst : r.outst = []
  stack : r.stack = []

/-- A new unit's slot before its general registers are set. -/
def freshSlot (t : Slot) (r : TaskRec) (now : W64) (cancelled : Bool) : Slot := startSlot t r [] now cancelled

theorem startSlot_eq (t : Slot) (r : TaskRec) (regs : List (Nat × W64)) (now : W64) (c : Bool) :
    startSlot t r regs now c = (freshSlot t r now c).setGs regs := rfl

theorem freshSlot_empty (t : Slot) (r : TaskRec) (now : W64) (cancelled : Bool) (c : Nat) : (freshSlot t r now cancelled).empty c = false :=
  by
  simp [freshSlot, startSlot, Slot.empty, Sp.get, Sp.find]

theorem freshSlot_getG (t : Slot) (r : TaskRec) (now : W64) (c : Bool) (n : Nat) : (freshSlot t r now c).getG n = 0 := ite_self _

theorem started_startSlot (t : Slot) (r : TaskRec) (regs : List (Nat × W64)) (now : W64) (c : Bool) : Started t (startSlot t r regs now c) r := by
  rw [startSlot_eq]
  have hf := Slot.setGs_empty (freshSlot_empty t r now c) regs
  obtain ⟨g, fe, hq⟩ := (freshSlot t r now c).setGs_rest regs
  rw [hq] at hf ⊢
  exact ⟨rfl, rfl, rfl, rfl, rfl, rfl, rfl, rfl, fun _ => rfl, fun n hn => if_neg hn, hf, rfl, rfl, rfl, rfl, rfl⟩

theorem startSlot_getG_zero (t : Slot) (r : TaskRec) {regs : List (Nat × W64)} (now : W64) (c : Bool) {n : Nat} (h : n ∉ regs.map Prod.fst) :
    (startSlot t r regs now c).getG n = 0 := by
  rw [startSlot_eq, Slot.setGs_getG_of_not_mem _ h, freshSlot_getG]

theorem startSlot_getG (t : Slot) (r : TaskRec) {regs : List (Nat × W64)} (now : W64) (c : Bool) {n : Nat} {v : W64}
    (hd : (regs.map Prod.fst).Nodup) (hn : n ≠ 0) (h : (n, v) ∈ regs) : (startSlot t r regs now c).getG n = v := by
  rw [startSlot_eq, Slot.setGs_getG_of_mem _ hd hn h]

/-- What the start from an entry leaves beside the new unit: the ring stands behind the entry. -/
structure Passed (s u : State) (core cls i : Nat) (h : W64) : Prop where
  head : (u.core core).head cls = (i + bits h 15 8) % clsSize ((s.core core).cls cls)
  mem : u.mem = s.mem

/-- The record of a TASK entry (R80, R95). -/
def taskRecord (s : State) (core cls i : Nat) (h : W64) : TaskRec :=
  let info := Sp.get ({} : EntryInfo) (s.core core).entries (cls * 8192 + i)
  { recordOf (fun k => s.ringWord core cls (i + (k + 1))) info.home info.source (h.getLsbD 16) info.enq with
      key := info.key, header := info.header, cls := cls }

/-- The registers of a unit that starts from a TASK entry. -/
def taskRegs (s : State) (core cls i : Nat) (t : Slot) : List (Nat × W64) :=
  let w (k : Nat) := s.ringWord core cls (i + k)
  let info := Sp.get ({} : EntryInfo) (s.core core).entries (cls * 8192 + i)
  [(2, t.stktop), (4, w 5), (5, w 6), (6, w 7), (7, w 8), (8, info.key), (9, info.header)]

/-- The record of a WAKE entry that starts a unit (R80, R327). -/
def wakeRecord (s : State) (core cls i : Nat) (h : W64) : TaskRec :=
  let w (k : Nat) := s.ringWord core cls (i + k)
  let info := Sp.get ({} : EntryInfo) (s.core core).entries (cls * 8192 + i)
  { pc := (w 1).setWidth 15, noSteal := false, level := info.level, home := info.home, pri := 0, cls := cls, corr := info.corr,
    pool := info.pool, args := [w 2, w 3], source := 5, phase := h.getLsbD 16, key := 0, header := 0, enq := info.enq }

/-- The registers of a unit that starts from a WAKE entry. -/
def wakeRegs (s : State) (core cls i : Nat) (t : Slot) : List (Nat × W64) :=
  [(2, t.stktop), (4, s.ringWord core cls (i + 2)), (5, s.ringWord core cls (i + 3)), (8, 0), (9, 0)]

theorem startFromEntry_task (s : State) (core cls i : Nat) {h : W64} (hk : bits h 7 0 = 1) :
    let slot := core * 8 + clsSlot ((s.core core).cls cls)
    ∃ now c, (startFromEntry s core cls i h).slot slot = startSlot (s.slot slot) (taskRecord s core cls i h) (taskRegs s core cls i (s.slot slot)) now c ∧
      Passed s (startFromEntry s core cls i h) core cls i h := by
  dsimp only [startFromEntry]
  rw [hk]
  simp only [beq_self_eq_true, if_true, State.setCore_slot', State.setSlot_slot_self]
  refine ⟨_, _, rfl, ?_, rfl⟩
  rw [Core.head, State.setCore_core_self]
  exact Sp.get_set_self _ _ _ _

theorem startFromEntry_wake (s : State) (core cls i : Nat) {h : W64} (hk : bits h 7 0 = 2) :
    let slot := core * 8 + clsSlot ((s.core core).cls cls)
    ∃ now c, (startFromEntry s core cls i h).slot slot = startSlot (s.slot slot) (wakeRecord s core cls i h) (wakeRegs s core cls i (s.slot slot)) now c := by
  dsimp only [startFromEntry]
  rw [hk]
  simp only [show ((2 : Nat) == 1) = false from rfl, Bool.false_eq_true, if_false, State.setCore_slot', State.setSlot_slot_self]
  exact ⟨_, _, rfl⟩

/-- An idle slot with an entry at the head of a ring, and no wake to pass and no padding, takes it. -/
theorem unitStart_takes {s : State} {cls i : Nat} {h : W64} (he : s.slotEntry s.cur = some (cls, i, h)) (hi : (s.slot s.cur).st = .idle)
    (hw : s.wakeEntry s.cur = none) (hp : s.padClass s.cur = none) : exec .unitStart s = .next (startFromEntry s (slotCore s.cur) cls i h) := by
  have hu : unitStart s = startFromEntry s (slotCore s.cur) cls i h := by
    unfold unitStart
    dsimp only
    rw [hw]
    dsimp only
    rw [hp]
    dsimp only
    rw [if_neg (not_not.2 hi), he]
  rw [← hu]
  rfl

theorem slotCore_mod (slot : Nat) : slotCore slot * 8 + slot % 8 = slot := Nat.div_add_mod' slot 8

/-- A wake at the head of a ring is passed: the slots stand, and the core counts it where its unit is not there. -/
theorem unitStart_passes {s : State} {cls i : Nat} {h : W64} (he : s.wakeEntry s.cur = some (cls, i, h)) :
    let core := slotCore s.cur; let t := s.slot s.cur
    ∃ u : State, exec .unitStart s = .next u ∧ u.slots = s.slots ∧ u.mem = s.mem ∧
      (u.core core).head cls = (i + bits h 15 8) % clsSize ((s.core core).cls cls) ∧
      (t.st ≠ .idle → t.gen.toNat = bits h 63 32 → (u.core core).count = (s.core core).count) ∧
      (t.st = .idle ∨ t.gen.toNat ≠ bits h 63 32 → (u.core core).count.gendrop = (s.core core).count.gendrop + 1) := by
  intro core t
  refine ⟨unitStart s, rfl, ?_⟩
  unfold unitStart
  dsimp only
  rw [he]
  dsimp only
  refine ⟨rfl, rfl, ?_, fun hs hg => ?_, fun hn => ?_⟩
  · rw [State.updCore_core_self]
    exact Sp.get_set_self _ _ _ _
  · have hb : (t.st != .idle && t.gen.toNat == bits h 63 32) = true := by simp [hs, hg]
    rw [State.updCore_core_self, hb, if_pos rfl, add_zero]
  · have hb : (t.st != .idle && t.gen.toNat == bits h 63 32) = false := by
      rcases hn with hs | hg
      · simp [hs]
      · simp [hg]
    rw [State.updCore_core_self, hb]
    rfl

theorem unitStart_pads {s : State} {cls : Nat} (hw : s.wakeEntry s.cur = none) (hp : s.padClass s.cur = some cls) :
    let core := slotCore s.cur
    ∃ u : State, exec .unitStart s = .next u ∧ u.slots = s.slots ∧ u.mem = s.mem ∧ (u.core core).head cls = (s.core core).tail cls := by
  refine ⟨unitStart s, rfl, ?_⟩
  unfold unitStart
  dsimp only
  rw [hw]
  dsimp only
  rw [hp]
  refine ⟨rfl, rfl, ?_⟩
  rw [State.updCore_core_self]
  exact Sp.get_set_self _ _ _ _

/-- The start of a unit from a TASK entry (R31, R82). -/
theorem unitStart_task {s : State} {cls i : Nat} {h : W64} (he : s.slotEntry s.cur = some (cls, i, h))
    (hc : clsSlot ((s.core (slotCore s.cur)).cls cls) = s.cur % 8) (hi : (s.slot s.cur).st = .idle)
    (hw : s.wakeEntry s.cur = none) (hp : s.padClass s.cur = none) (hk : bits h 7 0 = 1) :
    let core := slotCore s.cur; let t := s.slot s.cur; let regs := taskRegs s core cls i t
    ∃ u : State, exec .unitStart s = .next u ∧ Started t (u.slot s.cur) (taskRecord s core cls i h) ∧ Passed s u core cls i h ∧
      (∀ n v, n ≠ 0 → (n, v) ∈ regs → (u.slot s.cur).getG n = v) ∧ ∀ n, n ∉ [2, 4, 5, 6, 7, 8, 9] → (u.slot s.cur).getG n = 0 := by
  intro core t regs
  obtain ⟨now, c, hs, hpass⟩ := startFromEntry_task s (slotCore s.cur) cls i hk
  rw [hc, slotCore_mod] at hs
  refine ⟨_, unitStart_takes he hi hw hp, ?_⟩
  rw [hs]
  have hd : ([2, 4, 5, 6, 7, 8, 9] : List Nat).Nodup := by decide
  exact ⟨started_startSlot _ _ _ _ _, hpass, fun n v hn hm => startSlot_getG _ _ _ _ hd hn hm, fun n hn => startSlot_getG_zero _ _ _ _ hn⟩

/-- The start of a unit from a WAKE entry without a GEN (R31, R327). -/
theorem unitStart_wake {s : State} {cls i : Nat} {h : W64} (he : s.slotEntry s.cur = some (cls, i, h))
    (hc : clsSlot ((s.core (slotCore s.cur)).cls cls) = s.cur % 8) (hi : (s.slot s.cur).st = .idle)
    (hw : s.wakeEntry s.cur = none) (hp : s.padClass s.cur = none) (hk : bits h 7 0 = 2) :
    let core := slotCore s.cur; let t := s.slot s.cur; let regs := wakeRegs s core cls i t
    ∃ u : State, exec .unitStart s = .next u ∧ Started t (u.slot s.cur) (wakeRecord s core cls i h) ∧
      (∀ n v, n ≠ 0 → (n, v) ∈ regs → (u.slot s.cur).getG n = v) ∧ ∀ n, n ∉ [2, 4, 5] → (u.slot s.cur).getG n = 0 := by
  intro core t regs
  obtain ⟨now, c, hs⟩ := startFromEntry_wake s (slotCore s.cur) cls i hk
  rw [hc, slotCore_mod] at hs
  refine ⟨_, unitStart_takes he hi hw hp, ?_⟩
  rw [hs]
  have hd : ([2, 4, 5, 8, 9] : List Nat).Nodup := by decide
  have hg (n : Nat) (v : W64) (hn : n ≠ 0) (hm : (n, v) ∈ regs) := startSlot_getG (s.slot s.cur) (wakeRecord s core cls i h) (regs := regs) now c hd hn hm
  refine ⟨started_startSlot _ _ _ _ _, hg, fun n hn => ?_⟩
  by_cases h8 : n = 8
  · subst h8
    exact hg 8 0 (by decide) (by simp [regs, wakeRegs])
  · by_cases h9 : n = 9
    · subst h9
      exact hg 9 0 (by decide) (by simp [regs, wakeRegs])
    · refine startSlot_getG_zero _ _ _ _ fun hm => ?_
      simp only [wakeRegs, List.map_cons, List.map_nil, List.mem_cons, List.not_mem_nil, or_false] at hm hn
      omega

/-! ## Pre-emption (R182, R183) -/

theorem timersFold_slots {α : Type} (f : State → α → Sp (List Op)) (l : List α) (s : State) :
    (l.foldl (fun s a => { s with timers := f s a }) s).slots = s.slots ∧ (l.foldl (fun s a => { s with timers := f s a }) s).cores = s.cores := by
  induction l generalizing s with
  | nil => exact ⟨rfl, rfl⟩
  | cons a l ih => exact ih _

theorem dropPreempt_slots (s : State) (slot : Nat) : (dropPreempt s slot).slots = (s.updSlot slot fun t => { t with preempt := none }).slots :=
  (timersFold_slots _ _ _).1

theorem dropPreempt_framefull (s : State) (slot : Nat) :
    ((dropPreempt s slot).core (slotCore slot)).count.framefull = (s.core (slotCore slot)).count.framefull + 1 := by
  have h : (dropPreempt s slot).cores = ((s.updSlot slot fun t => { t with preempt := none }).updCore (slotCore slot) fun k =>
      { k with count := { k.count with framefull := k.count.framefull + 1 } }).cores := (timersFold_slots _ _ _).2
  unfold State.core at h ⊢
  rw [h]
  exact congrArg (fun c : Core => c.count.framefull) (State.updCore_core_self _ _ _)

/-- What a pre-emption leaves: the context saved in its slot, or the request dropped and counted and the unit as it was. -/
structure Preempted (s u : State) : Prop where
  others : ∀ j, j ≠ s.cur → u.slot j = s.slot j
  here : ((u.slot s.cur).st = .idle ∧ ∃ c, (u.slot s.cur).saved = (s.slot s.cur).saved ++ [c] ∧ c.gen = (s.slot s.cur).gen ∧ c.fault = false ∧ c.back = .ready) ∨
    ((u.slot s.cur).st ≠ .idle ∧ (u.slot s.cur).preempt = none ∧ (u.slot s.cur).g = (s.slot s.cur).g ∧ (u.slot s.cur).pc = (s.slot s.cur).pc ∧
      (u.core (slotCore s.cur)).count.framefull = (s.core (slotCore s.cur)).count.framefull + 1)

theorem preempted_dropPreempt {s : State} (h : (s.slot s.cur).st ≠ .idle) : Preempted s (dropPreempt s s.cur) := by
  have hs (j : Nat) : (dropPreempt s s.cur).slot j = (s.updSlot s.cur fun t => { t with preempt := none }).slot j := by
    unfold State.slot
    rw [dropPreempt_slots]
  refine ⟨fun j hj => ?_, .inr ?_⟩
  · rw [hs, State.updSlot_slot, if_neg hj]
  · rw [hs, State.updSlot_slot_self]
    exact ⟨h, rfl, rfl, rfl, dropPreempt_framefull s s.cur⟩

/-- A context saved from a state that differs in the waiting of its slot alone. -/
theorem preempted_saveContext {s t u : State} {kind : Nat} {pc : Pc} {live : Nat} (hk : (kind == 2) = false)
    (ho : ∀ j, j ≠ s.cur → t.slot j = s.slot j) (hg : SameUnit (s.slot s.cur) { t.slot s.cur with st := (s.slot s.cur).st })
    (h : saveContext t s.cur kind pc live [] .ready [] = some u) : Preempted s u := by
  obtain ⟨c, v, hc, hb, rfl⟩ := saveContext_some h
  refine ⟨fun j hj => ?_, .inl ?_⟩
  · rw [State.setSlot_slot_other _ _ _ _ hj, hb.slot, ho j hj]
  · rw [State.setSlot_slot_self]
    refine ⟨rfl, c, congrArg (· ++ [c]) hg.saved, hc.gen.trans hg.gen, hc.fault.trans hk, hc.back⟩

theorem preempted_preemptSave {s : State} (h : (s.slot s.cur).st ≠ .idle) {kind : Nat} (hk : (kind == 2) = false) (pc : Pc) (live : Nat) :
    Preempted s (preemptSave s s.cur kind pc live) := by
  unfold preemptSave
  split
  · next hs => exact preempted_saveContext hk (fun _ _ => rfl) ⟨rfl, rfl, rfl, rfl⟩ hs
  · exact preempted_dropPreempt h

/-- A unit that stands at a group that has not issued is saved at a listed point, and at no other. -/
theorem preemption_atGroup {s : State} (ha : (s.slot s.cur).atGroup = true) (ho : s.openWait s.cur = false) :
    preemption s = match sideEntry s (slotCore s.cur) (s.slot s.cur).pc.toNat with
      | some live => preemptSave s s.cur 0 (s.slot s.cur).pc live
      | none => s := by
  unfold preemption
  dsimp only
  rw [ho, ha]
  rfl

theorem preemption_unlisted {s : State} (ha : (s.slot s.cur).atGroup = true) (ho : s.openWait s.cur = false)
    (hn : sideEntry s (slotCore s.cur) (s.slot s.cur).pc.toNat = none) : exec .preemption s = .next s := by
  have h : preemption s = s := by rw [preemption_atGroup ha ho, hn]
  exact congrArg Host.Outcome.next h

theorem preemption_listed {s : State} (ha : (s.slot s.cur).atGroup = true) (ho : s.openWait s.cur = false) (hi : (s.slot s.cur).st ≠ .idle)
    (hn : (sideEntry s (slotCore s.cur) (s.slot s.cur).pc.toNat).isSome = true) : ∃ u : State, exec .preemption s = .next u ∧ Preempted s u := by
  obtain ⟨live, hl⟩ := Option.isSome_iff_exists.1 hn
  refine ⟨preemption s, rfl, ?_⟩
  rw [preemption_atGroup ha ho, hl]
  exact preempted_preemptSave hi rfl _ _

/-- A wait of the core's own is withdrawn by letting the slot go on. -/
theorem preemption_open {s : State} (hw : withdraw s s.cur = s.updSlot s.cur fun t => { t with st := .ready }) (ho : s.openWait s.cur = true)
    (hi : (s.slot s.cur).st ≠ .idle) : ∃ u : State, exec .preemption s = .next u ∧ Preempted s u := by
  refine ⟨preemption s, rfl, ?_⟩
  unfold preemption
  dsimp only
  rw [if_pos ho, hw]
  split
  · next hs =>
    refine preempted_saveContext (kind := 1) rfl (fun j hj => ?_) ?_ hs
    · rw [State.updSlot_slot, if_neg hj]
    · rw [State.updSlot_slot_self]
      exact ⟨rfl, rfl, rfl, rfl⟩
  · exact preempted_dropPreempt hi

theorem withdraw_port {s : State} {port : Nat} (h : (s.slot s.cur).st = .waiting (.portIn port) ∨ (s.slot s.cur).st = .waiting (.portOut port)) :
    withdraw s s.cur = s.updSlot s.cur fun t => { t with st := .ready } := by
  unfold withdraw
  dsimp only
  rcases h with h | h
  · rw [h]
  · rw [h]

theorem openWait_port {s : State} {port : Nat} (h : (s.slot s.cur).st = .waiting (.portIn port) ∨ (s.slot s.cur).st = .waiting (.portOut port)) :
    s.openWait s.cur = true := by
  unfold State.openWait
  rcases h with h | h
  · rw [h]
  · rw [h]

/-- Ready, or waiting for a register: a unit stands at a group, and its wait is none that pre-emption withdraws. -/
theorem atGroup_of {s : State} (h : (s.slot s.cur).st = .ready ∨ ∃ code, (s.slot s.cur).st = .waiting (.reg code)) :
    (s.slot s.cur).atGroup = true ∧ s.openWait s.cur = false ∧ (s.slot s.cur).st ≠ .idle := by
  unfold Slot.atGroup State.openWait
  rcases h with h | ⟨code, h⟩
  · rw [h]
    exact ⟨rfl, rfl, nofun⟩
  · rw [h]
    exact ⟨rfl, rfl, nofun⟩

theorem preemptionForced_preempts {s : State} (h : (s.slot s.cur).st ≠ .idle) : ∃ u : State, exec .preemptionForced s = .next u ∧ Preempted s u :=
  ⟨preemptionForced s, rfl, preempted_preemptSave h rfl _ _⟩

/-! ## Requests for a pre-emption (R182) -/

/-- A slot that is asked notes the request where it runs the unit, and does nothing where it runs another. -/
theorem askSlot_resident {s : State} {slot : Nat} {gen : BitVec 32} (hh : s.clusterHalted (slotCluster slot) = false)
    (hi : (s.slot slot).st ≠ .idle) (hg : (s.slot slot).gen = gen) :
    askSlot s slot gen = s.updSlot slot fun t => { t with preempt := some (t.preempt.getD 0) } := by
  unfold askSlot
  rw [hh, if_neg Bool.false_ne_true, if_neg (not_or.2 ⟨hi, not_not.2 hg⟩)]

theorem askSlot_gone {s : State} {slot : Nat} {gen : BitVec 32} (hh : s.clusterHalted (slotCluster slot) = false)
    (hn : (s.slot slot).st = .idle ∨ (s.slot slot).gen ≠ gen) : askSlot s slot gen = s := by
  unfold askSlot
  rw [hh, if_neg Bool.false_ne_true, if_pos hn]

theorem preemptRequest_asks {s : State} {slot gen : W64} (hd : s.data = [slot, gen]) (hh : s.clusterHalted (slotCluster slot.toNat) = false) :
    let q := s.slot slot.toNat
    ∃ u : State, exec .preemptRequest s = .next u ∧ u.agenda = s.agenda ∧
      (q.st = .idle ∨ q.gen ≠ gen.setWidth 32 → u = s) ∧
      (q.st ≠ .idle → q.gen = gen.setWidth 32 → (u.slot slot.toNat).preempt = some (q.preempt.getD 0) ∧ (u.slot slot.toNat).g = q.g) := by
  intro q
  have hp : preemptRequest s = askSlot s slot.toNat (gen.setWidth 32) := by
    unfold preemptRequest
    rw [hd]
  refine ⟨preemptRequest s, rfl, ?_, fun hn => ?_, fun hi hg => ?_⟩
  · by_cases hn : q.st = .idle ∨ q.gen ≠ gen.setWidth 32
    · rw [hp, askSlot_gone hh hn]
    · obtain ⟨hi, hg⟩ := not_or.1 hn
      rw [hp, askSlot_resident hh hi (not_not.1 hg)]
      rfl
  · rw [hp, askSlot_gone hh hn]
  · rw [hp, askSlot_resident hh hi hg, State.updSlot_slot_self]
    exact ⟨rfl, rfl⟩

/-- A core of the cluster has an idle slot bound to the class of a record. -/
def idleFor (s : State) (c : Nat) (r : ReadyRec) : Bool :=
  (List.range 128).any fun k =>
    let w := (s.core (c * 128 + k)).cls r.body.cls
    clsOn w && (s.slot ((c * 128 + k) * 8 + clsSlot w)).st == .idle && s.coreVisible c k

/-- A record that waits and that no slot is asked for yet asks one, or is looked at again 4,096 cycles later. -/
theorem preemptRequest_timed {s : State} {r : ReadyRec} {v : W64} (hd : s.data = [v]) (hr : timedRecord s = some r) (ha : r.ask = none) :
    preemptRequest s = match if idleFor s s.cur r then none else preemptTarget s s.cur r with
      | none => s.opAt (s.now + 2 ^ 12) { who := s.cur, data := s.data, ins := .preemptRequest }
      | some slot => (askSlot s slot (s.slot slot).gen).updCluster s.cur fun x => { x with ready := x.ready.map fun q =>
          if q.seq = r.seq then { q with ask := some slot } else q } := by
  unfold preemptRequest
  dsimp only
  split
  · next h => rw [hd] at h; cases h
  · rw [hr]
    dsimp only
    rw [ha]
    rfl

theorem idleFor_iff {s : State} {c : Nat} {r : ReadyRec} : idleFor s c r = true ↔ ∃ k, k < 128 ∧ clsOn ((s.core (c * 128 + k)).cls r.body.cls) = true ∧
    (s.slot ((c * 128 + k) * 8 + clsSlot ((s.core (c * 128 + k)).cls r.body.cls))).st = .idle ∧ s.coreVisible c k = true := by
  simp [idleFor, and_assoc]

theorem clsSlot_lt (w : W64) : clsSlot w < 8 := by
  unfold clsSlot bits
  exact Nat.lt_of_lt_of_le (Nat.mod_lt _ (by decide)) (by decide)

/-- The slot that is asked runs a unit, and stands in the cluster. -/
theorem preemptTarget_some {s : State} {c slot : Nat} {r : ReadyRec} (h : preemptTarget s c r = some slot) :
    (s.slot slot).st ≠ .idle ∧ slotCluster slot = c := by
  obtain ⟨k, hk, rfl⟩ := Option.map_eq_some_iff.1 h
  obtain ⟨j, hj, rfl⟩ := List.mem_map.1 (List.mem_of_find?_eq_some hk)
  have hp := List.find?_some hk
  have hlt := clsSlot_lt ((s.core (c * 128 + j)).cls r.body.cls)
  have hj' := List.mem_range.1 hj
  refine ⟨fun hi => ?_, ?_⟩
  · simp [hi] at hp
  · unfold slotCluster
    omega

theorem preemptRequest_record {s : State} {r : ReadyRec} {v : W64} (hd : s.data = [v]) (hr : timedRecord s = some r) (ha : r.ask = none)
    (hh : s.clusterHalted s.cur = false) {slot : Nat} (hn : idleFor s s.cur r = false) (ht : preemptTarget s s.cur r = some slot) :
    ∃ u : State, exec .preemptRequest s = .next u ∧ (u.slot slot).preempt = some ((s.slot slot).preempt.getD 0) ∧
      (∀ j, j ≠ slot → u.slot j = s.slot j) ∧ ∀ q ∈ (u.cluster s.cur).ready, q.seq = r.seq → q.ask = some slot := by
  obtain ⟨hi, hc⟩ := preemptTarget_some ht
  refine ⟨preemptRequest s, rfl, ?_⟩
  rw [preemptRequest_timed hd hr ha, hn, if_neg Bool.false_ne_true, ht]
  dsimp only
  rw [askSlot_resident (hc ▸ hh) hi rfl]
  refine ⟨?_, fun j hj => ?_, fun q hq he => ?_⟩
  · rw [State.updCluster_slot', State.updSlot_slot_self]
  · rw [State.updCluster_slot', State.updSlot_slot, if_neg hj]
  · rw [State.updCluster_cluster_self] at hq
    obtain ⟨q', -, rfl⟩ := List.mem_map.1 hq
    by_cases h : q'.seq = r.seq
    · rw [if_pos h]
    · rw [if_neg h] at he
      exact absurd he h

theorem opAt_timers (s : State) (t : Nat) (o : Op) : o ∈ Sp.get [] (s.opAt t o).timers t := by
  rw [State.opAt, Sp.get_put_self]
  exact List.mem_append_right _ (.head _)

theorem preemptRequest_again {s : State} {r : ReadyRec} {v : W64} (hd : s.data = [v]) (hr : timedRecord s = some r) (ha : r.ask = none)
    (hn : idleFor s s.cur r = true) : ∃ u : State, exec .preemptRequest s = .next u ∧ u.slots = s.slots ∧ u.clusters = s.clusters ∧
      opD s.cur s.data .preemptRequest ∈ Sp.get [] u.timers (s.now + 4096) := by
  refine ⟨preemptRequest s, rfl, ?_⟩
  rw [preemptRequest_timed hd hr ha, hn, if_pos rfl]
  exact ⟨rfl, rfl, opAt_timers _ _ _⟩

/-! ## The life of a context -/

theorem contextEvents : Says.ContextEvents := by
  refine ⟨fun s => ?_, fun s c s1 img ext hc hr hw => ?_, fun s c s1 img ext w hc hr hw hv ha => contextRestore_traps hc hr hw hv ha, fun s cls i h he => ?_,
    fun s cls i h he => unitStart_passes he, fun s cls hw hp => unitStart_pads hw hp, fun s => ?_, fun s slot gen hd hh => preemptRequest_asks hd hh,
    fun s r v hd hr ha hh => ⟨fun slot hn ht => ?_, fun k hk hv hon hi => ?_⟩⟩
  · obtain ⟨u, he, hu, hp⟩ := faultSave_saves s
    exact ⟨u, he, hu.others, hu.here, hu.frameless, hp⟩
  · obtain ⟨u, he, hu⟩ := contextRestore_loads hc hr hw
    exact ⟨u, he, hu.pc, hu.st, hu.gen, hu.level, hu.trappc, hu.trapcause, hu.trapvec, hu.retired, hu.g, hu.v, hu.k, hu.full, hu.saved⟩
  · intro core t w info hc hi hw hp
    refine ⟨fun hk => ?_, fun hk _ => ?_⟩
    · obtain ⟨u, hu, hs, hpass, hg, hz⟩ := unitStart_task he hc hi hw hp hk
      refine ⟨u, hu, hs.st, hs.gen, hs.genNext, hs.pc, hs.level, hs.corr, hs.pool, ?_, hs.stktop, ?_, ?_, ?_, ?_, ?_, ?_, hz, hs.v, hs.k, hs.full,
        hs.trapvec, hs.trapcause, hs.waitpol, hs.outst, hs.stack, hpass.head, hpass.mem⟩ <;>
      exact hg _ _ (by decide) (by simp [taskRegs, core, t, w, info])
    · obtain ⟨u, hu, hs, hg, hz⟩ := unitStart_wake he hc hi hw hp hk
      exact ⟨u, hu, hs.st, hs.gen, hs.pc, hs.level, hs.corr, hg 4 _ (by decide) (by simp [wakeRegs, core, w]), hg 5 _ (by decide) (by simp [wakeRegs, core, w]), hz⟩
  · have hout {i : Instr} (h : ∃ u : State, exec i s = .next u ∧ Preempted s u) := h.imp fun u hu => And.imp_right (fun p => And.intro p.others p.here) hu
    refine ⟨fun h => ?_, fun h hn => ?_, fun h hn => ?_, fun code h hn => ?_, fun code h hn => ?_, fun port h => ?_⟩
    · exact hout (preemptionForced_preempts (atGroup_of (.inl h)).2.2)
    · obtain ⟨ha, ho, hi⟩ := atGroup_of (.inl h)
      exact preemption_unlisted ha ho hn
    · obtain ⟨ha, ho, hi⟩ := atGroup_of (.inl h)
      exact hout (preemption_listed ha ho hi hn)
    · obtain ⟨ha, ho, hi⟩ := atGroup_of (.inr ⟨code, h⟩)
      exact preemption_unlisted ha ho hn
    · obtain ⟨ha, ho, hi⟩ := atGroup_of (.inr ⟨code, h⟩)
      exact hout (preemption_listed ha ho hi hn)
    · have hi : (s.slot s.cur).st ≠ .idle := by
        rcases h with h | h
        · rw [h]; exact nofun
        · rw [h]; exact nofun
      exact hout (preemption_open (withdraw_port h) (openWait_port h) hi)
  · refine preemptRequest_record hd hr ha hh (Bool.eq_false_iff.2 fun hf => ?_) ht
    obtain ⟨k, hk, hon, hi, hv⟩ := idleFor_iff.1 hf
    exact hn k hk hon hv hi
  · exact preemptRequest_again hd hr ha (idleFor_iff.2 ⟨k, hk, hon, hi, hv⟩)

end Sys2Proof.Machine
end

section
/-! SUPPORT. The fault tree and memory's own events (R66, R70, R73, R74), and why O40 stays open: whether it holds turns on constants of Config that
no proof can know. -/

namespace Sys2Proof.Machine
open Sys2Proof

/-! ## A record at a router (R73) -/

/-- The child from which a record has come: its port, and its own path where it came unmerged. -/
def childOf (port : Nat) (f : FaultRec) : Nat × Option Nat := (port, if f.loose then some f.src else none)

/-- A merge entry of a record's page notes a further child. -/
def noteChild (port : Nat) (f : FaultRec) (e : MergeEntry) : MergeEntry :=
  if e.part = f.part ∧ e.page = f.page then
    { e with ports := if e.ports.contains port then e.ports else e.ports ++ [port],
             paths := if e.paths.contains (childOf port f) then e.paths else e.paths ++ [childOf port f] }
  else e

theorem mem_addOnce {α : Type} [BEq α] [LawfulBEq α] (l : List α) (a : α) : a ∈ (if l.contains a then l else l ++ [a]) := by
  split
  · next h => exact List.contains_iff_mem.1 h
  · exact List.mem_append_right _ (.head _)

theorem faultRecordAt_merged {s : State} {r port : Nat} {f : FaultRec} {e : MergeEntry}
    (h : (s.router r).merge.find? (fun e => e.part == f.part && e.page == f.page) = some e) :
    faultRecordAt s r port f = s.setRouter r { s.router r with merge := (s.router r).merge.map (noteChild port f) } := by
  unfold faultRecordAt
  dsimp only
  rw [h]
  rfl

theorem faultRecord_merges {s : State} {r port : Nat} {f : FaultRec} {e : MergeEntry}
    (h : (s.router r).merge.find? (fun e => e.part == f.part && e.page == f.page) = some e) :
    ∃ t : State, exec (.faultRecordAtRouter r port f) s = .next t ∧ t.agenda = s.agenda ∧ t.slots = s.slots ∧
      ∀ e ∈ (t.router r).merge, (e.part == f.part && e.page == f.page) = true → port ∈ e.ports ∧ childOf port f ∈ e.paths := by
  refine ⟨faultRecordAt s r port f, rfl, ?_⟩
  rw [faultRecordAt_merged h]
  refine ⟨rfl, rfl, fun e he hh => ?_⟩
  rw [State.setRouter_router_self] at he
  obtain ⟨e', -, rfl⟩ := List.mem_map.1 he
  by_cases hc : e'.part = f.part ∧ e'.page = f.page
  · rw [noteChild, if_pos hc]
    exact ⟨mem_addOnce _ _, mem_addOnce _ _⟩
  · rw [noteChild, if_neg hc] at hh
    exact absurd (by simpa using hh) hc

/-- A record goes on from a router: to the next one, or to the service's answer. -/
def recordOn (s : State) (r : Nat) (f : FaultRec) (loose : Bool) : State :=
  if r = s.serviceRouter f.part then serviceAnswers s r f loose
  else s.post (.faultRecordAtRouter (routerStep r (s.portTo r (s.serviceRouter f.part))) (backPort (s.portTo r (s.serviceRouter f.part)))
    { f with loose := loose })

/-- A record is entered at a router. -/
def entered (s : State) (r port : Nat) (f : FaultRec) : State :=
  s.setRouter r { s.router r with merge := (s.router r).merge ++
    [{ part := f.part, page := f.page, ports := [port], paths := [childOf port f] }] }

theorem entered_portTo (s : State) (r port dst : Nat) (f : FaultRec) : (entered s r port f).portTo r dst = s.portTo r dst := by
  unfold State.portTo entered
  rw [State.setRouter_router_self]

theorem faultRecordAt_new {s : State} {r port : Nat} {f : FaultRec}
    (h : (s.router r).merge.find? (fun e => e.part == f.part && e.page == f.page) = none) : faultRecordAt s r port f =
      if (s.router r).merge.length < 64 then recordOn (entered s r port f) r f false else recordOn s r f true := by
  unfold faultRecordAt
  dsimp only
  rw [h]
  rfl

/-- A record that goes on to the next router is put in flight there, and the routers stand. -/
theorem recordOn_next {s : State} {r : Nat} {f : FaultRec} (loose : Bool) (h : r ≠ s.serviceRouter f.part) :
    let p := s.portTo r (s.serviceRouter f.part)
    (recordOn s r f loose).router r = s.router r ∧ (recordOn s r f loose).agenda =
      s.agenda ++ [{ ins := .faultRecordAtRouter (routerStep r p) (backPort p) { f with loose := loose } }] := by
  unfold recordOn
  rw [if_neg h]
  exact ⟨rfl, rfl⟩

theorem faultRecord_enters {s : State} {r port : Nat} {f : FaultRec}
    (h : (s.router r).merge.find? (fun e => e.part == f.part && e.page == f.page) = none) (hl : (s.router r).merge.length < 64)
    (hr : r ≠ s.serviceRouter f.part) : let p := s.portTo r (s.serviceRouter f.part)
    ∃ t : State, exec (.faultRecordAtRouter r port f) s = .next t ∧
      (t.router r).merge = (s.router r).merge ++ [{ part := f.part, page := f.page, ports := [port], paths := [childOf port f] }] ∧
      t.agenda = s.agenda ++ [{ ins := .faultRecordAtRouter (routerStep r p) (backPort p) { f with loose := false } }] := by
  intro p
  obtain ⟨ht, ha⟩ := recordOn_next (s := entered s r port f) (r := r) (f := f) false hr
  refine ⟨faultRecordAt s r port f, rfl, ?_⟩
  rw [faultRecordAt_new h, if_pos hl, ht, ha, entered_portTo]
  refine ⟨?_, rfl⟩
  rw [entered, State.setRouter_router_self]

theorem faultRecord_passes {s : State} {r port : Nat} {f : FaultRec}
    (h : (s.router r).merge.find? (fun e => e.part == f.part && e.page == f.page) = none) (hl : 64 ≤ (s.router r).merge.length)
    (hr : r ≠ s.serviceRouter f.part) : let p := s.portTo r (s.serviceRouter f.part)
    ∃ t : State, exec (.faultRecordAtRouter r port f) s = .next t ∧ (t.router r).merge = (s.router r).merge ∧
      t.agenda = s.agenda ++ [{ ins := .faultRecordAtRouter (routerStep r p) (backPort p) { f with loose := true } }] := by
  intro p
  obtain ⟨ht, ha⟩ := recordOn_next (s := s) (r := r) (f := f) true hr
  refine ⟨faultRecordAt s r port f, rfl, ?_⟩
  rw [faultRecordAt_new h, if_neg (Nat.not_lt.2 hl), ht, ha]
  exact ⟨rfl, rfl⟩

/-! ## The fault service's answer (R74, R442) -/

/-- The fault service gives some page a frame: what Config's constants say of it, which no proof knows. -/
def ServiceMaps : Prop := ∃ k f, Config.verdict (k + 1) = true ∧ Config.serviceFrame (k + 1) = some f ∧ f < 49152

theorem mapPage_bad (s : State) (part page : Nat) {f : Nat} (h : 49152 ≤ f) : s.mapPage part page f = s := by
  unfold State.mapPage
  dsimp only
  split
  · rfl
  · rw [if_pos (.inr (.inr h))]

/-- A service that gives no frame answers with its verdict alone. -/
theorem serviceAnswers_unmapped (hm : ¬ ServiceMaps) (s : State) (r : Nat) (f : FaultRec) (loose : Bool) : serviceAnswers s r f loose =
    s.tick.post (.faultWakeAtRouter r { part := f.part, page := f.page, ready := Config.verdict (s.ticket + 1), via := if loose then some f.src else none }) := by
  unfold serviceAnswers
  dsimp only
  split
  · next frame h =>
    split at h
    · next hv =>
      rw [mapPage_bad _ _ _ (Nat.le_of_not_lt fun hf => hm ⟨s.ticket, frame, hv, h, hf⟩)]
      rfl
    · cases h
  · rfl

theorem faultRecord_answered (hm : ¬ ServiceMaps) {s : State} {r port : Nat} {f : FaultRec}
    (h : (s.router r).merge.find? (fun e => e.part == f.part && e.page == f.page) = none) (hr : r = s.serviceRouter f.part) :
    ∃ (t : State) (b : Bool), exec (.faultRecordAtRouter r port f) s = .next t ∧ t.slots = s.slots ∧ (b = false → t.mem = s.mem) ∧
      t.agenda = s.agenda ++ [opD 0 [] (.faultWakeAtRouter r
        { part := f.part, page := f.page, ready := b, via := if (s.router r).merge.length < 64 then none else some f.src })] := by
  refine ⟨faultRecordAt s r port f, Config.verdict (s.ticket + 1), rfl, ?_⟩
  rw [faultRecordAt_new h]
  by_cases hl : (s.router r).merge.length < 64
  · rw [if_pos hl, if_pos hl, recordOn, if_pos (show r = (entered s r port f).serviceRouter f.part from hr), serviceAnswers_unmapped hm]
    exact ⟨rfl, fun _ => rfl, rfl⟩
  · rw [if_neg hl, if_neg hl, recordOn, if_pos hr, serviceAnswers_unmapped hm]
    exact ⟨rfl, fun _ => rfl, rfl⟩

/-! ## A wake at a router and at a cluster (R73, R74) -/

/-- The copy of a wake that goes to one child of a merge entry. -/
def wakeOp (r : Nat) (w : Wake) (p : Nat × Option Nat) : Op :=
  opD 0 [] (if p.1 = 0 then .faultWake r { w with via := p.2 } else .faultWakeAtRouter (routerStep r p.1) { w with via := p.2 })

/-- The copies of a wake are put in flight in order, and nothing else changes. -/
theorem wakes_posted (r : Nat) (w : Wake) (l : List (Nat × Option Nat)) (s : State) :
    l.foldl (fun s p => if p.1 = 0 then s.post (.faultWake r { w with via := p.2 })
      else s.post (.faultWakeAtRouter (routerStep r p.1) { w with via := p.2 })) s = { s with agenda := s.agenda ++ l.map (wakeOp r w) } := by
  have hstep (s : State) (p : Nat × Option Nat) : (if p.1 = 0 then s.post (.faultWake r { w with via := p.2 })
      else s.post (.faultWakeAtRouter (routerStep r p.1) { w with via := p.2 })) = s.postOp (wakeOp r w p) := by
    unfold wakeOp
    split
    · rfl
    · rfl
  induction l generalizing s with
  | nil => rw [List.map_nil, List.append_nil]; rfl
  | cons p l ih =>
    rw [List.foldl_cons, hstep, ih, List.map_cons, List.append_cons]
    rfl

theorem faultWakeAt_found {s : State} {r : Nat} {w : Wake} {e : MergeEntry}
    (h : (s.router r).merge.find? (fun e => e.part == w.part && e.page == w.page) = some e) (hv : w.via = none ∨ ∃ p ∈ e.paths, p.2 = w.via) :
    ∃ t : State, exec (.faultWakeAtRouter r w) s = .next t ∧ (∀ q ∈ (t.router r).merge, ¬(q.part = w.part ∧ q.page = w.page)) ∧
      t.agenda = s.agenda ++ e.paths.map (wakeOp r w) := by
  have hn : ¬(w.via.isSome = true ∧ e.paths.all (fun p => p.2 != w.via) = true) := by
    rintro ⟨hs, ha⟩
    rcases hv with hv | ⟨p, hp, hpv⟩
    · rw [hv] at hs
      cases hs
    · exact bne_iff_ne.1 (List.all_eq_true.1 ha p hp) hpv
  refine ⟨faultWakeAt s r w, rfl, ?_⟩
  unfold faultWakeAt
  dsimp only
  rw [h]
  dsimp only
  rw [if_neg hn, wakes_posted]
  refine ⟨fun q hq hpg => ?_, rfl⟩
  have hq' : q ∈ ((s.setRouter r { s.router r with merge := (s.router r).merge.filter fun e =>
    !(e.part == w.part && e.page == w.page) }).router r).merge := hq
  rw [State.setRouter_router_self] at hq'
  have hf := (List.mem_filter.1 hq').2
  simp [hpg.1, hpg.2] at hf

theorem faultWakeAt_along {s : State} {r : Nat} {w : Wake}
    (h : (s.router r).merge.find? (fun e => e.part == w.part && e.page == w.page) = none) : faultWakeAt s r w = wakeAlong s r w := by
  unfold faultWakeAt
  dsimp only
  rw [h]

theorem faultWakeAt_missing {s : State} {r : Nat} {w : Wake}
    (h : (s.router r).merge.find? (fun e => e.part == w.part && e.page == w.page) = none) :
    ∃ t : State, exec (.faultWakeAtRouter r w) s = .next t ∧ t.slots = s.slots ∧ t.routers = s.routers ∧
      (w.via = none → t = s) ∧ (w.via = some r → t.agenda = s.agenda ++ [{ ins := .faultWake r w }]) ∧
      (∀ c q, w.via = some c → c ≠ r → routerBefore r (pathTo s c (s.serviceRouter w.part) 32) = some q →
        t.agenda = s.agenda ++ [{ ins := .faultWakeAtRouter q w }]) := by
  refine ⟨faultWakeAt s r w, rfl, ?_⟩
  rw [faultWakeAt_along h]
  unfold wakeAlong
  split
  · next hv =>
    rw [hv]
    exact ⟨rfl, rfl, fun _ => rfl, nofun, nofun⟩
  · next c hv =>
    split
    · next hc =>
      exact ⟨rfl, rfl, fun h => absurd (hv.symm.trans h) nofun, fun _ => rfl, fun c' q h hn => absurd (hc ▸ Option.some.inj (hv.symm.trans h)).symm hn⟩
    · next hc =>
      have hr : w.via ≠ some r := fun h => hc (Option.some.inj (hv.symm.trans h))
      split
      · next q hq =>
        refine ⟨rfl, rfl, fun h => absurd (hv.symm.trans h) nofun, fun h => absurd h hr, fun c' q' h _ hb => ?_⟩
        obtain rfl := Option.some.inj (hv.symm.trans h)
        obtain rfl := Option.some.inj (hq.symm.trans hb)
        rfl
      · next hq =>
        refine ⟨rfl, rfl, fun h => absurd (hv.symm.trans h) nofun, fun h => absurd h hr, fun c' q' h _ hb => ?_⟩
        obtain rfl := Option.some.inj (hv.symm.trans h)
        exact absurd (hq.symm.trans hb) nofun

/-- A saved context that waits for the page takes the wake. -/
theorem wakeSlot_saved {s : State} {slot page : Nat} {gen : BitVec 32} (ready : Bool) {k : Saved} (hk : k ∈ (s.slot slot).saved) (hg : k.gen = gen)
    (hw : k.wake = none) (hp : page ∈ k.pages) :
    { k with wake := some (s.now, ready) } ∈ ((wakeSlot s slot gen page ready).slot slot).saved ∧
      (wakeSlot s slot gen page ready).mem = s.mem ∧ (wakeSlot s slot gen page ready).clusters = s.clusters := by
  have ha : (s.slot slot).saved.any (fun c => c.gen == gen) = true := List.any_eq_true.2 ⟨k, hk, beq_iff_eq.2 hg⟩
  unfold wakeSlot
  dsimp only
  rw [if_pos ha]
  refine ⟨?_, rfl, rfl⟩
  rw [State.setSlot_slot_self]
  refine List.mem_map.2 ⟨k, hk, ?_⟩
  rw [if_pos ⟨hg, by rw [hw]; rfl, by simpa using hp⟩]

theorem faultWake_reaches {s : State} {c : Nat} {w : Wake} {r : FaultRec} {k : Saved} (hh : (s.cluster c).dbgctl.getLsbD 0 = false)
    (hf : (s.cluster c).faultWait = [r]) (hp : r.part = w.part) (hg : r.page = w.page) (he : r.engine = 0) (hk : k ∈ (s.slot r.slot).saved)
    (hkg : k.gen = r.gen) (hkw : k.wake = none) (hkp : w.page ∈ k.pages) : ∃ t : State, exec (.faultWake c w) s = .next t ∧
      (t.cluster c).faultWait = [] ∧ { k with wake := some (s.now, w.ready) } ∈ (t.slot r.slot).saved ∧ t.mem = s.mem := by
  have hc : s.clusterHalted c = false := hh
  have hb : (r.part == w.part && r.page == w.page) = true := by simp [hp, hg]
  have hw : faultWake s c w = wakeOne (s.updCluster c fun k => { k with faultWait := [] }) c w r := by
    have hl : (s.cluster c).faultWait.filter (fun r => r.part == w.part && r.page == w.page && !(false && r.engine == 0)) = [r] := by
      rw [hf, List.filter_cons_of_pos (by simp [hb]), List.filter_nil]
    have hn : (s.cluster c).faultWait.filter (fun r => !(r.part == w.part && r.page == w.page && !(false && r.engine == 0))) = [] := by
      rw [hf, List.filter_cons_of_neg (by simp [hb]), List.filter_nil]
    have hu : (s.updCluster c fun k => { k with faultWait := k.faultWait.filter fun r =>
        !(r.part == w.part && r.page == w.page && !(false && r.engine == 0)) }) = s.updCluster c fun k => { k with faultWait := [] } := by
      unfold State.updCluster
      dsimp only
      rw [hn]
    unfold faultWake
    dsimp only
    rw [hc, hl, hu, State.updCluster_cluster_self]
    rfl
  have hone (t : State) : wakeOne t c w r = wakeSlot t r.slot r.gen w.page w.ready := by
    unfold wakeOne
    rw [he]
    rfl
  obtain ⟨hs, hm, hcl⟩ := wakeSlot_saved (s := s.updCluster c fun k => { k with faultWait := [] }) w.ready hk hkg hkw hkp
  refine ⟨faultWake s c w, rfl, ?_⟩
  rw [hw, hone]
  refine ⟨?_, hs, hm⟩
  unfold State.cluster
  rw [hcl]
  exact congrArg Cluster.faultWait (State.updCluster_cluster_self s c fun k => { k with faultWait := [] })

/-! ## A shoot-down (R66) -/

theorem Sp.find_mapVals {α β : Type} (f : α → β) (m : Sp α) (k : Nat) : Sp.find (m.map fun x => (x.1, f x.2)) k = (Sp.find m k).map f := by
  induction m with
  | nil => rfl
  | cons x m ih =>
    rw [List.map_cons, Sp.find, Sp.find, ih]
    split
    · rfl
    · rfl

/-- A slice without the translations of a partition. -/
def Slice.without (part : Nat) (x : Slice) : Slice := { x with tcache := x.tcache.filter fun e => e.1 / 2 ^ 30 != part }

theorem shootdown_drops (s : State) : ∃ t : State, exec .shootdown s = .next t ∧ t.mem = s.mem ∧ t.slots = s.slots ∧
    ∀ i, (t.slice i).tcache = (s.slice i).tcache.filter fun e => e.1 / 2 ^ 30 != s.cur := by
  refine ⟨shootdown s, rfl, rfl, rfl, fun i => ?_⟩
  have hm : (shootdown s).slices = s.slices.map fun x => (x.1, x.2.without s.cur) := rfl
  unfold State.slice Sp.get
  rw [hm, Sp.find_mapVals]
  cases Sp.find s.slices i with
  | none => rfl
  | some x => rfl

/-! ## ECC errors (R70) -/

/-- The reader of a word is gone, and the partitions, memory and all else it might lean on stand. -/
structure ReaderGone (s t : State) : Prop where
  mem : t.mem = s.mem
  parts : t.parts = s.parts

/-- What is in flight for a request is dropped; of slots, memory and partitions nothing changes. -/
theorem dropFlying_eq (s : State) (slot : Nat) (gen : BitVec 32) (tag : Nat) : dropFlying s slot gen tag =
    { s with clusters := (dropFlying s slot gen tag).clusters, nis := (dropFlying s slot gen tag).nis,
             slices := (dropFlying s slot gen tag).slices, agenda := s.agenda.filter fun o => !opOfTag slot gen tag o } := by
  unfold dropFlying
  dsimp only
  rw [deliverTags_eq]
  rfl

theorem readerGone_eccLost (s : State) (path who gen tag : Nat) : ReaderGone s (eccLost s path who gen tag) := by
  unfold eccLost
  split
  · rw [dropFlying_eq]
    exact ⟨rfl, rfl⟩
  · split
    · rw [dropCopy_eq]
      exact ⟨rfl, rfl⟩
    · exact ⟨rfl, rfl⟩
  · exact ⟨rfl, rfl⟩
  · split
    · dsimp only
      split
      · exact ⟨rfl, rfl⟩
      · exact ⟨rfl, rfl⟩
    · exact ⟨rfl, rfl⟩
    · exact ⟨rfl, rfl⟩
  · unfold issueLost
    dsimp only
    split
    · exact ⟨rfl, rfl⟩
    · exact ⟨rfl, rfl⟩

/-- The resets that an uncorrectable error asks for. -/
def resetsAsked (s : State) (ps : List W64) : List Op :=
  (ps.filter fun p => (s.part p.toNat).live).map fun p => opD p.toNat [2] .partitionReset

theorem resets_posted (ps : List W64) (s : State) :
    ps.foldl (fun s p => if (s.part p.toNat).live then s.postOp { who := p.toNat, data := [2], ins := .partitionReset } else s) s =
      { s with agenda := s.agenda ++ resetsAsked s ps } := by
  induction ps generalizing s with
  | nil => rw [resetsAsked, List.filter_nil, List.map_nil, List.append_nil]; rfl
  | cons p ps ih =>
    rw [List.foldl_cons, ih]
    by_cases h : (s.part p.toNat).live = true
    · rw [if_pos h]
      have hr : resetsAsked s (p :: ps) = opD p.toNat [2] .partitionReset :: resetsAsked s ps := by
        rw [resetsAsked, List.filter_cons, if_pos h, List.map_cons]; rfl
      rw [hr, List.append_cons]
      rfl
    · rw [if_neg h]
      have hr : resetsAsked s (p :: ps) = resetsAsked s ps := by rw [resetsAsked, List.filter_cons, if_neg h]; rfl
      rw [hr]

theorem eccUncorrectable_lost {s : State} {path who gen tag : W64} {ps : List W64} (hd : s.data = path :: who :: gen :: tag :: ps) :
    let t := eccLost s path.toNat who.toNat gen.toNat tag.toNat
    eccUncorrectable s = { t with agenda := t.agenda ++ resetsAsked s ps } := by
  intro t
  have hp : resetsAsked t ps = resetsAsked s ps := by
    unfold resetsAsked State.part
    rw [(readerGone_eccLost s path.toNat who.toNat gen.toNat tag.toNat).parts]
  rw [← hp, ← resets_posted]
  unfold eccUncorrectable
  rw [hd]

theorem mem_resetsAsked_iff {s : State} {ps : List W64} {o : Op} :
    o ∈ resetsAsked s ps ↔ ∃ p ∈ ps, (s.part p.toNat).live = true ∧ opD p.toNat [2] .partitionReset = o := by
  simp [resetsAsked, and_assoc]

theorem ins_of_mem_resetsAsked {s : State} {ps : List W64} {o : Op} (h : o ∈ resetsAsked s ps) : o.ins = .partitionReset := by
  obtain ⟨p, -, -, rfl⟩ := mem_resetsAsked_iff.1 h
  rfl

/-- What is in flight after an uncorrectable error, but for the resets, was so after the loss. -/
theorem mem_flight_of_ne_reset {s : State} {l : List Op} {ps : List W64} {o : Op} (h : o ∈ l ++ resetsAsked s ps) (hn : o.ins ≠ .partitionReset) : o ∈ l :=
  (List.mem_append.1 h).resolve_right fun h => hn (ins_of_mem_resetsAsked h)

/-- Path C: nothing answers the access any more. -/
theorem eccLost_access (s : State) (who gen tag : Nat) : (eccLost s 0 who gen tag).slots = s.slots ∧
    ∀ v : V512, ({ ins := .fill who (BitVec.ofNat 32 gen) tag v } : Op) ∉ (eccLost s 0 who gen tag).agenda := by
  have he : eccLost s 0 who gen tag = dropFlying s who (BitVec.ofNat 32 gen) tag := rfl
  rw [he, dropFlying_eq]
  refine ⟨rfl, fun v hv => ?_⟩
  have hf := (List.mem_filter.1 hv).2
  simp [opOfTag] at hf

/-- Path Y: the copy is gone. -/
theorem eccLost_copy (s : State) (who gen tag : Nat) : (eccLost s 1 who gen tag).slots = s.slots ∧ Sp.find (eccLost s 1 who gen tag).copies who = none := by
  have he : eccLost s 1 who gen tag = match Sp.find s.copies who with
    | some j => dropCopy s j who
    | none => s := rfl
  rw [he]
  split
  · rw [dropCopy_eq]
    exact ⟨rfl, Sp.find_erase_self _ _⟩
  · next h => exact ⟨rfl, h⟩

/-- Path T: the array waits for a page that no wake names. -/
theorem eccLost_array (s : State) (who gen tag : Nat) : (eccLost s 2 who gen tag).slots = s.slots ∧
    ((eccLost s 2 who gen tag).arr who).page = some (noPage, 0, 0) ∧ ∀ o ∈ (eccLost s 2 who gen tag).agenda, o.ins = .macroStep → o.who ≠ who := by
  refine ⟨rfl, ?_, fun o ho hi hw => ?_⟩
  · exact congrArg (fun c : Cluster => c.arr.page) (State.updCluster_cluster_self _ who _)
  · have hf := (List.mem_filter.1 (show o ∈ s.agenda.filter _ from ho)).2
    simp [hi, hw] at hf

/-- A host's read is no longer in flight. -/
def hostReads (who : Nat) (o : Op) : Bool := o.who == who && o.ins == .hostRmaRead

theorem eccLost_host_eq (s : State) (who tag : Nat) : eccLost s 3 who 0 tag =
    if s.agenda.any (hostReads who) then
      { s with agenda := s.agenda.filter (fun o => !hostReads who o), out := s.out ++ [{ who := who, status := 1, data := [] }] }
    else s := rfl

/-- Path Q: a host's read is answered with an error. -/
theorem eccLost_host (s : State) (who tag : Nat) : let t := eccLost s 3 who 0 tag
    t.slots = s.slots ∧ (∀ o ∈ t.agenda, o.ins = .hostRmaRead → o.who ≠ who) ∧
    ((∃ o ∈ s.agenda, o.ins = .hostRmaRead ∧ o.who = who) → t.out = s.out ++ [{ who := who, status := 1, data := [] }]) := by
  intro t
  have hr {o : Op} (hi : o.ins = .hostRmaRead) (hw : o.who = who) : hostReads who o = true := by simp [hostReads, hi, hw]
  have ht : t = _ := eccLost_host_eq s who tag
  by_cases ha : s.agenda.any (hostReads who) = true
  · rw [if_pos ha] at ht
    rw [ht]
    refine ⟨rfl, fun o ho hi hw => ?_, fun _ => rfl⟩
    have hf := (List.mem_filter.1 ho).2
    simp [hr hi hw] at hf
  · rw [if_neg ha] at ht
    rw [ht]
    refine ⟨rfl, fun o ho hi hw => ha (List.any_eq_true.2 ⟨o, ho, hr hi hw⟩), ?_⟩
    rintro ⟨o, ho, hi, hw⟩
    exact absurd (List.any_eq_true.2 ⟨o, ho, hr hi hw⟩) ha

/-- What a slot reads as it issues: its group waits for a value that does not come. -/
theorem eccLost_issue {s : State} {who gen : Nat} (tag : Nat) (hs : (s.slot who).st = .ready) (hg : (s.slot who).gen = BitVec.ofNat 32 gen) :
    let t := eccLost s 4 who gen tag
    (∃ g, (t.slot who).st = .waiting (.answer g)) ∧ (t.slot who).pc = (s.slot who).pc ∧ t.agenda = s.agenda := by
  intro t
  have hn : ¬((s.slot who).st = .idle ∨ (s.slot who).gen ≠ BitVec.ofNat 32 gen ∨ (!(s.slot who).atGroup) = true) := by
    simp [hs, hg, Slot.atGroup]
  have ht : t = issueLost s who (BitVec.ofNat 32 gen) tag := rfl
  rw [ht]
  unfold issueLost
  dsimp only
  rw [if_neg hn, State.setSlot_slot_self]
  refine ⟨⟨_, rfl⟩, ?_, rfl⟩
  dsimp only
  rw [Slot.markEmpty_rest]

theorem eccUncorrectable_loses {s : State} {path who gen tag : W64} {ps : List W64} (hd : s.data = path :: who :: gen :: tag :: ps) :
    ∃ t : State, exec .eccUncorrectable s = .next t ∧ t.mem = s.mem ∧ (∀ p ∈ ps, (s.part p.toNat).live = true → opD p.toNat [2] .partitionReset ∈ t.agenda) ∧
    (path = 0 → t.slots = s.slots ∧ ∀ v : V512, ({ ins := .fill who.toNat (gen.setWidth 32) tag.toNat v } : Op) ∉ t.agenda) ∧
    (path = 1 → t.slots = s.slots ∧ Sp.find t.copies who.toNat = none) ∧
    (path = 2 → t.slots = s.slots ∧ (t.arr who.toNat).page = some (noPage, 0, 0) ∧ ∀ o ∈ t.agenda, o.ins = .macroStep → o.who ≠ who.toNat) ∧
    (path = 3 → gen = 0 → t.slots = s.slots ∧ (∀ o ∈ t.agenda, o.ins = .hostRmaRead → o.who ≠ who.toNat) ∧
      ((∃ o ∈ s.agenda, o.ins = .hostRmaRead ∧ o.who = who.toNat) → t.out = s.out ++ [{ who := who.toNat, status := 1, data := [] }])) ∧
    (path = 4 → let q := s.slot who.toNat; q.st = .ready → q.gen = gen.setWidth 32 → ∃ g, (t.slot who.toNat).st = .waiting (.answer g) ∧
      (t.slot who.toNat).pc = q.pc ∧ ∀ v : V512, ({ ins := .fill who.toNat q.gen g v } : Op) ∈ t.agenda →
        ({ ins := .fill who.toNat q.gen g v } : Op) ∈ s.agenda) := by
  have hg := BitVec.ofNat_toNat 32 gen
  refine ⟨eccUncorrectable s, rfl, ?_⟩
  rw [eccUncorrectable_lost hd]
  refine ⟨(readerGone_eccLost _ _ _ _ _).mem, fun p hp hl => ?_, ?_, ?_, ?_, ?_, ?_⟩
  · exact List.mem_append_right _ (mem_resetsAsked_iff.2 ⟨p, hp, hl, rfl⟩)
  · rintro rfl
    obtain ⟨hs, hf⟩ := eccLost_access s who.toNat gen.toNat tag.toNat
    exact ⟨hs, fun v hv => hf v (hg ▸ mem_flight_of_ne_reset hv nofun)⟩
  · rintro rfl
    exact eccLost_copy s who.toNat gen.toNat tag.toNat
  · rintro rfl
    obtain ⟨hs, hp, hf⟩ := eccLost_array s who.toNat gen.toNat tag.toNat
    exact ⟨hs, hp, fun o ho hi => hf o (mem_flight_of_ne_reset ho (by rw [hi]; exact nofun)) hi⟩
  · rintro rfl rfl
    obtain ⟨hs, hf, ho⟩ := eccLost_host s who.toNat tag.toNat
    exact ⟨hs, fun o hm hi => hf o (mem_flight_of_ne_reset hm (by rw [hi]; exact nofun)) hi, ho⟩
  · rintro rfl q hs hq
    obtain ⟨⟨g, hst⟩, hpc, ha⟩ := eccLost_issue tag.toNat hs (hq.trans hg.symm)
    exact ⟨g, hst, hpc, fun v hv => ha ▸ mem_flight_of_ne_reset hv nofun⟩

/-- The count of a block goes up by one. -/
def eccCount (m : Sp (BitVec 32)) (block : Nat) : Sp (BitVec 32) := Sp.set 0 m block (Sp.get 0 m block + 1)

theorem get_eccCount (m : Sp (BitVec 32)) (block : Nat) : Sp.get 0 (eccCount m block) block = Sp.get 0 m block + 1 := Sp.get_set_self _ _ _ _

theorem eccCorrected_eq (s : State) (block n : Nat) : eccCorrected s block n =
    if block < 3 then s.updCore (s.cur * 128 + n % 128) fun c => { c with count := { c.count with eccfix := eccCount c.count.eccfix block } }
    else if block = 3 then s.updSlice s.cur fun x => { x with eccfix := x.eccfix + 1 }
    else if block < 9 then s.updCluster s.cur fun x => { x with eccfix := eccCount x.eccfix block }
    else s.updDev (clusterDev s.cur) fun v => { v with eccfix := eccCount v.eccfix block } := rfl

theorem eccUncorrectable_corrects {s : State} {block n : W64} (hd : s.data = [block, n]) : let core := s.cur * 128 + n.toNat % 128
    ∃ t : State, exec .eccUncorrectable s = .next t ∧ t.slots = s.slots ∧ t.mem = s.mem ∧
    (block = 3 → t.cores = s.cores ∧ (t.slice s.cur).eccfix = (s.slice s.cur).eccfix + 1) ∧
    (block.toNat < 3 → t.slices = s.slices ∧
      Sp.get 0 (t.core core).count.eccfix block.toNat = Sp.get 0 (s.core core).count.eccfix block.toNat + 1) ∧
    (3 < block.toNat → block.toNat < 9 → t.cores = s.cores ∧ t.slices = s.slices ∧
      Sp.get 0 (t.cluster s.cur).eccfix block.toNat = Sp.get 0 (s.cluster s.cur).eccfix block.toNat + 1) ∧
    (9 ≤ block.toNat → t.cores = s.cores ∧ t.slices = s.slices ∧ t.clusters = s.clusters ∧
      Sp.get 0 (t.dev (clusterDev s.cur)).eccfix block.toNat = Sp.get 0 (s.dev (clusterDev s.cur)).eccfix block.toNat + 1) := by
  intro core
  have he : eccUncorrectable s = eccCorrected s block.toNat n.toNat := by
    unfold eccUncorrectable
    rw [hd]
  refine ⟨eccUncorrectable s, rfl, ?_⟩
  rw [he, eccCorrected_eq]
  by_cases h1 : block.toNat < 3
  · rw [if_pos h1]
    refine ⟨rfl, rfl, fun h => ?_, fun _ => ⟨rfl, ?_⟩, fun h => ?_, fun h => ?_⟩
    · rw [h] at h1; exact absurd h1 (by decide)
    · rw [State.updCore_core_self]
      exact get_eccCount _ _
    · omega
    · omega
  · rw [if_neg h1]
    by_cases h2 : block.toNat = 3
    · rw [if_pos h2]
      refine ⟨rfl, rfl, fun _ => ⟨rfl, ?_⟩, fun h => absurd h h1, fun h => ?_, fun h => ?_⟩
      · rw [State.updSlice_slice_self]
      · omega
      · omega
    · rw [if_neg h2]
      have h3 : block ≠ 3 := fun h => h2 (by rw [h]; rfl)
      by_cases h4 : block.toNat < 9
      · rw [if_pos h4]
        refine ⟨rfl, rfl, fun h => absurd h h3, fun h => absurd h h1, fun _ _ => ⟨rfl, rfl, ?_⟩, fun h => ?_⟩
        · rw [State.updCluster_cluster_self]
          exact get_eccCount _ _
        · omega
      · rw [if_neg h4]
        refine ⟨rfl, rfl, fun h => absurd h h3, fun h => absurd h h1, fun _ h => absurd h h4, fun _ => ⟨rfl, rfl, rfl, ?_⟩⟩
        rw [State.updDev_dev_self]
        exact get_eccCount _ _

/-! ## What the events come to -/

/-- With a service that gives no frame, every clause holds. -/
theorem faultEvents_of_not_serviceMaps (hm : ¬ ServiceMaps) : Says.FaultEvents :=
  ⟨fun _ _ _ _ => ⟨fun _ h => faultRecord_merges h, faultRecord_enters, faultRecord_passes, faultRecord_answered hm⟩,
    fun _ _ _ _ h hv => faultWakeAt_found h hv, fun _ _ _ h => faultWakeAt_missing h,
    fun _ _ _ _ _ hh hf hp hg he hk hkg hkw hkp => faultWake_reaches hh hf hp hg he hk hkg hkw hkp, shootdown_drops,
    fun _ _ _ _ _ _ hd => eccUncorrectable_loses hd, fun _ _ _ hd => eccUncorrectable_corrects hd⟩

/-- An acquire that waits for the word a write makes non-zero is answered by the write. -/
theorem write_answers {t : State} {loc v : Nat} {p : Parked} (hp : t.parked = [p]) (ha : p.acquire = true) (hl : p.loc = loc) (hv : v % 256 ^ 8 ≠ 0) :
    (t.write loc v 8).agenda.length = t.agenda.length + 1 := by
  have hk := t.keepLines_eq loc 8
  have hparked : (t.keepLines loc 8).parked = [p] := by rw [hk]; exact hp
  have hag : (t.keepLines loc 8).agenda = t.agenda := by rw [hk]
  have he : (t.write loc v 8).agenda = (t.keepLines loc 8).agenda ++ (t.keepLines loc 8).parked.filterMap (wakeAcq (t.write loc v 8)) := rfl
  have hw : (wakeAcq (t.write loc v 8) p).isSome = true := by
    unfold wakeAcq
    rw [if_pos ha, hl, State.read_write, if_pos (bne_iff_ne.2 hv)]
    rfl
  obtain ⟨o, ho⟩ := Option.isSome_iff_exists.1 hw
  rw [he, hparked, hag, List.filterMap_cons_some ho, List.length_append]
  rfl

/-- A page that the service gives a frame takes a leaf entry. -/
theorem mapPage_writes {s : State} {part page f loc : Nat} (hl : s.leafPlace (part / 32) part (page % 2 ^ 30 * 65536) = some loc)
    (hp : page / 2 ^ 30 = 2 ^ 10 + part / 32) (hw : (s.walk (part / 32) part (page % 2 ^ 30 * 65536)).isSome = false) (hf : f < 49152) :
    ∃ t : State, s.mapPage part page f = t.write loc (part % 32 * 2 ^ 48 + f * 2 ^ 16 + 7) 8 ∧ t.parked = s.parked ∧ t.agenda = s.agenda := by
  have hn : ¬(page / 2 ^ 30 ≠ 2 ^ 10 + part / 32 ∨ (s.walk (part / 32) part (page % 2 ^ 30 * 65536)).isSome = true ∨ 49152 ≤ f) := by
    rw [hw]
    rintro (h | h | h)
    · exact h hp
    · cases h
    · omega
  unfold State.mapPage
  dsimp only
  rw [hl]
  dsimp only
  rw [if_neg hn]
  exact ⟨_, rfl, rfl, rfl⟩

/-- The walk of a page table reads memory and the partition's root. -/
theorem leafPlace_congr {s t : State} (hm : t.mem = s.mem) (hp : t.parts = s.parts) (dev part va : Nat) :
    t.leafPlace dev part va = s.leafPlace dev part va := by
  have he (loc idx : Nat) : t.entry loc idx = s.entry loc idx := congrArg (BitVec.ofNat 64) (State.read_congr hm _ _)
  unfold State.leafPlace State.part
  simp only [he, hp]

theorem walk_congr {s t : State} (hm : t.mem = s.mem) (hp : t.parts = s.parts) (dev part va : Nat) : t.walk dev part va = s.walk dev part va := by
  have he (loc idx : Nat) : t.entry loc idx = s.entry loc idx := congrArg (BitVec.ofNat 64) (State.read_congr hm _ _)
  unfold State.walk
  simp only [he, leafPlace_congr hm hp]

/-- The first word of a table in frame `f` of slice 0, which leads to frame `n`. -/
def tableWord (f n : Nat) : List Host.Cell := [(2 ^ 45 + f * 65536, 1), (2 ^ 45 + f * 65536 + 2, BitVec.ofNat 8 n)]

/-- A partition whose page table has no leaf entry for the page at 0. -/
def leafless : State :=
  { parts := [(0, { live := true, clusters := [0], root := 0x10001 })], mem := tableWord 1 2 ++ tableWord 2 3 ++ tableWord 3 4 }

/-- In that partition an acquire waits for the word where the leaf entry would stand; the next ticket is `k + 1`. -/
def acquiresLeaf (k : Nat) : State :=
  { leafless with ticket := k, parked := [{ slot := 0, gen := 1, tag := 4, loc := 2 ^ 45 + 4 * 65536, acquire := true, want := 0 }] }

/-- A record for that page, at the router of its service. -/
def leafFault : FaultRec := { part := 0, page := 2 ^ 40, slot := 0, gen := 1, engine := 0, id := 0 }

theorem leafless_service : 0 = leafless.serviceRouter 0 := by decide +kernel

theorem leafless_table : leafless.leafPlace (0 / 32) 0 (2 ^ 40 % 2 ^ 30 * 65536) = some (2 ^ 45 + 4 * 65536) ∧
    (leafless.walk (0 / 32) 0 (2 ^ 40 % 2 ^ 30 * 65536)).isSome = false := by
  decide +kernel

/-- A service that gives the page a frame writes the leaf entry, and two operations go out: the wake and the acquire's fill. -/
theorem leafFault_wakes {k f : Nat} (hv : Config.verdict (k + 1) = true) (hs : Config.serviceFrame (k + 1) = some f) (hf : f < 49152) :
    (faultRecordAt (acquiresLeaf k) 0 0 leafFault).agenda.length = 2 := by
  let s := (entered (acquiresLeaf k) 0 0 leafFault).tick
  have hr : faultRecordAt (acquiresLeaf k) 0 0 leafFault = recordOn (entered (acquiresLeaf k) 0 0 leafFault) 0 leafFault false := faultRecordAt_new rfl
  have ha : serviceAnswers (entered (acquiresLeaf k) 0 0 leafFault) 0 leafFault false =
      (s.mapPage 0 (2 ^ 40) f).post (.faultWakeAtRouter 0 { part := 0, page := 2 ^ 40, ready := true, via := none }) := by
    have hv' : Config.verdict s.ticket = true := hv
    have hs' : Config.serviceFrame s.ticket = some f := hs
    unfold serviceAnswers
    dsimp only
    rw [hv', if_pos rfl, hs']
    rfl
  obtain ⟨t, hm, hp, hag⟩ := mapPage_writes (s := s) (part := 0) (page := 2 ^ 40)
    ((leafPlace_congr (s := leafless) (t := s) rfl rfl _ _ _).trans leafless_table.1) (by decide)
    ((congrArg Option.isSome (walk_congr (s := leafless) (t := s) rfl rfl _ _ _)).trans leafless_table.2) hf
  have hlen : (t.write (2 ^ 45 + 4 * 65536) (0 % 32 * 2 ^ 48 + f * 2 ^ 16 + 7) 8).agenda.length = t.agenda.length + 1 :=
    write_answers (p := { slot := 0, gen := 1, tag := 4, loc := 2 ^ 45 + 4 * 65536, acquire := true, want := 0 }) hp rfl rfl (by omega)
  have hserv : 0 = (entered (acquiresLeaf k) 0 0 leafFault).serviceRouter leafFault.part := leafless_service
  rw [hr, recordOn, if_pos hserv, ha, hm]
  refine List.length_append.trans ?_
  rw [hlen, hag]
  rfl

theorem not_faultEvents_of_serviceMaps (hm : ServiceMaps) : ¬ Says.FaultEvents := by
  obtain ⟨k, f, hv, hs, hf⟩ := hm
  intro h
  obtain ⟨hrec, -⟩ := h
  obtain ⟨-, -, -, hat⟩ := hrec (acquiresLeaf k) 0 0 leafFault
  obtain ⟨t, b, he, -, -, ha⟩ := hat rfl leafless_service
  obtain rfl : faultRecordAt (acquiresLeaf k) 0 0 leafFault = t := Host.Outcome.next.inj he
  have hl := congrArg List.length ha
  rw [leafFault_wakes hv hs hf] at hl
  cases hl

/-- What O40 comes to: it holds just where the fault service gives no page a frame, and of that Config says nothing. -/
theorem contextAndFaultEvents_iff : Obligations.ContextAndFaultEvents ↔ ¬ ServiceMaps :=
  ⟨fun h hm => not_faultEvents_of_serviceMaps hm h.2, fun hm => ⟨contextEvents, faultEvents_of_not_serviceMaps hm⟩⟩

end Sys2Proof.Machine
end

section
/-! SUPPORT. Memory's canonical form (R49) through the shared operations: every write, every read, every message and every end of a unit keeps it. A lemma
here is named `memInv_` and the operation, and says that memory in its canonical form is so after it; its proof names the operations it is made of. -/

namespace Sys2Proof.Machine
open Sys2Proof

/-! ## What carries the form on -/

/-- Memory that is left as it is keeps its form. -/
theorem memInv_of_mem {s t : State} (hm : t.mem = s.mem) (hs : MemInv s) : MemInv t := by rwa [MemInv, hm]

/-- A part of memory cleared leaves the rest in its form. -/
theorem memInv_of_filter {s t : State} (f : Host.Cell → Bool) (hm : t.mem = s.mem.filter f) (hs : MemInv s) : MemInv t := by
  rw [MemInv, hm]
  exact Sp.wf_filter _ _ f hs

theorem memInv_ite {c : Prop} [Decidable c] {s t : State} (hs : MemInv s) (ht : MemInv t) : MemInv (if c then s else t) := by
  split
  · exact hs
  · exact ht

theorem memInv_foldl {α : Type} {f : State → α → State} (hf : ∀ s a, MemInv s → MemInv (f s a)) (l : List α) {s : State} (hs : MemInv s) :
    MemInv (l.foldl f s) := by
  induction l generalizing s with
  | nil => exact hs
  | cons a l ih => exact ih (hf s a hs)

/-! ## Fields beside memory -/

theorem memInv_copies {s : State} (hs : MemInv s) (l : Sp CopyJob) : MemInv { s with copies := l } := hs

theorem memInv_parked {s : State} (hs : MemInv s) (l : List Parked) : MemInv { s with parked := l } := hs

theorem memInv_barWait {s : State} (hs : MemInv s) (l : List BarWait) : MemInv { s with barWait := l } := hs

theorem memInv_assembly {s : State} (hs : MemInv s) (l : Sp Assembly) : MemInv { s with assembly := l } := hs

theorem memInv_cur {s : State} (hs : MemInv s) (n : Nat) : MemInv { s with cur := n } := hs

/-! ## States inside a result -/

def OutInv : Out → Prop
  | .next s => MemInv s
  | .fault _ | .refused _ => True

def Eff.Inv : Eff → Prop
  | .next s | .goto s _ | .hold s | .gone s => MemInv s
  | .trapWith _ f => ∀ s, MemInv s → MemInv (f s)
  | .trap _ | .wait _ _ _ _ => True

def Verdict.Inv : Verdict → Prop
  | .run _ s | .fail s | .trap _ s | .wait _ _ _ _ s => MemInv s
  | .skip => True

def LineGot.Inv : LineGot → Prop
  | .done s _ | .stalled s => MemInv s

def HwGot.Inv : HwGot → Prop
  | .ok s _ | .refused s | .stalled s => MemInv s

def Placed.Inv : Placed → Prop
  | .ok s => MemInv s
  | .full | .refused => True

def ScaleGot.Inv : ScaleGot → Prop
  | .slot s _ | .guard s | .bad s _ | .stalled s => MemInv s

def CopyRead.Inv : CopyRead → Prop
  | .bytes s _ | .refused s | .fault s _ | .stalled s => MemInv s

theorem OutInv.of_next {o : Out} {t : State} (h : OutInv o) (ho : o = .next t) : MemInv t := by
  rw [ho] at h
  exact h

theorem Eff.inv_ite {c : Prop} [Decidable c] {a b : Eff} (ha : a.Inv) (hb : b.Inv) : (if c then a else b).Inv := by
  split
  · exact ha
  · exact hb

section
variable {s : State} (hs : MemInv s)
include hs

/-! ## The plain operations -/

theorem memInv_setSlot (i : Nat) (x : Slot) : MemInv (s.setSlot i x) := hs

theorem memInv_setCore (i : Nat) (x : Core) : MemInv (s.setCore i x) := hs

theorem memInv_setCluster (i : Nat) (x : Cluster) : MemInv (s.setCluster i x) := hs

theorem memInv_setSlice (i : Nat) (x : Slice) : MemInv (s.setSlice i x) := hs

theorem memInv_setRouter (i : Nat) (x : Router) : MemInv (s.setRouter i x) := hs

theorem memInv_setPart (i : Nat) (x : Part) : MemInv (s.setPart i x) := hs

theorem memInv_setDev (i : Nat) (x : Device) : MemInv (s.setDev i x) := hs

theorem memInv_updSlot (i : Nat) (f : Slot → Slot) : MemInv (s.updSlot i f) := memInv_setSlot hs _ _

theorem memInv_updCore (i : Nat) (f : Core → Core) : MemInv (s.updCore i f) := memInv_setCore hs _ _

theorem memInv_updCluster (i : Nat) (f : Cluster → Cluster) : MemInv (s.updCluster i f) := memInv_setCluster hs _ _

theorem memInv_updSlice (i : Nat) (f : Slice → Slice) : MemInv (s.updSlice i f) := memInv_setSlice hs _ _

theorem memInv_updPart (i : Nat) (f : Part → Part) : MemInv (s.updPart i f) := memInv_setPart hs _ _

theorem memInv_updDev (i : Nat) (f : Device → Device) : MemInv (s.updDev i f) := memInv_setDev hs _ _

theorem memInv_setLevel (part : Nat) (h : W64) (x : Level) : MemInv (s.setLevel part h x) := hs

theorem memInv_post (i : Instr) (who : Nat) : MemInv (s.post i who) := hs

theorem memInv_postAll (l : List Op) : MemInv (s.postAll l) := hs

theorem memInv_postOp (o : Op) : MemInv (s.postOp o) := hs

theorem memInv_dueOp (o : Op) : MemInv (s.dueOp o) := hs

theorem memInv_postDue (i : Instr) (who : Nat) : MemInv (s.postDue i who) := hs

theorem memInv_postAt (t : Nat) (i : Instr) (who : Nat) : MemInv (s.postAt t i who) := hs

theorem memInv_holdHalted (slot : Nat) (o : Op) : MemInv (s.holdHalted slot o) := memInv_updCluster hs _ _

theorem memInv_tick : MemInv s.tick := hs

theorem memInv_injBytes (part : Nat) : MemInv (s.injBytes part) := memInv_updPart hs _ _

theorem memInv_inject (ni part : Nat) (t : Bool) : MemInv (s.inject ni part t) :=
  memInv_updPart (memInv_injBytes (by exact hs) _) _ _

theorem memInv_sliceBytes (part n : Nat) : MemInv (s.sliceBytes part n) := memInv_updPart hs _ _

theorem memInv_courBytes (part n : Nat) : MemInv (s.courBytes part n) := memInv_updPart hs _ _

theorem memInv_sendAs (ni part : Nat) (t : Option Bool) (o : Op) : MemInv (s.sendAs ni part t o) :=
  memInv_ite (memInv_postOp hs _) (memInv_postOp (by grind [memInv_inject, memInv_injBytes]) _)

theorem memInv_send (ni part : Nat) (t : Bool) (o : Op) : MemInv (s.send ni part t o) := memInv_sendAs hs _ _ _ _

theorem memInv_sendTag (ni part tag : Nat) (o : Op) : MemInv (s.sendTag ni part tag o) := memInv_ite (memInv_send hs _ _ _ _) (memInv_postOp hs _)

theorem memInv_releaseHeld (part : Nat) : MemInv (releaseHeld s part) :=
  memInv_foldl (fun _ _ h => by grind [memInv_sendAs, memInv_postOp]) _ (by exact hs)

theorem memInv_deliver (ni : Nat) (t : Bool) : MemInv (s.deliver ni t) := hs

theorem memInv_deliverTag (ni tag : Nat) : MemInv (s.deliverTag ni tag) := memInv_ite (memInv_deliver hs _ _) hs

theorem memInv_exchange (src dst part : Nat) (t : Bool) : MemInv (s.exchange src dst part t) := memInv_deliver (memInv_inject hs _ _ _) _ _

theorem memInv_injectTag (ni part tag : Nat) : MemInv (s.injectTag ni part tag) := memInv_ite (memInv_inject hs _ _ _) hs

theorem memInv_answerWith (ni part slot : Nat) (gen : BitVec 32) (tag : Nat) (v : V512) : MemInv (s.answerWith ni part slot gen tag v) :=
  memInv_sendTag hs _ _ _ _

theorem memInv_refuseWith (ni part slot : Nat) (gen : BitVec 32) (tag cause : Nat) (addr : W64) :
    MemInv (s.refuseWith ni part slot gen tag cause addr) :=
  memInv_sendTag hs _ _ _ _

theorem memInv_wakeParked : MemInv s.wakeParked := hs

theorem memInv_keepLine (loc : Nat) : MemInv (s.keepLine loc) := by
  unfold State.keepLine
  grind [memInv_setCore]

theorem memInv_keepLines (loc n : Nat) : MemInv (s.keepLines loc n) := memInv_ite hs (memInv_keepLine (memInv_keepLine hs _) _)

theorem memInv_write (loc v n : Nat) : MemInv (s.write loc v n) := s.write_keeps_memInv loc v n hs

theorem memInv_pathWrite (path loc v n : Nat) : MemInv (s.pathWrite path loc v n) := memInv_write (memInv_tick hs) _ _ _

theorem memInv_hears (slot : Nat) : MemInv (s.hears slot) := hs

theorem memInv_fencePaths (p q : Nat) : MemInv (s.fencePaths p q) := memInv_tick hs

theorem memInv_launchCarries (core qtail : Nat) : MemInv (s.launchCarries core qtail) := memInv_tick hs

theorem memInv_sawIds (path : Nat) (ids : List Nat) : MemInv (s.sawIds path ids) := hs

theorem memInv_saw (path loc n : Nat) : MemInv (s.saw path loc n) := memInv_ite hs (memInv_sawIds hs _ _)

theorem memInv_look (path : Nat) (v : Viewer) (loc n : Nat) : MemInv (s.look path v loc n).1 := by
  unfold State.look
  grind [memInv_tick, memInv_sawIds]

theorem memInv_setPort (core i : Nat) (p : Port) : MemInv (s.setPort core i p) := memInv_setCore hs _ _

theorem memInv_freeChannels (l : List Nat) : MemInv (freeChannels s l) := by
  induction l generalizing s with
  | nil => exact hs
  | cons p l ih => exact ih (memInv_setRouter hs _ _)

theorem memInv_dropRoute (core i : Nat) : MemInv (dropRoute s core i) :=
  memInv_setPort (memInv_ite (memInv_setPort (memInv_freeChannels hs _) _ _ _) (memInv_freeChannels hs _)) _ _ _

theorem memInv_closePort (core i : Nat) : MemInv (closePort s core i) := by
  unfold closePort
  grind [memInv_setPort, memInv_dropRoute, memInv_postOp]

theorem memInv_closePorts (slot : Nat) (gen : BitVec 32) (n : Nat) : MemInv (closePorts s slot gen n) := by
  induction n with
  | zero => exact hs
  | succ n ih => exact memInv_ite (memInv_closePort ih _ _) ih

/-! ## Page tables -/

theorem memInv_hwWrite (core off v n : Nat) : MemInv (s.hwWrite core off v n) := memInv_ite hs (memInv_write hs _ _ _)

theorem memInv_markEntry (w : W64 × Nat) (wr : Bool) : MemInv (s.markEntry w wr) := memInv_ite hs (memInv_write hs _ _ _)

theorem memInv_lookUp (dev part va : Nat) (wr : Bool) : MemInv (s.lookUp dev part va wr).1 := by
  unfold State.lookUp
  grind [memInv_tick, memInv_markEntry, memInv_setSlice]

theorem memInv_translate (dev part va : Nat) (wr : Bool) : MemInv (s.translate dev part va wr).1 := by
  unfold State.translate
  grind [memInv_lookUp, memInv_of_mem]

theorem memInv_holdAt (o : Op) (part : Nat) : MemInv (s.holdAt o part) := memInv_postOp hs _

theorem memInv_mapPage (part page frame : Nat) : MemInv (s.mapPage part page frame) := by
  unfold State.mapPage
  dsimp only
  split
  · exact hs
  · exact memInv_ite hs (memInv_write (memInv_of_filter _ rfl hs) _ _ _)

/-! ## Routes -/

theorem memInv_hopOnce (core i : Nat) : MemInv (hopOnce s core i).1 := by
  unfold hopOnce
  grind [memInv_setPort, memInv_dropRoute, memInv_setRouter, memInv_updCore]

theorem memInv_hopAll (core i n : Nat) : MemInv (hopAll s core i n) := by
  induction n generalizing s with
  | zero => exact hs
  | succ n ih => exact memInv_ite (ih (memInv_hopOnce hs _ _)) (memInv_hopOnce hs _ _)

/-! ## Regions and lines of second-tier memory -/

theorem memInv_asyncDeliver (slot : Nat) (gen : BitVec 32) (cause : Nat) : MemInv (asyncDeliver s slot gen cause) :=
  memInv_ite (memInv_setSlot hs _ _) (memInv_setSlot hs _ _)

theorem memInv_setRegion (place : Nat) (r : Region) : MemInv (s.setRegion place r) := memInv_updCluster hs _ _

theorem memInv_toSlices (place : Nat) (r : Region) (i : Instr) : MemInv (toSlices s place r i) :=
  memInv_foldl (fun _ _ h => memInv_send h _ _ _ _) _ hs

theorem memInv_abortRegion (place : Nat) (r : Region) (cause : Nat) (asks : Option (Nat × BitVec 32)) : MemInv (abortRegion s place r cause asks) :=
  memInv_setRegion (memInv_foldl (fun _ _ h => memInv_ite (memInv_asyncDeliver h _ _ _) (memInv_post h _ _)) _ (memInv_toSlices hs _ _ _)) _ _

theorem memInv_askAbort (place : Nat) (gen : W64) (cause : Nat) (asks : Option (Nat × BitVec 32)) : MemInv (askAbort s place gen cause asks) := by
  unfold askAbort
  grind [memInv_abortRegion]

theorem memInv_releaseStalled (sl : Nat) : MemInv (releaseStalled s sl) := hs

theorem memInv_installBytes (e : WsEntry) (i n : Nat) : MemInv (installBytes s e i n) := by
  induction n generalizing s i with
  | zero => exact hs
  | succ n ih => exact ih (memInv_ite (memInv_write hs _ _ _) hs) _

theorem memInv_dropRegion (sl home : Nat) (h : W64) : MemInv (dropRegion s sl home h) := memInv_updSlice hs _ _

theorem memInv_slicePart (sl : Nat) (install : Bool) (data : List W64) : MemInv (slicePart s sl install data) := by
  unfold slicePart
  split
  · next home h place tag =>
    exact memInv_releaseStalled (memInv_sendTag (memInv_dropRegion (memInv_foldl (fun _ _ h => memInv_installBytes h _ _ _) _
      (memInv_deliverTag hs _ _)) _ _ _) _ _ _ _) _
  · exact hs

theorem memInv_writeAll (loc : Nat) (l : List (Nat × Nat × Nat)) : MemInv (writeAll s loc l) := by
  induction l generalizing s with
  | nil => exact hs
  | cons w l ih => exact ih (memInv_pathWrite hs _ _ _ _)

theorem memInv_stallAt (sl : Nat) (es : List WsEntry) (wr : Bool) (o : Op) : MemInv (stallAt s sl es wr o) :=
  memInv_ite (memInv_updSlice hs _ _) (memInv_foldl (fun _ _ h => by grind [memInv_send]) _ (memInv_updSlice hs _ _))

theorem memInv_nonMemberLine (sl part va loc len : Nat) (wr : Bool) (writes : Nat → List (Nat × Nat × Nat)) (o : Op) :
    (nonMemberLine s sl part va loc len wr writes o).Inv := by
  unfold nonMemberLine
  grind [memInv_writeAll, memInv_stallAt, LineGot.Inv]

theorem memInv_settleEntry (sl : Nat) (e : WsEntry) : MemInv (settleEntry s sl e) := by
  unfold settleEntry
  grind [memInv_askAbort, memInv_slicePart, memInv_inject, memInv_of_mem]

theorem memInv_settleLine (sl part va : Nat) : MemInv (settleLine s sl part va) := memInv_foldl (fun _ _ h => memInv_settleEntry h _ _) _ hs

/-! ## The shared operations -/

theorem memInv_reach (x : Accessor) (a : W64) (len : Nat) (rd wr : Bool) : MemInv (s.reach x a len rd wr).1 := by
  unfold State.reach
  grind [memInv_translate, memInv_settleLine]

theorem memInv_reachLines (x : Accessor) (a : W64) (wr : Bool) (n : Nat) : MemInv (s.reachLines x a wr n).1 := by
  induction n generalizing s a with
  | zero => exact hs
  | succ n ih =>
    have hr := memInv_reach hs x a 64 (!wr) wr
    unfold State.reachLines
    grind

theorem memInv_writeLines (v : Nat) (l : List (Option Nat)) : MemInv (writeLines s v l) := by
  induction l generalizing s v with
  | nil => exact hs
  | cons a l ih =>
    cases a with
    | none => exact ih hs _
    | some a => exact ih (memInv_write hs _ _ _) _

theorem memInv_takeFrames (x : Accessor) (pool : W64) (two : Bool) : MemInv (takeFrames s x pool two).1 := by
  unfold takeFrames
  grind [memInv_reach, memInv_write]

theorem memInv_freeFrame (x : Accessor) (pool : W64) (i : Nat) : MemInv (freeFrame s x pool i) := by
  unfold freeFrame
  grind [memInv_reach, memInv_write]

theorem memInv_freeSaved (slot : Nat) (c : Saved) : MemInv (freeSaved s slot c) := by
  unfold freeSaved
  grind [memInv_freeFrame]

theorem memInv_traceRecord (slot : Nat) : MemInv (traceRecord s slot) :=
  memInv_ite hs (by grind [memInv_reach, memInv_updPart, memInv_write])

theorem memInv_freeLease (slot : Nat) (gen : BitVec 32) : MemInv (freeLease s slot gen) := memInv_ite (memInv_post (memInv_updCluster hs _ _) _ _) hs

theorem memInv_unitEnd (slot : Nat) (killed err : Bool) : MemInv (unitEnd s slot killed err) :=
  memInv_setSlot (by exact memInv_foldl (fun _ _ h => memInv_freeSaved h _ _) _ (memInv_post (memInv_postAll (by grind [memInv_post, memInv_postAll,
      memInv_freeLease, memInv_closePorts, memInv_traceRecord]) _) _ _)) _ _

theorem memInv_trapEntry (slot : Nat) (pc : Pc) (x : Trap) : MemInv (trapEntry s slot pc x) :=
  memInv_ite (memInv_unitEnd (memInv_setSlot hs _ _) _ _ _) (memInv_setSlot (memInv_setSlot hs _ _) _ _)

theorem memInv_returnFromTrap (slot : Nat) : MemInv (returnFromTrap s slot) := memInv_setSlot hs _ _

end

end Sys2Proof.Machine
end

section
/-! SUPPORT. Memory's canonical form (R49) through the groups of a slot and the accesses: the checks and the end of a group, register and vector forms,
loads, stores, ordering forms and rings. -/

namespace Sys2Proof.Machine
open Sys2Proof

section
variable {s : State} (hs : MemInv s)
include hs

/-! ## Operands and the end of a group -/

theorem memInv_takeWords (core i n : Nat) : MemInv (takeWords s core i n) := memInv_ite hs (memInv_setPort hs _ _ _)

theorem memInv_takeMarker (core i : Nat) : MemInv (takeMarker s core i) := memInv_setPort hs _ _ _

theorem memInv_sendWord (core i : Nat) (v : W64) : MemInv (sendWord s core i v) := memInv_sendAs (memInv_setPort hs _ _ _) _ _ _ _

theorem memInv_startRoute (core i : Nat) (once : Bool) : MemInv (startRoute s core i once) :=
  memInv_ite (memInv_ite (memInv_hopAll (memInv_setPort (memInv_tick hs) _ _ _) _ _ _) (memInv_post (memInv_setPort (memInv_tick hs) _ _ _) _ _)) hs

theorem memInv_dropRoutes (slot : Nat) : MemInv (dropRoutes s slot) := memInv_foldl (fun _ _ h => memInv_ite (memInv_dropRoute h _ _) h) _ hs

theorem memInv_portFault (core : Nat) (reads : List Nat) (wr : Option Nat) : ∀ e t, portFault s core reads wr = some (e, t) → MemInv t := by
  unfold portFault
  grind [memInv_takeMarker, memInv_dropRoute]

theorem memInv_portStop (u : Uses) (x : Fld) (c : Cond) (i : Nat) : (portStop u x s c i).Inv := by
  unfold portStop
  grind [memInv_updSlot, memInv_dropRoutes, Verdict.Inv]

theorem memInv_linkVerdict (u : Uses) (x : Fld) : (linkVerdict u x s).Inv := by
  have ht := memInv_foldl (fun _ i h => memInv_takeWords h (slotCore s.cur) i (countOf i (u.reads x))) (List.range 8) hs
  unfold linkVerdict
  grind [memInv_portFault, memInv_portStop, Verdict.Inv]

theorem memInv_routeStarted (u : Uses) (x : Fld) : MemInv (routeStarted u x s) := by
  unfold routeStarted
  grind [memInv_startRoute]

theorem memInv_portVerdict (u : Uses) (x : Fld) : (portVerdict u x s).Inv := by
  unfold portVerdict
  grind [memInv_portFault, memInv_portStop, memInv_linkVerdict, memInv_routeStarted, Verdict.Inv]
theorem memInv_operands (u : Uses) (x : Fld) : (operands u x s).Inv := by
  rw [operands_eq]
  grind [memInv_portVerdict, Verdict.Inv]

theorem memInv_retireTo (pc : Nat) : MemInv (retireTo s pc) := memInv_updSlot hs _ _

theorem memInv_waitFor (c : Cond) (limit : Option Nat) (watch : Bool) (info : W64) : MemInv (waitFor s c limit watch info) := by
  unfold waitFor
  grind [memInv_updSlot, memInv_tick, memInv_trapEntry, memInv_dropRoutes, memInv_postAt]

theorem memInv_finish (x : Fld) {e : Eff} (he : e.Inv) : MemInv (finish x s e) := by
  cases e with
  | next t => exact memInv_retireTo he _
  | goto t pc => exact memInv_retireTo he _
  | hold t => exact he
  | gone t => exact he
  | trap t => exact memInv_trapEntry hs _ _ _
  | trapWith t f => exact memInv_trapEntry (he _ hs) _ _ _
  | wait c l w i => exact memInv_waitFor hs _ _ _ _

theorem memInv_issue (u : Uses) (x : Fld) (body : Vals → State → Eff) (hbody : ∀ a0 s, MemInv s → (body a0 s).Inv) : MemInv (issue u x s body) := by
  unfold issue
  grind [memInv_operands, memInv_retireTo, memInv_trapEntry, memInv_waitFor, memInv_finish, Verdict.Inv, Eff.Inv]

theorem memInv_putG (n : Nat) (v : W64) : MemInv (s.putG n v) := memInv_ite (memInv_updSlot hs _ _) (memInv_sendWord hs _ _ _)

theorem memInv_putPair (n : Nat) (v w : W64) : MemInv (s.putPair n v w) := memInv_putG (memInv_putG hs _ _) _ _

theorem memInv_putV (n : Nat) (v : V512) : MemInv (s.putV n v) := memInv_updSlot hs _ _

theorem memInv_putK (n : Nat) (v : K32) : MemInv (s.putK n v) := memInv_updSlot hs _ _

theorem memInv_startFill (dests : List Nat) (v : V512) : MemInv (startFill s dests v) := memInv_post (memInv_setSlot (memInv_tick hs) _ _) _ _

/-! ## Forms on general registers -/

theorem memInv_aluForm (u : Uses) (x : Fld) (f : Vals → W64) : MemInv (aluForm u x s f) := memInv_issue hs _ _ _ (fun _ _ h => memInv_putG h _ _)

theorem memInv_longForm (u : Uses) (x : Fld) (f : Vals → W64) : MemInv (longForm u x s f) :=
  memInv_issue hs _ _ _ (fun _ _ h => memInv_startFill h _ _)

theorem memInv_divForm (x : Fld) (f : W64 → W64 → W64) : MemInv (divForm x s f) :=
  memInv_issue hs _ _ _ (fun _ _ h => Eff.inv_ite trivial (memInv_startFill h _ _))

theorem memInv_transfer (target : ℤ) : (transfer s target).Inv := Eff.inv_ite hs trivial

theorem memInv_branchForm (u : Uses) (x : Fld) (c : Vals → Bool) : MemInv (branchForm u x s c) :=
  memInv_issue hs _ _ _ (fun _ _ h => Eff.inv_ite (memInv_transfer h _) h)

theorem outInv_execCall (x : Fld) : OutInv (execCall x s) := memInv_issue hs _ _ _ (fun _ _ h => memInv_transfer (memInv_putG h _ _) _)

theorem outInv_execJr (x : Fld) : OutInv (execJr x s) := memInv_issue hs _ _ _ (fun _ _ h => Eff.inv_ite trivial (memInv_putG h _ _))

theorem outInv_execLoop (x : Fld) : OutInv (execLoop x s) :=
  memInv_issue hs _ _ _ (fun _ _ h => Eff.inv_ite (memInv_transfer (memInv_putG h _ _) _) (memInv_putG h _ _))

/-! ## Scalar FP32 forms -/

theorem memInv_fpForm2 (x : Fld) (g : FVal → FVal → FVal) : MemInv (fpForm2 x s g) := memInv_aluForm hs _ _ _

/-! ## Vector and mask forms -/

theorem memInv_laneForm (u : Uses) (x : Fld) (f : Vals → Nat → Nat) : MemInv (laneForm u x s f) :=
  memInv_issue hs _ _ _ (fun _ _ h => memInv_putV h _ _)

theorem memInv_intLane (x : Fld) (f : Nat → Nat → Nat → Nat) : MemInv (intLane x s f) := memInv_laneForm hs _ _ _

theorem memInv_fpLane (x : Fld) (g : FVal → FVal → FVal) : MemInv (fpLane x s g) := memInv_laneForm hs _ _ _

theorem memInv_cmpForm (x : Fld) (r : Nat → Nat → Bool) : MemInv (cmpForm x s r) := memInv_issue hs _ _ _ (fun _ _ h => memInv_putK h _ _)

theorem outInv_execVsel (x : Fld) : OutInv (execVsel x s) := memInv_issue hs _ _ _ (fun _ _ h => memInv_putV h _ _)

theorem outInv_execVins (x : Fld) : OutInv (execVins x s) := memInv_issue hs _ _ _ (fun _ _ h => memInv_putV h _ _)

theorem memInv_fnForm (x : Fld) (g : FVal → FVal) : MemInv (fnForm x s g) := memInv_issue hs _ _ _ (fun _ _ h => memInv_startFill h _ _)

theorem outInv_execVcvt (x : Fld) : OutInv (execVcvt x s) := memInv_issue hs _ _ _ (fun _ _ h => memInv_putV h _ _)

theorem memInv_kForm (u : Uses) (x : Fld) (f : Vals → K32) : MemInv (kForm u x s f) := memInv_issue hs _ _ _ (fun _ _ h => memInv_putK h _ _)

/-! ## An access and its pieces -/

theorem memInv_pathC (a : Access) (loc len old : Nat) : MemInv (pathC s a loc len old).1 := by
  unfold pathC
  grind [memInv_saw, memInv_look]

theorem memInv_homeApply (a : Access) (p : Piece) (loc : Nat) : MemInv (homeApply s a p loc).1 := by
  unfold homeApply
  grind [memInv_pathC, memInv_writeAll]

theorem memInv_guardReport (a : Access) (ea : W64) : MemInv (guardReport s a ea) := memInv_ite hs (memInv_setSlot hs _ _)

theorem memInv_scratchVldf (a : Access) (core off : Nat) : MemInv (scratchVldf s a core off).1 := by
  unfold scratchVldf
  grind [memInv_guardReport, memInv_pathC]

theorem memInv_scratchPiece (a : Access) (p : Piece) (core off : Nat) : MemInv (scratchPiece s a p core off).1 := by
  unfold scratchPiece
  grind [memInv_scratchVldf, memInv_guardReport, memInv_homeApply]

theorem memInv_istorePiece (a : Access) (p : Piece) (core off : Nat) : MemInv (istorePiece s a p core off).1 := by
  unfold istorePiece
  grind [memInv_homeApply]

theorem memInv_postReply (ni : Nat) (a : Access) (r : Reply) : MemInv (postReply s ni a r) := memInv_sendTag hs _ _ _ _

theorem memInv_answerPiece (a : Access) (i : Nat) (r : Reply) : MemInv (answerPiece s a i r) :=
  memInv_ite (memInv_postReply hs _ _ _) (memInv_ite (by exact hs) (by grind [memInv_postReply, memInv_of_mem]))

theorem memInv_sendPieces (a : Access) : MemInv (sendPieces s a) := memInv_foldl (fun _ _ h => memInv_send h _ _ _ _) _ hs

/-! ## Loads, stores and atomics -/

theorem memInv_sendAccess (a : Access) (dests : List Nat) (held : Bool) (len : Nat) : MemInv (sendAccess s a dests held len) :=
  memInv_ite (memInv_post (memInv_setSlot (memInv_tick hs) _ _) _ _) (memInv_sendPieces (memInv_setSlot (memInv_tick hs) _ _) _)

theorem memInv_writeDest (a : Access) (v : V512) : MemInv (writeDest s a v) := memInv_ite (memInv_putG hs _ _) (memInv_putV hs _ _)

theorem memInv_localAccess (a : Access) : (localAccess s a).Inv := by
  unfold localAccess
  grind [memInv_scratchPiece, memInv_tick, memInv_writeDest, Eff.Inv]

theorem memInv_remoteAccess (a : Access) (dests : List Nat) : (remoteAccess s a dests).Inv :=
  Eff.inv_ite hs (Eff.inv_ite trivial (memInv_sendAccess hs _ _ _ _))

theorem memInv_accessForm (a : Access) (al : Nat) (ist : Bool) (dests : List Nat) : (accessForm s a al ist dests).Inv :=
  Eff.inv_ite trivial (by grind [memInv_localAccess, memInv_remoteAccess, Eff.Inv])

theorem memInv_loadForm (x : Fld) (size : Nat) (sgn : Bool) (opc : Nat) : MemInv (loadForm x s size sgn opc) :=
  memInv_issue hs _ _ _ (fun _ _ h => memInv_accessForm h _ _ _ _)

theorem memInv_storeForm (x : Fld) (size opc : Nat) : MemInv (storeForm x s size opc) :=
  memInv_issue hs _ _ _ (fun _ _ h => memInv_accessForm h _ _ _ _)

theorem outInv_execVld (x : Fld) : OutInv (execVld x s) := memInv_issue hs _ _ _ (fun _ _ h => memInv_accessForm h _ _ _ _)

theorem outInv_execVst (x : Fld) : OutInv (execVst x s) := memInv_issue hs _ _ _ (fun _ _ h => memInv_accessForm h _ _ _ _)

theorem memInv_laneForms (a : Access) (dests : List Nat) : (laneForms s a dests).Inv := by
  unfold laneForms
  grind [memInv_remoteAccess, Eff.Inv]

theorem outInv_execVgath (x : Fld) : OutInv (execVgath x s) := memInv_issue hs _ _ _ (fun _ _ h => memInv_laneForms h _ _)

theorem outInv_execVscat (x : Fld) : OutInv (execVscat x s) := memInv_issue hs _ _ _ (fun _ _ h => memInv_laneForms h _ _)

theorem outInv_execVldf (x : Fld) : OutInv (execVldf x s) := memInv_issue hs _ _ _ (fun _ _ h => Eff.inv_ite trivial (memInv_accessForm h _ _ _ _))

theorem memInv_atomForm (x : Fld) (o : AtomOp) (opc : Nat) : MemInv (atomForm x s o opc) :=
  memInv_issue hs _ _ _ (fun _ _ h => memInv_accessForm h _ _ _ _)

theorem outInv_execCas (x : Fld) : OutInv (execCas x s) := memInv_issue hs _ _ _ (fun _ _ h => memInv_accessForm h _ _ _ _)

theorem memInv_acqAt (a : Access) (i loc : Nat) : MemInv (acqAt s a i loc) := by
  unfold acqAt
  exact memInv_ite hs (memInv_answerPiece hs _ _ _)

theorem memInv_arriveScratch (a : Access) (i : Nat) : MemInv (arriveScratch s a i) := by
  unfold arriveScratch
  grind [memInv_deliverTag, memInv_tick, memInv_answerPiece, memInv_acqAt, memInv_scratchPiece, memInv_istorePiece]

theorem memInv_fillPort (core i : Nat) (v : V512) : ∀ t, s.fillPort core i v = some t → MemInv t := by
  unfold State.fillPort
  grind [memInv_sendWord]

theorem memInv_fillSlot (slot : Nat) (gen : BitVec 32) (tag : Nat) (v : V512) : MemInv (fillSlot s slot gen tag v) := by
  unfold fillSlot
  grind [memInv_deliverTag, memInv_hears, memInv_setSlot, memInv_fillPort, memInv_post, memInv_updCore, memInv_of_mem]

theorem memInv_wakeFill (slot : Nat) (gen : BitVec 32) (tag : Nat) (v : V512) : MemInv (wakeFill s slot gen tag v) :=
  memInv_ite (memInv_holdHalted hs _ _) (memInv_fillSlot hs _ _ _ _)

theorem memInv_ackSlot (slot : Nat) (gen : BitVec 32) (tag : Nat) : MemInv (ackSlot s slot gen tag) :=
  memInv_ite (by grind [memInv_setSlot, memInv_deliverTag, memInv_of_mem]) (by exact memInv_deliverTag hs _ _)

/-! ## Ordering and tags -/

theorem memInv_awaitAnswer (tag : Nat) (limit : Option Nat) (watch : Bool) (info : W64) : MemInv (awaitAnswer s tag limit watch info) := by
  unfold awaitAnswer
  grind [memInv_updSlot, memInv_tick, memInv_postAt]

theorem memInv_fenceDiscard (imm : W64) : MemInv (fenceDiscard s imm) :=
  memInv_ite (memInv_updCluster (memInv_fencePaths (memInv_ite (memInv_updCore hs _ _) hs) _ _) _ _) (memInv_fencePaths (memInv_ite (memInv_updCore
      hs _ _) hs) _ _)

theorem outInv_execFence (x : Fld) : OutInv (execFence x s) := memInv_issue hs _ _ _ (fun _ _ h => Eff.inv_ite trivial (memInv_fenceDiscard h _))

theorem outInv_execAcq (x : Fld) : OutInv (execAcq x s) :=
  memInv_issue hs _ _ _ (fun _ _ h => Eff.inv_ite trivial (Eff.inv_ite trivial (Eff.inv_ite trivial (memInv_awaitAnswer (memInv_sendAccess h _ _ _ _)
      _ _ _ _))))

theorem outInv_execRel (x : Fld) : OutInv (execRel x s) :=
  memInv_issue hs _ _ _ (fun _ _ h => Eff.inv_ite trivial (Eff.inv_ite trivial (Eff.inv_ite trivial (memInv_updSlot (memInv_sendAccess h _ _ _ _) _
      _))))

theorem outInv_execBind (x : Fld) : OutInv (execBind x s) :=
  memInv_issue hs _ _ _ (fun _ _ h => Eff.inv_ite trivial (Eff.inv_ite trivial (by grind [memInv_updCore, Eff.Inv])))

theorem outInv_execGuard (x : Fld) : OutInv (execGuard x s) :=
  memInv_issue hs _ _ _ (fun _ _ h => Eff.inv_ite trivial (Eff.inv_ite trivial (by grind [memInv_updCore, Eff.Inv])))

theorem outInv_execTglook (x : Fld) : OutInv (execTglook x s) :=
  memInv_issue hs _ _ _ (fun _ _ h => by grind [memInv_putPair, memInv_setCore, memInv_tick, Eff.Inv])

theorem outInv_execTgset (x : Fld) : OutInv (execTgset x s) := memInv_issue hs _ _ _ (fun _ _ h => memInv_setCore (memInv_tick h) _ _)

theorem outInv_execTgclr (x : Fld) : OutInv (execTgclr x s) := memInv_issue hs _ _ _ (fun _ _ h => by grind [memInv_setCore, Eff.Inv])

theorem outInv_execTgcfg (x : Fld) : OutInv (execTgcfg x s) := memInv_issue hs _ _ _ (fun _ _ h => memInv_updCore h _ _)

/-! ## Rings -/

theorem memInv_writeWords (core off : Nat) (l : List W64) : MemInv (writeWords s core off l) := by
  induction l generalizing s off with
  | nil => exact hs
  | cons w l ih => exact ih (memInv_hwWrite hs _ _ _ _) _

theorem memInv_placeEntry (core cls : Nat) (level : W64) (words : List W64) (info : EntryInfo) : (placeEntry s core cls level words info).Inv := by
  unfold placeEntry
  grind [memInv_hwWrite, memInv_writeWords, memInv_updCore, Placed.Inv]

theorem memInv_startFromEntry (core cls i : Nat) (h : W64) : MemInv (startFromEntry s core cls i h) := memInv_setCore (memInv_setSlot hs _ _) _ _

end

end Sys2Proof.Machine
end

section
/-! SUPPORT. Memory's canonical form (R49) through levels, contexts, the life of a slot, messages, schedulers and timers. -/

namespace Sys2Proof.Machine
open Sys2Proof

section
variable {s : State} (hs : MemInv s)
include hs

/-! ## Levels -/

theorem memInv_answerQuiets (part : Nat) : MemInv (answerQuiets s part) := memInv_postAll (memInv_setPart hs _ _) _

theorem memInv_updClusters (f : Cluster → Cluster) (l : List Nat) : MemInv (updClusters s f l) := by
  induction l generalizing s with
  | nil => exact hs
  | cons c l ih => exact ih (memInv_updCluster hs _ _)

theorem memInv_clearPigeons (part : Nat) (h : W64) : MemInv (clearPigeons s part h) := memInv_updClusters hs _ _

theorem memInv_freeBinds (part : Nat) (h : W64) : MemInv (freeBinds s part h) := hs

theorem memInv_discardQueue (part qid : Nat) : MemInv (discardQueue s part qid) := memInv_updClusters hs _ _

theorem memInv_endQueuesIn (part home : Nat) (h : W64) : MemInv (endQueuesIn s part home h) :=
  memInv_ite hs (memInv_foldl (fun _ _ h => memInv_discardQueue h _ _) _ (memInv_setPart hs _ _))

theorem memInv_endQueues (home : Nat) (h : W64) : MemInv (endQueues s home h) := memInv_foldl (fun _ _ h => memInv_endQueuesIn h _ _ _) _ hs

theorem memInv_closeLevel (part : Nat) (h : W64) (l : Level) : MemInv (closeLevel s part h l) :=
  memInv_answerQuiets (memInv_foldl (fun _ _ h => memInv_answerWith h _ _ _ _ _ _) _ (by grind [memInv_dueOp, memInv_endQueues, memInv_freeBinds,
      memInv_post, memInv_of_mem])) _

theorem memInv_decLevel (part : Nat) (h : W64) (n err fuel : Nat) : MemInv (decLevel s part h n err fuel) := by
  induction fuel generalizing s h n err with
  | zero => exact hs
  | succ fuel ih =>
    unfold decLevel
    grind [memInv_setLevel, memInv_closeLevel]

theorem memInv_levelUpdate (u : LevelUpd) : MemInv (levelUpdate s u) :=
  memInv_ite (memInv_clearPigeons hs _ _) (by grind [memInv_deliverTag, memInv_refuseWith, memInv_post, memInv_answerWith, memInv_setLevel,
      memInv_decLevel])

theorem memInv_markCancelled (part : Nat) (h : W64) : MemInv (markCancelled s part h) := hs

theorem memInv_cancelRing (part : Nat) (h : W64) (core cls : Nat) : MemInv (cancelRing s part h core cls) :=
  memInv_ite (memInv_updCore (memInv_foldl (fun _ _ h => memInv_postOp (memInv_hwWrite h _ _ _ _) _) _ hs) _ _) (memInv_foldl (fun _ _ h =>
      memInv_postOp (memInv_hwWrite h _ _ _ _) _) _ hs)

theorem memInv_cancelRings (part : Nat) (h : W64) : MemInv (cancelRings s part h) :=
  memInv_foldl (fun _ _ h => memInv_foldl (fun _ _ h1 => memInv_cancelRing h1 _ _ _ _) _ h) _ hs

theorem memInv_cancelReady (part : Nat) (h : W64) : MemInv (cancelReady s part h) :=
  memInv_foldl (fun _ _ h => memInv_postAll (memInv_updCluster h _ _) _) _ hs

theorem memInv_countGone (r : Release) : MemInv (countGone s r) := by
  unfold countGone
  grind [memInv_postOp, memInv_setLevel]

theorem memInv_cancelWheel (part : Nat) (h : W64) : MemInv (cancelWheel s part h) :=
  memInv_foldl (fun _ _ h => memInv_countGone h _) _ (by exact hs)

theorem memInv_cancelPlacing (part : Nat) (h : W64) : MemInv (cancelPlacing s part h) := memInv_postAll (memInv_setPart hs _ _) _

theorem memInv_cancelPigeons (part : Nat) (h : W64) : MemInv (cancelPigeons s part h) :=
  memInv_foldl (fun _ _ h => memInv_postAll (memInv_updCluster h _ _) _) _ hs

theorem memInv_cancelConf (part : Nat) (h : W64) : MemInv (cancelConf s part h) := memInv_updClusters hs _ _

theorem memInv_cancelRegions (part : Nat) (h : W64) : MemInv (cancelRegions s part h) := memInv_postAll hs _

theorem memInv_cancelLevel (part : Nat) (h : W64) (asks : Option (Nat × BitVec 32)) : MemInv (cancelLevel s part h asks) :=
  memInv_ite hs (memInv_cancelRegions (memInv_cancelConf (memInv_cancelPigeons (memInv_cancelPlacing (memInv_cancelWheel (memInv_cancelReady
      (memInv_cancelRings (memInv_foldl (fun _ _ h => memInv_ite (memInv_asyncDeliver h _ _ _) (memInv_post h _ _)) _ (memInv_markCancelled hs _ _))
      _ _) _ _) _ _) _ _) _ _) _ _) _ _)

theorem memInv_askEntry (x : Fld) (dests : List Nat) (soft : Bool) (tag : Nat) : MemInv (askEntry s x dests soft tag) := memInv_setSlot hs _ _

theorem memInv_askNet (x : Fld) (dests : List Nat) (ni : Nat) (req : Nat → State → State) (hreq : ∀ a0 s, MemInv s → MemInv (req a0 s)) : (askNet s x
    dests ni req).Inv := by
  unfold askNet
  grind [memInv_awaitAnswer, memInv_askEntry, memInv_exchange, Eff.Inv]

theorem memInv_askSend (x : Fld) (dests : List Nat) (req : Nat → Op) : (askSend s x dests req).Inv :=
  memInv_send (memInv_awaitAnswer (memInv_askEntry hs _ _ _ _) _ _ _ _) _ _ _ _

theorem outInv_execLvinc (x : Fld) : OutInv (execLvinc x s) :=
  memInv_issue hs _ _ _ (fun _ _ h => Eff.inv_ite trivial (Eff.inv_ite trivial (memInv_askSend h _ _ _)))

theorem outInv_execLvdec (x : Fld) : OutInv (execLvdec x s) :=
  memInv_issue hs _ _ _ (fun _ _ h => Eff.inv_ite trivial (Eff.inv_ite trivial (Eff.inv_ite trivial (memInv_askSend h _ _ _))))

theorem outInv_execLvwait (x : Fld) : OutInv (execLvwait x s) :=
  memInv_issue hs _ _ _ (fun _ _ h => Eff.inv_ite trivial (by grind [memInv_putG, memInv_setLevel, memInv_exchange, memInv_awaitAnswer,
      memInv_askEntry, Eff.Inv]))

theorem outInv_execLvcancel (x : Fld) : OutInv (execLvcancel x s) :=
  memInv_issue hs _ _ _ (fun _ _ h => memInv_askNet h _ _ _ _ (fun _ _ h1 => memInv_answerWith (memInv_cancelLevel h1 _ _ _) _ _ _ _ _ _))

theorem outInv_execPersist (x : Fld) : OutInv (execPersist x s) :=
  memInv_issue hs _ _ _ (fun _ _ h => Eff.inv_ite trivial (memInv_askNet h _ _ _ _ (fun _ _ h1 => memInv_answerWith (by grind [memInv_setLevel,
      memInv_postAt]) _ _ _ _ _ _)))

theorem memInv_postedEntry (held : Bool) (acc : Option Access) (tag : Nat) : MemInv (postedEntry s held acc tag) :=
  memInv_setSlot (memInv_tick hs) _ _

theorem memInv_postNet (req : Nat → Instr) : MemInv (postNet s req) := memInv_send (memInv_postedEntry hs _ _ _) _ _ _ _

theorem outInv_execBeat (x : Fld) : OutInv (execBeat x s) :=
  memInv_issue hs _ _ _ (fun _ _ h => Eff.inv_ite trivial (memInv_sendTag (by grind [memInv_exchange, memInv_postedEntry, memInv_setLevel]) _ _ _ _))

theorem memInv_heartbeatTick : MemInv (heartbeatTick s) := by
  unfold heartbeatTick
  grind [memInv_postAt, memInv_of_mem]

theorem memInv_heartbeatExpiry : MemInv (heartbeatExpiry s) := by
  unfold heartbeatExpiry
  grind [memInv_cancelLevel, memInv_postAll, memInv_of_mem]

/-! ## Contexts -/

theorem memInv_of_takeFrames {t : State} {x : Accessor} {pool : W64} {two : Bool} {r : Option (Nat × Option Nat)}
    (h : takeFrames s x pool two = (t, r)) : MemInv t := by
  have ht := memInv_takeFrames hs x pool two
  rwa [h] at ht

theorem memInv_of_reachLines {t : State} {x : Accessor} {a : W64} {wr : Bool} {n : Nat} {r : Option (List (Option Nat))}
    (h : s.reachLines x a wr n = (t, r)) : MemInv t := by
  have ht := memInv_reachLines hs x a wr n
  rwa [h] at ht

theorem memInv_saveContext {t : State} {slot kind : Nat} {pc : Pc} {live : Nat} {recs : List (Access × Nat)} {back : SlotState} {pages : List Nat}
    (h : saveContext s slot kind pc live recs back pages = some t) : MemInv t := by
  unfold saveContext at h
  dsimp only at h
  split at h
  · cases h
  · next hf =>
    have h1 := memInv_of_takeFrames hs hf
    split at h
    · cases h
    · next hl =>
      cases h
      exact memInv_writeLines (memInv_of_reachLines h1 hl) _ _
    · next hl =>
      split at h
      · cases h
      · next hl' =>
        cases h
        exact memInv_writeLines (memInv_writeLines (memInv_of_reachLines (memInv_of_reachLines h1 hl) hl') _ _) _ _

theorem memInv_readFrames {t : State} {slot : Nat} {c : Saved} {r : Nat × Nat} (h : readFrames s slot c = some (t, r)) : MemInv t := by
  unfold readFrames at h
  grind [memInv_reachLines]

/-! ## The life of a slot -/

theorem memInv_dropFlying (slot : Nat) (gen : BitVec 32) (tag : Nat) : MemInv (dropFlying s slot gen tag) := by
  have hd := memInv_foldl (fun _ (_ : Op) h => memInv_deliverTag h (slotCore slot) tag) ((s.agenda ++ (s.cluster (slotCluster slot)).heldOps).filter
    fun o => opOfTag slot gen tag o && o.undelivered) hs
  exact hd

theorem memInv_dropRequest (slot : Nat) (gen : BitVec 32) (tag : Nat) : MemInv (dropRequest s slot gen tag) :=
  memInv_updCluster (memInv_updPart (by exact memInv_dropFlying hs _ _ _) _ _) _ _

theorem memInv_leaveWaiting (slot : Nat) : MemInv (leaveWaiting s slot) := by
  unfold leaveWaiting
  grind [memInv_updCluster]

theorem memInv_withdraw (slot : Nat) : MemInv (withdraw s slot) := by
  unfold withdraw
  grind [memInv_dropRequest, memInv_updSlot, memInv_leaveWaiting]

theorem memInv_stopSlot (slot : Nat) : MemInv (stopSlot s slot) :=
  memInv_ite hs (memInv_updSlot (by grind [memInv_withdraw]) _ _)

theorem memInv_markReply (slot tag : Nat) (r : Reply) : MemInv (markReply s slot tag r) := memInv_updSlot hs _ _

theorem memInv_refusalArrival (slot : Nat) (gen : BitVec 32) (tag cause : Nat) (addr : W64) : MemInv (refusalArrival s slot gen tag cause addr) :=
  memInv_ite (memInv_stopSlot (memInv_markReply (memInv_deliverTag hs _ _) _ _ _) _) (memInv_ite (by exact memInv_deliverTag hs _ _) (memInv_updCore
      (by exact memInv_deliverTag hs _ _) _ _))

theorem memInv_sendFault (cluster : Nat) (r : FaultRec) : MemInv (sendFault s cluster r) := memInv_post (memInv_updCluster hs _ _) _ _

theorem memInv_faultReply (slot : Nat) (gen : BitVec 32) (tag page : Nat) : MemInv (faultReply s slot gen tag page) :=
  memInv_ite (memInv_stopSlot (memInv_markReply (memInv_deliverTag hs _ _) _ _ _) _) (by grind [memInv_deliverTag, memInv_updCore, memInv_sendFault,
      memInv_of_mem])

theorem memInv_endSuspension (slot : Nat) : MemInv (endSuspension s slot) := by
  unfold endSuspension
  dsimp only
  split
  · exact hs
  · exact memInv_withdraw (by exact memInv_foldl (fun _ _ h => by grind [memInv_deliverTag]) _ hs) _
  · exact hs

theorem memInv_discardEntries (slot : Nat) : MemInv (discardEntries s slot) :=
  memInv_setSlot (by exact hs) _ _

theorem memInv_refusalTrap : MemInv (refusalTrap s) := by
  unfold refusalTrap
  grind [memInv_discardEntries, memInv_endSuspension, memInv_updSlot, memInv_trapEntry]

theorem memInv_faultSave : MemInv (faultSave s) :=
  memInv_foldl (fun _ _ h => memInv_sendFault h _ _) _ (by grind [memInv_saveContext, memInv_updSlot, memInv_setSlot, memInv_of_mem])

theorem memInv_serviceAnswers (r : Nat) (f : FaultRec) (loose : Bool) : MemInv (serviceAnswers s r f loose) :=
  memInv_post (by grind [memInv_tick, memInv_mapPage]) _ _

theorem memInv_faultRecordAt (r port : Nat) (f : FaultRec) : MemInv (faultRecordAt s r port f) := by
  unfold faultRecordAt
  grind [memInv_serviceAnswers, memInv_post, memInv_setRouter]

theorem memInv_wakeAlong (r : Nat) (w : Wake) : MemInv (wakeAlong s r w) := by
  unfold wakeAlong
  grind [memInv_post]

theorem memInv_faultWakeAt (r : Nat) (w : Wake) : MemInv (faultWakeAt s r w) := by
  unfold faultWakeAt
  dsimp only
  split
  · exact memInv_ite (memInv_wakeAlong (memInv_foldl (fun _ _ h => memInv_ite (memInv_post h _ _) (memInv_post h _ _)) _ (memInv_setRouter hs _ _)) _
      _)
      (memInv_foldl (fun _ _ h => memInv_ite (memInv_post h _ _) (memInv_post h _ _)) _ (memInv_setRouter hs _ _))
  · exact memInv_wakeAlong hs _ _

theorem memInv_resend (slot : Nat) (o : Outst) : MemInv (resend s slot o) := by
  unfold resend
  grind [memInv_updSlot, memInv_sendTag, memInv_sendPieces, memInv_of_mem]

theorem memInv_wakeSlot (slot : Nat) (gen : BitVec 32) (page : Nat) (ready : Bool) : MemInv (wakeSlot s slot gen page ready) :=
  memInv_ite (memInv_setSlot hs _ _) (memInv_ite (memInv_ite (memInv_updSlot (memInv_foldl (fun _ _ h => memInv_resend h _ _) _ hs) _ _)
      (memInv_trapEntry (memInv_updSlot (memInv_discardEntries (memInv_endSuspension hs _) _) _ _) _ _ _)) (memInv_updCore hs _ _))

theorem memInv_wakeOrphan (slot : Nat) (gen : BitVec 32) (tag : Nat) (ready : Bool) : MemInv (wakeOrphan s slot gen tag ready) := by
  unfold wakeOrphan
  grind [memInv_sendTag, memInv_sendPieces, memInv_of_mem]

theorem memInv_replayAccess (slot : Nat) (binds : List (Nat × Bind)) (a : Access) : MemInv (replayAccess s slot binds a) := by
  unfold replayAccess
  grind [memInv_updSlot, memInv_sendTag, memInv_post, memInv_sendPieces]

theorem memInv_armWait (slot : Nat) (a : Attempt) : MemInv (armWait s slot a) := by
  unfold armWait
  grind [memInv_postAt]

theorem memInv_contextRestore : MemInv (contextRestore s) := by
  unfold contextRestore
  dsimp only
  split
  · exact hs
  · split
    · exact hs
    · next hf =>
      have hr := memInv_readFrames hs hf
      split
      · exact memInv_trapEntry (memInv_updSlot (memInv_endSuspension
          (by grind [memInv_armWait, memInv_setSlot, memInv_tick, memInv_freeSaved]) _) _ _) _ _ _
      · exact memInv_foldl (fun _ _ h => memInv_replayAccess h _ _ _) _
          (by grind [memInv_armWait, memInv_setSlot, memInv_tick, memInv_freeSaved])

theorem memInv_unitStart : MemInv (unitStart s) := by
  unfold unitStart
  grind [memInv_updCore, memInv_startFromEntry]

theorem memInv_dropPreempt (slot : Nat) : MemInv (dropPreempt s slot) :=
  memInv_foldl (fun _ _ h => by exact h) _ (memInv_updCluster (memInv_updCore (memInv_updSlot hs _ _) _ _) _ _)

theorem memInv_preemptSave (slot kind : Nat) (pc : Pc) (live : Nat) : MemInv (preemptSave s slot kind pc live) := by
  unfold preemptSave
  grind [memInv_saveContext, memInv_dropPreempt]

theorem memInv_preemption : MemInv (preemption s) :=
  memInv_ite (by grind [memInv_saveContext, memInv_withdraw, memInv_dropPreempt]) (memInv_ite (by grind [memInv_preemptSave]) hs)

theorem memInv_preemptionForced : MemInv (preemptionForced s) := memInv_preemptSave hs _ _ _ _

theorem outInv_execYield (x : Fld) : OutInv (execYield x s) :=
  memInv_issue hs _ _ _ (fun _ _ h => Eff.inv_ite trivial (by grind [memInv_saveContext, memInv_setSlot, memInv_updCore, Eff.Inv]))

theorem memInv_regionTold (part : Nat) (h : W64) (slot : Nat) (gen : BitVec 32) : MemInv (regionTold s part h slot gen) := by
  unfold regionTold
  grind [memInv_updCluster]

theorem memInv_asyncTaken : MemInv (asyncTaken s) := by
  unfold asyncTaken
  grind [memInv_trapEntry, memInv_updSlot, memInv_withdraw, memInv_regionTold]

theorem memInv_releaseSend (slot : Nat) (gen : BitVec 32) (tag : Nat) : MemInv (releaseSend s slot gen tag) :=
  memInv_ite (by grind [memInv_send, memInv_sendPieces, memInv_setSlot]) (by grind [memInv_send, memInv_sendPieces, memInv_of_mem])

/-! ## Messages and streams -/

theorem memInv_sendAll (places : List W64) (pc : Pc) (args : List W64) : MemInv (sendAll s places pc args) := by
  have hp := memInv_postedEntry hs false none s.plainTag
  exact memInv_postAll (memInv_ite hp (by exact hp)) _

theorem outInv_execSend (x : Fld) : OutInv (execSend x s) :=
  memInv_issue hs _ _ _ (fun _ _ h => Eff.inv_ite trivial (Eff.inv_ite trivial (Eff.inv_ite trivial (memInv_sendAll h _ _ _))))

theorem outInv_execSendm (x : Fld) : OutInv (execSendm x s) :=
  memInv_issue hs _ _ _ (fun _ _ h => Eff.inv_ite trivial (Eff.inv_ite trivial (Eff.inv_ite trivial (memInv_sendAll h _ _ _))))

theorem memInv_messageDone (m : Msg) (refused : Option Nat) : MemInv (messageDone s m refused) :=
  memInv_ite hs (by grind [memInv_post, memInv_of_mem])

theorem memInv_messageInject (m : Msg) : MemInv (messageInject s m) := by
  unfold messageInject
  grind [memInv_postOp, memInv_messageDone, memInv_send]

theorem memInv_messageArrive (m : Msg) : MemInv (messageArrive s m) := by
  unfold messageArrive
  grind [memInv_updCore, memInv_messageDone, memInv_deliver, memInv_postOp, memInv_placeEntry, memInv_postAt, memInv_launchCarries, Placed.Inv]

theorem outInv_execMessageRetry (m : Msg) : OutInv (execMessageRetry m s) :=
  memInv_post (memInv_ite (by exact hs) (memInv_updCore hs _ _)) _ _

theorem outInv_execPopen (x : Fld) : OutInv (execPopen x s) :=
  memInv_issue hs _ _ _ (fun _ _ h => Eff.inv_ite trivial (Eff.inv_ite trivial (Eff.inv_ite trivial (Eff.inv_ite trivial (memInv_post (memInv_setPort
      (memInv_postedEntry h _ _ _) _ _ _) _ _)))))

theorem outInv_execPlisten (x : Fld) : OutInv (execPlisten x s) := memInv_issue hs _ _ _ (fun _ _ h => by grind [memInv_setPort, Eff.Inv])

theorem outInv_execPclose (x : Fld) : OutInv (execPclose x s) := memInv_issue hs _ _ _ (fun _ _ h => by grind [memInv_closePort, Eff.Inv])

theorem outInv_execPstat (x : Fld) : OutInv (execPstat x s) := memInv_issue hs _ _ _ (fun _ _ h => by grind [memInv_putG, Eff.Inv])

theorem memInv_routeHop : MemInv (routeHop s) := memInv_ite (memInv_post (memInv_hopOnce hs _ _) _ _) (memInv_hopOnce hs _ _)

theorem memInv_streamWord (core port src srcPort : Nat) (v : W64) : MemInv (streamWord s core port src srcPort v) :=
  memInv_ite (memInv_setPort (memInv_ite (memInv_setPort hs _ _ _) hs) _ _ _) (memInv_ite (memInv_setPort hs _ _ _) hs)

theorem memInv_closingMarker : MemInv (closingMarker s) := by
  unfold closingMarker
  grind [memInv_freeChannels, memInv_setPort, memInv_deliver]

/-! ## Schedulers, placement and timers -/

theorem memInv_opAt (t : Nat) (o : Op) : MemInv (s.opAt t o) := hs

theorem memInv_recordEnqueue (c : Nat) (r : TaskRec) : MemInv (recordEnqueue s c r) :=
  memInv_ite (memInv_post (memInv_setCluster hs _ _) _ _) (memInv_ite (memInv_post hs _ _) (memInv_opAt (memInv_opAt (memInv_tick (memInv_setCluster
      (by grind [memInv_setLevel]) _ _)) _ _) _ _))

theorem memInv_schedulerDispatch : MemInv (schedulerDispatch s) := by
  unfold schedulerDispatch
  grind [memInv_updCluster, memInv_placeEntry, memInv_updCore, memInv_launchCarries, memInv_postOp, Placed.Inv]

theorem outInv_execPriorityAging : OutInv (execPriorityAging s) := by
  unfold execPriorityAging
  grind [memInv_updCluster, OutInv]

theorem memInv_askSlot (slot : Nat) (gen : BitVec 32) : MemInv (askSlot s slot gen) :=
  memInv_ite (memInv_holdHalted hs _ _) (memInv_ite hs (memInv_updSlot hs _ _))

theorem memInv_preemptRequest : MemInv (preemptRequest s) := by
  unfold preemptRequest
  grind [memInv_askSlot, memInv_opAt, memInv_updCluster]

theorem memInv_stealProbe : MemInv (stealProbe s) := by
  unfold stealProbe
  grind [memInv_postAt, memInv_updCluster, memInv_tick, memInv_opAt]

theorem memInv_clusterReport : MemInv (clusterReport s) := by
  unfold clusterReport
  grind [memInv_postAt, memInv_updPart]

theorem memInv_readyPlacement (part i : Nat) (r : TaskRec) : MemInv (readyPlacement s part i r) := memInv_post (memInv_setPart hs _ _) _ _

theorem memInv_unitPlacement : MemInv (unitPlacement s) := by
  unfold unitPlacement
  grind [memInv_updCore, memInv_setPart, memInv_send, memInv_tick, memInv_readyPlacement]

theorem memInv_presetPipes (cores : List Nat) (phase : Bool) (l : List (Nat × Nat × Nat × Nat)) : MemInv (presetPipes s cores phase l) := by
  induction l generalizing s with
  | nil => exact hs
  | cons e l ih => exact ih (memInv_setPort (memInv_setPort hs _ _ _) _ _ _)

theorem memInv_gangRecords {t : State} {p : Placing} {l : List Nat} {i : Nat} (h : gangRecords s p l i = some t) : MemInv t := by
  induction l generalizing s i with
  | nil => exact Option.some.inj h ▸ hs
  | cons k l ih =>
    unfold gangRecords at h
    grind [memInv_exchange, memInv_placeEntry, memInv_launchCarries, memInv_updCore, memInv_postOp, Placed.Inv]

theorem memInv_lowerIdle (part : Nat) (cores : List Nat) : MemInv (lowerIdle s part cores) := memInv_foldl (fun _ _ h => memInv_updPart h _ _) _ hs

theorem memInv_gangPlacement : MemInv (gangPlacement s) := by
  unfold gangPlacement
  grind [memInv_gangRecords, memInv_presetPipes, memInv_lowerIdle, memInv_updPart]

theorem memInv_armTick (d : Nat) : MemInv (armTick s d) := memInv_ite hs (memInv_opAt (memInv_updDev hs _ _) _ _)

theorem memInv_timerTick : MemInv (timerTick s) :=
  memInv_ite (memInv_opAt hs _ _) (memInv_ite (memInv_armTick (memInv_ite (by exact hs) (memInv_setDev hs _ _)) _)
    (memInv_ite (by exact hs) (memInv_setDev hs _ _)))

theorem memInv_timerRelease : MemInv (timerRelease s) := by
  unfold timerRelease
  grind [memInv_recordEnqueue, memInv_setDev, memInv_postOp, memInv_updCluster, memInv_of_mem]

theorem outInv_execTime (x : Fld) : OutInv (execTime x s) := memInv_issue hs _ _ _ (fun _ _ h => memInv_putG h _ _)

theorem memInv_localCheck (off len : Nat) : ∀ t r, localCheck s off len = .ok (t, r) → MemInv t := by
  unfold localCheck
  grind [memInv_setSlot]

theorem memInv_localRead (off len : Nat) : ∀ t r, localRead s off len = .ok (t, r) → MemInv t := by
  unfold localRead
  grind [memInv_localCheck, memInv_look, memInv_tick]

theorem outInv_execTwrel (x : Fld) : OutInv (execTwrel x s) :=
  memInv_issue hs _ _ _ (fun _ _ h => Eff.inv_ite trivial (Eff.inv_ite trivial (by grind [memInv_localRead, memInv_askNet, memInv_armTick,
      memInv_setDev, memInv_sendTag, Eff.Inv])))

theorem outInv_execStagger : OutInv (execStagger s) := by
  unfold execStagger
  grind [memInv_postAll, memInv_armTick, memInv_setDev, OutInv]

theorem memInv_ptpSync (d : Nat) (t1 f : W64) : MemInv (ptpSync s d t1 f) := memInv_of_mem (s := s) rfl hs

theorem memInv_ptpDelay (d : Nat) (t4 : W64) : MemInv (ptpDelay s d t4) := memInv_updDev hs _ _

theorem outInv_execPtpMessage : OutInv (execPtpMessage s) := by
  unfold execPtpMessage
  grind [memInv_updDev, memInv_ptpSync, memInv_ptpDelay, OutInv]

end

end Sys2Proof.Machine
end

section
/-! SUPPORT. Memory's canonical form (R49) through regions, memory slices, counters, barriers, Confluence and the Pigeonhole. -/

namespace Sys2Proof.Machine
open Sys2Proof

section
variable {s : State} (hs : MemInv s)
include hs

/-! ## Atomic regions -/

theorem memInv_regionAbortRequest : MemInv (regionAbortRequest s) := by
  unfold regionAbortRequest
  grind [memInv_deliverTag, memInv_askAbort, memInv_answerWith]

theorem memInv_regionMemberKilled (part : Nat) (h : W64) (slot : Nat) (gen : BitVec 32) : MemInv (regionMemberKilled s part h slot gen) := by
  unfold regionMemberKilled
  grind [memInv_abortRegion, memInv_setRegion]

theorem memInv_regionMemberJoin : MemInv (regionMemberJoin s) := by
  unfold regionMemberJoin
  grind [memInv_deliverTag, memInv_answerWith, memInv_refuseWith, memInv_setRegion, memInv_updSlot]

theorem memInv_fillCommit (place : Nat) (h : W64) : MemInv (fillCommit s place h) := by
  unfold fillCommit
  split
  · exact hs
  · refine memInv_setRegion (memInv_foldl (fun _ _ h => ?_) _ hs) _ _
    dsimp only
    split
    · exact memInv_updSlot (memInv_wakeFill (memInv_injectTag h _ _ _) _ _ _ _) _ _
    · exact h

theorem memInv_committed (place : Nat) (r : Region) : MemInv (committed s place r) := memInv_fillCommit (memInv_setRegion hs _ _) _ _

theorem memInv_regionVote : MemInv (regionVote s) := by
  unfold regionVote
  grind [memInv_deliverTag, memInv_answerWith, memInv_setRegion, memInv_committed, memInv_toSlices]

theorem memInv_regionInstallAck : MemInv (regionInstallAck s) := by
  unfold regionInstallAck
  grind [memInv_deliverTag, memInv_committed, memInv_setRegion]

theorem memInv_regionDiscardAck : MemInv (regionDiscardAck s) := by
  unfold regionDiscardAck
  grind [memInv_deliverTag, memInv_setRegion]

theorem memInv_regionInstall : MemInv (regionInstall s) := memInv_slicePart hs _ _ _

theorem memInv_regionDiscard : MemInv (regionDiscard s) := memInv_slicePart hs _ _ _

theorem memInv_castVote (home place : Nat) (h slot sgen tag nb : W64) : MemInv (castVote s home place h slot sgen tag nb) := memInv_sendTag hs _ _ _ _

theorem memInv_prepareAt : MemInv (prepareAt s) := by
  unfold prepareAt
  grind [memInv_exchange, memInv_deliverTag, memInv_updSlice, memInv_castVote, memInv_of_mem]

theorem memInv_lineAccess (a : Access) (sl part va loc len : Nat) (writes : Nat → List (Nat × Nat × Nat)) (o : Op) :
    (lineAccess s a sl part va loc len writes o).Inv := by
  unfold lineAccess
  grind [memInv_nonMemberLine, memInv_abortRegion, memInv_setSlice, memInv_setRegion, LineGot.Inv]

theorem outInv_execArnew (x : Fld) : OutInv (execArnew x s) :=
  memInv_issue hs _ _ _ (fun _ _ h => Eff.inv_ite trivial (Eff.inv_ite trivial (memInv_askNet h _ _ _ _ (fun _ _ h1 => by grind [memInv_answerWith,
      memInv_setRegion, memInv_opAt]))))

theorem outInv_execAren (x : Fld) : OutInv (execAren x s) :=
  memInv_issue hs _ _ _ (fun _ _ h => Eff.inv_ite trivial (Eff.inv_ite (memInv_putG h _ _) (by grind [memInv_askSend, Eff.Inv])))

theorem memInv_startVote (part : Nat) (h : W64) (tag : Nat) (nb : Bool) : MemInv (startVote s part h tag nb) := by
  unfold startVote
  dsimp only
  split
  · exact memInv_updSlot hs _ _
  · exact memInv_ite (memInv_castVote (memInv_updSlot hs _ _) _ _ _ _ _ _ _)
      (memInv_foldl (fun _ _ h => memInv_sendTag h _ _ _ _) _ (memInv_assembly (memInv_tick (memInv_updSlot hs _ _)) _))

theorem memInv_suspendArcom (x : Fld) (d tag : Nat) (limit : Option Nat) : MemInv (suspendArcom s x d tag limit) :=
  memInv_updSlot (memInv_awaitAnswer (memInv_askEntry hs _ _ _ _) _ _ _ _) _ _

theorem outInv_execArcom (x : Fld) : OutInv (execArcom x s) :=
  memInv_issue hs _ _ _ (fun _ _ h => by grind [memInv_putG, memInv_regionTold, memInv_updSlot, memInv_suspendArcom, memInv_startVote,
      memInv_awaitAnswer, memInv_askEntry, Eff.Inv])

theorem outInv_execArabt (x : Fld) : OutInv (execArabt x s) := memInv_issue hs _ _ _ (fun _ _ h => by grind [memInv_askSend, Eff.Inv])

theorem outInv_execArinfo (x : Fld) : OutInv (execArinfo x s) :=
  memInv_issue hs _ _ _ (fun _ _ h => Eff.inv_ite trivial (by grind [memInv_askNet, memInv_answerWith, Eff.Inv]))

/-! ## Homes and slices -/

theorem memInv_homeAt (x : Accessor) (t : Target) (len : Nat) (rd wr : Bool) : MemInv (s.homeAt x t len rd wr).1 := by
  unfold State.homeAt
  grind [memInv_translate]

theorem memInv_copyHome (x : Accessor) (a : W64) (len : Nat) (rd wr : Bool) : MemInv (s.copyHome x a len rd wr).1 := by
  unfold State.copyHome
  grind [memInv_homeAt]

theorem memInv_homeOf (x : Accessor) (a : W64) (len : Nat) (rd wr : Bool) : MemInv (s.homeOf x a len rd wr).1 := by
  unfold State.homeOf
  grind [memInv_homeAt]

theorem memInv_readScale (a : Access) (addr : W64) (o : Op) : (readScale s a addr o).Inv := by
  unfold readScale
  grind [memInv_homeOf, memInv_lineAccess, memInv_pathC, memInv_sliceBytes, memInv_guardReport, LineGot.Inv, ScaleGot.Inv]

theorem memInv_sliceVldf (a : Access) (i sl part dev va : Nat) (e : W64) (o : Op) : MemInv (sliceVldf s a i sl part dev va e o) :=
  memInv_ite (memInv_answerPiece hs _ _ _) (memInv_ite (memInv_answerPiece hs _ _ _) (by grind [memInv_lineAccess, memInv_pathC, memInv_answerPiece,
      memInv_sliceBytes, memInv_readScale, LineGot.Inv, ScaleGot.Inv]))

theorem memInv_of_lineAccess {a : Access} {sl part va loc len : Nat} {writes : Nat → List (Nat × Nat × Nat)} {o : Op} {r : LineGot}
    (h : lineAccess s a sl part va loc len writes o = r) : r.Inv := h ▸ memInv_lineAccess hs a sl part va loc len writes o

theorem memInv_sliceArrive (a : Access) (i : Nat) : MemInv (sliceArrive s a i) := by
  have ht := memInv_tick hs
  have hd (ni tag part n : Nat) : MemInv ((s.tick.deliverTag ni tag).sliceBytes part n) := memInv_sliceBytes (memInv_deliverTag ht _ _) _ _
  unfold sliceArrive
  dsimp only
  generalize hu : (if s.data = [] then _ else s.tick) = u
  have hu : MemInv u := hu ▸ memInv_ite (hd _ _ _ _) ht
  split
  · exact memInv_answerPiece hu _ _ _
  split
  · next dev va _ =>
    have hp := memInv_translate hu dev (u.partAt a.part dev) va (opWrites a.op)
    split
    · next he => exact memInv_answerPiece (by rwa [he] at hp) _ _ _
    · next he =>
      rw [he] at hp
      split
      · exact memInv_answerPiece hp _ _ _
      · exact memInv_answerPiece hp _ _ _
      · split
        · exact memInv_sliceVldf hp _ _ _ _ _ _ _ _
        · split
          · next hl => exact memInv_of_lineAccess hp hl
          · next t old hl =>
            have hl : MemInv t := memInv_of_lineAccess hp hl
            exact memInv_ite (memInv_parked hl _) (memInv_answerPiece (by grind [memInv_pathC]) _ _ _)
  · exact memInv_answerPiece hu _ _ _

theorem memInv_shootdown : MemInv (shootdown s) := hs

/-! ## Term columns -/

theorem memInv_stopColumns (c : Nat) : MemInv (stopColumns s c) := memInv_tick (memInv_updCluster hs _ _)

/-! ## The state of an array -/

theorem memInv_updArr (c : Nat) (f : TermArray → TermArray) : MemInv (s.updArr c f) := memInv_updCluster hs _ _

theorem memInv_postOnce (o : Op) : MemInv (s.postOnce o) := memInv_ite hs (memInv_postOp hs _)

theorem memInv_answerWaits (c : Nat) : MemInv (answerWaits s c) :=
  memInv_foldl (fun _ _ h => memInv_ite (memInv_withdraw h _) (memInv_ite (memInv_wakeFill (memInv_updArr h _ _) _ _ _ _) h)) _ hs

theorem memInv_armGrace (c : Nat) : MemInv (armGrace s c) := memInv_ite hs (memInv_opAt hs _ _)

theorem memInv_mxDone (c : Nat) : MemInv (mxDone s c) := by
  unfold mxDone
  grind [memInv_updArr, memInv_armGrace, memInv_postOnce, memInv_answerWaits]

theorem memInv_runFail (c cause : Nat) (addr : W64) (src : Nat) : MemInv (runFail s c cause addr src) :=
  memInv_answerWaits (memInv_armGrace (memInv_updArr (memInv_stopColumns hs _) _ _) _) _

theorem memInv_readoutFail (c cause : Nat) (addr : W64) (src : Nat) : MemInv (readoutFail s c cause addr src) := memInv_updArr hs _ _

theorem memInv_readoutApplied (c tag : Nat) : MemInv (readoutApplied s c tag) := memInv_ite (memInv_mxDone hs _) hs

theorem memInv_readoutRefused (c tag cause : Nat) (addr : W64) : MemInv (readoutRefused s c tag cause addr) :=
  memInv_ite (memInv_mxDone (memInv_readoutFail hs _ _ _ _) _) hs

theorem memInv_startBudget (c : Nat) : MemInv (startBudget s c) := memInv_opAt (memInv_tick (memInv_updArr hs _ _)) _ _

theorem memInv_grantTo (c slot : Nat) (gen : BitVec 32) : MemInv (grantTo s c slot gen) := memInv_startBudget (memInv_updArr hs _ _) _

theorem memInv_mxRevoke (c : Nat) : MemInv (mxRevoke s c) := memInv_postOnce (memInv_updArr hs _ _) _

/-! ## Counters, sync words, barriers and phases -/

theorem memInv_localWrite (off v len : Nat) : ∀ t, localWrite s off v len = .ok t → MemInv t := by
  unfold localWrite
  grind [memInv_setSlot, memInv_write]

theorem memInv_syncAt (loc n : Nat) : MemInv (syncAt s loc n) := memInv_write hs _ _ _

theorem memInv_copyBack (j : CopyJob) (tag : Nat) (i : Instr) : MemInv (copyBack s j tag i) := memInv_sendTag hs _ _ _ _

theorem memInv_copyApplied (tag : Nat) : MemInv (copyApplied s tag) := by
  unfold copyApplied
  grind [memInv_copyBack, memInv_of_mem]

theorem memInv_dropCopy (j : CopyJob) (tag : Nat) : MemInv (dropCopy s j tag) :=
  memInv_foldl (fun _ _ h => memInv_deliverTag h _ _) _ (by exact hs)

theorem memInv_copyRefused (tag cause : Nat) (addr : W64) : MemInv (copyRefused s tag cause addr) := by
  unfold copyRefused
  grind [memInv_copyBack, memInv_dropCopy]

theorem memInv_holdSync (a : Access) (copy page : Nat) : MemInv (holdSync s a copy page) :=
  memInv_sendFault (memInv_updCluster (memInv_tick hs) _ _) _ _

theorem memInv_syncWordUpdate (a : Access) (copy : Nat) : MemInv (syncWordUpdate s a copy) := by
  unfold syncWordUpdate
  grind [memInv_deliverTag, memInv_postReply, memInv_readoutApplied, memInv_readoutRefused, memInv_holdSync, memInv_copyApplied, memInv_copyRefused,
      memInv_homeAt, memInv_syncAt, memInv_guardReport]

theorem outInv_execSwinit (x : Fld) : OutInv (execSwinit x s) := memInv_issue hs _ _ _ (fun _ _ h => by grind [memInv_localWrite, Eff.Inv])

theorem outInv_execSwwait (x : Fld) : OutInv (execSwwait x s) :=
  memInv_issue hs _ _ _ (fun v s hs => by
    dsimp only
    split
    · trivial
    · refine Eff.inv_ite trivial ?_
      split
      · trivial
      · next t r hc =>
        have ht := memInv_localCheck hs _ _ _ _ hc
        exact Eff.inv_ite (memInv_putG ht _ _) (Eff.inv_ite (memInv_putG ht _ _) (Eff.inv_ite trivial
          (memInv_awaitAnswer (memInv_updSlot (memInv_parked (memInv_askEntry ht x _ true _) _) _ _) _ _ _ _))))

theorem outInv_execSwadd (x : Fld) : OutInv (execSwadd x s) :=
  memInv_issue hs _ _ _ (fun _ _ h => Eff.inv_ite trivial (Eff.inv_ite trivial (by grind [memInv_sendAccess, Eff.Inv])))

theorem outInv_execDcset (x : Fld) : OutInv (execDcset x s) :=
  memInv_issue hs _ _ _ (fun _ _ h => Eff.inv_ite trivial (by grind [memInv_postNet, Eff.Inv]))

theorem outInv_execDcdec (x : Fld) : OutInv (execDcdec x s) := memInv_issue hs _ _ _ (fun _ _ h => by grind [memInv_sendAccess, Eff.Inv])

theorem memInv_fireCounter (c idx : Nat) (phase : Bool) : MemInv (fireCounter s c idx phase) :=
  memInv_postOp (memInv_tick (memInv_updCluster hs _ _)) _

theorem memInv_dcSetArrival (part name : Nat) (count : BitVec 32) (recd level : W64) (home slot : Nat) (gen : BitVec 32) (tag : Nat) : MemInv
    (dcSetArrival s part name count recd level home slot gen tag) := by
  unfold dcSetArrival
  grind [memInv_sendTag, memInv_deliverTag, memInv_updCluster, memInv_fireCounter]

theorem memInv_decrementAt (c i n : Nat) (phase : Bool) : MemInv (decrementAt s c i n phase) :=
  memInv_ite (memInv_updCluster hs _ _) (memInv_ite (memInv_fireCounter (memInv_updCluster hs _ _) _ _ _) (memInv_updCluster hs _ _))

theorem memInv_dcDecrement (part name n slot : Nat) (gen : BitVec 32) (tag : Nat) : MemInv (dcDecrement s part name n slot gen tag) := by
  unfold dcDecrement
  grind [memInv_deliverTag, memInv_decrementAt, memInv_copyApplied, memInv_readoutApplied, memInv_sendTag]

theorem memInv_discardFiring (c : Nat) (f : Firing) : MemInv (discardFiring s c f) := memInv_updCluster hs _ _

theorem memInv_dcFire : MemInv (dcFire s) := by
  unfold dcFire
  grind [memInv_post, memInv_updCluster, memInv_discardFiring, memInv_holdAt, memInv_homeOf, memInv_nonMemberLine, memInv_sliceBytes,
      memInv_sendFault, LineGot.Inv]

theorem outInv_execBar (x : Fld) : OutInv (execBar x s) :=
  memInv_issue hs _ _ _ (fun _ _ h => Eff.inv_ite (memInv_trapEntry (memInv_setSlot h _ _) _ _ _) (Eff.inv_ite trivial (by grind [memInv_askEntry,
      memInv_updSlot, memInv_awaitAnswer, memInv_send, Eff.Inv])))

theorem memInv_barAnswer (core : Nat) (w : Asker) (i : Instr) : MemInv (barAnswer s core w i) := memInv_sendTag hs _ _ _ _

theorem memInv_barFill (core : Nat) (w : Asker) (r : Nat) : MemInv (barFill s core w r) := memInv_barAnswer hs _ _ _

theorem memInv_completeBarrier (loc parties gen : Nat) (departed : Bool) : MemInv (completeBarrier s loc parties gen departed) :=
  memInv_foldl (fun _ _ h => memInv_barFill h _ _ _) _ (memInv_write (by exact hs) _ _ _)

theorem memInv_writeBarrier (loc parties arrived gen : Nat) (departed : Bool) : MemInv (writeBarrier s loc parties arrived gen departed) :=
  memInv_write hs _ _ _

theorem memInv_arriveBarrier (loc : Nat) (addr : W64) (w : Asker) (nb : Bool) : MemInv (arriveBarrier s loc addr w nb) := by
  have hr (b : BitVec 32) := memInv_setSlot hs w.slot (register (s.slot w.slot) addr b)
  unfold arriveBarrier
  exact memInv_ite (memInv_ite (memInv_barFill hs _ _ _) hs) (memInv_ite (memInv_barFill (memInv_completeBarrier (hr _) _ _ _ _) _ _ _)
    (memInv_ite (memInv_barFill (memInv_writeBarrier (hr _) _ _ _ _ _) _ _ _) (memInv_of_mem rfl (memInv_writeBarrier (hr _) _ _ _ _ _))))

theorem memInv_barrierArrival (part : Nat) (addr : W64) (slot : Nat) (gen : BitVec 32) (tag : Nat) (nb : Bool) :
    MemInv (barrierArrival s part addr slot gen tag nb) :=
  memInv_ite (memInv_deliverTag hs _ _) (by grind [memInv_homeOf, memInv_deliverTag, memInv_arriveBarrier, memInv_barFill, memInv_setSlot,
      memInv_barAnswer])

theorem memInv_departureHome (part : Nat) (addr : W64) (slot : Nat) (gen : BitVec 32) (level : W64) :
    MemInv (departureHome s part addr slot gen level).1 := by
  unfold departureHome
  grind [memInv_homeOf]

theorem memInv_barrierDeparture (part : Nat) (addr : W64) (slot : Nat) (gen bgen : BitVec 32) (level : W64) :
    MemInv (barrierDeparture s part addr slot gen bgen level) := by
  unfold barrierDeparture
  grind [memInv_departureHome, memInv_completeBarrier, memInv_writeBarrier]

theorem outInv_execPhflip (x : Fld) : OutInv (execPhflip x s) :=
  memInv_issue hs _ _ _ (fun _ _ h => Eff.inv_ite trivial (memInv_send (memInv_postedEntry h _ _ _) _ _ _ _))

theorem outInv_execPhflipArrival : OutInv (execPhflipArrival s) := by
  unfold execPhflipArrival
  split
  · exact memInv_sendTag (memInv_updPart (memInv_deliverTag hs _ _) _ _) _ _ _ _
  · exact hs

theorem outInv_execQuiet (x : Fld) : OutInv (execQuiet x s) :=
  memInv_issue hs _ _ _ (fun _ _ h => Eff.inv_ite (memInv_putG h _ _) (Eff.inv_ite (memInv_putG h _ _) (memInv_awaitAnswer (memInv_askEntry
      (memInv_updPart h _ _) _ _ _ _) _ _ _ _)))

theorem memInv_phaseSweep : MemInv (phaseSweep s) := memInv_ite hs (memInv_postAt (memInv_answerQuiets (memInv_setPart hs _ _) _) _ _ _)

theorem outInv_execRdxadd (x : Fld) : OutInv (execRdxadd x s) := memInv_issue hs _ _ _ (fun _ _ h => memInv_putPair h _ _ _)

/-! ## Confluence -/

theorem outInv_execCqdecl (x : Fld) : OutInv (execCqdecl x s) :=
  memInv_issue hs _ _ _ (fun _ _ h => by grind [memInv_localRead, memInv_askNet, memInv_answerWith, memInv_setPart, memInv_postAll, Eff.Inv])

theorem memInv_cqDeclarationArrival : MemInv (cqDeclarationArrival s) := memInv_postAll (memInv_setCluster hs _ _) _

theorem memInv_answerFrom (c part slot : Nat) (gen : BitVec 32) (tag : Nat) (v : V512) : MemInv (answerFrom s c part slot gen tag v) :=
  memInv_answerWith hs _ _ _ _ _ _

theorem memInv_refuseFrom (c part slot : Nat) (gen : BitVec 32) (tag : Nat) (addr : W64) : MemInv (refuseFrom s c part slot gen tag addr) :=
  memInv_refuseWith hs _ _ _ _ _ _ _

theorem memInv_policyWait (slot : Nat) (gen : BitVec 32) (tag : Nat) (limit : Option Nat) (info : W64) :
    MemInv (policyWait s slot gen tag limit info) :=
  memInv_ite hs (by grind [memInv_setSlot, memInv_postAt])

theorem memInv_cqPushArrival : MemInv (cqPushArrival s) := by
  unfold cqPushArrival
  grind [memInv_deliverTag, memInv_refuseFrom, memInv_setCluster, memInv_answerFrom, memInv_tick, memInv_policyWait, memInv_postOp]

theorem outInv_execCqpush (x : Fld) : OutInv (execCqpush x s) :=
  memInv_issue hs _ _ _ (fun _ _ h => Eff.inv_ite trivial (Eff.inv_ite trivial (memInv_send (memInv_awaitAnswer (memInv_updSlot (memInv_askEntry h _
      _ _ _) _ _) _ _ _ _) _ _ _ _)))

theorem memInv_deliverPop (c part : Nat) (r : ConfRec) (slot : Nat) (gen : BitVec 32) (tag : Nat) : MemInv (deliverPop s c part r slot gen tag) :=
  memInv_answerFrom (memInv_setCluster hs _ _) _ _ _ _ _ _

theorem memInv_cqPopRequest : MemInv (cqPopRequest s) := by
  unfold cqPopRequest
  grind [memInv_deliverTag, memInv_refuseFrom, memInv_setCluster, memInv_deliverPop, memInv_updSlot, memInv_answerFrom, memInv_policyWait]

theorem outInv_execCqpop (x : Fld) : OutInv (execCqpop x s) :=
  memInv_issue hs _ _ _ (fun _ _ h => Eff.inv_ite trivial (memInv_send (memInv_awaitAnswer (memInv_updSlot (memInv_askEntry h _ _ _ _) _ _) _ _ _ _)
      _ _ _ _))

theorem memInv_dispatchSealed (c part : Nat) (r : ConfRec) : MemInv (dispatchSealed s c part r) := memInv_recordEnqueue (memInv_updCluster hs _ _) _ _

theorem memInv_confluenceSelect : MemInv (confluenceSelect s) := by
  unfold confluenceSelect
  grind [memInv_refuseFrom, memInv_setCluster, memInv_deliverPop, memInv_dispatchSealed, memInv_updCluster]

theorem outInv_execCqstat (x : Fld) : OutInv (execCqstat x s) :=
  memInv_issue hs _ _ _ (fun _ _ h => memInv_askNet h _ _ _ _ (fun _ _ h1 => memInv_answerFrom h1 _ _ _ _ _ _))

/-! ## Tabled calls -/

theorem memInv_setPigeon (p : Place) (e : Pigeon) : MemInv (s.setPigeon p e) := memInv_updCluster hs _ _

theorem memInv_dropPigeon (p : Place) : MemInv (s.dropPigeon p) := memInv_updCluster hs _ _

theorem memInv_sendTabled (c part : Nat) (d : TabledMsg) : MemInv (sendTabled s c part d) := memInv_sendTag hs _ _ _ _

theorem memInv_pushCall (slot : Nat) (u : Bool) (p : Place) : MemInv (pushCall s slot u p) := memInv_updSlot hs _ _

theorem memInv_untabledCall (r : TabledReq) (c : Nat) : MemInv (untabledCall s r c) := memInv_sendTabled (memInv_pushCall hs _ _ _) _ _ _

theorem memInv_produceCall (r : TabledReq) (p : Place) (retry : Nat) : MemInv (produceCall s r p retry) :=
  memInv_sendTabled (memInv_tick (memInv_pushCall (memInv_setPigeon hs _ _) _ _ _)) _ _ _

theorem memInv_answerCall (r : TabledReq) (p : Place) (e : Pigeon) (k : Nat) : MemInv (answerCall s r p e k) := memInv_sendTabled hs _ _ _

theorem memInv_consumeCall (r : TabledReq) (p : Place) (e : Pigeon) : MemInv (consumeCall s r p e) := by
  unfold consumeCall
  exact memInv_updSlot (memInv_awaitAnswer (memInv_pushCall (memInv_cur (memInv_setPigeon hs _ _) _) _ _ _) _ _ _ _) _ _

theorem memInv_startWalk (r : TabledReq) (p : Place) : MemInv (startWalk s r p) := memInv_postOp hs _

theorem memInv_provisional (r : TabledReq) (p : Place) (e : Pigeon) : MemInv (provisional s r p e) :=
  memInv_answerCall (memInv_setPigeon (memInv_tick hs) _ _) _ _ _ _

theorem memInv_tcallAt (r : TabledReq) : MemInv (tcallAt s r) := by
  unfold tcallAt
  grind [memInv_untabledCall, memInv_produceCall, memInv_answerCall, memInv_setPigeon, memInv_tick, memInv_provisional, memInv_sendTabled,
      memInv_pushCall, memInv_startWalk]

theorem memInv_updPigeons (f : Place → Pigeon → Pigeon) (l : List Place) : MemInv (updPigeons s f l) := by
  induction l generalizing s with
  | nil => exact hs
  | cons p l ih =>
    refine ih ?_
    split
    · exact hs
    · exact memInv_setPigeon hs _ _

theorem memInv_formGroup (part : Nat) (ms : List Place) : ∀ t, formGroup s part ms = some t → MemInv t := by
  unfold formGroup
  grind [memInv_updPigeons]

theorem memInv_chainWalkResult (r : TabledReq) (cycle : Bool) (members : List Place) (stamps : List W64) :
    MemInv (chainWalkResult s r cycle members stamps) := by
  unfold chainWalkResult
  grind [memInv_tcallAt, memInv_consumeCall, memInv_sendTabled, memInv_formGroup, memInv_untabledCall, memInv_provisional]

theorem outInv_execChainWalkResult (r : TabledReq) (cycle : Bool) (members : List (Nat × Nat)) (stamps : List W64) :
    OutInv (execChainWalkResult r cycle members stamps s) :=
  memInv_ite (memInv_chainWalkResult hs _ _ _ _) hs

theorem memInv_descRead (r : TabledReq) (v : Nat) : MemInv (descRead s r v) := memInv_postOp hs _

theorem memInv_readDescriptor (r : TabledReq) : MemInv (readDescriptor s r) :=
  memInv_ite (memInv_holdAt hs _ _) (by grind [memInv_homeOf, memInv_lineAccess, memInv_descRead, memInv_sliceBytes, memInv_guardReport, memInv_post,
      LineGot.Inv])

theorem memInv_pinAt (r : TabledReq) : MemInv (pinAt s r).1 := by
  unfold pinAt
  grind [memInv_dropPigeon, memInv_setPigeon]

theorem memInv_awaitArg (r : TabledReq) (i : Nat) : MemInv (awaitArg s r i) := memInv_updSlot (memInv_withdraw (memInv_deliverTag hs _ _) _) _ _

theorem memInv_keyRequest (r : TabledReq) : MemInv (keyRequest s r) :=
  memInv_ite (memInv_post hs _ _) (by grind [memInv_awaitArg, memInv_deliverTag, memInv_tcallAt, memInv_answerFrom, memInv_pinAt])

theorem outInv_execTabledRequest (r : TabledReq) : OutInv (execTabledRequest r s) :=
  memInv_ite (memInv_deliverTag hs _ _) (memInv_ite (memInv_readDescriptor hs _) (memInv_keyRequest hs _))

theorem memInv_retag (tag : Nat) (addr : W64) : MemInv (retag s tag addr) := memInv_updSlot hs _ _

theorem memInv_tabledForm (x : Fld) (kind : Nat) (desc : W64) (dests : List Nat) : (tabledForm x s kind desc dests).Inv :=
  memInv_send (memInv_awaitAnswer (memInv_retag (memInv_askEntry hs _ _ _ _) _ _) _ _ _ _) _ _ _ _

theorem outInv_execTcall (x : Fld) : OutInv (execTcall x s) :=
  memInv_issue hs _ _ _ (fun _ _ h => Eff.inv_ite trivial (by grind [memInv_tabledForm, Eff.Inv]))

theorem memInv_pinForm (x : Fld) (kind : Nat) : MemInv (pinForm x s kind) :=
  memInv_issue hs _ _ _ (fun _ _ h => by grind [memInv_tabledForm, Eff.Inv])

theorem outInv_execTqry (x : Fld) : OutInv (execTqry x s) :=
  memInv_issue hs _ _ _ (fun _ _ h => Eff.inv_ite trivial (by grind [memInv_setSlot, memInv_tick, memInv_send, Eff.Inv]))

theorem memInv_wakeWaiter (p : Place) (e : Pigeon) (k : Nat) (w : Waiter) : MemInv (wakeWaiter s p e k w) :=
  memInv_ite (memInv_sendTabled hs _ _ _) (memInv_sendTabled hs _ _ _)

theorem memInv_wakeAll (p : Place) (e : Pigeon) : MemInv (wakeAll s p e) := memInv_foldl (fun _ _ h => memInv_wakeWaiter h _ _ _ _) _ hs

theorem memInv_changeGrouped (p : Place) (e : Pigeon) (ans : List W64) : MemInv (changeGrouped s p e ans) :=
  memInv_ite hs (by grind [memInv_updPigeons, memInv_setPigeon])

theorem memInv_returnCall (p : Place) (slot : Nat) (gen : BitVec 32) (tag : Nat) : MemInv (returnCall s p slot gen tag) := by
  unfold returnCall
  grind [memInv_sendTabled]

theorem memInv_memberReturn (p : Place) (slot : Nat) (gen : BitVec 32) (tag : Nat) : MemInv (memberReturn s p slot gen tag) := by
  unfold memberReturn
  split
  · exact hs
  · refine memInv_ite (memInv_returnCall (memInv_setPigeon hs _ _) _ _ _ _) (memInv_updSlot (memInv_foldl (fun _ _ h => ?_) _ ?_) _ _)
    · exact memInv_wakeWaiter h _ _ _ _
    · exact memInv_setPigeon (memInv_tick (memInv_setPigeon hs _ _)) _ _

theorem memInv_trapWaiters (ps : List Place) (cause : Nat) (info : W64) (pop : Bool) (who : Waiter → Bool) :
    MemInv (trapWaiters s ps cause info pop who) := by
  refine memInv_foldl (fun _ _ h => ?_) _ hs
  split
  · exact h
  · exact memInv_foldl (fun _ _ h => memInv_sendTabled h _ _ _) _ h

theorem memInv_wakeMembers (ms : List Place) :
    MemInv (ms.foldl (fun s q => match s.pigeonAt q with
      | none => s
      | some e => wakeAll s q e) s) := by
  refine memInv_foldl (fun _ _ h => ?_) _ hs
  split
  · exact h
  · exact memInv_wakeAll h _ _

theorem memInv_leaderReturn (p : Place) (slot : Nat) (gen : BitVec 32) (tag : Nat) : MemInv (leaderReturn s p slot gen tag) := by
  unfold leaderReturn
  split
  · exact hs
  · refine memInv_ite (memInv_returnCall (memInv_tick (memInv_updPigeons (memInv_wakeMembers hs _) _ _)) _ _ _ _) (memInv_ite ?_ ?_)
    · exact memInv_sendTabled (memInv_updPigeons hs _ _) _ _ _
    · exact memInv_foldl (fun _ _ h => memInv_dropPigeon h _) _ (memInv_sendTabled (memInv_trapWaiters hs _ _ _ _ _) _ _ _)

theorem memInv_tabledAnswer (kind part : Nat) (entry : W64) (ans : List W64) (slot : Nat) (gen : BitVec 32) (tag : Nat) :
    MemInv (tabledAnswer s kind part entry ans slot gen tag) := by
  unfold tabledAnswer
  grind [memInv_answerFrom, memInv_sendTabled, memInv_deliverTag, memInv_setPigeon, memInv_returnCall, memInv_tick, memInv_wakeAll,
      memInv_changeGrouped, memInv_leaderReturn, memInv_memberReturn]

theorem memInv_sendAnswer (x : Fld) (kind : Nat) (entry : W64) : (sendAnswer x s kind entry).Inv :=
  memInv_send (memInv_awaitAnswer (memInv_retag (memInv_askEntry hs _ _ _ _) _ _) _ _ _ _) _ _ _ _

theorem outInv_execTret (x : Fld) : OutInv (execTret x s) :=
  memInv_issue hs _ _ _ (fun _ _ h => by grind [memInv_setSlot, memInv_sendAnswer, Eff.Inv])

theorem outInv_execTseed (x : Fld) : OutInv (execTseed x s) := memInv_issue hs _ _ _ (fun _ _ h => by grind [memInv_sendAnswer, Eff.Inv])

theorem memInv_answerCopy (slot : Nat) (w ans : List W64) : MemInv (answerCopy s slot w ans).1 := by
  unfold answerCopy
  grind [memInv_writeWords, memInv_setSlot]

theorem memInv_tabledDelivery (d : TabledMsg) : MemInv (tabledDelivery s d) :=
  memInv_ite (memInv_updCore (memInv_deliverTag hs _ _) _ _) (by grind [memInv_deliverTag, memInv_answerCopy, memInv_setSlot, memInv_withdraw,
      memInv_updSlot, memInv_trapEntry])

theorem memInv_rerunConsumers (p : Place) (e : Pigeon) : MemInv (rerunConsumers s p e) := memInv_foldl (fun _ _ h => memInv_sendTabled h _ _ _) _ hs

theorem memInv_rerunMembers (ms : List Place) :
    MemInv (ms.foldl (fun s q => match s.pigeonAt q with
      | none => s
      | some m => rerunConsumers s q m) s) := by
  refine memInv_foldl (fun _ _ h => ?_) _ hs
  split
  · exact h
  · exact memInv_rerunConsumers h _ _

theorem memInv_producerKill (p : Place) (slot : Nat) (gen : BitVec 32) : MemInv (producerKill s p slot gen) := by
  unfold producerKill
  split
  · exact hs
  · refine memInv_ite hs (memInv_ite (memInv_ite ?_ ?_) (memInv_updPigeons (memInv_postAll (memInv_rerunMembers ?_ _) _) _ _))
    · exact memInv_setPigeon (memInv_rerunConsumers hs _ _) _ _
    · exact memInv_dropPigeon (memInv_trapWaiters hs _ _ _ _ _) _
    · exact memInv_trapWaiters hs _ _ _ _ _

end

end Sys2Proof.Machine
end

section
/-! SUPPORT. Memory's canonical form (R49) through couriers, the term arrays and their sequencer, and the system forms. -/

namespace Sys2Proof.Machine
open Sys2Proof

section
variable {s : State} (hs : MemInv s)
include hs

/-! ## Couriers -/

theorem memInv_putCopy (tag : Nat) (j : CopyJob) : MemInv (putCopy s tag j) :=
  memInv_ite (memInv_post (by exact hs) _ _) (by exact hs)

theorem memInv_holdCopy (tag : Nat) (j : CopyJob) (page lo hi : Nat) (accepted : Bool) (addr : W64) :
    MemInv (holdCopy s tag j page lo hi accepted addr) :=
  memInv_ite (memInv_copyRefused hs _ _ _) (memInv_ite (by exact hs) (memInv_sendFault (by exact hs) _ _))

theorem memInv_acceptCheck (j : CopyJob) (lo hi : Nat) : MemInv (acceptCheck s j lo hi).1 := by
  unfold acceptCheck
  grind [memInv_translate, memInv_homeAt]

theorem memInv_of_acceptCheck {t : State} {j : CopyJob} {lo hi : Nat} {c : Home} (h : acceptCheck s j lo hi = (t, c)) : MemInv t := by
  have ht := memInv_acceptCheck hs j lo hi
  rwa [h] at ht
theorem memInv_copyAccept : MemInv (copyAccept s) := by
  have ht := memInv_tick hs
  unfold copyAccept
  dsimp only
  split
  · exact hs
  split
  · exact ht
  refine memInv_ite (memInv_post ht _ _) ?_
  split
  · exact memInv_copyRefused ht _ _ _
  · next r _ _ _ _ =>
    split
    · next hc => exact memInv_copyRefused (memInv_of_acceptCheck ht hc) _ _ _
    · next hc =>
      have hc := memInv_holdCopy (memInv_of_acceptCheck ht hc) s.cur
      exact memInv_ite (hc _ _ _ _ _ _) (memInv_post (hc _ _ _ _ _ _) _ _)
    · next hc =>
      have hc := memInv_of_acceptCheck ht hc
      split
      · exact memInv_copyRefused hc _ _ _
      · exact memInv_ite (memInv_copies (memInv_ite hc (memInv_post hc _ _)) _) (memInv_post (memInv_copies (memInv_ite hc (memInv_post hc _ _)) _) _
          _)

theorem memInv_readSource (tag : Nat) (j : CopyJob) (i n : Nat) (o : Op) : (readSource s tag j i n o).Inv := by
  unfold readSource
  grind [memInv_look, memInv_holdAt, memInv_translate, memInv_nonMemberLine, memInv_sliceBytes, LineGot.Inv, CopyRead.Inv]

theorem memInv_stickBytes (tag : Nat) (j : CopyJob) (i n : Nat) (v : Option V512) : MemInv (stickBytes s tag j i n v) :=
  memInv_ite (memInv_post (by exact hs) _ _) (by exact hs)

theorem memInv_copyRead (tag : Nat) (j : CopyJob) (i n : Nat) : MemInv (copyRead s tag j i n) := by
  unfold copyRead
  grind [memInv_readSource, memInv_stickBytes, memInv_copyRefused, memInv_post, memInv_holdCopy, memInv_courBytes, memInv_inject, memInv_of_mem,
      CopyRead.Inv]

theorem memInv_copyWrite (tag : Nat) (j : CopyJob) (i n : Nat) (v : V512) : MemInv (copyWrite s tag j i n v) :=
  memInv_ite (memInv_copyRefused hs _ _ _) (memInv_ite (memInv_stickBytes (memInv_holdAt hs _ _) _ _ _ _ _) (by grind [memInv_copyHome,
      memInv_copyRefused, memInv_deliver, memInv_post, memInv_holdCopy, memInv_nonMemberLine, memInv_putCopy, memInv_pathWrite, memInv_sliceBytes,
      memInv_stickBytes, memInv_write, LineGot.Inv]))

theorem memInv_copyDelivery : MemInv (copyDelivery s) := by
  have ht := memInv_tick hs
  unfold copyDelivery
  dsimp only
  split
  · exact hs
  split
  · split
    · exact ht
    · split
      · exact memInv_copyWrite (memInv_copies ht _) _ _ _ _ _
      · exact memInv_copyRead (memInv_copies ht _) _ _ _ _
  · split
    · exact memInv_copyWrite ht _ _ _ _ _
    · split
      · exact memInv_copyRead ht _ _ _ _
      · exact ht

theorem memInv_sendTags (ni : State → Nat) (part tag : Nat) (l : List Op) : MemInv (l.foldl (fun s o => s.sendTag (ni s) part tag o) s) :=
  memInv_foldl (fun _ _ h => memInv_sendTag h _ _ _ _) _ hs

theorem memInv_copyCompletion : MemInv (copyCompletion s) := by
  have hc (l : Sp CopyJob) := memInv_copies hs l
  unfold copyCompletion
  dsimp only
  split
  · exact hs
  · split
    · exact memInv_copyApplied (hc _) _
    · split
      · exact memInv_sendTags (hc _) _ _ _ _
      · split
        · exact memInv_sendTags (hc _) _ _ _ _
        · exact memInv_sendTags (hc _) _ _ _ _

theorem memInv_startCopy (src dst : W64) (sstride dstride rows len : Nat) (target : BitVec 32) (place : Nat) (multi : Bool) :
    (startCopy s src dst sstride dstride rows len target place multi).Inv := by
  have ht (o : Slot) := memInv_setSlot (memInv_tick hs) s.cur o
  unfold startCopy
  exact Eff.inv_ite trivial (Eff.inv_ite trivial (Eff.inv_ite trivial
    (memInv_ite (memInv_post (memInv_copies (ht _) _) _ _) (memInv_post (memInv_copies (ht _) _) _ _))))

theorem outInv_execCpy (x : Fld) : OutInv (execCpy x s) :=
  memInv_issue hs _ _ _ (fun _ _ h => Eff.inv_ite trivial (memInv_startCopy h _ _ _ _ _ _ _ _ _))

theorem memInv_copyDescriptor (a : W64) (f : State → (Nat → W64) → Eff) (hf : ∀ s a1, MemInv s → (f s a1).Inv) : (copyDescriptor s a f).Inv := by
  unfold copyDescriptor
  grind [memInv_localRead, Eff.Inv]

theorem outInv_execCpys (x : Fld) : OutInv (execCpys x s) :=
  memInv_issue hs _ _ _ (fun _ _ h => memInv_copyDescriptor h _ _ (fun _ _ h1 => Eff.inv_ite trivial (memInv_startCopy h1 _ _ _ _ _ _ _ _ _)))

theorem outInv_execCpy3 (x : Fld) : OutInv (execCpy3 x s) :=
  memInv_issue hs _ _ _ (fun _ _ h => memInv_copyDescriptor h _ _ (fun _ _ h1 => Eff.inv_ite trivial (Eff.inv_ite (Eff.inv_ite trivial
      (memInv_startCopy h1 _ _ _ _ _ _ _ _ _)) (by grind [memInv_startCopy, Eff.Inv]))))

theorem outInv_execCpym (x : Fld) : OutInv (execCpym x s) :=
  memInv_issue hs _ _ _ (fun _ _ h => memInv_copyDescriptor h _ _ (fun _ _ h1 => Eff.inv_ite trivial (Eff.inv_ite trivial (memInv_startCopy h1 _ _ _
      _ _ _ _ _ _))))

/-! ## Array forms -/

theorem memInv_mxForm (u : Uses) (x : Fld) (graceToo : Bool) (body : Vals → State → Eff) (hbody : ∀ a0 s, MemInv s → (body a0 s).Inv) : MemInv
    (mxForm u x s graceToo body) :=
  memInv_issue hs _ _ _ (fun _ _ h => Eff.inv_ite trivial (by grind [memInv_updArr, Eff.Inv]))

theorem memInv_mxQueue (op : MxOp) (img : MxImage) (a b : W64) (f : TermArray → TermArray) : (mxQueue s op img a b f).Inv :=
  Eff.inv_ite trivial (memInv_ite (memInv_postOnce (memInv_updArr hs _ _) _) (memInv_updArr hs _ _))

theorem memInv_readBlock (off n : Nat) : ∀ t r, readBlock s off n = .ok (t, r) → MemInv t := by
  induction n generalizing s off with
  | zero => grind [readBlock]
  | succ n ih =>
    unfold readBlock
    grind [memInv_localRead]

theorem memInv_mxBlock (a : W64) (lines : Nat) (f : State → List W64 → Eff) (hf : ∀ s a1, MemInv s → (f s a1).Inv) : (mxBlock s a lines f).Inv :=
  Eff.inv_ite trivial (Eff.inv_ite trivial (by grind [memInv_readBlock, Eff.Inv]))

theorem outInv_execMxlease (x : Fld) : OutInv (execMxlease x s) :=
  memInv_issue hs _ _ _ (fun _ _ h => Eff.inv_ite (memInv_putG h _ _) (Eff.inv_ite (memInv_putG h _ _) (Eff.inv_ite (memInv_putG (memInv_grantTo
      (memInv_updArr h _ _) _ _ _) _ _) (memInv_awaitAnswer (memInv_askEntry (memInv_updSlot (memInv_updArr (memInv_updArr h _ _) _ _) _ _) _ _ _ _)
      _ _ _ _))))

theorem outInv_execMxfree (x : Fld) : OutInv (execMxfree x s) := memInv_mxForm hs _ _ _ _ (fun _ _ h => memInv_mxQueue h _ _ _ _ _)

theorem outInv_execMxcfg (x : Fld) : OutInv (execMxcfg x s) :=
  memInv_mxForm hs _ _ _ _ (fun _ _ h => memInv_mxBlock h _ _ _ (fun _ _ h1 => Eff.inv_ite trivial (Eff.inv_ite trivial (memInv_mxQueue h1 _ _ _ _
      _))))

theorem outInv_execMxunf (x : Fld) : OutInv (execMxunf x s) :=
  memInv_mxForm hs _ _ _ _ (fun _ _ h => memInv_mxBlock h _ _ _ (fun _ _ h1 => Eff.inv_ite trivial (memInv_mxQueue h1 _ _ _ _ _)))

theorem outInv_execMxldb (x : Fld) : OutInv (execMxldb x s) :=
  memInv_mxForm hs _ _ _ _ (fun _ _ h => Eff.inv_ite trivial (memInv_mxQueue h _ _ _ _ _))

theorem outInv_execMxrun (x : Fld) : OutInv (execMxrun x s) :=
  memInv_mxForm hs _ _ _ _ (fun _ _ h => Eff.inv_ite trivial (Eff.inv_ite trivial (Eff.inv_ite trivial (by grind [memInv_mxQueue, memInv_dueOp,
      Eff.Inv]))))

theorem outInv_execMxzero (x : Fld) : OutInv (execMxzero x s) := memInv_mxForm hs _ _ _ _ (fun _ _ h => memInv_mxQueue h _ _ _ _ _)

theorem memInv_mxStop (c : Nat) : MemInv (mxStop s c) :=
  memInv_answerWaits (memInv_ite (memInv_updArr (memInv_stopColumns hs _) _ _) (memInv_updArr hs _ _)) _

theorem memInv_mxResume (c : Nat) : MemInv (mxResume s c) := memInv_ite (memInv_postOnce (memInv_updArr hs _ _) _) (memInv_updArr hs _ _)

theorem outInv_execMxstop (x : Fld) : OutInv (execMxstop x s) := memInv_mxForm hs _ _ _ _ (fun _ _ h => memInv_mxStop h _)

theorem outInv_execMxresume (x : Fld) : OutInv (execMxresume x s) := memInv_mxForm hs _ _ _ _ (fun _ _ h => memInv_mxResume h _)

theorem memInv_readoutForm (x : Fld) (op : MxOp) : MemInv (readoutForm x s op) :=
  memInv_mxForm hs _ _ _ _ (fun _ _ h => by grind [memInv_mxQueue, Eff.Inv])

theorem outInv_execMxwait (x : Fld) : OutInv (execMxwait x s) :=
  memInv_issue hs _ _ _ (fun _ _ h => Eff.inv_ite (fun _ h' => memInv_updArr h' _ _) (Eff.inv_ite trivial (by grind [memInv_updArr, memInv_putG,
      memInv_updSlot, memInv_awaitAnswer, memInv_askEntry, Eff.Inv])))

theorem outInv_execMxstat (x : Fld) : OutInv (execMxstat x s) := memInv_issue hs _ _ _ (fun _ _ h => memInv_putG h _ _)

/-! ## The sequencer -/

theorem memInv_fetch (x : Accessor) (k : MxCmd) : MemInv (s.fetch x k).s := by
  unfold State.fetch
  grind []

theorem memInv_asked (c home : Nat) (t : Bool) : MemInv (s.asked c home t) :=
  memInv_deliver (memInv_inject (memInv_deliver (memInv_inject hs _ _ _) _ _) _ _ _) _ _

theorem memInv_of_nonMemberLine {t : State} {sl part va loc len : Nat} {wr : Bool} {writes : Nat → List (Nat × Nat × Nat)} {o : Op} {r : LineGot}
    (h : nonMemberLine s sl part va loc len wr writes o = r) (ht : LineGot.Inv r → MemInv t) : MemInv t :=
  ht (h ▸ memInv_nonMemberLine hs sl part va loc len wr writes o)

end

section
variable {f : Fetch} (hf : MemInv f.s)
include hf

theorem memInv_fetch_fail (src : Nat) (addr : W64) (e : Nat × Option Nat) : MemInv (f.fail src addr e).s := hf

theorem memInv_fetch_line (c line : Nat) : MemInv (f.line c line).1.s := by
  have ht := memInv_tick hf
  unfold Fetch.line
  dsimp only
  split
  · exact hf
  · split
    · exact ht
    · exact memInv_look ht _ _ _ _

theorem memInv_fetch_part (c : Nat) (o : Op) (a : W64) (n : Nat) : MemInv (f.part c o a n).1.s := by
  have hh := memInv_homeOf hf f.acc a n true false
  unfold Fetch.part
  dsimp only
  split
  · exact hf
  split
  · next he => rwa [he] at hh
  · next he => rwa [he] at hh
  · next he => rwa [he] at hh
  · next t dev va l he =>
    have hh : MemInv t := by rwa [he] at hh
    split
    · exact hh
    · split
      · next hl => exact memInv_fetch_line (memInv_asked (memInv_sliceBytes (memInv_of_nonMemberLine hh hl id) _ _) _ _ _) _ _
      · next hl => exact memInv_of_nonMemberLine hh hl id
  · next t _ _ _ he =>
    have hh : MemInv t := by rwa [he] at hh
    exact memInv_fetch_line (memInv_asked hh _ _ _) _ _

theorem memInv_fetch_bytes (c : Nat) (o : Op) (a : W64) (n : Nat) : MemInv (f.bytes c o a n).1.s := by
  unfold Fetch.bytes
  grind [memInv_fetch_part]

theorem memInv_fetch_geom (c : Nat) (a : W64) (n : Nat) : MemInv (f.geom c a n).1.s := by
  unfold Fetch.geom
  grind [memInv_translate]

theorem memInv_fetch_elem (c : Nat) (o : Op) (src : Nat) (p : Operand) (i : Nat) : MemInv (f.elem c o src p i).1.s := by
  unfold Fetch.elem
  grind [memInv_fetch_geom, memInv_fetch_fail, memInv_fetch_bytes]

theorem memInv_fetch_operand (c src : Nat) (m : MxImage) : MemInv (f.operand c src m).1.s := by
  unfold Fetch.operand
  grind [memInv_fetch_geom, memInv_fetch_fail]

theorem memInv_fetchA (c : Nat) (o : Op) (m : MxImage) (p : Operand) (col : Nat) (l : List Nat) : MemInv (fetchA f c o m p col l).1.s := by
  induction l generalizing f with
  | nil => exact hf
  | cons k l ih =>
    refine ih ?_
    split
    · exact hf
    · exact memInv_fetch_elem hf _ _ _ _ _

theorem memInv_fetchB (c : Nat) (o : Op) (p : Operand) (i : Nat) (frac : Sp Nat) (l : List Nat) : MemInv (fetchB f c o p i frac l).1.s := by
  induction l generalizing f frac with
  | nil => exact hf
  | cons n l ih =>
    have he := memInv_fetch_elem hf c o 2 p (i + n)
    refine ih ?_ _
    grind [memInv_fetch_fail]

theorem memInv_fetchCols (c : Nat) (o : Op) (m : MxImage) (p : Operand) (ks l : List Nat) : MemInv (fetchCols f c o m p ks l).1.s := by
  induction l generalizing f with
  | nil => exact hf
  | cons col l ih => exact ih (memInv_fetchA hf _ _ _ _ _ _)

theorem memInv_fetchRows (c : Nat) (o : Op) (m : MxImage) (p : Operand) (frac : Sp Nat) (l : List Nat) :
    MemInv (fetchRows f c o m p frac l).1.s := by
  induction l generalizing f frac with
  | nil => exact hf
  | cons j l ih => exact ih (memInv_fetchB hf _ _ _ _ _ _) _

theorem memInv_fetch_keep (c : Nat) (frac : Sp Nat) : MemInv (f.keep c frac) := memInv_updArr hf _ _

end

section
variable {s : State} (hs : MemInv s)
include hs
theorem memInv_fetchStep (c : Nat) (o : Op) (k : MxCmd) (k0 kn j : Nat) : MemInv (fetchStep s c o k k0 kn j).1.s := by
  unfold fetchStep
  grind [memInv_fetch_operand, memInv_fetch, memInv_fetchCols, memInv_fetch_fail, memInv_fetchRows]

theorem memInv_stepFails (c : Nat) (e : MxErr) : MemInv (stepFails s c e) := by
  unfold stepFails
  grind [memInv_runFail, memInv_sendFault, memInv_updArr, memInv_stopColumns]

theorem memInv_macroStep : MemInv (macroStep s) := by
  unfold macroStep
  grind [memInv_postOnce, memInv_fetchStep, memInv_fetch_keep, memInv_stepFails, memInv_updArr, memInv_tick, memInv_mxDone]

theorem memInv_startReadout (c : Nat) (k : MxCmd) : MemInv (startReadout s c k) :=
  memInv_ite (memInv_postOnce (memInv_updArr (memInv_tick hs) _ _) _) (memInv_ite (memInv_postOnce (memInv_updArr (memInv_tick hs) _ _) _) (by grind
      [memInv_fetch_geom, memInv_fetch, memInv_mxDone, memInv_readoutFail, memInv_postOnce, memInv_updArr, memInv_tick]))

theorem memInv_sequencerCommand : MemInv (sequencerCommand s) := by
  unfold sequencerCommand
  grind [memInv_updArr, memInv_mxDone, memInv_answerWaits, memInv_postOnce, memInv_startReadout, memInv_mxRevoke]

theorem memInv_itemBytes (c : Nat) (q : MxWrite) (a : W64) : MemInv (itemBytes s c q a).1 := by
  unfold itemBytes
  grind [memInv_fetch, memInv_fetch_geom, memInv_fetch_bytes]

theorem memInv_itemFails (c : Nat) (q : MxWrite) (e : MxErr) : MemInv (itemFails s c q e) :=
  memInv_ite hs (by grind [memInv_readoutFail, memInv_updArr, memInv_sendFault])

theorem memInv_arrayWrite (c l v n : Nat) : MemInv (arrayWrite s c l v n) := memInv_updArr (memInv_pathWrite hs _ _ _ _) _ _

theorem memInv_deliverItem (c : Nat) (q : MxWrite) : MemInv (deliverItem s c q) := by
  unfold deliverItem
  grind [memInv_deliver, memInv_itemBytes, memInv_itemFails, memInv_updArr, memInv_homeOf, memInv_arrayWrite, memInv_of_mem]

theorem memInv_sendItem (c : Nat) (k : MxCmd) : MemInv (sendItem s c k) := memInv_updArr (memInv_inject hs _ _ _) _ _

theorem memInv_readoutGoes (c : Nat) : MemInv (readoutGoes s c) :=
  memInv_ite (memInv_postOnce hs _) (memInv_ite (memInv_postOnce hs _) (by grind [memInv_mxDone, memInv_postOnce]))

theorem memInv_flyAgain (c page : Nat) : MemInv (flyAgain s c page) := memInv_foldl (fun _ _ h => memInv_inject h _ _ _) _ (memInv_updArr hs _ _)

theorem memInv_readoutStep : MemInv (readoutStep s) :=
  memInv_readoutGoes (by grind [memInv_tick, memInv_flyAgain, memInv_deliverItem, memInv_updArr, memInv_sendItem]) _

theorem memInv_readoutCompletion : MemInv (readoutCompletion s) := by
  unfold readoutCompletion
  grind [memInv_send, memInv_mxDone, memInv_readoutFail]

theorem memInv_leaseGrant : MemInv (leaseGrant s) :=
  memInv_ite (memInv_ite (memInv_updArr (memInv_stopColumns hs _) _ _) hs) (by grind [memInv_updArr, memInv_stopColumns, memInv_grantTo,
      memInv_fillSlot])

theorem memInv_leaseBudgetEnd : MemInv (leaseBudgetEnd s) :=
  memInv_ite hs (memInv_ite (memInv_opAt hs _ _) (memInv_ite hs (memInv_ite (memInv_startBudget hs _) (memInv_armGrace (memInv_mxResume
      (memInv_updArr hs _ _) _) _))))

theorem memInv_graceEnd : MemInv (graceEnd s) :=
  memInv_ite hs (memInv_ite (memInv_opAt hs _ _) (memInv_mxRevoke (memInv_foldl (fun _ _ h => memInv_withdraw h _) _ (memInv_updArr hs _ _)) _))

theorem memInv_wakeArray (c page : Nat) (ready : Bool) : MemInv (wakeArray s c page ready) := by
  unfold wakeArray
  grind [memInv_updArr, memInv_postOnce, memInv_runFail, memInv_readoutGoes, memInv_flyAgain, memInv_readoutFail]

/-! ## System forms -/

theorem outInv_execSysr (x : Fld) : OutInv (execSysr x s) :=
  memInv_issue hs _ _ _ (fun _ _ h => Eff.inv_ite (memInv_startFill h _ _) (memInv_putG h _ _))

theorem memInv_writeProt (slot n sub : Nat) (v : W64) : MemInv (writeProt s slot n sub v) := memInv_updCore hs _ _

theorem memInv_sysWrite (slot num sub : Nat) (v : W64) : MemInv (sysWrite s slot num sub v) := by
  unfold sysWrite
  grind [memInv_updSlot, memInv_updCore, memInv_writeProt]

theorem outInv_execSysw (x : Fld) : OutInv (execSysw x s) := memInv_issue hs _ _ _ (fun _ _ h => Eff.inv_ite trivial (memInv_sysWrite h _ _ _ _))

theorem outInv_execTrap (x : Fld) : OutInv (execTrap x s) := memInv_issue hs _ _ _ (fun _ _ h => trivial)

theorem outInv_execRft (x : Fld) : OutInv (execRft x s) := memInv_issue hs _ _ _ (fun _ _ h => Eff.inv_ite trivial (memInv_returnFromTrap h _))

theorem outInv_execExit (x : Fld) : OutInv (execExit x s) := memInv_issue hs _ _ _ (fun _ _ h => Eff.inv_ite trivial (memInv_unitEnd h _ _ _))

theorem memInv_fireGroup (c g : Nat) : MemInv (fireGroup s c g) := memInv_ite hs (memInv_postOp (memInv_setDev hs _ _) _)

theorem memInv_haltCluster (c cause : Nat) : MemInv (haltCluster s c cause) :=
  memInv_ite hs (memInv_ite (memInv_post (memInv_ite (memInv_fireGroup (memInv_setCluster hs _ _) _ _) (memInv_setCluster hs _ _)) _ _) (memInv_ite
      (memInv_fireGroup (memInv_setCluster hs _ _) _ _) (memInv_setCluster hs _ _)))

theorem outInv_execBrk (x : Fld) : OutInv (execBrk x s) :=
  memInv_issue hs _ _ _ (fun _ _ h => Eff.inv_ite (memInv_haltCluster (memInv_updSlot h _ _) _ _) trivial)

end

end Sys2Proof.Machine
end

section
/-! SUPPORT. Memory's canonical form (R49) through the Headwater, partition management, waits, debug and boot. -/

namespace Sys2Proof.Machine
open Sys2Proof

section
variable {s : State} (hs : MemInv s)
include hs

/-! ## Queues, packets and the host window -/

theorem memInv_setQueue (q : Nat) (x : Queue) : MemInv (s.setQueue q x) := memInv_updDev hs _ _

theorem memInv_updQueue (q : Nat) (f : Queue → Queue) : MemInv (s.updQueue q f) := memInv_setQueue hs _ _

theorem memInv_answer (status : Nat) (data : List W64) : MemInv (s.answer status data) := hs

omit hs in
theorem memInv_hwAt {t : State} (ht : MemInv t) (host : Bool) (wr : Option Nat) (l n : Nat) :
    (match wr with
      | none => HwGot.ok t (t.read l n)
      | some v => HwGot.ok (if host then t.pathWrite 3 l v n else t.write l v n) 0).Inv := by
  cases wr with
  | none => exact ht
  | some v => exact memInv_ite (memInv_pathWrite ht _ _ _ _) (memInv_write ht _ _ _)

theorem memInv_hwPart (part : Nat) (a : W64) (n : Nat) (wr : Option Nat) (o : Op) (x host : Bool) : (hwPart s part a n wr o x host).Inv := by
  unfold hwPart
  dsimp only
  split
  · exact hs
  · split
    · exact memInv_hwAt hs _ _ _ _
    · exact hs
  · split
    · exact memInv_hwAt hs _ _ _ _
    · exact hs
  · next dev va _ =>
    have ht := memInv_translate hs dev (s.partAt part dev) va wr.isSome
    split
    · exact memInv_holdAt hs _ _
    split
    · next he => rwa [he] at ht
    · next he =>
      rw [he] at ht
      split
      · exact ht
      · split
        · next hl => exact memInv_hwAt (memInv_sliceBytes (memInv_of_nonMemberLine ht hl id) _ _) _ _ _ _
        · next hl => exact memInv_of_nonMemberLine ht hl id

theorem memInv_hwData (part : Nat) (a : W64) (n : Nat) (wr : Option Nat) (o : Op) (host : Bool) : (hwData s part a n wr o host).Inv := by
  unfold hwData
  grind [memInv_hwPart, HwGot.Inv]

theorem memInv_hwBytes (part : Nat) (a : W64) (n : Nat) (wr : Option Nat) (o : Op) (host : Bool) : (hwBytes s part a n wr o host).Inv := by
  unfold hwBytes
  grind [memInv_hwData, HwGot.Inv]

theorem memInv_of_hwBytes {part : Nat} {a : W64} {n : Nat} {wr : Option Nat} {o : Op} {host : Bool} {t : State} {r : HwGot}
    (h : hwBytes s part a n wr o host = r) (ht : HwGot.Inv r → MemInv t) : MemInv t := ht (h ▸ memInv_hwBytes hs part a n wr o host)
theorem memInv_hwWords (part : Nat) (a : W64) (o : Op) (n : Nat) : MemInv (hwWords s part a o n).1 := by
  induction n generalizing s a with
  | zero => exact hs
  | succ n ih =>
    unfold hwWords
    split
    · next hw => exact memInv_of_hwBytes hs hw id
    · next hw => exact memInv_of_hwBytes hs hw id
    · next t v hw =>
      have hr := ih (memInv_of_hwBytes hs hw id : MemInv t) (a + 8)
      split
      · next he => rwa [he] at hr
      · exact hr

theorem memInv_of_hwWords {part : Nat} {a : W64} {o : Op} {n : Nat} {t : State} {r : Option (List W64) × Bool}
    (h : hwWords s part a o n = (t, r)) : MemInv t := by
  have ht := memInv_hwWords hs part a o n
  rwa [h] at ht

theorem memInv_packetReads (part : Nat) (p : Packet) (o : Op) : MemInv (packetReads s part p o).1 := by
  unfold packetReads
  split
  · exact hs
  split
  · exact hs
  split
  · exact hs
  split
  · next h1 => exact memInv_of_hwWords hs h1
  · next h1 =>
    have h1 := memInv_of_hwWords hs h1
    split
    · exact h1
    split
    · exact h1
    split
    · next h2 => exact memInv_of_hwWords h1 h2
    · next h2 =>
      have h2 := memInv_of_hwWords h1 h2
      split
      · exact h2
      split
      · exact h2
      split
      · next h3 => exact memInv_of_hwWords h2 h3
      · next h3 =>
        have h3 := memInv_of_hwWords h2 h3
        split
        · exact h3
        · exact h3

theorem memInv_makeLevel (part : Nat) (h parent : W64) : MemInv (makeLevel s part h parent) :=
  memInv_ite hs (by grind [memInv_setLevel])

theorem memInv_setPacket (who : Nat) (p : Packet) : MemInv (s.setPacket who p) := memInv_updQueue hs _ _

theorem memInv_packetStart : MemInv (packetStart s) :=
  memInv_ite hs (by grind [memInv_packetReads, memInv_updQueue, memInv_dueOp, memInv_setPacket, memInv_postDue])

theorem memInv_launchLevels (part : Nat) (a b c d e : W64) :
    MemInv (makeLevel (makeLevel (makeLevel (makeLevel s part a 0) part b a) part c b) part d e) :=
  memInv_makeLevel (memInv_makeLevel (memInv_makeLevel (memInv_makeLevel hs _ _ _) _ _ _) _ _ _) _ _ _

theorem memInv_applyImages (l : List Nat) (m : List W64) : MemInv (l.foldl (fun s k => s.updCore k fun c => applyImage c m) s) :=
  memInv_foldl (fun _ _ h => memInv_updCore h _ _) _ hs

theorem memInv_launchPacket : MemInv (launchPacket s) := by
  unfold launchPacket
  dsimp only
  split
  · next part p _ _ =>
    have hl := memInv_launchLevels hs part
    refine memInv_updPart (memInv_ite ?_ (memInv_applyImages ?_ _ _)) _ _
    · split
      · exact memInv_setLevel (hl _ _ _ _ _) _ _ _
      · exact hl _ _ _ _ _
    · split
      · exact memInv_setLevel (hl _ _ _ _ _) _ _ _
      · exact hl _ _ _ _ _
  · exact hs

theorem memInv_abortQueue (qid : Nat) (p : Packet) : MemInv (abortQueue s qid p) :=
  memInv_foldl (fun _ _ h => memInv_dueOp h _) _ (memInv_setQueue hs _ _)

theorem memInv_evalWait (qid : Nat) (p : Packet) : MemInv (evalWait s qid p) :=
  memInv_ite hs (memInv_ite (memInv_abortQueue hs _ _) (memInv_ite (memInv_dueOp hs _) hs))

theorem memInv_signalsChanged (part : Nat) : MemInv (signalsChanged s part) := memInv_foldl (fun _ _ h => by grind [memInv_evalWait]) _ hs

theorem memInv_setSignal (part i : Nat) (v : W64) : MemInv (setSignal s part i v) := memInv_signalsChanged (memInv_updPart hs _ _) _

theorem outInv_execWait : OutInv (execWait s) := by
  unfold execWait
  split
  · exact memInv_evalWait hs _ _
  · exact hs

theorem outInv_execSignal : OutInv (execSignal s) := by
  unfold execSignal
  split
  · exact memInv_dueOp (memInv_setSignal (memInv_tick hs) _ _ _) _
  · exact hs

theorem memInv_copyStep (who part : Nat) (p : Packet) : MemInv (copyStep s who part p) := by
  unfold copyStep
  grind [memInv_setPacket, memInv_dueOp, memInv_postOp, memInv_tick, memInv_hwPart, HwGot.Inv]

theorem outInv_execCopy : OutInv (execCopy s) := by
  unfold execCopy
  split
  · exact memInv_ite (memInv_ite (memInv_dueOp hs _) (memInv_postOp (memInv_setPacket hs _ _) _)) (memInv_copyStep hs _ _ _)
  · exact hs

theorem outInv_execTimestamp : OutInv (execTimestamp s) := by
  unfold execTimestamp
  split
  · split
    · next hw => exact memInv_dueOp (memInv_of_hwBytes hs hw id) _
    · next hw => exact memInv_dueOp (memInv_of_hwBytes hs hw id) _
    · next hw => exact memInv_of_hwBytes hs hw id
  · exact hs

theorem memInv_packetCompletion : MemInv (packetCompletion s) := by
  unfold packetCompletion
  grind [memInv_updQueue, memInv_setSignal, memInv_hwBytes, HwGot.Inv]

theorem memInv_copyPackets (part : Nat) (q : Queue) (o : Op) (i : BitVec 32) (n : Nat) : MemInv (copyPackets s part q o i n).1 := by
  induction n generalizing s i with
  | zero => exact hs
  | succ n ih =>
    unfold copyPackets
    split
    · next hw => exact memInv_of_hwWords hs hw
    · next hw =>
      have hr := ih (memInv_of_hwWords hs hw) (i + 1)
      split
      · next he => rwa [he] at hr
      · exact hr

theorem memInv_writeTail (part qid : Nat) (v : BitVec 32) : MemInv (writeTail s part qid v) :=
  memInv_ite (memInv_answer hs _ _) (memInv_ite (memInv_answer (memInv_updDev hs _ _) _ _) (memInv_ite (memInv_answer hs _ _) (memInv_ite
      (memInv_answer (memInv_updDev hs _ _) _ _) (memInv_ite (memInv_answer hs _ _) (by grind [memInv_copyPackets, memInv_answer,
      memInv_updQueue])))))

theorem memInv_queueWrite (f : Queue → Queue) : MemInv (queueWrite s f) :=
  memInv_ite (memInv_answer (memInv_updQueue hs _ _) _ _) (memInv_answer hs _ _)

theorem memInv_assignQueue (qid : Nat) (own : Option Nat) : MemInv (assignQueue s qid own) := memInv_setQueue hs _ _

theorem outInv_execQownWrite : OutInv (execQownWrite s) := memInv_ite (memInv_answer hs _ _) (memInv_answer (memInv_assignQueue hs _ _) _ _)

theorem outInv_execHostSignalWrite : OutInv (execHostSignalWrite s) :=
  memInv_ite (memInv_answer hs _ _) (memInv_answer (memInv_setSignal hs _ _ _) _ _)

theorem memInv_windowWrite (part off : Nat) (v : W64) : MemInv (windowWrite s part off v) :=
  memInv_ite (memInv_answer hs _ _) (memInv_ite (memInv_answer hs _ _) (memInv_ite (memInv_answer (memInv_setSignal hs _ _ _) _ _) (memInv_ite
      (memInv_answer hs _ _) (memInv_ite (memInv_writeTail (by exact hs) _ _ _) (memInv_ite (memInv_answer (memInv_updQueue hs _ _) _ _) (by grind
      [memInv_answer, memInv_setQueue]))))))

theorem memInv_hostReadBytes (part va : Nat) (o : Op) (fuel n : Nat) : MemInv (hostReadBytes s part va o fuel n).1 := by
  induction fuel generalizing s va n with
  | zero => exact hs
  | succ fuel ih =>
    unfold hostReadBytes
    dsimp only
    split
    · next hw => exact memInv_of_hwBytes hs hw id
    · next hw => exact memInv_of_hwBytes hs hw id
    · next t v hw =>
      have ht : MemInv t := memInv_of_hwBytes hs hw id
      split
      · exact ht
      · have hr := ih ht (va + Nat.min n 8) (n - Nat.min n 8)
        split
        · next he => rwa [he] at hr
        · exact hr

theorem memInv_of_hostReadBytes {part va : Nat} {o : Op} {fuel n : Nat} {t : State} {r : Option (List W64) × Bool}
    (h : hostReadBytes s part va o fuel n = (t, r)) : MemInv t := by
  have ht := memInv_hostReadBytes hs part va o fuel n
  rwa [h] at ht

theorem memInv_hostRmaRead : MemInv (hostRmaRead s) := by
  unfold hostRmaRead
  refine memInv_ite (memInv_answer hs _ _) (memInv_ite (memInv_ite (memInv_answer hs _ _) ?_) (memInv_ite (memInv_answer hs _ _) ?_))
  · split
    · exact memInv_answer hs _ _
    · exact memInv_answer hs _ _
  · split
    · next hr => exact memInv_answer (memInv_of_hostReadBytes hs hr) _ _
    · next hr => exact memInv_answer (memInv_of_hostReadBytes hs hr) _ _
    · next hr => exact memInv_of_hostReadBytes hs hr

theorem memInv_hostRmaWrite : MemInv (hostRmaWrite s) :=
  memInv_ite (memInv_answer hs _ _) (memInv_ite (memInv_ite (memInv_answer hs _ _) (memInv_windowWrite hs _ _ _)) (memInv_ite (memInv_answer hs _ _)
      (by grind [memInv_hwBytes, memInv_answer, memInv_postOp, HwGot.Inv])))

/-! ## Partition management, power and links -/

theorem memInv_giveCluster (part c rel : Nat) : MemInv (giveCluster s part c rel) := memInv_updCluster hs _ _

theorem memInv_giveClusters (part : Nat) (l : List Nat) : MemInv (giveClusters s part l) :=
  memInv_foldl (fun _ _ h => memInv_giveCluster h _ _ _) _ hs

theorem memInv_armPartition (part : Nat) (l : List Nat) : MemInv (armPartition s part l) :=
  memInv_foldl (fun _ _ h => memInv_postAt (memInv_postAt h _ _ _) _ _ _) _ (memInv_postAt (memInv_postAt hs _ _ _) _ _ _)

theorem memInv_bindClasses (part : Nat) (l : List W64) : MemInv (bindClasses s part l) := by
  induction l using List.twoStepInduction generalizing s with
  | nil => exact hs
  | singleton k => exact hs
  | cons_cons k w l ih _ =>
    unfold bindClasses
    split
    · exact ih hs
    · exact ih (memInv_updCore hs _ _)

theorem memInv_assignQueues (dev : Nat) (own : Option Nat) (l : List Nat) :
    MemInv (l.foldl (fun s q => assignQueue s (dev * 64 + q) own) s) :=
  memInv_foldl (fun _ _ h => memInv_assignQueue h _ _) _ hs

theorem memInv_partitionCreate : MemInv (partitionCreate s) := by
  unfold partitionCreate
  split
  · exact memInv_ite (memInv_answer hs _ _) (memInv_answer (memInv_armPartition (memInv_assignQueues (memInv_bindClasses (memInv_giveClusters
      (memInv_setPart hs _ _) _ _) _ _) _ _ _) _ _) _ _)
  · exact memInv_answer hs _ _

theorem memInv_resetQueue (qid : Nat) : MemInv (resetQueue s qid) := memInv_foldl (fun _ _ h => memInv_dueOp h _) _ (memInv_setQueue hs _ _)

theorem memInv_killSaved (slot : Nat) (c : Saved) : MemInv (killSaved s slot c) :=
  memInv_freeSaved (memInv_postOp (memInv_postAll (by grind [memInv_post, memInv_postAll, memInv_freeLease, memInv_closePorts, memInv_readFrames]) _)
      _) _ _

theorem memInv_killSlot (slot : Nat) : MemInv (killSlot s slot) :=
  memInv_updSlot (memInv_foldl (fun _ _ h => memInv_killSaved h _ _) _ (memInv_ite hs (memInv_unitEnd hs _ _ _))) _ _

theorem memInv_askPreemption (part : Nat) : MemInv (askPreemption s part) := hs

theorem memInv_discardRecords (part : Nat) : MemInv (discardRecords s part) :=
  memInv_updPart (memInv_updDev (by exact hs) _ _) _ _

theorem memInv_slots (l : Sp Slot) : MemInv { s with slots := l } := hs

theorem memInv_raiseGens (c : Nat) : MemInv (raiseGens s c) := memInv_slots hs _

theorem memInv_resetBegins (part cause : Nat) : MemInv (resetBegins s part cause) := by
  unfold resetBegins
  have hq := memInv_foldl (fun _ q h => memInv_resetQueue h q) (s.partQueues part) hs
  have hk := memInv_foldl (fun _ i h => memInv_killSlot h i) (((s.partQueues part).foldl resetQueue s).partSlots part) hq
  have hg (l : List Nat) := memInv_discardRecords (memInv_foldl (fun _ c h => memInv_raiseGens h c) l hk) part
  exact memInv_updPart (memInv_postAll (memInv_foldl (fun _ _ h => memInv_updCluster h _ _) _ (hg _)) _) _ _

theorem memInv_resetClears (part : Nat) (words : List W64) : MemInv (resetClears s part words) :=
  memInv_updPart (memInv_bindClasses (memInv_giveClusters (memInv_foldl (fun _ _ h => memInv_updCluster h _ _) _
    (memInv_foldl (fun _ _ h => memInv_updQueue h _ _) _ (memInv_updDev (memInv_of_filter _ rfl hs) _ _))) _ _) _ _) _ _

theorem memInv_partitionReset : MemInv (partitionReset s) :=
  memInv_ite (memInv_answer hs _ _) (by grind [memInv_answer, memInv_postOp, memInv_askPreemption, memInv_resetBegins, memInv_resetClears,
      memInv_postOnce])

theorem memInv_eccCorrected (block n : Nat) : MemInv (eccCorrected s block n) :=
  memInv_ite (memInv_updCore hs _ _) (memInv_ite (memInv_updSlice hs _ _) (memInv_ite (memInv_updCluster hs _ _) (memInv_updDev hs _ _)))

theorem memInv_issueLost (slot : Nat) (gen : BitVec 32) (dest : Nat) : MemInv (issueLost s slot gen dest) :=
  memInv_ite hs (memInv_setSlot (memInv_tick hs) _ _)

theorem memInv_eccLost (path who gen tag : Nat) : MemInv (eccLost s path who gen tag) := by
  unfold eccLost
  grind [memInv_dropFlying, memInv_dropCopy, memInv_updArr, memInv_updQueue, memInv_updCluster, memInv_issueLost, memInv_of_mem]

theorem memInv_eccUncorrectable : MemInv (eccUncorrectable s) := by
  unfold eccUncorrectable
  split
  · exact memInv_eccCorrected hs _ _
  · exact memInv_foldl (fun _ _ h => memInv_ite (memInv_postOp h _) h) _ (memInv_eccLost hs _ _ _ _)
  · exact hs

theorem memInv_budgetPeriod : MemInv (budgetPeriod s) := memInv_ite hs (memInv_postAt (memInv_releaseHeld (memInv_updPart hs _ _) _) _ _ _)

theorem memInv_hostSend : MemInv (hostSend s) := by
  unfold hostSend
  grind [memInv_answer, memInv_send, memInv_tick]

theorem memInv_powerUpdate : MemInv (powerUpdate s) := hs

theorem memInv_breakRoutes (d n : Nat) : MemInv (breakRoutes s d n) :=
  memInv_freeChannels (by exact hs) _

theorem memInv_portDown (d p : Nat) : MemInv (portDown s d p) := memInv_ite hs (memInv_dueOp (memInv_breakRoutes (memInv_updDev hs _ _) _ _) _)

theorem memInv_flitRetry : MemInv (flitRetry s) := memInv_ite (memInv_dueOp (memInv_updDev hs _ _) _) (memInv_updDev hs _ _)

theorem memInv_writeDeviceTables (d : Nat) : MemInv (writeDeviceTables s d) := memInv_foldl (fun _ _ h => memInv_setRouter h _ _) _ (memInv_tick hs)

theorem memInv_writeClusterTables (d : Nat) : MemInv (writeClusterTables s d) :=
  memInv_ite (by exact hs) (memInv_foldl (fun _ _ h => memInv_foldl (fun _ _ h1 => memInv_setRouter h1 _ _) _ h) _ hs)

theorem memInv_writeTables (d : Nat) : MemInv (writeTables s d) := memInv_writeDeviceTables (memInv_writeClusterTables hs _) _

theorem memInv_routerFailure : MemInv (routerFailure s) :=
  memInv_foldl (fun _ _ h => memInv_postOp h _) _ (memInv_writeTables (memInv_ite (memInv_updSlice (memInv_setRouter hs _ _) _ _) (memInv_setRouter
      hs _ _)) _)

theorem memInv_rearmWatch (part win : Nat) : MemInv (rearmWatch s part win) :=
  memInv_foldl (fun _ _ h => memInv_ite h (by grind [memInv_postAt])) _ hs

theorem memInv_managementWrite (dev reg idx : Nat) (l : List W64) : ∀ t, managementWrite s dev reg idx l = some t → MemInv t := by
  unfold managementWrite
  grind [memInv_updPart, memInv_updCluster, memInv_rearmWatch, memInv_updDev, memInv_askPreemption, memInv_of_mem]

theorem outInv_execRegisterWrite : OutInv (execRegisterWrite s) := by
  unfold execRegisterWrite
  split
  · refine memInv_ite (memInv_windowWrite hs _ _ _) (memInv_ite (memInv_answer hs _ _) ?_)
    split
    · next hw => exact memInv_answer (memInv_managementWrite hs _ _ _ _ _ hw) _ _
    · exact memInv_answer hs _ _
  · exact memInv_answer hs _ _

/-! ## Expiries and wakes -/

theorem memInv_expire (slot cause : Nat) (info : W64) : MemInv (expire s slot cause info) := by
  unfold expire
  exact memInv_trapEntry (memInv_withdraw (memInv_dropRoutes hs _) _) _ _ _

theorem memInv_waitTimeout (slot : Nat) (gen : BitVec 32) (attempt : Nat) : MemInv (waitTimeout s slot gen attempt) :=
  memInv_ite hs (memInv_ite (memInv_postAt hs _ _ _) (memInv_expire hs _ _ _))

theorem memInv_watchdog (slot : Nat) (gen : BitVec 32) (attempt : Nat) : MemInv (watchdog s slot gen attempt) := by
  unfold watchdog
  grind [memInv_postAt, memInv_expire, memInv_cancelLevel]

theorem memInv_wakeCopy (tag page : Nat) (ready : Bool) : MemInv (wakeCopy s tag page ready) := by
  unfold wakeCopy
  grind [memInv_copyRefused, memInv_postOnce, memInv_of_mem]

theorem memInv_wakeFiring (c id : Nat) (ready : Bool) : MemInv (wakeFiring s c id ready) := by
  unfold wakeFiring
  grind [memInv_postOp, memInv_discardFiring]

theorem memInv_wakeSync (c id : Nat) (ready : Bool) : MemInv (wakeSync s c id ready) := by
  unfold wakeSync
  grind [memInv_updCluster, memInv_sendTag, memInv_readoutRefused, memInv_copyRefused]

theorem memInv_wakeOne (c : Nat) (w : Wake) (r : FaultRec) : MemInv (wakeOne s c w r) := by
  unfold wakeOne
  grind [memInv_wakeSlot, memInv_wakeCopy, memInv_wakeArray, memInv_wakeFiring, memInv_wakeOrphan, memInv_wakeSync]

theorem memInv_faultWake (c : Nat) (w : Wake) : MemInv (faultWake s c w) :=
  memInv_foldl (fun _ _ h => memInv_wakeOne h _ _ _) _ (by grind [memInv_updCluster, memInv_holdHalted])

/-! ## Debug -/

theorem outInv_execHalt : OutInv (execHalt s) := memInv_ite hs (memInv_haltCluster hs _ _)

theorem memInv_passBrk (slot : Nat) : MemInv (passBrk s slot) := memInv_ite (memInv_setSlot hs _ _) hs

theorem memInv_resumeWait (slot : Nat) (lost : Nat → Nat) : MemInv (resumeWait s slot lost) := by
  unfold resumeWait
  grind [memInv_armWait, memInv_updSlot, memInv_tick]

theorem memInv_releaseCluster (c : Nat) : MemInv (releaseCluster s c) :=
  memInv_ite hs (memInv_foldl (fun _ _ h => memInv_updSlot (memInv_resumeWait (memInv_passBrk h _) _ _) _ _) _ (memInv_setCluster hs _ _))

theorem outInv_execHaltRelease : OutInv (execHaltRelease s) := memInv_ite hs (memInv_releaseCluster hs _)

theorem outInv_execDebugStep : OutInv (execDebugStep s) := by
  unfold execDebugStep
  split
  · exact memInv_ite (memInv_updSlot (memInv_passBrk hs _) _ _) hs
  · exact hs

theorem memInv_triggerFire (g : Nat) : MemInv (triggerFire s g) := memInv_foldl (fun _ _ h => memInv_haltCluster h _ _) _ hs

theorem memInv_debugSysWrite (slot num sub : Nat) (v : W64) : MemInv (debugSysWrite s slot num sub v) := by
  unfold debugSysWrite
  grind [memInv_updSlot, memInv_updCore, memInv_sysWrite]

theorem memInv_debugWrote (dev : Nat) : MemInv (debugWrote s dev) := memInv_updDev hs _ _

theorem memInv_debugWrite (kind place x y : Nat) (v : List W64) : MemInv (debugWrite s kind place x y v).2 := by
  unfold debugWrite
  grind [memInv_setSlot, memInv_debugSysWrite, memInv_write, memInv_updCore]

theorem memInv_debugAccess : MemInv (debugAccess s) := by
  unfold debugAccess
  grind [memInv_answer, memInv_debugWrite, memInv_debugWrote]

theorem memInv_snapshotTrigger : MemInv (snapshotTrigger s) :=
  memInv_ite hs (memInv_ite (memInv_setDev hs _ _) (memInv_ite hs (memInv_opAt (memInv_setDev hs _ _) _ _)))

theorem memInv_snapshotLatch : MemInv (snapshotLatch s) := memInv_ite hs (memInv_ite (memInv_opAt hs _ _) (memInv_setDev (memInv_tick hs) _ _))

theorem memInv_snapshotRead : MemInv (snapshotRead s) := by
  unfold snapshotRead
  grind [memInv_answer, memInv_setDev]

/-! ## Boot -/

theorem memInv_clearDevice (d : Nat) : MemInv (clearDevice s d) := memInv_of_filter (fun b => locDev b.1 != d) rfl hs

theorem memInv_recover (d : Nat) : MemInv (recover s d) := memInv_updDev hs _ _

theorem memInv_bootConfigured (d slot : Nat) (m : Option Marker) (o : Nat) : MemInv (bootConfigured s d slot m o) :=
  memInv_writeTables (memInv_setDev hs _ _) _

theorem memInv_deviceReset : MemInv (deviceReset s) :=
  memInv_ite (memInv_recover (memInv_tick (memInv_clearDevice hs _)) _) (by grind [memInv_tick, memInv_clearDevice, memInv_recover,
      memInv_bootConfigured])

theorem memInv_markerFlip : MemInv (markerFlip s) := memInv_ite (memInv_answer hs _ _) (memInv_answer (memInv_setDev hs _ _) _ _)

theorem memInv_imageWrite : MemInv (imageWrite s) := by
  unfold imageWrite
  grind [memInv_answer, memInv_setDev]

theorem memInv_svnFloorRaise : MemInv (svnFloorRaise s) := memInv_ite (memInv_answer hs _ _) (memInv_answer (memInv_setDev hs _ _) _ _)

theorem memInv_attestationRequest : MemInv (attestationRequest s) :=
  memInv_ite (memInv_answer hs _ _) (memInv_ite (memInv_answer (memInv_setDev hs _ _) _ _) (memInv_ite (memInv_answer (memInv_setDev hs _ _) _ _)
      (memInv_answer (memInv_setDev hs _ _) _ _)))

theorem memInv_signingRequest : MemInv (signingRequest s) := memInv_ite (memInv_answer hs _ _) (memInv_answer hs _ _)

end

end Sys2Proof.Machine
end

section
/-! SUPPORT. Memory's canonical form (R49) through the step: every operation of the machine keeps it, and so does what a step does around one. -/

namespace Sys2Proof.Machine
open Sys2Proof

section
variable {s : State} (hs : MemInv s)
include hs

/-- Every operation keeps memory in its canonical form. -/
theorem outInv_exec (i : Instr) : OutInv (exec i s) :=
  match i with
  | .add _ | .sub _ | .and _ | .or _ | .xor _ | .shl _ | .shr _ | .mul _ | .slt _ | .min _ | .max _ | .addi _ | .andi _ | .ori _ | .xori _
  | .shli _ | .shri _ | .srai _ | .slti _ | .movi _ | .movhi _ | .lea _ | .mulhu _ | .mulhs _ | .clz _ | .ctz _ | .popc _ | .rot _ | .extu _
  | .exts _ | .ins _ | .fma _ | .flt _ | .feq _ | .fcvtf _ | .fcvti _ | .vext _ | .vrsum _ | .vamax _ | .ktog _ => memInv_aluForm hs _ _ _
  | .br _ | .beq _ | .bne _ | .blt _ | .bge _ | .bltu _ | .bgeu _ | .bz _ | .bnz _ => memInv_branchForm hs _ _ _
  | .call _ => outInv_execCall hs _
  | .jr _ => outInv_execJr hs _
  | .loop _ => outInv_execLoop hs _
  | .ldBu _ | .ldHu _ | .ldWu _ | .ldD _ | .ldBs _ | .ldHs _ | .ldWs _ => memInv_loadForm hs _ _ _ _
  | .stB _ | .stH _ | .stW _ | .stD _ => memInv_storeForm hs _ _ _
  | .vld _ => outInv_execVld hs _
  | .vst _ => outInv_execVst hs _
  | .div _ | .rem _ => memInv_divForm hs _ _
  | .fadd _ | .fsub _ | .fmul _ | .fmin _ | .fmax _ => memInv_fpForm2 hs _ _
  | .fdiv _ | .fsqrt _ => memInv_longForm hs _ _ _
  | .vadd _ | .vsub _ | .vmul _ | .vmin _ | .vmax _ | .vand _ | .vor _ | .vxor _ | .vshl _ | .vshr _ => memInv_intLane hs _ _
  | .vfadd _ | .vfsub _ | .vfmul _ | .vfmin _ | .vfmax _ => memInv_fpLane hs _ _
  | .vfma _ | .vbcast _ | .vperm _ | .vscale _ => memInv_laneForm hs _ _ _
  | .vfclt _ | .vfcle _ | .vfceq _ | .viclt _ | .viceq _ => memInv_cmpForm hs _ _
  | .vsel _ => outInv_execVsel hs _
  | .vins _ => outInv_execVins hs _
  | .vfexp2 _ | .vflog2 _ | .vfrcp _ | .vfrsq _ => memInv_fnForm hs _ _
  | .vcvt _ => outInv_execVcvt hs _
  | .vgath _ => outInv_execVgath hs _
  | .vscat _ => outInv_execVscat hs _
  | .vldf _ => outInv_execVldf hs _
  | .kand _ | .kor _ | .kxor _ | .knot _ | .gtok _ => memInv_kForm hs _ _ _
  | .aadd _ | .asmin _ | .asmax _ | .aumin _ | .aumax _ | .aand _ | .aor _ | .axor _ | .aswp _ => memInv_atomForm hs _ _ _
  | .cas _ => outInv_execCas hs _
  | .fence _ => outInv_execFence hs _
  | .acq _ => outInv_execAcq hs _
  | .rel _ => outInv_execRel hs _
  | .bind _ => outInv_execBind hs _
  | .cpy _ => outInv_execCpy hs _
  | .cpys _ => outInv_execCpys hs _
  | .cpy3 _ => outInv_execCpy3 hs _
  | .cpym _ => outInv_execCpym hs _
  | .guard _ => outInv_execGuard hs _
  | .tglook _ => outInv_execTglook hs _
  | .tgset _ => outInv_execTgset hs _
  | .tgclr _ => outInv_execTgclr hs _
  | .tgcfg _ => outInv_execTgcfg hs _
  | .mxlease _ => outInv_execMxlease hs _
  | .mxfree _ => outInv_execMxfree hs _
  | .mxcfg _ => outInv_execMxcfg hs _
  | .mxunf _ => outInv_execMxunf hs _
  | .mxldb _ => outInv_execMxldb hs _
  | .mxzero _ => outInv_execMxzero hs _
  | .mxrun _ => outInv_execMxrun hs _
  | .mxrd _ | .mxrdx _ => memInv_readoutForm hs _ _
  | .mxstat _ => outInv_execMxstat hs _
  | .mxstop _ => outInv_execMxstop hs _
  | .mxresume _ => outInv_execMxresume hs _
  | .mxwait _ => outInv_execMxwait hs _
  | .send _ => outInv_execSend hs _
  | .sendm _ => outInv_execSendm hs _
  | .popen _ => outInv_execPopen hs _
  | .pclose _ => outInv_execPclose hs _
  | .plisten _ => outInv_execPlisten hs _
  | .pstat _ => outInv_execPstat hs _
  | .cqdecl _ => outInv_execCqdecl hs _
  | .cqpush _ => outInv_execCqpush hs _
  | .cqpop _ => outInv_execCqpop hs _
  | .cqstat _ => outInv_execCqstat hs _
  | .rdxadd _ => outInv_execRdxadd hs _
  | .twrel _ => outInv_execTwrel hs _
  | .time _ => outInv_execTime hs _
  | .dcset _ => outInv_execDcset hs _
  | .dcdec _ => outInv_execDcdec hs _
  | .swinit _ => outInv_execSwinit hs _
  | .swwait _ => outInv_execSwwait hs _
  | .swadd _ => outInv_execSwadd hs _
  | .bar _ => outInv_execBar hs _
  | .phflip _ => outInv_execPhflip hs _
  | .quiet _ => outInv_execQuiet hs _
  | .tcall _ => outInv_execTcall hs _
  | .tret _ => outInv_execTret hs _
  | .tseed _ => outInv_execTseed hs _
  | .tpin _ | .tunpin _ | .tinv _ => memInv_pinForm hs _ _
  | .tqry _ => outInv_execTqry hs _
  | .arnew _ => outInv_execArnew hs _
  | .aren _ => outInv_execAren hs _
  | .arcom _ => outInv_execArcom hs _
  | .arabt _ => outInv_execArabt hs _
  | .arinfo _ => outInv_execArinfo hs _
  | .lvinc _ => outInv_execLvinc hs _
  | .lvdec _ => outInv_execLvdec hs _
  | .lvwait _ => outInv_execLvwait hs _
  | .lvcancel _ => outInv_execLvcancel hs _
  | .trap _ => outInv_execTrap hs _
  | .rft _ => outInv_execRft hs _
  | .sysr _ => outInv_execSysr hs _
  | .sysw _ => outInv_execSysw hs _
  | .exit _ => outInv_execExit hs _
  | .yield _ => outInv_execYield hs _
  | .persist _ => outInv_execPersist hs _
  | .beat _ => outInv_execBeat hs _
  | .brk _ => outInv_execBrk hs _
  | .illegalGroup _ _ _ _ => memInv_trapEntry hs _ _ _
  | .asyncCauseDelivery _ _ _ => memInv_asyncDeliver hs _ _ _
  | .fill _ _ _ _ => memInv_fillSlot hs _ _ _ _
  | .accessAcknowledge _ _ _ => memInv_ackSlot hs _ _ _
  | .releaseSend _ _ _ => memInv_releaseSend hs _ _ _
  | .refusalArrival _ _ _ _ _ => memInv_refusalArrival hs _ _ _ _ _
  | .faultReply _ _ _ _ => memInv_faultReply hs _ _ _ _
  | .faultRecordAtRouter _ _ _ => memInv_faultRecordAt hs _ _ _
  | .faultWakeAtRouter _ _ => memInv_faultWakeAt hs _ _
  | .faultWake _ _ => memInv_faultWake hs _ _
  | .waitTimeout _ _ _ => memInv_waitTimeout hs _ _ _
  | .watchdog _ _ _ => memInv_watchdog hs _ _ _
  | .messageInjection _ => memInv_messageInject hs _
  | .messageArrival _ => memInv_messageArrive hs _
  | .messageRetry _ => outInv_execMessageRetry hs _
  | .scratchpadAccess _ _ => memInv_arriveScratch hs _ _
  | .sliceAccess _ _ => memInv_sliceArrive hs _ _
  | .syncWordUpdate _ _ => memInv_syncWordUpdate hs _ _
  | .dcDecrement _ _ _ _ _ _ => memInv_dcDecrement hs _ _ _ _ _ _
  | .dcSetArrival _ _ _ _ _ _ _ _ _ => memInv_dcSetArrival hs _ _ _ _ _ _ _ _ _
  | .recordEnqueue _ _ => memInv_recordEnqueue hs _ _
  | .enqueueRetry _ _ => memInv_post hs _ _
  | .levelUpdate _ => memInv_levelUpdate hs _
  | .tabledRequest _ => outInv_execTabledRequest hs _
  | .chainWalkResult _ _ _ _ => outInv_execChainWalkResult hs _ _ _ _
  | .tabledAnswer _ _ _ _ _ _ _ => memInv_tabledAnswer hs _ _ _ _ _ _ _
  | .tabledDelivery _ => memInv_tabledDelivery hs _
  | .producerKill _ _ _ _ => memInv_producerKill hs _ _ _
  | .regionMemberKilled _ _ _ _ => memInv_regionMemberKilled hs _ _ _ _
  | .barrierArrival _ _ _ _ _ _ => memInv_barrierArrival hs _ _ _ _ _ _
  | .barrierDeparture _ _ _ _ _ => memInv_barrierDeparture hs _ _ _ _ _ _
  | .streamWordArrival _ _ _ _ _ => memInv_streamWord hs _ _ _ _ _
  | .asyncCauseTaken => memInv_asyncTaken hs
  | .refusalTrap => memInv_refusalTrap hs
  | .faultSave => memInv_faultSave hs
  | .shootdown => memInv_shootdown hs
  | .contextRestore => memInv_contextRestore hs
  | .unitStart => memInv_unitStart hs
  | .preemption => memInv_preemption hs
  | .preemptionForced => memInv_preemptionForced hs
  | .preemptRequest => memInv_preemptRequest hs
  | .heartbeatTick => memInv_heartbeatTick hs
  | .heartbeatExpiry => memInv_heartbeatExpiry hs
  | .eccUncorrectable => memInv_eccUncorrectable hs
  | .copyAccept => memInv_copyAccept hs
  | .copyDelivery => memInv_copyDelivery hs
  | .copyCompletion => memInv_copyCompletion hs
  | .dcFire => memInv_dcFire hs
  | .schedulerDispatch => memInv_schedulerDispatch hs
  | .priorityAging => outInv_execPriorityAging hs
  | .stealProbe => memInv_stealProbe hs
  | .clusterReport => memInv_clusterReport hs
  | .unitPlacement => memInv_unitPlacement hs
  | .gangPlacement => memInv_gangPlacement hs
  | .phaseSweep => memInv_phaseSweep hs
  | .phflipArrival => outInv_execPhflipArrival hs
  | .timerTick => memInv_timerTick hs
  | .timerRelease => memInv_timerRelease hs
  | .stagger => outInv_execStagger hs
  | .ptpMessage => outInv_execPtpMessage hs
  | .cqDeclarationArrival => memInv_cqDeclarationArrival hs
  | .cqPushArrival => memInv_cqPushArrival hs
  | .cqPushRetry => memInv_postOp hs _
  | .cqPopRequest => memInv_cqPopRequest hs
  | .confluenceSelect => memInv_confluenceSelect hs
  | .regionMemberJoin => memInv_regionMemberJoin hs
  | .prepare => memInv_prepareAt hs
  | .regionVote => memInv_regionVote hs
  | .regionInstall => memInv_regionInstall hs
  | .regionInstallAck => memInv_regionInstallAck hs
  | .regionAbortRequest => memInv_regionAbortRequest hs
  | .regionDiscard => memInv_regionDiscard hs
  | .regionDiscardAck => memInv_regionDiscardAck hs
  | .regionDeadline => memInv_askAbort hs _ _ _ _
  | .routeHop => memInv_routeHop hs
  | .closingMarkerArrival => memInv_closingMarker hs
  | .leaseGrant => memInv_leaseGrant hs
  | .leaseBudgetEnd => memInv_leaseBudgetEnd hs
  | .graceEnd => memInv_graceEnd hs
  | .sequencerCommand => memInv_sequencerCommand hs
  | .macroStep => memInv_macroStep hs
  | .readout => memInv_readoutStep hs
  | .readoutCompletion => memInv_readoutCompletion hs
  | .qtailWrite => memInv_writeTail hs _ _ _
  | .qstatusStop | .qstatusResume | .cplerrClear => memInv_queueWrite hs _
  | .qownWrite => outInv_execQownWrite hs
  | .registerWrite => outInv_execRegisterWrite hs
  | .hostRmaWrite => memInv_hostRmaWrite hs
  | .hostRmaRead => memInv_hostRmaRead hs
  | .packetStart => memInv_packetStart hs
  | .launch => memInv_launchPacket hs
  | .wait => outInv_execWait hs
  | .signal => outInv_execSignal hs
  | .copy => outInv_execCopy hs
  | .timestamp => outInv_execTimestamp hs
  | .nop => memInv_dueOp hs _
  | .packetCompletion => memInv_packetCompletion hs
  | .budgetPeriod => memInv_budgetPeriod hs
  | .powerGovernorUpdate => memInv_powerUpdate hs
  | .flitRetry => memInv_flitRetry hs
  | .linkPortDown => memInv_portDown hs _ _
  | .routerFailure => memInv_routerFailure hs
  | .partitionReset => memInv_partitionReset hs
  | .halt => outInv_execHalt hs
  | .haltRelease => outInv_execHaltRelease hs
  | .debugStep => outInv_execDebugStep hs
  | .triggerFire => memInv_triggerFire hs _
  | .debugAccess => memInv_debugAccess hs
  | .snapshotTrigger => memInv_snapshotTrigger hs
  | .snapshotLatch => memInv_snapshotLatch hs
  | .snapshotRead => memInv_snapshotRead hs
  | .deviceReset => memInv_deviceReset hs
  | .markerFlip => memInv_markerFlip hs
  | .imageWrite => memInv_imageWrite hs
  | .svnFloorRaise => memInv_svnFloorRaise hs
  | .attestationRequest => memInv_attestationRequest hs
  | .signingRequest => memInv_signingRequest hs
  | .hostSignalWrite => outInv_execHostSignalWrite hs
  | .partitionCreate => memInv_partitionCreate hs
  | .hostSend => memInv_hostSend hs
  | .ptpMasterLoss => memInv_updDev hs _ _

end

theorem outInv_heardOut (slot : Option Nat) {o : Out} (ho : OutInv o) : OutInv (heardOut slot o) := by
  cases o with
  | next s => cases slot <;> exact ho
  | fault | refused => trivial

theorem outInv_endStep (slot : Nat) {o : Out} (ho : OutInv o) : OutInv (endStep slot o) := by
  cases o with
  | next s => exact memInv_ite (memInv_updSlot ho _ _) ho
  | fault | refused => trivial

theorem outInv_keepWords (slot : Nat) (ws : Option (List Half)) {o : Out} (ho : OutInv o) : OutInv (keepWords slot ws o) := by
  cases o with
  | next s => exact memInv_updSlot ho _ _
  | fault | refused => trivial

section
variable {s : State} (hs : MemInv s)
include hs

theorem outInv_runOp (o : Op) : OutInv (runOp o s) := by
  unfold runOp
  split
  · trivial
  · split
    · exact memInv_holdHalted hs _ _
    · exact outInv_heardOut _ (outInv_exec (by exact hs) _)

theorem outInv_issueGroup (slot : Nat) : OutInv (issueGroup slot s) :=
  outInv_endStep _ (outInv_keepWords _ _ (outInv_heardOut _ (outInv_exec (by exact hs) _)))

theorem outInv_resumeHeld (c : Nat) : OutInv (resumeHeld s c) := by
  unfold resumeHeld
  split
  · exact hs
  · dsimp only
    split
    · exact outInv_runOp (memInv_updCluster hs _ _) _
    · exact memInv_postOp (memInv_updCluster hs _ _) _

theorem outInv_performMove (m : Move) : OutInv (performMove m s) := by
  cases m with
  | resume c => exact outInv_resumeHeld hs _
  | event o rest => exact outInv_runOp (by exact hs) _
  | ofSlot slot i => exact outInv_endStep _ (outInv_runOp hs _)
  | own o => exact outInv_runOp hs _
  | issue slot => exact outInv_issueGroup hs _
  | tick => exact hs

theorem memInv_pickMove : MemInv (pickMove s).2 := by
  unfold pickMove
  split
  · exact hs
  · exact hs
  · exact memInv_tick hs

theorem outInv_step : OutInv (step s) := by
  unfold step advance
  split
  · exact outInv_runOp (by exact hs) _
  · exact outInv_performMove (memInv_pickMove hs) _

end

/-- Settles O57: memory changes only by writes, which keep the form, and by dropping cells, which keeps it too. Every operation of the
machine is made of operations that do (`outInv_exec`), and so is the step around it. -/
theorem stepKeepsMemory : Obligations.StepKeepsMemory := fun _ _ hs h => (outInv_step hs).of_next h

end Sys2Proof.Machine
end

section
/-! SUPPORT. Where an access in mode .L traps, and what a guarded granule does to it (R43, R53, R58, R61, R185, R278). -/

namespace Sys2Proof.Machine
open Sys2Proof

/-! ## The checks of an access in mode .L -/

/-- The checks of an access ask for its alignment before anything else (R278). -/
theorem accessForm_misaligned {s : State} {a : Access} {al : Nat} (ist : Bool) (dests : List Nat) (h : a.ea.toNat % al ≠ 0) :
    accessForm s a al ist dests = .trap { cause := 0x03, addr := a.ea } :=
  if_pos h

/-- No place in mode .L lies outside the scratchpad. -/
theorem target_local_outside (s : State) (core part : Nat) {ea : W64} (h : 0x80000 ≤ ea.toNat) : s.target core part 0 ea = none := by
  simp [State.target, Nat.not_lt.2 h]

/-- A slot waits for no line that neither an entry of its own nor one of a unit before it has. -/
theorem holds_line {s : State} {key : Nat} (hf : ∀ o ∈ (s.slot s.cur).outst, key ∉ o.lines)
    (hp : ∀ o ∈ s.orphans, o.slot = s.cur → key ∉ o.entry.lines) : s.holds s.cur (.line key) = true := by
  simp only [State.holds, Bool.and_eq_true, Bool.not_eq_true', List.any_eq_false, List.contains_iff_mem, beq_iff_eq]
  exact ⟨hf, fun o ho he => hp o ho he.1 he.2⟩

section
variable {s : State} {a : Access} {n : Nat} (hl : LocalForm s a n)
include hl

/-- An aligned address outside the scratchpad traps ADDR (R53, R278). -/
theorem LocalForm.accessForm_outside {al : Nat} (ist : Bool) (dests : List Nat) (hal : a.ea.toNat % al = 0) (h : 0x80000 ≤ a.ea.toNat) :
    accessForm s a al ist dests = .trap { cause := 0x16, addr := a.ea } := by
  have ht : s.target (slotCore a.slot) a.part a.mode a.ea = none := by rw [hl.mode, target_local_outside s _ _ h]
  have hb : badPiece s { a with lanes := 0xFFFFFFFF } ist = some { ea := a.ea, len := n, pos := 0 } := by
    rw [badPiece, hl.whole]
    simp [pieceOk, ht]
  rw [accessForm, if_neg (not_not.2 hal), hb]
  rfl

/-- An access that no region allows is refused at its home (R58). -/
theorem LocalForm.scratchPiece_refused {wr : Bool} (hw : (if wr then opWrites a.op else opReads a.op) = true)
    (h : s.protAllows (slotCore s.cur) a.ea.toNat n (localAccessor s) wr = false) :
    scratchPiece s.tick a { ea := a.ea, len := n, pos := 0 } (slotCore s.cur) a.ea.toNat = (s.tick, .refused causeProt a.ea) := by
  have hprot : (opReads a.op && !s.protAllows (slotCore s.cur) a.ea.toNat n (localAccessor s) false ||
      opWrites a.op && !s.protAllows (slotCore s.cur) a.ea.toNat n (localAccessor s) true) = true := by
    cases wr <;> simp_all
  have hn : (if (opVector a.op && n = 1) = true then 1 else n) = n := by simp +contextual
  simp only [scratchPiece, hn, State.tick_partAt, State.tick_protAllows, hl.accessor]
  exact if_pos hprot

/-- A guarded granule is reported, and a load of it reads zero (R61). -/
theorem LocalForm.scratchPiece_guarded
    (h : ∀ wr, (if wr then opWrites a.op else opReads a.op) = true → s.protAllows (slotCore s.cur) a.ea.toNat n (localAccessor s) wr = true)
    (hg : s.guarded (slotCore s.cur) a.ea.toNat = true) :
    scratchPiece s.tick a { ea := a.ea, len := n, pos := 0 } (slotCore s.cur) a.ea.toNat = (guardReport s.tick a a.ea, .value 0) := by
  have hprot : (opReads a.op && !s.protAllows (slotCore s.cur) a.ea.toNat n (localAccessor s) false ||
      opWrites a.op && !s.protAllows (slotCore s.cur) a.ea.toNat n (localAccessor s) true) = false := by
    simpa using And.intro (h false) (h true)
  have hn : (if (opVector a.op && n = 1) = true then 1 else n) = n := by simp +contextual
  simp only [scratchPiece, hn, State.tick_partAt, State.tick_protAllows, hl.accessor]
  rw [if_neg (by rw [hprot]; exact Bool.false_ne_true)]
  split
  · next r hr => exact absurd hr (hl.plain r)
  · exact if_pos hg

variable (hp : accPieces a = [{ ea := a.ea, len := n, pos := 0 }]) (hin : a.ea.toNat < 0x80000)
  (hf : ∀ o ∈ (s.slot s.cur).outst, (scratchLoc (slotCore s.cur) a.ea.toNat / 64) ∉ o.lines)
  (ho : ∀ o ∈ s.orphans, o.slot = s.cur → (scratchLoc (slotCore s.cur) a.ea.toNat / 64) ∉ o.entry.lines)
include hp hin hf ho

theorem LocalForm.localAccess_refused {u : State} {c : Nat} {e : W64}
    (h : scratchPiece s.tick a { ea := a.ea, len := n, pos := 0 } (slotCore s.cur) a.ea.toNat = (u, .refused c e)) :
    localAccess s a = .trap { cause := c, addr := e } := by
  simp [localAccess, hp, hl.target hin, hl.accessLines_eq hp hin, holds_line hf ho, h]

theorem LocalForm.localAccess_value {u : State} {v : V512}
    (h : scratchPiece s.tick a { ea := a.ea, len := n, pos := 0 } (slotCore s.cur) a.ea.toNat = (u, .value v)) :
    localAccess s a = .next (if opFills a.op then writeDest u a v else u) := by
  simp [localAccess, hp, hl.target hin, hl.accessLines_eq hp hin, holds_line hf ho, h]

end

/-! ## The report of a guarded granule (R43, R61) -/

/-- What a slot's access to a guarded granule leaves behind. -/
def guardSeen (s : State) (ea : W64) : State :=
  s.tick.updSlot s.cur fun t => t.guardHit (t.guardmode.getLsbD 0) ea

/-- An access of the current slot reports to the slot itself. -/
theorem guardReport_newAccess {s : State} (h : (s.slot s.cur).st ≠ .idle) (x : Fld) (op : AccOp) (mode : BitVec 2) (ea : W64) (dest opc : Nat)
    (v : Vals) : guardReport s.tick (newAccess s x op mode ea dest opc v) ea = guardSeen s ea := by
  have ht : s.tick.slot s.cur = s.slot s.cur := rfl
  simp [guardReport, newAccess, guardSeen, State.updSlot, ht, h]

/-- An access in mode .L finds a guarded granule that a region lets it reach. -/
def GuardMet (s : State) (ea : W64) (n : Nat) (wr : Bool) : Prop :=
  ea.toNat < 0x80000 ∧ ea.toNat % n = 0 ∧ (s.slot s.cur).st ≠ .idle ∧
    (∀ o ∈ (s.slot s.cur).outst, (scratchLoc (slotCore s.cur) ea.toNat / 64) ∉ o.lines) ∧
    (∀ o ∈ s.orphans, o.slot = s.cur → (scratchLoc (slotCore s.cur) ea.toNat / 64) ∉ o.entry.lines) ∧
    s.protAllows (slotCore s.cur) ea.toNat n (localAccessor s) wr = true ∧ s.guarded (slotCore s.cur) ea.toNat = true

/-- The form of such an access leaves the report, and a load writes zero. -/
theorem GuardMet.accessForm_eq {s : State} {x : Fld} {op : AccOp} {ea : W64} {dest opc n : Nat} {v : Vals} {wr : Bool} (h : GuardMet s ea n wr)
    (hl : LocalForm s (newAccess s x op x.mode ea dest opc v) n)
    (hp : accPieces (newAccess s x op x.mode ea dest opc v) = [{ ea := ea, len := n, pos := 0 }])
    (hop : opWrites op = wr ∧ opReads op = !wr) (ist : Bool) (dests : List Nat) :
    accessForm s (newAccess s x op x.mode ea dest opc v) n ist dests =
      .next (if opFills op then writeDest (guardSeen s ea) (newAccess s x op x.mode ea dest opc v) 0 else guardSeen s ea) := by
  obtain ⟨hin, hal, hlives, hfree, hpast, hallowed, hguarded⟩ := h
  have hsp := hl.scratchPiece_guarded (fun w hw => by
    have hww : w = wr := by cases w <;> simp_all [newAccess]
    exact hww ▸ hallowed) hguarded
  have hr := guardReport_newAccess hlives x op x.mode ea dest opc v
  rw [hl.accessForm_eq ist dests hal hin, hl.localAccess_value hp hin hfree hpast hsp]
  exact congrArg (fun u => Eff.next (if opFills op then writeDest u (newAccess s x op x.mode ea dest opc v) 0 else u)) hr

/-! ## Scalar loads and stores -/

/-- Where a scalar form traps: ALIGN, ADDR and PROT in this order. -/
def ScalarTraps (u : Uses) (i : Fld → Instr) (size : Nat) (wr : Bool) : Prop :=
  TrapsAt u i (fun x v _ => (effAddr v x size).toNat % size ≠ 0) (fun x v _ => { cause := 0x03, addr := effAddr v x size }) ∧
  TrapsAt u i (fun x v _ => x.mode = 0 ∧ (effAddr v x size).toNat % size = 0 ∧ 0x80000 ≤ (effAddr v x size).toNat)
    (fun x v _ => { cause := 0x16, addr := effAddr v x size }) ∧
  TrapsAt u i (fun x v s => x.mode = 0 ∧ (effAddr v x size).toNat % size = 0 ∧ (effAddr v x size).toNat < 0x80000 ∧
      (∀ o ∈ (s.slot s.cur).outst, (scratchLoc (slotCore s.cur) (effAddr v x size).toNat / 64) ∉ o.lines) ∧
      (∀ o ∈ s.orphans, o.slot = s.cur → (scratchLoc (slotCore s.cur) (effAddr v x size).toNat / 64) ∉ o.entry.lines) ∧
      s.protAllows (slotCore s.cur) (effAddr v x size).toNat size (localAccessor s) wr = false)
    (fun x v _ => { cause := 0x04, addr := effAddr v x size })

theorem scalarTraps {u : Uses} {i : Fld → Instr} {op : AccOp} {size opc : Nat} {wr : Bool} {w : Vals → Vals} {d : Fld → Nat} {ds : Fld → List Nat}
    (he : ∀ x s, exec (i x) s = .next (issue u x s fun v s =>
      accessForm s (newAccess s x op x.mode (effAddr v x size) (d x) opc (w v)) size (x.mode == 3) (ds x)))
    (hl : ∀ (s : State) (x : Fld) (v : Vals) (ea : W64), x.mode = 0 → LocalForm s (newAccess s x op x.mode ea (d x) opc (w v)) size)
    (hp : ∀ (s : State) (x : Fld) (v : Vals) (ea : W64),
      accPieces (newAccess s x op x.mode ea (d x) opc (w v)) = [{ ea := ea, len := size, pos := 0 }])
    (hop : (if wr then opWrites op else opReads op) = true) : ScalarTraps u i size wr := by
  refine ⟨fun x s v s' ho hbad => ?_, fun x s v s' ho ⟨hm, hal, hout⟩ => ?_, fun x s v s' ho ⟨hm, hal, hin, hf, hpast, hprot⟩ => ?_⟩
  · exact (he x s).trans (congrArg _ (issue_trap ho (accessForm_misaligned _ _ hbad)))
  · exact (he x s).trans (congrArg _ (issue_trap ho ((hl s' x v _ hm).accessForm_outside _ _ hal hout)))
  · have hl := hl s' x v (effAddr v x size) hm
    refine (he x s).trans (congrArg _ (issue_trap ho ?_))
    exact (hl.accessForm_eq _ _ hal hin).trans (hl.localAccess_refused (hp s' x v _) hin hf hpast (hl.scratchPiece_refused hop hprot))

theorem localForm_ld (s : State) (x : Fld) (v : Vals) (ea : W64) (size opc : Nat) (sgn : Bool) (hm : x.mode = 0) :
    LocalForm s (newAccess s x (.ld size sgn) x.mode ea x.d.toNat opc v) size :=
  localForm_newAccess s _ _ _ _ _ hm nofun rfl

theorem localForm_st (s : State) (x : Fld) (v : Vals) (ea : W64) (size opc : Nat) (hm : x.mode = 0) :
    LocalForm s (newAccess s x (.st size) x.mode ea 0 opc v) size :=
  localForm_newAccess s _ _ _ _ _ hm nofun rfl

theorem loadTraps {i : Fld → Instr} {size opc : Nat} {sgn : Bool} (he : ∀ x s, exec (i x) s = .next (loadForm x s size sgn opc)) :
    ScalarTraps uDA i size false :=
  scalarTraps (w := id) he (fun s x v ea hm => localForm_ld s x v ea size opc sgn hm) (fun _ _ _ _ => rfl) rfl

theorem storeTraps {i : Fld → Instr} {size opc : Nat} (he : ∀ x s, exec (i x) s = .next (storeForm x s size opc)) : ScalarTraps uSA i size true :=
  scalarTraps (w := fun v => { v with b := v.d }) he (fun s x v ea hm => localForm_st s x { v with b := v.d } ea size opc hm) (fun _ _ _ _ => rfl) rfl

/-- A scalar load of a guarded granule writes zero to its destination. -/
theorem loadGuarded {i : Fld → Instr} {size opc : Nat} {sgn : Bool} (he : ∀ x s, exec (i x) s = .next (loadForm x s size sgn opc)) :
    Completes uDA i (fun x v s => x.mode = 0 ∧ GuardMet s (effAddr v x size) size false)
      (fun x v s => (guardSeen s (effAddr v x size)).putG x.d.toNat 0) := by
  intro x s v s' ho ⟨hm, hg⟩
  have hf := hg.accessForm_eq (localForm_ld s' x v _ size opc sgn hm) rfl ⟨rfl, rfl⟩ (x.mode == 3) [x.d.toNat]
  have hz : (extendLoad (.ld size sgn) 0).setWidth 64 = 0 := by cases sgn <;> simp [extendLoad, signedOf]
  have hd : writeDest (guardSeen s' (effAddr v x size)) (newAccess s' x (.ld size sgn) x.mode (effAddr v x size) x.d.toNat opc v) 0 =
      (guardSeen s' (effAddr v x size)).putG x.d.toNat ((extendLoad (.ld size sgn) 0).setWidth 64) := if_pos x.d.isLt
  rw [hd, hz] at hf
  exact (he x s).trans (congrArg _ (issue_next ho hf))

/-- A scalar store to a guarded granule is dropped. -/
theorem storeGuarded {i : Fld → Instr} {size opc : Nat} (he : ∀ x s, exec (i x) s = .next (storeForm x s size opc)) :
    Completes uSA i (fun x v s => x.mode = 0 ∧ GuardMet s (effAddr v x size) size true) (fun x v s => guardSeen s (effAddr v x size)) := by
  intro x s v s' ho ⟨hm, hg⟩
  exact (he x s).trans (congrArg _ (issue_next ho
    (hg.accessForm_eq (localForm_st s' x { v with b := v.d } _ size opc hm) rfl ⟨rfl, rfl⟩ (x.mode == 3) [])))

/-! ## VLD and VST -/

/-- A VLD of a guarded granule clears its enabled lanes. -/
theorem vldGuarded {x : Fld} {s s' : State} {v : Vals} (ho : operands { d := .v, dDst := true, a := .g, lanes := true } x s = .run v s')
    (hm : x.mode = 0) (hg : GuardMet s' (effAddr v x 64) 64 false) (hn : v.lanes.toNat % 65536 ≠ 0) :
    exec (.vld x) s = .next (retired x s ((guardSeen s' (effAddr v x 64)).updSlot s'.cur fun t =>
      t.setV x.d.toNat (maskV false v.lanes (t.getV x.d.toNat) fun _ => 0))) := by
  have hf := hg.accessForm_eq (localForm_vector s' (.inl rfl) (effAddr v x 64) (vCode x.d.toNat) 0x30 v hm)
    (accPieces_vector (.inl rfl) hm hn) ⟨rfl, rfl⟩ false [vCode x.d.toNat]
  have hd : writeDest (guardSeen s' (effAddr v x 64)) (newAccess s' x .vld x.mode (effAddr v x 64) (vCode x.d.toNat) 0x30 v) 0 =
      (guardSeen s' (effAddr v x 64)).updSlot s'.cur fun t => t.setV x.d.toNat (maskV false v.lanes (t.getV x.d.toNat) fun _ => 0) := by
    simp [writeDest, newAccess, vCode, State.putV, State.updSlot, lane, guardSeen]
  rw [hd] at hf
  exact congrArg Host.Outcome.next (issue_next ho hf)

/-- A VST to a guarded granule is dropped. -/
theorem vstGuarded {x : Fld} {s s' : State} {v : Vals} (ho : operands { d := .v, dSrc := true, a := .g, lanes := true } x s = .run v s')
    (hm : x.mode = 0) (hg : GuardMet s' (effAddr v x 64) 64 true) (hn : v.lanes.toNat % 65536 ≠ 0) :
    exec (.vst x) s = .next (retired x s (guardSeen s' (effAddr v x 64))) :=
  congrArg Host.Outcome.next (issue_next ho (hg.accessForm_eq (localForm_vector s' (.inr rfl) (effAddr v x 64) 0 0x31 v hm)
    (accPieces_vector (.inr rfl) hm hn) ⟨rfl, rfl⟩ false []))

/-! ## The statements -/

theorem accessTraps : Says.AccessTraps := by
  simp only [Says.AccessTraps, List.forall_mem_cons, List.not_mem_nil, false_imp_iff, implies_true, and_true]
  exact ⟨loadTraps fun _ _ => rfl, loadTraps fun _ _ => rfl, loadTraps fun _ _ => rfl, loadTraps fun _ _ => rfl, loadTraps fun _ _ => rfl,
    loadTraps fun _ _ => rfl, loadTraps fun _ _ => rfl, storeTraps fun _ _ => rfl, storeTraps fun _ _ => rfl, storeTraps fun _ _ => rfl,
    storeTraps fun _ _ => rfl⟩

theorem guardedAccess : Says.GuardedAccess := by
  refine ⟨?_, ?_, ?_, ?_⟩
  · simp only [List.forall_mem_cons, List.not_mem_nil, false_imp_iff, implies_true, and_true]
    exact ⟨loadGuarded fun _ _ => rfl, loadGuarded fun _ _ => rfl, loadGuarded fun _ _ => rfl, loadGuarded fun _ _ => rfl,
      loadGuarded fun _ _ => rfl, loadGuarded fun _ _ => rfl, loadGuarded fun _ _ => rfl⟩
  · simp only [List.forall_mem_cons, List.not_mem_nil, false_imp_iff, implies_true, and_true]
    exact ⟨storeGuarded fun _ _ => rfl, storeGuarded fun _ _ => rfl, storeGuarded fun _ _ => rfl, storeGuarded fun _ _ => rfl⟩
  · rintro x s v s' ho ⟨hm, hg, hn⟩
    exact vldGuarded ho hm hg hn
  · rintro x s v s' ho ⟨hm, hg, hn⟩
    exact vstGuarded ho hm hg hn

/-- Settles O22: the checks of an access in mode .L come in the order ALIGN, ADDR, PROT, and an access that passes them at a guarded granule is
answered with zero or dropped, and reported. -/
theorem accessChecks : Obligations.AccessChecks := ⟨accessTraps, guardedAccess⟩

end Sys2Proof.Machine
end

section
/-! SUPPORT. A second-tier access at its home slice (R62 to R66, R121, R193): what its arrival leaves alone, its translation, and its answer. -/

namespace Sys2Proof.Machine
open Sys2Proof

/-! ## What an address names as traffic arrives -/

/-- What an address names takes of the partitions only their clusters and whether they are being reset. -/
theorem target_congr {s t : State} (hd : t.devs = s.devs) (hr : t.routers = s.routers) (hl : t.slices = s.slices) (hp : t.partners = s.partners)
    (hc : ∀ p, (t.part p).clusters = (s.part p).clusters) (hx : ∀ p, (t.part p).resetting = (s.part p).resetting) : t.target = s.target := by
  have hdev : t.dev = s.dev := by funext i; rw [State.dev, hd]; rfl
  have hrouter : t.router = s.router := by funext i; rw [State.router, hr]; rfl
  have hslice : t.slice = s.slice := by funext i; rw [State.slice, hl]; rfl
  have hpartner : t.partner = s.partner := by funext d p; rw [State.partner, hp]; rfl
  have hvis : t.coreVisible = s.coreVisible := by funext c k; rw [State.coreVisible, hdev]; rfl
  have hphys : t.physCluster = s.physCluster := by funext p r; rw [State.physCluster, hc]; rfl
  have hlinks : t.deviceLinks = s.deviceLinks := by
    funext r d
    unfold State.deviceLinks State.linkChoice State.routerOut
    rw [hrouter, hdev]
  have hfrom : t.linkFrom = s.linkFrom := by
    funext r d
    unfold State.linkFrom State.deviceExit State.portUp
    rw [hlinks, hdev]
  have hpart : t.partAt = s.partAt := by
    funext p d
    unfold State.partAt State.mapPart State.linkUp
    dsimp only
    rw [hpartner, hc, hx, hfrom]
  funext c p m a
  unfold State.target State.globalFrom State.globalTarget
  rw [hvis, hphys, hfrom, hpart, hslice]

/-- Whether an earlier access holds this one back is a matter of the slots and of what addresses name. -/
theorem heldFault_congr {s t : State} (ht : t.target = s.target) (hs : t.slots = s.slots) (ha : t.assembly = s.assembly) (a : Access) (i : Nat)
    (p : Piece) : heldFault t a i p = heldFault s a i p := by
  have hslot : t.slot a.slot = s.slot a.slot := by rw [State.slot, hs]; rfl
  have hline : pieceLine t a = pieceLine s a := by funext q; unfold pieceLine; rw [ht]
  have hlow : lowerFault t a i p = lowerFault s a i p := by
    unfold lowerFault
    rw [ha, hline]
  unfold heldFault
  rw [hlow, hslot, hline]

/-- The state in which an access of eight bytes that arrives at its slice is looked at: the first time it is delivered and counted. -/
def sliceArrived (s : State) (a : Access) : State :=
  if s.data = [] then (s.tick.deliverTag (homeNi s a { ea := a.ea, len := 8, pos := 0 }) a.tag).sliceBytes a.part 8 else s.tick

theorem arrived_eq_sliceArrived (s : State) (a : Access) :
    (if s.data = [] then (s.tick.deliverTag (homeNi s a { ea := a.ea, len := 8, pos := 0 }) a.tag).sliceBytes a.part 8 else s.tick) =
      sliceArrived s a := rfl

theorem sliceArrived_eq (s : State) (a : Access) : sliceArrived s a =
    { s with nis := (sliceArrived s a).nis, parts := (sliceArrived s a).parts, ticket := (sliceArrived s a).ticket } := by
  unfold sliceArrived State.deliverTag
  split
  · split <;> rfl
  · rfl

theorem sliceArrived_part (s : State) (a : Access) (p : Nat) : ∃ n, (sliceArrived s a).part p = { s.part p with useSlice := n } := by
  have hd (ni tag : Nat) : (s.tick.deliverTag ni tag).part p = s.part p := by
    unfold State.deliverTag
    split <;> rfl
  unfold sliceArrived
  split
  · rw [State.sliceBytes, State.updPart_part]
    split
    · next h => subst h; rw [hd]; exact ⟨_, rfl⟩
    · rw [hd]; exact ⟨_, rfl⟩
  · exact ⟨_, rfl⟩

theorem sliceArrived_target (s : State) (a : Access) : (sliceArrived s a).target = s.target := by
  have he := sliceArrived_eq s a
  refine target_congr ?_ ?_ ?_ ?_ (fun p => ?_) fun p => ?_
  · rw [he]
  · rw [he]
  · rw [he]
  · rw [he]
  · obtain ⟨n, hn⟩ := sliceArrived_part s a p
    rw [hn]
  · obtain ⟨n, hn⟩ := sliceArrived_part s a p
    rw [hn]

theorem sliceArrived_heldFault (s : State) (a : Access) (i : Nat) (p : Piece) : heldFault (sliceArrived s a) a i p = heldFault s a i p :=
  heldFault_congr (sliceArrived_target s a) (by rw [sliceArrived_eq]) (by rw [sliceArrived_eq]) a i p

theorem sliceArrived_budInj (s : State) (a : Access) (p : Nat) : ((sliceArrived s a).part p).budInj = (s.part p).budInj := by
  obtain ⟨n, hn⟩ := sliceArrived_part s a p
  rw [hn]

/-! ## Translation -/

theorem markEntry_parts (s : State) (w : W64 × Nat) (wr : Bool) : (s.markEntry w wr).parts = s.parts := by
  rw [State.markEntry, apply_ite State.parts, State.write_eq]
  exact ite_self _

theorem lookUp_parts (s : State) (dev part va : Nat) (wr : Bool) : (s.lookUp dev part va wr).1.parts = s.parts := by
  have hm (t : State) (w : W64 × Nat) (sl : Nat) (x : Slice) : ((t.markEntry w wr).setSlice sl x).parts = t.parts := markEntry_parts t w wr
  unfold State.lookUp
  dsimp only
  split
  · split
    · rfl
    · split
      · rfl
      · exact hm s.tick _ _ _
  · split
    · rfl
    · exact hm s _ _ _

theorem translate_parts (s : State) (dev part va : Nat) (wr : Bool) : (s.translate dev part va wr).1.parts = s.parts := by
  have hl := lookUp_parts s dev part va wr
  unfold State.translate
  split
  · rfl
  · split
    · next h => rwa [h] at hl
    · next h => rwa [h] at hl

/-! ## The answer -/

/-- What is held at an NI depends on no count of the partition's. -/
theorem Sends.of_budInj {s u t : State} {part : Nat} {o : Op} (h : Sends u t part o) (hb : (u.part part).budInj = (s.part part).budInj) :
    Sends s t part o := by
  obtain ⟨i, hi, ha⟩ := h
  exact ⟨i, by rwa [Held, hb] at hi, ha⟩

/-- An access of one piece is answered by one reply. -/
theorem answerPiece_one {a : Access} {p : Piece} (hp : accPieces a = [p]) (s : State) (i : Nat) (r : Reply) :
    ∃ ni, answerPiece s a i r = postReply s ni a r :=
  ⟨_, if_pos (by rw [hp]; exact Nat.le_refl 1)⟩

/-- The operation that carries a reply. -/
def replyOp (a : Access) : Reply → Op
  | .value v => { ins := if opFills a.op then .fill a.slot a.gen a.tag v else .accessAcknowledge a.slot a.gen a.tag }
  | .refused c addr => { ins := .refusalArrival a.slot a.gen a.tag c addr }
  | .fault page => { ins := .faultReply a.slot a.gen a.tag page }

theorem postReply_eq (s : State) (ni : Nat) (a : Access) (r : Reply) : postReply s ni a r = s.sendTag ni a.part a.tag (replyOp a r) := by
  cases r <;> rfl

/-- The answer is the last thing put in flight, and memory is as it was. -/
theorem answerPiece_sends {a : Access} {p : Piece} (hp : accPieces a = [p]) (s : State) (i : Nat) (r : Reply) :
    Sends s (answerPiece s a i r) a.part (replyOp a r) ∧ (answerPiece s a i r).mem = s.mem := by
  obtain ⟨ni, hn⟩ := answerPiece_one hp s i r
  have hj : (replyOp a r).inj = none := by cases r <;> rfl
  rw [hn, postReply_eq]
  exact ⟨sendTag_sends s ni a.part a.tag hj, by rw [sendTag_eq]⟩

/-! ## An access of eight bytes at its slice -/

section
variable {s s1 : State} {a : Access} {dev va : Nat} (hop : a.op = .ld 8 false ∨ a.op = .st 8)
  (hf : heldFault s a 0 { ea := a.ea, len := 8, pos := 0 } = none)
  (ht : s.target (slotCore a.slot) a.part a.mode a.ea = some (.second dev va))

include hop in
theorem accPieces_eight : accPieces a = [{ ea := a.ea, len := 8, pos := 0 }] := by
  rcases hop with h | h <;> simp [accPieces, h]

include hop in
theorem pieceBytes_eight (p : Piece) : pieceBytes a p = p.len := by
  rcases hop with h | h <;> simp [pieceBytes, h]

theorem translated_budInj {e : Option W64}
    (hx : (sliceArrived s a).translate dev ((sliceArrived s a).partAt a.part dev) va (opWrites a.op) = (s1, e)) (p : Nat) : (s1.part p).budInj = (s.part p).budInj := by
  have hp : s1.parts = (sliceArrived s a).parts := by
    have h := translate_parts (sliceArrived s a) dev ((sliceArrived s a).partAt a.part dev) va (opWrites a.op)
    rwa [hx] at h
  rw [State.part, hp]
  exact sliceArrived_budInj s a p

include hop hf ht

/-- A page that is not valid: its fault. -/
theorem sliceAccess_notValid (hx : (sliceArrived s a).translate dev ((sliceArrived s a).partAt a.part dev) va (opWrites a.op) = (s1, none)) :
    exec (.sliceAccess a 0) s = .next (answerPiece s1 a 0 (.fault (faultPage dev va))) := by
  show Host.Outcome.next (sliceArrive s a 0) = _
  unfold sliceArrive
  simp only [accPieces_eight hop, List.getD_cons_zero, pieceBytes_eight hop, arrived_eq_sliceArrived, sliceArrived_heldFault, hf,
    sliceArrived_target, ht, hx]

variable {w : W64} (hx : (sliceArrived s a).translate dev ((sliceArrived s a).partAt a.part dev) va (opWrites a.op) = (s1, some w))
include hx

/-- A leaf entry that refuses: the refusal. -/
theorem sliceAccess_refused {c : Nat} (hc : pteCheck w ((sliceArrived s a).partAt a.part dev) (opReads a.op) (opWrites a.op) = .refuse c) :
    exec (.sliceAccess a 0) s = .next (answerPiece s1 a 0 (.refused c a.ea)) := by
  show Host.Outcome.next (sliceArrive s a 0) = _
  unfold sliceArrive
  simp only [accPieces_eight hop, List.getD_cons_zero, pieceBytes_eight hop, arrived_eq_sliceArrived, sliceArrived_heldFault, hf,
    sliceArrived_target, ht, hx, hc]

/-- A leaf entry that allows the access, and no region in its way: the value there. -/
theorem sliceAccess_performed {u : State} {old : Nat}
    (hc : pteCheck w ((sliceArrived s a).partAt a.part dev) (opReads a.op) (opWrites a.op) = .ok)
    (hl : lineAccess s1 a (pageSlice dev va) ((sliceArrived s a).partAt a.part dev) va (pteLoc w dev va) 8
      (pieceWrites a { ea := a.ea, len := 8, pos := 0 }) { ins := .sliceAccess a 0, data := [1] } = .done u old) :
    exec (.sliceAccess a 0) s = .next
      (let r := if opFills a.op then pathC u a (pteLoc w dev va) 8 old else (u, 0)
       answerPiece r.1 a 0 (pieceValue { ea := a.ea, len := 8, pos := 0 } r.2)) := by
  show Host.Outcome.next (sliceArrive s a 0) = _
  unfold sliceArrive
  simp only [accPieces_eight hop, List.getD_cons_zero, pieceBytes_eight hop, arrived_eq_sliceArrived, sliceArrived_heldFault, hf,
    sliceArrived_target, ht, hx, hc, hl]
  rcases hop with h | h <;> simp [h]

end

/-- Where no region of a write set is in its way, an access of a slot outside a region is performed on memory itself (R121). -/
theorem lineAccess_free {s : State} {a : Access} {sl part va : Nat} (hm : memberRegion s a = none) (hl : s.lineEntries sl part (va / 64) = [])
    (loc len : Nat) (writes : Nat → List (Nat × Nat × Nat)) (o : Op) :
    lineAccess s a sl part va loc len writes o = .done (writeAll s loc (writes (s.read loc len))) (s.read loc len) := by
  have hst : stallers [] (opWrites a.op) = [] := by cases opWrites a.op <;> rfl
  simp only [lineAccess, hm, nonMemberLine, hl, hst, if_true]

theorem Stored.of_mem {s u t : State} {loc v n : Nat} (h : Stored s u loc v n) (hm : t.mem = u.mem) : Stored s t loc v n := by
  have hb (q : Nat) : t.byte q = u.byte q := congrArg (fun m => Sp.get unwritten m q) hm
  exact ⟨fun j hj => (hb _).trans (h.1 j hj), fun q hq => (hb _).trans (h.2 q hq)⟩

/-- A store of eight bytes changes exactly those at its frame, and is acknowledged. -/
theorem sliceStore {a : Access} (hst : a.op = .st 8) (s : State) (loc old : Nat) (v : V512) :
    let t := answerPiece (writeAll s loc (pieceWrites a { ea := a.ea, len := 8, pos := 0 } old)) a 0 (.value v)
    Stored s t loc a.d0.toNat 8 ∧ Sends s t a.part (ackFor a) := by
  rw [pieceWrites_st hst, writeAll_one]
  obtain ⟨ha, hm⟩ := answerPiece_sends (accPieces_eight (.inr hst)) (s.pathWrite 0 loc (a.d0.toNat % 2 ^ (8 * 8)) 8) 0 (.value v)
  have hr : replyOp a (.value v) = ackFor a := by simp [replyOp, hst, opFills, ackFor]
  have hw : ((s.pathWrite 0 loc (a.d0.toNat % 2 ^ (8 * 8)) 8).part a.part).budInj = (s.part a.part).budInj := by
    rw [State.part, (writesOnly_pathWrite s 0 loc (a.d0.toNat % 2 ^ (8 * 8)) 8).parts]
    rfl
  exact ⟨(stored_pathWrite s 0 loc (a.d0.toNat % 2 ^ (8 * 8)) 8).of_mod.of_mem hm, (hr ▸ ha).of_budInj hw⟩

/-- A load of eight bytes takes them as path C shows them, and is answered with them. -/
theorem sliceLoad {a : Access} (hld : a.op = .ld 8 false) (s : State) (loc : Nat) :
    let r := pathC s a loc 8 (s.read loc 8)
    let t := answerPiece r.1 a 0 (pieceValue { ea := a.ea, len := 8, pos := 0 } r.2)
    t.mem = s.mem ∧ SeenOn s 0 loc 8 r.2 ∧ Sends s t a.part (valueFor a r.2) := by
  intro r t
  obtain ⟨hl, hn⟩ := looked_pathC s a loc 8
  obtain ⟨ha, hm⟩ := answerPiece_sends (accPieces_eight (.inl hld)) r.1 0 (pieceValue { ea := a.ea, len := 8, pos := 0 } r.2)
  have hv : replyOp a (pieceValue { ea := a.ea, len := 8, pos := 0 } r.2) = valueFor a r.2 := by
    simp only [pieceValue, Nat.mod_eq_of_lt hn.1, replyOp, hld, opFills, if_true, valueFor, Nat.mul_zero, pow_zero, Nat.mul_one, r]
  exact ⟨hm.trans (by rw [hl.1]), hn, (hv ▸ ha).of_budInj (by rw [hl.sameMap.part])⟩

/-- Settles O25: what arrives is translated as it is where it arrived, and its answer is the last thing put in flight. -/
theorem atHomeSlice : Obligations.AtHomeSlice := by
  intro s s1 a dev va e p s0 hop hf ht hx
  have hb := translated_budInj hx a.part
  have hp := accPieces_eight hop
  refine ⟨?_, ?_, ?_⟩
  · rintro w rfl hc hm hl
    have hla := lineAccess_free hm hl (pteLoc w dev va) 8 (pieceWrites a { ea := a.ea, len := 8, pos := 0 })
      { ins := .sliceAccess a 0, data := [1] }
    refine ⟨_, sliceAccess_performed hop hf ht hx hc hla, fun hst => ?_, fun hld => ?_⟩
    · simp only [hst, opFills, Bool.false_eq_true, if_false]
      obtain ⟨hstored, hsends⟩ := sliceStore hst s1 (pteLoc w dev va) (s1.read (pteLoc w dev va) 8) _
      exact ⟨hstored, hsends.of_budInj hb⟩
    · have hno (old : Nat) : pieceWrites a { ea := a.ea, len := 8, pos := 0 } old = [] := by simp [pieceWrites, hld]
      simp only [hld, opFills, if_true, hno, writeAll]
      obtain ⟨hmem, hseen, hsends⟩ := sliceLoad hld s1 (pteLoc w dev va)
      exact ⟨hmem, _, hseen, hsends.of_budInj hb⟩
  · rintro w rfl hc
    obtain ⟨ha, hmem⟩ := answerPiece_sends hp s1 0 (.refused 0x06 a.ea)
    exact ⟨_, sliceAccess_refused hop hf ht hx hc, hmem, ha.of_budInj hb⟩
  · rintro rfl
    obtain ⟨ha, hmem⟩ := answerPiece_sends hp s1 0 (.fault (faultPage dev va))
    exact ⟨_, sliceAccess_notValid hop hf ht hx, hmem, ha.of_budInj hb⟩

end Sys2Proof.Machine
end

section
/-! SUPPORT. Budgets, power, links, routers and management registers (R70, R147, R408, R409, R418 to R424), as their statements say them. -/

namespace Sys2Proof.Machine
open Sys2Proof

/-! ## Maps of a sparse map -/

theorem Sp.find_mapKey {α β : Type} (f : Nat → α → β) (m : Sp α) (k : Nat) :
    Sp.find (m.map fun x => (x.1, f x.1 x.2)) k = (Sp.find m k).map (f k) := by
  induction m with
  | nil => rfl
  | cons p m ih => by_cases h : p.1 = k <;> simp [Sp.find, h, ih]

/-- What a key reads as after every entry has been changed, the default by itself. -/
theorem Sp.get_mapKey {α : Type} {d : α} (f : Nat → α → α) (m : Sp α) (k : Nat) (hd : f k d = d) :
    Sp.get d (m.map fun x => (x.1, f x.1 x.2)) k = f k (Sp.get d m k) := by
  unfold Sp.get
  rw [Sp.find_mapKey]
  cases Sp.find m k with
  | none => exact hd.symm
  | some v => rfl

/-! ## Answers to outside parties -/

@[simp] theorem State.answer_part (s : State) (status : Nat) (data : List W64) (p : Nat) : (s.answer status data).part p = s.part p := rfl
@[simp] theorem State.answer_dev (s : State) (status : Nat) (data : List W64) (d : Nat) : (s.answer status data).dev d = s.dev d := rfl

theorem answered_answer (s : State) (status : Nat) (data : List W64) : Answered (s.answer status data) s.cur status data :=
  List.getLast?_concat

/-! ## Budgets (R147, R413) -/

/-- Nothing but traffic has been put in flight or counted. -/
def TrafficOnly (s t : State) : Prop := t = { s with agenda := t.agenda, nis := t.nis, parts := t.parts }

theorem TrafficOnly.trans {s t u : State} (a : TrafficOnly s t) (b : TrafficOnly t u) : TrafficOnly s u := by
  rw [TrafficOnly, b, a]

theorem TrafficOnly.foldl {α : Type} {f : State → α → State} (h : ∀ s a, TrafficOnly s (f s a)) (l : List α) (s : State) :
    TrafficOnly s (l.foldl f s) := by
  induction l generalizing s with
  | nil => rfl
  | cons a l ih => exact (h s a).trans (ih _)

/-- One operation in flight as a period's budget releases it. -/
def releaseOne (part : Nat) (s : State) (o : Op) : State :=
  match o.inj with
  | some (ni, p, t) => if p = part then s.sendAs ni p t { o with inj := none } else s.postOp o
  | none => s.postOp o

theorem releaseHeld_foldl (s : State) (part : Nat) : releaseHeld s part = s.agenda.foldl (releaseOne part) { s with agenda := [] } := rfl

theorem trafficOnly_releaseOne (part : Nat) (s : State) (o : Op) : TrafficOnly s (releaseOne part s o) := by
  unfold releaseOne
  split
  · split
    · exact sendAs_eq _ _ _ _ _
    · rfl
  · rfl

theorem trafficOnly_releaseHeld (s : State) (part : Nat) : TrafficOnly s (releaseHeld s part) :=
  TrafficOnly.trans (t := { s with agenda := [] }) rfl (.foldl (trafficOnly_releaseOne part) _ _)

theorem releaseOne_other {part : Nat} {o : Op} (h : ∀ ni p tg, o.inj = some (ni, p, tg) → p ≠ part) (s : State) :
    releaseOne part s o = s.postOp o := by
  unfold releaseOne
  split
  · next hi => exact if_neg (h _ _ _ hi)
  · rfl

theorem foldl_releaseOne_others {part : Nat} {l : List Op} (h : ∀ o ∈ l, ∀ ni p tg, o.inj = some (ni, p, tg) → p ≠ part) (s : State) :
    l.foldl (releaseOne part) s = { s with agenda := s.agenda ++ l } := by
  induction l generalizing s with
  | nil => simp
  | cons o l ih =>
    rw [List.foldl_cons, releaseOne_other (h o List.mem_cons_self), ih fun q hq => h q (List.mem_cons_of_mem _ hq)]
    simp [State.postOp]

/-- Traffic that is not held for the partition stays in flight as it is. -/
theorem releaseHeld_others {s : State} {part : Nat} (h : ∀ o ∈ s.agenda, ∀ ni p tg, o.inj = some (ni, p, tg) → p ≠ part)
    : releaseHeld s part = s := by
  rw [releaseHeld_foldl, foldl_releaseOne_others h]
  rfl

/-- Traffic held for a partition whose budget is not limited goes on. -/
theorem releaseHeld_one {s : State} {part ni : Nat} {tg : Option Bool} {o : Op} (ha : s.agenda = [o]) (ho : o.inj = some (ni, part, tg))
    (hb : (s.part part).budInj = 0) : (releaseHeld s part).agenda = [{ o with inj := none }] := by
  have hs : State.injSpent { s with agenda := [] } part = false := by
    show budgetSpent (s.part part).budInj _ = false
    simp [budgetSpent, hb]
  rw [releaseHeld_foldl, ha, List.foldl_cons, List.foldl_nil]
  simp only [releaseOne, ho, if_true]
  cases tg with
  | none => rw [sendAs_uncounted hs]; rfl
  | some b => rw [sendAs_counted hs]; rfl

/-- What a partition's counters and limits are in the next period. -/
def Part.nextBudgets (q : Part) : Part :=
  { q with useInj := 0, useSlice := 0, useCour := 0, budInj := q.newInj.getD q.budInj, budSlice := q.newSlice.getD q.budSlice,
           budCour := q.newCour.getD q.budCour, newInj := none, newSlice := none, newCour := none }

theorem budgetPeriod_eq {s : State} (h : (s.part s.cur).live = true) : budgetPeriod s =
    State.postAt (releaseHeld (s.updPart s.cur Part.nextBudgets) s.cur)
      (nextPeriod (releaseHeld (s.updPart s.cur Part.nextBudgets) s.cur) (s.cur / 32)) .budgetPeriod s.cur :=
  if_neg (by rw [h]; exact Bool.false_ne_true)

theorem budgetPeriods (s : State) (h : (s.part s.cur).live = true) : let q := s.part s.cur
    ∃ (t : State), exec .budgetPeriod s = .next t ∧ t.mem = s.mem ∧ t.slots = s.slots ∧
    ((∀ o ∈ s.agenda, ∀ ni part tg, o.inj = some (ni, part, tg) → part ≠ s.cur) → t.agenda = s.agenda ∧ t.part s.cur = q.nextBudgets) ∧
    (∀ o ni tg, s.agenda = [o] → o.inj = some (ni, s.cur, tg) → q.newInj.getD q.budInj = 0 → t.agenda = [{ o with inj := none }]) ∧
    (∃ n, s.now < n ∧ ({ who := s.cur, ins := .budgetPeriod } : Op) ∈ Sp.get [] t.timers n) := by
  intro q
  have hr := trafficOnly_releaseHeld (s.updPart s.cur Part.nextBudgets) s.cur
  refine ⟨_, congrArg Host.Outcome.next (budgetPeriod_eq h), ?_, ?_, fun ho => ?_, fun o ni tg ha ho hb => ?_, ?_⟩
  · show (releaseHeld _ _).mem = _
    rw [hr]
    rfl
  · show (releaseHeld _ _).slots = _
    rw [hr]
    rfl
  · have he : releaseHeld (s.updPart s.cur Part.nextBudgets) s.cur = _ := releaseHeld_others ho
    rw [he]
    exact ⟨rfl, State.updPart_part_self _ _ _⟩
  · refine releaseHeld_one ha ho ?_
    rw [State.updPart_part_self]
    exact hb
  · have hnow : (releaseHeld (s.updPart s.cur Part.nextBudgets) s.cur).now = s.now := by
      rw [hr]
      rfl
    refine ⟨nextPeriod (releaseHeld (s.updPart s.cur Part.nextBudgets) s.cur) (s.cur / 32), ?_, ?_⟩
    · rw [nextPeriod, hnow]
      exact Nat.lt_add_of_pos_right (Nat.lt_of_lt_of_le Nat.one_pos (Nat.le_max_left _ _))
    · rw [State.postAt, Sp.get_put_self]
      exact List.mem_append_right _ (List.mem_singleton_self _)

/-! ## Power (R420) -/

theorem powerHigh_le (slope : Nat) (l : List Nat) (cap : Nat) :
    l.foldl (fun b p => Nat.min b (p + slope)) cap ≤ cap ∧ ∀ p ∈ l, l.foldl (fun b p => Nat.min b (p + slope)) cap ≤ p + slope := by
  induction l generalizing cap with
  | nil => exact ⟨Nat.le_refl _, nofun⟩
  | cons q l ih =>
    obtain ⟨hc, hl⟩ := ih (Nat.min cap (q + slope))
    refine ⟨hc.trans (Nat.min_le_left _ _), fun p hp => ?_⟩
    rcases List.mem_cons.1 hp with rfl | hp
    · exact hc.trans (Nat.min_le_right _ _)
    · exact hl p hp

theorem le_powerLow (slope : Nat) (l : List Nat) (b : Nat) :
    b ≤ l.foldl (fun b p => Nat.max b (p - slope)) b ∧ ∀ p ∈ l, p - slope ≤ l.foldl (fun b p => Nat.max b (p - slope)) b := by
  induction l generalizing b with
  | nil => exact ⟨Nat.le_refl _, nofun⟩
  | cons q l ih =>
    obtain ⟨hb, hl⟩ := ih (Nat.max b (q - slope))
    refine ⟨(Nat.le_max_left _ _).trans hb, fun p hp => ?_⟩
    rcases List.mem_cons.1 hp with rfl | hp
    · exact (Nat.le_max_right _ _).trans hb
    · exact hl p hp

/-- Between its limits wherever they leave room: the cap, and PWRSLOPE against every sample. -/
theorem estimate_limited (v : Device) (x : Nat) : let now := Nat.min (powerHigh v) (powerLow v + x)
    now ≤ v.pwrcap ∧ ∀ p ∈ v.pwrnow :: v.pwrhist, now ≤ p + v.pwrslope ∧ (powerLow v ≤ powerHigh v → p ≤ now + v.pwrslope) := by
  intro now
  obtain ⟨hcap, hhigh⟩ := powerHigh_le v.pwrslope (v.pwrnow :: v.pwrhist) v.pwrcap
  obtain ⟨-, hlow⟩ := le_powerLow v.pwrslope (v.pwrnow :: v.pwrhist) 0
  have hn : now ≤ powerHigh v := Nat.min_le_left _ _
  refine ⟨hn.trans hcap, fun p hp => ⟨hn.trans (hhigh p hp), fun h => ?_⟩⟩
  have hl : powerLow v ≤ now := Nat.le_min.2 ⟨h, Nat.le_add_right _ _⟩
  have hp : p - v.pwrslope ≤ powerLow v := hlow p hp
  omega

theorem powerGovernor (s : State) : let v := s.dev s.cur; ∃ (t : State), exec .powerGovernorUpdate s = .next t ∧
    Aside { s with clusters := t.clusters } t ∧
    (t.dev s.cur).pwrnow ≤ v.pwrcap ∧ (∀ p ∈ v.pwrnow :: v.pwrhist, (t.dev s.cur).pwrnow ≤ p + v.pwrslope ∧
      (powerLow v ≤ powerHigh v → p ≤ (t.dev s.cur).pwrnow + v.pwrslope)) ∧
    t.dev s.cur = { v with pwrnow := (t.dev s.cur).pwrnow, pwrfill := (t.dev s.cur).pwrfill, pwrhist := (v.pwrnow :: v.pwrhist).take 1000 } := by
  intro v
  have hd : (powerUpdate s).dev s.cur = { v with
      pwrnow := Nat.min (powerHigh v) (powerLow v + pickOf (s.ticket + 1) (powerHigh v + 1 - powerLow v))
      pwrfill := pickOf (s.ticket + 2) (Nat.min (powerHigh v) (powerLow v + pickOf (s.ticket + 1) (powerHigh v + 1 - powerLow v)) + 1)
      pwrhist := (v.pwrnow :: v.pwrhist).take 1000 } := Sp.get_put_self _ _ _ _
  obtain ⟨hcap, hslope⟩ := estimate_limited v (pickOf (s.ticket + 1) (powerHigh v + 1 - powerLow v))
  refine ⟨powerUpdate s, rfl, ⟨rfl, rfl, rfl, rfl, rfl, rfl⟩, ?_⟩
  rw [hd]
  exact ⟨hcap, hslope, rfl⟩

/-- The governors' estimates fall due as a cycle passes. -/
theorem governorsDue (s : State) (d : Nat) : let o : Op := { who := d, ins := .powerGovernorUpdate }
    (d < devices → Sp.find s.devs d = none → (s.now + 1) % 1600 = 0 → o ∈ (passCycle s).due) ∧
    (∀ v, (d, v) ∈ s.devs → v.boot.recovery = false → (s.now + 1 - v.since) % 1600 = 0 → o ∈ (passCycle s).due) := by
  intro o
  have hdue (h : d ∈ governorsAt s (s.now + 1)) : o ∈ (passCycle s).due :=
    List.mem_append_right _ (List.mem_map.2 ⟨d, h, rfl⟩)
  refine ⟨fun hd hf hn => hdue ?_, fun v hv hr hn => hdue ?_⟩
  · exact List.mem_append_left _ (List.mem_filter.2 ⟨List.mem_range.2 hd, by simp [hf, hn]⟩)
  · exact List.mem_append_right _ (List.mem_map.2 ⟨(d, v), List.mem_filter.2 ⟨hv, by simp [hr, hn]⟩, rfl⟩)

/-! ## Links (R408, R409) -/

/-- A retry of a port: its count, and its end where that reaches 16. -/
def retried (s : State) (p : W64) (n : Nat) : State :=
  let t := s.updDev s.cur fun v => { v with retries := Sp.set 0 v.retries p.toNat n }
  if 16 ≤ n then t.dueOp { who := s.cur, data := [p], ins := .linkPortDown } else t

theorem exec_flitRetry {s : State} {p first : W64} (hd : s.data = [p, first]) (hp : p.toNat < 64) : exec .flitRetry s =
    .next (retried s p (if first = 0 then 1 else Sp.get 0 (s.dev s.cur).retries p.toNat + 1)) := by
  show Host.Outcome.next (flitRetry s) = _
  simp only [flitRetry, retried, hd, List.getD_cons_zero, List.getD_cons_succ, Nat.mod_eq_of_lt hp, BitVec.ofNat_toNat, BitVec.setWidth_eq]
  rfl

theorem retried_retries (s : State) (p : W64) (n : Nat) : Sp.get 0 ((retried s p n).dev s.cur).retries p.toNat = n := by
  have h (t : State) (ht : t.devs = (s.updDev s.cur fun v => { v with retries := Sp.set 0 v.retries p.toNat n }).devs) :
      Sp.get 0 (t.dev s.cur).retries p.toNat = n := by
    rw [State.dev, ht]
    exact (congrArg (fun v : Device => Sp.get 0 v.retries p.toNat) (State.updDev_dev_self _ _ _)).trans (Sp.get_set_self _ _ _ _)
  unfold retried
  dsimp only
  split
  · exact h _ rfl
  · exact h _ rfl

theorem retried_due (s : State) (p : W64) (n : Nat) : (retried s p n).due =
    s.due ++ if 16 ≤ n then [{ who := s.cur, data := [p], ins := .linkPortDown }] else [] := by
  unfold retried
  dsimp only
  split
  · rfl
  · exact (List.append_nil _).symm

theorem aside_retried (s : State) (p : W64) (n : Nat) : Aside s (retried s p n) := by
  unfold retried
  dsimp only
  split
  · exact ⟨rfl, rfl, rfl, rfl, rfl, rfl⟩
  · exact ⟨rfl, rfl, rfl, rfl, rfl, rfl⟩

theorem flitRetries (s : State) (p first : W64) (hd : s.data = [p, first]) (hp : p.toNat < 64) : let n := Sp.get 0 (s.dev s.cur).retries p.toNat
    ∃ (t : State), exec .flitRetry s = .next t ∧ Aside s t ∧ (first = 0 → Sp.get 0 (t.dev s.cur).retries p.toNat = 1 ∧ t.due = s.due) ∧
    (first ≠ 0 → Sp.get 0 (t.dev s.cur).retries p.toNat = n + 1 ∧
      t.due = s.due ++ (if 16 ≤ n + 1 then [{ who := s.cur, data := [p], ins := .linkPortDown }] else [])) := by
  intro n
  refine ⟨_, exec_flitRetry hd hp, aside_retried s p _, fun hf => ?_, fun hf => ?_⟩
  · rw [if_pos hf]
    exact ⟨retried_retries s p 1, (retried_due s p 1).trans (List.append_nil _)⟩
  · rw [if_neg hf]
    exact ⟨retried_retries s p (n + 1), retried_due s p (n + 1)⟩

theorem freeChannels_eq (s : State) (l : List Nat) : freeChannels s l = { s with routers := (freeChannels s l).routers } := by
  induction l generalizing s with
  | nil => rfl
  | cons h l ih => exact (ih _).trans rfl

theorem breakRoutes_eq (s : State) (d n : Nat) : breakRoutes s d n =
    { s with cores := (breakRoutes s d n).cores, agenda := (breakRoutes s d n).agenda, routers := (breakRoutes s d n).routers } := by
  obtain ⟨u, l, hb, hu⟩ : ∃ u l, breakRoutes s d n = freeChannels u l ∧ u = { s with cores := u.cores, agenda := u.agenda } := ⟨_, _, rfl, rfl⟩
  have hr := freeChannels_eq u l
  rw [hb]
  generalize freeChannels u l = t at hr ⊢
  rw [hr, hu]

@[simp] theorem breakRoutes_dev (s : State) (d n e : Nat) : (breakRoutes s d n).dev e = s.dev e := by
  rw [breakRoutes_eq]
  rfl

theorem linkPortsDown (s : State) (p : W64) (hd : s.data = [p]) (hp : p.toNat < 64) : ∃ (t : State), exec .linkPortDown s = .next t ∧
    p.toNat ∈ (t.dev s.cur).down ∧ (∀ k ∈ (s.dev s.cur).down, k ∈ (t.dev s.cur).down) ∧
    t.due = s.due ++ (if p.toNat ∈ (s.dev s.cur).down then [] else
      [{ who := s.cur * 128 + linkRouter p.toNat, data := [0], ins := .routerFailure }]) ∧
    t.mem = s.mem ∧ t.slots = s.slots := by
  refine ⟨portDown s s.cur p.toNat, ?_, ?_⟩
  · show Host.Outcome.next (portDown s s.cur ((s.data.headD 0).toNat % 64)) = _
    rw [hd, List.headD_cons, Nat.mod_eq_of_lt hp]
  by_cases h : p.toNat ∈ (s.dev s.cur).down
  · have he : portDown s s.cur p.toNat = s := if_pos (List.contains_iff_mem.2 h)
    rw [he, if_pos h]
    exact ⟨h, fun _ => id, (List.append_nil _).symm, rfl, rfl⟩
  · have he : portDown s s.cur p.toNat =
        (breakRoutes (s.updDev s.cur fun v => { v with down := v.down ++ [p.toNat], retries := Sp.erase v.retries p.toNat }) s.cur p.toNat).dueOp
          { who := s.cur * 128 + linkRouter p.toNat, data := [0], ins := .routerFailure } := if_neg (by simpa using h)
    have hdev : (portDown s s.cur p.toNat).dev s.cur =
        { s.dev s.cur with down := (s.dev s.cur).down ++ [p.toNat], retries := Sp.erase (s.dev s.cur).retries p.toNat } := by
      rw [he]
      exact (breakRoutes_dev _ _ _ _).trans (State.updDev_dev_self _ _ _)
    rw [hdev, if_neg h, he, breakRoutes_eq]
    exact ⟨List.mem_append_right _ (List.mem_singleton_self _), fun _ hk => List.mem_append_left _ hk, rfl, rfl, rfl⟩

/-! ## Routers (R418, R419) -/

/-- Every router that has failed has failed afterwards too. -/
structure StaysFailed (s t : State) : Prop where
  failed : ∀ r, (s.router r).failed = true → (t.router r).failed = true

theorem StaysFailed.trans {s t u : State} (a : StaysFailed s t) (b : StaysFailed t u) : StaysFailed s u :=
  ⟨fun r h => b.failed r (a.failed r h)⟩

theorem StaysFailed.foldl {α : Type} {f : State → α → State} (h : ∀ s a, StaysFailed s (f s a)) (l : List α) (s : State) :
    StaysFailed s (l.foldl f s) := by
  induction l generalizing s with
  | nil => exact ⟨fun _ => id⟩
  | cons a l ih => exact (h s a).trans (ih _)

theorem staysFailed_setRouter (s : State) (r : Nat) {x : Router} (hx : x.failed = (s.router r).failed) : StaysFailed s (s.setRouter r x) := by
  refine ⟨fun j hj => ?_⟩
  rw [State.setRouter_router]
  split
  · next h => rw [hx, ← h, hj]
  · exact hj

theorem staysFailed_writeClusterTables (s : State) (d : Nat) : StaysFailed s (writeClusterTables s d) := by
  dsimp only [writeClusterTables]
  split
  · refine ⟨fun r hr => ?_⟩
    have hm := Sp.get_mapKey (d := ({} : Router)) (fun k x => if k / 128 = d then { x with clusterTable := [] } else x) s.routers r (by split <;> rfl)
    have he : (s.routers.map fun (x : Nat × Router) => if x.1 / 128 = d then (x.1, { x.2 with clusterTable := [] }) else x) =
        s.routers.map fun x => (x.1, if x.1 / 128 = d then { x.2 with clusterTable := [] } else x.2) :=
      List.map_congr_left fun x _ => by split <;> rfl
    show (Sp.get {} _ r : Router).failed = true
    rw [he, hm]
    split
    · exact hr
    · exact hr
  · refine .foldl (fun s _ => .foldl (fun _ _ => staysFailed_setRouter _ _ ?_) _ s) _ s
    rfl

theorem staysFailed_writeDeviceTables (s : State) (d : Nat) : StaysFailed s (writeDeviceTables s d) := by
  unfold writeDeviceTables
  refine StaysFailed.trans (t := s.tick) ⟨fun _ => id⟩ (.foldl (fun _ _ => staysFailed_setRouter _ _ ?_) _ _)
  rfl

theorem staysFailed_writeTables (s : State) (d : Nat) : StaysFailed s (writeTables s d) :=
  (staysFailed_writeClusterTables s d).trans (staysFailed_writeDeviceTables _ d)

theorem postOps_eq {α : Type} (f : α → Op) (l : List α) (s : State) : l.foldl (fun s a => s.postOp (f a)) s =
    { s with agenda := s.agenda ++ l.map f } := by
  induction l generalizing s with
  | nil => simp
  | cons a l ih =>
    rw [List.foldl_cons, ih]
    simp [State.postOp]

/-- The router out of the traffic, before the tables are written. -/
def routerOutOf (s : State) (bypass : Bool) : State :=
  let t := s.setRouter s.cur { s.router s.cur with failed := true }
  if bypass then t.updSlice s.cur fun x => { x with dead := true } else t

theorem routerFails (s : State) (b : W64) (hd : s.data = [b]) : ∃ (t : State), exec .routerFailure s = .next t ∧ (t.router s.cur).failed = true ∧
    (b = 1 → (t.slice s.cur).dead = true) ∧ (b ≠ 1 → t.slices = s.slices) ∧ t.mem = s.mem ∧ t.slots = s.slots ∧
    (∀ p ∈ s.parts.map Prod.fst, partTouches s p s.cur = true → ({ who := p, data := [3], ins := .partitionReset } : Op) ∈ t.agenda) := by
  have hf : ((routerOutOf s (b == 1)).router s.cur).failed = true := by
    unfold routerOutOf
    dsimp only
    split
    · exact congrArg Router.failed (State.setRouter_router_self _ _ _)
    · exact congrArg Router.failed (State.setRouter_router_self _ _ _)
  have ht := tablesOnly_writeTables (routerOutOf s (b == 1)) (s.cur / 128)
  have he : exec .routerFailure s = .next (((s.parts.map Prod.fst).filter fun p => partTouches s p s.cur).foldl
      (fun s p => s.postOp { who := p, data := [3], ins := .partitionReset }) (writeTables (routerOutOf s (b == 1)) (s.cur / 128))) := by
    have hb : s.data.headD 0 = b := by rw [hd]; rfl
    show Host.Outcome.next (routerFailure s) = _
    simp only [routerFailure, State.setRouter_data, hb, routerOutOf, beq_iff_eq]
  rw [postOps_eq fun p => ({ who := p, data := [3], ins := .partitionReset } : Op)] at he
  replace hf := (staysFailed_writeTables (routerOutOf s (b == 1)) (s.cur / 128)).failed s.cur hf
  generalize writeTables (routerOutOf s (b == 1)) (s.cur / 128) = u at he ht hf
  refine ⟨_, he, hf, fun hb => ?_, fun hb => ?_, ?_, ?_, fun p hp hh => ?_⟩
  · show (u.slice s.cur).dead = true
    rw [ht]
    subst hb
    exact congrArg Slice.dead (Sp.get_put_self _ _ _ _)
  · show u.slices = _
    rw [ht]
    have hn : (b == 1) = false := by simpa using hb
    rw [hn]
    rfl
  · show u.mem = _
    rw [ht]
    show (routerOutOf s _).mem = _
    cases (b == 1) <;> rfl
  · show u.slots = _
    rw [ht]
    show (routerOutOf s _).slots = _
    cases (b == 1) <;> rfl
  · exact List.mem_append_right _ (List.mem_map.2 ⟨p, List.mem_filter.2 ⟨hp, hh⟩, rfl⟩)

/-! ## Uncorrectable errors (R70) -/

/-- An error in a word of one live partition asks for its reset. -/
theorem eccErrorResets (s : State) (path who gen tag p : W64) (hd : s.data = [path, who, gen, tag, p]) (hl : (s.part p.toNat).live = true) :
    ∃ (t : State), exec .eccUncorrectable s = .next t ∧ Answers t { who := p.toNat, data := [2], ins := .partitionReset } ∧ t.mem = s.mem ∧
      t.parts = s.parts := by
  obtain ⟨hmem, hparts⟩ := readerGone_eccLost s path.toNat who.toNat gen.toNat tag.toNat
  refine ⟨_, congrArg Host.Outcome.next (eccUncorrectable_lost hd), ?_, hmem, hparts⟩
  have hr : resetsAsked s [p] = [opD p.toNat [2] .partitionReset] := by simp [resetsAsked, hl]
  rw [hr]
  exact List.getLast?_concat

/-! ## Management registers (R423, R436) -/

/-- A write of a management register that is taken is answered with status 0. -/
theorem exec_registerWrite_taken {s t : State} {code idx v : W64} (hd : s.data = [1, code, idx, v]) (hr : (s.dev s.cur).boot.recovery = false)
    (ht : managementWrite s s.cur code.toNat idx.toNat [v] = some t) : exec .registerWrite s = .next (t.answer 0) := by
  show execRegisterWrite s = _
  unfold execRegisterWrite
  simp only [hd, hr, List.headD_cons, List.tail_cons, ht]
  rfl

/-- PWRCAP's field holds at most 4,400. -/
theorem capWrite_eq (v : W64) : capWrite v = Nat.min (v.toNat % 2 ^ 13) 4400 := by
  simp [capWrite, bits]

theorem slopeWrite_eq (old : Nat) (v : W64) : slopeWrite old v =
    if 50 ≤ v.toNat % 2 ^ 10 ∧ v.toNat % 2 ^ 10 ≤ 500 then v.toNat % 2 ^ 10 else old := by
  simp [slopeWrite, bits]

theorem managementRegisters (s : State) (idx v : W64) (hr : (s.dev s.cur).boot.recovery = false) :
    (s.data = [1, 4, idx, v] → idx.toNat < 32 → let p := s.cur * 32 + idx.toNat; (s.part p).live = true →
      ∃ (t : State), exec .registerWrite s = .next t ∧
      t.part p = { s.part p with root := v } ∧ Aside s t ∧ Answered t s.cur 0 []) ∧
    (s.data = [1, 13, idx, v] → ∃ (t : State), exec .registerWrite s = .next t ∧
      t.dev s.cur = { s.dev s.cur with pwrcap := Nat.min (v.toNat % 2 ^ 13) 4400 } ∧ Aside s t ∧ Answered t s.cur 0 []) ∧
    (s.data = [1, 14, idx, v] → let n := v.toNat % 2 ^ 10; ∃ (t : State), exec .registerWrite s = .next t ∧
      t.dev s.cur = { s.dev s.cur with pwrslope := if 50 ≤ n ∧ n ≤ 500 then n else (s.dev s.cur).pwrslope } ∧ Aside s t ∧ Answered t s.cur 0 []) := by
  refine ⟨fun hd hi => ?_, fun hd => ?_, fun hd => ?_⟩
  · intro p hl
    have hw : managementWrite s s.cur 4 idx.toNat [v] = some (s.updPart p fun q => { q with root := v }) := if_pos ⟨hi, hl⟩
    exact ⟨_, exec_registerWrite_taken hd hr hw,
    (State.answer_part _ _ _ _).trans (State.updPart_part_self _ _ _), ⟨rfl, rfl, rfl, rfl, rfl, rfl⟩, answered_answer _ _ _⟩
  · rw [← capWrite_eq]
    exact ⟨_, exec_registerWrite_taken hd hr rfl,
    (State.answer_dev _ _ _ _).trans (State.updDev_dev_self _ _ _), ⟨rfl, rfl, rfl, rfl, rfl, rfl⟩, answered_answer _ _ _⟩
  · intro n
    have hn := slopeWrite_eq (s.dev s.cur).pwrslope v
    rw [← hn]
    exact ⟨_, exec_registerWrite_taken hd hr rfl,
    (State.answer_dev _ _ _ _).trans (State.updDev_dev_self _ _ _), ⟨rfl, rfl, rfl, rfl, rfl, rfl⟩, answered_answer _ _ _⟩

theorem exec_registerWrite_recovery {s : State} {code idx v : W64} (hd : s.data = [1, code, idx, v]) (hr : (s.dev s.cur).boot.recovery = true) :
    exec .registerWrite s = .next (s.answer 1) := by
  show execRegisterWrite s = _
  unfold execRegisterWrite
  simp only [hd, hr]
  rfl

end Sys2Proof.Machine
end

section
/-! SUPPORT. Partitions come to be (R56, R79, R128, R411, R439, R458): what each part of a creation writes. -/

namespace Sys2Proof.Machine
open Sys2Proof

theorem eraseDups_eq_of_nodup {α : Type} [BEq α] [LawfulBEq α] {l : List α} (h : l.Nodup) : l.eraseDups = l := by
  induction l with
  | nil => rfl
  | cons a l ih =>
    obtain ⟨ha, hl⟩ := List.nodup_cons.1 h
    have hf : l.filter (fun b => !b == a) = l := List.filter_eq_self.2 fun b hb => by
      have hne : b ≠ a := fun e => ha (e ▸ hb)
      simp [hne]
    rw [List.eraseDups_cons, hf, ih hl]

/-! ## Queues -/

theorem State.setQueue_queue (s : State) (q k : Nat) (x : Queue) : (s.setQueue q x).queue k = if k = q then x else s.queue k := by
  unfold State.queue State.setQueue
  rw [State.updDev_dev]
  by_cases hd : k / 64 = q / 64
  · rw [if_pos hd]
    show Sp.get {} (Sp.put (s.dev (q / 64)).queues (q % 64) x) (k % 64) = _
    rw [Sp.get_put, hd]
    by_cases hm : k % 64 = q % 64
    · rw [if_pos hm, if_pos (by omega)]
    · rw [if_neg hm, if_neg (by omega)]
  · rw [if_neg hd, if_neg fun h => hd (congrArg (· / 64) h)]

@[simp] theorem State.setQueue_queue_self (s : State) (q : Nat) (x : Queue) : (s.setQueue q x).queue q = x :=
  (s.setQueue_queue q q x).trans (if_pos rfl)

/-- The queues of a device that a mask names are assigned. -/
def assignQueues (s : State) (d part : Nat) (l : List Nat) : State := l.foldl (fun s q => assignQueue s (d * 64 + q) (some part)) s

theorem assignQueues_eq (s : State) (d part : Nat) (l : List Nat) :
    assignQueues s d part l = { s with devs := (assignQueues s d part l).devs } := by
  induction l generalizing s with
  | nil => rfl
  | cons q l ih => exact (ih (assignQueue s (d * 64 + q) (some part))).trans rfl

theorem assignQueues_queue_of_assigned {part d k : Nat} (l : List Nat) {s : State} (h : s.queue k = { own := some part }) :
    (assignQueues s d part l).queue k = { own := some part } := by
  induction l generalizing s with
  | nil => exact h
  | cons q l ih =>
    refine ih ?_
    unfold assignQueue
    rw [State.setQueue_queue]
    split
    · rfl
    · exact h

theorem assignQueues_queue {part d q : Nat} {l : List Nat} (h : q ∈ l) (s : State) :
    (assignQueues s d part l).queue (d * 64 + q) = { own := some part } := by
  induction l generalizing s with
  | nil => cases h
  | cons j l ih =>
    rcases List.mem_cons.1 h with rfl | h
    · exact assignQueues_queue_of_assigned l (State.setQueue_queue_self _ _ _)
    · exact ih h _

/-! ## Clusters -/

/-- A cluster as its partition gets it. -/
def State.givenCluster (s : State) (part c rel : Nat) : Cluster :=
  { s.cluster c with part := some part, rel := rel, seg := [(15, s.segment15 c part)] }

/-- Clusters are given under the numbers from `n` on. -/
def giveFrom (s : State) (part n : Nat) (l : List Nat) : State := (l.zipIdx n).foldl (fun s c => giveCluster s part c.1 c.2) s

theorem giveFrom_cons (s : State) (part n c : Nat) (l : List Nat) :
    giveFrom s part n (c :: l) = giveFrom (giveCluster s part c n) part (n + 1) l := rfl

theorem giveFrom_eq (s : State) (part n : Nat) (l : List Nat) : giveFrom s part n l = { s with clusters := (giveFrom s part n l).clusters } := by
  induction l generalizing s n with
  | nil => rfl
  | cons c l ih =>
    rw [giveFrom_cons]
    exact (ih _ _).trans rfl

theorem giveClusters_eq (s : State) (part : Nat) (l : List Nat) :
    giveClusters s part l = { s with clusters := (giveClusters s part l).clusters } := giveFrom_eq s part 0 l

theorem giveFrom_cluster_other {c : Nat} {l : List Nat} (h : c ∉ l) (s : State) (part n : Nat) :
    (giveFrom s part n l).cluster c = s.cluster c := by
  induction l generalizing s n with
  | nil => rfl
  | cons a l ih =>
    obtain ⟨ha, hl⟩ := not_or.1 (mt List.mem_cons.2 h)
    rw [giveFrom_cons, ih hl, giveCluster, State.updCluster_cluster, if_neg ha]

theorem giveFrom_cluster {l : List Nat} (h : l.Nodup) {i : Nat} (hi : i < l.length) (s : State) (part n : Nat) :
    (giveFrom s part n l).cluster l[i] = s.givenCluster part l[i] (n + i) := by
  induction l generalizing s n i with
  | nil => cases hi
  | cons a l ih =>
    obtain ⟨ha, hl⟩ := List.nodup_cons.1 h
    rw [giveFrom_cons]
    cases i with
    | zero =>
      rw [List.getElem_cons_zero, giveFrom_cluster_other ha]
      exact State.updCluster_cluster_self _ _ _
    | succ i =>
      have hi : i < l.length := Nat.lt_of_succ_lt_succ hi
      have hne : l[i] ≠ a := fun e => ha (e ▸ List.getElem_mem hi)
      have hc : (giveCluster s part a n).cluster l[i] = s.cluster l[i] := by rw [giveCluster, State.updCluster_cluster, if_neg hne]
      rw [List.getElem_cons_succ, ih hl hi]
      unfold State.givenCluster
      rw [hc, Nat.add_right_comm, ← Nat.add_assoc]
      rfl

/-! ## Class bindings (R79) -/

theorem bindClasses_eq (s : State) (part : Nat) (l : List W64) : bindClasses s part l = { s with cores := (bindClasses s part l).cores } := by
  induction l using List.twoStepInduction generalizing s with
  | nil => rfl
  | singleton k => rfl
  | cons_cons k w l ih _ =>
    unfold bindClasses
    split
    · exact ih _
    · exact (ih _).trans rfl

/-- One binding is written where its place is in the partition's map. -/
theorem bindClasses_cls {s : State} {part c : Nat} {k : W64} (h : s.physCluster part (k.toNat / 2048) = some c) (w : W64) :
    ((bindClasses s part [k, w]).core (c * 128 + k.toNat / 16 % 128)).cls (k.toNat % 16) = w &&& 0xF77FE00 := by
  have he : bindClasses s part [k, w] = s.updCore (c * 128 + k.toNat / 16 % 128) fun x => x.setCls (k.toNat % 16) (w &&& 0xF77FE00) := by
    unfold bindClasses
    rw [h]
    rfl
  rw [he, State.updCore_core_self]
  exact Sp.get_set_self _ _ _ _

/-! ## What a partition's blocks do at regular times -/

theorem armClusters_eq (l : List Nat) (s : State) :
    l.foldl (fun s c => (s.postAt (s.now + 1024) .clusterReport c).postAt (s.now + 512) .stealProbe c) s =
      { s with timers := (l.foldl (fun s c => (s.postAt (s.now + 1024) .clusterReport c).postAt (s.now + 512) .stealProbe c) s).timers } := by
  induction l generalizing s with
  | nil => rfl
  | cons c l ih => exact (ih _).trans rfl

theorem armPartition_eq (s : State) (part : Nat) (l : List Nat) : armPartition s part l = { s with timers := (armPartition s part l).timers } :=
  (armClusters_eq l _).trans rfl

/-! ## Creation -/

theorem exec_partitionCreate_live {s : State} (h : (s.part s.cur).live = true) : exec .partitionCreate s = .next (s.answer 1) := by
  show Host.Outcome.next (partitionCreate s) = _
  unfold partitionCreate
  dsimp only
  split
  · rw [if_pos (Or.inl h)]
  · rfl

/-- A partition as it is created. -/
def newPart (fault ql qt root scale wdog : W64) (l : List Nat) : Part :=
  { live := true, clusters := l, root := root, scalebase := scale &&& ~~~(3 : W64), wdogwin := wdog &&& 0xFFFFFFFF,
    faultCore := some (fault.toNat - 1), quotaLevels := ql.toNat, quotaTimers := qt.toNat }

/-- The queues that a mask names. -/
def maskQueues (mask : W64) : List Nat := (List.range 64).filter fun q => mask.getLsbD q

theorem mem_maskQueues {mask : W64} {q : Nat} : q ∈ maskQueues mask ↔ q < 64 ∧ mask.getLsbD q = true := by
  rw [maskQueues, List.mem_filter, List.mem_range]

/-- What a creation asks of the device, its clusters and its queues (R56, R411, R439, R458). -/
structure CreateOk (s : State) (fault mask : W64) (l : List Nat) : Prop where
  free : (s.part s.cur).live = false
  running : (s.dev (s.cur / 32)).boot.recovery = false
  service : s.serviceOk (s.cur / 32) fault = true
  nonempty : 0 < l.length
  few : l.length ≤ 128
  once : l.Nodup
  clusters : ∀ c ∈ l, clusterDev c = s.cur / 32 ∧ (s.cluster c).part = none ∧ (s.slice c).dead = false
  queues : ∀ q, q < 64 → mask.getLsbD q = true → queueIdle (s.queue (s.cur / 32 * 64 + q)) = true

/-- The partition and its clusters and bindings, before its queues. -/
def createdClusters (s : State) (p : Part) (binds : List W64) : State :=
  bindClasses (giveClusters (s.setPart s.cur p) s.cur p.clusters) s.cur binds

/-- The state of a creation before its answer. -/
def created (s : State) (p : Part) (mask : W64) (binds : List W64) : State :=
  armPartition (assignQueues (createdClusters s p binds) (s.cur / 32) s.cur (maskQueues mask)) s.cur p.clusters

theorem partitionCreate_eq {s : State} {n fault ql qt mask root scale wdog : W64} {l binds : List W64}
    (hd : s.data = n :: fault :: ql :: qt :: mask :: root :: scale :: wdog :: (l ++ binds)) (hn : n.toNat = l.length)
    (hok : CreateOk s fault mask (l.map BitVec.toNat)) (hb : classesBad binds = false) :
    partitionCreate s = (created s (newPart fault ql qt root scale wdog (l.map BitVec.toNat)) mask binds).answer 0 := by
  obtain ⟨hfree, hrun, hserv, hsome, hfew, honce, hcl, hq⟩ := hok
  have hn0 : n ≠ 0#64 := by
    rintro rfl
    simp only [List.length_map] at hsome
    have h0 : (0#64).toNat = 0 := rfl
    omega
  have hany : ((l.map BitVec.toNat).any fun c => clusterDev c != s.cur / 32 || (s.cluster c).part.isSome || (s.slice c).dead) = false := by
    refine List.any_eq_false.2 fun c hc => ?_
    obtain ⟨hdev, hpart, hdead⟩ := hcl c hc
    simp [hdev, hpart, hdead]
  have hqs : ((maskQueues mask).any fun q => !queueIdle (s.queue (s.cur / 32 * 64 + q))) = false := by
    refine List.any_eq_false.2 fun q hm => ?_
    obtain ⟨hlt, hbit⟩ := mem_maskQueues.1 hm
    simp [hq q hlt hbit]
  have hlen : (l.map BitVec.toNat).length = n.toNat := by rw [List.length_map, hn]
  unfold partitionCreate
  rw [hd]
  dsimp only
  rw [List.take_left' hn.symm, List.drop_left' hn.symm]
  refine if_neg ?_
  rw [hfree, hrun, hserv, hb, eraseDups_eq_of_nodup honce, hany]
  change ¬ (_ ∨ _ ∨ _ ∨ _ ∨ _ ∨ _ ∨ _ ∨ ((maskQueues mask).any fun q => !queueIdle (s.queue (s.cur / 32 * 64 + q))) = true ∨ _ ∨ _)
  rw [hqs]
  have hfew : ¬ 128 < n.toNat := by omega
  simp [hn0, hlen, hfew]

theorem createdClusters_eq (s : State) (p : Part) (binds : List W64) : createdClusters s p binds =
    { s.setPart s.cur p with
        clusters := (giveClusters (s.setPart s.cur p) s.cur p.clusters).clusters
        cores := (createdClusters s p binds).cores } := by
  unfold createdClusters
  have hg := giveClusters_eq (s.setPart s.cur p) s.cur p.clusters
  generalize giveClusters (s.setPart s.cur p) s.cur p.clusters = u at hg ⊢
  rw [bindClasses_eq]
  rw [hg]

/-- What a creation writes: the partition, its clusters, its cores' bindings, its queues, and times of its blocks. -/
theorem created_eq (s : State) (p : Part) (mask : W64) (binds : List W64) : created s p mask binds =
    { s.setPart s.cur p with
        clusters := (giveClusters (s.setPart s.cur p) s.cur p.clusters).clusters
        cores := (createdClusters s p binds).cores
        devs := (assignQueues (createdClusters s p binds) (s.cur / 32) s.cur (maskQueues mask)).devs
        timers := (created s p mask binds).timers } := by
  unfold created
  have hg := createdClusters_eq s p binds
  generalize createdClusters s p binds = u at hg ⊢
  have hq := assignQueues_eq u (s.cur / 32) s.cur (maskQueues mask)
  generalize assignQueues u (s.cur / 32) s.cur (maskQueues mask) = v at hq ⊢
  rw [armPartition_eq]
  rw [hq]
  rw [hg]

theorem created_part (s : State) (p : Part) (mask : W64) (binds : List W64) : (created s p mask binds).part s.cur = p := by
  rw [created_eq]
  exact State.setPart_part_self _ _ _

theorem created_cluster (s : State) (p : Part) (mask : W64) (binds : List W64) (c : Nat) :
    (created s p mask binds).cluster c = (giveFrom (s.setPart s.cur p) s.cur 0 p.clusters).cluster c := by
  rw [created_eq]
  rfl

theorem created_queue {s : State} {p : Part} {mask : W64} {binds : List W64} {q : Nat} (hq : q ∈ maskQueues mask) :
    (created s p mask binds).queue (s.cur / 32 * 64 + q) = { own := some s.cur } := by
  rw [created_eq]
  exact assignQueues_queue hq _

theorem created_cores_of_no_binds (s : State) (p : Part) (mask : W64) : (created s p mask []).cores = s.cores := by
  rw [created_eq]
  show (giveClusters (s.setPart s.cur p) s.cur p.clusters).cores = _
  rw [giveClusters_eq]
  rfl

theorem created_cls {s : State} {p : Part} {mask k w : W64} (hk : k.toNat / 2048 < p.clusters.length) :
    ((created s p mask [k, w]).core (p.clusters.getD (k.toNat / 2048) 0 * 128 + k.toNat / 16 % 128)).cls (k.toNat % 16) = w &&& 0xF77FE00 := by
  rw [created_eq]
  refine bindClasses_cls ?_ w
  rw [State.physCluster, giveClusters_eq]
  show ((s.setPart s.cur p).part s.cur).clusters[_]? = _
  rw [State.setPart_part_self, List.getElem?_eq_getElem hk, List.getD_eq_getElem _ _ hk]

/-- A cluster of a partition as its creation leaves it: entry 15 spans the cores it sees, and no other entry is set. -/
theorem givenCluster_seg (s : State) (part c rel : Nat) :
    Sp.get 0 (s.givenCluster part c rel).seg 15 = s.segment15 c part ∧ ∀ e, e ≠ 15 → Sp.get 0 (s.givenCluster part c rel).seg e = 0 :=
  ⟨rfl, fun e he => by simp [State.givenCluster, Sp.get, Sp.find, Ne.symm he]⟩

theorem created_givenCluster {s : State} {p : Part} {mask : W64} {binds : List W64} (h : p.clusters.Nodup) {i : Nat} (hi : i < p.clusters.length) :
    (created s p mask binds).cluster (p.clusters.getD i 0) = (s.setPart s.cur p).givenCluster s.cur (p.clusters.getD i 0) i := by
  rw [created_cluster, List.getD_eq_getElem _ _ hi, giveFrom_cluster h hi, Nat.zero_add]

theorem partitionsCreated (s : State) (n fault ql qt mask root scale wdog : W64) (l binds : List W64) :
    let cs := l.map BitVec.toNat; let d := s.cur / 32
    s.data = n :: fault :: ql :: qt :: mask :: root :: scale :: wdog :: (l ++ binds) → (s.part s.cur).live = false → (s.dev d).boot.recovery = false →
    s.serviceOk d fault = true → classesBad binds = false → n.toNat = l.length → 0 < l.length → l.length ≤ 128 → cs.Nodup →
    (∀ c ∈ cs, clusterDev c = d ∧ (s.cluster c).part = none ∧ (s.slice c).dead = false) →
    (∀ q, q < 64 → mask.getLsbD q = true → queueIdle (s.queue (d * 64 + q)) = true) → ∃ (t : State), exec .partitionCreate s = .next t ∧
      (t.part s.cur).live = true ∧ (t.part s.cur).clusters = cs ∧ (t.part s.cur).root = root ∧ (t.part s.cur).quotaLevels = ql.toNat ∧
      (t.part s.cur).quotaTimers = qt.toNat ∧ (t.part s.cur).signals = [] ∧ (t.part s.cur).resetting = false ∧
      (t.part s.cur).faultCore = some (fault.toNat - 1) ∧ (binds = [] → t.cores = s.cores) ∧
      (∀ k w, binds = [k, w] → k.toNat / 2048 < cs.length →
        (t.core (cs.getD (k.toNat / 2048) 0 * 128 + k.toNat / 16 % 128)).cls (k.toNat % 16) = w &&& 0xF77FE00) ∧
      (∀ i, i < cs.length → let c := cs.getD i 0; (t.cluster c).part = some s.cur ∧ (t.cluster c).rel = i ∧
        Sp.get 0 (t.cluster c).seg 15 = BitVec.ofNat 64 (s.cur % 32 * 2 ^ 52
          + (if c % 16 = 15 then 127 - (s.dev d).w else 127) * 2 ^ 38 + 0x3E00000000) ∧
        (∀ e, e ≠ 15 → Sp.get 0 (t.cluster c).seg e = 0)) ∧
      (∀ c, c ∉ cs → t.cluster c = s.cluster c) ∧
      (∀ q, q < 64 → mask.getLsbD q = true → t.queue (d * 64 + q) = { own := some s.cur }) ∧
      t.mem = s.mem ∧ t.slots = s.slots ∧ Answered t s.cur 0 [] := by
  intro cs d hdata hfree hrun hserv hbad hn hpos hle hnd hcl hq
  have hok : CreateOk s fault mask cs :=
    ⟨hfree, hrun, hserv, hpos.trans_eq (List.length_map _).symm, (List.length_map _).trans_le hle, hnd, hcl, hq⟩
  let p := newPart fault ql qt root scale wdog cs
  have hp : ((created s p mask binds).answer 0).part s.cur = p := created_part s p mask binds
  refine ⟨(created s p mask binds).answer 0, congrArg Host.Outcome.next (partitionCreate_eq hdata hn hok hbad), ?_⟩
  rw [hp]
  refine ⟨rfl, rfl, rfl, rfl, rfl, rfl, rfl, rfl, fun hb => ?_, fun k w hb hk => ?_, fun i hi => ?_, fun c hc => ?_, fun q hlt hbit => ?_, ?_, ?_, ?_⟩
  · subst hb
    exact created_cores_of_no_binds s p mask
  · subst hb
    exact created_cls (p := p) hk
  · intro c
    have hc : ((created s p mask binds).answer 0).cluster c = (s.setPart s.cur p).givenCluster s.cur c i := created_givenCluster (p := p) hnd hi
    have hmem : c ∈ cs := by
      rw [show c = cs[i] from List.getD_eq_getElem _ _ hi]
      exact List.getElem_mem hi
    obtain ⟨hdev, -, -⟩ := hcl c hmem
    obtain ⟨h15, hother⟩ := givenCluster_seg (s.setPart s.cur p) s.cur c i
    rw [hc]
    refine ⟨rfl, rfl, h15.trans ?_, hother⟩
    unfold State.segment15 State.lastCore
    rw [hdev]
    rfl
  · exact (created_cluster s p mask binds c).trans (giveFrom_cluster_other hc _ _ _)
  · exact created_queue (mem_maskQueues.2 ⟨hlt, hbit⟩)
  · show (created s p mask binds).mem = _
    rw [created_eq]
    rfl
  · show (created s p mask binds).slots = _
    rw [created_eq]
    rfl
  · have hcur : (created s p mask binds).cur = s.cur := by
      rw [created_eq]
      rfl
    have ha := answered_answer (created s p mask binds) 0 []
    rwa [hcur] at ha

end Sys2Proof.Machine
end

section
/-! SUPPORT. How a partition is reset (R415 to R417): pre-emption is asked for, and in the end what the partition holds is cleared. -/

namespace Sys2Proof.Machine
open Sys2Proof

/-- A request of a reset in its next phase, which is what its cause is counted up by. -/
def resetAgain (s : State) (v : W64) (l : List W64) (n : W64) : Op := { who := s.cur, data := (v + n) :: l, ins := .partitionReset }

theorem exec_partitionReset_refused {s : State} {v : W64} {l : List W64} (hd : s.data = v :: l)
    (h : (s.part s.cur).live = false ∨ classesBad l.tail = true) : exec .partitionReset s = .next (s.answer 1) := by
  show Host.Outcome.next (partitionReset s) = _
  unfold partitionReset
  dsimp only
  rw [if_pos]
  rw [hd, List.drop_succ_cons, List.drop_one]
  exact h.imp (fun h => by rw [h]; rfl) id

/-- A reset of a live partition goes by the phase its request names. -/
theorem exec_partitionReset {s : State} {v : W64} {l : List W64} (hd : s.data = v :: l) (hl : (s.part s.cur).live = true)
    (hb : classesBad l.tail = false) : exec .partitionReset s = .next (match v.toNat / 256 with
      | 0 => if (s.part s.cur).resetting then s.answer 0 else (askPreemption s s.cur).postOp (resetAgain s v l 256)
      | 1 => if (s.part s.cur).resetting then s.answer 0 else (resetBegins s s.cur (v.toNat % 256)).postOp (resetAgain s v l 256)
      | _ => if !(s.part s.cur).resetting then s.answer 0 else if resetSettled s s.cur then (resetClears s s.cur l).answer 0
        else s.postOnce (resetAgain s v l 0)) := by
  show Host.Outcome.next (partitionReset s) = _
  unfold partitionReset
  simp only [hd, hl, hb, List.drop_succ_cons, List.drop_one, List.headD_cons, List.tail_cons]
  rfl

section phases
variable {s : State} {v : W64} {l : List W64} (hd : s.data = v :: l) (hl : (s.part s.cur).live = true) (hb : classesBad l.tail = false)
include hd hl hb

theorem exec_partitionReset_asks (hv : v.toNat < 256) (hr : (s.part s.cur).resetting = false) :
    exec .partitionReset s = .next ((askPreemption s s.cur).postOp (resetAgain s v l 256)) := by
  have h0 : v.toNat / 256 = 0 := by omega
  rw [exec_partitionReset hd hl hb, h0, hr]
  rfl

theorem exec_partitionReset_joins (hv : v.toNat < 512) (hr : (s.part s.cur).resetting = true) :
    exec .partitionReset s = .next (s.answer 0) := by
  have h01 : v.toNat / 256 = 0 ∨ v.toNat / 256 = 1 := by omega
  rw [exec_partitionReset hd hl hb, hr]
  rcases h01 with h | h
  · rw [h]
    rfl
  · rw [h]
    rfl

theorem exec_partitionReset_begins (hv : 256 ≤ v.toNat) (hv' : v.toNat < 512) (hr : (s.part s.cur).resetting = false) :
    exec .partitionReset s = .next ((resetBegins s s.cur (v.toNat % 256)).postOp (resetAgain s v l 256)) := by
  have h1 : v.toNat / 256 = 1 := by omega
  rw [exec_partitionReset hd hl hb, h1, hr]
  rfl

theorem exec_partitionReset_late (hv : 512 ≤ v.toNat) (hr : (s.part s.cur).resetting = true) : exec .partitionReset s =
    .next (if resetSettled s s.cur then (resetClears s s.cur l).answer 0 else s.postOnce (resetAgain s v l 0)) := by
  obtain ⟨n, hn⟩ : ∃ n, v.toNat / 256 = n + 2 := ⟨v.toNat / 256 - 2, by omega⟩
  rw [exec_partitionReset hd hl hb, hn, hr]
  rfl

end phases

/-! ## Phase 1: pre-emption is asked for (R182) -/

theorem askPreemption_slot (s : State) (part i : Nat) : (askPreemption s part).slot i =
    if s.partOf (slotCluster i) = part ∧ (s.slot i).st ≠ .idle then { s.slot i with preempt := some ((s.slot i).preempt.getD 0) } else s.slot i := by
  let f (k : Nat) (t : Slot) : Slot :=
    if s.partOf (slotCluster k) = part ∧ t.st ≠ .idle then { t with preempt := some (t.preempt.getD 0) } else t
  have he : (askPreemption s part).slots = s.slots.map fun t => (t.1, f t.1 t.2) := List.map_congr_left fun t _ => by
    dsimp only [f]
    split
    · rfl
    · rfl
  show Sp.get {} (askPreemption s part).slots i = f i (s.slot i)
  rw [he]
  exact Sp.get_mapKey f s.slots i (if_neg fun h => h.2 rfl)

/-! ## The last phase: what the partition holds is cleared (R415, R416) -/

/-- Nothing but clusters and devices has been written. -/
def BlocksOnly (s t : State) : Prop := t = { s with clusters := t.clusters, devs := t.devs }

theorem BlocksOnly.trans {s t u : State} (a : BlocksOnly s t) (b : BlocksOnly t u) : BlocksOnly s u := by
  rw [BlocksOnly, b, a]

theorem BlocksOnly.foldl {α : Type} {f : State → α → State} (h : ∀ s a, BlocksOnly s (f s a)) (l : List α) (s : State) :
    BlocksOnly s (l.foldl f s) := by
  induction l generalizing s with
  | nil => rfl
  | cons a l ih => exact (h s a).trans (ih _)

theorem blocksOnly_giveClusters (s : State) (part : Nat) (l : List Nat) : BlocksOnly s (giveClusters s part l) :=
  .foldl (f := fun s (c : Nat × Nat) => giveCluster s part c.1 c.2) (fun _ _ => rfl) _ s

/-- A partition after its reset, with the clusters it keeps and the words that partition management writes anew. -/
def Part.cleared (q : Part) (l : List Nat) (words : List W64) : Part :=
  { q with clusters := l, scalebase := (words.head?.map fun w => w &&& ~~~(3 : W64)).getD q.scalebase, decls := [], signals := [], useInj := 0,
           useSlice := 0, useCour := 0, sweep := none, quiet0 := false, quiet1 := false, rr := 0, quiets := [], placing := [], idle := [],
           resets := q.resets + 1, resetting := false }

/-- What a reset has cleared before the class bindings are written anew. -/
structure Cleared (s : State) (part : Nat) (t : State) : Prop where
  parts : t.parts = s.parts
  cur : t.cur = s.cur
  mem : t.mem = s.mem.filter fun b => !s.ownsByte part b.1
  levels : t.levels = s.levels.filter fun l => l.1 / 2 ^ 64 != part
  slots : t.slots = s.slots.map fun (t : Nat × Slot) => if s.partOf (slotCluster t.1) = part
    then (t.1, { ({} : Slot) with gen := t.2.gen, genNext := t.2.genNext }) else t
  cores : t.cores = s.cores.map fun (c : Nat × Core) => if s.partOf (coreCluster c.1) = part then (c.1, clearCore c.2) else c

theorem BlocksOnly.cleared {s t u : State} {part : Nat} (h : BlocksOnly t u) (ht : Cleared s part t) : Cleared s part u := by
  obtain ⟨hparts, hcur, hmem, hlevels, hslots, hcores⟩ := ht
  rw [h]
  exact ⟨hparts, hcur, hmem, hlevels, hslots, hcores⟩

theorem resetClears_eq (s : State) (part : Nat) (words : List W64) : ∃ u l, Cleared s part u ∧
    resetClears s part words = (bindClasses u part words.tail).updPart part fun q => q.cleared l words := by
  refine ⟨_, _, ?_, rfl⟩
  refine BlocksOnly.cleared (blocksOnly_giveClusters _ _ _) (BlocksOnly.cleared (.foldl ?_ _ _) (BlocksOnly.cleared (.foldl ?_ _ _) ?_))
  · exact fun _ _ => rfl
  · exact fun _ _ => rfl
  · exact ⟨rfl, rfl, rfl, rfl, rfl, rfl⟩

/-- Class bindings are all that a core's state can change by when they are written. -/
theorem bindClasses_core (s : State) (part : Nat) (l : List W64) (k : Nat) : (bindClasses s part l).core k =
    { s.core k with classes := ((bindClasses s part l).core k).classes } := by
  induction l using List.twoStepInduction generalizing s with
  | nil => rfl
  | singleton w => rfl
  | cons_cons p w l ih _ =>
    unfold bindClasses
    split
    · exact ih _
    · next c _ =>
      refine (ih _).trans ?_
      rw [State.updCore_core]
      split
      · next hk =>
        rw [hk]
        rfl
      · rfl

section cleared
variable {s t : State} {part : Nat} (h : Cleared s part t)
include h

theorem Cleared.slot (i : Nat) : t.slot i =
    if s.partOf (slotCluster i) = part then { gen := (s.slot i).gen, genNext := (s.slot i).genNext } else s.slot i := by
  let f (k : Nat) (x : Slot) : Slot := if s.partOf (slotCluster k) = part then { gen := x.gen, genNext := x.genNext } else x
  have he : t.slots = s.slots.map fun x => (x.1, f x.1 x.2) := h.slots.trans (List.map_congr_left fun x _ => by
    dsimp only [f]
    split
    · rfl
    · rfl)
  show Sp.get {} t.slots i = f i (s.slot i)
  rw [he]
  exact Sp.get_mapKey f s.slots i (ite_self _)

theorem Cleared.core (k : Nat) : t.core k = if s.partOf (coreCluster k) = part then clearCore (s.core k) else s.core k := by
  let f (k : Nat) (x : Core) : Core := if s.partOf (coreCluster k) = part then clearCore x else x
  have he : t.cores = s.cores.map fun x => (x.1, f x.1 x.2) := h.cores.trans (List.map_congr_left fun x _ => by
    dsimp only [f]
    split
    · rfl
    · rfl)
  show Sp.get {} t.cores k = f k (s.core k)
  rw [he]
  exact Sp.get_mapKey f s.cores k (ite_self _)

theorem Cleared.byte (a : Nat) : t.byte a = if s.ownsByte part a = true then 0 else s.byte a := by
  unfold State.byte
  rw [h.mem, Sp.get_filter_key _ _ fun a => !s.ownsByte part a]
  cases s.ownsByte part a <;> rfl

theorem Cleared.level (w : W64) : t.level? part w = none := by
  unfold State.level?
  rw [h.levels]
  refine Option.eq_none_iff_forall_ne_some.2 fun x hx => ?_
  have hk : levelKey part w / 2 ^ 64 = part := by
    unfold levelKey
    omega
  exact absurd hk (by simpa using (List.mem_filter.1 (Sp.mem_of_find hx)).2)

end cleared

/-! ## A reset's phases but the one it begins with -/

theorem resetAsks {s : State} {v : W64} {l : List W64} (hd : s.data = v :: l) (hl : (s.part s.cur).live = true) (hb : classesBad l.tail = false)
    (hv : v.toNat < 256) (hr : (s.part s.cur).resetting = false) : ∃ (t : State), exec .partitionReset s = .next t ∧
      Answers t (resetAgain s v l 256) ∧ t.mem = s.mem ∧ t.parts = s.parts ∧
      ∀ i, t.slot i = if s.partOf (slotCluster i) = s.cur ∧ (s.slot i).st ≠ .idle
        then { s.slot i with preempt := some ((s.slot i).preempt.getD 0) } else s.slot i :=
  ⟨_, exec_partitionReset_asks hd hl hb hv hr, List.getLast?_concat, rfl, rfl, askPreemption_slot s s.cur⟩

theorem resetWaits {s : State} {v : W64} {l : List W64} (hd : s.data = v :: l) (hl : (s.part s.cur).live = true) (hb : classesBad l.tail = false)
    (hv : 512 ≤ v.toNat) (hr : (s.part s.cur).resetting = true) (hs : resetSettled s s.cur = false) :
    exec .partitionReset s = .next (s.postOnce (resetAgain s v l 0)) := by
  rw [exec_partitionReset_late hd hl hb hv hr, hs]
  rfl

theorem resetEnds {s : State} {v : W64} {l : List W64} (hd : s.data = v :: l) (hl : (s.part s.cur).live = true) (hb : classesBad l.tail = false)
    (hv : 512 ≤ v.toNat) (hr : (s.part s.cur).resetting = true) (hs : resetSettled s s.cur = true) : let p := s.cur
    ∃ (t : State), exec .partitionReset s = .next t ∧
      (t.part p).resetting = false ∧ (t.part p).resets = (s.part p).resets + 1 ∧ (t.part p).root = (s.part p).root ∧ (t.part p).signals = [] ∧
      (t.part p).scalebase = (if l = [] then (s.part p).scalebase else l.headD 0 &&& ~~~(3 : W64)) ∧
      (t.part p).placing = [] ∧ (∀ h, t.level? p h = none) ∧
      (∀ i, s.partOf (slotCluster i) = p → t.slot i = { gen := (s.slot i).gen, genNext := (s.slot i).genNext }) ∧
      (∀ i, s.partOf (slotCluster i) ≠ p → t.slot i = s.slot i) ∧
      (∀ k, s.partOf (coreCluster k) = p → (l.tail = [] → (t.core k).classes = []) ∧ (t.core k).guards = [] ∧ (t.core k).ports = []) ∧
      (l.tail = [] → ∀ k, s.partOf (coreCluster k) ≠ p → t.core k = s.core k) ∧
      (∀ a, t.byte a = if s.ownsByte p a = true then 0 else s.byte a) ∧ Answered t p 0 [] := by
  intro p
  obtain ⟨u, kept, hu, he⟩ := resetClears_eq s p l
  have hx : exec .partitionReset s = .next (((bindClasses u p l.tail).updPart p fun q => q.cleared kept l).answer 0) := by
    rw [exec_partitionReset_late hd hl hb hv hr, hs, ← he]
    rfl
  have hpart : (((bindClasses u p l.tail).updPart p fun q => q.cleared kept l).answer 0).part p = (s.part p).cleared kept l := by
    rw [State.answer_part, State.updPart_part_self, bindClasses_eq]
    show (Sp.get {} u.parts p : Part).cleared kept l = _
    rw [hu.parts]
    rfl
  have hnone (h : l.tail = []) : bindClasses u p l.tail = u := by
    rw [h]
    rfl
  refine ⟨_, hx, ?_⟩
  rw [hpart]
  refine ⟨rfl, rfl, rfl, rfl, ?_, rfl, fun w => ?_, fun i hi => ?_, fun i hi => ?_,
    fun k hk => ⟨fun h => ?_, ?_, ?_⟩, fun h k hk => ?_, fun a => ?_, ?_⟩
  · cases l with
    | nil => rfl
    | cons w l => rfl
  · show (bindClasses u p l.tail).level? p w = none
    rw [bindClasses_eq]
    exact hu.level w
  · show (bindClasses u p l.tail).slot i = _
    rw [bindClasses_eq]
    exact (hu.slot i).trans (if_pos hi)
  · show (bindClasses u p l.tail).slot i = _
    rw [bindClasses_eq]
    exact (hu.slot i).trans (if_neg hi)
  · show ((bindClasses u p l.tail).core k).classes = []
    rw [hnone h, hu.core, if_pos hk]
    rfl
  · show ((bindClasses u p l.tail).core k).guards = []
    rw [bindClasses_core, hu.core, if_pos hk]
    rfl
  · show ((bindClasses u p l.tail).core k).ports = []
    rw [bindClasses_core, hu.core, if_pos hk]
    rfl
  · show (bindClasses u p l.tail).core k = _
    rw [hnone h, hu.core, if_neg hk]
  · show (bindClasses u p l.tail).byte a = _
    rw [bindClasses_eq]
    exact hu.byte a
  · have hcur : (bindClasses u p l.tail).cur = p := by
      rw [bindClasses_eq]
      exact hu.cur
    have ha := answered_answer ((bindClasses u p l.tail).updPart p fun q => q.cleared kept l) 0 []
    rwa [State.updPart_cur, hcur] at ha

end Sys2Proof.Machine
end

section
/-! SUPPORT. A reset's first phase (R175, R415, R416): what the end of a unit keeps, and what of the partition is stopped. -/

namespace Sys2Proof.Machine
open Sys2Proof

/-! ## Who owns what stands -/

/-- Devices, with their queues, and the owners of clusters have not changed. -/
structure KeepsOwners (s t : State) : Prop where
  devs : t.devs = s.devs
  part : ∀ c, (t.cluster c).part = (s.cluster c).part

theorem KeepsOwners.refl (s : State) : KeepsOwners s s := ⟨rfl, fun _ => rfl⟩

theorem KeepsOwners.trans {s t u : State} (a : KeepsOwners s t) (b : KeepsOwners t u) : KeepsOwners s u :=
  ⟨b.devs.trans a.devs, fun c => (b.part c).trans (a.part c)⟩

/-- A change of the parts that are no devices and no clusters. -/
theorem KeepsOwners.of_eq {s t : State} (hd : t.devs = s.devs) (hc : t.clusters = s.clusters) : KeepsOwners s t :=
  ⟨hd, fun c => by unfold State.cluster; rw [hc]⟩

theorem KeepsOwners.foldl {α : Type} {f : State → α → State} (h : ∀ s a, KeepsOwners s (f s a)) (l : List α) (s : State) :
    KeepsOwners s (l.foldl f s) := by
  induction l generalizing s with
  | nil => exact .refl s
  | cons a l ih => exact (h s a).trans (ih _)

theorem keepsOwners_updCluster (s : State) (i : Nat) {f : Cluster → Cluster} (h : (f (s.cluster i)).part = (s.cluster i).part) :
    KeepsOwners s (s.updCluster i f) := by
  refine ⟨rfl, fun c => ?_⟩
  rw [State.updCluster_cluster]
  split
  · next e => rw [h, e]
  · rfl

theorem keepsOwners_post (s : State) (i : Instr) (w : Nat) : KeepsOwners s (s.post i w) := .of_eq rfl rfl
theorem keepsOwners_postOp (s : State) (o : Op) : KeepsOwners s (s.postOp o) := .of_eq rfl rfl
theorem keepsOwners_postAll (s : State) (l : List Op) : KeepsOwners s (s.postAll l) := .of_eq rfl rfl
theorem keepsOwners_updPart (s : State) (i : Nat) (f : Part → Part) : KeepsOwners s (s.updPart i f) := .of_eq rfl rfl
theorem keepsOwners_setPort (s : State) (core i : Nat) (p : Port) : KeepsOwners s (s.setPort core i p) := .of_eq rfl rfl

theorem keepsOwners_write (s : State) (loc v n : Nat) : KeepsOwners s (s.write loc v n) := by
  rw [State.write_eq]
  exact .of_eq rfl rfl

theorem keepsOwners_sendAs (s : State) (ni part : Nat) (t : Option Bool) (o : Op) : KeepsOwners s (s.sendAs ni part t o) := by
  rw [sendAs_eq]
  exact .of_eq rfl rfl

theorem keepsOwners_sendTag (s : State) (ni part tag : Nat) (o : Op) : KeepsOwners s (s.sendTag ni part tag o) := by
  unfold State.sendTag
  split
  · exact keepsOwners_sendAs _ _ _ _ _
  · exact keepsOwners_postOp _ _

theorem keepsOwners_deliverTag (s : State) (ni tag : Nat) : KeepsOwners s (s.deliverTag ni tag) := by
  unfold State.deliverTag
  split
  · exact .of_eq rfl rfl
  · exact .refl s

/-! ## Settling a line, translation and the reaching of a location (R65, R121, R187) -/

theorem keepsOwners_setRegion (s : State) (place : Nat) (r : Region) : KeepsOwners s (s.setRegion place r) := by
  unfold State.setRegion
  exact keepsOwners_updCluster _ _ rfl

theorem keepsOwners_askAbort (s : State) (place : Nat) (gen : W64) (cause : Nat) : KeepsOwners s (askAbort s place gen cause) := by
  unfold askAbort
  split
  · exact .refl s
  · next r _ =>
    split
    · refine KeepsOwners.trans (.foldl (fun _ _ => keepsOwners_sendAs _ _ _ _ _) _ _)
        (KeepsOwners.trans (.foldl (fun t m => ?_) _ _) (keepsOwners_setRegion _ _ _))
      rw [if_neg nofun]
      exact keepsOwners_post _ _ _
    · exact .refl s

theorem keepsOwners_installBytes (s : State) (e : WsEntry) (i n : Nat) : KeepsOwners s (installBytes s e i n) := by
  induction n generalizing s i with
  | zero => exact .refl s
  | succ n ih =>
    simp only [installBytes]
    split
    · exact (keepsOwners_write _ _ _ _).trans (ih _ _)
    · exact ih _ _

theorem keepsOwners_slicePart (s : State) (sl : Nat) (install : Bool) (data : List W64) : KeepsOwners s (slicePart s sl install data) := by
  unfold slicePart
  split
  · refine KeepsOwners.trans (KeepsOwners.trans ?_ (keepsOwners_sendTag _ _ _ _ _)) (.of_eq rfl rfl)
    exact KeepsOwners.trans ((keepsOwners_deliverTag _ _ _).trans (.foldl (fun t e => keepsOwners_installBytes t e 0 64) _ _)) (.of_eq rfl rfl)
  · exact .refl s

theorem keepsOwners_performOutcome (s : State) (sl : Nat) (e : WsEntry) : KeepsOwners s (performOutcome s sl e) := by
  unfold performOutcome
  split
  · exact .refl s
  · refine KeepsOwners.trans ?_ (keepsOwners_slicePart _ _ _ _)
    split
    · exact .of_eq rfl rfl
    · exact .of_eq rfl rfl

theorem keepsOwners_settleEntry (s : State) (sl : Nat) (e : WsEntry) : KeepsOwners s (settleEntry s sl e) := by
  rw [settleEntry_eq]
  refine KeepsOwners.trans ?_ (keepsOwners_performOutcome _ _ _)
  split
  · exact keepsOwners_askAbort _ _ _ _
  · exact .refl s

theorem keepsOwners_settleLine (s : State) (sl part va : Nat) : KeepsOwners s (settleLine s sl part va) :=
  .foldl (fun _ _ => keepsOwners_settleEntry _ _ _) _ _

theorem keepsOwners_markEntry (s : State) (w : W64 × Nat) (wr : Bool) : KeepsOwners s (s.markEntry w wr) := by
  simp only [State.markEntry]
  split_ifs
  · exact .refl s
  · exact keepsOwners_write _ _ _ _
  · exact .refl s
  · exact keepsOwners_write _ _ _ _

theorem keepsOwners_cached (s : State) (w : W64 × Nat) (wr : Bool) (sl : Nat) (x : Slice) : KeepsOwners s ((s.markEntry w wr).setSlice sl x) :=
  (keepsOwners_markEntry s w wr).trans (.of_eq rfl rfl)

theorem keepsOwners_lookUp (s : State) (dev part va : Nat) (wr : Bool) : KeepsOwners s (s.lookUp dev part va wr).1 := by
  have ht : KeepsOwners s s.tick := .of_eq rfl rfl
  unfold State.lookUp
  dsimp only
  split
  · split
    · exact ht
    · split
      · exact ht
      · exact ht.trans (keepsOwners_cached _ _ _ _ _)
  · split
    · exact .refl s
    · exact keepsOwners_cached _ _ _ _ _

theorem keepsOwners_translate (s : State) (dev part va : Nat) (wr : Bool) : KeepsOwners s (s.translate dev part va wr).1 := by
  have h := keepsOwners_lookUp s dev part va wr
  unfold State.translate
  split
  · exact .refl s
  · split
    · next hl => rw [hl] at h; exact h
    · next hl => rw [hl] at h; exact h.trans (.of_eq rfl rfl)

theorem keepsOwners_reach (s : State) (x : Accessor) (a : W64) (len : Nat) (rd wr : Bool) : KeepsOwners s (s.reach x a len rd wr).1 := by
  unfold State.reach
  split
  · exact .refl s
  · exact .refl s
  · dsimp only
    split <;> exact .refl s
  · next dev va _ =>
    have h := keepsOwners_translate s dev (s.partAt x.part dev) va wr
    split
    · next ht => rw [ht] at h; exact h
    · next ht =>
      rw [ht] at h
      split
      · split
        · exact h.trans (keepsOwners_settleLine _ _ _ _)
        · exact h
      · exact h

theorem keepsOwners_of_reach {s t : State} {x : Accessor} {a : W64} {len : Nat} {rd wr : Bool} {r : Option (Option Nat)}
    (h : s.reach x a len rd wr = (t, r)) : KeepsOwners s t := by
  have := keepsOwners_reach s x a len rd wr
  rwa [h] at this

/-! ## The end of a unit (R148, R175) -/

theorem keepsOwners_traceRecord (s : State) (slot : Nat) : KeepsOwners s (traceRecord s slot) := by
  unfold traceRecord
  dsimp only
  split
  · exact .refl s
  · split
    · next hr => exact keepsOwners_of_reach hr
    · next l hr =>
      refine (keepsOwners_of_reach hr).trans (KeepsOwners.trans ?_ (keepsOwners_updPart _ _ _))
      split
      · exact keepsOwners_write _ _ _ _
      · exact .refl _

theorem keepsOwners_freeChannels (s : State) (l : List Nat) : KeepsOwners s (freeChannels s l) := by
  rw [freeChannels_eq]
  exact .of_eq rfl rfl

theorem keepsOwners_dropRoute (s : State) (core i : Nat) : KeepsOwners s (dropRoute s core i) := by
  unfold dropRoute
  dsimp only
  refine KeepsOwners.trans ?_ (keepsOwners_setPort _ _ _ _)
  split
  · exact (keepsOwners_freeChannels s _).trans (keepsOwners_setPort _ _ _ _)
  · exact keepsOwners_freeChannels s _

theorem keepsOwners_closePort (s : State) (core i : Nat) : KeepsOwners s (closePort s core i) := by
  have hr (s : State) : KeepsOwners s (if (s.port core i).srcPort = 0 then s else
      let q := s.port (s.port core i).srcCore ((s.port core i).srcPort - 1)
      if (q.st = .opened ∨ q.st = .bound) ∧ q.route = (s.port core i).route
      then s.setPort (s.port core i).srcCore ((s.port core i).srcPort - 1) { q with refused := 3 } else s) := by
    dsimp only
    split_ifs
    · exact .refl s
    · exact keepsOwners_setPort _ _ _ _
    · exact .refl s
  unfold closePort
  dsimp only
  split
  · exact .refl s
  · exact (keepsOwners_dropRoute s _ _).trans (keepsOwners_setPort _ _ _ _)
  · exact (keepsOwners_setPort s _ _ _).trans (keepsOwners_postOp _ _)
  · exact (hr s).trans (keepsOwners_setPort _ _ _ _)
  · exact (hr s).trans (keepsOwners_setPort _ _ _ _)

theorem keepsOwners_closePorts (s : State) (slot : Nat) (gen : BitVec 32) (n : Nat) : KeepsOwners s (closePorts s slot gen n) := by
  induction n with
  | zero => exact .refl s
  | succ n ih =>
    simp only [closePorts]
    split
    · exact ih.trans (keepsOwners_closePort _ _ _)
    · exact ih

theorem keepsOwners_freeLease (s : State) (slot : Nat) (gen : BitVec 32) : KeepsOwners s (freeLease s slot gen) := by
  unfold freeLease
  dsimp only
  split
  · exact (keepsOwners_updCluster _ _ rfl).trans (keepsOwners_post _ _ _)
  · exact .refl s

theorem keepsOwners_freeFrame (s : State) (x : Accessor) (pool : W64) (i : Nat) : KeepsOwners s (freeFrame s x pool i) := by
  unfold freeFrame
  split
  · next hr => exact keepsOwners_of_reach hr
  · next hr => exact keepsOwners_of_reach hr
  · next hr =>
    dsimp only
    split
    · exact keepsOwners_of_reach hr
    · exact (keepsOwners_of_reach hr).trans (keepsOwners_write _ _ _ _)

theorem keepsOwners_freeSaved (s : State) (slot : Nat) (c : Saved) : KeepsOwners s (freeSaved s slot c) := by
  unfold freeSaved
  dsimp only
  split
  · exact keepsOwners_freeFrame _ _ _ _
  · exact (keepsOwners_freeFrame _ _ _ _).trans (keepsOwners_freeFrame _ _ _ _)

theorem keepsOwners_unitEnd (s : State) (slot : Nat) (killed err : Bool) : KeepsOwners s (unitEnd s slot killed err) := by
  unfold unitEnd
  dsimp only
  refine KeepsOwners.trans (KeepsOwners.trans ?_ (.foldl (fun _ _ => keepsOwners_freeSaved _ _ _) _ _)) (.of_eq rfl rfl)
  refine KeepsOwners.trans ?_ (keepsOwners_post _ _ _)
  refine KeepsOwners.trans ?_ (keepsOwners_postAll _ _)
  have h : KeepsOwners s (freeLease (closePorts (traceRecord s slot) slot (s.slot slot).gen 8) slot (s.slot slot).gen) :=
    (keepsOwners_traceRecord s slot).trans ((keepsOwners_closePorts _ _ _ _).trans (keepsOwners_freeLease _ _ _))
  split
  · refine KeepsOwners.trans ?_ (keepsOwners_post _ _ _)
    split
    · exact h.trans (keepsOwners_postAll _ _)
    · exact h
  · split
    · exact h.trans (keepsOwners_postAll _ _)
    · exact h

theorem keepsOwners_killSaved (s : State) (slot : Nat) (c : Saved) : KeepsOwners s (killSaved s slot c) := by
  unfold killSaved
  dsimp only
  refine KeepsOwners.trans ?_ (keepsOwners_freeSaved _ _ _)
  refine KeepsOwners.trans (KeepsOwners.trans ?_ (keepsOwners_postAll _ _)) (keepsOwners_postOp _ _)
  have h : KeepsOwners s (freeLease (closePorts s slot c.gen 8) slot c.gen) := (keepsOwners_closePorts _ _ _ _).trans (keepsOwners_freeLease _ _ _)
  split
  · exact (h.trans (keepsOwners_postAll _ _)).trans (keepsOwners_post _ _ _)
  · exact h.trans (keepsOwners_postAll _ _)

theorem behind_killSaved (s : State) (slot : Nat) (c : Saved) : Behind s (killSaved s slot c) := by
  unfold killSaved
  dsimp only
  refine Behind.trans ?_ (behind_freeSaved _ _ _)
  refine Behind.trans (Behind.trans ?_ (behind_postAll _ _)) (behind_postOp _ _)
  have h : Behind s (freeLease (closePorts s slot c.gen 8) slot c.gen) := (behind_closePorts _ _ _ _).trans (behind_freeLease _ _ _)
  split
  · exact (h.trans (behind_postAll _ _)).trans (behind_post _ _ _)
  · exact h.trans (behind_postAll _ _)

/-! ## Slots are killed -/

/-- A slot that holds nothing: no unit and no saved context. -/
structure Slot.HoldsNone (t : Slot) : Prop where
  st : t.st = .idle
  saved : t.saved = []

/-- A slot's generations stand. -/
structure Slot.SameGens (t u : Slot) : Prop where
  gen : u.gen = t.gen
  genNext : u.genNext = t.genNext

/-- The unit a slot runs is ended, if it has one. -/
def endRunning (s : State) (slot : Nat) : State := if (s.slot slot).st = .idle then s else unitEnd s slot true false

theorem endRunning_slot (s : State) (slot : Nat) : ((endRunning s slot).slot slot).st = .idle ∧
    (s.slot slot).SameGens ((endRunning s slot).slot slot) ∧ ∀ j, j ≠ slot → (endRunning s slot).slot j = s.slot j := by
  unfold endRunning
  split
  · next h => exact ⟨h, ⟨rfl, rfl⟩, fun _ _ => rfl⟩
  · obtain ⟨t, hb, -, he⟩ := unitEnd_eq s slot true false
    rw [he, State.setSlot_slot_self]
    exact ⟨rfl, ⟨rfl, rfl⟩, fun j hj => (State.setSlot_slot_other _ _ _ _ hj).trans (hb.slot j)⟩

theorem keepsOwners_endRunning (s : State) (slot : Nat) : KeepsOwners s (endRunning s slot) := by
  unfold endRunning
  split
  · exact .refl s
  · exact keepsOwners_unitEnd _ _ _ _

/-- The saved contexts of a slot are killed. -/
def endSaved (s : State) (slot : Nat) (l : List Saved) : State := l.foldl (fun s c => killSaved s slot c) s

theorem killSlot_eq (s : State) (slot : Nat) : killSlot s slot =
    (endSaved (endRunning s slot) slot ((endRunning s slot).slot slot).saved).updSlot slot fun t => { t with saved := [] } := rfl

theorem keepsOwners_killSlot (s : State) (slot : Nat) : KeepsOwners s (killSlot s slot) := by
  rw [killSlot_eq]
  exact ((keepsOwners_endRunning _ _).trans (.foldl (fun _ _ => keepsOwners_killSaved _ _ _) _ _)).trans (.of_eq rfl rfl)

/-- A slot that is killed holds nothing, keeps its generations, and no other slot changes. -/
theorem killSlot_slot (s : State) (slot : Nat) : ((killSlot s slot).slot slot).HoldsNone ∧
    (s.slot slot).SameGens ((killSlot s slot).slot slot) ∧ ∀ j, j ≠ slot → (killSlot s slot).slot j = s.slot j := by
  obtain ⟨hidle, hgens, hother⟩ := endRunning_slot s slot
  have hb : Behind (endRunning s slot) (endSaved (endRunning s slot) slot ((endRunning s slot).slot slot).saved) :=
    .foldl (fun _ _ => behind_killSaved _ _ _) _ _
  rw [killSlot_eq, State.updSlot_slot_self, hb.slot]
  refine ⟨⟨hidle, rfl⟩, ⟨hgens.gen, hgens.genNext⟩, fun j hj => ?_⟩
  rw [State.updSlot_slot, if_neg hj, hb.slot, hother j hj]

/-- Slots are killed one after another. -/
def killSlots (s : State) (l : List Nat) : State := l.foldl killSlot s

theorem keepsOwners_killSlots (s : State) (l : List Nat) : KeepsOwners s (killSlots s l) := .foldl keepsOwners_killSlot l s

theorem killSlots_gens (l : List Nat) (s : State) (i : Nat) : (s.slot i).SameGens ((killSlots s l).slot i) := by
  induction l generalizing s with
  | nil => exact ⟨rfl, rfl⟩
  | cons k l ih =>
    obtain ⟨-, ⟨hg, hn⟩, hother⟩ := killSlot_slot s k
    obtain ⟨ihg, ihn⟩ := ih (killSlot s k)
    by_cases hk : i = k
    · subst hk
      exact ⟨ihg.trans hg, ihn.trans hn⟩
    · rw [hother i hk] at ihg ihn
      exact ⟨ihg, ihn⟩

theorem killSlots_holdsNone_of_holdsNone {s : State} {i : Nat} (l : List Nat) (h : (s.slot i).HoldsNone) : ((killSlots s l).slot i).HoldsNone := by
  induction l generalizing s with
  | nil => exact h
  | cons k l ih =>
    obtain ⟨hk, -, hother⟩ := killSlot_slot s k
    refine ih ?_
    by_cases hi : i = k
    · rwa [hi]
    · rwa [hother i hi]

theorem killSlots_holdsNone {i : Nat} {l : List Nat} (h : i ∈ l) (s : State) : ((killSlots s l).slot i).HoldsNone := by
  induction l generalizing s with
  | nil => cases h
  | cons k l ih =>
    rcases List.mem_cons.1 h with rfl | h
    · exact killSlots_holdsNone_of_holdsNone l (killSlot_slot s i).1
    · exact ih h _

/-! ## The generations rise (R416) -/

/-- A slot under its next generation. -/
def Slot.raised (t : Slot) : Slot := { t with gen := t.genNext, genNext := t.genNext + 1 }

/-- The slots of a state where those of a list of a cluster's are raised. -/
def raisedSlots (s : State) (c : Nat) (l : List Nat) : Sp Slot :=
  l.foldr (fun j (m : Sp Slot) => Sp.put m (c * 1024 + j) (s.slot (c * 1024 + j)).raised) s.slots

theorem raiseGens_eq (s : State) (c : Nat) : raiseGens s c = { s with slots := raisedSlots s c (List.range 1024) } := by
  unfold raiseGens raisedSlots Slot.raised
  rfl

theorem raisedSlots_slot (s : State) (c i : Nat) (l : List Nat) : State.slot { s with slots := raisedSlots s c l } i =
    if ∃ j ∈ l, i = c * 1024 + j then (s.slot i).raised else s.slot i := by
  show Sp.get {} (raisedSlots s c l) i = _
  unfold raisedSlots
  induction l with
  | nil => simp [State.slot]
  | cons j l ih =>
    rw [List.foldr_cons, Sp.get_put, ih]
    by_cases hj : i = c * 1024 + j
    · rw [if_pos hj, if_pos ⟨j, List.mem_cons_self, hj⟩, hj]
    · rw [if_neg hj]
      simp [hj]

theorem raiseGens_slot (s : State) (c i : Nat) : (raiseGens s c).slot i = if i / 1024 = c then (s.slot i).raised else s.slot i := by
  have hi : (∃ j ∈ List.range 1024, i = c * 1024 + j) ↔ i / 1024 = c := by
    refine ⟨?_, fun h => ⟨i % 1024, List.mem_range.2 (Nat.mod_lt _ (Nat.succ_pos _)), by omega⟩⟩
    rintro ⟨j, hj, rfl⟩
    have hj := List.mem_range.1 hj
    omega
  rw [raiseGens_eq, raisedSlots_slot, if_congr hi rfl rfl]

/-- Only a slot of the clusters is changed, and of that only the generations. -/
theorem raiseGens_holdsNone {s : State} {i : Nat} (h : (s.slot i).HoldsNone) (l : List Nat) : ((l.foldl raiseGens s).slot i).HoldsNone := by
  induction l generalizing s with
  | nil => exact h
  | cons c l ih =>
    rw [List.foldl_cons]
    refine ih (s := raiseGens s c) ?_
    rw [raiseGens_slot]
    split
    · exact ⟨h.st, h.saved⟩
    · exact h

theorem foldl_raiseGens_slot_other {i : Nat} {l : List Nat} (h : i / 1024 ∉ l) (s : State) : (l.foldl raiseGens s).slot i = s.slot i := by
  induction l generalizing s with
  | nil => rfl
  | cons c l ih =>
    obtain ⟨hc, hl⟩ := not_or.1 (mt List.mem_cons.2 h)
    rw [List.foldl_cons, ih hl, raiseGens_slot, if_neg hc]

theorem foldl_raiseGens_slot {i : Nat} {l : List Nat} (hn : l.Nodup) (h : i / 1024 ∈ l) (s : State) :
    (l.foldl raiseGens s).slot i = (s.slot i).raised := by
  induction l generalizing s with
  | nil => cases h
  | cons c l ih =>
    obtain ⟨hc, hl⟩ := List.nodup_cons.1 hn
    rw [List.foldl_cons]
    by_cases hi : i / 1024 = c
    · rw [foldl_raiseGens_slot_other (hi ▸ hc), raiseGens_slot, if_pos hi]
    · rw [ih hl ((List.mem_cons.1 h).resolve_left hi), raiseGens_slot, if_neg hi]

theorem foldl_raiseGens_eq (l : List Nat) (s : State) : l.foldl raiseGens s = { s with slots := (l.foldl raiseGens s).slots } := by
  induction l generalizing s with
  | nil => rfl
  | cons c l ih =>
    rw [List.foldl_cons, ih, raiseGens_eq]

/-! ## Queues stop (R415) -/

theorem dueOps_eq {α : Type} (f : α → Op) (l : List α) (s : State) : l.foldl (fun s a => s.dueOp (f a)) s = { s with due := s.due ++ l.map f } := by
  induction l generalizing s with
  | nil => simp
  | cons a l ih =>
    rw [List.foldl_cons, ih]
    simp [State.dueOp]

/-- Nothing but devices and what is due has changed. -/
def QueuesOnly (s t : State) : Prop := t = { s with devs := t.devs, due := t.due }

theorem QueuesOnly.trans {s t u : State} (a : QueuesOnly s t) (b : QueuesOnly t u) : QueuesOnly s u := by
  rw [QueuesOnly, b, a]

theorem queuesOnly_resetQueue (s : State) (q : Nat) : QueuesOnly s (resetQueue s q) := by
  dsimp only [resetQueue]
  rw [dueOps_eq]
  rfl

theorem queuesOnly_resetQueues (l : List Nat) (s : State) : QueuesOnly s (l.foldl resetQueue s) := by
  induction l generalizing s with
  | nil => rfl
  | cons q l ih => exact (queuesOnly_resetQueue s q).trans (ih _)

theorem resetQueue_st (s : State) (q k : Nat) : ((resetQueue s q).queue k).st = if k = q then 0 else (s.queue k).st := by
  dsimp only [resetQueue]
  rw [dueOps_eq]
  refine (congrArg Queue.st (State.setQueue_queue s q k _)).trans ?_
  split
  · rfl
  · rfl

theorem resetQueues_st_of_stopped {s : State} {k : Nat} (l : List Nat) (h : (s.queue k).st = 0) : ((l.foldl resetQueue s).queue k).st = 0 := by
  induction l generalizing s with
  | nil => exact h
  | cons q l ih =>
    refine ih ?_
    rw [resetQueue_st, h, ite_self]

theorem resetQueues_st {k : Nat} {l : List Nat} (h : k ∈ l) (s : State) : ((l.foldl resetQueue s).queue k).st = 0 := by
  induction l generalizing s with
  | nil => cases h
  | cons q l ih =>
    rcases List.mem_cons.1 h with rfl | h
    · exact resetQueues_st_of_stopped l ((resetQueue_st s k k).trans (if_pos rfl))
    · exact ih h _

end Sys2Proof.Machine
end

section
/-! SUPPORT. How a reset begins (R415, R416, R427), and partitions, budgets, power, links and routers as their statement says them. -/

namespace Sys2Proof.Machine
open Sys2Proof

/-! ## Queued records are discarded -/

theorem discardRecords_cluster (s : State) (part c : Nat) : (discardRecords s part).cluster c =
    if (s.cluster c).part = some part then { s.cluster c with ready := [] } else s.cluster c := by
  let f (_ : Nat) (x : Cluster) : Cluster := if x.part = some part then { x with ready := [] } else x
  have he : (discardRecords s part).clusters = s.clusters.map fun x => (x.1, f x.1 x.2) := List.map_congr_left fun x _ => by
    dsimp only [f]
    split
    · rfl
    · rfl
  show Sp.get {} (discardRecords s part).clusters c = f c (s.cluster c)
  rw [he]
  exact Sp.get_mapKey f s.clusters c (if_neg nofun)

theorem discardRecords_part (s : State) (part : Nat) : (discardRecords s part).part part = { s.part part with placing := [] } :=
  State.updPart_part_self _ _ _

theorem discardRecords_dev (s : State) (part d : Nat) : (discardRecords s part).dev d =
    if d = part / 32 then { s.dev d with wheel := (s.dev d).wheel.filter fun r => r.part != part } else s.dev d := by
  obtain ⟨u, hu, he⟩ : ∃ u : State, u.devs = s.devs ∧ (discardRecords s part).devs =
      (u.updDev (part / 32) fun d => { d with wheel := d.wheel.filter fun r => r.part != part }).devs := ⟨_, rfl, rfl⟩
  have hd (e : Nat) : u.dev e = s.dev e := by
    unfold State.dev
    rw [hu]
  have hx := State.updDev_dev u (part / 32) d fun d => { d with wheel := d.wheel.filter fun r => r.part != part }
  unfold State.dev at hx ⊢
  rw [he, hx]
  change (if _ then { u.dev _ with wheel := (u.dev _).wheel.filter fun r => r.part != part } else u.dev _) = _
  rw [hd, hd]
  split
  · next h =>
    rw [h]
    rfl
  · rfl

theorem discardRecords_queue (s : State) (part q : Nat) : (discardRecords s part).queue q = s.queue q := by
  unfold State.queue
  rw [discardRecords_dev]
  split
  · rfl
  · rfl

/-! ## Halts end (R427) -/

theorem withDbg_ready (x : Cluster) (w : W64) (now : Nat) : (x.withDbg w now).ready = x.ready := by
  unfold Cluster.withDbg
  dsimp only
  split
  · rfl
  · split
    · rfl
    · rfl

theorem endHalt_ready (x : Cluster) (cause now : Nat) : (endHalt x cause now).ready = x.ready := withDbg_ready _ _ _

/-- The halted clusters of a list run again, with cause 4. -/
def endHalts (s : State) (l : List Nat) : State := l.foldl (fun s c => s.updCluster c fun x => if dbgHalt x.dbgctl then endHalt x 4 s.now else x) s

theorem endHalts_eq (l : List Nat) (s : State) : endHalts s l = { s with clusters := (endHalts s l).clusters } := by
  induction l generalizing s with
  | nil => rfl
  | cons c l ih => exact (ih _).trans rfl

theorem endHalts_ready (l : List Nat) (s : State) (c : Nat) : ((endHalts s l).cluster c).ready = (s.cluster c).ready := by
  induction l generalizing s with
  | nil => rfl
  | cons k l ih =>
    refine (ih _).trans ?_
    rw [State.updCluster_cluster]
    split
    · next h =>
      rw [h]
      split
      · exact endHalt_ready _ _ _
      · rfl
    · rfl

/-! ## A reset begins -/

/-- The queues of a partition are stopped. -/
def queuesStopped (s : State) (part : Nat) : State := (s.partQueues part).foldl resetQueue s

/-- The slots of a partition are killed, and those of its clusters have their next generations. -/
def unitsEnded (s : State) (part : Nat) : State := (s.clustersOf part).foldl raiseGens (killSlots s (s.partSlots part))

/-- Records are discarded once queues are stopped and units ended. -/
def recordsDiscarded (s : State) (part : Nat) : State := discardRecords (unitsEnded (queuesStopped s part) part) part

theorem resetBegins_eq (s : State) (part cause : Nat) : ∃ l, resetBegins s part cause =
    ((endHalts (recordsDiscarded s part) ((recordsDiscarded s part).clustersOf part)).postAll l).updPart part fun q =>
      { q with resetting := true, resetCause := cause } := ⟨_, rfl⟩

theorem keepsOwners_unitsEnded (s : State) (part : Nat) : KeepsOwners s (unitsEnded s part) := by
  unfold unitsEnded
  rw [foldl_raiseGens_eq]
  exact (keepsOwners_killSlots s _).trans (.of_eq rfl rfl)

theorem unitsEnded_holdsNone {s : State} {part i : Nat} (h : i ∈ s.partSlots part) : ((unitsEnded s part).slot i).HoldsNone :=
  raiseGens_holdsNone (killSlots_holdsNone h s) _

theorem unitsEnded_gens {s : State} {part c j : Nat} (hn : (s.clustersOf part).Nodup) (hc : c ∈ s.clustersOf part) (hj : j < 1024) :
    ((unitsEnded s part).slot (c * 1024 + j)).gen = (s.slot (c * 1024 + j)).genNext ∧
      ((unitsEnded s part).slot (c * 1024 + j)).genNext = (s.slot (c * 1024 + j)).genNext + 1 := by
  have hi : (c * 1024 + j) / 1024 = c := by omega
  have hg := (killSlots_gens (s.partSlots part) s (c * 1024 + j)).genNext
  unfold unitsEnded
  rw [foldl_raiseGens_slot hn (hi.symm ▸ hc)]
  exact ⟨hg, congrArg (· + 1) hg⟩

/-- What a reset has stopped and discarded as it begins. -/
structure Stopped (s t : State) (part : Nat) : Prop where
  placing : (t.part part).placing = []
  ready : ∀ c, (s.cluster c).part = some part → (t.cluster c).ready = []
  gens : (s.clustersOf part).Nodup → ∀ c ∈ s.clustersOf part, ∀ j, j < 1024 →
    (t.slot (c * 1024 + j)).gen = (s.slot (c * 1024 + j)).genNext ∧ (t.slot (c * 1024 + j)).genNext = (s.slot (c * 1024 + j)).genNext + 1
  slots : ∀ i ∈ s.partSlots part, (t.slot i).HoldsNone
  queues : ∀ q ∈ s.partQueues part, (t.queue q).st = 0

theorem QueuesOnly.slot {s t : State} (h : QueuesOnly s t) (i : Nat) : t.slot i = s.slot i := by
  rw [h]
  rfl

theorem QueuesOnly.partSlots {s t : State} (h : QueuesOnly s t) (part : Nat) : t.partSlots part = s.partSlots part := by
  rw [h]
  rfl

theorem QueuesOnly.clustersOf {s t : State} (h : QueuesOnly s t) (part : Nat) : t.clustersOf part = s.clustersOf part := by
  rw [h]
  rfl

theorem QueuesOnly.cluster {s t : State} (h : QueuesOnly s t) (c : Nat) : t.cluster c = s.cluster c := by
  rw [h]
  rfl

theorem stopped_recordsDiscarded (s : State) (part : Nat) : Stopped s (recordsDiscarded s part) part := by
  have hq : QueuesOnly s (queuesStopped s part) := queuesOnly_resetQueues _ s
  have hk := keepsOwners_unitsEnded (queuesStopped s part) part
  have hslot (i : Nat) : (recordsDiscarded s part).slot i = (unitsEnded (queuesStopped s part) part).slot i := rfl
  refine ⟨?_, fun c hc => ?_, fun hn c hc j hj => ?_, fun i hi => ?_, fun q hm => ?_⟩
  · rw [recordsDiscarded, discardRecords_part]
  · rw [recordsDiscarded, discardRecords_cluster, hk.part, hq.cluster, if_pos hc]
  · rw [← hq.clustersOf] at hn hc
    rw [hslot, ← hq.slot]
    exact unitsEnded_gens hn hc hj
  · rw [← hq.partSlots] at hi
    rw [hslot]
    exact unitsEnded_holdsNone hi
  · have hu : (unitsEnded (queuesStopped s part) part).queue q = (queuesStopped s part).queue q := by
      unfold State.queue State.dev
      rw [hk.devs]
    rw [recordsDiscarded, discardRecords_queue, hu]
    exact resetQueues_st hm s

/-- The rest of a reset's beginning leaves what has been stopped and discarded. -/
theorem Stopped.endHalts {s t : State} {part : Nat} (h : Stopped s t part) (l : List Nat) : Stopped s (endHalts t l) part := by
  have hr := endHalts_ready l t
  have he := endHalts_eq l t
  generalize Machine.endHalts t l = u at hr he ⊢
  refine ⟨?_, fun c hc => (hr c).trans (h.ready c hc), ?_, ?_, ?_⟩
  · rw [he]
    exact h.placing
  · rw [he]
    exact h.gens
  · rw [he]
    exact h.slots
  · rw [he]
    exact h.queues

theorem stopped_resetBegins (s : State) (part cause : Nat) : Stopped s (resetBegins s part cause) part ∧
    ((resetBegins s part cause).part part).resetting = true ∧ ((resetBegins s part cause).part part).resetCause = cause := by
  obtain ⟨l, he⟩ := resetBegins_eq s part cause
  have h := (stopped_recordsDiscarded s part).endHalts ((recordsDiscarded s part).clustersOf part)
  generalize Machine.endHalts (recordsDiscarded s part) ((recordsDiscarded s part).clustersOf part) = u at he h
  have hpart : (resetBegins s part cause).part part = { u.part part with resetting := true, resetCause := cause } := by
    rw [he]
    exact State.updPart_part_self _ _ _
  rw [hpart]
  refine ⟨⟨?_, ?_, ?_, ?_, ?_⟩, rfl, rfl⟩
  · rw [hpart]
    exact h.placing
  · rw [he]
    exact h.ready
  · rw [he]
    exact h.gens
  · rw [he]
    exact h.slots
  · rw [he]
    exact h.queues

theorem resetStarts {s : State} {v : W64} {l : List W64} (hd : s.data = v :: l) (hl : (s.part s.cur).live = true) (hb : classesBad l.tail = false)
    (hv : 256 ≤ v.toNat) (hv' : v.toNat < 512) (hr : (s.part s.cur).resetting = false) : ∃ (t : State), exec .partitionReset s = .next t ∧
      Stopped s t s.cur ∧ (t.part s.cur).resetting = true ∧ (t.part s.cur).resetCause = v.toNat % 256 ∧ Answers t (resetAgain s v l 256) := by
  have he := exec_partitionReset_begins hd hl hb hv hv' hr
  have h := stopped_resetBegins s s.cur (v.toNat % 256)
  generalize resetBegins s s.cur (v.toNat % 256) = u at he h
  obtain ⟨⟨hplacing, hready, hgens, hslots, hqueues⟩, hreset, hcause⟩ := h
  exact ⟨_, he, ⟨hplacing, hready, hgens, hslots, hqueues⟩, hreset, hcause, List.getLast?_concat⟩

/-! ## The statement -/

/-- Settles O47, clause by clause: each operation of partition management and of the device has a theorem of its own. -/
theorem managementEvents : Obligations.ManagementEvents := by
  refine ⟨partitionsCreated, fun s => exec_partitionCreate_live, ?_, budgetPeriods, powerGovernor, governorsDue,
    flitRetries, linkPortsDown, routerFails, eccErrorResets, managementRegisters, fun s code idx v => exec_registerWrite_recovery⟩
  intro s v l hd p again
  refine ⟨exec_partitionReset_refused hd, fun hl hb hv hr => ?_, fun hl hb hv hr => ?_, fun hl hb hv hv' hr => ?_, fun hl hb hv hr hs => ?_,
    fun hl hb hv hr hs => ?_⟩
  · exact resetAsks hd hl hb hv hr
  · exact exec_partitionReset_joins hd hl hb hv hr
  · obtain ⟨t, ht, hstop, hreset, hcause, hnext⟩ := resetStarts hd hl hb hv hv' hr
    refine ⟨t, ht, hreset, hcause, hnext, hstop.placing, hstop.ready, hstop.gens, fun i hi => ?_, hstop.queues⟩
    obtain ⟨hst, hsaved⟩ := hstop.slots i hi
    exact ⟨hst, hsaved⟩
  · exact resetWaits hd hl hb hv hr hs
  · exact resetEnds hd hl hb hv hr hs

end Sys2Proof.Machine
end

section
/-! SUPPORT. The registers of a command queue (R98 to R100, R458), as their statement says them. -/

namespace Sys2Proof.Machine
open Sys2Proof

/-! ## What an update of a queue and an answer leave -/

@[simp] theorem State.answer_queue (s : State) (status : Nat) (data : List W64) (q : Nat) : (s.answer status data).queue q = s.queue q := rfl

theorem State.updQueue_queue (s : State) (q k : Nat) (f : Queue → Queue) :
    (s.updQueue q f).queue k = if k = q then f (s.queue q) else s.queue k := s.setQueue_queue q k _

@[simp] theorem State.updQueue_queue_self (s : State) (q : Nat) (f : Queue → Queue) : (s.updQueue q f).queue q = f (s.queue q) :=
  s.setQueue_queue_self q _

theorem State.updQueue_queue_other (s : State) {q k : Nat} (f : Queue → Queue) (h : k ≠ q) : (s.updQueue q f).queue k = s.queue k :=
  (s.updQueue_queue q k f).trans (if_neg h)

theorem State.updDev_queue (s : State) (d q : Nat) {f : Device → Device} (h : ∀ v, (f v).queues = v.queues) :
    (s.updDev d f).queue q = s.queue q := by
  unfold State.queue
  rw [State.updDev_dev]
  split
  · next hd => rw [h, hd]
  · rfl

theorem aside_updQueue_answer (s : State) (q : Nat) (f : Queue → Queue) (status : Nat) : Aside s ((s.updQueue q f).answer status) :=
  ⟨rfl, rfl, rfl, rfl, rfl, rfl⟩

theorem aside_updDev_answer (s : State) (d : Nat) (f : Device → Device) (status : Nat) : Aside s ((s.updDev d f).answer status) :=
  ⟨rfl, rfl, rfl, rfl, rfl, rfl⟩

/-! ## A write of QTAIL (R100, R404) -/

/-- A queue whose packets up to a new tail have been copied. -/
def Queue.copied (q : Queue) (v : BitVec 32) (l : List Packet) : Queue := { q with tail := v, packets := q.packets ++ l }

theorem Queue.copied_nothing {q : Queue} {v : BitVec 32} (h : v = q.tail) : q.copied v [] = q := by
  rw [h, Queue.copied, List.append_nil]

/-- A device that has answered BUSY once more. -/
def Device.countBusy (d : Device) : Device := { d with busy := d.busy + 1 }

section tail
variable {s : State} {part qid : Nat} {v : BitVec 32}

theorem writeTail_barred (h : reqBad (s.data.getD 2 0) = true ∨ queueAllowed s part qid = false) : writeTail s part qid v = s.answer 1 :=
  if_pos (h.imp id fun h => by rw [h]; rfl)

variable (hb : reqBad (s.data.getD 2 0) = false) (ha : queueAllowed s part qid = true)
include hb ha

theorem tail_not_barred : ¬(reqBad (s.data.getD 2 0) = true ∨ (!queueAllowed s part qid) = true) :=
  not_or.2 ⟨Bool.eq_false_iff.1 hb, by simp [ha]⟩

theorem writeTail_past (h : 2 ^ (s.queue qid).size < (v - (s.queue qid).head).toNat) :
    writeTail s part qid v = (s.updDev (qid / 64) Device.countBusy).answer 2 :=
  (if_neg (tail_not_barred hb ha)).trans (if_pos h)

theorem writeTail_backward (h : (v - (s.queue qid).head).toNat ≤ 2 ^ (s.queue qid).size)
    (hv : (v - (s.queue qid).head).toNat < ((s.queue qid).tail - (s.queue qid).head).toNat) : writeTail s part qid v = s.answer 1 :=
  (if_neg (tail_not_barred hb ha)).trans ((if_neg (Nat.not_lt.2 h)).trans (if_pos hv))

/-- A value that is neither past the ring nor behind the old one, with room in the buffer, copies the packets up to it. -/
theorem writeTail_copies {s2 : State} {l : List Packet} (h : (v - (s.queue qid).head).toNat ≤ 2 ^ (s.queue qid).size)
    (hv : ((s.queue qid).tail - (s.queue qid).head).toNat ≤ (v - (s.queue qid).head).toNat)
    (hr : bufferRoom s qid (v - (s.queue qid).tail).toNat = true) (hm : (s.queue qid).base.toNat % 64 = 0 ∨ v = (s.queue qid).tail)
    (hc : copyPackets s part (s.queue qid) { who := qid, data := s.data, ins := .qtailWrite } (s.queue qid).tail
      (v - (s.queue qid).tail).toNat = (s2, some l, false)) :
    writeTail s part qid v = (s2.updQueue qid fun q => q.copied v l).answer 0 := by
  refine (if_neg (tail_not_barred hb ha)).trans ((if_neg (Nat.not_lt.2 h)).trans ((if_neg (Nat.not_lt.2 hv)).trans ((if_neg ?_).trans
    ((if_neg ?_).trans ?_))))
  · rw [hr]
    exact Bool.false_ne_true
  · exact fun hn => hm.elim hn.1 hn.2
  · rw [hc]
    rfl

end tail

theorem exec_qtailWrite {s : State} {pw v : W64} {order : List W64} (hd : s.data = pw :: v :: order) :
    exec .qtailWrite s = .next (writeTail s pw.toNat s.cur (v.setWidth 32)) := by
  show execQtailWrite s = _
  rw [execQtailWrite, hd]
  rfl

theorem qtailWrites (s : State) (pw v : W64) (order : List W64) (hd : s.data = pw :: v :: order) (hb : reqBad (order.headD 0) = false)
    (ha : queueAllowed s pw.toNat s.cur = true) : let part := pw.toNat; let q := s.queue s.cur; let new : BitVec 32 := v.setWidth 32
    let same (s t : State) : Prop := ∀ q, t.queue q = s.queue q
    (∀ (s2 : State) (l : List Packet), (new - q.head).toNat ≤ 2 ^ q.size → (q.tail - q.head).toNat ≤ (new - q.head).toNat →
      bufferRoom s s.cur (new - q.tail).toNat = true → q.base.toNat % 64 = 0 →
      copyPackets s part q { who := s.cur, data := s.data, ins := .qtailWrite } q.tail (new - q.tail).toNat = (s2, some l, false) →
      ∃ (t : State), exec .qtailWrite s = .next t ∧ t.queue s.cur = { s2.queue s.cur with tail := new, packets := (s2.queue s.cur).packets ++ l } ∧
        Answered t s2.cur 0 [] ∧ Aside s2 t) ∧
    (2 ^ q.size < (new - q.head).toNat → ∃ (t : State), exec .qtailWrite s = .next t ∧ same s t ∧ Answered t s.cur 2 [] ∧ Aside s t ∧
      (t.dev (s.cur / 64)).busy = (s.dev (s.cur / 64)).busy + 1) ∧
    ((new - q.head).toNat ≤ 2 ^ q.size → (new - q.head).toNat < (q.tail - q.head).toNat → exec .qtailWrite s = .next (s.answer 1)) ∧
    (new = q.tail → (new - q.head).toNat ≤ 2 ^ q.size → bufferRoom s s.cur 0 = true → ∃ (t : State), exec .qtailWrite s = .next t ∧ same s t ∧
      Answered t s.cur 0 [] ∧ Aside s t) := by
  intro part q new same
  have hb' : reqBad (s.data.getD 2 0) = false := by
    rw [hd]
    cases order with
    | nil => exact hb
    | cons o l => exact hb
  have he := exec_qtailWrite hd
  refine ⟨fun s2 l h hv hr hm hc => ?_, fun h => ?_, fun h hv => ?_, fun hn h hr => ?_⟩
  · rw [writeTail_copies hb' ha h hv hr (.inl hm) hc] at he
    exact ⟨_, he, (State.answer_queue _ _ _ _).trans (State.updQueue_queue_self _ _ _), answered_answer _ _ _, aside_updQueue_answer _ _ _ _⟩
  · rw [writeTail_past hb' ha h] at he
    refine ⟨_, he, fun k => (State.answer_queue _ _ _ _).trans (State.updDev_queue _ _ _ fun _ => rfl), answered_answer _ _ _,
      aside_updDev_answer _ _ _ _, ?_⟩
    rw [State.answer_dev, State.updDev_dev_self]
    rfl
  · rw [he, writeTail_backward hb' ha h hv]
  · have hz : (new - q.tail).toNat = 0 := by simp [hn]
    have hc : copyPackets s part q { who := s.cur, data := s.data, ins := .qtailWrite } q.tail (new - q.tail).toNat = (s, some [], false) := by
      rw [hz, copyPackets]
    have hv : (q.tail - q.head).toNat ≤ (new - q.head).toNat := Nat.le_of_eq (by rw [hn])
    rw [writeTail_copies hb' ha h hv (hz.symm ▸ hr) (.inr hn) hc] at he
    refine ⟨_, he, fun k => ?_, answered_answer _ _ _, aside_updQueue_answer _ _ _ _⟩
    rw [State.answer_queue, State.updQueue_queue, Queue.copied_nothing hn]
    split
    · next hk => rw [hk]
    · rfl

/-! ## The other registers (R98, R99, R458) -/

theorem queueWrite_barred {s : State} (h : queueAllowed s (s.data.headD 0).toNat s.cur = false) (f : Queue → Queue) :
    queueWrite s f = s.answer 1 := by
  rw [List.headD_eq_getD] at h
  exact if_neg (Bool.eq_false_iff.1 h)

/-- A write of a register that its owner may make. -/
def Sets (s : State) (i : Instr) (r : Queue) : Prop :=
  ∃ (t : State), exec i s = .next t ∧ t.queue s.cur = r ∧ (∀ j, j ≠ s.cur → t.queue j = s.queue j) ∧ Answered t s.cur 0 [] ∧ Aside s t ∧
    t.parts = s.parts

theorem sets_queueWrite {s : State} (h : queueAllowed s (s.data.headD 0).toNat s.cur = true) {i : Instr} {f : Queue → Queue}
    (he : exec i s = .next (queueWrite s f)) : Sets s i (f (s.queue s.cur)) := by
  rw [List.headD_eq_getD] at h
  have hw : queueWrite s f = (s.updQueue s.cur f).answer 0 := if_pos h
  rw [hw] at he
  exact ⟨_, he, State.updQueue_queue_self _ _ _, fun j hj => State.updQueue_queue_other _ _ hj, answered_answer _ _ _, aside_updQueue_answer _ _ _ _,
    rfl⟩

theorem stopQueue_running {q : Queue} (h : q.st = 1) (hp : (q.packets.any fun p => p.started) = true) :
    stopQueue q = { q with stopping := true } := by
  simp [stopQueue, stopIfDone, h, hp]

theorem stopQueue_empty {q : Queue} (h : q.st = 1) (hp : (q.packets.any fun p => p.started) = false) :
    stopQueue q = { q with st := 0, stopping := false } := by
  simp [stopQueue, stopIfDone, h, hp]

theorem stopQueue_stopped {q : Queue} (h : q.st ≠ 1) : stopQueue q = { q with st := 0 } := if_neg h

theorem resumeQueue_running {q : Queue} (h : q.st = 1) : resumeQueue q = q := if_pos h

theorem resumeQueue_stopped {q : Queue} (h : q.st ≠ 1) : resumeQueue q = { q with st := 1, stopping := false } := if_neg h

theorem statusWrites (s : State) (h : queueAllowed s (s.data.headD 0).toNat s.cur = true) : let q := s.queue s.cur
    (q.st = 1 → (q.packets.any fun p => p.started) = true → Sets s .qstatusStop { q with stopping := true }) ∧
    (q.st = 1 → (q.packets.any fun p => p.started) = false → Sets s .qstatusStop { q with st := 0, stopping := false }) ∧
    (q.st ≠ 1 → Sets s .qstatusStop { q with st := 0 } ∧ Sets s .qstatusResume { q with st := 1, stopping := false }) ∧
    (q.st = 1 → Sets s .qstatusResume q) ∧ Sets s .cplerrClear { q with cplerr := false } := by
  intro q
  have hs : Sets s .qstatusStop (stopQueue q) := sets_queueWrite h rfl
  have hr : Sets s .qstatusResume (resumeQueue q) := sets_queueWrite h rfl
  refine ⟨fun h1 hp => ?_, fun h1 hp => ?_, fun h1 => ⟨?_, ?_⟩, fun h1 => ?_,
    sets_queueWrite (f := fun q => { q with cplerr := false }) h rfl⟩
  · rwa [stopQueue_running h1 hp] at hs
  · rwa [stopQueue_empty h1 hp] at hs
  · rwa [stopQueue_stopped h1] at hs
  · rwa [resumeQueue_stopped h1] at hr
  · rwa [resumeQueue_running h1] at hr

/-! ## The assignment of a queue (R458) -/

theorem execQownWrite_refused {s : State} (h : (s.dev (s.cur / 64)).boot.recovery = true ∨ queueIdle (s.queue s.cur) = false) :
    exec .qownWrite s = .next (s.answer 1) :=
  congrArg Host.Outcome.next (if_pos (h.imp id fun h => by rw [h]; rfl))

theorem execQownWrite_assigns {s : State} {v : W64} (hd : s.data = [v]) (hr : (s.dev (s.cur / 64)).boot.recovery = false)
    (hi : queueIdle (s.queue s.cur) = true) : exec .qownWrite s =
      .next ((assignQueue s s.cur (if v.getLsbD 5 then some (s.cur / 64 * 32 + bits v 4 0) else none)).answer 0) := by
  refine congrArg Host.Outcome.next ((if_neg ?_).trans (by rw [hd]; rfl))
  rw [hr, hi]
  decide

theorem queueIdle_iff (q : Queue) : queueIdle q = true ↔ q.st = 0 ∧ (q.packets.any fun p => p.started) = false := by
  simp [queueIdle]

theorem ownerWrites (s : State) (v : W64) (hd : s.data = [v]) : let q := s.queue s.cur
    (q.st = 0 → (s.dev (s.cur / 64)).boot.recovery = false → (q.packets.any fun p => p.started) = false → ∃ (t : State), exec .qownWrite s = .next t ∧
      t.queue s.cur = { own := if v.getLsbD 5 then some (s.cur / 64 * 32 + bits v 4 0) else none } ∧ Answered t s.cur 0 [] ∧ Aside s t) ∧
    (q.st ≠ 0 ∨ (s.dev (s.cur / 64)).boot.recovery = true ∨ (q.packets.any fun p => p.started) = true → exec .qownWrite s = .next (s.answer 1)) := by
  intro q
  refine ⟨fun h0 hr hp => ?_, fun h => execQownWrite_refused ?_⟩
  · exact ⟨_, execQownWrite_assigns hd hr ((queueIdle_iff q).2 ⟨h0, hp⟩), State.setQueue_queue_self _ _ _, answered_answer _ _ _,
      ⟨rfl, rfl, rfl, rfl, rfl, rfl⟩⟩
  · rw [← Bool.not_eq_true, queueIdle_iff]
    rcases h with h | h | h
    · exact .inr fun hi => h hi.1
    · exact .inl h
    · exact .inr fun hi => Bool.false_ne_true (hi.2.symm.trans h)

/-! ## The statement -/

/-- Settles O44, register by register. -/
theorem queueRegisters : Obligations.QueueRegisters := by
  refine ⟨qtailWrites, fun s pw v x l hd hx => ?_, fun s h => ⟨?_, ?_, ?_, ?_⟩, statusWrites, ownerWrites⟩
  · rw [exec_qtailWrite hd, writeTail_barred (.inl (by rw [hd]; exact hx))]
  · refine congrArg Host.Outcome.next (writeTail_barred (.inr ?_))
    rwa [List.headD_eq_getD] at h
  · exact congrArg Host.Outcome.next (queueWrite_barred h _)
  · exact congrArg Host.Outcome.next (queueWrite_barred h _)
  · exact congrArg Host.Outcome.next (queueWrite_barred h _)

end Sys2Proof.Machine
end

section
/-! SUPPORT. What a partition's host does (R103, R404 to R406, R417): signals, the registers of its window, second-tier memory, messages. -/

namespace Sys2Proof.Machine
open Sys2Proof

/-! ## Signals (R103) -/

theorem abortQueue_eq (s : State) (qid : Nat) (p : Packet) : abortQueue s qid p =
    let q := s.queue qid
    { s.setQueue qid { q with st := 3, stopping := false, rej := p.corr, head := q.tail,
                              packets := q.packets.map fun r => { r with started := true } } with
      due := s.due ++ (p :: q.packets.filter fun r => !r.started).map fun r => completionOp (qid * 2 ^ 32 + r.idx.toNat) 3 } :=
  dueOps_eq _ _ _

theorem queuesOnly_evalWait (s : State) (qid : Nat) (p : Packet) : QueuesOnly s (evalWait s qid p) := by
  unfold evalWait
  dsimp only
  split
  · rfl
  split
  · rw [abortQueue_eq]
    rfl
  split
  · rfl
  · rfl

theorem QueuesOnly.foldl {α : Type} {f : State → α → State} (h : ∀ s a, QueuesOnly s (f s a)) (l : List α) (s : State) :
    QueuesOnly s (l.foldl f s) := by
  induction l generalizing s with
  | nil => rfl
  | cons a l ih => exact (h s a).trans (ih _)

/-- A change of signals evaluates WAITs, which change queues and what is due. -/
theorem queuesOnly_signalsChanged (s : State) (part : Nat) : QueuesOnly s (signalsChanged s part) := by
  refine .foldl (fun s q => ?_) _ _
  split
  · exact queuesOnly_evalWait _ _ _
  · rfl

/-- A partition whose signal `i` holds a value. -/
def Part.withSignal (q : Part) (i : Nat) (v : W64) : Part := { q with signals := Sp.set 0 q.signals i v }

theorem Part.withSignal_signal (q : Part) (i j : Nat) (v : W64) : (q.withSignal i v).signal j = if j = i then v else q.signal j :=
  Sp.get_set _ _ _ _ _

theorem queuesOnly_setSignal (s : State) (part i : Nat) (v : W64) : QueuesOnly (s.updPart part fun q => q.withSignal i v) (setSignal s part i v) :=
  queuesOnly_signalsChanged _ _

theorem QueuesOnly.part {s t : State} (h : QueuesOnly s t) (p : Nat) : t.part p = s.part p := by
  rw [h]
  rfl

theorem setSignal_part (s : State) (part i : Nat) (v : W64) : (setSignal s part i v).part part = (s.part part).withSignal i v :=
  ((queuesOnly_setSignal s part i v).part part).trans (State.updPart_part_self _ _ _)

theorem setSignal_cur (s : State) (part i : Nat) (v : W64) : (setSignal s part i v).cur = s.cur := by
  rw [queuesOnly_setSignal s part i v]
  rfl

theorem aside_setSignal (s : State) (part i : Nat) (v : W64) : Aside s (setSignal s part i v) := by
  rw [queuesOnly_setSignal s part i v]
  exact ⟨rfl, rfl, rfl, rfl, rfl, rfl⟩

/-- A partition's endpoint answers its host. -/
structure IsOpen (s : State) : Prop where
  live : (s.part s.cur).live = true
  steady : (s.part s.cur).resetting = false

theorem hostSignalWrites (s : State) (i v : W64) (hd : s.data = [i, v]) (ho : IsOpen s) :
    (i.toNat < 1024 → ∃ (t : State), exec .hostSignalWrite s = .next t ∧ (t.part s.cur).signal i.toNat = v ∧ Answered t s.cur 0 [] ∧ Aside s t ∧
      (∀ j, j ≠ i.toNat → (t.part s.cur).signal j = (s.part s.cur).signal j)) ∧
    (1024 ≤ i.toNat → exec .hostSignalWrite s = .next (s.answer 1)) := by
  have he : exec .hostSignalWrite s = .next (if !(s.part s.cur).live ∨ (s.part s.cur).resetting ∨ 1024 ≤ i.toNat then s.answer 1
      else (setSignal s s.cur i.toNat v).answer 0) := by
    show execHostSignalWrite s = _
    rw [execHostSignalWrite, hd]
    simp only [List.getD_cons_zero, List.getD_cons_succ]
  refine ⟨fun hi => ?_, fun hi => ?_⟩
  · rw [if_neg (by rw [ho.live, ho.steady]; simpa using hi)] at he
    refine ⟨_, he, ?_, ?_, aside_setSignal s _ _ _, fun j hj => ?_⟩
    · rw [State.answer_part, setSignal_part, Part.withSignal_signal, if_pos rfl]
    · have ha := answered_answer (setSignal s s.cur i.toNat v) 0 []
      rwa [setSignal_cur] at ha
    · rw [State.answer_part, setSignal_part, Part.withSignal_signal, if_neg hj]
  · rw [he, if_pos (.inr (.inr hi))]

/-! ## The registers of the window (R98, R405, R417) -/

theorem exec_registerWrite_window {s : State} {off v : W64} {rest : List W64} (hd : s.data = 0 :: off :: v :: rest) :
    exec .registerWrite s = .next (windowWrite s s.cur off.toNat v) := by
  show execRegisterWrite s = _
  rw [execRegisterWrite, hd]
  rfl

theorem windowWrite_closed {s : State} (h : (s.part s.cur).live = false ∨ (s.part s.cur).resetting = true) (off : Nat) (v : W64) :
    windowWrite s s.cur off v = s.answer 1 :=
  if_pos (h.imp (fun h => by rw [h]; rfl) .inl)

theorem hostSignalWrite_closed {s : State} (h : (s.part s.cur).live = false ∨ (s.part s.cur).resetting = true) :
    exec .hostSignalWrite s = .next (s.answer 1) :=
  congrArg Host.Outcome.next (if_pos (h.imp (fun h => by rw [h]; rfl) .inl))

theorem exec_hostRmaRead_register {s : State} {off x v : W64} (hd : s.data = [off, x]) (hn : reqLen x = 8) (hb : reqBad x = false)
    (ho : off.toNat < windowMemory) (hv : windowRead s s.cur off.toNat = some v) : exec .hostRmaRead s = .next (s.answer 0 [v]) := by
  show execHostRmaRead s = _
  rw [execHostRmaRead, hostRmaRead, hd]
  simp only [List.getD_cons_zero, List.getD_cons_succ, hb, hn, hv, if_pos ho]
  rfl

/-- A host's write of a register sets its queue. -/
def WindowSets (s : State) (qid : Nat) (r : Queue) : Prop :=
  (∀ (t : State), exec .registerWrite s = .next t → t.queue qid = r ∧ Answered t s.cur 0 [] ∧ Aside s t) ∧ ∃ (t : State), exec .registerWrite s = .next t

theorem plainWrite_running_base {q : Queue} (h : q.st ≠ 0) (v : W64) : plainWrite q 0 v = none := if_neg h
theorem plainWrite_running_size {q : Queue} (h : q.st ≠ 0) (v : W64) : plainWrite q 8 v = none := if_pos h
theorem plainWrite_running_cpl {q : Queue} (h : q.st ≠ 0) (v : W64) : plainWrite q 16 v = none := if_neg h

/-- The queue registers a host reads, in the order of their offsets. -/
theorem queueReg_getD (q : Queue) {i : Nat} (hi : i < 7) : queueReg q (8 * i) = some ([q.base, BitVec.ofNat 64 q.size, q.cpl, q.tail.setWidth 64,
    q.head.setWidth 64, BitVec.ofNat 64 (q.st + if q.cplerr then 256 else 0), q.rej.setWidth 64].getD i 0) := by
  interval_cases i <;> rfl

section window
variable {s : State} (ho : IsOpen s)
include ho

theorem windowRead_queue {k i : Nat} (hk : k < 64) (hi : i < 7) (ha : queueAllowed s s.cur (s.cur / 32 * 64 + k) = true) :
    windowRead s s.cur (64 * k + 8 * i) = queueReg (s.queue (s.cur / 32 * 64 + k)) (8 * i) := by
  have h8 : (64 * k + 8 * i) % 8 = 0 := by omega
  have hd : (64 * k + 8 * i) / 64 = k := by omega
  have hm : (64 * k + 8 * i) % 64 = 8 * i := by omega
  unfold windowRead
  dsimp only
  rw [if_neg (by simp [ho.live, h8]), if_neg (by omega), if_neg (by simp [ho.steady]), if_pos (by omega), hd, hm, if_pos ha]

theorem windowRead_signal {j : Nat} (hj : j < 1024) : windowRead s s.cur (0x2000 + 8 * j) = some ((s.part s.cur).signal j) := by
  have h8 : (0x2000 + 8 * j) % 8 = 0 := by omega
  have hd : (0x2000 + 8 * j - 0x2000) / 8 = j := by omega
  unfold windowRead
  dsimp only
  rw [if_neg (by simp [ho.live, h8]), if_neg (by omega), if_neg (by simp [ho.steady]), if_neg (by omega), if_pos ⟨by omega, by omega⟩, hd]

theorem windowRead_pstate : windowRead s s.cur 0x1000 =
    some (BitVec.ofNat 64 ((s.part s.cur).resets.toNat * 2 ^ 16 + (s.part s.cur).resetCause % 256 * 2 ^ 8)) := by
  unfold windowRead
  dsimp only
  rw [if_neg (by simp [ho.live]), if_pos rfl, Part.pstate, ho.steady]
  simp only [Bool.false_eq_true, if_false, Nat.add_zero]

theorem windowReads (off x : W64) (hd : s.data = [off, x]) (hn : reqLen x = 8) (hb : reqBad x = false) : let q := s.part s.cur
    (∀ k i, k < 64 → i < 7 → off.toNat = 64 * k + 8 * i → let qid := s.cur / 32 * 64 + k; let x := s.queue qid; queueAllowed s s.cur qid = true →
      exec .hostRmaRead s = .next (s.answer 0 [[x.base, BitVec.ofNat 64 x.size, x.cpl, x.tail.setWidth 64, x.head.setWidth 64,
        BitVec.ofNat 64 (x.st + if x.cplerr then 256 else 0), x.rej.setWidth 64].getD i 0])) ∧
    (∀ j, j < 1024 → off.toNat = 0x2000 + 8 * j → exec .hostRmaRead s = .next (s.answer 0 [q.signal j])) ∧
    (off.toNat = 0x1000 → exec .hostRmaRead s = .next (s.answer 0 [BitVec.ofNat 64 (q.resets.toNat * 2 ^ 16 + q.resetCause % 256 * 2 ^ 8)])) := by
  refine ⟨fun k i hk hi h ha => ?_, fun j hj h => ?_, fun h => ?_⟩
  · refine exec_hostRmaRead_register hd hn hb (by rw [h, windowMemory]; omega) ?_
    rw [h, windowRead_queue ho hk hi ha, queueReg_getD _ hi]
  · refine exec_hostRmaRead_register hd hn hb (by rw [h, windowMemory]; omega) ?_
    rw [h, windowRead_signal ho hj]
  · refine exec_hostRmaRead_register hd hn hb (by rw [h, windowMemory]; omega) ?_
    rw [h, windowRead_pstate ho]

/-! ## Writes of queue registers -/

section queue
variable {k r : Nat} {v : W64} (hk : k < 64) (ha : queueAllowed s s.cur (s.cur / 32 * 64 + k) = true)
  (hr : r = 0 ∨ r = 8 ∨ r = 16 ∨ r = 32 ∨ r = 48)
include hk ha hr

/-- A write of a register that no other rule governs. -/
theorem windowWrite_plain : windowWrite s s.cur (64 * k + r) v =
    ((plainWrite (s.queue (s.cur / 32 * 64 + k)) r v).elim (s.answer 1) fun q => (s.setQueue (s.cur / 32 * 64 + k) q).answer 0) := by
  have h8 : (64 * k + r) % 8 = 0 := by omega
  have hd : (64 * k + r) / 64 = k := by omega
  have hm : (64 * k + r) % 64 = r := by omega
  unfold windowWrite
  dsimp only
  rw [if_neg (by simp [ho.live, ho.steady, h8]), if_neg (by omega), if_neg (by omega), hd, if_neg (by rw [ha]; simp; omega), hm,
    if_neg (by omega), if_neg (by omega)]
  cases plainWrite (s.queue (s.cur / 32 * 64 + k)) r v <;> rfl

omit hr in
theorem windowSets {q : Queue} {off : W64} {rest : List W64} (hd : s.data = 0 :: off :: v :: rest) (ho' : off.toNat = 64 * k + r)
    (hr : r = 0 ∨ r = 8 ∨ r = 16 ∨ r = 32 ∨ r = 48) (hq : plainWrite (s.queue (s.cur / 32 * 64 + k)) r v = some q) :
    WindowSets s (s.cur / 32 * 64 + k) q := by
  have he := exec_registerWrite_window hd
  rw [ho', windowWrite_plain ho hk ha hr, hq] at he
  have ht (t : State) (h : exec .registerWrite s = .next t) : t = (s.setQueue (s.cur / 32 * 64 + k) q).answer 0 :=
    Host.Outcome.next.inj (h.symm.trans he)
  refine ⟨fun t h => ?_, _, he⟩
  rw [ht t h]
  exact ⟨State.setQueue_queue_self _ _ _, answered_answer _ _ _, rfl, rfl, rfl, rfl, rfl, rfl⟩

end queue

theorem windowWrites (off v : W64) (k : Nat) (hk : k < 64) : let qid := s.cur / 32 * 64 + k; let x := s.queue qid
    queueAllowed s s.cur qid = true → s.data = [0, off, v] →
    (x.st = 0 → (off.toNat = 64 * k → WindowSets s qid { x with base := v }) ∧ (off.toNat = 64 * k + 16 → WindowSets s qid { x with cpl := v }) ∧
      (off.toNat = 64 * k + 8 → WindowSets s qid (if 6 ≤ bits v 4 0 ∧ bits v 4 0 ≤ 16 then { x with size := bits v 4 0 } else x))) ∧
    (x.st ≠ 0 → off.toNat = 64 * k ∨ off.toNat = 64 * k + 8 ∨ off.toNat = 64 * k + 16 → exec .registerWrite s = .next (s.answer 1)) ∧
    (off.toNat = 64 * k + 32 ∨ off.toNat = 64 * k + 48 → WindowSets s qid x) := by
  intro qid x ha hd
  refine ⟨fun h0 => ⟨fun hf => ?_, fun hf => ?_, fun hf => ?_⟩, fun h0 hf => ?_, fun hf => ?_⟩
  · exact windowSets ho hk ha hd hf (.inl rfl) (if_pos h0)
  · exact windowSets ho hk ha hd hf (.inr (.inr (.inl rfl))) (if_pos h0)
  · refine windowSets ho hk ha hd hf (.inr (.inl rfl)) ((if_neg (not_not.2 h0)).trans ?_)
    split <;> rfl
  · rw [exec_registerWrite_window hd]
    refine congrArg Host.Outcome.next ?_
    rcases hf with hf | hf | hf
    · rw [hf, ← Nat.add_zero (64 * k), windowWrite_plain ho hk ha (.inl rfl), plainWrite_running_base h0]
      rfl
    · rw [hf, windowWrite_plain ho hk ha (.inr (.inl rfl)), plainWrite_running_size h0]
      rfl
    · rw [hf, windowWrite_plain ho hk ha (.inr (.inr (.inl rfl))), plainWrite_running_cpl h0]
      rfl
  · rcases hf with hf | hf
    · exact windowSets ho hk ha hd hf (.inr (.inr (.inr (.inl rfl)))) rfl
    · exact windowSets ho hk ha hd hf (.inr (.inr (.inr (.inr rfl)))) rfl

end window

/-! ## Second-tier memory (R405, R406) -/

theorem tier_not_register (va : Nat) : ¬2 ^ 56 + va < windowMemory := by
  rw [windowMemory]
  omega

theorem tier_offset (va : Nat) : 2 ^ 56 + va - windowMemory = va := by
  rw [windowMemory]
  omega

theorem tierAddr_of_lt (part : Nat) {va : Nat} (h : va < 2 ^ 46) : tierAddr part va = BitVec.ofNat 64 (2 ^ 56 + part / 32 * 2 ^ 46 + va) := by
  rw [tierAddr, Nat.mod_eq_of_lt h]

/-- A range of at most eight bytes of the window's memory. -/
structure TierRange (va n : Nat) (x : W64) : Prop where
  pos : 0 < n
  short : n ≤ 8
  inside : va + n ≤ 2 ^ 46
  len : reqLen x = n
  plain : reqBad x = false

section tier
variable {s : State} {va n : Nat} {x : W64} (hr : TierRange va n x)
include hr

theorem TierRange.toNat : (BitVec.ofNat 64 (2 ^ 56 + va)).toNat = 2 ^ 56 + va := by
  have := hr.inside
  have := hr.pos
  exact (BitVec.toNat_ofNat _ _).trans (Nat.mod_eq_of_lt (by omega))

theorem TierRange.tierAddr (part : Nat) : tierAddr part va = BitVec.ofNat 64 (2 ^ 56 + part / 32 * 2 ^ 46 + va) :=
  tierAddr_of_lt part (by have := hr.inside; have := hr.pos; omega)

theorem TierRange.pages : n / 65536 + 2 = 2 := by
  have := hr.short
  omega

variable (ho : IsOpen s)
include ho

/-- Nothing bars the access of a range that may be reached. -/
theorem TierRange.reachable {wr : Bool} (hk : rangeOk s s.cur va wr 2 n = true) :
    ¬((!(s.part s.cur).live) = true ∨ (s.part s.cur).resetting = true ∨ n = 0 ∨ 2 ^ 46 < va + n ∨
      (s.kept.isEmpty = true ∧ (!rangeOk s s.cur va wr (n / 65536 + 2) n) = true)) := by
  rw [hr.pages, hk, ho.live, ho.steady]
  have := hr.inside
  have := hr.pos
  simp
  omega

theorem exec_hostRmaRead_tier {s2 : State} {v : Nat} (hd : s.data = [BitVec.ofNat 64 (2 ^ 56 + va), x]) (hk : rangeOk s s.cur va false 2 n = true)
    (hw : hwBytes s s.cur (BitVec.ofNat 64 (2 ^ 56 + s.cur / 32 * 2 ^ 46 + va)) n none { who := s.cur, data := s.data, ins := .hostRmaRead } = .ok s2 v) :
    exec .hostRmaRead s = .next (s2.answer 0 [BitVec.ofNat 64 v]) := by
  have hm : Nat.min n 8 = n := Nat.min_eq_left hr.short
  have hb : hostReadBytes s s.cur va { who := s.cur, data := s.data, ins := .hostRmaRead } (n / 8 + 1) n = (s2, some [BitVec.ofNat 64 v], false) := by
    rw [hostReadBytes, hm, hr.tierAddr, hw]
    exact if_pos (Nat.le_refl n)
  show Host.Outcome.next (hostRmaRead s) = _
  refine congrArg Host.Outcome.next ?_
  unfold hostRmaRead
  rw [hd] at hb ⊢
  simp only [List.getD_cons_zero, List.getD_cons_succ, hr.plain, hr.len, hr.toNat, Bool.false_eq_true, if_false]
  rw [if_neg (tier_not_register va), tier_offset, if_neg (hr.reachable ho hk), hb]

/-- What a write to memory does, past the checks of its request. -/
theorem exec_hostRmaWrite_tier {w : W64} {s2 : State} {r : Nat} (hd : s.data = [BitVec.ofNat 64 (2 ^ 56 + va), x, w])
    (hk : rangeOk s s.cur va true 2 n = true)
    (hw : hwBytes s s.cur (BitVec.ofNat 64 (2 ^ 56 + s.cur / 32 * 2 ^ 46 + va)) n (some w.toNat)
      { who := s.cur, data := s.data, ins := .hostRmaWrite } true = .ok s2 r) : exec .hostRmaWrite s = .next (s2.answer 0) := by
  have hm : Nat.min n 8 = n := Nat.min_eq_left hr.short
  show Host.Outcome.next (hostRmaWrite s) = _
  refine congrArg Host.Outcome.next ?_
  unfold hostRmaWrite
  rw [hd] at hw ⊢
  simp only [List.getD_cons_zero, List.getD_cons_succ, List.drop_succ_cons, List.drop_zero, List.headD_cons, hr.plain, hr.len, hr.toNat,
    Bool.false_eq_true, if_false]
  rw [if_neg (tier_not_register va), tier_offset, if_neg (hr.reachable ho hk), hm, hr.tierAddr, hw]
  exact if_pos (Nat.le_refl n)

omit ho in
theorem exec_hostRmaWrite_refused {w : W64} (hd : s.data = [BitVec.ofNat 64 (2 ^ 56 + va), x, w]) (hkept : s.kept = [])
    (hk : rangeOk s s.cur va true 2 n = false) : exec .hostRmaWrite s = .next (s.answer 1) := by
  show Host.Outcome.next (hostRmaWrite s) = _
  refine congrArg Host.Outcome.next ?_
  unfold hostRmaWrite
  rw [hd]
  simp only [List.getD_cons_zero, List.getD_cons_succ, hr.plain, hr.len, hr.toNat, Bool.false_eq_true, if_false]
  rw [if_neg (tier_not_register va), tier_offset, hr.pages, hk, hkept]
  exact if_pos (.inr (.inr (.inr (.inr ⟨rfl, rfl⟩))))

end tier

/-- A request that uses a part that is not supported. -/
theorem exec_hostRma_unsupported {s : State} {off x : W64} {w : List W64} (hd : s.data = off :: x :: w) (hb : reqBad x = true) :
    exec .hostRmaRead s = .next (s.answer 1) ∧ exec .hostRmaWrite s = .next (s.answer 1) := by
  have hx : reqBad (s.data.getD 1 0) = true := by
    rw [hd]
    exact hb
  exact ⟨congrArg Host.Outcome.next (if_pos hx), congrArg Host.Outcome.next (if_pos hx)⟩

/-! ## Messages (R404, R405) -/

/-- The message a host sends: a unit of level 0 (log 88) at a place, from the Sorting Office. -/
def hostMsg (s : State) (place pc a0 a1 : W64) (core cls : Nat) : Msg :=
  { src := officeNi s.cur, dst := core, cls := cls, gen := 0, part := s.cur, isTask := false, seq := 64 * s.ticket, after := [], lines := [], tries := 0,
    place := place, slot := 0, sgen := 0, tag := 0, idx := 0,
    body := { pc := pc.setWidth 15, noSteal := false, level := 0, home := s.cur, pri := 0, cls := cls, corr := 0, pool := 0, args := [a0, a1],
              source := 5, phase := (s.part s.cur).tag, key := 0, header := 0, enq := 0 } }

theorem exec_hostSend {s : State} {place pc a0 a1 : W64} {order : List W64} (hd : s.data = place :: pc :: a0 :: a1 :: order) :
    exec .hostSend s = .next (
      if reqBad (order.headD 0) ∨ !(s.part s.cur).live ∨ (s.part s.cur).resetting ∨ bits place 35 0 ≠ 0 ∨ 0x4000 ≤ pc.toNat then s.answer 1
      else (s.placeOf s.cur place).elim (s.answer 1) fun c => (s.tick.send (officeNi s.cur) s.cur (s.part s.cur).tag
        { ins := .messageArrival (hostMsg s place pc a0 a1 c.1 c.2) }).answer 0) := by
  show Host.Outcome.next (hostSend s) = _
  refine congrArg Host.Outcome.next ?_
  unfold hostSend
  rw [hd]
  dsimp only
  split
  · rfl
  · cases s.placeOf s.cur place <;> rfl

theorem aside_sendAs (s : State) (ni part : Nat) (t : Option Bool) (o : Op) : Aside s (s.sendAs ni part t o) := by
  rw [sendAs_eq]
  exact ⟨rfl, rfl, rfl, rfl, rfl, rfl⟩

theorem sendAs_cur (s : State) (ni part : Nat) (t : Option Bool) (o : Op) : (s.sendAs ni part t o).cur = s.cur := by
  rw [sendAs_eq]

/-- What is sent is the last thing put in flight. -/
theorem sendAs_sends (s : State) (ni part : Nat) (t : Option Bool) {o : Op} (ho : o.inj = none) : Sends s (s.sendAs ni part t o) part o := by
  obtain ⟨h, hh, ha⟩ := sendAs_agenda s ni part t ho
  exact ⟨h, hh, by rw [Answers, ha]; exact List.getLast?_concat⟩

theorem hostSends {s : State} {place pc a0 a1 : W64} {order : List W64} {core cls : Nat} (hd : s.data = place :: pc :: a0 :: a1 :: order)
    (hb : reqBad (order.headD 0) = false) (ho : IsOpen s) (hp : bits place 35 0 = 0) (hpc : pc.toNat < 0x4000)
    (hc : s.placeOf s.cur place = some (core, cls)) : ∃ (t : State) (m : Msg), exec .hostSend s = .next t ∧
      Sends s t s.cur { ins := .messageArrival m } ∧ m.dst = core ∧ m.cls = cls ∧ m.part = s.cur ∧ m.isTask = false ∧ m.body.pc = pc.setWidth 15 ∧
      m.body.args = [a0, a1] ∧ m.body.level = 0 ∧ Answered t s.cur 0 [] ∧ Aside s t := by
  have he := exec_hostSend hd
  rw [if_neg (by rw [hb, ho.live, ho.steady, hp]; simpa using hpc), hc] at he
  have hs := aside_sendAs s.tick (officeNi s.cur) s.cur (some (s.part s.cur).tag) { ins := .messageArrival (hostMsg s place pc a0 a1 core cls) }
  refine ⟨_, _, he, sendAs_sends s.tick _ _ _ rfl, rfl, rfl, rfl, rfl, rfl, rfl, rfl, ?_, hs⟩
  have ha := answered_answer (s.tick.send (officeNi s.cur) s.cur (s.part s.cur).tag { ins := .messageArrival (hostMsg s place pc a0 a1 core cls) }) 0 []
  rwa [State.send, sendAs_cur] at ha

/-! ## The statement -/

/-- Settles O46: each operation of a partition's host has a theorem of its own. -/
theorem hostEvents : Obligations.HostEvents := by
  unfold Obligations.HostEvents
  intro open'
  have hopen {s : State} (h : open' s) : IsOpen s := ⟨h.1, h.2⟩
  refine ⟨fun s i v hd ho => hostSignalWrites s i v hd (hopen ho), fun s h => ⟨hostSignalWrite_closed h, fun off v rest hd => ?_⟩,
    fun s off x ho hd hn hb => windowReads (hopen ho) off x hd hn hb, fun s off v k ho hk => ?_, fun s va n x ho hp h8 hm hn hb => ?_,
    fun s off x w => exec_hostRma_unsupported, fun s place pc a0 a1 x w hd hb => ?_,
    fun s place pc a0 a1 order core cls hd hb ho hp hpc hc => hostSends hd hb (hopen ho) hp hpc hc⟩
  · rw [exec_registerWrite_window hd, windowWrite_closed h]
  · exact windowWrites (hopen ho) off v k hk
  · have hr : TierRange va n x := ⟨hp, h8, hm, hn, hb⟩
    exact ⟨fun s2 v hd hk hw => exec_hostRmaRead_tier hr (hopen ho) hd hk hw, fun w s2 r hd hk hw => exec_hostRmaWrite_tier hr (hopen ho) hd hk hw,
      fun w hd hk h => exec_hostRmaWrite_refused hr hd hk h⟩
  · rw [exec_hostSend hd, if_pos (.inl hb)]

end Sys2Proof.Machine
end

section
/-! SUPPORT. The packets of a command queue (R99, R101 to R104, R138, R174, R176): their start, what each does, their completion. -/

namespace Sys2Proof.Machine
open Sys2Proof

/-! ## A packet by its place -/

theorem place_div (qid : Nat) (i : BitVec 32) : (qid * 2 ^ 32 + i.toNat) / 2 ^ 32 = qid := by
  have := i.isLt
  omega

/-- A queue in which the packet of an index has become another. -/
def Queue.withPacket (q : Queue) (p : Packet) : Queue := { q with packets := q.packets.map fun r => if r.idx = p.idx then p else r }

theorem setPacket_queue (s : State) (who : Nat) (p : Packet) : (s.setPacket who p).queue (who / 2 ^ 32) = (s.queue (who / 2 ^ 32)).withPacket p :=
  State.updQueue_queue_self _ _ _

theorem find_map_idx (l : List Packet) (n : Nat) {p p' : Packet} (h : l.find? (fun r => r.idx.toNat == n) = some p) (hi : p'.idx = p.idx) :
    (l.map fun r => if r.idx = p'.idx then p' else r).find? (fun r => r.idx.toNat == n) = some p' := by
  have hn : p.idx.toNat = n := by simpa using List.find?_some h
  induction l with
  | nil => cases h
  | cons r l ih =>
    by_cases hr : r.idx = p.idx
    · simp [hr, hi, hn]
    · have hrn : ¬r.idx.toNat = n := fun e => hr (BitVec.eq_of_toNat_eq (e.trans hn.symm))
      rw [List.find?_cons_of_neg (by simpa using hrn)] at h
      rw [List.map_cons, if_neg (by rwa [hi]), List.find?_cons_of_neg (by simpa using hrn)]
      exact ih h

/-- A packet that has changed stands in its place. -/
theorem setPacket_packet {s : State} {who : Nat} {p p' : Packet} (h : s.packet who = some p) (hi : p'.idx = p.idx) :
    (s.setPacket who p').packet who = some p' := by
  rw [State.packet, setPacket_queue]
  exact find_map_idx _ _ h hi

/-- The place of a packet that is found is where it was looked for. -/
theorem place_of_packet {s : State} {who : Nat} {p : Packet} (h : s.packet who = some p) : who / 2 ^ 32 * 2 ^ 32 + p.idx.toNat = who := by
  have hn : p.idx.toNat = who % 2 ^ 32 := by simpa using List.find?_some h
  omega

@[simp] theorem State.dueOp_queue (s : State) (o : Op) (q : Nat) : (s.dueOp o).queue q = s.queue q := rfl
@[simp] theorem State.postDue_queue (s : State) (i : Instr) (who q : Nat) : (s.postDue i who).queue q = s.queue q := rfl
/-! ## The start (R99, R101, R102) -/

section start
variable {s : State} {part : Nat} {p : Packet} (hr : packetReady s s.cur = true) (ho : (s.queue s.cur).own = some part)
  (hp : (s.queue s.cur).headPacket = some p)
include hr ho hp

theorem packetStart_runs {s2 : State} {r : Packet} (h : packetReads s part p (startOp s.cur) = (s2, some r, false)) : packetStart s =
    ((s2.updQueue s.cur fun q => { q with head := p.idx + 1 }).setPacket (s.cur * 2 ^ 32 + p.idx.toNat) { r with started := true }).postDue
      (packetIns p.type) (s.cur * 2 ^ 32 + p.idx.toNat) := by
  unfold packetStart
  simp only [hr, Bool.not_true, Bool.false_eq_true, if_false, ho, hp, h]

theorem packetStart_rejects {s2 : State} (h : packetReads s part p (startOp s.cur) = (s2, none, false)) : packetStart s =
    ((s2.updQueue s.cur fun q => { q with st := 2, rej := p.corr, head := p.idx + 1 }).setPacket (s.cur * 2 ^ 32 + p.idx.toNat)
      { p with started := true }).dueOp (completionOp (s.cur * 2 ^ 32 + p.idx.toNat) 4) := by
  unfold packetStart
  simp only [hr, Bool.not_true, Bool.false_eq_true, if_false, ho, hp, h]

end start

theorem setPacket_place_queue (s : State) (qid : Nat) (i : BitVec 32) (p : Packet) :
    (s.setPacket (qid * 2 ^ 32 + i.toNat) p).queue qid = (s.queue qid).withPacket p := by
  have h := setPacket_queue s (qid * 2 ^ 32 + i.toNat) p
  rwa [place_div] at h

theorem packetReads_malformed {s : State} {part : Nat} {p : Packet} {o : Op} (h : p.malformed = true) : packetReads s part p o = (s, none, false) :=
  if_pos h

theorem packetReads_plain {s : State} {part : Nat} {p : Packet} {o : Op} (h : p.malformed = false) (ht : p.type ≠ 1) :
    packetReads s part p o = (s, some p, false) :=
  (if_neg (by rw [h]; exact Bool.false_ne_true)).trans (if_pos ht)

theorem packetsStart (s : State) (part : Nat) (p : Packet) : let q := s.queue s.cur; let who := s.cur * 2 ^ 32 + p.idx.toNat
    q.own = some part → q.headPacket = some p → packetReady s s.cur = true →
    (∀ (s2 : State) (r : Packet), packetReads s part p { who := s.cur, ins := .packetStart } = (s2, some r, false) → r.idx = p.idx → ∃ (t : State),
      exec .packetStart s = .next t ∧ t.due = s2.due ++ [{ who := who, ins := packetIns p.type }] ∧ Aside s2 t ∧
      t.queue s.cur = { s2.queue s.cur with head := p.idx + 1,
                                            packets := (s2.queue s.cur).packets.map fun k => if k.idx = p.idx then { r with started := true } else k }) ∧
    (p.malformed = false → p.type ≠ 1 → packetReads s part p { who := s.cur, ins := .packetStart } = (s, some p, false)) ∧
    (p.malformed = true → ∃ (t : State), exec .packetStart s = .next t ∧ (t.queue s.cur).st = 2 ∧ (t.queue s.cur).rej = p.corr ∧
      (t.queue s.cur).head = p.idx + 1 ∧ Aside s t ∧ t.due = s.due ++ [{ who := who, data := [4], ins := .packetCompletion }]) := by
  intro q who ho hp hr
  refine ⟨fun s2 r h hi => ?_, fun hm ht => packetReads_plain hm ht, fun hm => ?_⟩
  · refine ⟨_, congrArg Host.Outcome.next (packetStart_runs hr ho hp h), rfl, ⟨rfl, rfl, rfl, rfl, rfl, rfl⟩, ?_⟩
    rw [State.postDue_queue, setPacket_place_queue, State.updQueue_queue_self, Queue.withPacket, ← hi]
  · refine ⟨_, congrArg Host.Outcome.next (packetStart_rejects hr ho hp (packetReads_malformed hm)), ?_, ?_, ?_, ⟨rfl, rfl, rfl, rfl, rfl, rfl⟩, rfl⟩
    all_goals
      rw [State.dueOp_queue, setPacket_place_queue, State.updQueue_queue_self]
      rfl

/-! ## LAUNCH (R137, R138, R174, R176) -/

/-- Nothing but level records has changed. -/
def LevelsOnly (s t : State) : Prop := t = { s with levels := t.levels }

theorem LevelsOnly.trans {s t u : State} (a : LevelsOnly s t) (b : LevelsOnly t u) : LevelsOnly s u := by
  rw [LevelsOnly, b, a]

theorem State.setLevel_level (s : State) (part : Nat) (h : W64) (x : Level) : (s.setLevel part h x).level? part h = some x :=
  Sp.find_put_self _ _ _

theorem levelsOnly_makeLevel (s : State) (part : Nat) (h parent : W64) : LevelsOnly s (makeLevel s part h parent) := by
  unfold makeLevel
  split
  · rfl
  dsimp only
  split
  · split <;> rfl
  · rfl

theorem State.setLevel_isSome {s : State} {part : Nat} {h : W64} (k : W64) (x : Level) (hs : (s.level? part h).isSome = true) :
    ((s.setLevel part k x).level? part h).isSome = true := by
  by_cases hk : levelKey part h = levelKey part k
  · rw [State.level?, hk]
    exact congrArg Option.isSome (Sp.find_put_self _ _ _)
  · exact (congrArg Option.isSome (Sp.find_put_other _ _ _ _ hk)).trans hs

/-- A level record that is made is live. -/
theorem makeLevel_isSome (s : State) (part : Nat) (h parent : W64) : ((makeLevel s part h parent).level? part h).isSome = true := by
  unfold makeLevel
  split
  · assumption
  have hs : ((s.setLevel part h { parent := parent }).level? part h).isSome = true := by rw [State.setLevel_level]; rfl
  dsimp only
  split
  · split
    · exact hs
    · exact State.setLevel_isSome _ _ hs
  · exact hs

/-- The four level records of a LAUNCH. -/
def launchLevels (s : State) (part : Nat) (h : W64 × W64 × W64 × W64) : State :=
  makeLevel (makeLevel (makeLevel (makeLevel s part h.1 0) part h.2.1 h.1) part h.2.2.1 h.2.1) part h.2.2.2 h.2.2.1

theorem levelsOnly_launchLevels (s : State) (part : Nat) (h : W64 × W64 × W64 × W64) : LevelsOnly s (launchLevels s part h) :=
  (levelsOnly_makeLevel _ _ _ _).trans ((levelsOnly_makeLevel _ _ _ _).trans ((levelsOnly_makeLevel _ _ _ _).trans (levelsOnly_makeLevel _ _ _ _)))

/-- The classes of a partition's cores as a packet's image binds them. -/
def imageApplied (s : State) (part : Nat) (image : List W64) : State :=
  if image = [] then s else (s.partCores part).foldl (fun s k => s.updCore k fun c => applyImage c image) s

theorem foldl_updCore_eq (f : Core → Core) (l : List Nat) (s : State) : l.foldl (fun s k => s.updCore k f) s =
    { s with cores := (l.foldl (fun s k => s.updCore k f) s).cores } := by
  induction l generalizing s with
  | nil => rfl
  | cons k l ih => rw [List.foldl_cons, ih]; rfl

theorem imageApplied_eq (s : State) (part : Nat) (image : List W64) : imageApplied s part image =
    { s with cores := (imageApplied s part image).cores } := by
  unfold imageApplied
  split
  · rfl
  · exact foldl_updCore_eq _ _ _

/-- What a LAUNCH leaves to be placed. -/
def launchPlacing (part : Nat) (tag : Bool) (level : W64) (p : Packet) : Placing :=
  { body := { recordOf (fun i => p.tmpl.getD i 0) part 0 tag 0 with level := level, corr := p.corr, qtail := p.qtail }, next := 0, units := p.units,
    step := p.word 4, gang := if p.gang < 2 then 0 else p.gang, pipes := p.pipes.map pipeEnds }

/-- The level records of a LAUNCH, of which the innermost counts its units. -/
def launchCounted (s : State) (part : Nat) (h : W64 × W64 × W64 × W64) (p : Packet) : State :=
  let u := launchLevels s part h
  match u.level? part h.2.2.2 with
  | some l => u.setLevel part h.2.2.2 { l with outstanding := p.units, packet := some (s.cur / 2 ^ 32, s.cur % 2 ^ 32), phase := (u.part part).tag }
  | none => u

theorem launchPacket_eq {s : State} {part : Nat} {p : Packet} (hr : Runs s part p) : launchPacket s =
    let h := launchHandles s part (p.tmpl.getD 1 0)
    let u := imageApplied (launchCounted s part h p) part p.image
    u.updPart part fun q => { q with placing := q.placing ++ [launchPlacing part (u.part part).tag h.2.2.2 p] } := by
  unfold launchPacket
  dsimp only
  rw [hr.own, hr.here]
  rfl

theorem launchCounted_spec (s : State) (part : Nat) (h : W64 × W64 × W64 × W64) (p : Packet) : LevelsOnly s (launchCounted s part h p) ∧
    ∃ l : Level, (launchCounted s part h p).level? part h.2.2.2 =
      some { l with outstanding := p.units, packet := some (s.cur / 2 ^ 32, s.cur % 2 ^ 32), phase := (s.part part).tag } := by
  have hl := levelsOnly_launchLevels s part h
  have hp : (launchLevels s part h).part part = s.part part := by
    rw [hl]
    rfl
  obtain ⟨l, hs⟩ : ∃ l, (launchLevels s part h).level? part h.2.2.2 = some l := Option.isSome_iff_exists.1 (makeLevel_isSome _ _ _ _)
  unfold launchCounted
  dsimp only
  rw [hs, hp]
  exact ⟨hl.trans rfl, l, State.setLevel_level _ _ _ _⟩

/-- A LAUNCH has made its records and bound its classes: nothing but levels and cores has changed, and without an image no core. -/
theorem launchBound (s : State) (part : Nat) (h : W64 × W64 × W64 × W64) (p : Packet) :
    let u := imageApplied (launchCounted s part h p) part p.image
    u = { s with levels := u.levels, cores := u.cores } ∧ (p.image = [] → u.cores = s.cores) ∧ ∃ l : Level, u.level? part h.2.2.2 =
      some { l with outstanding := p.units, packet := some (s.cur / 2 ^ 32, s.cur % 2 ^ 32), phase := (s.part part).tag } := by
  obtain ⟨hu, l, hl⟩ := launchCounted_spec s part h p
  have hi := imageApplied_eq (launchCounted s part h p) part p.image
  refine ⟨?_, fun hm => ?_, l, ?_⟩
  · rw [hi, hu]
  · rw [imageApplied, if_pos hm, hu]
  · rw [← hl, hi]
    rfl

theorem launches {s : State} {part : Nat} {p : Packet} (hr : Runs s part p) : let q := s.part part; let qid := s.cur / 2 ^ 32
    let h := launchHandles s part (p.tmpl.getD 1 0)
    ∃ (t : State) (l : Level) (x : Placing), exec .launch s = .next t ∧ t.level? part h.2.2.2 = some l ∧ l.outstanding = p.units ∧ l.phase = q.tag ∧
      l.packet = some (qid, s.cur % 2 ^ 32) ∧ (t.part part).placing = q.placing ++ [x] ∧ x.units = p.units ∧ x.next = 0 ∧ x.step = p.word 4 ∧
      x.body.pc = (p.tmpl.getD 0 0).setWidth 15 ∧ x.body.level = h.2.2.2 ∧ x.body.corr = p.corr ∧ x.body.args = (List.range 4).map (fun i => p.tmpl.getD (4 + i) 0) ∧
      t.slots = s.slots ∧ t.mem = s.mem ∧ (p.image = [] → t.cores = s.cores) := by
  intro q qid h
  obtain ⟨hk, hc, l, hl⟩ := launchBound s part h p
  have he : exec .launch s = .next _ := congrArg Host.Outcome.next (launchPacket_eq hr)
  dsimp only at he
  generalize imageApplied (launchCounted s part h p) part p.image = u at he hk hc hl
  have hp : u.part part = s.part part := by
    rw [hk]
    rfl
  refine ⟨_, _, launchPlacing part (u.part part).tag h.2.2.2 p, he, hl, rfl, rfl, rfl, ?_, rfl, rfl, rfl, rfl, rfl, rfl, rfl, ?_, ?_, hc⟩
  · rw [State.updPart_part_self, hp]
  · rw [State.updPart_slots, hk]
  · rw [State.updPart_mem, hk]

/-! ## WAIT and SIGNAL (R99, R103) -/


theorem waitPairs_any (q : Part) (p : Packet) : (waitPairs q p).any (fun x => x.1.msb) = true ↔
    ∃ i, i < p.waitCount ∧ (q.signal (p.waitSig i)).msb = true := by
  simp [waitPairs]

theorem waitPairs_all (q : Part) (p : Packet) : (waitPairs q p).all (fun x => x.1.sle x.2) = true ↔
    ∀ i, i < p.waitCount → (q.signal (p.waitSig i)).toInt ≤ (p.word (1 + i)).toInt := by
  simp [waitPairs, BitVec.sle_iff_toInt_le]

theorem exec_wait {s : State} {part : Nat} {p : Packet} (hr : Runs s part p) : exec .wait s = .next (evalWait s (s.cur / 2 ^ 32) p) := by
  show execWait s = _
  rw [execWait, hr.here]

section wait
variable {s : State} {part : Nat} {p : Packet} (hr : Runs s part p) (hc : s.completing s.cur = false)
include hr hc

/-- A WAIT whose completion is not under way looks at the signals it names. -/
theorem evalWait_eq : evalWait s (s.cur / 2 ^ 32) p =
    if (waitPairs (s.part part) p).any fun x => x.1.msb then abortQueue s (s.cur / 2 ^ 32) p
    else if (waitPairs (s.part part) p).all fun x => x.1.sle x.2 then s.dueOp (completionOp s.cur 1) else s := by
  unfold evalWait
  dsimp only
  rw [place_of_packet hr.here, hr.own, hc]
  rfl

theorem waits : let q := s.part part; let qid := s.cur / 2 ^ 32
    let done (status : W64) : Op := { who := s.cur, data := [status], ins := .packetCompletion }
    ((∃ i, i < p.waitCount ∧ (q.signal (p.waitSig i)).msb = true) → ∃ (t : State), exec .wait s = .next t ∧ (t.queue qid).st = 3 ∧ (t.queue qid).rej = p.corr ∧
      (t.queue qid).head = (s.queue qid).tail ∧ Aside s t ∧
      t.due = s.due ++ ({ who := qid * 2 ^ 32 + p.idx.toNat, data := [3], ins := .packetCompletion } : Op) :: (((s.queue qid).packets.filter fun r => !r.started).map
        fun r => { who := qid * 2 ^ 32 + r.idx.toNat, data := [3], ins := .packetCompletion })) ∧
    ((∀ i, i < p.waitCount → (q.signal (p.waitSig i)).msb = false) →
      ((∀ i, i < p.waitCount → (q.signal (p.waitSig i)).toInt ≤ (p.word (1 + i)).toInt) → exec .wait s = .next (s.dueOp (done 1))) ∧
      ((∃ i, i < p.waitCount ∧ (p.word (1 + i)).toInt < (q.signal (p.waitSig i)).toInt) → exec .wait s = .next s)) := by
  intro q qid done
  have he := exec_wait hr
  rw [evalWait_eq hr hc] at he
  refine ⟨fun h => ?_, fun h => ⟨fun ha => ?_, fun ha => ?_⟩⟩
  · rw [if_pos ((waitPairs_any _ _).2 h), abortQueue_eq] at he
    have hq := State.setQueue_queue_self s qid { s.queue qid with
      st := 3, stopping := false, rej := p.corr, head := (s.queue qid).tail, packets := (s.queue qid).packets.map fun r => { r with started := true } }
    exact ⟨_, he, congrArg Queue.st hq, congrArg Queue.rej hq, congrArg Queue.head hq, ⟨rfl, rfl, rfl, rfl, rfl, rfl⟩, rfl⟩
  · have hn : ¬(waitPairs q p).any (fun x => x.1.msb) = true := fun hm => by
      obtain ⟨i, hi, hm⟩ := (waitPairs_any _ _).1 hm
      exact Bool.false_ne_true ((h i hi).symm.trans hm)
    rw [he, if_neg hn, if_pos ((waitPairs_all _ _).2 ha)]
    rfl
  · have hn : ¬(waitPairs q p).any (fun x => x.1.msb) = true := fun hm => by
      obtain ⟨i, hi, hm⟩ := (waitPairs_any _ _).1 hm
      exact Bool.false_ne_true ((h i hi).symm.trans hm)
    obtain ⟨i, hi, hlt⟩ := ha
    rw [he, if_neg hn, if_neg fun hs => absurd ((waitPairs_all _ _).1 hs i hi) (Int.not_le.2 hlt)]

end wait

theorem exec_signal {s : State} {part : Nat} {p : Packet} (hr : Runs s part p) (hop : bits (p.word 1) 23 16 < 2) :
    let i := bits (p.word 1) 15 0
    exec .signal s = .next ((setSignal s.tick part i (if bits (p.word 1) 23 16 = 0 then (s.part part).signal i + p.word 2 else p.word 2)).dueOp
      (completionOp s.cur 1)) := by
  show execSignal s = _
  rw [execSignal, hr.own, hr.here]
  dsimp only
  rcases Nat.le_one_iff_eq_zero_or_eq_one.1 (Nat.le_of_lt_succ hop) with h | h
  · rw [h]
    rfl
  · rw [h]
    rfl

theorem signals {s : State} {part : Nat} {p : Packet} (hr : Runs s part p) (hop : bits (p.word 1) 23 16 < 2) : let q := s.part part
    let i := bits (p.word 1) 15 0
    ∃ (t : State), exec .signal s = .next t ∧ Aside s t ∧ t.due.getLast? = some { who := s.cur, data := [1], ins := .packetCompletion } ∧
      (t.part part).signal i = (if bits (p.word 1) 23 16 = 0 then q.signal i + p.word 2 else p.word 2) ∧
      (∀ j, j ≠ i → (t.part part).signal j = q.signal j) := by
  intro q i
  refine ⟨_, exec_signal hr hop, aside_setSignal s.tick _ _ _, List.getLast?_concat, ?_, fun j hj => ?_⟩
  · rw [State.dueOp_part', setSignal_part, Part.withSignal_signal, if_pos rfl]
  · rw [State.dueOp_part', setSignal_part, Part.withSignal_signal, if_neg hj]
    rfl

/-! ## TIMESTAMP and COPY (R101, R102) -/

theorem timestamps {s s2 : State} {part n : Nat} {p : Packet} (hr : Runs s part p)
    (hw : hwBytes s part (p.word 1) 8 (some (s.ptpTime (s.cur / 2 ^ 32 / 64)).toNat) { who := s.cur, ins := .timestamp } = .ok s2 n) :
    exec .timestamp s = .next (s2.dueOp { who := s.cur, data := [1], ins := .packetCompletion }) := by
  show execTimestamp s = _
  rw [execTimestamp, hr.own, hr.here]
  dsimp only
  rw [hw]
  rfl

theorem pickOf_lt (t : Nat) {n : Nat} (h : 0 < n) : pickOf t n < n := by
  unfold pickOf
  split
  · exact h
  · exact Nat.mod_lt _ h

theorem copyPick_chosen {s : State} {w i k : W64} (hd : s.data = [w, i, k]) (p : Packet) : copyPick s.tick p = some (w, i.toNat, k.toNat) := by
  rw [copyPick, State.tick_data, hd]

theorem copyPick_flying {s : State} {p : Packet} {i d : Nat} {v : V512} (hd : s.data = []) (ht : p.todo = []) (hf : p.flying = [(i, d, v)]) :
    copyPick s.tick p = some (1, i, d) := by
  rw [copyPick, State.tick_data, hd, ht, hf]
  rfl

theorem blockLeft_spec (a : W64) : 0 < blockLeft a 64 ∧ a.toNat % 64 + blockLeft a 64 = 64 := by
  unfold blockLeft
  omega

/-- A part that is picked to be read lies in what is to do, and in one line of the source and of the destination. -/
theorem copyPick_reads {s : State} {p : Packet} {i n : Nat} (hd : s.data = []) (ht : p.todo = [(i, n)]) (hi : i < n) (hf : p.flying = []) :
    ∃ (j k : Nat), i ≤ j ∧ 0 < k ∧ j + k ≤ n ∧ (p.word 1 + BitVec.ofNat 64 j).toNat % 64 + k ≤ 64 ∧
      (p.word 2 + BitVec.ofNat 64 j).toNat % 64 + k ≤ 64 ∧ copyPick s.tick p = some (0, j, k) := by
  have hp : pickOf (s.tick.ticket + 1) (n - i) < n - i := pickOf_lt _ (Nat.sub_pos_of_lt hi)
  have he : copyPick s.tick p = some (0, i + pickOf (s.tick.ticket + 1) (n - i), Nat.min (n - (i + pickOf (s.tick.ticket + 1) (n - i)))
      (Nat.min (blockLeft (p.word 1 + BitVec.ofNat 64 (i + pickOf (s.tick.ticket + 1) (n - i))) 64)
        (blockLeft (p.word 2 + BitVec.ofNat 64 (i + pickOf (s.tick.ticket + 1) (n - i))) 64))) := by
    rw [copyPick, State.tick_data, hd, ht, hf]
    rfl
  generalize pickOf (s.tick.ticket + 1) (n - i) = c at hp he
  obtain ⟨hpos1, hsum1⟩ := blockLeft_spec (p.word 1 + BitVec.ofNat 64 (i + c))
  obtain ⟨hpos2, hsum2⟩ := blockLeft_spec (p.word 2 + BitVec.ofNat 64 (i + c))
  generalize blockLeft (p.word 1 + BitVec.ofNat 64 (i + c)) 64 = x at he hpos1 hsum1
  generalize blockLeft (p.word 2 + BitVec.ofNat 64 (i + c)) 64 = y at he hpos2 hsum2
  have hn : (n - (i + c)).min (x.min y) ≤ n - (i + c) := Nat.min_le_left _ _
  have hx : (n - (i + c)).min (x.min y) ≤ x := Nat.le_trans (Nat.min_le_right _ _) (Nat.min_le_left _ _)
  have hy : (n - (i + c)).min (x.min y) ≤ y := Nat.le_trans (Nat.min_le_right _ _) (Nat.min_le_right _ _)
  have hpos : 0 < (n - (i + c)).min (x.min y) := Nat.lt_min.2 ⟨by omega, Nat.lt_min.2 ⟨hpos1, hpos2⟩⟩
  exact ⟨i + c, _, by omega, hpos, by omega, by omega, by omega, he⟩

theorem State.postOp_packet (s : State) (o : Op) (who : Nat) : (s.postOp o).packet who = s.packet who := rfl

theorem exec_copy {s : State} {part : Nat} {p : Packet} (hr : Runs s part p) (h : ¬(p.todo = [] ∧ p.flying = [])) :
    exec .copy s = .next (copyStep s s.cur part p) := by
  show execCopy s = _
  rw [execCopy, hr.own, hr.here]
  dsimp only
  rw [if_neg h]

theorem copyStarts {s : State} {part : Nat} {p : Packet} (hr : Runs s part p) (ht : p.todo = []) (hf : p.flying = [])
    (hn : bits (p.word 3) 31 0 ≠ 0) : ∃ (t : State), exec .copy s = .next t ∧ Aside s t ∧ Answers t { who := s.cur, ins := .copy } ∧
      (t.packet s.cur).map Packet.todo = some [(0, bits (p.word 3) 31 0)] := by
  have he : exec .copy s = .next ((s.setPacket s.cur { p with todo := [(0, bits (p.word 3) 31 0)] }).postOp { who := s.cur, ins := .copy }) := by
    show execCopy s = _
    rw [execCopy, hr.own, hr.here]
    dsimp only
    rw [if_pos ⟨ht, hf⟩, if_neg hn]
  refine ⟨_, he, ⟨rfl, rfl, rfl, rfl, rfl, rfl⟩, List.getLast?_concat, ?_⟩
  have hi : ({ p with todo := [(0, bits (p.word 3) 31 0)] } : Packet).idx = p.idx := rfl
  rw [State.postOp_packet, setPacket_packet hr.here hi]
  rfl

/-- The last bytes of a copy arrive. -/
theorem copyEnds {s s2 : State} {part i n k r : Nat} {d : V512} {p : Packet} (hr : Runs s part p) (ht : p.todo = []) (hf : p.flying = [(i, n, d)])
    (hc : copyPick s.tick p = some (1, i, k))
    (hw : hwPart s.tick.tick part (p.word 2 + BitVec.ofNat 64 i) n (some d.toNat)
      { who := s.cur, data := [1, BitVec.ofNat 64 i, BitVec.ofNat 64 k], ins := .copy } = .ok s2 r) : ∃ (t : State), exec .copy s = .next t ∧
      Aside s2 t ∧ t.due = s2.due ++ [{ who := s.cur, data := [1], ins := .packetCompletion }] := by
  have hfind : (if (1 : W64) = 1 then p.flying.find? fun f => f.1 == i else none) = some (i, n, d) := by simp [hf]
  have he := exec_copy hr (fun h => by simp [hf] at h)
  unfold copyStep at he
  dsimp only at he
  rw [hc] at he
  dsimp only at he
  rw [hfind] at he
  dsimp only at he
  rw [hw] at he
  dsimp only at he
  rw [if_pos ⟨ht, by simp [hf]⟩] at he
  exact ⟨_, he, ⟨rfl, rfl, rfl, rfl, rfl, rfl⟩, rfl⟩

/-- Bytes of a copy are read and fly to their destination. -/
theorem copyReads {s s2 : State} {part i n j k v : Nat} {p : Packet} (hr : Runs s part p) (ht : p.todo = [(i, n)]) (hf : p.flying = [])
    (hc : copyPick s.tick p = some (0, j, k))
    (hw : hwPart s.tick.tick part (p.word 1 + BitVec.ofNat 64 j) k none { who := s.cur, data := [0, BitVec.ofNat 64 j, BitVec.ofNat 64 k], ins := .copy }
      (copyExec s.tick.tick part (p.word 2 + BitVec.ofNat 64 j)) = .ok s2 v)
    (hq : (s2.queue (s.cur / 2 ^ 32)).packets = (s.queue (s.cur / 2 ^ 32)).packets) : ∃ (t : State), exec .copy s = .next t ∧ Aside s2 t ∧
      (t.packet s.cur).map Packet.flying = some [(j, k, BitVec.ofNat 512 v)] := by
  have hfind : (if (0 : W64) = 1 then p.flying.find? fun f => f.1 == j else none) = none := if_neg (by decide)
  have hp : s2.packet s.cur = some p := by
    rw [State.packet, hq]
    exact hr.here
  have he := exec_copy hr (fun h => by simp [ht] at h)
  unfold copyStep at he
  dsimp only at he
  rw [hc] at he
  dsimp only at he
  rw [hfind] at he
  dsimp only at he
  rw [hw] at he
  dsimp only at he
  rw [if_neg (by simp)] at he
  refine ⟨_, he, ⟨rfl, rfl, rfl, rfl, rfl, rfl⟩, ?_⟩
  have hi : ({ p with todo := cutRange p.todo j (j + k), flying := p.flying ++ [(j, k, BitVec.ofNat 512 v)] } : Packet).idx = p.idx := rfl
  rw [State.postOp_packet, setPacket_packet hp hi, hf]
  rfl

/-! ## Completion (R99, R102, R104) -/

theorem stopIfDone_packets (q : Queue) : (stopIfDone q).packets = q.packets := by
  unfold stopIfDone
  split <;> rfl

theorem stopIfDone_cplerr (q : Queue) : (stopIfDone q).cplerr = q.cplerr := by
  unfold stopIfDone
  split <;> rfl

/-- The indices in a queue's buffer. -/
def State.indices (s : State) (q : Nat) : List (BitVec 32) := (s.queue q).packets.map Packet.idx

theorem abortQueue_indices (s : State) (qid : Nat) (p : Packet) (q : Nat) : (abortQueue s qid p).indices q = s.indices q := by
  rw [abortQueue_eq]
  refine (congrArg (fun x : Queue => x.packets.map Packet.idx) (State.setQueue_queue s qid q _)).trans ?_
  split
  · next h =>
    rw [h]
    exact List.map_map
  · rfl

theorem evalWait_indices (s : State) (qid : Nat) (p : Packet) (q : Nat) : (evalWait s qid p).indices q = s.indices q := by
  unfold evalWait
  dsimp only
  split
  · rfl
  split
  · exact abortQueue_indices _ _ _ _
  split <;> rfl

theorem signalsChanged_indices (s : State) (part q : Nat) : (signalsChanged s part).indices q = s.indices q := by
  unfold signalsChanged
  generalize (s.dev (part / 32)).queues.filter _ = l
  induction l generalizing s with
  | nil => rfl
  | cons x l ih =>
    rw [List.foldl_cons, ih]
    split
    · exact evalWait_indices _ _ _ _
    · rfl

theorem setSignal_indices (s : State) (part i : Nat) (v : W64) (q : Nat) : (setSignal s part i v).indices q = s.indices q :=
  signalsChanged_indices _ _ _

/-- A packet has completed: it has left the buffer, and its signal is decremented where it is done or in error. -/
def packetDone (s : State) (qid part status : Nat) (p : Packet) : State :=
  let s := s.updQueue qid fun q => stopIfDone { q with packets := q.packets.filter fun r => r.idx != p.idx }
  if p.onDone ∧ status ≤ 2 then setSignal s part p.sig ((s.part part).signal p.sig - 1) else s

theorem packetCompletion_written {s s2 : State} {part r : Nat} {status : W64} {p : Packet} (hr : Runs s part p) (hd : s.data = [status])
    (hc : (s.queue (s.cur / 2 ^ 32)).cpl ≠ 0)
    (hw : hwBytes s part ((s.queue (s.cur / 2 ^ 32)).cpl + BitVec.ofNat 64 (p.idx.toNat % 2 ^ (s.queue (s.cur / 2 ^ 32)).size * 16)) 16
      (some (p.corr.toNat + status.toNat * 2 ^ 32 + 2 ^ 64 * (s.ptpTime (s.cur / 2 ^ 32 / 64)).toNat))
      { who := s.cur, data := s.data, ins := .packetCompletion } = .ok s2 r) :
    packetCompletion s = packetDone s2 (s.cur / 2 ^ 32) part status.toNat p := by
  unfold packetCompletion
  dsimp only
  rw [hr.own, hr.here]
  dsimp only
  rw [if_neg hc, hd, List.headD_cons, ← hd, hw]
  rfl

theorem packetCompletion_nowhere {s : State} {part : Nat} {p : Packet} (hr : Runs s part p) (hc : (s.queue (s.cur / 2 ^ 32)).cpl = 0) :
    packetCompletion s =
      packetDone (s.updQueue (s.cur / 2 ^ 32) fun q => { q with cplerr := true }) (s.cur / 2 ^ 32) part (s.data.headD 1).toNat p := by
  unfold packetCompletion
  dsimp only
  rw [hr.own, hr.here]
  dsimp only
  rw [if_pos hc]
  rfl

theorem packetDone_quiet {p : Packet} (h : p.onDone = false) (s : State) (qid part status : Nat) : packetDone s qid part status p =
    s.updQueue qid fun q => stopIfDone { q with packets := q.packets.filter fun r => r.idx != p.idx } :=
  if_neg fun hn => Bool.false_ne_true (h.symm.trans hn.1)

theorem packetDone_signals {p : Packet} {status : Nat} (h : p.onDone = true) (hs : status ≤ 2) (s : State) (qid part : Nat) :
    packetDone s qid part status p =
      setSignal (s.updQueue qid fun q => stopIfDone { q with packets := q.packets.filter fun r => r.idx != p.idx }) part p.sig
        ((s.part part).signal p.sig - 1) := if_pos ⟨h, hs⟩

theorem packetDone_queues (s : State) (qid part status : Nat) (p : Packet) :
    Aside s (packetDone s qid part status p) ∧ (packetDone s qid part status p).indices qid = (s.indices qid).filter fun i => i != p.idx := by
  have hi : (s.updQueue qid fun q => stopIfDone { q with packets := q.packets.filter fun r => r.idx != p.idx }).indices qid =
      (s.indices qid).filter fun i => i != p.idx := by
    rw [State.indices, State.updQueue_queue_self, stopIfDone_packets, State.indices, List.filter_map]
    rfl
  unfold packetDone
  dsimp only
  split
  · exact ⟨aside_setSignal (s.updQueue qid _) _ _ _, (setSignal_indices _ _ _ _ _).trans hi⟩
  · exact ⟨⟨rfl, rfl, rfl, rfl, rfl, rfl⟩, hi⟩

/-- A packet that has completed is in its queue's buffer no more. -/
theorem packetDone_gone (s : State) (qid part status : Nat) (p : Packet) :
    ∀ k ∈ ((packetDone s qid part status p).queue qid).packets, k.idx ≠ p.idx := by
  intro k hk
  have hm : k.idx ∈ (packetDone s qid part status p).indices qid := List.mem_map_of_mem hk
  rw [(packetDone_queues s qid part status p).2] at hm
  simpa using (List.mem_filter.1 hm).2

theorem completes {s s2 : State} {part r : Nat} {status : W64} {p : Packet} (hr : Runs s part p) (hd : s.data = [status])
    (hc : (s.queue (s.cur / 2 ^ 32)).cpl ≠ 0)
    (hw : hwBytes s part ((s.queue (s.cur / 2 ^ 32)).cpl + BitVec.ofNat 64 (p.idx.toNat % 2 ^ (s.queue (s.cur / 2 ^ 32)).size * 16)) 16
      (some (p.corr.toNat + status.toNat * 2 ^ 32 + 2 ^ 64 * (s.ptpTime (s.cur / 2 ^ 32 / 64)).toNat))
      { who := s.cur, data := s.data, ins := .packetCompletion } = .ok s2 r) :
    ∃ (t : State), exec .packetCompletion s = .next t ∧ Aside s2 t ∧ (∀ k ∈ (t.queue (s.cur / 2 ^ 32)).packets, k.idx ≠ p.idx) ∧
      (p.onDone = true → status.toNat ≤ 2 → (t.part part).signal p.sig = (s2.part part).signal p.sig - 1) ∧
      (p.onDone = false → t.parts = s2.parts) := by
  refine ⟨_, congrArg Host.Outcome.next (packetCompletion_written hr hd hc hw), (packetDone_queues _ _ _ _ _).1, packetDone_gone _ _ _ _ _,
    fun h hs => ?_, fun h => ?_⟩
  · rw [packetDone_signals h hs, setSignal_part, Part.withSignal_signal, if_pos rfl]
  · rw [packetDone_quiet h]
    rfl

theorem completesNowhere {s : State} {part : Nat} {p : Packet} (hr : Runs s part p) (hc : (s.queue (s.cur / 2 ^ 32)).cpl = 0)
    (h : p.onDone = false) : ∃ (t : State), exec .packetCompletion s = .next t ∧ Aside s t ∧
      (t.queue (s.cur / 2 ^ 32)).cplerr = true ∧ (∀ k ∈ (t.queue (s.cur / 2 ^ 32)).packets, k.idx ≠ p.idx) := by
  refine ⟨_, congrArg Host.Outcome.next (packetCompletion_nowhere hr hc), (packetDone_queues (s.updQueue _ _) _ _ _ _).1, ?_, packetDone_gone _ _ _ _ _⟩
  rw [packetDone_quiet h, State.updQueue_queue_self, stopIfDone_cplerr, State.updQueue_queue_self]

/-! ## Memory at a scratchpad (R55 to R61, R101, log 78) -/

section scratch
variable {s : State} {part core off n : Nat} {a : W64} (ht : s.globalTarget part a = some (.scratch core off))
  (h0 : s.guarded core off = false) (h1 : s.guarded core (off + n - 1) = false)

/-- What the segment table says of an access of the Headwater to a core's scratchpad. -/
def hwSegment (s : State) (part core : Nat) (w : Bool) : Check :=
  s.segment (coreCluster core) (s.partAt part (clusterDev (coreCluster core))) (core % 128) false (!w) w

/-- What the core's protection regions say of it. -/
def hwProt (s : State) (part core off n : Nat) (w : Bool) : Bool :=
  s.protAllows core off n (hwAccessor (s.partAt part (clusterDev (coreCluster core)))) w

include ht h0 h1

theorem hwPart_read (o : Op) : hwPart s part a n none o =
    if hwSegment s part core false = .ok ∧ hwProt s part core off n false = true then .ok s (s.read (scratchLoc core off) n) else .refused s := by
  unfold hwPart
  dsimp only
  rw [ht]
  simp only [h0, h1, Bool.not_false, Bool.and_true, Option.isNone_none, Option.isSome_none, Bool.and_eq_true, beq_iff_eq]
  rfl

theorem hwPart_write (v : Nat) (o : Op) (host : Bool) : hwPart s part a n (some v) o false host =
    if hwSegment s part core true = .ok ∧ hwProt s part core off n true = true
    then .ok (if host then s.pathWrite 3 (scratchLoc core off) v n else s.write (scratchLoc core off) v n) 0 else .refused s := by
  unfold hwPart
  dsimp only
  rw [ht]
  simp only [h0, h1, Bool.not_false, Bool.and_true, Option.isNone_some, Option.isSome_some, Bool.and_eq_true, beq_iff_eq]
  rfl

theorem scratchAccesses (o : Op) (v : Nat) :
    (hwSegment s part core false = .ok → hwProt s part core off n false = true →
      hwPart s part a n none o = .ok s (s.read (scratchLoc core off) n)) ∧
    (hwSegment s part core true = .ok → hwProt s part core off n true = true →
      hwPart s part a n (some v) o = .ok (s.write (scratchLoc core off) v n) 0 ∧
      hwPart s part a n (some v) o false true = .ok (s.pathWrite 3 (scratchLoc core off) v n) 0) ∧
    (hwSegment s part core false ≠ .ok ∨ hwProt s part core off n false = false → hwPart s part a n none o = .refused s) ∧
    (hwSegment s part core true ≠ .ok ∨ hwProt s part core off n true = false → hwPart s part a n (some v) o = .refused s) := by
  have hno {c : Check} {b : Bool} (h : c ≠ .ok ∨ b = false) : ¬(c = .ok ∧ b = true) := fun hn =>
    h.elim (fun h => h hn.1) fun h => Bool.false_ne_true (h.symm.trans hn.2)
  refine ⟨fun hs hp => ?_, fun hs hp => ⟨?_, ?_⟩, fun h => ?_, fun h => ?_⟩
  · rw [hwPart_read ht h0 h1, if_pos ⟨hs, hp⟩]
  · rw [hwPart_write ht h0 h1, if_pos ⟨hs, hp⟩, if_neg Bool.false_ne_true]
  · rw [hwPart_write ht h0 h1, if_pos ⟨hs, hp⟩, if_pos rfl]
  · rw [hwPart_read ht h0 h1, if_neg (hno h)]
  · rw [hwPart_write ht h0 h1, if_neg (hno h)]

end scratch

/-! ## The statement -/

/-- Settles O45: each packet type, the start and the completion have a theorem of their own. -/
theorem packetEvents : Obligations.PacketEvents := by
  refine ⟨packetsStart, fun s part p hr => ?_, fun s part a n core off o v ht h0 h1 => scratchAccesses ht h0 h1 o v⟩
  intro q qid h done
  exact ⟨launches hr, waits hr, signals hr, rfl, fun s2 n => timestamps hr, copyStarts hr, fun i n k d s2 r => copyEnds hr, fun i d v => copyPick_flying,
    fun i n => copyPick_reads, fun w j k hd => copyPick_chosen hd p, fun i n j k s2 v => copyReads hr,
    fun status s2 r hd hc hw => completes hr hd hc hw, completesNowhere hr⟩

end Sys2Proof.Machine
end

section
/-! SUPPORT. Entries written into inbox rings (R61, R81, R457): what the writes change, what the words read as, when nothing bars them. -/

namespace Sys2Proof.Machine
open Sys2Proof

/-! ## Writes of the hardware's own -/

/-- Bytes have been stored: nothing else has changed but what a store wakes and keeps (R195, R289, R345). -/
structure StoresOnly (s t : State) : Prop where
  rest : t = { s with mem := t.mem, unseen := t.unseen, cores := t.cores, parked := t.parked, agenda := t.agenda }
  core : ∀ k, t.core k = { s.core k with fetchBuf := (t.core k).fetchBuf }
  agenda : ∃ l, t.agenda = s.agenda ++ l

theorem StoresOnly.refl (s : State) : StoresOnly s s := ⟨rfl, fun _ => rfl, [], (List.append_nil _).symm⟩

theorem StoresOnly.trans {s t u : State} (a : StoresOnly s t) (b : StoresOnly t u) : StoresOnly s u := by
  obtain ⟨l, hl⟩ := a.agenda
  obtain ⟨m, hm⟩ := b.agenda
  refine ⟨by rw [b.rest, a.rest], fun k => by rw [b.core, a.core], l ++ m, by rw [hm, hl, List.append_assoc]⟩

theorem storesOnly_write (s : State) (loc v n : Nat) : StoresOnly s (s.write loc v n) := by
  refine ⟨?_, fun k => ?_, ?_⟩
  · rw [State.write_eq]
  · rw [State.write_core]
    exact s.keepLines_core _ _ k
  · have ha : (s.write loc v n).agenda = (s.keepLines loc n).agenda ++ _ := rfl
    rw [ha, State.keepLines_eq]
    exact ⟨_, rfl⟩

theorem storesOnly_hwWrite (s : State) (core off v n : Nat) : StoresOnly s (s.hwWrite core off v n) := by
  unfold State.hwWrite
  split
  · exact .refl s
  · exact storesOnly_write _ _ _ _

theorem storesOnly_writeWords (core : Nat) (ws : List W64) (s : State) (off : Nat) : StoresOnly s (writeWords s core off ws) := by
  induction ws generalizing s off with
  | nil => exact .refl s
  | cons w ws ih => exact (storesOnly_hwWrite _ _ _ _ _).trans (ih _ _)

section stores
variable {s t : State} (h : StoresOnly s t)
include h

theorem StoresOnly.slots : t.slots = s.slots := by rw [h.rest]
theorem StoresOnly.cluster (c : Nat) : t.cluster c = s.cluster c := by rw [h.rest]; rfl
theorem StoresOnly.part (p : Nat) : t.part p = s.part p := by rw [h.rest]; rfl
theorem StoresOnly.guarded (core off : Nat) : t.guarded core off = s.guarded core off := by
  rw [State.guarded, h.core]
  rfl
theorem StoresOnly.mem_agenda {o : Op} (ho : o ∈ s.agenda) : o ∈ t.agenda := by
  obtain ⟨l, hl⟩ := h.agenda
  rw [hl]
  exact List.mem_append_left _ ho

end stores

/-! ## What the words read as -/

theorem State.hwWrite_byte_outside (s : State) {core off v n q : Nat} (h : q < scratchLoc core off ∨ scratchLoc core off + n ≤ q) :
    (s.hwWrite core off v n).byte q = s.byte q := by
  unfold State.hwWrite
  split
  · rfl
  · exact State.write_byte_outside _ _ _ h

theorem writeWords_byte_outside {core q : Nat} (ws : List W64) (s : State) (off : Nat)
    (h : ∀ j, j < ws.length → q < scratchLoc core (off + 8 * j) ∨ scratchLoc core (off + 8 * j) + 8 ≤ q) :
    (writeWords s core off ws).byte q = s.byte q := by
  induction ws generalizing s off with
  | nil => rfl
  | cons w ws ih =>
    refine (ih _ _ fun j hj => ?_).trans (State.hwWrite_byte_outside _ (h 0 (Nat.succ_pos _)))
    rw [Nat.add_assoc, Nat.add_comm 8, ← Nat.mul_succ]
    exact h (j + 1) (Nat.succ_lt_succ hj)

theorem State.read_of_bytes {s t : State} {loc n : Nat} (h : ∀ j, j < n → t.byte (loc + j) = s.byte (loc + j)) : t.read loc n = s.read loc n := by
  induction n generalizing loc with
  | zero => rfl
  | succ n ih =>
    rw [State.read, State.read, ih fun j hj => by rw [Nat.add_right_comm]; exact h (j + 1) (Nat.succ_lt_succ hj), ← Nat.add_zero loc, h 0 (Nat.succ_pos n)]

/-- Words of a run that is no longer than a scratchpad lie apart in it. -/
theorem scratchLoc_apart {core off i : Nat} (hi : 0 < i) (hn : 8 * (i + 1) ≤ 2 ^ 19) :
    scratchLoc core off + 8 ≤ scratchLoc core (off + 8 * i) ∨ scratchLoc core (off + 8 * i) + 8 ≤ scratchLoc core off := by
  unfold scratchLoc
  omega

theorem writeWords_read {core : Nat} (ws : List W64) (s : State) (off : Nat) (hn : 8 * ws.length ≤ 2 ^ 19)
    (hg : ∀ j, j < ws.length → s.guarded core (off + 8 * j) = false) {j : Nat} (hj : j < ws.length) :
    (writeWords s core off ws).read (scratchLoc core (off + 8 * j)) 8 = (ws.getD j 0).toNat := by
  induction ws generalizing s off j with
  | nil => exact absurd hj (Nat.not_lt_zero _)
  | cons w ws ih =>
    rw [List.length_cons] at hn
    cases j with
    | zero =>
      have hw : s.hwWrite core off w.toNat 8 = s.write (scratchLoc core off) w.toNat 8 :=
        if_neg (by rw [show s.guarded core off = false from hg 0 (Nat.succ_pos _)]; exact Bool.false_ne_true)
      rw [writeWords, hw]
      simp only [Nat.mul_zero, Nat.add_zero, List.getD_cons_zero]
      refine (State.read_of_bytes fun b hb => writeWords_byte_outside ws _ _ fun i hi => ?_).trans ((State.read_write _ _ _ _).trans (Nat.mod_eq_of_lt w.isLt))
      have ha : off + 8 + 8 * i = off + 8 * (i + 1) := by omega
      rw [ha]
      have := scratchLoc_apart (core := core) (off := off) (i := i + 1) (by omega) (by omega)
      omega
    | succ j =>
      have ha : off + 8 * (j + 1) = off + 8 + 8 * j := by omega
      rw [writeWords, ha]
      refine ih _ _ (by omega) (fun i hi => ?_) (Nat.lt_of_succ_lt_succ hj)
      rw [(storesOnly_hwWrite _ _ _ _ _).guarded, show off + 8 + 8 * i = off + 8 * (i + 1) by omega]
      exact hg _ (Nat.succ_lt_succ hi)

/-! ## Placing an entry (R81, R457) -/

theorem protAllows_congr {s t : State} {core : Nat} (hc : t.core core = s.core core) (hs : t.slots = s.slots)
    (hp : t.partOf (coreCluster core) = s.partOf (coreCluster core)) : t.protAllows core = s.protAllows core := by
  funext off len x wr
  unfold State.protAllows State.live State.slot
  rw [hc, hs, hp]

theorem niAllows_congr {s t : State} {core : Nat} (hc : t.core core = s.core core) (hs : t.slots = s.slots)
    (hp : t.partOf (coreCluster core) = s.partOf (coreCluster core)) : t.niAllows core = s.niAllows core := by
  funext level offs
  unfold State.niAllows State.niAccessor
  rw [protAllows_congr hc hs hp, hp]

/-- A core's ring of a class after an entry of `n` words has been written at `at0`. -/
def Core.entered (c : Core) (cls at0 n : Nat) (info : EntryInfo) : Core :=
  { c with tails := Sp.set 0 c.tails cls ((at0 + n) % clsSize (c.cls cls)), entries := Sp.put c.entries (cls * 8192 + at0) info }

theorem Core.entered_tail (c : Core) (cls at0 n : Nat) (info : EntryInfo) :
    (c.entered cls at0 n info).tail cls = (at0 + n) % clsSize (c.cls cls) := by
  rw [Core.tail, Core.entered, Sp.get_set, if_pos rfl]

/-- An entry of `words` has been written at word `at0` of a ring (R81). -/
def State.enter (s : State) (core cls at0 : Nat) (words : List W64) (info : EntryInfo) : State :=
  (writeWords s core (ringOff ((s.core core).cls cls) at0) words).updCore core fun c => c.entered cls at0 words.length info

theorem placeEntry_eq {s : State} {core cls at0 : Nat} {level : W64} {words : List W64} {info : EntryInfo}
    (hf : (s.core core).ringFit cls words.length = some (0, at0))
    (hn : s.niAllows core level ((List.range words.length).map fun j => clsBase ((s.core core).cls cls) + 8 * (at0 + j)) = true) :
    placeEntry s core cls level words info = .ok (s.enter core cls at0 words info) := by
  unfold placeEntry
  dsimp only
  rw [hf]
  simp only [if_true, List.append_nil, hn, Bool.not_true, Bool.false_eq_true, if_false]
  refine congrArg Placed.ok (congrArg (State.setCore _ core) ?_)
  dsimp only [Core.entered]
  rw [(storesOnly_writeWords _ _ _ _).core]
  rfl

/-- An entry that was placed, with padding or without, has stored bytes and moved the ring's tail. -/
theorem placeEntry_ok {s t : State} {core cls : Nat} {level : W64} {words : List W64} {info : EntryInfo}
    (h : placeEntry s core cls level words info = .ok t) :
    ∃ u at0, StoresOnly s u ∧ t = u.updCore core fun c => c.entered cls at0 words.length info := by
  unfold placeEntry at h
  dsimp only at h
  split at h
  · cases h
  next pad at0 hf =>
  obtain ⟨u, hu, hs⟩ : ∃ u, StoresOnly s u ∧ (if pad = 0 then s else
      s.hwWrite core (ringOff ((s.core core).cls cls) ((s.core core).tail cls)) (ringHeader 0 false pad 0).toNat 8) = u := by
    split
    · exact ⟨_, .refl s, rfl⟩
    · exact ⟨_, storesOnly_hwWrite _ _ _ _ _, rfl⟩
  rw [hs] at h
  revert h
  generalize s.niAllows core level _ = b
  intro h
  cases b with
  | false => cases h
  | true =>
  have hw := hu.trans (storesOnly_writeWords core words u (ringOff ((s.core core).cls cls) at0))
  refine ⟨_, at0, hw, (Placed.ok.inj h).symm.trans (congrArg (State.setCore _ core) ?_)⟩
  dsimp only [Core.entered]
  rw [hw.core]
  rfl

section enter
variable (s : State) (core cls at0 : Nat) (words : List W64) (info : EntryInfo)

theorem State.enter_core : (s.enter core cls at0 words info).core core =
    { (s.core core).entered cls at0 words.length info with fetchBuf := ((s.enter core cls at0 words info).core core).fetchBuf } := by
  rw [State.enter, State.updCore_core_self, (storesOnly_writeWords _ _ _ _).core]
  rfl

theorem State.enter_tail : ((s.enter core cls at0 words info).core core).tail cls = (at0 + words.length) % clsSize ((s.core core).cls cls) := by
  rw [State.enter_core]
  exact Core.entered_tail _ _ _ _ info

theorem State.enter_slots : (s.enter core cls at0 words info).slots = s.slots := (storesOnly_writeWords _ _ _ _).slots

theorem State.enter_assembly : (s.enter core cls at0 words info).assembly = s.assembly := by
  rw [State.enter, State.updCore_assembly, (storesOnly_writeWords core words s _).rest]

theorem State.enter_head (c : Nat) : ((s.enter core cls at0 words info).core core).head c = (s.core core).head c := by
  rw [State.enter_core]
  rfl

theorem State.enter_cluster (c : Nat) : (s.enter core cls at0 words info).cluster c = s.cluster c :=
  (storesOnly_writeWords core words s _).cluster c

theorem State.enter_read (hn : 8 * words.length ≤ 2 ^ 19)
    (hg : ∀ j, j < words.length → s.guarded core (ringOff ((s.core core).cls cls) (at0 + j)) = false) {j : Nat} (hj : j < words.length) :
    (s.enter core cls at0 words info).read (scratchLoc core (ringOff ((s.core core).cls cls) (at0 + j))) 8 = (words.getD j 0).toNat := by
  have ha (i : Nat) : ringOff ((s.core core).cls cls) (at0 + i) = ringOff ((s.core core).cls cls) at0 + 8 * i := by
    rw [ringOff, ringOff, Nat.mul_add, Nat.add_assoc]
  rw [ha]
  refine (State.read_of_bytes fun _ _ => rfl).trans (writeWords_read words s _ hn (fun i hi => ?_) hj)
  rw [← ha]
  exact hg i hi

end enter

end Sys2Proof.Machine
end

section
/-! SUPPORT. The scheduler of a cluster and the Sorting Office's placement (R94 to R96, R137, R176 to R178). -/

namespace Sys2Proof.Machine
open Sys2Proof

/-! ## Ready queues (R94) -/

/-- A record stands at the end of a ready queue, with its timers (R94, R182). -/
def State.enqueued (s : State) (c : Nat) (e : ReadyRec) : State :=
  let d : List W64 := [BitVec.ofNat 64 e.seq]
  (((s.updCluster c fun x => { x with ready := x.ready ++ [e] }).tick).opAt (s.now + 2 ^ 16) { who := c, data := d, ins := .priorityAging }).opAt
    (s.now + 2 ^ 12) { who := c, data := d, ins := .preemptRequest }

theorem State.enqueued_ready (s : State) (c : Nat) (e : ReadyRec) : ((s.enqueued c e).cluster c).ready = (s.cluster c).ready ++ [e] :=
  congrArg Cluster.ready (State.updCluster_cluster_self s c fun x => { x with ready := x.ready ++ [e] })

theorem State.enqueued_cluster_other (s : State) {c n : Nat} (e : ReadyRec) (h : n ≠ c) : (s.enqueued c e).cluster n = s.cluster n :=
  (State.updCluster_cluster s c n fun x => { x with ready := x.ready ++ [e] }).trans (if_neg h)

/-- The launch of a record that its source has not counted counts it (R137). -/
def launchCounts (s : State) (r : TaskRec) : State :=
  match if TaskRec.counted r then s.liveLevel r.home r.level else none with
  | some l => s.setLevel r.home r.level { l with outstanding := l.outstanding + 1 }
  | none => s

theorem levelsOnly_launchCounts (s : State) (r : TaskRec) : LevelsOnly s (launchCounts s r) := by
  unfold launchCounts
  split <;> rfl

theorem counted_iff (r : TaskRec) : TaskRec.counted r = true ↔ r.source = 1 ∨ r.source = 2 ∨ r.source = 3 := by
  simp [TaskRec.counted, or_assoc]

theorem State.setLevel_liveLevel {s : State} {part : Nat} {h : W64} {l : Level} (x : Level) (hl : s.liveLevel part h = some l) :
    (s.setLevel part h x).liveLevel part h = some x := by
  unfold State.liveLevel at hl ⊢
  split at hl
  · rw [if_pos ‹_›, State.setLevel_level]
  · cases hl

theorem launchCounts_outstanding {s : State} {r : TaskRec} {l : Level} (hl : s.liveLevel r.home r.level = some l) :
    ((launchCounts s r).liveLevel r.home r.level).map Level.outstanding =
      some (if r.source = 1 ∨ r.source = 2 ∨ r.source = 3 then l.outstanding + 1 else l.outstanding) := by
  unfold launchCounts
  by_cases hc : TaskRec.counted r = true
  · rw [if_pos hc, if_pos ((counted_iff r).1 hc), hl]
    dsimp only
    rw [State.setLevel_liveLevel _ hl]
    rfl
  · rw [if_neg hc, if_neg fun h => hc ((counted_iff r).2 h)]
    dsimp only
    rw [hl]
    rfl

/-- A record as it enters a ready queue. -/
def readyEntry (s : State) (c : Nat) (r : TaskRec) : ReadyRec :=
  { seq := s.ticket, since := s.now, pri := r.pri, raised := false, ask := none, body := { r with enq := s.ptpTime (clusterDev c) } }

theorem recordEnqueue_eq {s : State} {c : Nat} {r : TaskRec} (hr : (s.cluster c).ready.length < 4096)
    (hl : ∀ l, s.liveLevel r.home r.level = some l → l.outstanding + 1 < 2 ^ 32) :
    recordEnqueue s c r = (launchCounts s r).enqueued c (readyEntry s c r) := by
  have hn : ¬((if TaskRec.counted r then s.liveLevel r.home r.level else none).map fun l => decide (2 ^ 32 ≤ l.outstanding + 1)).getD false = true := by
    split
    · cases h : s.liveLevel r.home r.level with
      | none => exact Bool.false_ne_true
      | some l =>
        have := hl l h
        simp only [Option.map_some, Option.getD_some, decide_eq_true_eq]
        omega
    · exact Bool.false_ne_true
  unfold recordEnqueue
  dsimp only
  rw [if_neg (Nat.not_le.2 hr), if_neg hn]
  unfold launchCounts
  generalize (if TaskRec.counted r = true then s.liveLevel r.home r.level else none) = o
  cases o <;> rfl

theorem recordEnqueue_full {s : State} {c : Nat} {r : TaskRec} (h : 4096 ≤ (s.cluster c).ready.length) :
    recordEnqueue s c r = (s.updCluster c fun x => { x with enqrefuse := x.enqrefuse + 1 }).post (.enqueueRetry c r) := if_pos h

theorem recordEnqueues (s : State) (c : Nat) (r : TaskRec) : let x := s.cluster c
    (x.ready.length < 4096 → (∀ l, s.liveLevel r.home r.level = some l → l.outstanding + 1 < 2 ^ 32) → ∃ (t : State) (e : ReadyRec), exec (.recordEnqueue c r) s = .next t ∧
      (t.cluster c).ready = x.ready ++ [e] ∧ e.pri = r.pri ∧ e.raised = false ∧ e.body = { r with enq := s.ptpTime (clusterDev c) } ∧
      t.mem = s.mem ∧ t.slots = s.slots ∧ (∀ l, s.liveLevel r.home r.level = some l → (t.liveLevel r.home r.level).map Level.outstanding =
        some (if r.source = 1 ∨ r.source = 2 ∨ r.source = 3 then l.outstanding + 1 else l.outstanding))) ∧
    (4096 ≤ x.ready.length → ∃ (t : State), exec (.recordEnqueue c r) s = .next t ∧ (t.cluster c).enqrefuse = x.enqrefuse + 1 ∧
      (t.cluster c).ready = x.ready ∧ t.agenda = s.agenda ++ [{ ins := .enqueueRetry c r }]) ∧
    exec (.enqueueRetry c r) s = .next { s with agenda := s.agenda ++ [{ ins := .recordEnqueue c r }] } := by
  intro x
  refine ⟨fun hr hl => ?_, fun hr => ?_, rfl⟩
  · have hk := levelsOnly_launchCounts s r
    refine ⟨_, readyEntry s c r, congrArg Host.Outcome.next (recordEnqueue_eq hr hl), ?_, rfl, rfl, rfl, ?_, ?_, fun l h => launchCounts_outstanding h⟩
    · rw [State.enqueued_ready, hk]
      rfl
    · exact (congrArg State.mem hk :)
    · exact (congrArg State.slots hk :)
  · exact ⟨_, congrArg Host.Outcome.next (recordEnqueue_full hr), by simp [x], by simp [x], rfl⟩

/-! ## Dispatch, aging (R81, R94, R95) -/

/-- A write on path I may be carried past what is yet unseen (R403): nothing else has changed. -/
def CarriesOnly (s t : State) : Prop := t = { s with unseen := t.unseen, ticket := t.ticket }

section carries
variable {s t : State} (h : CarriesOnly s t)
include h

theorem CarriesOnly.core (k : Nat) : t.core k = s.core k := by rw [h]; rfl
theorem CarriesOnly.cluster (c : Nat) : t.cluster c = s.cluster c := by rw [h]; rfl
theorem CarriesOnly.part (p : Nat) : t.part p = s.part p := by rw [h]; rfl
theorem CarriesOnly.slots : t.slots = s.slots := by rw [h]
theorem CarriesOnly.mem : t.mem = s.mem := by rw [h]
theorem CarriesOnly.agenda : t.agenda = s.agenda := by rw [h]

end carries

theorem carriesOnly_launchCarries (s : State) (core qtail : Nat) : CarriesOnly s (s.launchCarries core qtail) := rfl

theorem carriesOnly_ite (b : Bool) (s : State) (core qtail : Nat) : CarriesOnly s (if b then s.launchCarries core qtail else s) := by
  cases b <;> rfl

/-- A cluster whose ready queue has lost a record. -/
def Cluster.without (x : Cluster) (seq : Nat) : Cluster := { x with ready := x.ready.filter fun q => q.seq != seq }

/-- A task record as a ring holds it, and what its entry knows beside the words. -/
def ringRecord (r : TaskRec) : List W64 := ringHeader 0 r.phase 9 1 :: recordWords r
def recordInfo (r : TaskRec) : EntryInfo := { source := r.source, home := r.home, enq := r.enq, key := r.key, header := r.header }

/-- A cluster's state once the scheduler has taken a record out of its ready queue. -/
def State.taken (s : State) (c seq : Nat) : State := s.updCluster c fun x => x.without seq

theorem State.taken_core (s : State) (c seq k : Nat) : (s.taken c seq).core k = s.core k := rfl
theorem State.taken_cluster (s : State) (c seq n : Nat) : (s.taken c seq).cluster n = if n = c then (s.cluster c).without seq else s.cluster n :=
  State.updCluster_cluster _ _ _ _

theorem State.taken_partOf (s : State) (c seq n : Nat) : (s.taken c seq).partOf n = s.partOf n := by
  rw [State.partOf, State.taken_cluster]
  split
  · rw [‹n = c›]
    rfl
  · rfl

theorem schedulerDispatch_placed {s u : State} {r : ReadyRec} {core : Nat} (hd : dispatchChoice s s.cur = some (r, core))
    (hp : placeEntry (s.taken s.cur r.seq) core r.body.cls r.body.level (ringRecord r.body) (recordInfo r.body) = .ok u) :
    schedulerDispatch s = (if recordLaunched r.body then u.launchCarries core r.body.qtail else u).updCore core fun c =>
      { c with arrived := ((if recordLaunched r.body then u.launchCarries core r.body.qtail else u).now + 1, 8),
               fetchBuf := if recordLaunched r.body then [] else c.fetchBuf } := by
  unfold schedulerDispatch
  dsimp only
  rw [hd]
  change (match placeEntry (s.taken s.cur r.seq) core r.body.cls r.body.level (ringRecord r.body) (recordInfo r.body) with
    | .ok s => _
    | _ => _) = _
  rw [hp]
  cases recordLaunched r.body <;> rfl

theorem schedulerDispatches (s : State) (r : ReadyRec) (core at0 : Nat) : dispatchChoice s s.cur = some (r, core) → let cls := r.body.cls; let w := (s.core core).cls cls
    (s.core core).ringFit cls 9 = some (0, at0) → s.niAllows core r.body.level ((List.range 9).map (fun j => clsBase w + 8 * (at0 + j))) = true →
    (∀ j, j < 9 → s.guarded core (ringOff w (at0 + j)) = false) →
    ∃ (t : State), exec .schedulerDispatch s = .next t ∧ (∀ q ∈ (t.cluster s.cur).ready, q.seq ≠ r.seq) ∧
      (t.core core).tail cls = (at0 + 9) % clsSize w ∧ t.slots = s.slots ∧
      (∀ j, j < 9 → t.read (scratchLoc core (ringOff w (at0 + j))) 8 = ((ringHeader 0 r.body.phase 9 1 :: recordWords r.body).getD j 0).toNat) := by
  intro hd cls w hf hn hg
  have hp := placeEntry_eq (s := s.taken s.cur r.seq) (words := ringRecord r.body) (info := recordInfo r.body) hf
    ((congrFun (congrFun (niAllows_congr (State.taken_core s _ _ core) rfl (State.taken_partOf s _ _ _)) r.body.level) _).trans hn)
  have he : exec .schedulerDispatch s = .next _ := congrArg Host.Outcome.next (schedulerDispatch_placed hd hp)
  obtain ⟨u, hu⟩ : ∃ u, (s.taken s.cur r.seq).enter core cls at0 (ringRecord r.body) (recordInfo r.body) = u := ⟨_, rfl⟩
  obtain ⟨v, hv⟩ : ∃ v, (if recordLaunched r.body then u.launchCarries core r.body.qtail else u) = v := ⟨_, rfl⟩
  have hc : CarriesOnly u v := by
    rw [← hv]
    exact carriesOnly_ite _ _ _ _
  rw [hu, hv] at he
  refine ⟨_, he, fun q hq => ?_, ?_, ?_, fun j hj => ?_⟩
  · rw [State.updCore_cluster', hc.cluster, ← hu, State.enter_cluster, State.taken_cluster, if_pos rfl] at hq
    simpa using (List.mem_filter.1 hq).2
  · rw [State.updCore_core_self]
    refine (congrArg (Core.tail · cls) (hc.core core)).trans ?_
    rw [← hu]
    exact State.enter_tail _ _ _ _ _ _
  · rw [State.updCore_slots, hc.slots, ← hu]
    exact State.enter_slots _ _ _ _ _ _
  · have hm : v.mem = u.mem := hc.mem
    refine (State.read_of_bytes (s := u) fun i _ => ?_).trans ?_
    · rw [State.byte, State.updCore_mem, hm]
      rfl
    · rw [← hu]
      exact State.enter_read (s.taken s.cur r.seq) core cls at0 (ringRecord r.body) (recordInfo r.body) (show 72 ≤ 2 ^ 19 by decide) (fun i hi => hg i hi) hj

theorem agesPriority (s : State) (r : ReadyRec) (n : W64) (hd : s.data = [n]) (hr : (s.cluster s.cur).ready.find? (fun q => q.seq == n.toNat) = some r) :
    ∃ (t : State), exec .priorityAging s = .next t ∧
      (t.cluster s.cur).ready = (s.cluster s.cur).ready.map (fun q => if q.seq = n.toNat ∧ q.raised = false
        then { q with raised := true, pri := Nat.min 3 (q.pri + 1) } else q) ∧ t.slots = s.slots ∧ t.mem = s.mem := by
  have ht : timedRecord s = some r := by rw [timedRecord, hd]; exact hr
  have hn : r.seq = n.toNat := by simpa using List.find?_some hr
  have he : exec .priorityAging s = .next (match timedRecord s with
    | none => s
    | some r => s.updCluster s.cur fun x => { x with ready := x.ready.map fun q =>
        if q.seq = r.seq ∧ !q.raised then { q with raised := true, pri := Nat.min 3 (q.pri + 1) } else q }) := rfl
  rw [ht] at he
  refine ⟨_, he, ?_, rfl, rfl⟩
  simp only [State.updCluster_cluster_self, hn, Bool.not_eq_true']

/-! ## Stealing (R96, R178) -/

/-- A cluster looks for a record to take: it has none, and a core with an idle slot. -/
structure Hungry (s : State) (p k : Nat) : Prop where
  part : (s.cluster s.cur).part = some p
  empty : (s.cluster s.cur).ready = []
  bound : k < 1024
  idle : (s.slot (s.cur * 1024 + k)).st = .idle
  visible : s.coreVisible s.cur (k / 8) = true

/-- The neighbours of a partition a cluster may steal from, in order. -/
def stealNear (s : State) (c p : Nat) : List Nat := ([1, 2, 3, 4].map fun d => routerStep c d).filter fun n => (s.cluster n).part == some p

/-- The record a cluster takes, and from where. -/
def stealFound (s : State) (l : List Nat) : Option (Nat × ReadyRec) :=
  l.findSome? fun n => (stealChoice (s.cluster n).ready).map fun r => (n, r)

/-- A stolen record as it enters the ready queue of the cluster that took it. -/
def stolenEntry (s : State) (r : ReadyRec) : ReadyRec :=
  { r with seq := s.ticket, since := s.now, ask := none, body := { r.body with source := 4, launched := recordLaunched r.body } }

theorem stealProbe_eq {s : State} {p k : Nat} (h : Hungry s p k) : stealProbe s =
    let u := s.postAt (s.now + 512) .stealProbe s.cur
    match stealFound s (stealNear s s.cur p) with
    | none => u.updCluster s.cur fun x => { x with stealfail := x.stealfail + 1 }
    | some (n, r) => (u.taken n r.seq).enqueued s.cur (stolenEntry s r) := by
  have hi : ((List.range 1024).any fun k => (s.slot (s.cur * 1024 + k)).st == .idle && s.coreVisible s.cur (k / 8)) = true :=
    List.any_eq_true.2 ⟨k, List.mem_range.2 h.bound, by rw [h.idle, h.visible]; rfl⟩
  have hn : ¬((s.cluster s.cur).ready ≠ [] ∨ (!((List.range 1024).any fun k => (s.slot (s.cur * 1024 + k)).st == .idle &&
      s.coreVisible s.cur (k / 8))) = true) := by
    rw [hi, h.empty]
    simp
  unfold stealProbe
  dsimp only
  rw [h.part]
  dsimp only
  exact (if_neg hn).trans rfl

theorem stealFound_first {s : State} {c p : Nat} {r : ReadyRec} (hp : (s.cluster (routerStep c 1)).part = some p)
    (hr : stealChoice (s.cluster (routerStep c 1)).ready = some r) : stealFound s (stealNear s c p) = some (routerStep c 1, r) := by
  rw [stealNear, List.map_cons, List.filter_cons_of_pos (by rw [hp]; exact beq_self_eq_true _), stealFound, List.findSome?_cons, hr]
  rfl

theorem stealFound_none {s : State} {c p : Nat} (h : ∀ d, d < 5 → (s.cluster (routerStep c d)).ready = []) : stealFound s (stealNear s c p) = none := by
  refine List.findSome?_eq_none_iff.2 fun n hn => ?_
  obtain ⟨d, hd, rfl⟩ := List.mem_map.1 (List.mem_of_mem_filter hn)
  have h5 : d < 5 := by
    simp only [List.mem_cons, List.not_mem_nil, or_false] at hd
    omega
  rw [h d h5]
  rfl

theorem stealsFirst {s : State} {p k : Nat} (h : Hungry s p k) {r : ReadyRec} : let c := s.cur; let n := routerStep c 1
    (s.cluster n).part = some p → n ≠ c → stealChoice (s.cluster n).ready = some r →
    ∃ (t : State) (e : ReadyRec), exec .stealProbe s = .next t ∧ (t.cluster c).ready = [e] ∧ e.body = { r.body with source := 4, launched := recordLaunched r.body } ∧ e.pri = r.pri ∧
      (t.cluster n).ready = (s.cluster n).ready.filter (fun q => q.seq != r.seq) ∧ t.slots = s.slots := by
  intro c n hp hn hr
  have he := stealProbe_eq h
  dsimp only at he
  rw [stealFound_first hp hr] at he
  refine ⟨_, stolenEntry s r, congrArg Host.Outcome.next he, ?_, rfl, rfl, ?_, rfl⟩
  · rw [State.enqueued_ready, State.taken_cluster, if_neg hn.symm, State.postAt_cluster', h.empty]
    rfl
  · rw [State.enqueued_cluster_other _ _ hn, State.taken_cluster, if_pos rfl]
    rfl

theorem stealsNothing {s : State} {p k : Nat} (h : Hungry s p k) : let c := s.cur
    (∀ d, d < 5 → (s.cluster (routerStep c d)).ready = []) → ∃ (t : State), exec .stealProbe s = .next t ∧
      (t.cluster c).stealfail = (s.cluster c).stealfail + 1 ∧ ({ who := c, ins := .stealProbe } : Op) ∈ Sp.get [] t.timers (s.now + 512) := by
  intro c hd
  have he := stealProbe_eq h
  dsimp only at he
  rw [stealFound_none hd] at he
  refine ⟨_, congrArg Host.Outcome.next he, ?_, opAt_timers s (s.now + 512) { who := c, ins := .stealProbe }⟩
  simp only [State.updCluster_cluster_self, State.postAt_cluster', c]

/-! ## Reports (R176) -/

theorem reportsCluster {s : State} {p : Nat} : let c := s.cur; (s.cluster c).part = some p → ∃ (t : State), exec .clusterReport s = .next t ∧
    Sp.get 0 (t.part p).idle (s.relCluster c) = ((List.range 128).filter fun k => let core := c * 128 + k; let w := (s.core core).cls 0
      clsOn w && (s.slot (core * 8 + clsSlot w)).st == .idle && s.coreVisible c (core % 128)).length ∧
    Sp.get 0 (t.part p).room (s.relCluster c) = 4096 - (s.cluster c).ready.length ∧ Sp.get 0 (t.part p).frames (s.relCluster c) = clusterFrames s c ∧
    ({ who := c, ins := .clusterReport } : Op) ∈ Sp.get [] t.timers (s.now + 1024) ∧ t.slots = s.slots ∧ t.mem = s.mem := by
  intro c hp
  have he : exec .clusterReport s = .next (clusterReport s) := rfl
  unfold clusterReport at he
  dsimp only at he
  rw [hp] at he
  refine ⟨_, he, ?_, ?_, ?_, opAt_timers _ (s.now + 1024) { who := c, ins := .clusterReport }, rfl, rfl⟩
  all_goals simp only [c, State.postAt_part', State.updPart_part_self, Sp.get_set, if_true]
  rw [clusterCores, List.filter_map, List.length_map]
  rfl

/-! ## The launch whose turn it is (R176, R177) -/

theorem placingTurn_head {s : State} {part : Nat} {p : Placing} {l : List Placing} (hq : (s.part part).placing = p :: l)
    (h : p.gang = 0 ∨ (gangCores s (s.part part) p.members).isSome = true) : placingTurn s part = some (0, p) := by
  unfold placingTurn
  dsimp only
  rw [hq, List.length_cons, List.range_succ_eq_map, List.zip_cons_cons]
  exact List.find?_cons_of_pos (by simpa using h)

theorem placed_head {q : Part} {p : Placing} {l : List Placing} (hq : q.placing = p :: l) (n : Nat) :
    (placed q 0 n).placing = if p.units ≤ p.next + n then l else { p with next := p.next + n } :: l := by
  unfold placed
  rw [hq]
  rfl

theorem placed_idle (q : Part) (i n : Nat) : (placed q i n).idle = q.idle := by
  unfold placed
  split <;> rfl

theorem placed_budInj (q : Part) (i n : Nat) : (placed q i n).budInj = q.budInj := by
  unfold placed
  split <;> rfl

/-- What traffic changes of a partition: its use of the budget and the phases that are quiet (R141, R147). -/
def TrafficPart (q r : Part) : Prop := r = { q with useInj := r.useInj, quiet0 := r.quiet0, quiet1 := r.quiet1 }

theorem TrafficPart.trans {q r u : Part} (a : TrafficPart q r) (b : TrafficPart r u) : TrafficPart q u := by
  rw [TrafficPart, b, a]

theorem trafficPart_updPart (s : State) (i p : Nat) {f : Part → Part} (h : ∀ q, TrafficPart q (f q)) : TrafficPart (s.part p) ((s.updPart i f).part p) := by
  rw [State.updPart_part]
  split
  · rw [‹p = i›]
    exact h _
  · rfl

theorem trafficPart_injBytes (s : State) (part p : Nat) : TrafficPart (s.part p) ((s.injBytes part).part p) := trafficPart_updPart _ _ _ fun _ => rfl

theorem trafficPart_inject (s : State) (ni part : Nat) (t : Bool) (p : Nat) : TrafficPart (s.part p) ((s.inject ni part t).part p) :=
  (trafficPart_injBytes { s with nis := (s.inject ni part t).nis } part p).trans (trafficPart_updPart _ _ _ fun _ => rfl)

theorem trafficPart_sendAs (s : State) (ni part : Nat) (t : Option Bool) (o : Op) (p : Nat) :
    TrafficPart (s.part p) ((s.sendAs ni part t o).part p) := by
  cases h : s.injSpent part with
  | true => rw [sendAs_held h]; rfl
  | false =>
    cases t with
    | none => rw [sendAs_uncounted h]; exact trafficPart_injBytes _ _ _
    | some b => rw [sendAs_counted h]; exact trafficPart_inject _ _ _ _ _

/-! ## Units (R95, R176) -/

/-- The record of a launch's next unit, as the Sorting Office sends it. -/
def nextRecord (s : State) (p : Placing) : TaskRec := { Placing.record p with enq := s.ptpTime (s.cur / 32) }

section unit
variable {s : State} {p : Placing} {l : List Placing} (hq : (s.part s.cur).placing = p :: l) (hg : p.gang = 0)
include hq hg

theorem unitPlacement_eq : unitPlacement s = match if p.rest then none else bestCluster (s.part s.cur) with
    | some k => match (clusterCores ((s.part s.cur).clusters.getD k 0)).find? fun k => s.placeable k with
      | some core => ((((s.setPart s.cur (placed { s.part s.cur with idle := Sp.set 0 (s.part s.cur).idle k (Sp.get 0 (s.part s.cur).idle k - 1) } 0 1)).updCore core
          fun c => { c with placed := true }).tick).send (officeNi s.cur) s.cur (nextRecord s p).phase
          { ins := .messageArrival (recordMessage ((s.setPart s.cur (placed { s.part s.cur with
            idle := Sp.set 0 (s.part s.cur).idle k (Sp.get 0 (s.part s.cur).idle k - 1) } 0 1)).updCore core fun c => { c with placed := true }) s.cur core (nextRecord s p)) })
      | none => s.setPart s.cur { s.part s.cur with idle := Sp.set 0 (s.part s.cur).idle k 0 }
    | none => readyPlacement (s.setPart s.cur { s.part s.cur with placing := (s.part s.cur).placing.set 0 { p with rest := true } }) s.cur 0 (nextRecord s p) := by
  unfold unitPlacement
  dsimp only
  rw [placingTurn_head hq (.inl hg)]
  dsimp only
  rw [if_neg (not_not_intro hg)]
  rfl

theorem placesUnit {i core : Nat} (hr : p.rest = false) (hb : bestCluster (s.part s.cur) = some i)
    (hc : (clusterCores ((s.part s.cur).clusters.getD i 0)).find? (fun k => s.placeable k) = some core) : let q := s.part s.cur
    ∃ (t : State) (m : Msg), exec .unitPlacement s = .next t ∧ (t.part s.cur).placing = (if p.units ≤ p.next + 1 then l else { p with next := p.next + 1 } :: l) ∧
      (t.core core).placed = true ∧ t.mem = s.mem ∧ Sp.get 0 (t.part s.cur).idle i = Sp.get 0 q.idle i - 1 ∧
      Sends s t s.cur { ins := .messageArrival m } ∧ m.dst = core ∧ m.isTask = true ∧ m.body = nextRecord s p := by
  intro q
  have he : exec .unitPlacement s = .next _ := congrArg Host.Outcome.next (unitPlacement_eq hq hg)
  simp only [hr, Bool.false_eq_true, if_false, hb, hc] at he
  obtain ⟨q', hq'⟩ : ∃ q', placed { q with idle := Sp.set 0 q.idle i (Sp.get 0 q.idle i - 1) } 0 1 = q' := ⟨_, rfl⟩
  obtain ⟨u, hu⟩ : ∃ u, (s.setPart s.cur q').updCore core (fun c => { c with placed := true }) = u := ⟨_, rfl⟩
  have hpart : u.part s.cur = q' := by rw [← hu, State.updCore_part', State.setPart_part_self]
  have hcore : (u.core core).placed = true := by rw [← hu, State.updCore_core_self]
  have hmem : u.mem = s.mem := by rw [← hu]; rfl
  have he : exec .unitPlacement s = .next (u.tick.sendAs (officeNi s.cur) s.cur (some (nextRecord s p).phase)
      { ins := .messageArrival (recordMessage u s.cur core (nextRecord s p)) }) := by
    rw [he, ← hu, ← hq']
    rfl
  obtain ⟨-, hm, hc, -⟩ := aside_sendAs u.tick (officeNi s.cur) s.cur (some (nextRecord s p).phase) { ins := .messageArrival (recordMessage u s.cur core (nextRecord s p)) }
  have ht := trafficPart_sendAs u.tick (officeNi s.cur) s.cur (some (nextRecord s p).phase) { ins := .messageArrival (recordMessage u s.cur core (nextRecord s p)) } s.cur
  have hpart' : u.tick.part s.cur = q' := hpart
  rw [hpart'] at ht
  refine ⟨_, _, he, ?_, ?_, ?_, ?_, (sendAs_sends u.tick _ _ _ rfl).of_budInj ?_, rfl, rfl, rfl⟩
  · rw [ht, ← hq']
    exact placed_head (q := { q with idle := Sp.set 0 q.idle i (Sp.get 0 q.idle i - 1) }) hq 1
  · rw [State.core, hc]
    exact hcore
  · rw [hm]
    exact hmem
  · rw [ht, ← hq']
    exact (congrArg (Sp.get 0 · i) (placed_idle _ 0 1)).trans ((Sp.get_set _ _ _ _ _).trans (if_pos rfl))
  · rw [hpart', ← hq']
    exact placed_budInj _ _ _

theorem lowersCluster {i : Nat} (hr : p.rest = false) (hb : bestCluster (s.part s.cur) = some i)
    (hc : (clusterCores ((s.part s.cur).clusters.getD i 0)).find? (fun k => s.placeable k) = none) :
    ∃ (t : State), exec .unitPlacement s = .next t ∧ (t.part s.cur).placing = (s.part s.cur).placing ∧ Sp.get 0 (t.part s.cur).idle i = 0 ∧ t.agenda = s.agenda := by
  have he : exec .unitPlacement s = .next _ := congrArg Host.Outcome.next (unitPlacement_eq hq hg)
  simp only [hr, Bool.false_eq_true, if_false, hb, hc] at he
  refine ⟨_, he, ?_, ?_, rfl⟩
  · rw [State.setPart_part_self]
  · rw [State.setPart_part_self]
    exact (Sp.get_set 0 (s.part s.cur).idle i i 0).trans (if_pos rfl)

theorem placesReady (hr : p.rest = true ∨ bestCluster (s.part s.cur) = none) : let q := s.part s.cur
    ∃ (t : State), exec .unitPlacement s = .next t ∧
      (t.part s.cur).placing = (if p.units ≤ p.next + 1 then l else { p with next := p.next + 1, rest := true } :: l) ∧
      t.agenda = s.agenda ++ [{ ins := .recordEnqueue (q.clusters.getD (q.rr % Nat.max 1 q.clusters.length) 0) (nextRecord s p) }] := by
  intro q
  have he : exec .unitPlacement s = .next _ := congrArg Host.Outcome.next (unitPlacement_eq hq hg)
  have hn : (if p.rest then none else bestCluster (s.part s.cur)) = none := by
    rcases hr with h | h
    · rw [h]; rfl
    · rw [h]; exact ite_self _
  rw [hn] at he
  dsimp only [readyPlacement] at he
  rw [State.setPart_part_self] at he
  refine ⟨_, he, ?_, rfl⟩
  rw [State.post_part', State.setPart_part_self]
  exact placed_head (p := { p with rest := true }) (by simp only [hq]; rfl) 1

end unit

/-! ## Gangs (R177, R457) -/

theorem nodup_clusterCores (c : Nat) : (clusterCores c).Nodup := by
  exact List.Nodup.map (fun a b h => Nat.add_left_cancel h) List.nodup_range

theorem mem_clusterCores {c k : Nat} (h : k ∈ clusterCores c) : k / 128 = c := by
  obtain ⟨j, hj, rfl⟩ := List.mem_map.1 h
  have := List.mem_range.1 hj
  omega

/-- The members of a gang run on different cores. -/
theorem gangCores_nodup {s : State} {q : Part} {g : Nat} {cores : List Nat} (h : gangCores s q g = some cores) : cores.Nodup := by
  have hf (c : Nat) : ((clusterCores c).filter fun k => s.placeable k).Nodup := (nodup_clusterCores c).filter _
  unfold gangCores at h
  dsimp only at h
  split at h
  next c _ =>
    cases h
    exact (hf c).sublist (List.take_sublist _ _)
  next =>
    obtain ⟨c, -, hc⟩ := List.exists_of_findSome?_eq_some h
    obtain ⟨d, -, hd⟩ := List.exists_of_findSome?_eq_some hc
    split at hd
    next hn =>
      cases hd
      refine (List.Nodup.append (hf c) (hf d) fun k hkc hkd => hn.2.1 ?_).sublist (List.take_sublist _ _)
      rw [← mem_clusterCores (List.mem_of_mem_filter hkd), mem_clusterCores (List.mem_of_mem_filter hkc)]
    next => cases hd

/-- What the placing of a gang leaves alone: the marks and counts of the cores beside those of `l`, and all it does to partitions is traffic. -/
structure GangBeside (l : List Nat) (s t : State) : Prop where
  placed : ∀ k, k ∉ l → (t.core k).placed = (s.core k).placed
  count : ∀ k, k ∉ l → (t.core k).count = (s.core k).count
  agenda : ∀ o ∈ s.agenda, o ∈ t.agenda
  part : ∀ p, TrafficPart (s.part p) (t.part p)

theorem GangBeside.refl (s : State) : GangBeside [] s s := ⟨fun _ _ => rfl, fun _ _ => rfl, fun _ h => h, fun _ => rfl⟩

theorem GangBeside.trans {l m : List Nat} {s t u : State} (a : GangBeside l s t) (b : GangBeside m t u) : GangBeside (l ++ m) s u where
  placed k h := (b.placed k fun hm => h (List.mem_append_right _ hm)).trans (a.placed k fun hl => h (List.mem_append_left _ hl))
  count k h := (b.count k fun hm => h (List.mem_append_right _ hm)).trans (a.count k fun hl => h (List.mem_append_left _ hl))
  agenda o h := b.agenda o (a.agenda o h)
  part p := (a.part p).trans (b.part p)

theorem GangBeside.mono {l m : List Nat} {s t : State} (h : GangBeside l s t) (hm : ∀ k ∈ l, k ∈ m) : GangBeside m s t :=
  ⟨fun k hk => h.placed k fun hl => hk (hm k hl), fun k hk => h.count k fun hl => hk (hm k hl), h.agenda, h.part⟩

theorem gangBeside_setPort (s : State) (core i : Nat) (p : Port) : GangBeside [] s (s.setPort core i p) := by
  have hc (k : Nat) : ((s.setPort core i p).core k).placed = (s.core k).placed ∧ ((s.setPort core i p).core k).count = (s.core k).count := by
    rw [State.setPort, State.setCore_core]
    split
    · rw [‹k = core›]
      exact ⟨rfl, rfl⟩
    · exact ⟨rfl, rfl⟩
  exact ⟨fun k _ => (hc k).1, fun k _ => (hc k).2, fun _ h => h, fun _ => rfl⟩

theorem gangBeside_presetPipes (cores : List Nat) (phase : Bool) (l : List (Nat × Nat × Nat × Nat)) (s : State) :
    GangBeside [] s (presetPipes s cores phase l) := by
  induction l generalizing s with
  | nil => exact .refl s
  | cons e l ih => exact (gangBeside_setPort _ _ _ _).trans ((gangBeside_setPort _ _ _ _).trans (ih _))

theorem gangBeside_exchange (s : State) (src dst part : Nat) (t : Bool) : GangBeside [] s (s.exchange src dst part t) :=
  ⟨fun _ _ => rfl, fun _ _ => rfl, fun _ h => h, fun p => trafficPart_inject s src part t p⟩

theorem gangBeside_updCore (s : State) (k : Nat) (f : Core → Core) : GangBeside [k] s (s.updCore k f) := by
  have hc (j : Nat) (h : j ∉ [k]) : (s.updCore k f).core j = s.core j :=
    (State.updCore_core _ _ _ _).trans (if_neg fun e => h (List.mem_singleton.2 e))
  exact ⟨fun j h => congrArg Core.placed (hc j h), fun j h => congrArg Core.count (hc j h), fun _ h => h, fun _ => rfl⟩

theorem gangBeside_postOp (s : State) (o : Op) : GangBeside [] s (s.postOp o) :=
  ⟨fun _ _ => rfl, fun _ _ => rfl, fun _ h => List.mem_append_left _ h, fun _ => rfl⟩

theorem StoresOnly.gangBeside {s t : State} (h : StoresOnly s t) : GangBeside [] s t := by
  refine ⟨fun k _ => ?_, fun k _ => ?_, fun o => h.mem_agenda, fun p => ?_⟩
  · rw [h.core]
  · rw [h.core]
  · rw [h.part]
    rfl

theorem CarriesOnly.gangBeside {s t : State} (h : CarriesOnly s t) : GangBeside [] s t := by
  refine ⟨fun k _ => ?_, fun k _ => ?_, fun o ho => ?_, fun p => ?_⟩
  · rw [h.core]
  · rw [h.core]
  · rwa [h.agenda]
  · rw [h.part]
    rfl

theorem gangBeside_placeEntry {s t : State} {k cls : Nat} {level : W64} {words : List W64} {info : EntryInfo}
    (h : placeEntry s k cls level words info = .ok t) : GangBeside [k] s t := by
  obtain ⟨u, at0, hu, rfl⟩ := placeEntry_ok h
  exact hu.gangBeside.trans (gangBeside_updCore _ _ _)

/-- A member of a gang has its record, or ended with an error where a region of its core refused the entry. -/
def MemberPlaced (s t : State) (p : Placing) (k : Nat) : Prop :=
  (t.core k).placed = true ∨ (t.core k).count.classdrop = (s.core k).count.classdrop + 1 ∧ endedOp p.body.home p.body.level 1 ∈ t.agenda

theorem gangRecords_cons {s t : State} {p : Placing} {k i : Nat} {l : List Nat} (h : gangRecords s p (k :: l) i = some t) :
    ∃ u, gangRecords u p l (i + 1) = some t ∧ GangBeside [k] s u ∧ MemberPlaced s u p k := by
  have hx : GangBeside [] s (s.exchange (officeNi p.body.home) k p.body.home p.body.phase) := gangBeside_exchange _ _ _ _ _
  rw [gangRecords] at h
  dsimp only at h
  split at h
  next u hu =>
    refine ⟨_, h, ?_, .inl (congrArg Core.placed (State.updCore_core_self _ _ _))⟩
    exact (((hx.trans (gangBeside_placeEntry hu)).trans (carriesOnly_launchCarries u k p.body.qtail).gangBeside).trans
      (gangBeside_updCore _ k _)).mono (by simp)
  next =>
    refine ⟨_, h, ((hx.trans (gangBeside_updCore _ k _)).trans (gangBeside_postOp _ _)).mono (by simp), .inr ⟨?_, List.mem_append_right _ (.head _)⟩⟩
    have hc := State.updCore_core_self (s.exchange (officeNi p.body.home) k p.body.home p.body.phase) k fun c =>
      { c with count := { c.count with classdrop := c.count.classdrop + 1 } }
    exact congrArg (fun c : Core => c.count.classdrop) hc
  next => cases h

theorem gangRecords_placed {p : Placing} {t : State} {l : List Nat} (hl : l.Nodup) (s : State) (i : Nat) (h : gangRecords s p l i = some t) :
    GangBeside l s t ∧ ∀ k ∈ l, MemberPlaced s t p k := by
  induction l generalizing s i with
  | nil =>
    cases h
    exact ⟨.refl _, fun _ hk => absurd hk List.not_mem_nil⟩
  | cons k l ih =>
    obtain ⟨u, hu, hb, hk⟩ := gangRecords_cons h
    obtain ⟨hkl, hl⟩ := List.nodup_cons.1 hl
    obtain ⟨hc, hm⟩ := ih hl u (i + 1) hu
    refine ⟨hb.trans hc, fun j hj => ?_⟩
    rcases List.mem_cons.1 hj with rfl | hj
    · refine hk.imp (fun h => (hc.placed j hkl).trans h) fun ⟨hd, ha⟩ => ⟨?_, hc.agenda _ ha⟩
      rw [hc.count j hkl, hd]
    · refine (hm j hj).imp id fun ⟨hd, ha⟩ => ⟨?_, ha⟩
      rw [hd, hb.count j fun e => hkl (List.mem_singleton.1 e ▸ hj)]

/-! ## The start of a gang (R177) -/

theorem lowerIdle_eq (s : State) (part : Nat) (l : List Nat) : lowerIdle s part l = { s with parts := (lowerIdle s part l).parts } := by
  induction l generalizing s with
  | nil => rfl
  | cons k l ih => exact (ih _).trans rfl

theorem lowerIdle_placing (s : State) (part : Nat) (l : List Nat) : ((lowerIdle s part l).part part).placing = (s.part part).placing := by
  induction l generalizing s with
  | nil => rfl
  | cons k l ih =>
    refine (ih _).trans ?_
    rw [State.updPart_part_self]

theorem gangPlacement_eq {s s1 : State} {p : Placing} {l : List Placing} {cores : List Nat} (hq : (s.part s.cur).placing = p :: l) (hg : p.gang ≠ 0)
    (hc : gangCores s (s.part s.cur) p.members = some cores)
    (hr : gangRecords (presetPipes s cores p.body.phase (p.pipes.filter fun e => decide (e.1 < cores.length ∧ e.2.2.1 < cores.length))) p cores 0 = some s1) :
    gangPlacement s = (lowerIdle s1 s.cur cores).updPart s.cur fun q => placed q 0 p.members := by
  unfold gangPlacement
  dsimp only
  rw [placingTurn_head hq (.inr (by rw [hc]; rfl))]
  dsimp only
  rw [if_neg hg, hc]
  dsimp only
  rw [hr]

theorem placesGang {s s1 : State} {p : Placing} {l : List Placing} {cores : List Nat} (hq : (s.part s.cur).placing = p :: l) (hg : p.gang ≠ 0)
    (hc : gangCores s (s.part s.cur) p.members = some cores)
    (hr : gangRecords (presetPipes s cores p.body.phase (p.pipes.filter fun e => decide (e.1 < cores.length ∧ e.2.2.1 < cores.length))) p cores 0 = some s1) :
    ∃ (t : State), exec .gangPlacement s = .next t ∧ t.mem = s1.mem ∧ (∀ k ∈ cores, (t.core k).placed = true ∨
      (t.core k).count.classdrop = (s.core k).count.classdrop + 1 ∧ endedOp p.body.home p.body.level 1 ∈ t.agenda) ∧
      (t.part s.cur).placing = if p.units ≤ p.next + p.members then l else { p with next := p.next + p.members } :: l := by
  have hp := gangBeside_presetPipes cores p.body.phase (p.pipes.filter fun e => decide (e.1 < cores.length ∧ e.2.2.1 < cores.length)) s
  obtain ⟨hb, hm⟩ := gangRecords_placed (gangCores_nodup hc) _ 0 hr
  have hw := lowerIdle_eq s1 s.cur cores
  have hcore (k : Nat) : ((lowerIdle s1 s.cur cores).updPart s.cur fun q => placed q 0 p.members).core k = s1.core k := by
    rw [State.updPart_core', hw]
    rfl
  have hag : ((lowerIdle s1 s.cur cores).updPart s.cur fun q => placed q 0 p.members).agenda = s1.agenda := by
    rw [State.updPart_agenda, hw]
  refine ⟨_, congrArg Host.Outcome.next (gangPlacement_eq hq hg hc hr), ?_, fun k hk => ?_, ?_⟩
  · rw [State.updPart_mem, hw]
  · rw [hcore, hag, ← hp.count k List.not_mem_nil]
    exact hm k hk
  · rw [State.updPart_part_self]
    have ht : TrafficPart (s.part s.cur) (s1.part s.cur) := (hp.part _).trans (hb.part _)
    exact placed_head ((lowerIdle_placing _ _ _).trans ((congrArg Part.placing ht).trans hq)) _

/-- Settles O41: each event of the scheduler and of the placement by the equation of its function. -/
theorem schedulerEvents : Obligations.SchedulerEvents := by
  refine ⟨recordEnqueues, schedulerDispatches, agesPriority, fun s p k => ?_, fun s p k => ?_, fun s p => reportsCluster, fun s p l => ?_⟩
  · intro c n hp hr hk hi hv hn hne r hs
    exact stealsFirst ⟨hp, hr, hk, hi, hv⟩ hn hne hs
  · intro c hp hr hk hi hv hn
    exact stealsNothing ⟨hp, hr, hk, hi, hv⟩ hn
  · intro q hq next rest
    refine ⟨fun i core hg hr hb hc => ?_, fun i hg hr hb hc => lowersCluster hq hg hr hb hc, fun hg hr => ?_, fun cores s1 => ?_⟩
    · obtain ⟨t, m, he, hp, hcore, hm, hi, hs, hd, hk, hn⟩ := placesUnit hq hg hr hb hc
      exact ⟨t, m, he, hp, hcore, hm, hi, hs, hd, hk, by rw [hn]; exact ⟨rfl, rfl, rfl⟩⟩
    · obtain ⟨t, he, hp, ha⟩ := placesReady hq hg hr
      exact ⟨t, nextRecord s p, he, hp, ⟨rfl, rfl, rfl⟩, ha⟩
    · intro g hc hg _ hr
      exact placesGang hq hg hc hr

end Sys2Proof.Machine
end

section
/-! SUPPORT. Messages on their way and at their home, and the routes of streams (R79 to R84, R137, R140, R328 to R330, R412, R416, R457). -/

namespace Sys2Proof.Machine
open Sys2Proof

/-! ## Injection (R328) -/

theorem messageInject_placed {s : State} {m : Msg} {core cls : Nat} (hp : s.placeOf m.part m.place = some (core, cls))
    (hr : senderReaches s m (bits m.place 63 54) = true) :
    messageInject s m = s.send m.src m.part m.body.phase { ins := .messageArrival { m with dst := core, cls := cls } } := by
  rw [messageInject, if_pos hr, hp]

theorem messageInject_lost {s : State} {m : Msg} (h : s.placeOf m.part m.place = none ∨ senderReaches s m (bits m.place 63 54) = false) :
    messageInject s m = (messageDone s m (some causeAddr)).postOp (endedOp m.body.home m.body.level 0) := by
  have hn : (if senderReaches s m (bits m.place 63 54) then s.placeOf m.part m.place else none) = none := by
    rcases h with h | h
    · rw [h]; exact ite_self _
    · rw [h]; rfl
  rw [messageInject, hn]

section done
variable {s : State} {m : Msg} (ht : m.tag ≠ 0) (ha : Sp.find s.assembly m.tag = none)
include ht ha

theorem messageDone_acknowledged : messageDone s m none = s.post (.accessAcknowledge m.slot m.sgen m.tag) := by
  unfold messageDone
  rw [if_neg ht]
  dsimp only
  rw [ha]
  rfl

theorem messageDone_refused (c : Nat) : messageDone s m (some c) = s.post (.refusalArrival m.slot m.sgen m.tag c m.place) := by
  unfold messageDone
  rw [if_neg ht]
  dsimp only
  rw [ha]
  rfl

end done

/-- What a message's injection counts at its NI (R141). -/
theorem injected_sent (s : State) (ni part : Nat) (t : Bool) (o : Op) :
    (t = false → (((s.inject ni part t).postOp o).ni ni).sent0 = (s.ni ni).sent0 + 1) ∧
    (t = true → (((s.inject ni part t).postOp o).ni ni).sent1 = (s.ni ni).sent1 + 1) := by
  have h : ((s.inject ni part t).postOp o).ni ni = (s.inject ni part t).ni ni := rfl
  rw [h, inject_ni]
  cases t <;> exact ⟨fun e => by cases e <;> rfl, fun e => by cases e <;> rfl⟩

theorem injectsHeld (s : State) (m : Msg) (core cls : Nat) (hp : s.placeOf m.part m.place = some (core, cls))
    (hr : senderReaches s m (bits m.place 63 54) = true) (hs : s.injSpent m.part = true) :
    exec (.messageInjection m) s = .next { s with agenda := s.agenda ++ [
      { ins := .messageArrival { m with dst := core, cls := cls }, inj := some (m.src, m.part, some m.body.phase) }] } :=
  congrArg Host.Outcome.next ((messageInject_placed hp hr).trans (sendAs_held hs _ _ _))

theorem injectsSent (s : State) (m : Msg) (core cls : Nat) (hp : s.placeOf m.part m.place = some (core, cls))
    (hr : senderReaches s m (bits m.place 63 54) = true) (hs : s.injSpent m.part = false) : ∃ (t : State), exec (.messageInjection m) s = .next t ∧
      Answers t { ins := .messageArrival { m with dst := core, cls := cls } } ∧ t.mem = s.mem ∧ t.slots = s.slots ∧
      (m.body.phase = false → (t.ni m.src).sent0 = (s.ni m.src).sent0 + 1) ∧ (m.body.phase = true → (t.ni m.src).sent1 = (s.ni m.src).sent1 + 1) :=
  ⟨_, congrArg Host.Outcome.next ((messageInject_placed hp hr).trans (sendAs_counted hs _ _ _)), List.getLast?_concat, rfl, rfl, injected_sent _ _ _ _ _⟩

theorem injectsLost (s : State) (m : Msg) (h : s.placeOf m.part m.place = none ∨ senderReaches s m (bits m.place 63 54) = false) (ht : m.tag ≠ 0)
    (ha : Sp.find s.assembly m.tag = none) : ∃ (t : State), exec (.messageInjection m) s = .next t ∧
      t.agenda = s.agenda ++ [{ ins := .refusalArrival m.slot m.sgen m.tag 0x16 m.place }, endedOp m.body.home m.body.level 0] ∧ t.mem = s.mem := by
  have he : exec (.messageInjection m) s = .next _ := congrArg Host.Outcome.next (messageInject_lost h)
  rw [messageDone_refused ht ha] at he
  exact ⟨_, he, List.append_assoc _ _ _, rfl⟩

/-! ## Arrival (R79, R81, R412, R416) -/

/-- The partition a message has at its core's device, and the owner of its core's cluster. -/
def State.mappedPart (s : State) (m : Msg) : Nat := s.mapPart m.part (clusterDev (coreCluster m.dst))
def State.dstOwner (s : State) (m : Msg) : Nat := s.partOf (coreCluster m.dst)

/-- A message reaches the device of its core: an entry maps its partition, and a link goes there (R409, R410). -/
structure Comes (s : State) (m : Msg) : Prop where
  mapped : s.mappedPart m ≠ noPart
  reached : senderReaches s m (clusterDev (coreCluster m.dst)) = true

/-- A message is taken to its core's ring: it comes, for the cluster's owner, which is not being reset. -/
structure Admitted (s : State) (m : Msg) : Prop where
  comes : Comes s m
  owned : s.mappedPart m = s.dstOwner m
  steady : (s.part (s.dstOwner m)).resetting = false

theorem messageRefused_eq (s : State) (m : Msg) : messageRefused s m =
    if s.mappedPart m = noPart ∨ !senderReaches s m (clusterDev (coreCluster m.dst)) then some causeAddr
    else if s.mappedPart m ≠ s.dstOwner m then some causeProt
    else if (s.part (s.dstOwner m)).resetting then some causeAddr else none := rfl

theorem not_comes_iff (s : State) (m : Msg) : ¬Comes s m ↔ s.mappedPart m = noPart ∨ (!senderReaches s m (clusterDev (coreCluster m.dst))) = true := by
  constructor
  · intro h
    by_contra hn
    rw [not_or, Bool.not_eq_true, Bool.not_eq_false'] at hn
    exact h ⟨hn.1, hn.2⟩
  · rintro (h | h) hc
    · exact hc.mapped h
    · rw [hc.reached] at h
      cases h

theorem messageRefused_unreached {s : State} {m : Msg} (h : ¬Comes s m) : messageRefused s m = some 0x16 := by
  rw [messageRefused_eq, if_pos ((not_comes_iff s m).1 h)]
  rfl

theorem messageRefused_comes {s : State} {m : Msg} (h : Comes s m) : messageRefused s m =
    if s.mappedPart m ≠ s.dstOwner m then some 0x04 else if (s.part (s.dstOwner m)).resetting then some 0x16 else none := by
  rw [messageRefused_eq, if_neg fun hn => (not_comes_iff s m).2 hn h]
  rfl

theorem messageRefused_foreign {s : State} {m : Msg} (h : Comes s m) (hp : s.mappedPart m ≠ s.dstOwner m) : messageRefused s m = some 0x04 := by
  rw [messageRefused_comes h, if_pos hp]

theorem messageRefused_resetting {s : State} {m : Msg} (h : Comes s m) (hp : s.mappedPart m = s.dstOwner m)
    (hr : (s.part (s.dstOwner m)).resetting = true) : messageRefused s m = some 0x16 := by
  rw [messageRefused_comes h, if_neg (not_not_intro hp), if_pos hr]

theorem messageRefused_admitted {s : State} {m : Msg} (h : Admitted s m) : messageRefused s m = none := by
  rw [messageRefused_comes h.comes, if_neg (not_not_intro h.owned), h.steady]
  rfl

theorem messageArrive_refused {s : State} {m : Msg} {c : Nat} (h : messageRefused s m = some c) (hg : m.gen = 0) :
    messageArrive s m = (messageDone (s.deliver m.dst m.body.phase) m (some c)).postOp (endedOp m.body.home m.body.level 0) := by
  unfold messageArrive
  dsimp only
  rw [h]
  exact if_neg (not_not_intro hg)

theorem refusesMessage (s : State) (m : Msg) (c : Nat) (h : messageRefused s m = some c) (hg : m.gen = 0) (ht : m.tag ≠ 0)
    (ha : Sp.find s.assembly m.tag = none) : ∃ (t : State), exec (.messageArrival m) s = .next t ∧ t.mem = s.mem ∧ t.cores = s.cores ∧ t.slots = s.slots ∧
      t.agenda = s.agenda ++ [{ ins := .refusalArrival m.slot m.sgen m.tag c m.place }, endedOp m.body.home m.body.level 0] := by
  have he : exec (.messageArrival m) s = .next _ := congrArg Host.Outcome.next (messageArrive_refused h hg)
  rw [messageDone_refused (s := s.deliver m.dst m.body.phase) ht ha] at he
  exact ⟨_, he, rfl, rfl, rfl, List.append_assoc _ _ _⟩

/-- A message has taken its turn at its core in this cycle. -/
def State.arriving (s : State) (m : Msg) : State := s.updCore m.dst fun c => { c with arrived := (s.now + 1, arrivalRank s m) }

theorem State.arriving_core (s : State) (m : Msg) : (s.arriving m).core m.dst = { s.core m.dst with arrived := (s.now + 1, arrivalRank s m) } :=
  State.updCore_core_self _ _ _

theorem State.arriving_guarded (s : State) (m : Msg) (off : Nat) : (s.arriving m).guarded m.dst off = s.guarded m.dst off := by
  rw [State.guarded, State.arriving_core]
  rfl

theorem State.arriving_niAllows (s : State) (m : Msg) : (s.arriving m).niAllows m.dst = s.niAllows m.dst := by
  funext level offs
  unfold State.niAllows State.protAllows
  rw [State.arriving_core]
  rfl

theorem State.arriving_ringFit (s : State) (m : Msg) (n : Nat) : ((s.arriving m).core m.dst).ringFit m.cls n = (s.core m.dst).ringFit m.cls n := by
  rw [State.arriving_core]
  rfl

/-- What an entry of a message knows beside its words. -/
def messageInfo (s : State) (m : Msg) : EntryInfo :=
  { level := m.body.level, home := m.body.home, corr := m.body.corr, pool := m.body.pool, key := m.body.key, header := m.body.header,
    source := m.body.source, enq := s.ptpTime (clusterDev (coreCluster m.dst)) }

/-- The words of an active message's entry (R80, R327). -/
def messageWords (m : Msg) : List W64 := [ringHeader m.gen m.body.phase 4 2, m.body.pc.setWidth 64, m.body.args.getD 0 0, m.body.args.getD 1 0]

/-- A core whose fetch buffer has lost the lines a message's sender has stored to (R197). -/
def Core.refetches (c : Core) (lines : List Nat) : Core := { c with fetchBuf := c.fetchBuf.filter fun l => !lines.contains l.1 }

/-- A core at which a message was dropped (R81, R146). -/
def Core.drops (c : Core) (m : Msg) : Core :=
  { c with count := { c.count with classdrop := c.count.classdrop + 1 }, placed := c.placed && !(m.isTask && m.cls == 0) }

section arrival
variable {s : State} {m : Msg} (hm : Admitted s m) (hk : m.isTask = false)
include hm hk

theorem messageArrive_bound (hc : clsOn ((s.core m.dst).cls m.cls) = true) : messageArrive s m =
    match placeEntry (s.arriving m) m.dst m.cls m.body.level (messageWords m) (messageInfo (s.arriving m) m) with
    | .full => (s.arriving m).postAt (s.now + Nat.min 4096 (64 * 2 ^ Nat.min m.tries 6)) (.messageRetry { m with tries := m.tries + 1 })
    | .refused =>
      let u := messageDone (((s.arriving m).deliver m.dst m.body.phase).updCore m.dst fun c => c.drops m) m none
      if m.gen ≠ 0 then u else u.postOp (endedOp m.body.home m.body.level 1)
    | .ok u => messageDone ((u.updCore m.dst fun c => c.refetches m.lines).deliver m.dst m.body.phase) m none := by
  unfold messageArrive
  dsimp only
  rw [messageRefused_admitted hm]
  dsimp only
  rw [if_neg (by rw [hc]; exact Bool.false_ne_true)]
  cases m
  dsimp only at hk
  subst hk
  rfl

theorem messageArrive_unbound (hc : clsOn ((s.core m.dst).cls m.cls) = false) (hg : m.gen = 0) : messageArrive s m =
    (messageDone (((s.arriving m).deliver m.dst m.body.phase).updCore m.dst fun c => c.drops m) m none).postOp
      (endedOp m.body.home m.body.level 0) := by
  unfold messageArrive
  dsimp only
  rw [messageRefused_admitted hm]
  dsimp only
  rw [if_pos (by rw [hc]; rfl)]
  exact if_neg (by rw [hk, hg]; simp)

theorem placesMessage {at0 : Nat} : let c := s.core m.dst; let w := c.cls m.cls
    clsOn w = true → m.tag ≠ 0 → Sp.find s.assembly m.tag = none → c.ringFit m.cls 4 = some (0, at0) →
    (∀ j, j < 4 → s.guarded m.dst (ringOff w (at0 + j)) = false) →
    s.niAllows m.dst m.body.level ((List.range 4).map (fun j => clsBase w + 8 * (at0 + j))) = true →
    ∃ (t : State), exec (.messageArrival m) s = .next t ∧ (t.core m.dst).tail m.cls = (at0 + 4) % clsSize w ∧
      (t.core m.dst).head m.cls = c.head m.cls ∧ t.slots = s.slots ∧
      (∀ j, j < 4 → t.read (scratchLoc m.dst (ringOff w (at0 + j))) 8 = ([ringHeader m.gen m.body.phase 4 2, m.body.pc.setWidth 64,
        m.body.args.getD 0 0, m.body.args.getD 1 0].getD j (0 : W64)).toNat) ∧
      ({ ins := .accessAcknowledge m.slot m.sgen m.tag } : Op) ∈ t.agenda := by
  intro c w hc ht ha hf hg hn
  have hw : ((s.arriving m).core m.dst).cls m.cls = w := by rw [State.arriving_core]; rfl
  have hp := placeEntry_eq (s := s.arriving m) (words := messageWords m) (info := messageInfo (s.arriving m) m) ((State.arriving_ringFit s m 4).trans hf)
    (by rw [State.arriving_niAllows, hw]; exact hn)
  obtain ⟨u, hu⟩ : ∃ u, (s.arriving m).enter m.dst m.cls at0 (messageWords m) (messageInfo (s.arriving m) m) = u := ⟨_, rfl⟩
  have he : exec (.messageArrival m) s = .next _ := congrArg Host.Outcome.next (messageArrive_bound hm hk hc)
  rw [hp, hu] at he
  dsimp only at he
  have hasm : u.assembly = s.assembly := by
    rw [← hu]
    exact State.enter_assembly _ _ _ _ _ _
  rw [messageDone_acknowledged ht (by rw [← ha, ← hasm]; rfl)] at he
  have hcore := State.updCore_core_self u m.dst fun c => c.refetches m.lines
  have htail : (u.core m.dst).tail m.cls = (at0 + 4) % clsSize w := by
    rw [← hw, ← hu, State.enter_tail]
    rfl
  have hhead : (u.core m.dst).head m.cls = c.head m.cls := by
    rw [← hu, State.enter_head, State.arriving_core]
    rfl
  refine ⟨_, he, (congrArg (Core.tail · m.cls) hcore).trans htail, (congrArg (Core.head · m.cls) hcore).trans hhead, ?_, fun j hj => ?_,
    List.mem_append_right _ (.head _)⟩
  · have h : u.slots = s.slots := by
      rw [← hu]
      exact State.enter_slots _ _ _ _ _ _
    exact h
  · refine Eq.trans (State.read_of_bytes (s := u) fun _ _ => rfl) ?_
    rw [← hu, ← hw]
    exact State.enter_read (s.arriving m) m.dst m.cls at0 (messageWords m) _ (show 32 ≤ 2 ^ 19 by decide)
      (fun i hi => by rw [State.arriving_guarded, hw]; exact hg i hi) hj

theorem retriesMessage : let c := s.core m.dst
    clsOn (c.cls m.cls) = true → c.ringFit m.cls 4 = none → exec (.messageArrival m) s =
      .next ((s.arriving m).postAt (s.now + Nat.min 4096 (64 * 2 ^ Nat.min m.tries 6)) (.messageRetry { m with tries := m.tries + 1 })) := by
  intro c hc hf
  have he : exec (.messageArrival m) s = .next _ := congrArg Host.Outcome.next (messageArrive_bound hm hk hc)
  have hp : placeEntry (s.arriving m) m.dst m.cls m.body.level (messageWords m) (messageInfo (s.arriving m) m) = .full := by
    unfold placeEntry
    dsimp only
    rw [show ((s.arriving m).core m.dst).ringFit m.cls (messageWords m).length = none from (State.arriving_ringFit s m 4).trans hf]
  rwa [hp] at he

theorem dropsMessage (hc : clsOn ((s.core m.dst).cls m.cls) = false) (hg : m.gen = 0) (ht : m.tag ≠ 0) (ha : Sp.find s.assembly m.tag = none) :
    ∃ (t : State), exec (.messageArrival m) s = .next t ∧ (t.core m.dst).count.classdrop = (s.core m.dst).count.classdrop + 1 ∧ t.mem = s.mem ∧
      t.slots = s.slots ∧ t.agenda = s.agenda ++ [{ ins := .accessAcknowledge m.slot m.sgen m.tag }, endedOp m.body.home m.body.level 0] := by
  have he : exec (.messageArrival m) s = .next _ := congrArg Host.Outcome.next (messageArrive_unbound hm hk hc hg)
  have hcore := State.updCore_core_self ((s.arriving m).deliver m.dst m.body.phase) m.dst fun c => c.drops m
  rw [messageDone_acknowledged (s := ((s.arriving m).deliver m.dst m.body.phase).updCore m.dst fun c => c.drops m) ht ha] at he
  have hcount : (((s.arriving m).deliver m.dst m.body.phase).core m.dst).count = (s.core m.dst).count := (congrArg Core.count (State.arriving_core s m) :)
  exact ⟨_, he, (congrArg (fun c : Core => c.count.classdrop) hcore).trans (congrArg (fun n : CoreCount => n.classdrop + 1) hcount), rfl, rfl,
    List.append_assoc _ _ _⟩

end arrival

theorem resendsMessage (s : State) (m : Msg) (h : m.src < 2 ^ 24) : ∃ (t : State), exec (.messageRetry m) s = .next t ∧ Answers t { ins := .messageArrival m } ∧
    (t.core m.src).count.retry = (s.core m.src).count.retry + 1 ∧ t.mem = s.mem ∧ t.slots = s.slots := by
  have he : exec (.messageRetry m) s = .next ((s.updCore m.src fun c => { c with count := { c.count with retry := c.count.retry + 1 } }).post (.messageArrival m)) :=
    congrArg (fun u : State => Host.Outcome.next (u.post (.messageArrival m))) (if_neg (Nat.not_le.2 h))
  have hcore := State.updCore_core_self s m.src fun c => { c with count := { c.count with retry := c.count.retry + 1 } }
  exact ⟨_, he, List.getLast?_concat, congrArg (fun c : Core => c.count.retry) hcore, rfl, rfl⟩

theorem messageEvents : Says.MessageEvents := by
  unfold Says.MessageEvents
  intro owner mapped comes admitted taken
  have hcomes {s : State} {m : Msg} (h : comes s m) : Comes s m := ⟨h.1, h.2⟩
  have hadm {s : State} {m : Msg} (h : admitted s m) : Admitted s m := ⟨hcomes h.1, h.2.1, h.2.2⟩
  refine ⟨injectsHeld, fun s m c h hg ht ha => refusesMessage s m c ?_ hg ht ha, injectsSent, injectsLost,
    fun s m at0 => ?_, fun s m => ?_, fun s m h hc hk => dropsMessage (hadm h) hk hc, resendsMessage⟩
  · rcases h with ⟨hn, rfl⟩ | ⟨hc, hp, rfl⟩ | ⟨hc, hp, hr, rfl⟩
    · exact messageRefused_unreached fun h => hn ⟨h.mapped, h.reached⟩
    · exact messageRefused_foreign (hcomes hc) hp
    · exact messageRefused_resetting (hcomes hc) hp hr
  · intro c w h hc hk ht ha hf _ hg hn
    exact placesMessage (hadm h) hk hc ht ha hf hg hn
  · intro c h hc hk hf
    exact ⟨_, retriesMessage (hadm h) hk hc hf, rfl⟩

/-! ## The hops of a route (R83, R330) -/

theorem State.setPort_core_other (s : State) {core k : Nat} (i : Nat) (p : Port) (h : k ≠ core) : (s.setPort core i p).core k = s.core k :=
  State.setCore_core_other _ _ _ _ h

theorem State.setPort_port_self (s : State) (core i : Nat) (p : Port) : (s.setPort core i p).port core i = p :=
  (State.setPort_port _ _ _ _ _).trans (if_pos rfl)

theorem State.setPort_port_other (s : State) {core i k j : Nat} (p : Port) (h : (k, j) ≠ (core, i)) : (s.setPort core i p).port k j = s.port k j := by
  by_cases hk : k = core
  · subst hk
    exact (State.setPort_port _ _ _ _ _).trans (if_neg fun hj => h (by rw [hj]))
  · rw [State.port, State.setPort_core_other _ _ _ hk]
    rfl

/-- Where the head of a route stands on its way to a cluster. -/
def Port.headAt (p : Port) (c dst : Nat) : Nat := (p.hops.getLast?.map fun h => linkEnd (h / 8) (h % 8) dst).getD c

section hop
variable {s : State} {core i tgt cls : Nat} (hst : (s.port core i).st = .bound) (hacq : (s.port core i).acq = 1)
  (hl : s.linkFrom (coreCluster core) (bits (s.port core i).place 63 54) = true)
  (hp : s.placeOf (s.partOf (coreCluster core)) (s.port core i).place = some (tgt, cls))
include hst hacq hl hp

theorem hopOnce_eq : hopOnce s core i = match nextLink s ((s.port core i).headAt (coreCluster core) (coreCluster tgt)) (coreCluster tgt) with
    | some (r, port) =>
      if s.channelFree r port then
        ((s.setRouter r { s.router r with streams := Sp.set 0 (s.router r).streams port (Sp.get 0 (s.router r).streams port + 1) }).setPort core i
          { s.port core i with hops := (s.port core i).hops ++ [r * 8 + port], tgtCore := tgt }, true)
      else (s.updCore core fun c => { c with count := { c.count with portretry := c.count.portretry + 1 } }, false)
    | none =>
      if (s.port core i).headAt (coreCluster core) (coreCluster tgt) = coreCluster tgt ∧ (s.port tgt (s.port core i).tgtPort).st = .listen ∧
          (s.port tgt (s.port core i).tgtPort).srcPort = 0 then
        let u := s.setPort tgt (s.port core i).tgtPort { s.port tgt (s.port core i).tgtPort with srcCore := core, srcPort := i + 1, route := (s.port core i).route }
        (u.setPort core i { u.port core i with acq := 2, tgtCore := tgt }, true)
      else (s, false) := by
  unfold hopOnce Port.headAt
  dsimp only
  rw [if_neg (by rw [hst, hacq]; simp), if_pos hl, hp]
  dsimp only
  cases (s.port core i).hops.getLast? <;> rfl

end hop

theorem nextLink_home (s : State) (c : Nat) : nextLink s c c = none := by
  rw [nextLink, if_pos rfl, if_pos rfl]

/-- A head that is still on its way tries its next hop. -/
theorem routeHop_again {s u : State} {b : Bool} (h : hopOnce s (s.cur / 8) (s.cur % 8) = (u, b)) (ha : (u.port (s.cur / 8) (s.cur % 8)).acq = 1) :
    exec .routeHop s = .next (u.post .routeHop s.cur) := by
  show execRouteHop s = _
  rw [execRouteHop, routeHop, h]
  exact congrArg Host.Outcome.next (if_pos ha)

theorem routeHop_ends {s u : State} {b : Bool} (h : hopOnce s (s.cur / 8) (s.cur % 8) = (u, b)) (ha : (u.port (s.cur / 8) (s.cur % 8)).acq ≠ 1) :
    exec .routeHop s = .next u := by
  show execRouteHop s = _
  rw [execRouteHop, routeHop, h]
  exact congrArg Host.Outcome.next (if_neg ha)

theorem routeHops_ends (s : State) : let core := s.cur / 8; let i := s.cur % 8; let p := s.port core i
    p.st = .bound → p.acq = 1 → s.linkFrom (coreCluster core) (bits p.place 63 54) = true → ∀ tgt cls, s.placeOf (s.partOf (coreCluster core)) p.place = some (tgt, cls) →
    let at0 := (p.hops.getLast?.map fun h => linkEnd (h / 8) (h % 8) (coreCluster tgt)).getD (coreCluster core)
    (∀ r port, nextLink s at0 (coreCluster tgt) = some (r, port) → s.channelFree r port = true → ∃ (t : State), exec .routeHop s = .next t ∧
      (t.port core i).hops = p.hops ++ [r * 8 + port] ∧ (t.port core i).acq = 1 ∧ (t.port core i).tgtCore = tgt ∧
      Sp.get 0 (t.router r).streams port = Sp.get 0 (s.router r).streams port + 1 ∧ Answers t { who := s.cur, ins := .routeHop }) ∧
    (∀ r port, nextLink s at0 (coreCluster tgt) = some (r, port) → s.channelFree r port = false → ∃ (t : State), exec .routeHop s = .next t ∧
      t.port core i = p ∧ (t.core core).count.portretry = (s.core core).count.portretry + 1 ∧ Answers t { who := s.cur, ins := .routeHop }) ∧
    (at0 = coreCluster tgt → (s.port tgt p.tgtPort).st = .listen → (s.port tgt p.tgtPort).srcPort = 0 →
      ∃ (t : State), exec .routeHop s = .next t ∧ (t.port core i).acq = 2 ∧ (t.port core i).tgtCore = tgt ∧ (t.port tgt p.tgtPort).srcCore = core ∧
        (t.port tgt p.tgtPort).srcPort = i + 1 ∧ t.agenda = s.agenda) := by
  intro core i p hst hacq hl tgt cls hp at0
  have hh := hopOnce_eq hst hacq hl hp
  refine ⟨fun r port hn hf => ?_, fun r port hn hf => ?_, fun hat hq hs => ?_⟩
  · rw [show nextLink s (p.headAt (coreCluster core) (coreCluster tgt)) (coreCluster tgt) = some (r, port) from hn] at hh
    dsimp only at hh
    rw [if_pos hf] at hh
    have hport := State.setPort_port_self (s.setRouter r { s.router r with
      streams := Sp.set 0 (s.router r).streams port (Sp.get 0 (s.router r).streams port + 1) }) core i { p with hops := p.hops ++ [r * 8 + port], tgtCore := tgt }
    refine ⟨_, routeHop_again hh ((congrArg Port.acq hport).trans hacq), congrArg Port.hops hport, (congrArg Port.acq hport).trans hacq,
      congrArg Port.tgtCore hport, ?_, List.getLast?_concat⟩
    have hr := State.setRouter_router_self s r { s.router r with streams := Sp.set 0 (s.router r).streams port (Sp.get 0 (s.router r).streams port + 1) }
    refine (congrArg (fun x : Router => Sp.get 0 x.streams port) hr).trans ?_
    rw [Sp.get_set, if_pos rfl]
  · rw [show nextLink s (p.headAt (coreCluster core) (coreCluster tgt)) (coreCluster tgt) = some (r, port) from hn] at hh
    dsimp only at hh
    rw [if_neg (by rw [hf]; exact Bool.false_ne_true)] at hh
    have hcore := State.updCore_core_self s core fun c => { c with count := { c.count with portretry := c.count.portretry + 1 } }
    have hport := congrArg (fun c : Core => c.port i) hcore
    refine ⟨_, routeHop_again hh ((congrArg Port.acq hport).trans hacq), hport, congrArg (fun c : Core => c.count.portretry) hcore, List.getLast?_concat⟩
  · rw [show p.headAt (coreCluster core) (coreCluster tgt) = coreCluster tgt from hat, nextLink_home] at hh
    dsimp only at hh
    rw [if_pos ⟨rfl, hq, hs⟩] at hh
    have hne : (tgt, p.tgtPort) ≠ (core, i) := fun e => by
      rw [Prod.mk.injEq] at e
      rw [e.1, e.2] at hq
      cases hst.symm.trans hq
    obtain ⟨u, hu⟩ : ∃ u, s.setPort tgt p.tgtPort { s.port tgt p.tgtPort with srcCore := core, srcPort := i + 1, route := p.route } = u := ⟨_, rfl⟩
    have hh : hopOnce s core i = (u.setPort core i { u.port core i with acq := 2, tgtCore := tgt }, true) := by rw [hh, ← hu]
    have hport := State.setPort_port_self u core i { u.port core i with acq := 2, tgtCore := tgt }
    have hq' : (u.setPort core i { u.port core i with acq := 2, tgtCore := tgt }).port tgt p.tgtPort =
        { s.port tgt p.tgtPort with srcCore := core, srcPort := i + 1, route := p.route } := by
      rw [State.setPort_port_other _ _ hne, ← hu, State.setPort_port_self]
    refine ⟨_, routeHop_ends hh ?_, congrArg Port.acq hport, congrArg Port.tgtCore hport, congrArg Port.srcCore hq', congrArg Port.srcPort hq', ?_⟩
    · rw [hport]
      exact (by decide : (2 : Nat) ≠ 1)
    · rw [← hu]
      rfl

/-! ## Words and closing markers (R84, R140) -/

theorem streamWord_received {s : State} {core port src sp : Nat} (v : W64) (hne : (src, sp) ≠ (core, port)) (hq : (s.port core port).receives s.cur = true) :
    streamWord s core port src sp v =
      (if (s.port src sp).route = s.cur then s.setPort src sp { s.port src sp with flying := (s.port src sp).flying - 1 } else s).setPort core port
        { s.port core port with st := .recv, buf := (s.port core port).buf ++ [some v], wrote := (s.port core port).wrote + 1 } := by
  unfold streamWord
  dsimp only
  by_cases hr : (s.port src sp).route = s.cur
  · rw [if_pos hr, State.setPort_port_other _ _ (Ne.symm hne)]
    exact if_pos hq
  · rw [if_neg hr]
    exact if_pos hq

theorem receivesWord (s : State) (core port src sp : Nat) (v : W64) : let q := s.port core port; (src, sp) ≠ (core, port) → q.receives s.cur = true →
    ∃ (t : State), exec (.streamWordArrival core port src sp v) s = .next t ∧ (t.port core port).st = .recv ∧
      (t.port core port).buf = q.buf ++ [some v] ∧ (t.port core port).wrote = q.wrote + 1 ∧ t.mem = s.mem ∧ t.slots = s.slots ∧
      ((s.port src sp).route = s.cur → (t.port src sp).flying = (s.port src sp).flying - 1) := by
  intro q hne hq
  have he : exec (.streamWordArrival core port src sp v) s = .next _ := congrArg Host.Outcome.next (streamWord_received v hne hq)
  have hport := State.setPort_port_self (if (s.port src sp).route = s.cur then s.setPort src sp { s.port src sp with flying := (s.port src sp).flying - 1 } else s)
    core port { q with st := .recv, buf := q.buf ++ [some v], wrote := q.wrote + 1 }
  refine ⟨_, he, congrArg Port.st hport, congrArg Port.buf hport, congrArg Port.wrote hport, ?_, ?_, fun hr => ?_⟩
  · rw [State.setPort_mem]
    split <;> rfl
  · rw [State.setPort_slots]
    split <;> rfl
  · rw [State.setPort_port_other _ _ hne, if_pos hr, State.setPort_port_self]

theorem freeChannels_one (s : State) {r p : Nat} (hp : p < 8) :
    Sp.get 0 ((freeChannels s [r * 8 + p]).router r).streams p = Sp.get 0 (s.router r).streams p - 1 := by
  have hr : (r * 8 + p) / 8 = r := by omega
  have hm : (r * 8 + p) % 8 = p := by omega
  rw [freeChannels, freeChannels, hr, hm, State.setRouter_router_self]
  exact (Sp.get_set _ _ _ _ _).trans (if_pos rfl)

theorem freeChannels_port (s : State) (l : List Nat) (core i : Nat) : (freeChannels s l).port core i = s.port core i := by
  rw [freeChannels_eq]
  rfl

theorem closingMarker_received {s : State} {core port phase : W64} {hops : List W64} (hd : s.data = core :: port :: phase :: hops)
    (hq : (s.port core.toNat port.toNat).receives s.cur = true) : closingMarker s =
      ((freeChannels s (hops.map BitVec.toNat)).setPort core.toNat port.toNat
        { s.port core.toNat port.toNat with st := .recv, buf := (s.port core.toNat port.toNat).buf ++ [none] }).deliver core.toNat (phase != 0) := by
  have hc : (freeChannels s (hops.map BitVec.toNat)).cur = s.cur := by
    rw [freeChannels_eq]
  unfold closingMarker
  rw [hd]
  dsimp only
  rw [freeChannels_port, hc, if_pos hq]

theorem receivesMarker (s : State) (core port phase : W64) (r p : Nat) : let q := s.port core.toNat port.toNat
    s.data = [core, port, phase, BitVec.ofNat 64 (r * 8 + p)] → p < 8 → r < 2 ^ 32 → q.receives s.cur = true →
    ∃ (t : State), exec .closingMarkerArrival s = .next t ∧ (t.port core.toNat port.toNat).buf = q.buf ++ [none] ∧
      (t.port core.toNat port.toNat).st = .recv ∧ Sp.get 0 (t.router r).streams p = Sp.get 0 (s.router r).streams p - 1 ∧
      (phase = 0 → (t.ni core.toNat).recv0 = (s.ni core.toNat).recv0 + 1) ∧ (phase = 1 → (t.ni core.toNat).recv1 = (s.ni core.toNat).recv1 + 1) := by
  intro q hd hp hr hq
  have hn : (BitVec.ofNat 64 (r * 8 + p)).toNat = r * 8 + p := by
    rw [BitVec.toNat_ofNat]
    omega
  have he : exec .closingMarkerArrival s = .next _ := congrArg Host.Outcome.next (closingMarker_received hd hq)
  rw [List.map_cons, List.map_nil, hn] at he
  obtain ⟨u, hu⟩ : ∃ u, (freeChannels s [r * 8 + p]).setPort core.toNat port.toNat { q with st := .recv, buf := q.buf ++ [none] } = u := ⟨_, rfl⟩
  have hni : u.ni core.toNat = s.ni core.toNat := by
    rw [← hu, State.ni, State.setPort_nis, freeChannels_eq]
    rfl
  have hport : u.port core.toNat port.toNat = { q with st := .recv, buf := q.buf ++ [none] } := by rw [← hu, State.setPort_port_self]
  have hrt : Sp.get 0 (u.router r).streams p = Sp.get 0 (s.router r).streams p - 1 := by
    rw [← hu, State.setPort_router']
    exact freeChannels_one s hp
  have he : exec .closingMarkerArrival s = .next (u.deliver core.toNat (phase != 0)) := by rw [he, ← hu]
  refine ⟨_, he, congrArg Port.buf hport, congrArg Port.st hport, hrt, fun h => ?_, fun h => ?_⟩
  · rw [h, ← hni]
    exact congrArg Ni.recv0 (Sp.get_put_self _ _ _ _)
  · rw [h, ← hni]
    exact congrArg Ni.recv1 (Sp.get_put_self _ _ _ _)

/-- Settles O31: messages by the equations of their injection and arrival, streams by those of a hop, a word and a marker. -/
theorem deliveryEvents : Obligations.DeliveryEvents :=
  ⟨messageEvents, routeHops_ends, receivesWord, receivesMarker⟩

end Sys2Proof.Machine
end

section
/-! SUPPORT. The Confluence forms (R85, R91, R169, R325, R334 to R339): the request of an answered form, and what each form asks. -/

namespace Sys2Proof.Machine
open Sys2Proof

/-! ## The request of an answered form (R140, R325) -/

/-- The slot that issues waits for the answer of `tag`. -/
def State.askedOf (s : State) (x : Fld) (dests : List Nat) (tag : Nat) : State := awaitAnswer (askEntry s x dests false tag) tag none false 0

/-- The entry of an answered form, and the attempt that its wait begins. -/
def askedEntry (s : State) (x : Fld) (dests : List Nat) (tag : Nat) : Outst :=
  { tag := tag, pc := (s.slot s.cur).pc, access := false, vector := false, dests := dests, lines := [], write := false, acc := none,
    held := false, reply := none, len := Fld.len x, soft := false }
def askedAttempt (s : State) : Attempt :=
  { (s.slot s.cur).attempt.getD { since := s.now, id := s.ticket, limit := none, info := 0, watched := none } with limit := none, info := 0, watched := none }

/-- A slot that waits for the answer of `tag` with one entry more. -/
def Slot.waits (t : Slot) (tag : Nat) (a : Attempt) (o : Outst) : Slot :=
  { t with st := .waiting (.answer tag), attempt := some a, outst := t.outst ++ [o] }

section asked
variable (s : State) (x : Fld) (dests : List Nat) (tag : Nat)

theorem askEntry_slot : (askEntry s x dests false tag).slot s.cur = { s.slot s.cur with outst := (s.slot s.cur).outst ++ [askedEntry s x dests tag] } :=
  State.setSlot_slot_self _ _ _

theorem State.askedOf_slot : (s.askedOf x dests tag).slot s.cur = (s.slot s.cur).waits tag (askedAttempt s) (askedEntry s x dests tag) := by
  have h := State.updSlot_slot_self (askEntry s x dests false tag).tick s.cur fun t =>
    { t with st := .waiting (.answer tag), attempt := some (askedAttempt s) }
  rw [State.tick_slot', askEntry_slot] at h
  refine Eq.trans ?_ h
  rw [askedAttempt, State.askedOf, awaitAnswer]
  dsimp only
  rw [show (askEntry s x dests false tag).cur = s.cur from rfl, askEntry_slot]
  rfl

theorem State.askedOf_slot_other {j : Nat} (h : j ≠ s.cur) : (s.askedOf x dests tag).slot j = s.slot j :=
  (State.setSlot_slot_other _ _ _ _ h).trans (State.setSlot_slot_other _ _ _ _ h)

end asked

theorem asked_of_slots {s t : State} {x : Fld} {dests : List Nat} {tag : Nat} (hs : t.slots = (s.askedOf x dests tag).slots) (hm : t.mem = s.mem) :
    Asked x dests false tag s t := by
  have hslot (j : Nat) : t.slot j = (s.askedOf x dests tag).slot j := by rw [State.slot, hs]; rfl
  refine ⟨?_, ?_, fun j hj => ?_, hm⟩
  · rw [hslot, State.askedOf_slot]
    rfl
  · rw [hslot, State.askedOf_slot]
    rfl
  · rw [hslot, State.askedOf_slot_other _ _ _ _ hj]

theorem Asked.congr {s s1 t : State} {x : Fld} {dests : List Nat} {soft : Bool} {tag : Nat} (hs : s1.slots = s.slots) (hc : s1.cur = s.cur)
    (hm : s1.mem = s.mem) (h : Asked x dests soft tag s1 t) : Asked x dests soft tag s t := by
  have hslot : s1.slot = s.slot := by
    funext j
    rw [State.slot, hs]
    rfl
  unfold Asked at h ⊢
  rwa [hslot, hc, hm] at h

/-- The tag under which the unit that issues asks. -/
def State.askTag (s : State) : Nat := s.netTag (s.slot s.cur).phase

/-- The request of an answered form has reached an NI. -/
def State.requested (s : State) (x : Fld) (dests : List Nat) (ni : Nat) : State :=
  (s.askedOf x dests s.askTag).exchange (slotCore s.cur) ni (s.partOf (slotCluster s.cur)) (s.slot s.cur).phase

theorem askNet_eq (s : State) (x : Fld) (dests : List Nat) (ni : Nat) (req : Nat → State → State) :
    askNet s x dests ni req = .hold (req s.askTag (s.requested x dests ni)) := rfl

section requested
variable (s : State) (x : Fld) (dests : List Nat) (ni : Nat)

theorem State.requested_part (p : Nat) : TrafficPart (s.part p) ((s.requested x dests ni).part p) :=
  trafficPart_inject (s.askedOf x dests s.askTag) _ _ _ _

theorem State.requested_slot : (s.requested x dests ni).slot s.cur = (s.slot s.cur).waits s.askTag (askedAttempt s) (askedEntry s x dests s.askTag) :=
  State.askedOf_slot _ _ _ _

end requested

/-! ## CQSTAT (R338) -/

/-- What an answer from an NI changes: only what is in flight, and the counts of its partition's traffic. -/
theorem answerWith_eq (s : State) (ni part slot : Nat) (gen : BitVec 32) (tag : Nat) (v : V512) : s.answerWith ni part slot gen tag v =
    { s with agenda := (s.answerWith ni part slot gen tag v).agenda, nis := (s.answerWith ni part slot gen tag v).nis,
             parts := (s.answerWith ni part slot gen tag v).parts } :=
  sendTag_eq _ _ _ _ _

theorem answerWith_sends (s : State) (ni part slot : Nat) (gen : BitVec 32) (tag : Nat) (v : V512) :
    Sends s (s.answerWith ni part slot gen tag v) part { ins := .fill slot gen tag v } :=
  sendTag_sends s ni part tag rfl

/-- The state in which a request has been answered by what the NI it reached saw. -/
theorem answersRequest {s u : State} {x : Fld} {dests : List Nat} {ni part : Nat} (hs : u.slots = (s.requested x dests ni).slots) (hm : u.mem = s.mem)
    (hb : (u.part part).budInj = (s.part part).budInj) (ni' : Nat) (v : V512) :
    Asked x dests false s.askTag s (u.answerWith ni' part s.cur (u.slot s.cur).gen s.askTag v) ∧
    Sends s (u.answerWith ni' part s.cur (u.slot s.cur).gen s.askTag v) part (answerOp s s.askTag v) := by
  have hg : (u.slot s.cur).gen = (s.slot s.cur).gen := by
    rw [State.slot, hs]
    exact (congrArg Slot.gen (State.requested_slot s x dests ni) :)
  refine ⟨asked_of_slots ?_ ?_, ?_⟩
  · rw [answerWith_eq, hs]
    rfl
  · rw [answerWith_eq]
    exact hm
  · rw [hg]
    exact (answerWith_sends u ni' part s.cur _ _ v).of_budInj hb

theorem PortsOnly.answerOp {s s' : State} (h : PortsOnly s s') (tag : Nat) (v : V512) : answerOp s' tag v = answerOp s tag v := by
  rw [Machine.answerOp, h.slot, h.cur]
  rfl

theorem Looked.answerOp {path : Nat} {s t : State} (h : Looked path s t) (tag : Nat) (v : V512) : answerOp t tag v = answerOp s tag v := by
  rw [Machine.answerOp, h.slot, h.cur]
  rfl

/-- The word a CQSTAT reads. -/
def statWord (k : Cluster) (id sel : Nat) : Nat :=
  let q := k.confQueue id
  if sel = 0 then q.created.toNat else if sel = 1 then q.combined.toNat else if sel = 2 then q.full.toNat
  else q.head.toNat + q.tail.toNat * 65536 + (k.queue id).length % 2 ^ 15 * 2 ^ 32

theorem statWord_lt (k : Cluster) (id sel : Nat) : statWord k id sel < 2 ^ 64 := by
  unfold statWord
  dsimp only
  have hc := (k.confQueue id).created.isLt
  have hj := (k.confQueue id).combined.isLt
  have hf := (k.confQueue id).full.isLt
  have hh := (k.confQueue id).head.isLt
  have ht := (k.confQueue id).tail.isLt
  split
  · omega
  split
  · omega
  split
  · omega
  · omega

theorem ofNat_setWidth_512 {n : Nat} (h : n < 2 ^ 64) : (BitVec.ofNat 64 n).setWidth 512 = BitVec.ofNat 512 n := by
  apply BitVec.eq_of_toNat_eq
  rw [BitVec.toNat_setWidth, BitVec.toNat_ofNat, BitVec.toNat_ofNat, Nat.mod_eq_of_lt h]

theorem statWord_eq (k : Cluster) (id : Nat) (w : W64) : (match bits w 1 0 with
      | 0 => (k.confQueue id).created.setWidth 64
      | 1 => (k.confQueue id).combined.setWidth 64
      | 2 => (k.confQueue id).full.setWidth 64
      | _ => BitVec.ofNat 64 ((k.confQueue id).head.toNat + (k.confQueue id).tail.toNat * 65536 + (k.queue id).length % 2 ^ 15 * 2 ^ 32) : W64) =
    BitVec.ofNat 64 (statWord k id (bits w 1 0)) := by
  split
  next h => rw [h, statWord, if_pos rfl, BitVec.ofNat_toNat]
  next h => rw [h, statWord, if_neg (by decide), if_pos rfl, BitVec.ofNat_toNat]
  next h => rw [h, statWord, if_neg (by decide), if_neg (by decide), if_pos rfl, BitVec.ofNat_toNat]
  next h0 h1 h2 => rw [statWord, if_neg h0, if_neg h1, if_neg h2]

theorem readsStatus (x : Fld) (s : State) (v : Vals) (s' : State) (id : Nat) (d : Decl) (ho : operands uDAB x s = .run v s')
    (hd : currentDecl s' (s'.partOf (slotCluster s.cur)) v.a = some (id, d)) :
    let k := s'.cluster (slotCluster s.cur); let q := k.confQueue id
    ∃ (t : State) (tag : Nat), exec (.cqstat x) s = .next t ∧ Asked x [x.d.toNat] false tag s' t ∧
      Sends s' t (s'.partOf (slotCluster s.cur)) (answerOp s tag (BitVec.ofNat 512
      (if bits v.b 1 0 = 0 then q.created.toNat else if bits v.b 1 0 = 1 then q.combined.toNat else if bits v.b 1 0 = 2 then q.full.toNat
       else q.head.toNat + q.tail.toNat * 65536 + (k.queue id).length % 2 ^ 15 * 2 ^ 32))) := by
  have hp := operands_run ho
  rw [← hp.cur] at hd ⊢
  intro k q
  have hw := statWord_eq (s'.cluster (slotCluster s'.cur)) id v.b
  have hb : ((s'.requested x [x.d.toNat] (slotCluster s'.cur * 128)).part (s'.partOf (slotCluster s'.cur))).budInj =
      (s'.part (s'.partOf (slotCluster s'.cur))).budInj := (congrArg Part.budInj (State.requested_part s' x _ _ _) :)
  obtain ⟨ha, hs⟩ := answersRequest (u := s'.requested x [x.d.toNat] (slotCluster s'.cur * 128)) rfl rfl hb (slotCluster s'.cur * 128)
    (BitVec.ofNat 512 (statWord (s'.cluster (slotCluster s'.cur)) id (bits v.b 1 0)))
  rw [hp.answerOp] at hs
  refine ⟨_, _, congrArg Host.Outcome.next (issue_hold ho ?_), ha, hs⟩
  · dsimp only
    rw [askNet_eq, hd]
    dsimp only
    exact congrArg (fun w : V512 => Eff.hold (answerFrom (s'.requested x [x.d.toNat] (slotCluster s'.cur * 128)) (slotCluster s'.cur)
      (s'.partOf (slotCluster s'.cur)) s'.cur ((s'.requested x [x.d.toNat] (slotCluster s'.cur * 128)).slot s'.cur).gen s'.askTag w))
      ((congrArg (BitVec.setWidth 512) hw).trans (ofNat_setWidth_512 (statWord_lt _ _ _)))

/-! ## CQDECL (R334) -/

theorem localOffset_good {w : W64} {al : Nat} (hal : w.toNat % al = 0) (h : w.toNat < 0x80000) : localOffset w al = none := by
  rw [localOffset, if_neg (not_not_intro hal), if_neg (Nat.not_le.2 h)]

section reads
variable {s : State} {a : W64} {n : Nat} (h : LocalOk s a n true false)
include h

theorem lineWait_good : lineWait s a.toNat = false := by
  rw [lineWait, show (Target.scratch (slotCore s.cur) a.toNat).line = scratchLoc (slotCore s.cur) a.toNat / 64 from rfl, h.line_free]
  rfl

theorem localRead_good : localRead s a.toNat n = .ok ((s.tick.look 0 s.tick.viewer (scratchLoc (slotCore s.cur) a.toNat) n).1,
    imageWord (s.tick.look 0 s.tick.viewer (scratchLoc (slotCore s.cur) a.toNat) n).2) := by
  have hcheck : localCheck s a.toNat n = .ok (s, true) := by
    dsimp only [localCheck]
    rw [protAllows_unit (h.mayRead rfl), h.unguarded]
    rfl
  rw [localRead, hcheck]

end reads

/-- The declaration a CQDECL makes of an id. -/
def newDecl (t : Slot) (g : BitVec 16) (w : Nat → W64) : Decl :=
  { live := true, gen := g, w0 := w 0, w1 := w 1, w2 := w 2, w3 := w 3, level := t.level, home := t.home, pool := t.pool, corr := t.corr }

/-- An id is declared: its partition knows it, and the slices of its clusters are told. -/
def State.declared (s : State) (part id : Nat) (d : Decl) : State :=
  (s.setPart part { s.part part with decls := Sp.put (s.part part).decls id d }).postAll ((s.part part).clusters.map fun c =>
    { who := c * 64 + id, data := [d.gen.setWidth 64], ins := .cqDeclarationArrival })

/-- What the Sorting Office does with a CQDECL: the lowest id that has no live declaration is declared. -/
def answerDecl (s : State) (part tag : Nat) (w : Nat → W64) : State :=
  match (List.range 64).find? fun i => !((s.part part).decl i).live with
  | none => s.answerWith (officeNi part) part s.cur (s.slot s.cur).gen tag 0
  | some id =>
    let g := nextGen ((s.part part).decl id).gen
    (s.declared part id (newDecl (s.slot s.cur) g w)).answerWith (officeNi part) part s.cur (s.slot s.cur).gen tag ((queueHandle id g).setWidth 512)

theorem exec_cqdecl {x : Fld} {s s' : State} {v : Vals} (ho : operands uDA x s = .run v s') (hal : v.a.toNat % 32 = 0) (hok : LocalOk s' v.a 32 true false) :
    let r := s'.tick.look 0 s'.tick.viewer (scratchLoc (slotCore s'.cur) v.a.toNat) 32; let w := imageWord r.2; let part := r.1.partOf (slotCluster r.1.cur)
    declBad (w 0) (w 1) (w 2) (w 3) = false →
    exec (.cqdecl x) s = .next (answerDecl (r.1.requested x [x.d.toNat] (officeNi part)) part r.1.askTag w) := by
  intro r w part hb
  refine congrArg Host.Outcome.next (issue_hold ho ?_)
  dsimp only
  rw [localOffset_good hal hok.inside]
  dsimp only
  rw [lineWait_good hok, localRead_good hok]
  dsimp only
  rw [if_neg Bool.false_ne_true, if_neg (by rw [hb]; exact Bool.false_ne_true), askNet_eq]
  rfl

theorem queueHandle_setWidth {id : Nat} (h : id < 64) (g : BitVec 16) : (queueHandle id g).setWidth 512 = BitVec.ofNat 512 (id + g.toNat * 65536) := by
  have := g.isLt
  exact ofNat_setWidth_512 (by omega)

theorem lowestUndeclared {q : Part} {id : Nat} (hid : id < 64) (hl : (q.decl id).live = false) (hn : ∀ i, i < id → (q.decl i).live = true) :
    (List.range 64).find? (fun i => !(q.decl i).live) = some id := by
  rw [List.find?_range_eq_some]
  exact ⟨by rw [hl]; rfl, List.mem_range.2 hid, fun j hj => by rw [hn j hj]; rfl⟩

theorem noneUndeclared {q : Part} (h : ∀ i, i < 64 → (q.decl i).live = true) : (List.range 64).find? (fun i => !(q.decl i).live) = none := by
  rw [List.find?_range_eq_none]
  exact fun i hi => by rw [h i hi]; rfl

theorem TrafficPart.decl {q r : Part} (h : TrafficPart q r) (id : Nat) : r.decl id = q.decl id := by
  rw [h]
  rfl

section answer
variable (s : State) (part tag : Nat) (w : Nat → W64)

theorem answerDecl_full (h : ∀ i, i < 64 → ((s.part part).decl i).live = true) :
    answerDecl s part tag w = s.answerWith (officeNi part) part s.cur (s.slot s.cur).gen tag 0 := by
  rw [answerDecl, noneUndeclared h]

theorem answerDecl_declares {id : Nat} (hid : id < 64) (hl : ((s.part part).decl id).live = false) (hn : ∀ i, i < id → ((s.part part).decl i).live = true) :
    answerDecl s part tag w = (s.declared part id (newDecl (s.slot s.cur) (nextGen ((s.part part).decl id).gen) w)).answerWith (officeNi part) part s.cur
      (s.slot s.cur).gen tag (BitVec.ofNat 512 (id + (nextGen ((s.part part).decl id).gen).toNat * 65536)) := by
  rw [answerDecl, lowestUndeclared hid hl hn]
  dsimp only
  rw [queueHandle_setWidth hid]

theorem answerDecl_aside : (answerDecl s part tag w).slots = s.slots ∧ (answerDecl s part tag w).mem = s.mem := by
  unfold answerDecl
  split
  · rw [answerWith_eq]
    exact ⟨rfl, rfl⟩
  · dsimp only
    rw [answerWith_eq]
    exact ⟨rfl, rfl⟩

theorem answerWith_part (s : State) (ni part slot : Nat) (gen : BitVec 32) (tag : Nat) (v : V512) (p : Nat) :
    TrafficPart (s.part p) ((s.answerWith ni part slot gen tag v).part p) := by
  unfold State.answerWith State.sendTag
  split
  · exact trafficPart_sendAs _ _ _ _ _ _
  · rfl

theorem State.declared_part (id : Nat) (d : Decl) : (s.declared part id d).part part = { s.part part with decls := Sp.put (s.part part).decls id d } :=
  State.setPart_part_self _ _ _

theorem State.declared_decl (id : Nat) (d : Decl) : ((s.declared part id d).part part).decl id = d := by
  rw [State.declared_part]
  exact Sp.get_put_self _ _ _ _

end answer

theorem declaresQueue (x : Fld) (s : State) (v : Vals) (s' : State) (ho : operands uDA x s = .run v s') (hal : v.a.toNat % 32 = 0)
    (hok : LocalOk s' v.a 32 true false) : let w := wordsAt s' v.a.toNat 4
    let part := s'.partOf (slotCluster s.cur); let q := s'.part part
    declBad (w.getD 0 0) (w.getD 1 0) (w.getD 2 0) (w.getD 3 0) = false → ∃ (t : State) (tag : Nat), exec (.cqdecl x) s = .next t ∧ Asked x [x.d.toNat] false tag s' t ∧
      ((∀ i, i < 64 → (q.decl i).live = true) → Sends s' t part (answerOp s tag 0)) ∧
      (∀ id, id < 64 → (q.decl id).live = false → (∀ i, i < id → (q.decl i).live = true) → let g := nextGen (q.decl id).gen
        Sends s' t part (answerOp s tag (BitVec.ofNat 512 (id + g.toNat * 65536))) ∧ ((t.part part).decl id).live = true ∧
        ((t.part part).decl id).gen = g ∧ ((t.part part).decl id).w0 = w.getD 0 0 ∧ ((t.part part).decl id).w1 = w.getD 1 0 ∧
        ((t.part part).decl id).w2 = w.getD 2 0 ∧ ((t.part part).decl id).w3 = w.getD 3 0 ∧
        ((t.part part).decl id).level = (s.slot s.cur).level) := by
  have hp := operands_run ho
  have hl := looked_descriptor s' v.a
  have hw {i : Nat} (hi : i < 4) := wordsAt_getD s' v.a.toNat hi
  have he := exec_cqdecl ho hal hok
  rw [show 8 * 4 = 32 from rfl] at hw
  generalize s'.tick.look 0 s'.tick.viewer (scratchLoc (slotCore s'.cur) v.a.toNat) 32 = r at hl hw he
  obtain ⟨s1, n⟩ := r
  dsimp only at hl hw he
  rw [hl.cur, hp.cur, hl.sameMap.partOf] at he
  intro w part q
  have hq : s1.part part = q := by rw [hl.sameMap.part]
  intro hb
  rw [hw (by decide), hw (by decide), hw (by decide), hw (by decide)] at hb
  have he := he hb
  obtain ⟨u, hu⟩ : ∃ u, s1.requested x [x.d.toNat] (officeNi part) = u := ⟨_, rfl⟩
  have hus : u.slots = (s1.requested x [x.d.toNat] (officeNi part)).slots := by rw [hu]
  have hum : u.mem = s1.mem := by rw [← hu]; rfl
  have huc : u.cur = s1.cur := by rw [← hu]; rfl
  have hup : TrafficPart q (u.part part) := by
    rw [← hu, ← hq]
    exact State.requested_part _ _ _ _ _
  have hlev : (u.slot u.cur).level = (s.slot s.cur).level := by
    rw [← hu]
    have h := congrArg Slot.level (State.requested_slot s1 x [x.d.toNat] (officeNi part))
    rw [hl.slot, hl.cur, hp.slot, hp.cur] at h
    rw [show (s1.requested x [x.d.toNat] (officeNi part)).cur = s1.cur from rfl, hl.cur, hp.cur]
    exact h
  have hub : (u.part part).budInj = (s1.part part).budInj := by rw [hq, hup]
  have hbud : (s1.part part).budInj = (s'.part part).budInj := by rw [hq]
  rw [show s'.partOf (slotCluster s.cur) = part from rfl, hu] at he
  refine ⟨_, s1.askTag, he, ?_, fun hf => ?_, fun id hid hn hm => ?_⟩
  · obtain ⟨hs, hm⟩ := answerDecl_aside u part s1.askTag (imageWord n)
    exact (asked_of_slots (hs.trans hus) (hm.trans hum)).congr hl.slots hl.cur (by rw [hl.1])
  · rw [answerDecl_full u part _ _ fun i hi => by rw [hup.decl]; exact hf i hi, huc, ← hp.answerOp, ← hl.answerOp]
    exact (answersRequest hus hum hub _ _).2.of_budInj hbud
  · intro g
    have hdecl (i : Nat) := hup.decl i
    rw [answerDecl_declares u part _ _ hid (by rw [hdecl]; exact hn) (fun i hi => by rw [hdecl]; exact hm i hi), hdecl, huc]
    obtain ⟨y, hy⟩ : ∃ y, u.declared part id (newDecl (u.slot s1.cur) g (imageWord n)) = y := ⟨_, rfl⟩
    have hys : y.slots = u.slots := by rw [← hy]; rfl
    have hym : y.mem = u.mem := by rw [← hy]; rfl
    have hyb : (y.part part).budInj = (u.part part).budInj := by rw [← hy, State.declared_part]
    have hyd : ((y.answerWith (officeNi part) part s1.cur (u.slot s1.cur).gen s1.askTag (BitVec.ofNat 512 (id + g.toNat * 65536))).part part).decl id =
        newDecl (u.slot s1.cur) g (imageWord n) := by
      rw [(answerWith_part _ _ _ _ _ _ _ _).decl, ← hy, State.declared_decl]
    have hyg : (y.slot s1.cur).gen = (u.slot s1.cur).gen := by rw [State.slot, hys]; rfl
    rw [show nextGen (q.decl id).gen = g from rfl, hy, hyd]
    refine ⟨?_, rfl, rfl, (hw (by decide)).symm, (hw (by decide)).symm, (hw (by decide)).symm, (hw (by decide)).symm, ?_⟩
    · rw [← hyg, ← hp.answerOp, ← hl.answerOp]
      exact (answersRequest (hys.trans hus) (hym.trans hum) (hyb.trans hub) _ _).2.of_budInj hbud
    · rw [← huc]
      exact hlev

/-! ## CQPUSH and CQPOP (R336, R337) -/

/-- The entry with which a slot waits takes the tag of the request. -/
def retagged (tag : Nat) (l : List Outst) : List Outst := l.map fun o => if o.len ≠ 0 then { o with tag := tag } else o

theorem retagged_append {l : List Outst} (hl : ∀ o ∈ l, o.len = 0) {o : Outst} (ho : o.len ≠ 0) (tag : Nat) :
    retagged tag (l ++ [o]) = l ++ [{ o with tag := tag }] := by
  have hn : l.map (fun o : Outst => if o.len ≠ 0 then { o with tag := tag } else o) = l :=
    (List.map_congr_left fun o h => if_neg (not_not_intro (hl o h))).trans (List.map_id' l)
  rw [retagged, List.map_append, hn, List.map_cons, if_pos ho]
  rfl

/-- Where no other entry of the slot is of a group that waits, the request's entry is the one that is tagged anew. -/
theorem askEntry_retagged {s : State} (hl : ∀ o ∈ (s.slot s.cur).outst, o.len = 0) (x : Fld) (dests : List Nat) (tag : Nat) :
    (askEntry s x dests false).updSlot s.cur (fun q => { q with outst := retagged tag q.outst }) = askEntry s x dests false tag := by
  have h := retagged_append hl (o := askedEntry s x dests s.plainTag) (Nat.succ_ne_zero _) tag
  rw [State.updSlot, askEntry_slot, h]
  exact State.setSlot_setSlot _ _ _ _

theorem awaitAnswer_slot (s : State) (tag : Nat) : ∃ a, (awaitAnswer s tag none false 0).slot s.cur =
    { s.slot s.cur with st := .waiting (.answer tag), attempt := some a } := ⟨_, State.updSlot_slot_self s.tick s.cur _⟩

theorem awaitAnswer_slot_other (s : State) (tag : Nat) {j : Nat} (h : j ≠ s.cur) : (awaitAnswer s tag none false 0).slot j = s.slot j :=
  State.setSlot_slot_other _ _ _ _ h

theorem handleOf_good {w : W64} (h1 : bits w 63 32 = 0) (h2 : bits w 15 6 = 0) : (handleOf w).isNone = false := by
  rw [handleOf, if_neg (not_or.2 ⟨not_not_intro h1, not_not_intro h2⟩)]
  rfl

/-- A release is not held back where every write of the slot is acknowledged. -/
theorem holds_released {s : State} {slot : Nat} (h : ∀ o ∈ (s.slot slot).outst, o.write = false) : s.holds slot .released = true := by
  simp only [State.holds, Bool.not_eq_true', List.any_eq_false]
  exact fun o ho => by rw [h o ho]; exact Bool.false_ne_true

section push
variable {x : Fld} {s s' : State} {v : Vals}

/-- What a CQPUSH sends to its key's home. -/
def pushOp (s : State) (v : Vals) : Op :=
  let r := s.slot s.cur; let part := s.partOf (slotCluster s.cur)
  opD (keyHome s part v.b) [BitVec.ofNat 64 s.cur, r.gen.setWidth 64, BitVec.ofNat 64 s.askTag, BitVec.ofNat 64 part, v.a, v.b, r.getG 4, r.getG 5,
    r.getG 6, r.getG 7, r.corr.setWidth 64, 0] .cqPushArrival

theorem exec_cqpush (ho : operands { d := .g, dDst := true, a := .g, b := .g, extra := [4, 5, 6, 7] } x s = .run v s') (h1 : bits v.a 63 32 = 0)
    (h2 : bits v.a 15 6 = 0) (hl : ∀ o ∈ (s'.slot s'.cur).outst, o.len = 0) (hf : x.f = true → ∀ o ∈ (s'.slot s'.cur).outst, o.write = false) :
    exec (.cqpush x) s = .next ((s'.askedOf x [x.d.toNat] s'.askTag).send (slotCore s'.cur) (s'.partOf (slotCluster s'.cur)) (s'.slot s'.cur).phase
      (pushOp s' v)) := by
  have hr : (x.f && !s'.holds s'.cur .released) = false := by
    cases hx : x.f with
    | false => rfl
    | true => rw [holds_released (hf hx)]; rfl
  refine congrArg Host.Outcome.next (issue_hold ho ?_)
  dsimp only
  rw [if_neg (by rw [handleOf_good h1 h2]; exact Bool.false_ne_true), if_neg (by rw [hr]; exact Bool.false_ne_true)]
  exact congrArg (fun u : State => Eff.hold ((awaitAnswer u s'.askTag none false 0).send (slotCore s'.cur) (s'.partOf (slotCluster s'.cur))
    (s'.slot s'.cur).phase (pushOp s' v))) (askEntry_retagged hl x [x.d.toNat] s'.askTag)

theorem pushesRecord (x : Fld) (s : State) (v : Vals) (s' : State) (ho : operands { d := .g, dDst := true, a := .g, b := .g, extra := [4, 5, 6, 7] } x s = .run v s')
    (h1 : bits v.a 63 32 = 0) (h2 : bits v.a 15 6 = 0) (hl : ∀ o ∈ (s.slot s.cur).outst, o.len = 0)
    (hf : x.f = true → ∀ o ∈ (s.slot s.cur).outst, o.write = false) :
    let r := s.slot s.cur; let part := s'.partOf (slotCluster s.cur); let tag := s'.netTag r.phase
    ∃ (t : State), exec (.cqpush x) s = .next t ∧ Asked x [x.d.toNat] false tag s' t ∧ Sends s' t part (opD (keyHome s' part v.b)
      [BitVec.ofNat 64 s.cur, r.gen.setWidth 64, BitVec.ofNat 64 tag, BitVec.ofNat 64 part, v.a, v.b, r.getG 4, r.getG 5, r.getG 6, r.getG 7,
       r.corr.setWidth 64, 0] .cqPushArrival) := by
  have hp := operands_run ho
  rw [← hp.slot, ← hp.cur] at hl hf ⊢
  intro r part tag
  have he := exec_cqpush ho h1 h2 hl hf
  obtain ⟨hs, hm, -⟩ := aside_sendAs (s'.askedOf x [x.d.toNat] s'.askTag) (slotCore s'.cur) part (some r.phase) (pushOp s' v)
  exact ⟨_, he, asked_of_slots hs hm, (sendAs_sends _ _ _ _ rfl).of_budInj rfl⟩

end push

section pop
variable {x : Fld} {s s' : State} {v : Vals}

/-- The registers a CQPOP fills. -/
def popDests (x : Fld) : List Nat := [x.d.toNat, 4, 5, 6, 7, 9]

/-- What a CQPOP asks its cluster's slice. -/
def popOp (s : State) (v : Vals) : Op :=
  opD (slotCluster s.cur) [BitVec.ofNat 64 s.cur, (s.slot s.cur).gen.setWidth 64, BitVec.ofNat 64 s.askTag, BitVec.ofNat 64 (s.partOf (slotCluster s.cur)),
    v.a, 0] .cqPopRequest

/-- The slot of a CQPOP, its registers EMPTY and its entry tagged, before it waits. -/
def State.popping (s : State) (x : Fld) : State :=
  (askEntry s x (popDests x) false).updSlot s.cur fun q => { q.markEmpty (popDests x) with outst := retagged s.askTag q.outst }

theorem exec_cqpop (ho : operands { d := .g, dDst := true, a := .g, extra := [4, 5, 6, 7, 9] } x s = .run v s') (h1 : bits v.a 63 32 = 0)
    (h2 : bits v.a 15 6 = 0) : exec (.cqpop x) s = .next ((awaitAnswer (s'.popping x) s'.askTag none false 0).send (slotCore s'.cur)
      (s'.partOf (slotCluster s'.cur)) (s'.slot s'.cur).phase (popOp s' v)) := by
  refine congrArg Host.Outcome.next (issue_hold ho ?_)
  dsimp only
  rw [if_neg (by rw [handleOf_good h1 h2]; exact Bool.false_ne_true)]
  rfl

theorem Slot.markEmpty_withOutst (l : List Nat) (o : List Outst) (t : Slot) : Slot.markEmpty { t with outst := o } l = { t.markEmpty l with outst := o } := by
  induction l generalizing t with
  | nil => rfl
  | cons c l ih =>
    simp only [Slot.markEmpty]
    split
    · exact ih t
    · exact ih (t.setEmpty c true)

theorem State.popping_slot (s : State) (x : Fld) : ∃ l, (s.popping x).slot s.cur = { (s.slot s.cur).markEmpty (popDests x) with outst := l } := by
  refine ⟨retagged s.askTag ((s.slot s.cur).outst ++ [askedEntry s x (popDests x) s.plainTag]), ?_⟩
  rw [State.popping, State.updSlot_slot_self, askEntry_slot, Slot.markEmpty_withOutst]

theorem State.popping_slot_other (s : State) (x : Fld) {j : Nat} (h : j ≠ s.cur) : (s.popping x).slot j = s.slot j :=
  (State.setSlot_slot_other _ _ _ _ h).trans (State.setSlot_slot_other _ _ _ _ h)

theorem popDests_ne_k0 (x : Fld) : ∀ c ∈ popDests x, c ≠ 64 := by
  have := x.d.isLt
  simp only [popDests, List.mem_cons, List.not_mem_nil, or_false]
  omega

theorem popsRecord (x : Fld) (s : State) (v : Vals) (s' : State) (ho : operands { d := .g, dDst := true, a := .g, extra := [4, 5, 6, 7, 9] } x s = .run v s')
    (h1 : bits v.a 63 32 = 0) (h2 : bits v.a 15 6 = 0) :
    let r := s.slot s.cur; let part := s'.partOf (slotCluster s.cur); let tag := s'.netTag r.phase; let ds := [x.d.toNat, 4, 5, 6, 7, 9]
    ∃ (t : State), exec (.cqpop x) s = .next t ∧ (t.slot s.cur).st = .waiting (.answer tag) ∧ (t.slot s.cur).g = r.g ∧ (t.slot s.cur).pc = r.pc ∧
      (∀ c ∈ ds, c ≠ 0 → (t.slot s.cur).empty c = true) ∧ (∀ c, c ∉ ds → (t.slot s.cur).empty c = r.empty c) ∧
      (∀ j, j ≠ s.cur → t.slot j = s.slot j) ∧ t.mem = s.mem ∧
      Sends s' t part (opD (slotCluster s.cur)
        [BitVec.ofNat 64 s.cur, r.gen.setWidth 64, BitVec.ofNat 64 tag, BitVec.ofNat 64 part, v.a, 0] .cqPopRequest) := by
  have hp := operands_run ho
  have hother (j : Nat) : s'.slot j = s.slot j := hp.slot j
  rw [← hp.mem, ← hp.slot, ← hp.cur]
  intro r part tag ds
  have he := exec_cqpop ho h1 h2
  obtain ⟨hs, hm, -⟩ := aside_sendAs (awaitAnswer (s'.popping x) s'.askTag none false 0) (slotCore s'.cur) part (some r.phase) (popOp s' v)
  obtain ⟨a, ha⟩ := awaitAnswer_slot (s'.popping x) s'.askTag
  obtain ⟨l, hl⟩ := s'.popping_slot x
  have hrest := Slot.markEmpty_rest (popDests x) (s'.slot s'.cur)
  obtain ⟨t, ht⟩ : ∃ t, (awaitAnswer (s'.popping x) s'.askTag none false 0).send (slotCore s'.cur) part r.phase (popOp s' v) = t := ⟨_, rfl⟩
  have hsl (j : Nat) : t.slot j = (awaitAnswer (s'.popping x) s'.askTag none false 0).slot j := by
    rw [← ht, State.slot]
    exact congrArg (fun m : Sp Slot => Sp.get {} m j) hs
  have hslot : t.slot s'.cur = { (s'.slot s'.cur).markEmpty (popDests x) with outst := l, st := .waiting (.answer tag), attempt := some a } := by
    rw [hsl]
    refine ha.trans ?_
    rw [show (s'.popping x).slot (s'.popping x).cur = _ from hl]
    rfl
  refine ⟨t, he.trans (congrArg _ ht), by rw [hslot], ?_, ?_, fun c hc h0 => ?_, fun c hc => ?_, fun j hj => ?_, by rw [← ht]; exact hm, ?_⟩
  · rw [hslot]
    exact (congrArg Slot.g hrest :)
  · rw [hslot]
    exact (congrArg Slot.pc hrest :)
  · rw [hslot]
    exact Slot.markEmpty_empty_of_mem hc h0 (popDests_ne_k0 x c hc) (s'.slot s'.cur)
  · rw [hslot]
    exact Slot.markEmpty_empty_of_not_mem (l := popDests x) hc (s'.slot s'.cur)
  · rw [hsl]
    exact (awaitAnswer_slot_other (s'.popping x) s'.askTag hj).trans ((State.popping_slot_other s' x hj).trans (hother j))
  · rw [← ht]
    exact Sends.of_budInj (sendAs_sends (awaitAnswer (s'.popping x) s'.askTag none false 0) (slotCore s'.cur) part (some r.phase) (o := popOp s' v) rfl) rfl

end pop

/-! ## RDXADD (R169, R339) -/

theorem exec_rdxadd : Completes { d := .g, dSrc := true, dDst := true, dPair := true, a := .g, aPair := true } .rdxadd (fun _ _ _ => True) (fun x v s =>
    let r := addPartials (partialOf v.d v.d1) (partialOf v.a v.a1); s.putPair x.d.toNat (BitVec.ofInt 64 r.sum) r.word1) :=
  fun _ _ _ _ ho _ => congrArg Host.Outcome.next (issue_next ho rfl)

section partials
variable {p q : Partial2} (hp : p.ovf = false) (hq : q.ovf = false)
include hp hq

/-- The sum of two partials that have not overflowed, aligned to the greater exponent, saturates outside 64 bits. -/
theorem addPartials_eq : let e := max p.exp q.exp; let t := p.sum / 2 ^ (e - p.exp).toNat + q.sum / 2 ^ (e - q.exp).toNat
    let ix := (p.inexact || decide (p.sum % 2 ^ (e - p.exp).toNat ≠ 0)) || (q.inexact || decide (q.sum % 2 ^ (e - q.exp).toNat ≠ 0))
    addPartials p q = { sum := if outside64 t then sat64 t else t, exp := e, inexact := ix, ovf := outside64 t } := by
  intro e t ix
  unfold addPartials
  dsimp only
  rw [hp, hq, if_neg Bool.false_ne_true, if_neg Bool.false_ne_true]
  change (if outside64 t then _ else _) = _
  cases outside64 t <;> rfl

theorem addsPartials : let e := max p.exp q.exp
    let a := p.sum / 2 ^ (e - p.exp).toNat; let b := q.sum / 2 ^ (e - q.exp).toNat; let r := addPartials p q
    r.exp = e ∧ (-2 ^ 63 ≤ a + b → a + b < 2 ^ 63 → r.sum = a + b ∧ r.ovf = false) ∧ (a + b < -2 ^ 63 → r.sum = -2 ^ 63 ∧ r.ovf = true) ∧
    (2 ^ 63 ≤ a + b → r.sum = 2 ^ 63 - 1 ∧ r.ovf = true) ∧
    (r.inexact = true ↔ p.inexact = true ∨ q.inexact = true ∨ p.sum % 2 ^ (e - p.exp).toNat ≠ 0 ∨ q.sum % 2 ^ (e - q.exp).toNat ≠ 0) := by
  intro e a b r
  have hr : r = _ := addPartials_eq hp hq
  have ho : outside64 (a + b) = true ↔ a + b < -2 ^ 63 ∨ 2 ^ 63 ≤ a + b := by
    simp only [outside64, Bool.or_eq_true, decide_eq_true_eq]
  rw [hr]
  refine ⟨rfl, fun h1 h2 => ?_, fun h => ?_, fun h => ?_, ?_⟩
  · have hn : outside64 (a + b) = false := by
      rw [← Bool.not_eq_true, ho]
      omega
    exact ⟨if_neg (by rw [hn]; exact Bool.false_ne_true), hn⟩
  · have hn : outside64 (a + b) = true := ho.2 (.inl h)
    exact ⟨(if_pos hn).trans (if_pos (show a + b < 0 by omega)), hn⟩
  · have hn : outside64 (a + b) = true := ho.2 (.inr h)
    exact ⟨(if_pos hn).trans (if_neg (show ¬a + b < 0 by omega)), hn⟩
  · simp only [Bool.or_eq_true, decide_eq_true_eq]
    tauto

end partials

theorem confluenceForms : Says.ConfluenceForms :=
  ⟨declaresQueue, pushesRecord, popsRecord, readsStatus, exec_rdxadd, fun _ _ hp hq => addsPartials hp hq⟩

end Sys2Proof.Machine
end

section
/-! SUPPORT. A Confluence slice (R85 to R93, R336, R337): its records and queues, declarations, pushes, pops and the selection. -/

namespace Sys2Proof.Machine
open Sys2Proof

/-! ## Records and queues (R87, R88) -/

theorem Cluster.mem_queue {k : Cluster} {id : Nat} {r : ConfRec} : r ∈ k.queue id ↔ (∃ n, (n, r) ∈ k.conf) ∧ r.qid = id := by
  simp only [Cluster.queue, List.mem_map, List.mem_filter, beq_iff_eq]
  constructor
  · rintro ⟨⟨n, q⟩, ⟨hm, hq⟩, rfl⟩
    exact ⟨⟨n, hm⟩, hq⟩
  · rintro ⟨⟨n, hm⟩, hq⟩
    exact ⟨(n, r), ⟨hm, hq⟩, rfl⟩

theorem Cluster.mem_queue_putRec_self {k : Cluster} {r : ConfRec} : r ∈ (k.putRec r).queue r.qid :=
  Cluster.mem_queue.2 ⟨⟨r.ord, (Sp.mem_place _ _ _ _).2 (.inl rfl)⟩, rfl⟩

/-- What stands in a queue once a record is written is that record, or stood there before. -/
theorem Cluster.of_mem_queue_putRec {k : Cluster} {r q : ConfRec} {id : Nat} (h : q ∈ (k.putRec r).queue id) : q = r ∨ q ∈ k.queue id := by
  obtain ⟨⟨n, hm⟩, hq⟩ := Cluster.mem_queue.1 h
  rcases (Sp.mem_place _ _ _ _).1 hm with he | hm
  · exact .inl (congrArg Prod.snd he)
  · exact .inr (Cluster.mem_queue.2 ⟨⟨n, ((Sp.mem_erase _ _ _).1 hm).1⟩, hq⟩)

theorem Cluster.putRec_putRec (k : Cluster) (r : ConfRec) : (k.putRec r).putRec r = k.putRec r := by
  rw [Cluster.putRec, Cluster.putRec, Sp.put_put]

theorem Cluster.updQueue_confQueue (k : Cluster) (id : Nat) (f : ConfQueue → ConfQueue) : (k.updQueue id f).confQueue id = f (k.confQueue id) :=
  Sp.get_put_self _ _ _ _

theorem Cluster.updQueue_queue (k : Cluster) (id : Nat) (f : ConfQueue → ConfQueue) (j : Nat) : (k.updQueue id f).queue j = k.queue j := rfl

/-! ## Declarations (R85) -/

theorem arrivesDeclaration (s : State) : let c := s.cur / 64; let id := s.cur % 64; ∃ (t : State), exec .cqDeclarationArrival s = .next t ∧
    ((t.cluster c).confQueue id).gen = (s.data.headD 0).setWidth 16 ∧ ((t.cluster c).confQueue id).head = 0 ∧
    ((t.cluster c).confQueue id).tail = 0 ∧ (t.cluster c).queue id = [] ∧ (t.cluster c).held = [] ∧
    t.agenda = s.agenda ++ (s.cluster c).held ∧ t.slots = s.slots ∧ t.mem = s.mem := by
  intro c id
  have hc := State.setCluster_cluster_self s c { s.cluster c with
    confq := Sp.put (s.cluster c).confq id { Sp.get {} (s.cluster c).confq id with gen := (s.data.headD 0).setWidth 16, head := 0, tail := 0 },
    conf := (s.cluster c).conf.filter (fun r => r.2.qid != id), held := [] }
  have hq := Sp.get_put_self {} (s.cluster c).confq id
    { Sp.get {} (s.cluster c).confq id with gen := (s.data.headD 0).setWidth 16, head := 0, tail := 0 }
  refine ⟨_, rfl, ?_, ?_, ?_, ?_, congrArg Cluster.held hc, rfl, rfl, rfl⟩
  · exact (congrArg (fun k : Cluster => (k.confQueue id).gen) hc).trans (congrArg ConfQueue.gen hq)
  · exact (congrArg (fun k : Cluster => (k.confQueue id).head) hc).trans (congrArg ConfQueue.head hq)
  · exact (congrArg (fun k : Cluster => (k.confQueue id).tail) hc).trans (congrArg ConfQueue.tail hq)
  · refine (congrArg (fun k : Cluster => k.queue id) hc).trans (List.eq_nil_iff_forall_not_mem.2 fun r hr => ?_)
    obtain ⟨⟨n, hm⟩, hq⟩ := Cluster.mem_queue.1 hr
    have hne := (List.mem_filter.1 hm).2
    rw [hq] at hne
    exact absurd hne (by simp)

/-! ## Pushes (R87, R90, R93) -/

/-- A request has been delivered at an NI, unless it was before (R141). -/
def State.received (s : State) (again : W64) (ni tag : Nat) : State := if again = 0 then s.deliverTag ni tag else s

theorem State.received_eq (s : State) (again : W64) (ni tag : Nat) : s.received again ni tag = { s with nis := (s.received again ni tag).nis } := by
  unfold State.received
  split
  · exact deliverTag_eq _ _ _
  · rfl

section received
variable (s : State) (again : W64) (ni tag : Nat)
theorem State.received_cluster (c : Nat) : (s.received again ni tag).cluster c = s.cluster c := by rw [State.received_eq]; rfl
theorem State.received_part (p : Nat) : (s.received again ni tag).part p = s.part p := by rw [State.received_eq]; rfl
theorem State.received_slot (j : Nat) : (s.received again ni tag).slot j = s.slot j := by rw [State.received_eq]; rfl
theorem State.received_now : (s.received again ni tag).now = s.now := by rw [State.received_eq]
theorem State.received_ticket : (s.received again ni tag).ticket = s.ticket := by rw [State.received_eq]
theorem State.received_agenda : (s.received again ni tag).agenda = s.agenda := by rw [State.received_eq]
theorem State.received_slots : (s.received again ni tag).slots = s.slots := by rw [State.received_eq]
theorem State.received_mem : (s.received again ni tag).mem = s.mem := by rw [State.received_eq]
theorem State.received_decl (p : Nat) (h : W64) : currentDecl (s.received again ni tag) p h = currentDecl s p h := by
  unfold currentDecl
  rw [State.received_part]
end received

theorem answerFrom_cluster (s : State) (c part slot : Nat) (gen : BitVec 32) (tag : Nat) (v : V512) (n : Nat) :
    (answerFrom s c part slot gen tag v).cluster n = s.cluster n := by
  rw [answerFrom, answerWith_eq]
  rfl

theorem answerFrom_aside (s : State) (c part slot : Nat) (gen : BitVec 32) (tag : Nat) (v : V512) :
    (answerFrom s c part slot gen tag v).slots = s.slots ∧ (answerFrom s c part slot gen tag v).mem = s.mem := by
  rw [answerFrom, answerWith_eq]
  exact ⟨rfl, rfl⟩

/-- An answer of a slice is sent for its partition. -/
theorem answerFrom_sends {s u : State} {part : Nat} (h : u.part part = s.part part) (c slot : Nat) (gen : BitVec 32) (tag : Nat) (v : V512) :
    Sends s (answerFrom u c part slot gen tag v) part { ins := .fill slot gen tag v } :=
  (answerWith_sends u _ part slot gen tag v).of_budInj (congrArg Part.budInj h)

/-- A slice has answered, and its records are as they have become. -/
theorem answerFrom_set {s u : State} {part : Nat} (h : u.part part = s.part part) (c : Nat) (k : Cluster) (slot : Nat) (gen : BitVec 32) (tag : Nat)
    (v : V512) : Sends s (answerFrom (u.setCluster c k) c part slot gen tag v) part { ins := .fill slot gen tag v } ∧
      (answerFrom (u.setCluster c k) c part slot gen tag v).cluster c = k :=
  ⟨answerFrom_sends (u := u.setCluster c k) h _ _ _ _ _, (answerFrom_cluster _ _ _ _ _ _ _ _).trans (State.setCluster_cluster_self _ _ _)⟩

/-- A record as a first arrival finds it. -/
def freshRecord (now order part id : Nat) (d : Decl) (key : W64) (corr : BitVec 32) (phase : Bool) : ConfRec :=
  { part := part, qid := id, ord := order * ordStep, born := now, key := key,
    w1 := BitVec.ofNat 64 (bits d.w3 14 0 + d.cls * 2 ^ 16 + d.pri * 2 ^ 20), level := d.level, home := d.home, count := 1, isSealed := false,
    cont := false, inexact := false, ovf := false, op := d.op, w := [0, 0, 0, 0], filled := 0, corr := corr, pool := d.pool, phase := phase }

/-- The open record of a key with which a push may combine. -/
def Cluster.openRec (k : Cluster) (id : Nat) (key : W64) : Option ConfRec := (k.queue id).find? fun r => r.key == key && !r.isSealed && !r.cont

section push
variable {k : Cluster} {now order part id : Nat} {d : Decl} {key : W64} {p : List W64} {corr : BitVec 32} {phase : Bool}

theorem openRec_none (h : d.op = 0 ∨ k.openRec id key = none) :
    (if d.op = 0 then none else (k.queue id).find? fun r => r.key == key && !r.isSealed && !r.cont) = none := by
  rcases h with h | h
  · exact if_pos h
  · exact (congrArg (fun o => if d.op = 0 then none else o) h).trans (ite_self _)

theorem pushRecord_new (h : d.op = 0 ∨ k.openRec id key = none) (hf : queueFull k id d = false) :
    pushRecord k now order part id d key p corr phase = some ((k.putRec (firstArrival d (freshRecord now order part id d key corr phase) p)).updQueue id
      fun q => { q with tail := q.tail + 1, created := q.created + 1 }, 0) := by
  unfold pushRecord
  dsimp only
  rw [openRec_none h]
  exact if_neg (by rw [hf]; exact Bool.false_ne_true)

theorem pushRecord_full (h : d.op = 0 ∨ k.openRec id key = none) (hf : queueFull k id d = true) :
    pushRecord k now order part id d key p corr phase = none := by
  unfold pushRecord
  dsimp only
  rw [openRec_none h]
  exact if_pos hf

theorem pushRecord_joins {r : ConfRec} (h0 : d.op ≠ 0) (h12 : d.op ≠ 12) (h : k.openRec id key = some r) :
    pushRecord k now order part id d key p corr phase = some ((k.putRec (combineRec d r p)).updQueue id
      fun q => { q with combined := q.combined + 1, joinedAt := now + 1 }, 1) := by
  have ho : (if d.op = 0 then none else (k.queue id).find? fun r => r.key == key && !r.isSealed && !r.cont) = some r := (if_neg h0).trans h
  unfold pushRecord
  dsimp only
  rw [ho]
  exact if_pos h12

end push

theorem firstArrival_plain {d : Decl} (h : d.op ≤ 10) (r : ConfRec) (p : List W64) : firstArrival d r p = { r with w := p, filled := 4 } := by
  unfold firstArrival
  split
  · omega
  · omega
  · omega
  · rfl

theorem combineRec_add {d : Decl} (h : d.op = 1) (r : ConfRec) (p : List W64) : combineRec d r p = { r with
    count := countUp r.count, w := List.zipWith (· + ·) r.w p, ovf := r.ovf || (List.zipWith addOverflows r.w p).any id } := by
  unfold combineRec
  rw [h]
  rfl

section arrival
variable {s : State} {slot gen tag part h key p4 p5 p6 p7 corr again : W64} {id : Nat} {d : Decl}
  (hd : s.data = [slot, gen, tag, part, h, key, p4, p5, p6, p7, corr, again]) (hc : currentDecl s part.toNat h = some (id, d))
  (hg : ((s.cluster s.cur).confQueue id).gen = d.gen)
include hd hc hg

theorem cqPushArrival_takes {k' : Cluster} {st : Nat} (hp : pushRecord (s.cluster s.cur) s.now s.ticket part.toNat id d key [p4, p5, p6, p7] (corr.setWidth 32)
      (tag.toNat % 2 == 1) = some (k', st)) : cqPushArrival s =
    answerFrom ((s.received again (s.cur * 128) tag.toNat).tick.setCluster s.cur k') s.cur part.toNat slot.toNat (gen.setWidth 32) tag.toNat
      (BitVec.ofNat 512 st) := by
  unfold cqPushArrival
  rw [hd]
  dsimp only
  rw [show (if again = 0 then s.deliverTag (s.cur * 128) tag.toNat else s) = s.received again (s.cur * 128) tag.toNat from rfl, State.received_decl, hc]
  dsimp only
  rw [State.received_cluster, if_neg (not_not_intro hg), State.received_now, State.received_ticket, hp]

theorem cqPushArrival_refuses (hp : pushRecord (s.cluster s.cur) s.now s.ticket part.toNat id d key [p4, p5, p6, p7] (corr.setWidth 32)
      (tag.toNat % 2 == 1) = none) (hpol : d.policy = 1) : cqPushArrival s =
    answerFrom ((s.received again (s.cur * 128) tag.toNat).setCluster s.cur ((s.cluster s.cur).updQueue id fun q => { q with full := q.full + 1 }))
      s.cur part.toNat slot.toNat (gen.setWidth 32) tag.toNat (BitVec.ofNat 512 2) := by
  have hl (t : Slot) : policyLimit d t = none := by rw [policyLimit, hpol]; rfl
  unfold cqPushArrival
  rw [hd]
  dsimp only
  rw [show (if again = 0 then s.deliverTag (s.cur * 128) tag.toNat else s) = s.received again (s.cur * 128) tag.toNat from rfl, State.received_decl, hc]
  dsimp only
  rw [State.received_cluster, if_neg (not_not_intro hg), State.received_now, State.received_ticket, hp]
  dsimp only
  rw [hl]
  rfl

theorem pushMakes : let c := s.cur; let k := s.cluster c; let answer (n : Nat) : Op := { ins := .fill slot.toNat (gen.setWidth 32) tag.toNat (BitVec.ofNat 512 n) }
    d.op = 0 ∨ k.openRec id key = none → d.op ≤ 10 → queueFull k id d = false → ∃ (t : State), exec .cqPushArrival s = .next t ∧ Sends s t part.toNat (answer 0) ∧
      ((t.cluster c).confQueue id).tail = (k.confQueue id).tail + 1 ∧
      ∃ r ∈ (t.cluster c).queue id, r.key = key ∧ r.count = 1 ∧ r.w = [p4, p5, p6, p7] ∧ r.isSealed = false ∧ r.part = part.toNat := by
  intro c k answer hs ho hf
  have he : exec .cqPushArrival s = .next _ := congrArg Host.Outcome.next (cqPushArrival_takes hd hc hg (pushRecord_new hs hf))
  rw [firstArrival_plain ho] at he
  obtain ⟨r, hr⟩ : ∃ r, ({ freshRecord s.now s.ticket part.toNat id d key (corr.setWidth 32) (tag.toNat % 2 == 1) with
    w := [p4, p5, p6, p7], filled := 4 } : ConfRec) = r := ⟨_, rfl⟩
  rw [hr] at he
  obtain ⟨hs, hk⟩ := answerFrom_set (s := s) (u := (s.received again (s.cur * 128) tag.toNat).tick) (State.received_part s again _ tag.toNat part.toNat) c
    ((k.putRec r).updQueue id fun q => { q with tail := q.tail + 1, created := q.created + 1 }) slot.toNat (gen.setWidth 32) tag.toNat (BitVec.ofNat 512 0)
  refine ⟨_, he, hs, ?_, r, ?_, ?_⟩
  · rw [hk, Cluster.updQueue_confQueue]
    rfl
  · rw [hk, Cluster.updQueue_queue, ← hr]
    exact Cluster.mem_queue_putRec_self
  · rw [← hr]
    exact ⟨rfl, rfl, rfl, rfl, rfl⟩

theorem pushJoins {r : ConfRec} : let c := s.cur; let k := s.cluster c; let answer (n : Nat) : Op := { ins := .fill slot.toNat (gen.setWidth 32) tag.toNat (BitVec.ofNat 512 n) }
    d.op = 1 → k.openRec id key = some r → ∃ (t : State), exec .cqPushArrival s = .next t ∧ Sends s t part.toNat (answer 1) ∧
      ∃ r' ∈ (t.cluster c).queue id, r'.key = r.key ∧ r'.ord = r.ord ∧ r'.count = Nat.min (r.count + 1) (2 ^ 32 - 1) ∧
        r'.w = List.zipWith (· + ·) r.w [p4, p5, p6, p7] := by
  intro c k answer ho hr
  have he : exec .cqPushArrival s = .next _ := congrArg Host.Outcome.next (cqPushArrival_takes hd hc hg
    (pushRecord_joins (by rw [ho]; decide) (by rw [ho]; decide) hr))
  have hq : r.qid = id := (Cluster.mem_queue.1 (List.mem_of_find?_eq_some hr)).2
  obtain ⟨r', hr'⟩ : ∃ r', combineRec d r [p4, p5, p6, p7] = r' := ⟨_, rfl⟩
  have hadd := combineRec_add ho r [p4, p5, p6, p7]
  rw [hr'] at he hadd
  obtain ⟨hs, hk⟩ := answerFrom_set (s := s) (u := (s.received again (s.cur * 128) tag.toNat).tick) (State.received_part s again _ tag.toNat part.toNat) c
    ((k.putRec r').updQueue id fun q => { q with combined := q.combined + 1, joinedAt := s.now + 1 }) slot.toNat (gen.setWidth 32) tag.toNat (BitVec.ofNat 512 1)
  refine ⟨_, he, hs, r', ?_, ?_⟩
  · rw [hk, Cluster.updQueue_queue, ← hq, show r.qid = r'.qid by rw [hadd]]
    exact Cluster.mem_queue_putRec_self
  · rw [hadd]
    exact ⟨rfl, rfl, rfl, rfl⟩

theorem pushFails : let c := s.cur; let k := s.cluster c; let answer (n : Nat) : Op := { ins := .fill slot.toNat (gen.setWidth 32) tag.toNat (BitVec.ofNat 512 n) }
    d.op = 0 ∨ k.openRec id key = none → queueFull k id d = true → d.policy = 1 → ∃ (t : State), exec .cqPushArrival s = .next t ∧ Sends s t part.toNat (answer 2) ∧
      ((t.cluster c).confQueue id).full = (k.confQueue id).full + 1 ∧ (t.cluster c).queue id = k.queue id := by
  intro c k answer hs hf hp
  have he : exec .cqPushArrival s = .next _ := congrArg Host.Outcome.next (cqPushArrival_refuses hd hc hg (pushRecord_full hs hf) hp)
  obtain ⟨hs, hk⟩ := answerFrom_set (s := s) (u := s.received again (s.cur * 128) tag.toNat) (State.received_part s again _ tag.toNat part.toNat) c
    (k.updQueue id fun q => { q with full := q.full + 1 }) slot.toNat (gen.setWidth 32) tag.toNat (BitVec.ofNat 512 2)
  refine ⟨_, he, hs, ?_, ?_⟩
  · rw [hk, Cluster.updQueue_confQueue]
  · rw [hk, Cluster.updQueue_queue]

end arrival

/-! ## Pops (R337) -/

theorem policyWait_eq (s : State) (slot : Nat) (gen : BitVec 32) (tag : Nat) (limit : Option Nat) (info : W64) :
    policyWait s slot gen tag limit info = { s with slots := (policyWait s slot gen tag limit info).slots, timers := (policyWait s slot gen tag limit info).timers } := by
  unfold policyWait
  dsimp only
  split
  · rfl
  split
  · rfl
  split
  · rfl
  split <;> rfl

/-- A record leaves a slice with its answer: a head that was not sealed is sealed first (R87, R337). -/
def Cluster.delivered (k : Cluster) (r : ConfRec) : Cluster := (if r.isSealed then k else sealChain k r).dropRec { r with isSealed := true }

/-- The answer that carries a record. -/
def popAnswer (r : ConfRec) : Nat := joinWords ([r.key.toNat] ++ r.w.map BitVec.toNat ++ [(ConfRec.header { r with isSealed := true }).toNat])

theorem deliverPop_eq (s : State) (c part : Nat) (r : ConfRec) (slot : Nat) (gen : BitVec 32) (tag : Nat) : deliverPop s c part r slot gen tag =
    answerFrom (s.setCluster c ((s.cluster c).delivered r)) c part slot gen tag (BitVec.ofNat 512 (popAnswer r)) := rfl

/-- The slot of a pop that nothing answers keeps its registers but d and g9 (R337). -/
def popEmptied (s : State) (slot : Nat) (gen : BitVec 32) (tag : Nat) : State :=
  s.updSlot slot fun t => if t.gen ≠ gen then t else
    { [4, 5, 6, 7].foldl (fun t n => t.setEmpty n false) t with
        outst := t.outst.map fun o : Outst => if o.tag = tag then { o with dests := [o.dests.headD 0, 9] } else o }

section request
variable {s : State} {slot gen tag part h again : W64} {id : Nat} {d : Decl} (hd : s.data = [slot, gen, tag, part, h, again])
  (hc : currentDecl s part.toNat h = some (id, d)) (hg : ((s.cluster s.cur).confQueue id).gen = d.gen) (hh : d.hold = true)
  (hn : ∀ p ∈ (s.cluster s.cur).pops, p.qid ≠ id)
include hd hc hg hh hn

theorem cqPopRequest_eq : cqPopRequest s = match popChoice s (s.cluster s.cur) part.toNat id with
    | some r => deliverPop (s.received again (s.cur * 128) tag.toNat) s.cur part.toNat r slot.toNat (gen.setWidth 32) tag.toNat
    | none => match policyLimit d (s.slot slot.toNat) with
      | none => answerFrom (popEmptied (s.received again (s.cur * 128) tag.toNat) slot.toNat (gen.setWidth 32) tag.toNat) s.cur part.toNat slot.toNat
          (gen.setWidth 32) tag.toNat (BitVec.ofNat 512 0)
      | some l => policyWait ((s.received again (s.cur * 128) tag.toNat).setCluster s.cur { s.cluster s.cur with pops := (s.cluster s.cur).pops ++
          [{ part := part.toNat, qid := id, slot := slot.toNat, gen := gen.setWidth 32, tag := tag.toNat, since := s.now, qgen := d.gen }] })
          slot.toNat (gen.setWidth 32) tag.toNat l (queueInfo (s.cluster s.cur) id) := by
  have hf : ((s.cluster s.cur).pops.filter fun p => p.qid == id) = [] := by
    rw [List.filter_eq_nil_iff]
    exact fun p hp => by simpa using hn p hp
  have hch : popChoice (s.received again (s.cur * 128) tag.toNat) (s.cluster s.cur) part.toNat id = popChoice s (s.cluster s.cur) part.toNat id := by
    unfold popChoice eligibleHead
    rw [State.received_part, State.received_now]
  unfold cqPopRequest
  rw [hd]
  dsimp only
  rw [show (if again = 0 then s.deliverTag (s.cur * 128) tag.toNat else s) = s.received again (s.cur * 128) tag.toNat from rfl, State.received_decl, hc]
  dsimp only
  rw [State.received_cluster, if_neg (not_not_intro hg), hh, Bool.not_true, if_neg Bool.false_ne_true, hf, if_pos rfl, hch, State.received_slot, State.received_now]
  rfl

theorem popTakes {r : ConfRec} : let c := s.cur; let k := s.cluster c
    let answer (n : Nat) : Op := { ins := .fill slot.toNat (gen.setWidth 32) tag.toNat (BitVec.ofNat 512 n) }
    popChoice s k part.toNat id = some r → ∃ (t : State), exec .cqPopRequest s = .next t ∧
      Sp.find (t.cluster c).conf r.ord = none ∧ t.mem = s.mem ∧ t.slots = s.slots ∧
      Sends s t part.toNat (answer (joinWords ([r.key.toNat] ++ r.w.map BitVec.toNat ++ [(ConfRec.header { r with isSealed := true }).toNat]))) := by
  intro c k answer hr
  have he : exec .cqPopRequest s = .next _ := congrArg Host.Outcome.next (cqPopRequest_eq hd hc hg hh hn)
  rw [hr] at he
  dsimp only at he
  rw [deliverPop_eq, State.received_cluster] at he
  obtain ⟨hs, hk⟩ := answerFrom_set (s := s) (u := s.received again (s.cur * 128) tag.toNat) (State.received_part s again _ tag.toNat part.toNat) c
    (k.delivered r) slot.toNat (gen.setWidth 32) tag.toNat (BitVec.ofNat 512 (popAnswer r))
  obtain ⟨hsl, hm⟩ := answerFrom_aside ((s.received again (s.cur * 128) tag.toNat).setCluster c (k.delivered r)) c part.toNat slot.toNat (gen.setWidth 32)
    tag.toNat (BitVec.ofNat 512 (popAnswer r))
  refine ⟨_, he, ?_, hm.trans (State.received_mem _ _ _ _), hsl.trans (State.received_slots _ _ _ _), hs⟩
  rw [hk]
  exact Sp.find_erase_self _ _

theorem popEmpty : let c := s.cur; let k := s.cluster c
    let answer (n : Nat) : Op := { ins := .fill slot.toNat (gen.setWidth 32) tag.toNat (BitVec.ofNat 512 n) }
    popChoice s k part.toNat id = none → d.policy = 1 → ∃ (t : State), exec .cqPopRequest s = .next t ∧ Sends s t part.toNat (answer 0) ∧
      (t.cluster c).conf = k.conf := by
  intro c k answer hr hp
  have hl (t : Slot) : policyLimit d t = none := by rw [policyLimit, hp]; rfl
  have he : exec .cqPopRequest s = .next _ := congrArg Host.Outcome.next (cqPopRequest_eq hd hc hg hh hn)
  rw [hr] at he
  dsimp only at he
  rw [hl] at he
  have hpart : (popEmptied (s.received again (s.cur * 128) tag.toNat) slot.toNat (gen.setWidth 32) tag.toNat).part part.toNat = s.part part.toNat :=
    State.received_part s again (s.cur * 128) tag.toNat part.toNat
  refine ⟨_, he, answerFrom_sends hpart _ _ _ _ _, ?_⟩
  rw [answerFrom_cluster]
  exact congrArg Cluster.conf (State.received_cluster s again (s.cur * 128) tag.toNat c)

theorem popParks : let c := s.cur; let k := s.cluster c
    popChoice s k part.toNat id = none → d.policy = 0 → ∃ (t : State), exec .cqPopRequest s = .next t ∧ t.agenda = s.agenda ∧
      ∃ p ∈ (t.cluster c).pops, p.qid = id ∧ p.slot = slot.toNat ∧ p.gen = gen.setWidth 32 ∧ p.tag = tag.toNat := by
  intro c k hr hp
  have hl (t : Slot) : policyLimit d t = some (some d.limit) := by rw [policyLimit, hp]; rfl
  have he : exec .cqPopRequest s = .next _ := congrArg Host.Outcome.next (cqPopRequest_eq hd hc hg hh hn)
  rw [hr] at he
  dsimp only at he
  rw [hl] at he
  dsimp only at he
  obtain ⟨y, hy⟩ : ∃ y, (s.received again (s.cur * 128) tag.toNat).setCluster s.cur { s.cluster s.cur with pops := (s.cluster s.cur).pops ++
    [{ part := part.toNat, qid := id, slot := slot.toNat, gen := gen.setWidth 32, tag := tag.toNat, since := s.now, qgen := d.gen }] } = y := ⟨_, rfl⟩
  have hya : y.agenda = s.agenda := by rw [← hy]; exact State.received_agenda _ _ _ _
  have hyc : (y.cluster c).pops = k.pops ++ [{ part := part.toNat, qid := id, slot := slot.toNat, gen := gen.setWidth 32, tag := tag.toNat, since := s.now, qgen := d.gen }] := by
    rw [← hy, State.setCluster_cluster_self]
  rw [hy] at he
  refine ⟨_, he, ?_, ⟨part.toNat, id, slot.toNat, gen.setWidth 32, tag.toNat, s.now, d.gen⟩, ?_, rfl, rfl, rfl, rfl⟩
  · rw [policyWait_eq]
    exact hya
  · rw [policyWait_eq]
    have hm : (⟨part.toNat, id, slot.toNat, gen.setWidth 32, tag.toNat, s.now, d.gen⟩ : ParkedPop) ∈ (y.cluster c).pops := by
      rw [hyc]
      exact List.mem_append_right _ (.head _)
    exact hm

end request

/-! ## The selection (R87, R89, R337) -/

theorem refusesStale (s : State) (p : ParkedPop) : let c := s.cur; let k := s.cluster c; popStale s (s.partOf c) k = some p → ∃ (t : State),
    exec .confluenceSelect s = .next t ∧ (t.cluster c).pops = k.pops.erase p ∧ (t.cluster c).conf = k.conf ∧ t.mem = s.mem ∧ t.slots = s.slots ∧
      Sends s t (s.partOf c) { ins := .refusalArrival p.slot p.gen p.tag 0x16 (queueHandle p.qid p.qgen) } := by
  intro c k hp
  obtain ⟨u, hu⟩ : ∃ u, s.setCluster c { k with pops := k.pops.erase p } = u := ⟨_, rfl⟩
  have he : exec .confluenceSelect s = .next (u.sendTag (c * 128) (s.partOf c) p.tag
      { ins := .refusalArrival p.slot p.gen p.tag 0x16 (queueHandle p.qid p.qgen) }) := by
    refine congrArg Host.Outcome.next ?_
    unfold confluenceSelect
    dsimp only
    rw [hp, ← hu]
    rfl
  have hk : u.cluster c = { k with pops := k.pops.erase p } := by rw [← hu, State.setCluster_cluster_self]
  have hq := sendTag_eq u (c * 128) (s.partOf c) p.tag { ins := .refusalArrival p.slot p.gen p.tag 0x16 (queueHandle p.qid p.qgen) }
  have hc : (u.sendTag (c * 128) (s.partOf c) p.tag { ins := .refusalArrival p.slot p.gen p.tag 0x16 (queueHandle p.qid p.qgen) }).cluster c = u.cluster c := by
    rw [hq]
    rfl
  refine ⟨_, he, ?_, ?_, ?_, ?_, (sendTag_sends u _ _ _ rfl).of_budInj ?_⟩
  · rw [hc, hk]
  · rw [hc, hk]
  · rw [hq, ← hu]
    rfl
  · rw [hq, ← hu]
    rfl
  · rw [← hu]
    rfl

/-- A record once it is sealed. -/
def ConfRec.seal (r : ConfRec) : ConfRec := { r with isSealed := true }

theorem foldl_seal {r : ConfRec} {l : List ConfRec} (h : ∀ q ∈ l, q = r) (k : Cluster) : l ≠ [] →
    l.foldl (fun k q => k.putRec { q with isSealed := true }) k = k.putRec r.seal := by
  induction l generalizing k with
  | nil => exact fun hn => absurd rfl hn
  | cons q l ih =>
    intro _
    obtain rfl : q = r := h q (.head _)
    by_cases hl : l = []
    · rw [hl]
      rfl
    · exact (ih (fun x hx => h x (.tail _ hx)) _ hl).trans (Cluster.putRec_putRec k q.seal)

/-- A chain of one record is sealed by sealing the record. -/
theorem sealChain_one {k : Cluster} {r : ConfRec} (h : ∀ q ∈ chainOf k r, q = r) (hr : Sp.find k.conf r.ord = some r) :
    ∃ f, sealChain k r = (k.putRec r.seal).updQueue r.qid f := by
  have hm : r ∈ chainOf k r := List.mem_map.2 ⟨(r.ord, r), List.mem_filter.2 ⟨Sp.mem_of_find hr, beq_self_eq_true _⟩, rfl⟩
  refine ⟨fun q => { q with head := q.head + BitVec.ofNat 16 (chainOf k r).length }, ?_⟩
  unfold sealChain
  dsimp only
  rw [foldl_seal h k (List.ne_nil_of_mem hm)]

theorem find?_of_forall_eq {α : Type} {l : List α} {p : α → Bool} {v : α} (h : ∀ x ∈ l, p x = true → x = v) (hv : v ∈ l) (hp : p v = true) : l.find? p = some v := by
  obtain ⟨x, hx⟩ := Option.isSome_iff_exists.1 (List.find?_isSome.2 ⟨v, hv, hp⟩)
  rw [hx, h x (List.mem_of_find?_eq_some hx) (List.find?_some hx)]

section sealed
variable {k : Cluster} {r : ConfRec} (f : ConfQueue → ConfQueue) (hs : k.sealedHead r.qid = none)
include hs

theorem sealedHead_self : ((k.putRec r.seal).updQueue r.qid f).sealedHead r.qid = some r.seal := by
  refine find?_of_forall_eq (fun q hq hsl => ?_) (Cluster.mem_queue_putRec_self (r := r.seal)) rfl
  rcases Cluster.of_mem_queue_putRec hq with h | h
  · exact h
  · exact absurd hsl (List.find?_eq_none.1 hs q h)

omit hs in
theorem sealedHead_other {j : Nat} (hj : j ≠ r.qid) (h : k.sealedHead j = none) : ((k.putRec r.seal).updQueue r.qid f).sealedHead j = none := by
  refine List.find?_eq_none.2 fun q hq => ?_
  rcases Cluster.of_mem_queue_putRec hq with he | hm
  · exact absurd (Cluster.mem_queue.1 hq).2 (by rw [he]; exact hj.symm)
  · exact List.find?_eq_none.1 h q hm

/-- Where a queue's record is the only one that is sealed, it goes on to the ready queue, if there is room. -/
theorem sealedTask_one {s : State} {c part : Nat} (hi : r.qid < 64) (hm : ((s.part part).decl r.qid).hold = false) (hc : r.cont = false)
    (ho : ∀ j, j < 64 → j ≠ r.qid → ((s.part part).decl j).hold = false → k.sealedHead j = none) (hr : enqueueRoom s c r.home r.level = true) :
    sealedTask s c part ((k.putRec r.seal).updQueue r.qid f) = some r.seal := by
  have hmem : r.seal ∈ (List.range 64).filterMap fun id => if ((s.part part).decl id).hold then none else ((k.putRec r.seal).updQueue r.qid f).sealedHead id := by
    refine List.mem_filterMap.2 ⟨r.qid, List.mem_range.2 hi, ?_⟩
    rw [hm]
    exact sealedHead_self f hs
  have hall : ∀ q ∈ (List.range 64).filterMap fun id => if ((s.part part).decl id).hold then none else ((k.putRec r.seal).updQueue r.qid f).sealedHead id,
      q = r.seal := by
    intro q hq
    obtain ⟨j, hj, he⟩ := List.mem_filterMap.1 hq
    cases hh : ((s.part part).decl j).hold with
    | true =>
      rw [hh] at he
      cases he
    | false =>
      rw [hh, if_neg Bool.false_ne_true] at he
      by_cases hjr : j = r.qid
      · rw [hjr, sealedHead_self f hs] at he
        exact (Option.some.inj he).symm
      · rw [sealedHead_other f hjr (ho j (List.mem_range.1 hj) hjr hh)] at he
        cases he
  unfold sealedTask
  dsimp only
  have hcont : ¬r.seal.cont = true := by
    rw [show r.seal.cont = r.cont from rfl, hc]
    exact Bool.false_ne_true
  rw [List.find?_eq_none.2 fun q hq => by rw [hall q hq]; exact hcont]
  exact find?_of_forall_eq (fun q hq _ => hall q hq) hmem hr

end sealed

/-- The heads a slice selects from, with their ids and priorities (R89). -/
def selectHeads (s : State) (part : Nat) (k : Cluster) : List (Nat × Nat × ConfRec) := (List.range 64).filterMap fun id =>
  if ((s.part part).decl id).hold || (k.sealedHead id).isSome then none else (eligibleHead s k part id).map fun r => (id, ((s.part part).decl id).pri, r)

/-- The record a slice selects is of a MODE 0 queue. -/
theorem selectQueue_mode {s : State} {part id : Nat} {k : Cluster} {r : ConfRec} (h : selectQueue s part k = some (id, r)) :
    id < 64 ∧ ((s.part part).decl id).hold = false := by
  obtain ⟨x, hx, he⟩ := Option.map_eq_some_iff.1 h
  cases he
  have hm : x ∈ (selectHeads s part k).filter fun h => h.2.1 + 1 == (selectHeads s part k).foldl (fun n h => Nat.max n (h.2.1 + 1)) 0 := by
    split at hx
    · exact List.mem_of_mem_head? hx
    · split at hx
      next hf =>
        cases hx
        exact List.mem_of_find?_eq_some hf
      next => exact List.mem_of_mem_head? hx
  obtain ⟨j, hj, hjx⟩ := List.mem_filterMap.1 (List.mem_of_mem_filter hm)
  split at hjx
  · cases hjx
  next hn =>
    obtain ⟨q, -, rfl⟩ := Option.map_eq_some_iff.1 hjx
    rw [Bool.or_eq_true, not_or, Bool.not_eq_true] at hn
    exact ⟨List.mem_range.1 hj, hn.1⟩

theorem enqueueRoom_spec {s : State} {c home : Nat} {level : W64} (h : enqueueRoom s c home level = true) :
    (s.cluster c).ready.length < 4096 ∧ ∀ l, s.liveLevel home level = some l → l.outstanding + 1 < 2 ^ 32 := by
  rw [enqueueRoom, Bool.and_eq_true, decide_eq_true_eq] at h
  refine ⟨h.1, fun l hl => ?_⟩
  have h2 := h.2
  rw [hl] at h2
  simpa using h2

/-- A cluster whose slice has selected in a cycle. -/
def Cluster.selects (k : Cluster) (pri id now : Nat) : Cluster := { k with lastSel := Sp.put k.lastSel pri id, selected := now + 1 }

section select
variable {s : State} {id : Nat} {r : ConfRec}

/-- A slice that has nothing else to do seals the record it selects and, with room, dispatches it. -/
theorem confluenceSelect_dispatches (h1 : popStale s (s.partOf s.cur) (s.cluster s.cur) = none) (h2 : popReady s (s.partOf s.cur) (s.cluster s.cur) = none)
    (h3 : sealedTask s s.cur (s.partOf s.cur) (s.cluster s.cur) = none) (h4 : (s.cluster s.cur).selected ≠ s.now + 1)
    (h5 : selectQueue s (s.partOf s.cur) (s.cluster s.cur) = some (id, r)) {k : Cluster}
    (hk : sealChain ((s.cluster s.cur).selects ((s.part (s.partOf s.cur)).decl id).pri id s.now) r = k)
    (h6 : sealedTask (s.setCluster s.cur k) s.cur (s.partOf s.cur) k = some r.seal) :
    confluenceSelect s = dispatchSealed (s.setCluster s.cur k) s.cur (s.partOf s.cur) r.seal := by
  unfold confluenceSelect
  dsimp only
  rw [h1]
  dsimp only
  rw [h2]
  dsimp only
  rw [h3]
  dsimp only
  rw [if_neg h4, h5]
  dsimp only
  rw [show sealChain { s.cluster s.cur with lastSel := Sp.put (s.cluster s.cur).lastSel ((s.part (s.partOf s.cur)).decl id).pri id, selected := s.now + 1 } r = k from hk,
    h6]
  exact if_pos rfl

theorem dispatchSealed_eq {c part : Nat} (hr : enqueueRoom s c r.home r.level = true) : dispatchSealed s c part r =
    let u := s.updCluster c fun k => k.dropRec r
    (launchCounts u (dispatchRecord ((s.part part).decl r.qid) r)).enqueued c (readyEntry u c (dispatchRecord ((s.part part).decl r.qid) r)) := by
  obtain ⟨hlen, hl⟩ := enqueueRoom_spec hr
  refine recordEnqueue_eq ?_ fun l h => hl l h
  rw [State.updCluster_cluster_self]
  exact hlen

theorem dispatchesSelected : let c := s.cur; let part := s.partOf c; let k := s.cluster c
    popStale s part k = none → popReady s part k = none → sealedTask s c part k = none → k.selected ≠ s.now + 1 → r.isSealed = false → r.cont = false →
    (∀ q ∈ chainOf k r, q = r) → Sp.find k.conf r.ord = some r → (k.queue id).find? (fun q => q.isSealed) = none → r.qid = id →
    (∀ j, j < 64 → j ≠ id → ((s.part part).decl j).hold = false → k.sealedHead j = none) →
    selectQueue s part (s.cluster c) = some (id, r) → enqueueRoom s c r.home r.level = true → ∃ (t : State) (e : ReadyRec), exec .confluenceSelect s = .next t ∧
      (t.cluster c).ready = (s.cluster c).ready ++ [e] ∧ e.body.pc = r.w1.setWidth 15 ∧ e.body.args = r.w ∧ e.body.key = r.key ∧
      e.body.level = r.level ∧ e.body.source = 1 ∧ Sp.find (t.cluster c).conf r.ord = none ∧ t.mem = s.mem ∧ t.slots = s.slots ∧
      (∀ l, s.liveLevel r.home r.level = some l → (t.liveLevel r.home r.level).map Level.outstanding = some (l.outstanding + 1)) := by
  intro c part k h1 h2 h3 h4 _ hc hch hf hs hi ho h5 hr
  subst hi
  obtain ⟨hid, hm⟩ := selectQueue_mode h5
  obtain ⟨f, hk⟩ := sealChain_one (k := k.selects ((s.part part).decl r.qid).pri r.qid s.now) hch hf
  obtain ⟨k2, hk2⟩ : ∃ k2, ((k.selects ((s.part part).decl r.qid).pri r.qid s.now).putRec r.seal).updQueue r.qid f = k2 := ⟨_, rfl⟩
  have hready : k2.ready = k.ready := by rw [← hk2]; rfl
  have hroom : enqueueRoom (s.setCluster c k2) c r.home r.level = true := by
    rw [enqueueRoom, State.setCluster_cluster_self, hready]
    exact hr
  have htask : sealedTask (s.setCluster c k2) c part k2 = some r.seal := by
    rw [← hk2]
    exact sealedTask_one f hs hid hm hc ho (by rw [hk2]; exact hroom)
  have he : exec .confluenceSelect s = .next _ := congrArg Host.Outcome.next
    ((confluenceSelect_dispatches h1 h2 h3 h4 h5 (hk.trans hk2) htask).trans (dispatchSealed_eq (r := r.seal) hroom))
  dsimp only at he
  obtain ⟨u, hu⟩ : ∃ u, (s.setCluster c k2).updCluster c (fun k => k.dropRec r.seal) = u := ⟨_, rfl⟩
  obtain ⟨x, hx⟩ : ∃ x, dispatchRecord (((s.setCluster c k2).part part).decl r.seal.qid) r.seal = x := ⟨_, rfl⟩
  have huc : u.cluster c = k2.dropRec r.seal := by rw [← hu, State.updCluster_cluster_self, State.setCluster_cluster_self]
  have hlv := levelsOnly_launchCounts u x
  have hlc : (launchCounts u x).cluster c = u.cluster c := by rw [hlv]; rfl
  have hcl : ((launchCounts u x).enqueued c (readyEntry u c x)).cluster c = { u.cluster c with ready := (u.cluster c).ready ++ [readyEntry u c x] } := by
    rw [← hlc]
    exact State.updCluster_cluster_self _ _ fun k => { k with ready := k.ready ++ [readyEntry u c x] }
  rw [hu, hx] at he
  refine ⟨_, readyEntry u c x, he, ?_, ?_, ?_, ?_, ?_, ?_, ?_, ?_, ?_, fun l hl => ?_⟩
  · rw [hcl, huc]
    exact congrArg (· ++ [readyEntry u c x]) hready
  · rw [← hx]; rfl
  · rw [← hx]; rfl
  · rw [← hx]; rfl
  · rw [← hx]; rfl
  · rw [← hx]; rfl
  · rw [hcl, huc]
    exact Sp.find_erase_self _ _
  · have h : (launchCounts u x).mem = s.mem := by rw [hlv, ← hu]; rfl
    exact h
  · have h : (launchCounts u x).slots = s.slots := by rw [hlv, ← hu]; rfl
    exact h
  · have hsrc : x.source = 1 ∧ x.home = r.home ∧ x.level = r.level := by rw [← hx]; exact ⟨rfl, rfl, rfl⟩
    have hlu : u.liveLevel x.home x.level = some l := by
      rw [← hu, hsrc.2.1, hsrc.2.2]
      exact hl
    have hout := launchCounts_outstanding hlu
    rw [if_pos (.inl hsrc.1), hsrc.2.1, hsrc.2.2] at hout
    exact hout

end select

theorem confluenceEvents : Says.ConfluenceEvents := by
  refine ⟨arrivesDeclaration, fun s slot gen tag part h key p4 p5 p6 p7 corr again id d hd hc => ?_, fun s => ⟨_, rfl, rfl⟩,
    fun s slot gen tag part h again id d hd hc => ?_, refusesStale, fun s id r => dispatchesSelected⟩
  · intro c k answer hg same
    exact ⟨pushMakes hd hc hg, fun r => pushJoins hd hc hg, pushFails hd hc hg⟩
  · intro c k hg hh hn answer
    exact ⟨fun r hr _ => popTakes hd hc hg hh hn hr, popEmpty hd hc hg hh hn, popParks hd hc hg hh hn⟩

/-- Settles O36: the forms by what they ask, the slice by what each request and the selection do to its records. -/
theorem confluenceRules : Obligations.ConfluenceRules := ⟨confluenceForms, confluenceEvents⟩

end Sys2Proof.Machine
end
